-- ==== Sys2Proof/Word.lean ====
section
/-! DEFINITION. The words of the Bilord B4: bit vectors for what the manual treats as bits (00 R8). -/
namespace Sys2Proof

/-- A 32-bit word: scalar registers, vector lanes, net words (02 R44, R51). -/
abbrev Word := BitVec 32

/-- One byte. -/
abbrev Byte := BitVec 8

/-- A 64-bit word: chimes, 64-bit registers (11 R266). -/
abbrev Dword := BitVec 64

/-- A 2,048-bit word: a vector register, a wide row, a vector-net word (02 R51). -/
abbrev Row := BitVec 2048

/-- Two to the power n. -/
abbrev pow2 (n : Nat) : Nat := 2 ^ n

end Sys2Proof
end

