-- ==== Sys2Proof/Syntax.lean ====
section
/-! DEFINITION. The commands of the Bilord B4: one constructor per row of the table of operations and events, with its
operands (log entry 6: the table gives no encoding, so the operands are what the row's rule names). -/
namespace Sys2Proof

/-- A physical tile (01 R20): cluster, column, row. -/
structure TileId where
  c : Fin 16
  x : Fin 16
  y : Fin 17
  deriving DecidableEq, Repr

/-- Who accesses a register (11 R251, R252): a physical function, a virtual function 1-16, or the management network. -/
inductive Fn where
  | pf (port : Fin 4)
  | vf (port : Fin 4) (v : Fin 17)
  | net
  deriving DecidableEq, Repr

/-- The integer ALU operations of 02 R47. -/
inductive AluOp where
  | add | sub | and | or | xor | sll | srl | sra | slt | sltu | mov
  deriving DecidableEq, Repr

/-- A second source of a scalar instruction: a register or an immediate. -/
inductive Src where
  | reg (r : Fin 32)
  | imm (v : Word)
  deriving DecidableEq, Repr

/-- The branch conditions of 02 R47, with the counter loop and a test of the ACCEPT flag (R49). -/
inductive BrOp where
  | always | eq | ne | lt | ge | ltu | geu | loop | accept
  deriving DecidableEq, Repr

/-- Which half of a product, signed or unsigned (02 R47). -/
inductive MulOp where
  | low | highS | highU
  deriving DecidableEq, Repr

/-- Divide or remainder, signed or unsigned (02 R47). -/
inductive DivOp where
  | divS | divU | remS | remU
  deriving DecidableEq, Repr

/-- An access size in bytes. -/
inductive Size where
  | b1 | b2 | b4 | b8
  deriving DecidableEq, Repr

/-- The four directions of the static nets (04 R97). -/
inductive Dir where
  | n | e | s | w
  deriving DecidableEq, Repr

/-- A scalar-core access to a static net port (02 R47, 04 R102). -/
inductive PortAccess where
  | readScalar (d : Dir) (rd : Fin 32)
  | writeScalar (d : Dir) (rs : Fin 32)
  | readControl (d : Dir) (rd : Fin 32)
  | writeControl (d : Dir) (rs : Fin 32)
  deriving DecidableEq, Repr

/-- The lane operations of the vector unit (02 R53-R55, 12 R293). -/
inductive VOp where
  | fadd | fsub | fmul | ffma
  | iadd | isub | imul | shl | shr | sar | vand | vor | vxor
  | cmpEq | cmpLt | cmpLtu
  | vmin | vmax | vminu | vmaxu
  | i2f | f2i
  | mov
  | exp2 | recip | rsqrt | log2
  | vrand
  deriving DecidableEq, Repr

/-- A vector operand (02 R51). -/
inductive VSrc where
  | none
  | vreg (v : Fin 16)
  | wide (bank : Fin 12) (row : Fin 128)
  | netW
  | netN
  deriving DecidableEq, Repr

/-- A vector destination (02 R51). -/
inductive VDst where
  | vreg (v : Fin 16)
  | wide (bank : Fin 12) (row : Fin 128)
  | netE
  | netS
  deriving DecidableEq, Repr

/-- A vector instruction (02 R52): operation, operands, repeat count, register stride and row stride; for VRAND the
stream number and the value of sN at issue (12 R293). -/
structure VInstr where
  op : VOp
  dst : VDst
  a : VSrc
  b : VSrc
  c : VSrc
  rep : Nat
  regStride : Nat
  rowStride : Nat
  stream : Word
  fmt : Bool
  deriving DecidableEq, Repr

/-- What the wide read port of a tile is used for in one cycle (02 R57, R58, 04 R100). -/
inductive RdUse where
  | none
  | plane
  | consts (i : Fin 4)
  | net
  deriving DecidableEq, Repr

/-- What ECC finds on an access (07 R178). -/
inductive Ecc where
  | clean | single | uncorrectable
  deriving DecidableEq, Repr

/-- What one tile's wide ports do in one RUN cycle, and what ECC finds in the wide read (07 R178); the image gives their rows in a form the manual does not state
(log entry 7). -/
structure TileAct where
  pos : Nat
  rdUse : RdUse
  rdBank : Fin 12
  rdRow : Fin 128
  wrBank : Fin 12
  wrRow : Fin 128
  swapPlane : Bool
  ecc : Ecc
  deriving DecidableEq, Repr

/-- One cycle of a tile's vector unit (02 R51, R52, R57): the wide row of the west-edge feed of the cycle, and what ECC finds in what
it reads (07 R178). -/
structure VecCycle where
  tile : TileId
  bank : Fin 12
  row : Fin 128
  ecc : Ecc
  deriving DecidableEq, Repr

/-- An element of a stream (06 R146), by number, and the other requesters that stand at the slices it reaches (07 R169): slice and
requester. -/
structure ElemTurn where
  elem : Nat
  rivals : List (Fin 64 × Fin 276)
  deriving DecidableEq, Repr

/-- The data and check bytes that a reader receives for a granule (07 R177). -/
structure Checked where
  data : BitVec 256
  chk : BitVec 16
  deriving DecidableEq, Repr

/-- A granule that a reader receives (07 R177): its DPA, and what came. -/
structure GranuleRead where
  dpa : Nat
  got : Checked
  deriving DecidableEq, Repr

/-- What a PCIe host answers to a Translation Request (08 R195, R196): the translated address of a range of 2^(12 + size) bytes and whether
it grants writes, or no access. -/
inductive AtsResult where
  | translated (hpa : Nat) (size : Fin 19) (write : Bool)
  | fault
  deriving DecidableEq, Repr

/-- A PRG response code (08 R196). -/
inductive PrgCode where
  | success | invalid | failure
  deriving DecidableEq, Repr

/-- A PRG response (08 R195, R196): the PASID it carries, and its code. -/
structure PrgAnswer where
  pasid : Option Nat
  code : PrgCode
  deriving DecidableEq, Repr

/-- The sequence fields of a belfry message that answers one (20 R458): its own SEQ, and the REF of what it answers. -/
structure SeqRef where
  seq : Nat
  ref : Nat
  deriving DecidableEq, Repr

/-- An agent that translates (08 R187, R192). -/
inductive XAgent where
  | engine (e : Fin 4) (d : Fin 16)
  | battery (b : Fin 64)
  | queue (x : Fin 4)
  | message
  | ring
  | bar2 (port : Fin 4) (w : Fin 16)
  | firmware
  deriving DecidableEq, Repr

/-- A unit that can be muffled, retested or tested (15 R345, 13 R318): its kind code and index as the ledger names them. -/
structure UnitId where
  kind : Nat
  index : Nat
  deriving DecidableEq, Repr

/-- Who issues an order (11 R277): a function, the belfry, or Theldo. -/
inductive Issuer where
  | fn (f : Fn)
  | belfry
  | theldo
  | modRst
  deriving DecidableEq, Repr

/-- What makes Theldo order the next level (15 R360). -/
inductive EscTrigger where
  | contextReset (p : Fin 16) (k : Fin 64)
  | hang (c : Fin 16)
  | partitionReset (p : Fin 16)
  | noRoute
  | chipReset
  | noCluster
  deriving DecidableEq, Repr

/-- A request packet that an agent outside the modelled ones injects (10 R234, R242): where it enters, its destination, a cluster or a
chiplet with a unit (a physical slice 0-65 of a cluster; HBM channel g as g and far-tier channel f as 192 + f of a chiplet; higher for any
other), its class and data bytes, and the partition that owns the traffic with the context if one is named; its key and its route epoch are
the hardware's. `taddr` is the tile, or the descriptor of a stream engine. -/
structure Inject where
  node : Fin 24
  inPort : Fin 8
  dest : Fin 24
  unit_ : Nat
  cls : Nat
  bytes : Nat
  srcPart : Option (Fin 16)
  srcCtx : Option (Fin 64)
  agent : Fin 8
  taddr : Nat
  deriving DecidableEq, Repr

/-- The commands: one constructor per row of the table of operations and events, in its order. -/
inductive Instr where
  /-- REGISTER_WRITE (R12). -/
  | registerWrite (fn : Fn) (off : Nat) (size : Size) (val : Dword)
  /-- BAR0_IRREGULAR_ACCESS (R10). -/
  | bar0IrregularAccess (fn : Fn) (off len : Nat) (write : Bool) (val : Dword)
  /-- LOW_HALF_READ (R11). -/
  | lowHalfRead (fn : Fn) (off : Nat)
  /-- ACLK_STEP (R37). -/
  | aclkStep (c : Fin 16) (up : Bool)
  /-- INTEGER_ALU (R47). -/
  | integerAlu (t : TileId) (th : Fin 4) (op : AluOp) (rd rs : Fin 32) (src : Src)
  /-- BRANCH (R47). -/
  | branch (t : TileId) (th : Fin 4) (op : BrOp) (rs1 rs2 : Fin 32) (target : Nat)
  /-- MULTIPLY (R47). -/
  | multiply (t : TileId) (th : Fin 4) (op : MulOp) (rd rs1 rs2 : Fin 32)
  /-- DIVIDE (R47). -/
  | divide (t : TileId) (th : Fin 4) (op : DivOp) (rd rs1 rs2 : Fin 32)
  /-- NARROW_LOAD (R47). -/
  | narrowLoad (t : TileId) (th : Fin 4) (size : Size) (signed : Bool) (rd rs : Fin 32) (off : Word) (ecc : Ecc)
  /-- NARROW_STORE (R47). -/
  | narrowStore (t : TileId) (th : Fin 4) (size : Size) (rs rb : Fin 32) (off : Word)
  /-- STATIC_NET_PORT (R47). -/
  | staticNetPort (t : TileId) (th : Fin 4) (acc : PortAccess)
  /-- VECTOR_ISSUE (R52). -/
  | vectorIssue (t : TileId) (th : Fin 4) (vi : VInstr)
  /-- VECTOR_INSTRUCTION (R52). -/
  | vectorInstruction (v : VecCycle)
  /-- SPECIAL_FUNCTION (R54). -/
  | specialFunction (v : VecCycle)
  /-- CLUSTER_MEMORY_LOAD (R48). -/
  | clusterMemoryLoad (t : TileId) (th : Fin 4) (landing : Fin 8) (size : Size) (va : Nat)
  /-- LANDING_REGISTER_FILL (R48). -/
  | landingRegisterFill (t : TileId) (th : Fin 4) (landing : Fin 8)
  /-- USE_INSTRUCTION (R48). -/
  | useInstruction (t : TileId) (th : Fin 4) (landing : Fin 8) (rd : Fin 32)
  /-- CLUSTER_MEMORY_STORE (R48). -/
  | clusterMemoryStore (t : TileId) (th : Fin 4) (size : Size) (va : Nat) (rs : Fin 32)
  /-- FENCE_SC (R48). -/
  | fenceSc (t : TileId) (th : Fin 4)
  /-- SEND (R211). -/
  | send (t : TileId) (th : Fin 4) (chan : Fin 16) (sB : Fin 32)
  /-- RECV (R216). -/
  | recv (t : TileId) (th : Fin 4) (q : Fin 16) (sB : Fin 32)
  /-- QCOUNT (R216). -/
  | qcount (t : TileId) (th : Fin 4) (q : Fin 16) (sD : Fin 32)
  /-- CPOP (R213). -/
  | cpop (t : TileId) (th : Fin 4) (sB : Fin 32)
  /-- CQARM (R220). -/
  | cqarm (t : TileId) (th : Fin 4) (q : Fin 32)
  /-- WAITC (R124). -/
  | waitc (t : TileId) (th : Fin 4) (sN : Fin 32)
  /-- WAITC_COMPLETE (R124). -/
  | waitcComplete (t : TileId) (th : Fin 4)
  /-- VRAND (R293). -/
  | vrand (t : TileId)
  /-- SRAND (R293). -/
  | srand (t : TileId) (th : Fin 4) (sD sN : Fin 32)
  /-- LANDING_FILL (R62). -/
  | landingFill (t : TileId)
  /-- LANDING_ENTRY_ARRIVAL (R62). -/
  | landingEntryArrival (t : TileId) (c : Fin 16) (e : Fin 4) (d : Fin 16)
  /-- TILE_CLEAR_COMPLETE (R65). -/
  | tileClearComplete (t : TileId)
  /-- SWITCH_ENTRY_END (R101). -/
  | switchEntryEnd (t : TileId)
  /-- PADDING_END (R121). -/
  | paddingEnd (t : TileId)
  /-- SEC_LOAD (R104). -/
  | secLoad (p : Fin 16) (k : Fin 64)
  /-- LOADED (R103). -/
  | loaded (c : Fin 16) (b : Fin 64)
  /-- SEC_RUN (R105). -/
  | secRun (p : Fin 16) (k : Fin 64)
  /-- LOCK_GRANT (R107). -/
  | lockGrant (c : Fin 16) (b : Fin 64)
  /-- RUN_START (R106). -/
  | runStart (c : Fin 16) (b : Fin 64)
  /-- TAKE (R149). -/
  | take (c : Fin 16) (b : Fin 64) (binding : Fin 8)
  /-- RUN_END (R108). -/
  | runEnd (c : Fin 16) (b : Fin 64)
  /-- COMMIT (R110). -/
  | commit (c : Fin 16) (b : Fin 64)
  /-- SEC_CHAIN (R159). -/
  | secChain (p : Fin 16) (k : Fin 64)
  /-- HANDOVER_ALLOCATE (R159). -/
  | handoverAllocate (c : Fin 16) (b : Fin 64)
  /-- HO_RELEASE (R160). -/
  | hoRelease (c : Fin 16) (e : Fin 4) (d : Fin 16)
  /-- DVFS_PERIOD (R133). -/
  | dvfsPeriod (c : Fin 16) (draw waitShare : Nat)
  /-- STREAM (R137). -/
  | stream (p : Fin 16) (k : Fin 64)
  /-- STREAM_REARM (R157). -/
  | streamRearm (p : Fin 16) (k : Fin 64)
  /-- ENGINE_SLOT_GRANT (R138). -/
  | engineSlotGrant (c : Fin 16) (e : Fin 4)
  /-- ELEMENT_TRANSLATED (R146). -/
  | elementTranslated (c : Fin 16) (e : Fin 4) (d : Fin 16) (turn : ElemTurn)
  /-- ELEMENT_COMPLETE (R147). -/
  | elementComplete (c : Fin 16) (e : Fin 4) (d : Fin 16) (turn : ElemTurn)
  /-- REWIND_RESUME (R152). -/
  | rewindResume (c : Fin 16) (e : Fin 4) (d : Fin 16)
  /-- SLICE_ACCESS (R180): entry n of a tile's crossbar port, or a read of the line at DPA n by another agent. -/
  | sliceAccess (who : Option TileId) (n : Nat) (ecc : Ecc) (rivals : List (Fin 276))
  /-- STREAM_CACHE_FILL (R171). -/
  | streamCacheFill (c : Fin 16) (dpa : Nat) (ecc : Ecc)
  /-- ZERO_FILL (R176). -/
  | zeroFill (c : Fin 16) (walk : Nat)
  /-- FRAME_FREE (R176). -/
  | frameFree (fn : Fn) (p : Fin 16) (val : Dword)
  /-- FRAME_RELEASE (R176). -/
  | frameRelease (p : Fin 16)
  /-- CHECK_BYTE_MISMATCH (R178). -/
  | checkByteMismatch (c : Fin 16) (read : GranuleRead)
  /-- CHECK_BYTE_RETRY (R178). -/
  | checkByteRetry (c : Fin 16) (dpa : Nat) (got : Checked)
  /-- SLICE_FAILURE (R174). -/
  | sliceFailure (c : Fin 16) (phys : Nat)
  /-- MIRROR_REBUILD_COMPLETE (R174). -/
  | mirrorRebuildComplete (c : Fin 16) (phys : Nat)
  /-- RESIDENT_LOST_WALK (R364). -/
  | residentLostWalk (p : Fin 16) (k : Fin 64)
  /-- TRANSLATION_REQUEST (R190). -/
  | translationRequest (c : Fin 16) (agent : XAgent) (p : Fin 16) (k : Fin 64) (va : Nat) (write : Bool)
  /-- TABLE_READ (R188). -/
  | tableRead (c : Fin 16) (walk : Nat)
  /-- XLAT_INVALIDATE (R191). -/
  | xlatInvalidate (fn : Fn) (p : Fin 16) (val : Dword)
  /-- XLAT_INVALIDATE_COMPLETE (R191). -/
  | xlatInvalidateComplete (p : Fin 16)
  /-- ATS_TRANSLATION_COMPLETION (R196). -/
  | atsTranslationCompletion (port : Fin 4) (idx : Nat) (res : AtsResult)
  /-- PRG_INDEX_GRANT (R196). -/
  | prgIndexGrant (port : Fin 4)
  /-- PRG_RESPONSE (R196). -/
  | prgResponse (port : Fin 4) (idx : Nat) (answer : PrgAnswer)
  /-- PRG_TIMEOUT (R196). -/
  | prgTimeout (port : Fin 4) (idx : Nat)
  /-- ATS_INVALIDATE_REQUEST (R197). -/
  | atsInvalidateRequest (port : Fin 4) (pasid : Option Nat) (va len : Nat)
  /-- ATS_INVALIDATE_COMPLETION (R197). -/
  | atsInvalidateCompletion (port : Fin 4) (idx : Nat)
  /-- RESUME_RECORD_WRITE (R198). -/
  | resumeRecordWrite (c : Fin 16) (e : Fin 4) (d : Fin 16)
  /-- STREAM_RESUME (R201). -/
  | streamResume (fn : Fn) (p : Fin 16) (val : Dword)
  /-- DESCRIPTOR_ARRIVAL (R215). -/
  | descriptorArrival (id : Nat)
  /-- PUT_PERFORMED (R215). -/
  | putPerformed (id : Nat)
  /-- ACKNOWLEDGEMENT (R212). -/
  | acknowledgement (id : Nat)
  /-- OPEN_QUEUE (R208). -/
  | openQueue (fn : Fn) (c : Fin 16) (val : Dword)
  /-- CLOSE_QUEUE (R207). -/
  | closeQueue (fn : Fn) (c : Fin 16) (val : Dword)
  /-- FLUSH_QUEUE (R218). -/
  | flushQueue (fn : Fn) (c : Fin 16) (val : Dword)
  /-- OPEN_CHANNEL (R208). -/
  | openChannel (fn : Fn) (c : Fin 16) (val : Dword)
  /-- CLOSE_CHANNEL (R208). -/
  | closeChannel (fn : Fn) (c : Fin 16) (val : Dword)
  /-- OPEN_COMBINING_QUEUE (R219). -/
  | openCombiningQueue (fn : Fn) (c : Fin 16) (val : Dword)
  /-- CLOSE_COMBINING_QUEUE (R207). -/
  | closeCombiningQueue (fn : Fn) (c : Fin 16) (val : Dword)
  /-- ARM_COMBINING_QUEUE (R220). -/
  | armCombiningQueue (fn : Fn) (c : Fin 16) (val : Dword)
  /-- COMBINE (R221). -/
  | combine (id : Nat)
  /-- STRICT_SUMMATION_DONE (R222). -/
  | strictSummationDone (c : Fin 16) (q : Fin 32)
  /-- CARILLON_ENTRY (R223). -/
  | carillonEntry (c : Fin 16) (bySched forced : Bool)
  /-- CARILLON_ENTERED (R223). -/
  | carillonEntered (c : Fin 16)
  /-- CARILLON_TIMEOUT (R223). -/
  | carillonTimeout (c : Fin 16)
  /-- CARILLON_EXIT (R223). -/
  | carillonExit (c : Fin 16) (bySched : Bool)
  /-- PEAL (R224). -/
  | peal (c : Fin 16) (bySched : Bool) (targets kind toff dpa len : Nat)
  /-- PEAL_COMPLETION (R226). -/
  | pealCompletion (id : Nat)
  /-- PACKET_ROUTE (R237). -/
  | packetRoute (id : Nat) (inj : Option Inject)
  /-- CREDIT_RETURN (R235). -/
  | creditReturn (node : Fin 24) (port : Fin 8) (cls chan : Nat)
  /-- FLIT_RESEND (R315). -/
  | flitResend (node : Fin 16) (port : Fin 4) (link : Fin 68)
  /-- ROUTE_INSTALL (R246). -/
  | routeInstall (c : Fin 16)
  /-- EPOCH_FLIP (R245). -/
  | epochFlip
  /-- DOORBELL (R258). -/
  | doorbell (fn : Fn) (p : Fin 16) (k : Fin 64) (x : Fin 4) (tail : Word)
  /-- CQ_HEAD_WRITE (R262). -/
  | cqHeadWrite (fn : Fn) (p : Fin 16) (k : Fin 64) (head : Word)
  /-- RECORD_FETCH (R260). -/
  | recordFetch (p : Fin 16) (k : Fin 64) (x : Fin 4)
  /-- COMPLETION_ENTRY_WRITE (R262). -/
  | completionEntryWrite (p : Fin 16) (k : Fin 64)
  /-- NOP (R264). -/
  | nop (p : Fin 16) (k : Fin 64) (x : Fin 4)
  /-- BARRIER (R259). -/
  | barrier (p : Fin 16) (k : Fin 64) (x : Fin 4)
  /-- CHIME (R266). -/
  | chime (p : Fin 16) (k : Fin 64) (x : Fin 4)
  /-- WAIT (R267). -/
  | wait (p : Fin 16) (k : Fin 64) (x : Fin 4)
  /-- WAIT_COMPLETE (R267). -/
  | waitComplete (p : Fin 16) (k : Fin 64) (x : Fin 4)
  /-- STEP (R288). -/
  | stepCommand (p : Fin 16) (k : Fin 64)
  /-- RING_OP (R443). -/
  | ringOp (p : Fin 16) (k : Fin 64)
  /-- DEVICE_CFG_SWAP (R404). -/
  | deviceCfgSwap (p : Fin 16) (k : Fin 64)
  /-- CLUSTER_CFG_SWAP (R405). -/
  | clusterCfgSwap (p : Fin 16) (k : Fin 64)
  /-- CLUSTER_SWAP_INSTALL (R405). -/
  | clusterSwapInstall (c : Fin 16)
  /-- CREATE (R256). -/
  | create (fn : Fn) (p : Fin 16) (k : Fin 64)
  /-- PREEMPT (R269). -/
  | preempt (fn : Fn) (p : Fin 16) (k : Fin 64)
  /-- PREEMPTED (R269). -/
  | preempted (p : Fin 16) (k : Fin 64)
  /-- RESUME (R271). -/
  | resume (fn : Fn) (p : Fin 16) (k : Fin 64)
  /-- SAVE (R272). -/
  | save (fn : Fn) (p : Fin 16) (k : Fin 64) (val : Dword)
  /-- SAVE_COMPLETE (R272). -/
  | saveComplete (p : Fin 16) (k : Fin 64)
  /-- RESTORE (R275). -/
  | restore (fn : Fn) (p : Fin 16) (k : Fin 64)
  /-- RESTORE_COMPLETE (R275). -/
  | restoreComplete (p : Fin 16) (k : Fin 64)
  /-- CONTEXT_RESET (R358). -/
  | contextReset (who : Issuer) (p : Fin 16) (k : Fin 64)
  /-- DESTROY (R256). -/
  | destroy (fn : Fn) (p : Fin 16) (k : Fin 64)
  /-- PARTITION_RESET (R360). -/
  | partitionReset (who : Issuer) (p : Fin 16)
  /-- PARTITION_RESET_COMPLETE (R397). -/
  | partitionResetComplete (p : Fin 16)
  /-- PERST (R254). -/
  | perst (port : Fin 4)
  /-- PERST_DEASSERT (R368). -/
  | perstDeassert (port : Fin 4)
  /-- LINK_TRAINING_COMPLETE (R368). -/
  | linkTrainingComplete (port : Fin 4) (ok : Bool)
  /-- DL_DOWN (R254). -/
  | dlDown (port : Fin 4)
  /-- HOT_RESET (R254). -/
  | hotReset (port : Fin 4)
  /-- FUNCTION_LEVEL_RESET (R254). -/
  | functionLevelReset (port : Fin 4) (f : Fin 17)
  /-- D3HOT_ENTRY (R451). -/
  | d3hotEntry (port : Fin 4) (f : Fin 17)
  /-- RESIZABLE_BAR_CHANGE (R455). -/
  | resizableBarChange (port : Fin 4) (size : Nat)
  /-- MSIX_UNMASK (R453). -/
  | msixUnmask (port : Fin 4) (f : Fin 17) (vec : Nat)
  /-- STRICT_WRITE (R285). -/
  | strictWrite (fn : Fn) (p : Fin 16) (val : Dword)
  /-- PINNED (R286). -/
  | pinned (p : Fin 16)
  /-- FLUSH (R300). -/
  | flush (fn : Fn) (p : Fin 16)
  /-- STEP_COUNTER_WRITE (R288). -/
  | stepCounterWrite (fn : Fn) (p : Fin 16) (k : Fin 64) (val : Dword)
  /-- SEED_WRITE (R290). -/
  | seedWrite (fn : Fn) (p : Fin 16) (k : Fin 64) (hi : Bool) (val : Dword)
  /-- PASS_END (R301). -/
  | passEnd (t : TileId)
  /-- CHECK (R306). -/
  | check (t checker : TileId)
  /-- CHECK_RESULT (R307). -/
  | checkResult (t : TileId) (signature : Word)
  /-- SECOND_CHECK_RESULT (R309). -/
  | secondCheckResult (t : TileId) (signature : Word)
  /-- SECOND_CHECK_TIMEOUT (R309). -/
  | secondCheckTimeout (t : TileId)
  /-- CHECK_LOST (R308). -/
  | checkLost (t : TileId)
  /-- LEDGER_WRITE (R320). -/
  | ledgerWrite (u : UnitId)
  /-- LEDGER_HEADER_REWRITE (R320). -/
  | ledgerHeaderRewrite
  /-- RETEST_START (R322). -/
  | retestStart (u : UnitId)
  /-- RETEST_TIMEOUT (R337). -/
  | retestTimeout (u : UnitId)
  /-- RETEST_RETRY (R337). -/
  | retestRetry (u : UnitId)
  /-- TAP_SCHEDULE (R332). -/
  | tapSchedule (kind unit : Nat)
  /-- TAP_SLICE_END (R331). -/
  | tapSliceEnd (kind unit : Nat) (golden : Bool) (sig : Dword) (errors lanes : Nat)
  /-- RAIL_SAMPLE (R330). -/
  | railSample (kind unit mv : Nat)
  /-- TAP_FORCED (R333). -/
  | tapForced (t : TileId)
  /-- FORCED_HOLD (R333). -/
  | forcedHold (c : Fin 16) (b : Fin 64)
  /-- TAP_OVERDUE (R335). -/
  | tapOverdue (t : TileId)
  /-- MUFFLE (R345). -/
  | muffle (who : Issuer) (u : UnitId)
  /-- RE_ADMISSION (R347). -/
  | reAdmission (who : Issuer) (u : UnitId)
  /-- REPLACEMENT (R348). -/
  | replacement (c : Fin 16) (b : Fin 64)
  /-- SKIP_SWAP (R349). -/
  | skipSwap (c : Fin 16) (x : Fin 16)
  /-- RELOCATION (R351). -/
  | relocation (c : Fin 16) (b : Fin 64)
  /-- BATTERY_ENGINE_RESET (R359). -/
  | batteryEngineReset (fn : Fn) (c : Fin 16)
  /-- STREAM_ENGINE_RESET (R359). -/
  | streamEngineReset (fn : Fn) (c : Fin 16) (e : Fin 4) (hang : Bool)
  /-- RING_ENGINE_RESET (R447). -/
  | ringEngineReset (fn : Fn) (c : Fin 16) (hang : Bool)
  /-- ISOLATION_ADMIT (R356). -/
  | isolationAdmit (c : Fin 16)
  /-- ESCALATE (R360). -/
  | escalate (trigger : EscTrigger)
  /-- CHIP_RESET (R357). -/
  | chipReset (who : Issuer)
  /-- POWER_GOOD (R480). -/
  | powerGood
  /-- BOOT_LEDGER_READ (R371). -/
  | bootLedgerRead
  /-- STAGE_BOUND (R369). -/
  | stageBound (stage : Nat) (idx : Nat)
  /-- CARILLON_BROADCAST (R374). -/
  | carillonBroadcast
  /-- CLUSTER_SELF_TEST (R375). -/
  | clusterSelfTest (c : Fin 16) (pass : Bool)
  /-- MEMORY_TRAINING (R377). -/
  | memoryTraining (chan : Nat) (pass : Bool)
  /-- RING_PORT_TRAINING (R377). -/
  | ringPortTraining (port : Fin 4) (pass : Bool)
  /-- FLOORPLAN_CHANGE (R386). -/
  | floorplanChange
  /-- CFG_STAGE (R402). -/
  | cfgStage (fn : Fn) (val : Dword)
  /-- VALIDATION_COMPLETE (R402). -/
  | validationComplete (who : Nat)
  /-- SECURE (R394). -/
  | secure (fn : Fn) (val : Dword)
  /-- FW_LOAD (R412). -/
  | fwLoad (fn : Fn) (val : Dword)
  /-- FW_VERIFIED (R412). -/
  | fwVerified
  /-- COMPONENT_TRAP (R414). -/
  | componentTrap (comp : Nat) (cause : Nat) (pc : Word) (addr : BitVec 48) (trace : List (Fin 1024 × BitVec 96))
  /-- COMPONENT_RESTART (R414). -/
  | componentRestart (comp : Nat)
  /-- THREAD_3_FAULT (R415). -/
  | thread3Fault (t : TileId) (cause : Nat) (pc : Word) (addr : BitVec 48)
  /-- CURRENT_LIMIT_PERIOD (R421). -/
  | currentLimitPeriod (ma : Nat) (draws rails : List Nat)
  /-- THERMAL_PERIOD (R424). -/
  | thermalPeriod (temps : List Nat) (chips : List Nat)
  /-- CAP_PERIOD (R422). -/
  | capPeriod (inputW : Nat) (draws : List Nat)
  /-- THERMAL_TRIP (R424). -/
  | thermalTrip (temp : Nat)
  /-- WAVELENGTH_MUFFLE (R429). -/
  | wavelengthMuffle (port : Fin 4) (wave : Nat)
  /-- FRAME_RECEIVE (R433). -/
  | frameReceive (port : Fin 4) (wave : Nat) (frame : Option Nat)
  /-- LOSS_OF_LOCK (R430). -/
  | lossOfLock (port : Fin 4) (wave : Nat)
  /-- SYMBOL_ERROR_AVERAGE (R430). -/
  | symbolErrorAverage (port : Fin 4) (wave : Nat) (ppb : Nat)
  /-- PORT_READY (R437). -/
  | portReady (port : Fin 4) (pass : Bool)
  /-- PORT_LINKED (R437). -/
  | portLinked (port : Fin 4) (carry : Nat)
  /-- LOSS_OF_LINK (R437). -/
  | lossOfLink (port : Fin 4)
  /-- BYPASS_CLOSE (R436). -/
  | bypassClose (ring : Fin 2)
  /-- CENSUS (R439). -/
  | census (ring : Fin 2) (returned : Bool) (mods : List (Nat × Nat × Bool))
  /-- RING_ID_WRITE (R438). -/
  | ringIdWrite (fn : Fn) (val : Dword)
  /-- RING_KEY_WRITE (R440). -/
  | ringKeyWrite (fn : Fn) (p : Fin 16) (val : Dword)
  /-- RING_PACKET (R441). -/
  | ringPacket (port : Fin 4) (packet : Nat) (agree : Bool)
  /-- RING_DONE (R446). -/
  | ringDone (p : Fin 16) (k : Fin 64)
  /-- RING_OP_PREEMPT_LIMIT (R447). -/
  | ringOpPreemptLimit (p : Fin 16) (k : Fin 64)
  /-- WAVELENGTH_RETEST (R431). -/
  | wavelengthRetest (port : Fin 4) (wave : Nat) (pass : Bool)
  /-- BAR2_WRITE (R454). -/
  | bar2Write (port : Fin 4) (addr : Nat) (data : List Byte)
  /-- BAR2_READ (R454). -/
  | bar2Read (port : Fin 4) (addr len : Nat)
  /-- BAR2_WINDOW_BIND (R455). -/
  | bar2WindowBind (port : Fin 4) (w : Fin 16) (val : Dword)
  /-- HELLO (R459). -/
  | hello
  /-- REPORT_RESEND (R462). -/
  | reportResend
  /-- SUBSCRIBE (R459). -/
  | subscribe (port : Fin 2) (seq : Nat) (mac : BitVec 128) (src : BitVec 128) (payload : List Byte)
  /-- ACK (R458). -/
  | ack (port : Fin 2) (no : SeqRef) (mac : BitVec 128) (payload : List Byte)
  /-- READ (R459). -/
  | read (port : Fin 2) (seq : Nat) (mac : BitVec 128) (payload : List Byte)
  /-- WRITE_REG (R460). -/
  | writeReg (port : Fin 2) (seq : Nat) (mac : BitVec 128) (payload : List Byte)
  /-- ORDER_CHIP_RESET (R461). -/
  | orderChipReset (port : Fin 2) (seq : Nat) (mac : BitVec 128) (payload : List Byte)
  /-- ORDER_PARTITION_RESET (R461). -/
  | orderPartitionReset (port : Fin 2) (seq : Nat) (mac : BitVec 128) (payload : List Byte)
  /-- ORDER_ENGINE_RESET (R461). -/
  | orderEngineReset (port : Fin 2) (seq : Nat) (mac : BitVec 128) (payload : List Byte)
  /-- ORDER_CONTEXT_RESET (R461). -/
  | orderContextReset (port : Fin 2) (seq : Nat) (mac : BitVec 128) (payload : List Byte)
  /-- ORDER_MUFFLE (R461). -/
  | orderMuffle (port : Fin 2) (seq : Nat) (mac : BitVec 128) (payload : List Byte)
  /-- ORDER_PREEMPT (R461). -/
  | orderPreempt (port : Fin 2) (seq : Nat) (mac : BitVec 128) (payload : List Byte)
  /-- ORDER_RESUME (R461). -/
  | orderResume (port : Fin 2) (seq : Nat) (mac : BitVec 128) (payload : List Byte)
  /-- ORDER_RE_ADMIT (R461). -/
  | orderReAdmit (port : Fin 2) (seq : Nat) (mac : BitVec 128) (payload : List Byte)
  /-- STAGE_DATA (R459). -/
  | stageData (port : Fin 2) (seq : Nat) (mac : BitVec 128) (payload : List Byte)
  /-- STAGE_GO (R459). -/
  | stageGo (port : Fin 2) (seq : Nat) (mac : BitVec 128) (payload : List Byte)
  /-- SWAP (R459). -/
  | swap (port : Fin 2) (seq : Nat) (mac : BitVec 128) (payload : List Byte)
  /-- OWNER (R459). -/
  | owner (port : Fin 2) (seq : Nat) (mac : BitVec 128) (payload : List Byte)
  /-- SVN_RAISE (R459). -/
  | svnRaise (port : Fin 2) (seq : Nat) (mac : BitVec 128) (payload : List Byte)
  /-- KEY_SET (R459). -/
  | keySet (port : Fin 2) (seq : Nat) (mac : BitVec 128) (payload : List Byte)
  /-- SMBUS_STATUS_READ (R463). -/
  | smbusStatusRead
  /-- ALERT_CAUSES (R464). -/
  | alertCauses (write : Bool) (val : Byte)
  /-- SMBUS_INPUT_VOLTAGE_READ (R463). -/
  | smbusInputVoltageRead
  /-- SMBUS_INPUT_CURRENT_READ (R463). -/
  | smbusInputCurrentRead
  /-- SMBUS_INPUT_POWER_READ (R463). -/
  | smbusInputPowerRead
  /-- SMBUS_JUNCTION_READ (R463). -/
  | smbusJunctionRead
  /-- SMBUS_COOLANT_READ (R463). -/
  | smbusCoolantRead (outlet : Bool)
  /-- SMBUS_READY_READ (R463). -/
  | smbusReadyRead
  /-- SMBUS_IDENTITY_READ (R463). -/
  | smbusIdentityRead
  /-- FRU_EEPROM_READ (R463). -/
  | fruEepromRead (addr len : Nat)
  /-- ALERT_RESPONSE (R464). -/
  | alertResponse
  /-- MOD_RST_LOW (R465). -/
  | modRstLow (ns : Nat)
  /-- MOD_RST_RISE (R465). -/
  | modRstRise
  /-- PWR_EN_RISE (R480). -/
  | pwrEnRise
  /-- PWR_EN_FALL (R481). -/
  | pwrEnFall
  /-- POWER_OFF_HOLD_END (R481). -/
  | powerOffHoldEnd
  /-- VIN_SAMPLE (R476). -/
  | vinSample (mv10 : Nat)
  /-- RAIL_FAULT (R479). -/
  | railFault (rail : Nat) (ns : Nat)
  /-- COOLANT_RANGE (R483). -/
  | coolantRange (inlet outlet : Nat)
  /-- MONITOR_VER (R467). -/
  | monitorVer
  /-- MONITOR_STAGE (R467). -/
  | monitorStage
  /-- MONITOR_CHALLENGE (R467). -/
  | monitorChallenge
  /-- MONITOR_UNLOCK (R468). -/
  | monitorUnlock (token : List Byte)
  /-- MONITOR_LOCK (R467). -/
  | monitorLock
  /-- MONITOR_LOG (R467). -/
  | monitorLog (n : Nat)
  /-- MONITOR_FP (R467). -/
  | monitorFp
  /-- MONITOR_LEDGER (R467). -/
  | monitorLedger (idx : Nat)
  /-- MONITOR_PEEK (R467). -/
  | monitorPeek (off : Nat)
  /-- MONITOR_POKE (R467). -/
  | monitorPoke (off : Nat) (val : Dword)
  /-- MONITOR_TAP (R467). -/
  | monitorTap (t : TileId) (kind : Nat)
  /-- MONITOR_RELOCK (R468). -/
  | monitorRelock
  /-- UNLOCK_BACKOFF_END (R468). -/
  | unlockBackoffEnd
  /-- RUN_CYCLE (R97). -/
  | runCycle (c : Fin 16) (b : Fin 64) (acts : List TileAct)
  /-- REFRESH (R167). -/
  | refresh (chan : Nat)
  /-- TRANSLATION_COMPLETION_TIMEOUT (R196). -/
  | translationCompletionTimeout (port : Fin 4) (idx : Nat)
  /-- MANAGEMENT_PORT_LINK (R456). -/
  | managementPortLink (port : Fin 2) (up : Bool)
  /-- NEIGHBOR_SOLICITATION (R456). -/
  | neighborSolicitation (port : Fin 2) (target : Nat)
  /-- ECHO_REQUEST (R456). -/
  | echoRequest (port : Fin 2) (data : List Byte)
  /-- BELFRY_RESERVED_TYPE (R459). -/
  | belfryReservedType (port : Fin 2) (typ : Byte) (seq : Nat) (mac : BitVec 128) (payload : List Byte)
  /-- CONFIGURATION_REQUEST (R370). -/
  | configurationRequest (port : Fin 4) (f : Fin 17) (off : Nat) (write : Bool) (val : Word)
  /-- STAGING_WINDOW_WRITE (R402). -/
  | stagingWindowWrite (fn : Fn) (firmware : Bool) (off : Nat) (data : List Byte)
  /-- POWER_GOOD_LOSS (R479). -/
  | powerGoodLoss
  /-- SCRUB_SLICE (R337). -/
  | scrubSlice (u : UnitId) (last pass : Bool)
  deriving DecidableEq, Repr

end Sys2Proof
end

