-- ==== Sys2Proof/Machine/Operands.lean ====
section
/-! DEFINITION. Bit fields, packing, sign extension, checksums and operand forms shared by the commands (00 R8, R9). -/
namespace Sys2Proof.Machine

/-- The field of w bits from bit lo of a record (00 R9). -/
def field (n lo w : Nat) : Nat := n / 2 ^ lo % 2 ^ w

/-- A field of a bit vector, as a number. -/
def bf {n : Nat} (v : BitVec n) (lo w : Nat) : Nat := field v.toNat lo w

/-- A record with the field of w bits from bit lo replaced. -/
def setField (n lo w v : Nat) : Nat := n % 2 ^ lo + (v % 2 ^ w) * 2 ^ lo + n / 2 ^ (lo + w) * 2 ^ (lo + w)

/-- Fields laid one after another from bit 0: a width and a value each. -/
def pack : List (Nat × Nat) → Nat
  | [] => 0
  | (w, v) :: r => v % 2 ^ w + 2 ^ w * pack r

/-- 1 for true, 0 for false. -/
def b2n (b : Bool) : Nat := if b then 1 else 0

/-- A w-bit two's complement number as an integer. -/
def sint (w n : Nat) : Int := if n < 2 ^ (w - 1) then (n : Int) else (n : Int) - (2 ^ w : Nat)

/-- A counter of w bits that stops at its largest value. -/
def satAdd (w n k : Nat) : Nat := if n + k < 2 ^ w then n + k else 2 ^ w - 1

/-- A counter of w bits that wraps. -/
def wrapAdd (w n k : Nat) : Nat := (n + k) % 2 ^ w

/-- A list of bytes as a little-endian number (00 R8). -/
def leNat : List Byte → Nat
  | [] => 0
  | b :: r => b.toNat + 256 * leNat r

/-- The n low bytes of a number, lowest first (00 R8). -/
def leBytes : Nat → Nat → List Byte
  | 0, _ => []
  | n + 1, v => BitVec.ofNat 8 v :: leBytes n (v / 256)

/-- One step of a reflected CRC over one bit. -/
def crcBit (poly : Nat) (c : Nat) : Nat := if c % 2 = 1 then (c / 2) ^^^ poly else c / 2

/-- A reflected CRC over bytes. -/
def crcLoop (poly : Nat) : Nat → List Byte → Nat
  | c, [] => c
  | c, b :: r =>
    let c := c ^^^ b.toNat
    crcLoop poly (crcBit poly (crcBit poly (crcBit poly (crcBit poly
      (crcBit poly (crcBit poly (crcBit poly (crcBit poly c)))))))) r

/-- CRC-32C, a standard the manual cites (02 R66, 11 R272): reflected, initial and final all ones; log entry 55. -/
def crc32c (bs : List Byte) : Word := BitVec.ofNat 32 (crcLoop 0x82F63B78 0xFFFFFFFF bs ^^^ 0xFFFFFFFF)

/-- One bit of CRC-16/CCITT-FALSE: polynomial 0x1021, the highest bit first. -/
def crc16Step (crc : Nat) : Nat := if crc.testBit 15 then (2 * crc % 65536) ^^^ 0x1021 else 2 * crc % 65536

/-- CRC-16/CCITT-FALSE, a standard the manual cites (07 R177): initial value all ones, no final change. -/
def crc16 (bs : List Byte) : BitVec 16 :=
  BitVec.ofNat 16 (bs.foldl (fun crc b => (List.range 8).foldl (fun c _ => crc16Step c) (crc ^^^ (256 * b.toNat))) 0xFFFF)

/-- The check bytes of a 32 B granule (07 R177): its data, then DPA bits [42:5] in 5 bytes. -/
def checkBytes (dpa : Nat) (data : BitVec 256) : BitVec 16 := crc16 (leBytes 32 data.toNat ++ leBytes 5 (field dpa 5 38))

/-- Bytes of an access size. -/
def sizeBytes : Size → Nat
  | .b1 => 1
  | .b2 => 2
  | .b4 => 4
  | .b8 => 8

/-- A value of n bytes zero- or sign-extended to 32 bits (02 R47). -/
def extend (bytes : Nat) (signed : Bool) (v : Nat) : Word :=
  let v := v % 2 ^ (8 * bytes)
  if signed && v.testBit (8 * bytes - 1) then BitVec.ofInt 32 (sint (8 * bytes) v) else BitVec.ofNat 32 v

/-- TADDR of a tile (01 R23). -/
def taddr (c x y : Nat) : Nat := c * 512 + x * 32 + y

/-- TADDR of a tile operand. -/
def tileKey (t : TileId) : Nat := taddr t.c.val t.x.val t.y.val

/-- The cluster, column and row of a TADDR (01 R23). -/
def taC (ta : Nat) : Nat := field ta 9 4
def taX (ta : Nat) : Nat := field ta 5 4
def taY (ta : Nat) : Nat := field ta 0 5

/-- The die of a cluster (01 R22). -/
def dieOf (c : Nat) : Nat := 2 * (c / 4 / 2) + c % 4 / 2

/-- The physical row of logical row i under a skip value (01 R26). -/
def physRow (skip i : Nat) : Nat := if skip < 16 && skip ≤ i then i + 1 else i

/-- Number of ones among the low w bits. -/
def popCount : Nat → Nat → Nat
  | 0, _ => 0
  | w + 1, n => n % 2 + popCount w (n / 2)

/-- The indexes below w whose bits are set. -/
def bitsOf (w n : Nat) : List Nat := (List.range w).filter (fun i => n.testBit i)

end Sys2Proof.Machine
end

