-- ==== Sys2Proof/Machine/Fp.lean ====
section
/-! DEFINITION. FP32 arithmetic with round-to-nearest-even, subnormals kept, one canonical NaN (02 R53, R55; 03 R83). -/
namespace Sys2Proof.Machine

/-- A decoded FP32 value: a finite value is (-1)^neg * m * 2^e. -/
inductive Fp where
  | nan
  | inf (neg : Bool)
  | fin (neg : Bool) (m : Nat) (e : Int)
  deriving DecidableEq, Repr

/-- The canonical NaN (02 R53). -/
def canonNan : Word := 0x7FC00000

/-- Signed infinity. -/
def fpInf (neg : Bool) : Word := if neg then 0xFF800000 else 0x7F800000

/-- Signed zero. -/
def fpZero (neg : Bool) : Word := if neg then 0x80000000 else 0

/-- Decode an FP32 word. -/
def fpDecode (x : Word) : Fp :=
  let n := x.toNat
  let neg := n.testBit 31
  let ex := field n 23 8
  let fr := field n 0 23
  if ex = 255 then (if fr = 0 then .inf neg else .nan)
  else if ex = 0 then .fin neg fr (-149)
  else .fin neg (fr + 2 ^ 23) ((ex : Int) - 150)

/-- Divide by a power of two with round half to even. -/
def rneShift (m k : Nat) : Nat :=
  let q := m / 2 ^ k
  let r := m % 2 ^ k
  if 2 ^ k < 2 * r || (2 ^ k = 2 * r && q % 2 = 1) then q + 1 else q

/-- Round (-1)^neg * m * 2^e to FP32, nearest even; overflow gives signed infinity (02 R53). -/
def fpRound (neg : Bool) (m : Nat) (e : Int) : Word :=
  if m = 0 then fpZero neg
  else
    let q : Int := max ((Nat.log2 m : Int) + e - 23) (-149)
    let n := if q ≤ e then m * 2 ^ (e - q).toNat else rneShift m (q - e).toNat
    let bits := n + (q + 149).toNat * 2 ^ 23
    if 0x7F800000 ≤ bits then fpInf neg else BitVec.ofNat 32 (bits + (if neg then 2 ^ 31 else 0))

/-- Exact signed sum of two scaled integers, at the lower of their exponents. -/
def fpSum (n1 : Bool) (m1 : Nat) (e1 : Int) (n2 : Bool) (m2 : Nat) (e2 : Int) : Int × Int :=
  let e := min e1 e2
  let a : Int := (m1 * 2 ^ (e1 - e).toNat : Nat)
  let b : Int := (m2 * 2 ^ (e2 - e).toNat : Nat)
  ((if n1 then -a else a) + (if n2 then -b else b), e)

/-- Round an exact sum; an exact zero is +0 unless both terms are negative zeros. -/
def fpRoundSum (bothNegZero : Bool) (v : Int × Int) : Word :=
  if v.1 = 0 then fpZero bothNegZero else fpRound (decide (v.1 < 0)) v.1.natAbs v.2

/-- FP32 addition (02 R53). -/
def fpAdd (x y : Word) : Word :=
  match fpDecode x, fpDecode y with
  | .nan, _ => canonNan
  | _, .nan => canonNan
  | .inf a, .inf b => if a = b then fpInf a else canonNan
  | .inf a, _ => fpInf a
  | _, .inf b => fpInf b
  | .fin n1 m1 e1, .fin n2 m2 e2 => fpRoundSum (n1 && n2 && m1 == 0 && m2 == 0) (fpSum n1 m1 e1 n2 m2 e2)

/-- Negation of the sign bit. -/
def fpNeg (x : Word) : Word := x ^^^ 0x80000000

/-- FP32 subtraction (02 R53). -/
def fpSub (x y : Word) : Word := fpAdd x (fpNeg y)

/-- FP32 multiplication (02 R53). -/
def fpMul (x y : Word) : Word :=
  match fpDecode x, fpDecode y with
  | .nan, _ => canonNan
  | _, .nan => canonNan
  | .inf a, .inf b => fpInf (a != b)
  | .inf a, .fin n m _ => if m = 0 then canonNan else fpInf (a != n)
  | .fin n m _, .inf b => if m = 0 then canonNan else fpInf (n != b)
  | .fin n1 m1 e1, .fin n2 m2 e2 => fpRound (n1 != n2) (m1 * m2) (e1 + e2)

/-- Fused multiply-add, rounded once (02 R53). -/
def fpFma (x y z : Word) : Word :=
  match fpDecode x, fpDecode y, fpDecode z with
  | .fin n1 m1 e1, .fin n2 m2 e2, .fin n3 m3 e3 =>
    let np := n1 != n2
    fpRoundSum (np && n3 && m1 * m2 == 0 && m3 == 0) (fpSum np (m1 * m2) (e1 + e2) n3 m3 e3)
  | .fin n1 m1 e1, .fin n2 m2 e2, .inf b => let _ := (n1, m1, e1, n2, m2, e2); fpInf b
  | _, _, _ => fpAdd (fpMul x y) z

/-- INT32 to FP32, nearest even (02 R55). -/
def i32ToFp (x : Word) : Word := fpRound (decide (x.toInt < 0)) x.toInt.natAbs 0

/-- An integer clamped to a range. -/
def clampInt (lo hi v : Int) : Int := min (max v lo) hi

/-- FP32 to INT32: towards zero, saturating, NaN gives 0 (02 R55). -/
def fpToI32 (x : Word) : Word :=
  match fpDecode x with
  | .nan => 0
  | .inf neg => if neg then 0x80000000 else 0x7FFFFFFF
  | .fin neg m e =>
    let a : Nat := if 0 ≤ e then m * 2 ^ e.toNat else m / 2 ^ (-e).toNat
    BitVec.ofInt 32 (clampInt (-(2 ^ 31)) (2 ^ 31 - 1) (if neg then -(a : Int) else a))

/-- FP32 to an integer in [lo, hi], round half to even, saturating; NaN gives 0 (03 R89). -/
def fpToIntRne (lo hi : Int) (x : Word) : Int :=
  match fpDecode x with
  | .nan => 0
  | .inf neg => if neg then lo else hi
  | .fin neg m e =>
    let a : Nat := if 0 ≤ e then m * 2 ^ e.toNat else rneShift m (-e).toNat
    clampInt lo hi (if neg then -(a : Int) else a)

/-- Is the word a NaN? -/
def fpIsNan (x : Word) : Bool := fpDecode x == .nan

/-- A key that orders non-NaN FP32 values; both zeros have key 0. -/
def fpKey (x : Word) : Int :=
  let n : Nat := x.toNat % 2 ^ 31
  if x.toNat.testBit 31 then -(n : Int) else (n : Int)

/-- The clip of the float path (03 R88): a NaN passes; a value equal to a bound keeps its own bits. -/
def fpClip (lo hi u : Word) : Word :=
  if fpIsNan u then u
  else
    let v := if fpKey u < fpKey lo then lo else u
    if fpKey hi < fpKey v then hi else v

/-- Conversion of a 32-bit word to an FP19 container (03 R75): truncation, or round-to-nearest-even. -/
def toFp19 (rne : Bool) (x : Word) : Word :=
  let n := x.toNat
  let neg := n.testBit 31
  if field n 23 8 = 0 then fpZero neg
  else if field n 23 8 = 255 then (if field n 0 23 = 0 then fpInf neg else canonNan)
  else
    let t := n / 2 ^ 13 * 2 ^ 13
    let r := n % 2 ^ 13
    if rne && (decide (0x1000 < r) || (r == 0x1000 && n.testBit 13)) then BitVec.ofNat 32 (t + 0x2000) else BitVec.ofNat 32 t

/-- An FP19 container as the slab reads it (03 R74, R84): bits [12:0] ignored, E = 0 is signed zero. -/
def fp19Read (x : Word) : Word :=
  let n := x.toNat
  if field n 23 8 = 0 then fpZero (n.testBit 31) else BitVec.ofNat 32 (n / 2 ^ 13 * 2 ^ 13)

/-- Flush a subnormal to signed zero (02 R54). -/
def fpFlush (x : Word) : Word := if field x.toNat 23 8 = 0 then fpZero (x.toNat.testBit 31) else x

end Sys2Proof.Machine
end

