-- ==== Sys2Proof/Machine/Flags.lean ====
section
/-! DEFINITION. The status codes of the module (00 R17: one meaning per code) and the classes of section statuses. -/
namespace Sys2Proof.Machine

namespace St
def committed : Nat := 0x01
def lateData : Nat := 0x02
def cycleMismatch : Nat := 0x03
def scheduleViolation : Nat := 0x04
def streamMismatch : Nat := 0x05
def bankConflict : Nat := 0x06
def residentWrite : Nat := 0x07
def scratchRange : Nat := 0x08
def misaligned : Nat := 0x09
def illegalInstruction : Nat := 0x0A
def regionRange : Nat := 0x0B
def notResident : Nat := 0x10
def floorplanMismatch : Nat := 0x11
def unitMuffled : Nat := 0x12
def partialInput : Nat := 0x13
def clockClass : Nat := 0x14
def armCancelled : Nat := 0x15
def notLoaded : Nat := 0x20
def boundExceeded : Nat := 0x21
def reservedNonzero : Nat := 0x22
def superseded : Nat := 0x30
def delivered : Nat := 0x60
def streamInvalid : Nat := 0x61
def destPartial : Nat := 0x62
def streamBusy : Nat := 0x63
def sourceTier : Nat := 0x64
def completed : Nat := 0xA0
def wrongQueue : Nat := 0xA1
def notOwner : Nat := 0xA2
def preempted : Nat := 0xA3
def restoreInvalid : Nat := 0xA4
def contextState : Nat := 0xA5
end St

/-- The hardware-suspect class of section statuses (04 R115). -/
def isSuspect (status : Nat) : Bool :=
  status == St.lateData || status == St.cycleMismatch || status == St.scheduleViolation || status == 0x73

/-- The replay class of section statuses (04 R115). -/
def isReplayClass (status : Nat) : Bool := isSuspect status

/-- The re-placement class of section statuses (04 R115). -/
def isReplacement (status : Nat) : Bool :=
  status == St.floorplanMismatch || status == St.unitMuffled || status == St.partialInput

end Sys2Proof.Machine
end

