-- ==== Sys2Proof/Config.lean ====
section
/-! DEFINITION. What the manual leaves open: free values and functions without a body. -/
namespace Sys2Proof

/-- The free value number n of width w: a value the manual leaves open (log entry 4). -/
opaque Config.free (w n : Nat) : BitVec w

/-- The sampling key of the n-th draw of the security core (13 R303): no record discloses it (log entry 4). -/
opaque Config.samplingKey : Nat → BitVec 128

/-- The test-point voltage, in mV, that the tap table of a bundle version gives for a kind, at 1.350 GHz or not (14 R330; the
layout of the table is not given); log entry 29. -/
opaque Config.testPoint (version kind : Nat) (fast : Bool) : Nat

/-- Which of the results that its error bound admits a special function has between the corner cases of 02 R54: a fixed function of the
operation, numbered 0 exp2, 1 reciprocal, 2 reciprocal square root, 3 log2, and of the input bits (log entry 4). -/
opaque Config.special : Nat → BitVec 32 → Nat

/-- SHA-384, a standard the manual cites (17 R393), of a list of bytes. -/
opaque Config.sha384 : List (BitVec 8) → BitVec 384
/-- HMAC-SHA-256, a standard the manual cites (20 R457): key and bytes. -/
opaque Config.hmac256 : BitVec 256 → List (BitVec 8) → BitVec 256
/-- ECDSA P-384 verification, a standard the manual cites (17 R393, 18 R411, 20 R468): the public point, digest, signature. -/
opaque Config.ecdsaOk : List (BitVec 8) → BitVec 384 → BitVec 768 → Bool
/-- The SHA-384 digest of the firmware public key that the ROM holds (18 R411). -/
opaque Config.romDigest : BitVec 384
/-- AES key unwrap of a wrapped management key (20 R459): the key in force and the wrapped bytes; none if it fails. -/
opaque Config.aesUnwrap : BitVec 256 → BitVec 320 → Option (BitVec 256)
/-- Where the MSI-X capability of a function lies in its configuration space: PCIe leaves it to the device (20 R453). -/
opaque Config.msixCap : Nat
/-- What a configuration read returns at an offset and function: the layout of the capabilities is not given (20 R451). -/
opaque Config.cfgSpace : Nat → Nat → BitVec 32
/-- The serial number the factory writes (22 R500). -/
opaque Config.serial : BitVec 64
/-- The bytes of the FRU EEPROM (20 R463). -/
opaque Config.fru : Nat → BitVec 8
/-- The MAC address of a management port, as the FRU record holds it (20 R456, R463). -/
opaque Config.mac : Nat → BitVec 48
/-- A byte of a ledger copy that no entry of 13 R318 covers: the manual reserves it. -/
opaque Config.norByte : Nat → BitVec 8
/-- The management key the factory installs (20 R457). -/
opaque Config.factoryKey : BitVec 256

end Sys2Proof
end

