-- ==== Sys2Proof/Machine/State.lean ====
section
/-! DEFINITION. The state of the Bilord B4: plain data, everything the manual gives the module, and the queue of
waiting commands. Tables are sorted lists of a key and a value; an unlisted key has the default its reader names. -/
namespace Sys2Proof.Machine

/-- A sparse table, keys strictly rising. -/
abbrev Tbl (α : Type) := List (Nat × α)

/-- Bytes by address, canonical: addresses rise, no zero byte is listed (07 R176: never-written bytes read zero). -/
abbrev Mem := List Host.Cell

/-- A context's identity (02 R64). -/
structure CtxId where
  part : Nat
  ctx : Nat
  gen : Nat
  deriving DecidableEq, Repr

/-- A command in progress (11 R262): partition, context, queue, ring index, and the first record dword's fields. -/
structure CmdRef where
  part : Nat
  ctx : Nat
  x : Nat
  idx : Nat
  op : Nat
  tag : Nat
  cqe : Bool
  notify : Bool
  bits : BitVec 512
  deriving DecidableEq, Repr

/-- A landing register (02 R48): waiting for a load, or holding a value. -/
structure Landing where
  waiting : Bool
  val : Option Word
  deriving DecidableEq, Repr

/-- A hardware thread of the scalar core (02 R44). -/
structure Thread where
  regs : Tbl Word
  pc : Nat
  accept : Bool
  running : Bool
  waitc : Option Nat
  landing : Tbl Landing
  notReady : Tbl Nat
  lastIssue : Option Nat
  deriving DecidableEq, Repr

/-- A vector instruction in the issue queue (02 R52). -/
structure VPend where
  instr : VInstr
  thread : Nat
  deriving DecidableEq, Repr

/-- One row entry of a landing buffer (02 R62, 06 R147): row address, granule mask, data, context, source element. -/
structure LandEntry where
  row : Nat
  mask : Nat
  data : Row
  ctx : CtxId
  engine : Nat
  desc : Nat
  elem : Nat
  deriving DecidableEq, Repr

/-- A branch arm under way in a switch schedule (05 R121): index of its arm record, which arm, cycles so far. -/
structure ArmFrame where
  arm : Nat
  taken : Bool
  count : Nat
  deriving DecidableEq, Repr

/-- What an entry of a tile's crossbar-port queue is (02 R48, 07 R181). -/
inductive PortKind where
  | load (thread landing : Nat)
  | store (thread data : Nat)
  | fence
  deriving DecidableEq, Repr

/-- An entry of a tile's crossbar-port queue, oldest first. `done` marks a load whose data has been read. -/
structure PortOp where
  kind : PortKind
  ctx : CtxId
  bat : Nat
  va : Nat
  dpa : Nat
  bytes : Nat
  done : Option Nat
  deriving DecidableEq, Repr

/-- A capture in a stroke buffer (02 R66-R69, 13 R303). -/
structure Capture where
  ctx : CtxId
  section_ : Nat
  step : Nat
  pass : Nat
  bat : Nat
  cycle : Nat
  lpos : Nat
  mode : Nat
  acts : List Row
  partials : List Row
  outs : List Row
  plane : BitVec 12288
  signature : Word
  complete : Bool
  deriving DecidableEq, Repr

/-- One tile: scalar core, vector unit, slab, scratchpad, switch unit, landing buffer, crossbar port (02, 04 R97). Of the vector unit: vcyc
is the ACLK since the head of the queue started (0: it starts in the next), vrep its repeats done, vdone that one was done in the present
cycle, vE and vS the words it put out in this cycle, feed the row the west-edge feed reads in this cycle, once known. planeCnt counts the
consecutive wide reads of the load of the idle weight plane (R57). -/
structure TileCore where
  threads : Tbl Thread
  vregs : Tbl Row
  vq : List VPend
  vcyc : Nat
  vrep : Nat
  vdone : Bool
  vE : Option Row
  vS : Option Row
  feed : Option Nat
  planeCnt : Nat
  plane0 : BitVec 12288
  plane1 : BitVec 12288
  planeSel : Bool
  consts : BitVec 8192
  osPipe : List (Option Row)
  pad : Mem
  deriving DecidableEq, Repr

/-- The switch unit, FIFOs and net inputs of one tile (04 R97-R101). -/
structure TileNet where
  entry : Nat
  hold : Nat
  ctrs : Tbl Nat
  ended : Bool
  inPad : Bool
  padding : Nat
  joinAt : Nat
  arms : List ArmFrame
  inW : Option Row
  inN : Option Row
  inS : Tbl Word
  inC : Tbl Byte
  lastC : Tbl Byte
  wrS : Tbl Word
  wrC : Tbl Byte
  fifoE : List Row
  fifoS : List Row
  fifoSc : Tbl (List Word)
  fifoCt : Tbl (List Byte)
  deriving DecidableEq, Repr

/-- The control registers of one tile (02 R60-R70); filled: a landing entry was written in the present RUN cycle. -/
structure TileCtl where
  wide : BitVec 12
  resValid : BitVec 12
  resIn : BitVec 12
  resOut : BitVec 12
  cur : Option CtxId
  clearing : Option CtxId
  running : Bool
  conflict : Bool
  resFault : Bool
  lostBanks : BitVec 12
  landing : List LandEntry
  filled : Bool
  portQ : List PortOp
  cycle : Nat
  deriving DecidableEq, Repr

/-- What a tile has run of a context (13 R305, R311, R314): passes and checks in the current step and in the last one, and the
latched step of the latest pass checked without disagreement. -/
structure TileStat where
  ctx : CtxId
  passes : Nat
  checks : Nat
  lastPasses : Nat
  lastChecks : Nat
  good : Option Nat
  deriving DecidableEq, Repr

/-- Sampling, checking and self-test state of one tile (13, 14): passIdx counts the passes ended in the present run, w is the
log2 of the window in force, march holds by bank the operating second of its last march. -/
structure TileTest where
  passes : Nat
  passIdx : Nat
  w : Nat
  capture : Option Capture
  duty : Option Capture
  buf : Option (Tbl Row × BitVec 8192)
  deferred : Bool
  stats : List TileStat
  lostRun : Nat
  limitedSent : Bool
  cycleAt : Nat
  march : Tbl Nat
  fails : Nat
  done : Nat
  forced : Bool
  overdue : Bool
  faults3 : List Nat
  service : Mem
  deriving DecidableEq, Repr

/-- One tile. -/
structure Tile where
  core : TileCore
  net : TileNet
  ctl : TileCtl
  test : TileTest
  deriving DecidableEq, Repr

/-- One tile's part of a section image (17 R400, R401): TILE_CFG value, instruction words, schedule, arm records. -/
structure TileImg where
  cfg : BitVec 768
  code : List Word
  sched : List Dword
  arms : List (BitVec 128)
  deriving DecidableEq, Repr

/-- A stream binding (04 R114, 17 R400): the record, its take runs. -/
structure Binding where
  bits : BitVec 384
  takes : List (BitVec 128)
  deriving DecidableEq, Repr

/-- A section fabric image (17 R400): records as the container holds them; `tiles` is keyed by 16j + i. -/
structure SecImage where
  va : Nat
  header : BitVec 256
  bindings : List Binding
  regions : List (BitVec 128)
  chimes : List (BitVec 192)
  tiles : Tbl TileImg
  deriving DecidableEq, Repr

/-- The states of a battery (04 R119). -/
inductive BState where
  | empty | loading | loaded | arm | run | commit | abort
  deriving DecidableEq, Repr

/-- Takes a section has made of one binding, the token in force, the stream tile the binding begins with, and whether a take found a
stream tile of another section's binding (04 R108, 05 R128, 06 R149, R152, R161). -/
structure TakeState where
  taken : Nat
  token : Nat
  start : Nat
  foreign : Bool
  deriving DecidableEq, Repr

/-- A region of a section in ARM or later: device addresses of its 64 B-aligned extent (04 R107). -/
structure Region where
  out : Bool
  va : Nat
  dpa : Nat
  len : Nat
  deriving DecidableEq, Repr

/-- A fault of a section in its present cycle (02 R50, 04 R116): status, the tile it names, the detail bits of its record, the VA. -/
structure SecFault where
  status : Nat
  ta : Nat
  detail : Nat
  va : Nat
  deriving DecidableEq, Repr

/-- One battery (04 R103, R119); faults are those of the present cycle (R116). -/
structure Battery where
  st : BState
  rsv : Option CtxId
  shadow : Option SecImage
  active : Option SecImage
  activeCtx : Option CtxId
  ctx : Nat
  owner : Option CtxId
  cmd : Option CmdRef
  loadCmd : Option CmdRef
  loadImg : Option SecImage
  waiting : List CmdRef
  waitLock : Bool
  waitSwap : Bool
  waitPin : Bool
  faults : List SecFault
  locks : Bool
  regions : List Region
  armSeq : Nat
  armOk : Bool
  replays : Nat
  lastStatus : Nat
  cycle : Nat
  endPending : Bool
  takes : Tbl TakeState
  step : Nat
  deriving DecidableEq, Repr

/-- Further state of a battery: its varying-rate counts, its re-placement (05 R135, 06 R159, 15 R348), the tiles whose muffle waits for the
end of COMMIT (04 R117). -/
structure BatteryX where
  drops : Nat
  lastSeg : Nat
  ovf : Bool
  held : Bool
  heldStatus : Nat
  replaced : Bool
  replValid : Bool
  replTarget : Nat
  replLast : Nat
  plan : Nat
  muffles : List Nat
  deriving DecidableEq, Repr

/-- The states of a stream descriptor (06 R140, R163). -/
inductive DState where
  | free | active | stopped | parked | done
  deriving DecidableEq, Repr

/-- A run of a descriptor's program, begun by STREAM or STREAM_REARM (06 R137, R157): the stream tile of the delivery sequence it begins
with, its base, and the count words read for it (05 R126). -/
structure StreamRun where
  seq0 : Nat
  base : Nat
  counts : List Nat
  deriving DecidableEq, Repr

/-- One stream descriptor (06 R136-R163). -/
structure Desc where
  st : DState
  image : BitVec 1536
  owner : Option CtxId
  ctx : Nat
  cmd : Option CmdRef
  cluster : Nat
  bat : Nat
  runs : List StreamRun
  dst : Nat
  issued : List Nat
  doneEl : List Nat
  next : Nat
  delivered : Nat
  taken : Nat
  isPartial : Bool
  rewound : Bool
  lastStatus : Nat
  hoWait : Bool
  lag : Nat
  at_ : List (Nat × Option Nat)
  park : Option (Nat × Nat)
  deriving DecidableEq, Repr

/-- A row write on its way to a tile's landing buffer (06 R147). -/
structure Transit where
  ta : Nat
  row : Nat
  mask : Nat
  data : Row
  elem : Nat
  deriving DecidableEq, Repr

/-- The write of a MEM element, fetched and not yet performed (06 R156): its parts, to host or device addresses. -/
structure MemWrite where
  elem : Nat
  parts : List (Bool × Nat × List Byte)
  deriving DecidableEq, Repr

/-- A host page in use by an element in flight, or a page of device memory (08 R191, R197): the element, the VA range, the page of host
untranslated addresses and the PASID it was translated under. -/
structure ElemUse where
  elem : Nat
  va : Nat
  len : Nat
  page : Option Nat
  pasid : Option Nat
  deriving DecidableEq, Repr

/-- A host fault of an element (08 R198): the VA and the host untranslated address asked for, whether for a write, and whether the
translation timed out. -/
structure ElemFault where
  elem : Nat
  va : Nat
  hua : Nat
  write : Bool
  late : Bool
  deriving DecidableEq, Repr

/-- Fault-stop and resume state of a descriptor (08 R198-R201): the elements that faulted, the pages each element in flight uses, the VA page
and side of the last PRG and the Successes it had. -/
structure DescX where
  stopStatus : Nat
  recordDue : Bool
  record : Option (BitVec 1024)
  draining : Bool
  engWait : Bool
  transit : List Transit
  writes : List MemWrite
  faulted : List ElemFault
  uses : List ElemUse
  triesVa : Nat
  triesN : Nat
  deriving DecidableEq, Repr

/-- A command waiting for an engine slot (06 R138): kind 0 STREAM, 1 STREAM_REARM, 2 resume. -/
structure EngWait where
  engine : Nat
  desc : Nat
  cmd : Option CmdRef
  kind : Nat
  image : BitVec 1536
  record : Option (BitVec 1024)
  deriving DecidableEq, Repr

/-- A SEC_CHAIN under way (06 R159). -/
structure Chain where
  cmd : CmdRef
  cluster : Nat
  n : Nat
  pos : Nat
  bats : List Nat
  vas : List Nat
  ids : List Nat
  hoffs : Tbl (Nat × Nat)
  hoDone : List Nat
  owner : CtxId
  stopAsked : Bool
  deriving DecidableEq, Repr

/-- The array clock of a cluster (01 R36-R41); phase: the part of an ACLK, in fortieths, that the last nanosecond left over. -/
structure Clock where
  code : Nat
  pinned : Bool
  tapHold : Bool
  excursions : Nat
  target : Option Nat
  heldStep : Option Nat
  lowest : Nat
  lowered : Bool
  inhibit : Bool
  dvfs : Nat
  phase : Nat
  deriving DecidableEq, Repr

/-- A physical memory slice (07 R174, R186). -/
structure Slice where
  logical : Nat
  mode : Nat
  mirror : Bool
  partner : Nat
  secondary : Bool
  st : Nat
  lost : Bool
  corrected : Nat
  deriving DecidableEq, Repr

/-- A memory channel group or far channel register (07 R186). -/
structure MemCh where
  st : Nat
  refresh : Nat
  lost : Nat
  mismatch : Nat
  corrected : Nat
  deriving DecidableEq, Repr

/-- A stream-cache line held by a cluster (07 R171): its place as 256 times the logical slice plus the set, its line address, its valid
sectors, its age stamp. -/
structure CacheLine where
  set : Nat
  line : Nat
  sectors : Nat
  stamp : Nat
  deriving DecidableEq, Repr

/-- Translation state of a context (08 R205). -/
structure Xlat where
  enable : Bool
  faulted : Bool
  root : Nat
  pasidEn : Bool
  pasid : Nat
  deriving DecidableEq, Repr

/-- A walk in progress (08 R190): its agent, address and level, and the frame waiting for a zero-fill. -/
structure Walk where
  id : Nat
  agent : XAgent
  ctx : CtxId
  va : Nat
  write : Bool
  level : Nat
  table : Nat
  dropped : Bool
  frame : Option Nat
  result : Option Nat
  deriving DecidableEq, Repr

/-- A cached translation (08 R191): context, page number, page size log2, leaf entry. -/
structure TlbEntry where
  ctx : CtxId
  va : Nat
  size : Nat
  leaf : Dword
  deriving DecidableEq, Repr

/-- An ATS or page request outstanding at a host port (08 R194-R196). -/
structure HostReq where
  idx : Nat
  ctx : CtxId
  cluster : Nat
  agent : XAgent
  elem : Nat
  va : Nat
  hua : Nat
  page : Nat
  pasid : Option Nat
  write : Bool
  prg : Bool
  waiting : Bool
  stale : Bool
  deriving DecidableEq, Repr

/-- A cached host translation (08 R194, R195): its tags, the host untranslated address and the size as log2, and the translated address. -/
structure AtcEntry where
  ctx : CtxId
  pasid : Option Nat
  va : Nat
  size : Nat
  hpa : Nat
  write : Bool
  deriving DecidableEq, Repr

/-- A request through BAR2 that waits at its port (07 R183, 20 R454): a write with its data, or a read of len bytes. -/
structure Bar2Op where
  write : Bool
  addr : Nat
  len : Nat
  data : List Byte
  deriving DecidableEq, Repr

/-- Host-port state (20 R451, R454, R471; 08 R194-R197). -/
structure Port where
  perst : Bool
  l0 : Bool
  up : Bool
  d3 : List Nat
  bar2 : Nat
  atc : List AtcEntry
  reqs : List HostReq
  nextReq : Nat
  invals : List (Option Nat × Nat × Nat)
  held : List Bar2Op
  deriving DecidableEq, Repr

/-- A BAR2 window (20 R454, R471). -/
structure Window where
  valid : Bool
  part : Nat
  ctx : Nat
  result : Nat
  va : Nat
  gen : Nat
  deriving DecidableEq, Repr

/-- A send channel of a tile (09 R206, R208, R229): the bound queue, its generation and the number of this opening. The window
slots in use are listed by SEQ; 65536 stands for a descriptor returned under R210. -/
structure Channel where
  opened : Bool
  ctx : Option CtxId
  gen : Nat
  inc : Nat
  dest : Nat
  destQ : Nat
  destCq : Bool
  window : Nat
  seq : Nat
  inFlight : List Nat
  sent : Nat
  stall : Nat
  deriving DecidableEq, Repr

/-- A visible entry of a receive queue (09 R215, R216): the descriptor, the opening of its channel, and whether it begins an item. -/
structure RxEntry where
  data : Nat
  inc : Nat
  first : Bool
  deriving DecidableEq, Repr

/-- A descriptor of an item not yet whole that a flush or a muffle discarded (09 R218): its channel key, SEQ and MORE. Later
descriptors of the same item are returned. -/
structure Marker where
  key : Nat
  seq : Nat
  more : Bool
  muffled : Bool
  counted : Bool
  deriving DecidableEq, Repr

/-- A receive queue of a tile (09 R206, R215, R229): visible entries, descriptors of items not yet whole, and by channel key
the SEQs at which an item is known to begin (false) or at which a PUT stands (true); the windows of the channels bound to it. -/
structure RxQueue where
  opened : Bool
  ctx : Option CtxId
  gen : Nat
  entries : List RxEntry
  parts : List RxEntry
  ends : List (Nat × Nat × Bool)
  reserved : Nat
  windows : Tbl Nat
  markers : List Marker
  received : Nat
  empty : Nat
  deriving DecidableEq, Repr

/-- A staged contribution of a strict round (09 R221): who sent it, its first element, its staging slot and its length. -/
structure Contribution where
  src : Nat
  seq : Nat
  ch : Nat
  elem : Nat
  slot : Nat
  len : Nat
  deriving DecidableEq, Repr

/-- A combining queue (09 R219-R222, R229): its configuration registers, the copy taken at open, and the round. -/
structure CombQueue where
  st : Nat
  ctx : Option CtxId
  gen : Nat
  cfg : BitVec 192
  bits : BitVec 192
  strict : Bool
  count : Nat
  pending : Bool
  rounds : Nat
  target : List (Nat × Nat)
  staging : List (Nat × Nat)
  staged : List Contribution
  nGen : Nat
  deriving DecidableEq, Repr

/-- A packet in the mesh (10 R231-R245): its flits, the transfer it is a part of and its offset in it (R234), the unit it is for beyond
its node, the status its part of the transfer has met, and the receive buffer its flits stand in: the router that sent them, the channel
and the credits (R235). -/
structure Packet where
  id : Nat
  node : Nat
  inPort : Nat
  dest : Nat
  cls : Nat
  key : BitVec 12
  ctx : Option CtxId
  agent : Nat
  taddr : Nat
  epoch : Bool
  escape : Bool
  arrived : Bool
  kind : Nat
  payload : Nat
  back : Nat
  gen : Nat
  flits : Nat
  group : Nat
  off : Nat
  unit_ : Nat
  fault : Nat
  slot : Option (Nat × Nat × Nat)
  deriving DecidableEq, Repr

/-- A packet of one header flit that says nothing yet. -/
def Packet.blank : Packet :=
  { id := 0, node := 0, inPort := 0, dest := 0, cls := 0, key := 0, ctx := none, agent := 0, taddr := 0, epoch := false, escape := false
    arrived := false, kind := 0, payload := 0, back := 0, gen := 0, flits := 1, group := 0, off := 0, unit_ := 0, fault := 0, slot := none }

/-- One router (10 R235, R236, R248): the credits it holds, and those it is owed for flits that have left the receive buffer. -/
structure Router where
  down : Nat
  bank0 : Tbl Nat
  bank1 : Tbl Nat
  shadowValid : Bool
  keymask : Nat
  credits : Tbl Nat
  owed : Tbl Nat
  deriving DecidableEq, Repr

/-- A command queue of a context (11 R258-R261). -/
structure CmdQueue where
  size : Nat
  base : Nat
  tail : Nat
  head : Nat
  next : Nat
  done : List Nat
  fetched : Option (Nat × BitVec 512)
  image : BitVec 1536
  record : Option (BitVec 1024)
  inProg : List CmdRef
  waitOn : Option (Nat × Nat × Bool × Dword)
  stalled : Option Nat
  rtail : Nat
  deriving DecidableEq, Repr

/-- A context: op to clusters are the fields of PTN_CTX_CTL, opNow to clustersNow those of the operation in progress (11 R255, R281; 08 R205; 12 R300; 13 R325; 15 R367). -/
structure Ctx where
  st : Nat
  gen : Nat
  qstop : Nat
  go : Bool
  op : Nat
  banks : Bool
  frames : Bool
  clusters : Nat
  opNow : Nat
  banksNow : Bool
  framesNow : Bool
  clustersNow : Nat
  result : Nat
  saveVa : Nat
  queues : Tbl CmdQueue
  cqSize : Nat
  cqBase : Nat
  cqTail : Nat
  cqHead : Nat
  comps : List Nat
  xlat : Xlat
  deriving DecidableEq, Repr

/-- Further registers of a context (12 R300, 13 R325, 15 R367, 20 R471). -/
structure CtxX where
  step : Nat
  seedLo : Dword
  seedHi : Dword
  runcyc : Nat
  needLog2 : Nat
  goalMet : Bool
  shortfall : Bool
  limited : Bool
  minChecks : Nat
  ringEnable : Bool
  ringSize : Nat
  ringBase : Nat
  tail : Nat
  head : Nat
  overrun : Nat
  ringFault : Bool
  rseq : Nat
  irqCq : Nat
  irqFault : Nat
  deriving DecidableEq, Repr

/-- A partition block (11 R281, 08 R205, 07 R186, 12 R300). -/
structure Part where
  resetGo : Bool
  result : Nat
  resetKey : BitVec 12
  gen : Nat
  invGo : Bool
  invNow : Nat × Nat × Nat
  invCtx : Nat
  invSize : Nat
  invVa : Nat
  strCluster : Nat
  strEngine : Nat
  strDesc : Nat
  strGo : Bool
  strResult : Nat
  frameBusy : Bool
  frame : Nat
  autoSkip : Bool
  autoRelocate : Bool
  strict : Bool
  strictBusy : Bool
  strictResult : Nat
  lastRec : BitVec 2048
  irq : Nat
  deriving DecidableEq, Repr

/-- A reset in progress at the order arbiter (11 R277-R279): of the module (partition 16) or of a partition, the flag that it was
ordered through PTN_CTL, and the time of the order. -/
structure Order where
  target : Nat
  byReg : Bool
  at_ : Nat
  held : Bool
  auto : Bool
  deriving DecidableEq, Repr

/-- A fault record (15 R342, R343): its common fields and its detail bits, numbered from bit 512 of the record. -/
structure FaultRec where
  status : Nat
  agent : Nat
  unresolved : Bool
  fatal : Bool
  part : Option Nat
  ctx : Option CtxId
  cluster : Nat
  battery : Nat
  taddr : Nat
  further : Nat
  section_ : Nat
  cycle : Nat
  va : Nat
  detail : Nat
  deriving DecidableEq, Repr

/-- What the block drives outward (log entry 5): read data, completions, messages. -/
inductive OutEvent where
  | readData (port : Nat) (len : Nat) (data : Nat)
  | readPoisoned (port : Nat) (len : Nat)
  | unsupported (port : Nat)
  | retryStatus (port : Nat)
  | interrupt (port f vec : Nat)
  | hostWrite (port : Nat) (hpa : Nat) (len : Nat) (data : Nat)
  | belfry (port : Nat) (dest : Nat) (datagram : Nat)
  | smbus (bytes : List Nat)
  | serial (bytes : List Nat)
  | network (port : Nat) (kind : Nat) (data : Nat)
  | alert (on : Bool)
  | pin (name : Nat) (level : Bool)
  | optical (port wave frame : Nat)
  | pageRequest (port idx hua : Nat) (pasid : Option Nat) (r w last : Bool)
  | atsRequest (port idx hua : Nat) (pasid : Option Nat) (write : Bool)
  | atsDone (port : Nat) (pasid : Option Nat) (va : Nat)
  | notice (agent taddr status : Nat)
  deriving DecidableEq, Repr

/-- A per-cluster configuration (17 R398): identity, battery entries as CLU_BAT_SHAPE words, skip values, slice roles
as packed by slice index. -/
structure ClusterCfg where
  valid : Bool
  id : Nat
  bats : Tbl Nat
  skips : Tbl Nat
  slices : Tbl Nat
  deriving DecidableEq, Repr

/-- A partition record of the device-level configuration (17 R397). -/
structure PartRec where
  clusters : Nat
  owner : Nat
  vf : Nat
  hbm : Nat
  far : Nat
  key : BitVec 12
  resetKey : BitVec 12
  deriving DecidableEq, Repr

/-- The device-level configuration (17 R396, R397). -/
structure DeviceCfg where
  valid : Bool
  id : Nat
  parts : Tbl PartRec
  routes0 : Tbl (Tbl Nat)
  keymasks : Tbl Nat
  deriving DecidableEq, Repr

/-- A configuration bank's status (17 R408). -/
structure BankStatus where
  shadow : Nat
  pending : Bool
  byBelfry : Bool
  lastStatus : Nat
  activeId : Nat
  deriving DecidableEq, Repr

/-- A CFG_SWAP waiting for its boundary (17 R404, R405). -/
structure Swap where
  target : Nat
  cmd : Option CmdRef
  byBelfry : Bool
  seq : Nat
  phase : Nat
  deriving DecidableEq, Repr

/-- CFG_STAGE of one port, and its staging buffer (17 R402, R408); bankNow and lenNow are the bank and the length of the staging under
way, whatever is written to the register meanwhile (00 R12). -/
structure Stager where
  go : Bool
  target : Nat
  cluster : Nat
  result : Nat
  len : Nat
  bankNow : Nat
  lenNow : Nat
  buf : Mem
  deriving DecidableEq, Repr

/-- GLB_FW_LOAD of one port, and its staging buffer (18 R412, R427). -/
structure FwStager where
  go : Bool
  result : Nat
  len : Nat
  buf : Mem
  deriving DecidableEq, Repr

/-- One cluster: clock, translation caches, engines' waiting commands, cache, combining and carillon registers. -/
structure Cluster where
  clk : Clock
  armSeq : Nat
  engWait : List EngWait
  turns : Tbl Nat
  chains : List Chain
  cache : List CacheLine
  cacheStamp : Nat
  fills : List Nat
  hits : Nat
  misses : Nat
  tlb : List TlbEntry
  walks : List Walk
  nextWalk : Nat
  gated : Nat
  waitNs : Nat
  lastWin : Tbl Nat
  mirrorBusy : List Nat
  deriving DecidableEq, Repr

/-- A check of a captured pass (13 R307-R309): the worker, its capture, the checker at work or none, the first checker and its
signature once that disagreed, and the mark that resolution has failed. -/
structure Check where
  worker : Nat
  capture : Capture
  checker : Option Nat
  first : Option (Nat × Word)
  dead : Bool
  deriving DecidableEq, Repr

/-- A self-test slice under way (14 R326-R338): the kind, the tile, link or lane group, its form bits, whether at 1.350 GHz,
and the time and tries. -/
structure TapSlice where
  kind : Nat
  unit_ : Nat
  retest : Bool
  forced : Bool
  form : Nat
  fast : Bool
  start : Nat
  deriving DecidableEq, Repr

/-- Message-control, carillon, checking, recovery and power registers of a cluster (09 R229, 13 R325, 14, 15 R367, 18). -/
structure ClusterX where
  msgCtl : Dword
  msgSel : Nat
  gone : Nat
  flushItems : Nat
  cqReturns : Nat
  carState : Nat
  bySched : Bool
  carForced : Bool
  peals : Nat
  wLog2 : Nat
  capLog2 : Nat
  checkers : Nat
  limited : Bool
  checked : Nat
  deferredCnt : Nat
  lostCnt : Nat
  checks : List Check
  capWait : List Nat
  tapSel : Nat
  tapHold : Bool
  tapHoldBat : Nat
  tapTries : List (Nat × Nat)
  deriving DecidableEq, Repr

/-- Recovery and power registers of a cluster (15 R367, 18 R427, 19 R450); the engines' generations: 0 battery, 1-4 stream, 5 ring; the
skip swaps ordered: column, value, held battery. -/
structure ClusterY where
  isoActive : Bool
  isoEngine : Nat
  isoIndex : Nat
  isoAdmitted : Nat
  isoLeft : List Nat
  isoCmds : List CmdRef
  isoNamed : Bool
  isoTried : Bool
  engKind : Nat
  engIndex : Nat
  engHang : Bool
  engResult : Nat
  engGens : Tbl Nat
  skips : List (Nat × Nat × Nat)
  allot : Nat
  draw : Nat
  temp : Nat
  idle : Bool
  headroom : Bool
  ringLast : Nat
  ringWait : Nat
  muffled : List Nat
  ready : Bool
  readyTs : Nat
  degraded : Bool
  ran : Bool
  deriving DecidableEq, Repr

/-- Device memory: bytes by DPA, poisoned lines, frame tags, channels, slices (07). -/
structure MemSys where
  bytes : Mem
  poison : List Nat
  tags : Tbl CtxId
  chans : Tbl MemCh
  slices : Tbl Slice
  sbe : Tbl (List Nat)
  mismatch : List Nat
  lostDpas : List (Nat × Nat)
  frameWait : List (Nat × Nat)
  deriving DecidableEq, Repr

/-- A peal under way (09 R224-R226): its sender (16 for the scheduler core), the destinations written, the failed with
their reasons. -/
structure Peal where
  id : Nat
  sender : Nat
  written : Nat
  failed : List (Nat × Nat)
  deriving DecidableEq, Repr

/-- Message state (09): channels and queues by 16 TADDR + n, completion queues by TADDR, combining queues by 32c + q; told holds what
a core (0-15 control cores, 16 the scheduler core) was last told of a carillon entry or a peal: a completion record, or a status in its
low byte (R223, R224, R226). -/
structure MsgSys where
  chans : Tbl Channel
  queues : Tbl RxQueue
  cqs : Tbl (List Nat)
  comb : Tbl CombQueue
  peals : List Peal
  told : Tbl (BitVec 512)
  deriving DecidableEq, Repr

/-- The mesh (10): routers, packets in flight, keys, epoch. -/
structure Mesh where
  routers : Tbl Router
  net : List Packet
  nextId : Nat
  epoch : Bool
  installing : List Nat
  pkeys : Tbl (BitVec 12 × Bool × BitVec 12)
  unitGens : Tbl Nat
  flips : Nat
  deriving DecidableEq, Repr

/-- A log entry (18 R418). -/
abbrev LogEntry := BitVec 256

/-- The log ring (18 R417-R420); traced holds by component the millisecond it last traced in and its trace entries of that
millisecond. -/
structure LogSys where
  ring : List LogEntry
  nextSeq : Nat
  page : Nat
  traceDrop : Nat
  traceEn : Tbl Dword
  traced : Tbl (Nat × Nat)
  deriving DecidableEq, Repr

/-- A ledger entry of a unit (13 R318, R319). -/
abbrev LedgerEntry := BitVec 512

/-- The ledger, operating seconds and pending retests (13 R318-R322). -/
structure Ledger where
  copyA : Tbl LedgerEntry
  copyB : Tbl LedgerEntry
  work : Tbl LedgerEntry
  dirty : List Nat
  opSec : Nat
  opNs : Nat
  seq : Nat
  headerSec : Nat
  retests : List (Nat × Nat × Nat)
  perm : List (Nat × Nat)
  deriving DecidableEq, Repr

/-- Bring-up and floor plan (16). -/
structure Boot where
  powerGood : Bool
  stage : Nat
  done : Nat
  bundle : Bool
  pcieUp : Nat
  lastStatus : Nat
  cause : Nat
  readyClusters : Nat
  readyHbm : Nat
  readyFar : Nat
  fpSeq : Nat
  degraded : Nat
  serviceable : Bool
  fpValid : Bool
  fpComplete : Bool
  fpHash : Nat
  fpRec : BitVec 18944
  unserviceableSent : Bool
  reports : Tbl (BitVec 512)
  starts : Tbl Nat
  finished : List Nat
  deriving DecidableEq, Repr

/-- Ownership and configuration banks (11 R281, 17). -/
structure CfgSys where
  mgmtPort : Nat
  mgmtValid : Bool
  dev : DeviceCfg
  devShadow : Option DeviceCfg
  clusters : Tbl ClusterCfg
  clusterShadows : Tbl ClusterCfg
  status : Tbl BankStatus
  secure : Bool
  stagers : Tbl Stager
  swaps : List Swap
  deriving DecidableEq, Repr

/-- Firmware (18). -/
structure Firmware where
  loads : Tbl FwStager
  version : Nat
  restarts : Nat
  failed : Bool
  store : Mem
  storeLen : Nat
  loadBy : Option Nat
  svn : Nat
  svnFloor : Nat
  down : List Nat
  dead : List Nat
  times : Tbl (List Nat)
  deriving DecidableEq, Repr

/-- Power management and the input (18 R421-R427, 21 R476-R493). -/
structure Power where
  capW : Nat
  inputW : Nat
  uncoreW : Nat
  clusterW : Nat
  capUnmet : Bool
  unlogged : Nat
  loggedMs : Nat
  noExcessUs : Nat
  vin : Nat
  vinSamples : List Nat
  ilim : Nat
  ilimMs : Nat
  vinBand : Nat
  vinNs : Nat
  inlet : Nat
  outlet : Nat
  inputEvt : Bool
  coolantEvt : Bool
  railEvt : Bool
  rail : Nat
  pwrEn : Bool
  on : Bool
  modRst : Bool
  offAt : Option Nat
  vinShut : Bool
  inputMa : Nat
  deriving DecidableEq, Repr

/-- One optical wavelength of an engine (19 R429-R433): muffled, carrying, the next FSEQ to send and the last received in
order, the last acknowledged, the frames kept for a resend with how often each was resent, the last loss of lock and the uncorrectable codewords of the
hour. -/
structure Wave where
  muffled : Bool
  carry : Bool
  nextFseq : Nat
  inOrder : Nat
  acked : Nat
  replay : List (Nat × Nat × Nat)
  lossAt : Option Nat
  cwErrs : List Nat
  deriving DecidableEq, Repr

/-- One ring port (19 R450); held: ring packets that wait for the link. -/
structure RingPort where
  st : Nat
  bypassOpen : Bool
  retries : Nat
  uncorr : Nat
  held : List (Nat × Nat)
  deriving DecidableEq, Repr

/-- A RING_OP in progress (19 R442-R447): its command, its translated buffers, the bytes its peers have granted it, and what it
has received: source index, chunk and bytes, in order of arrival; how many chunks it has sent to each peer; the packets sent and the
next expected, by 64 ring + index. -/
structure RingJob where
  cmd : CmdRef
  owner : CtxId
  cluster : Nat
  src : List (Nat × Nat)
  dst : List (Nat × Nat)
  credits : Tbl Nat
  unacked : List (Nat × Nat × Nat)
  data : List (Nat × Nat × List Byte)
  sent : Tbl Nat
  seqOut : Tbl Nat
  seqIn : Tbl Nat
  preemptAt : Option Nat
  deriving DecidableEq, Repr

/-- The optical ring (19): wavelengths by 17 e + w for engine OEe, frames sent by engine, the modules the last census of each
ring named. -/
structure Ring where
  index : Nat
  size1 : Nat
  valid : Bool
  census : Tbl (Nat × Bool)
  present : Tbl (List Nat)
  ports : Tbl RingPort
  waves : Tbl Wave
  sentFrames : Tbl Nat
  keys : Tbl (Nat × Bool)
  jobs : List RingJob
  early : List Nat
  deriving DecidableEq, Repr

/-- Host ports, windows, MSI-X (20); acc is the register write being performed, its offset in the function's BAR0 and its value, which an
access event of it names (18 R418). -/
structure Hosts where
  ports : Tbl Port
  windows : Tbl Window
  msix : Tbl (Bool × Bool)
  latch : Tbl (Nat × Nat)
  acc : Option (Nat × Nat)
  deriving DecidableEq, Repr

/-- The belfry (20 R456-R462, R471). -/
structure Belfry where
  link0 : Bool
  link1 : Bool
  coll0 : Option Nat
  coll1 : Option Nat
  reports : List (Nat × Nat × Nat × Nat)
  dropped : Nat
  authFail : Nat
  seq : Nat
  high : Nat
  storedHigh : Nat
  accepted : Nat
  kept : List (Nat × Nat)
  waits : List (Nat × Nat × Nat × Nat)
  key : BitVec 256
  deriving DecidableEq, Repr

/-- SMBus, hard signals (20 R463-R466). -/
structure Smbus where
  causes : Nat
  powerW : Nat
  junction : Nat
  deriving DecidableEq, Repr

/-- The Rilmal monitor (20 R467, R468, R471). -/
structure Monitor where
  level : Nat
  backoff : Bool
  fails : Nat
  nonce : Option (BitVec 128)
  expires : Nat
  lastInput : Nat
  consecutive : Nat
  backoffAt : Nat
  tapWait : Option (Nat × Nat)
  deriving DecidableEq, Repr

/-- Checking, taps and escalation of the module (13, 14, 15). -/
structure Health where
  rateLog2 : Nat
  autoRate : Bool
  keyDrawn : Nat
  slices : List TapSlice
  rr : Tbl Nat
  escLimit : Nat
  level : Nat
  auto : Bool
  chipGen : Nat
  links : List Nat
  lanes : List Nat
  spared : Tbl Nat
  fpStale : Bool
  deriving DecidableEq, Repr

/-- The whole state. -/
structure State where
  pending : List Instr
  freeCtr : Nat
  out : List OutEvent
  now : Nat
  tiles : Tbl Tile
  bats : Tbl Battery
  batx : Tbl BatteryX
  descs : Tbl Desc
  descx : Tbl DescX
  clusters : Tbl Cluster
  clx : Tbl ClusterX
  cly : Tbl ClusterY
  mem : MemSys
  ctxs : Tbl Ctx
  ctxx : Tbl CtxX
  parts : Tbl Part
  orders : List Order
  msg : MsgSys
  mesh : Mesh
  hosts : Hosts
  log : LogSys
  ledger : Ledger
  boot : Boot
  cfg : CfgSys
  fw : Firmware
  pwr : Power
  ring : Ring
  belfry : Belfry
  smbus : Smbus
  mon : Monitor
  health : Health
  deriving DecidableEq, Repr

/-- Why the machine stops. No command of this model faults; the constructor is raised by nobody (safe). -/
inductive Fault where
  /-- Raised by nobody: every command of the block answers a next state (safe). -/
  | none
  deriving DecidableEq, Repr

/-- Why the model refuses a command. -/
inductive Refusal where
  /-- Raised by an arm of exec whose command has no meaning yet (safe). -/
  | notModelled (mnemonic : String)
  deriving DecidableEq, Repr

/-! RESET values. Where the manual gives no value the assumption log names it. -/

/-- Landing at reset. -/
def Landing.reset : Landing :=
  { waiting := false, val := none }

/-- Thread at reset. -/
def Thread.reset : Thread :=
  { regs := [], pc := 0, accept := false, running := false, waitc := none, landing := [], notReady := [],
    lastIssue := none }

/-- TileCore at reset. -/
def TileCore.reset : TileCore :=
  { threads := [], vregs := [], vq := [], vcyc := 0, vrep := 0, vdone := false, vE := none, vS := none, feed := none, planeCnt := 0,
    plane0 := 0, plane1 := 0, planeSel := false, consts := 0, osPipe := [], pad := [] }

/-- TileNet at reset. -/
def TileNet.reset : TileNet :=
  { entry := 0, hold := 0, ctrs := [], ended := false, inPad := false, padding := 0, joinAt := 0, arms := [],
    inW := none, inN := none, inS := [], inC := [], lastC := [], wrS := [], wrC := [], fifoE := [],
    fifoS := [], fifoSc := [], fifoCt := [] }

/-- TileCtl at reset. -/
def TileCtl.reset : TileCtl :=
  { wide := 0, resValid := 0, resIn := 0, resOut := 0, cur := none, clearing := none, running := false,
    conflict := false, resFault := false, lostBanks := 0, landing := [], filled := false, portQ := [], cycle := 0 }

/-- TileTest at reset. -/
def TileTest.reset : TileTest :=
  { passes := 0, passIdx := 0, w := 8, capture := none, duty := none, buf := none, deferred := false, stats := [], lostRun := 0,
    limitedSent := false, cycleAt := 0xFFFFFFFF, march := [], fails := 0, done := 0, forced := false,
    overdue := false, faults3 := [], service := [] }

/-- Tile at reset. -/
def Tile.reset : Tile :=
  { core := TileCore.reset, net := TileNet.reset, ctl := TileCtl.reset, test := TileTest.reset }

/-- TileImg at reset. -/
def TileImg.reset : TileImg :=
  { cfg := 0, code := [], sched := [], arms := [] }

/-- Battery at reset. -/
def Battery.reset : Battery :=
  { st := .empty, rsv := none, shadow := none, active := none, activeCtx := none, ctx := 0, owner := none,
    cmd := none, loadCmd := none, loadImg := none, waiting := [], waitLock := false,
    waitSwap := false, waitPin := false, faults := [], locks := false, regions := [], armSeq := 0, armOk := false,
    replays := 0, lastStatus := 0, cycle := 0, endPending := false, takes := [], step := 0 }

/-- BatteryX at reset. -/
def BatteryX.reset : BatteryX :=
  { drops := 0, lastSeg := 0, ovf := false, held := false, heldStatus := 0, replaced := false, replValid := false,
    replTarget := 0, replLast := 0, plan := 0, muffles := [] }

/-- Desc at reset. -/
def Desc.reset : Desc :=
  { st := .free, image := 0, owner := none, ctx := 0, cmd := none, cluster := 0, bat := 0, runs := [], dst := 0,
    issued := [], doneEl := [], next := 0, delivered := 0, taken := 0, isPartial := false,
    rewound := false, lastStatus := 0, hoWait := false, lag := 0, at_ := [],
    park := none }

/-- DescX at reset. -/
def DescX.reset : DescX :=
  { stopStatus := 0, recordDue := false, record := none, draining := false, engWait := false, transit := [],
    writes := [], faulted := [], uses := [], triesVa := 0, triesN := 0 }

/-- Clock at reset. -/
def Clock.reset : Clock :=
  { code := 40, pinned := false, tapHold := false, excursions := 0, target := none, heldStep := none,
    lowest := 40, lowered := false, inhibit := false, dvfs := 40, phase := 0 }

/-- Slice at reset. -/
def Slice.reset : Slice :=
  { logical := 0, mode := 0, mirror := false, partner := 0, secondary := false, st := 0, lost := false,
    corrected := 0 }

/-- MemCh at reset. -/
def MemCh.reset : MemCh :=
  { st := 0, refresh := 0, lost := 0, mismatch := 0, corrected := 0 }

/-- Xlat at reset. -/
def Xlat.reset : Xlat :=
  { enable := false, faulted := false, root := 0, pasidEn := false, pasid := 0 }

/-- Port at reset. -/
def Port.reset : Port :=
  { perst := true, l0 := false, up := false, d3 := [], bar2 := 36, atc := [], reqs := [], nextReq := 0,
    invals := [], held := [] }

/-- Window at reset. -/
def Window.reset : Window :=
  { valid := false, part := 0, ctx := 0, result := 0, va := 0, gen := 0 }

/-- Channel at reset. -/
def Channel.reset : Channel :=
  { opened := false, ctx := none, gen := 0, inc := 0, dest := 0, destQ := 0, destCq := false, window := 0,
    seq := 0, inFlight := [], sent := 0, stall := 0 }

/-- RxQueue at reset. -/
def RxQueue.reset : RxQueue :=
  { opened := false, ctx := none, gen := 0, entries := [], parts := [], ends := [], reserved := 0,
    windows := [], markers := [], received := 0, empty := 0 }

/-- CombQueue at reset. -/
def CombQueue.reset : CombQueue :=
  { st := 0, ctx := none, gen := 0, cfg := 0, bits := 0, strict := false, count := 0, pending := false,
    rounds := 0, target := [], staging := [], staged := [], nGen := 0 }

/-- Router at reset; log entry 54. -/
def Router.reset : Router :=
  { down := 63, bank0 := [], bank1 := [], shadowValid := false, keymask := 0, credits := [], owed := [] }

/-- CmdQueue at reset. -/
def CmdQueue.reset : CmdQueue :=
  { size := 0, base := 0, tail := 0, head := 0, next := 0, done := [], fetched := none, image := 0,
    record := none, inProg := [], waitOn := none, stalled := none, rtail := 0 }

/-- Ctx at reset. -/
def Ctx.reset : Ctx :=
  { st := 0, gen := 0, qstop := 0, go := false, op := 0, banks := false, frames := false, clusters := 0,
    opNow := 0, banksNow := false, framesNow := false, clustersNow := 0, result := 0, saveVa := 0, queues := [], cqSize := 0, cqBase := 0, cqTail := 0, cqHead := 0, comps := [],
    xlat := Xlat.reset }

/-- CtxX at reset. -/
def CtxX.reset : CtxX :=
  { step := 0, seedLo := 0, seedHi := 0, runcyc := 0, needLog2 := 0, goalMet := false, shortfall := false,
    limited := false, minChecks := 0, ringEnable := false, ringSize := 0, ringBase := 0, tail := 0, head := 0,
    overrun := 0, ringFault := false, rseq := 0, irqCq := 0, irqFault := 0 }

/-- Part at reset. -/
def Part.reset : Part :=
  { resetGo := false, result := 0, resetKey := 0, gen := 0, invGo := false, invNow := (0, 0, 0), invCtx := 0, invSize := 0,
    invVa := 0, strCluster := 0, strEngine := 0, strDesc := 0, strGo := false, strResult := 0,
    frameBusy := false, frame := 0, autoSkip := false, autoRelocate := false, strict := false,
    strictBusy := false, strictResult := 0, lastRec := 0, irq := 0 }

/-- ClusterCfg at reset. -/
def ClusterCfg.reset : ClusterCfg :=
  { valid := false, id := 0, bats := [], skips := [], slices := [] }

/-- DeviceCfg at reset. -/
def DeviceCfg.reset : DeviceCfg :=
  { valid := false, id := 0, parts := [], routes0 := [], keymasks := [] }

/-- BankStatus at reset. -/
def BankStatus.reset : BankStatus :=
  { shadow := 0, pending := false, byBelfry := false, lastStatus := 0, activeId := 0 }

/-- Stager at reset. -/
def Stager.reset : Stager :=
  { go := false, target := 0, cluster := 0, result := 0, len := 0, bankNow := 0, lenNow := 0, buf := [] }

/-- FwStager at reset. -/
def FwStager.reset : FwStager :=
  { go := false, result := 0, len := 0, buf := [] }

/-- Cluster at reset. -/
def Cluster.reset : Cluster :=
  { clk := Clock.reset, armSeq := 0, engWait := [], turns := [], chains := [], cache := [], cacheStamp := 0, fills := [],
    hits := 0, misses := 0, tlb := [], walks := [], nextWalk := 0, gated := 0, waitNs := 0, lastWin := [],
    mirrorBusy := [] }

/-- ClusterX at reset. -/
def ClusterX.reset : ClusterX :=
  { msgCtl := 0, msgSel := 0, gone := 0, flushItems := 0, cqReturns := 0, carState := 0, bySched := false,
    carForced := false, peals := 0, wLog2 := 8, capLog2 := 4, checkers := 0, limited := false, checked := 0,
    deferredCnt := 0, lostCnt := 0, checks := [], capWait := [], tapSel := 0, tapHold := false,
    tapHoldBat := 0, tapTries := [] }

/-- ClusterY at reset. -/
def ClusterY.reset : ClusterY :=
  { isoActive := false, isoEngine := 0, isoIndex := 0, isoAdmitted := 0, isoLeft := [], isoCmds := [],
    isoNamed := false, isoTried := false, engKind := 0, engIndex := 0, engHang := false, engResult := 0,
    engGens := [], skips := [], allot := 0, draw := 0, temp := 0, idle := false, headroom := false,
    ringLast := 0, ringWait := 0, muffled := [], ready := false, readyTs := 0, degraded := false, ran := false }

/-- MemSys at reset. -/
def MemSys.reset : MemSys :=
  { bytes := [], poison := [], tags := [], chans := [], slices := [], sbe := [], mismatch := [],
    lostDpas := [], frameWait := [] }

/-- MsgSys at reset. -/
def MsgSys.reset : MsgSys :=
  { chans := [], queues := [], cqs := [], comb := [], peals := [], told := [] }

/-- Mesh at reset. -/
def Mesh.reset : Mesh :=
  { routers := [], net := [], nextId := 0, epoch := false, installing := [], pkeys := [], unitGens := [],
    flips := 0 }

/-- LogSys at reset. -/
def LogSys.reset : LogSys :=
  { ring := [], nextSeq := 0, page := 0, traceDrop := 0, traceEn := [], traced := [] }

/-- Ledger at reset. -/
def Ledger.reset : Ledger :=
  { copyA := [], copyB := [], work := [], dirty := [], opSec := 0, opNs := 0, seq := 0, headerSec := 0,
    retests := [], perm := [] }

/-- Boot at reset. -/
def Boot.reset : Boot :=
  { powerGood := false, stage := 0, done := 0, bundle := false, pcieUp := 0, lastStatus := 0, cause := 0,
    readyClusters := 0, readyHbm := 0, readyFar := 0, fpSeq := 0, degraded := 0, serviceable := false,
    fpValid := false, fpComplete := false, fpHash := 0, fpRec := 0, unserviceableSent := false, reports := [],
    starts := [], finished := [] }

/-- CfgSys at reset. -/
def CfgSys.reset : CfgSys :=
  { mgmtPort := 0, mgmtValid := false, dev := DeviceCfg.reset, devShadow := none, clusters := [],
    clusterShadows := [], status := [], secure := false, stagers := [], swaps := [] }

/-- Firmware at reset; log entry 51. -/
def Firmware.reset : Firmware :=
  { loads := [], version := 0, restarts := 0, failed := false, store := [], storeLen := 0, loadBy := none,
    svn := 0, svnFloor := 0, down := [], dead := [], times := [] }

/-- Power at reset; log entry 50. -/
def Power.reset : Power :=
  { capW := 0x7D0, inputW := 0, uncoreW := 0, clusterW := 0, capUnmet := false, unlogged := 0, loggedMs := 0,
    noExcessUs := 0, vin := 0, vinSamples := [], ilim := 48000, ilimMs := 0, vinBand := 0, vinNs := 0,
    inlet := 0, outlet := 0, inputEvt := false, coolantEvt := false, railEvt := false, rail := 0,
    pwrEn := false, on := false, modRst := false, offAt := none, vinShut := false, inputMa := 0 }

/-- Wave at reset. -/
def Wave.reset : Wave :=
  { muffled := false, carry := false, nextFseq := 0, inOrder := 255, acked := 255, replay := [],
    lossAt := none, cwErrs := [] }

/-- RingPort at reset. -/
def RingPort.reset : RingPort :=
  { st := 0, bypassOpen := false, retries := 0, uncorr := 0, held := [] }

/-- Ring at reset. -/
def Ring.reset : Ring :=
  { index := 0, size1 := 0, valid := false, census := [], present := [], ports := [], waves := [],
    sentFrames := [], keys := [], jobs := [], early := [] }

/-- Hosts at reset. -/
def Hosts.reset : Hosts :=
  { ports := [], windows := [], msix := [], latch := [], acc := none }

/-- Belfry at reset. -/
def Belfry.reset : Belfry :=
  { link0 := false, link1 := false, coll0 := none, coll1 := none, reports := [], dropped := 0, authFail := 0,
    seq := 0, high := 0, storedHigh := 0, accepted := 0, kept := [], waits := [], key := Config.factoryKey }

/-- Smbus at reset. -/
def Smbus.reset : Smbus :=
  { causes := 0, powerW := 0, junction := 0 }

/-- Monitor at reset. -/
def Monitor.reset : Monitor :=
  { level := 0, backoff := false, fails := 0, nonce := none, expires := 0, lastInput := 0, consecutive := 0,
    backoffAt := 0, tapWait := none }

/-- Health at reset; log entry 52. -/
def Health.reset : Health :=
  { rateLog2 := 8, autoRate := true, keyDrawn := 0, slices := [], rr := [], escLimit := 5, level := 0,
    auto := false, chipGen := 0, links := [], lanes := [], spared := [], fpStale := false }

/-- The machine right after reset: before power is applied, every register at its reset value, nothing queued; log entry 90. -/
def State.reset : State :=
  { pending := [], freeCtr := 0, out := [], now := 0, tiles := [], bats := [], batx := [], descs := [],
    descx := [], clusters := [], clx := [], cly := [], mem := MemSys.reset, ctxs := [], ctxx := [],
    parts := [], orders := [], msg := MsgSys.reset, mesh := Mesh.reset, hosts := Hosts.reset,
    log := LogSys.reset, ledger := Ledger.reset, boot := Boot.reset, cfg := CfgSys.reset, fw := Firmware.reset,
    pwr := Power.reset, ring := Ring.reset, belfry := Belfry.reset, smbus := Smbus.reset, mon := Monitor.reset,
    health := Health.reset }

end Sys2Proof.Machine
end

