-- ==== Sys2Proof/Machine/Ops.lean ====
section
/-! DEFINITION. Named operations over tables, memory and the state's parts; free values; what is driven outward. -/
namespace Sys2Proof.Machine

/-- Read a table; an unlisted key has the default d. -/
def tget {α : Type} (t : Tbl α) (k : Nat) (d : α) : α :=
  match t with
  | [] => d
  | (k', v) :: r => if k = k' then v else tget r k d

/-- Write a table, keeping the keys rising. -/
def tset {α : Type} (t : Tbl α) (k : Nat) (v : α) : Tbl α :=
  match t with
  | [] => [(k, v)]
  | (k', w) :: r => if k < k' then (k, v) :: (k', w) :: r else if k = k' then (k, v) :: r else (k', w) :: tset r k v

/-- Is the key listed? -/
def thas {α : Type} (t : Tbl α) (k : Nat) : Bool := t.any (fun e => e.1 == k)

/-- Remove a key. -/
def tdel {α : Type} (t : Tbl α) (k : Nat) : Tbl α := t.filter (fun e => e.1 != k)

/-- Apply f to every listed value. -/
def tmap {α : Type} (t : Tbl α) (f : Nat → α → α) : Tbl α := t.map (fun e => (e.1, f e.1 e.2))

/-! Memory: bytes by address, never-written bytes zero (07 R176). -/

/-- Read one byte; log entry 56. -/
def mget (m : Mem) (a : Nat) : Byte :=
  match m with
  | [] => 0
  | (a', b) :: r => if a = a' then b else mget r a

/-- Write one byte, keeping the canonical form. -/
def mset (m : Mem) (a : Nat) (b : Byte) : Mem :=
  match m with
  | [] => if b = 0 then [] else [(a, b)]
  | (a', b') :: r =>
    if a < a' then (if b = 0 then (a', b') :: r else (a, b) :: (a', b') :: r)
    else if a = a' then (if b = 0 then r else (a, b) :: r)
    else (a', b') :: mset r a b

/-- Canonical form above address lo: addresses rise and no zero byte is listed. -/
def Mem.wfFrom : Nat → Mem → Bool
  | _, [] => true
  | lo, (a, b) :: r => decide (lo ≤ a) && decide (b ≠ 0) && Mem.wfFrom (a + 1) r

/-- The canonical form of memory. -/
def Memory.wf (m : Mem) : Bool := Mem.wfFrom 0 m

/-- Read n bytes as a little-endian number (00 R8). -/
def mread (m : Mem) (a : Nat) : Nat → Nat
  | 0 => 0
  | n + 1 => (mget m a).toNat + 256 * mread m (a + 1) n

/-- Write n bytes of a number, little-endian (00 R8). -/
def mwrite (m : Mem) (a : Nat) : Nat → Nat → Mem
  | 0, _ => m
  | n + 1, v => mwrite (mset m a (BitVec.ofNat 8 v)) (a + 1) n (v / 256)

/-- Write a list of bytes. -/
def mwriteBytes (m : Mem) (a : Nat) : List Byte → Mem
  | [] => m
  | b :: r => mwriteBytes (mset m a b) (a + 1) r

/-- Write a list of bytes where the mask list says so. -/
def mwriteMasked (m : Mem) (a : Nat) : List (Bool × Byte) → Mem
  | [] => m
  | (e, b) :: r => mwriteMasked (if e then mset m a b else m) (a + 1) r

/-- Read n bytes as a list. -/
def mbytes (m : Mem) (a : Nat) : Nat → List Byte
  | 0 => []
  | n + 1 => mget m a :: mbytes m (a + 1) n

/-- Zero a range: its bytes are no longer listed. -/
def mclear (m : Mem) (a len : Nat) : Mem := m.filter (fun c => !(decide (a ≤ c.1) && decide (c.1 < a + len)))

/-- The listed bytes of a range, moved to start at b. -/
def mslice (m : Mem) (a len b : Nat) : Mem :=
  (m.filter (fun c => decide (a ≤ c.1) && decide (c.1 < a + len))).map (fun c => (c.1 - a + b, c.2))

/-- Write listed bytes over a memory. -/
def mpaste (m : Mem) : Mem → Mem
  | [] => m
  | (a, b) :: r => mpaste (mset m a b) r

/-- Copy len bytes of one memory to another, zero bytes included. -/
def mcopy (src : Mem) (a len : Nat) (dst : Mem) (b : Nat) : Mem := mpaste (mclear dst b len) (mslice src a len b)

/-! Keys of the tables. -/

def bKey (c b : Nat) : Nat := 64 * c + b
def dKey (c e d : Nat) : Nat := 64 * c + 16 * e + d
def kKey (p k : Nat) : Nat := 64 * p + k
def sKey (c phys : Nat) : Nat := 66 * c + phys
def qKey (c q : Nat) : Nat := 32 * c + q

/-! Reading and writing the parts. -/

def State.tile (s : State) (ta : Nat) : Tile := tget s.tiles ta Tile.reset
def State.setTile (s : State) (ta : Nat) (t : Tile) : State := { s with tiles := tset s.tiles ta t }
def State.updTile (s : State) (ta : Nat) (f : Tile → Tile) : State := s.setTile ta (f (s.tile ta))
def State.bat (s : State) (c b : Nat) : Battery := tget s.bats (bKey c b) Battery.reset
def State.setBat (s : State) (c b : Nat) (x : Battery) : State := { s with bats := tset s.bats (bKey c b) x }
def State.updBat (s : State) (c b : Nat) (f : Battery → Battery) : State := s.setBat c b (f (s.bat c b))
def State.batX (s : State) (c b : Nat) : BatteryX := tget s.batx (bKey c b) BatteryX.reset
def State.updBatX (s : State) (c b : Nat) (f : BatteryX → BatteryX) : State :=
  { s with batx := tset s.batx (bKey c b) (f (s.batX c b)) }
def State.desc (s : State) (c e d : Nat) : Desc := tget s.descs (dKey c e d) Desc.reset
def State.setDesc (s : State) (c e d : Nat) (x : Desc) : State := { s with descs := tset s.descs (dKey c e d) x }
def State.updDesc (s : State) (c e d : Nat) (f : Desc → Desc) : State := s.setDesc c e d (f (s.desc c e d))
def State.descX (s : State) (c e d : Nat) : DescX := tget s.descx (dKey c e d) DescX.reset
def State.updDescX (s : State) (c e d : Nat) (f : DescX → DescX) : State :=
  { s with descx := tset s.descx (dKey c e d) (f (s.descX c e d)) }
def State.cl (s : State) (c : Nat) : Cluster := tget s.clusters c Cluster.reset
def State.updCl (s : State) (c : Nat) (f : Cluster → Cluster) : State :=
  { s with clusters := tset s.clusters c (f (s.cl c)) }
def State.clX (s : State) (c : Nat) : ClusterX := tget s.clx c ClusterX.reset
def State.updClX (s : State) (c : Nat) (f : ClusterX → ClusterX) : State :=
  { s with clx := tset s.clx c (f (s.clX c)) }
def State.clY (s : State) (c : Nat) : ClusterY := tget s.cly c ClusterY.reset
def State.updClY (s : State) (c : Nat) (f : ClusterY → ClusterY) : State :=
  { s with cly := tset s.cly c (f (s.clY c)) }
def State.clock (s : State) (c : Nat) : Clock := (s.cl c).clk
def State.updClock (s : State) (c : Nat) (f : Clock → Clock) : State :=
  s.updCl c (fun x => { x with clk := f x.clk })
def State.ctx (s : State) (p k : Nat) : Ctx := tget s.ctxs (kKey p k) Ctx.reset
def State.updCtx (s : State) (p k : Nat) (f : Ctx → Ctx) : State :=
  { s with ctxs := tset s.ctxs (kKey p k) (f (s.ctx p k)) }
def State.ctxX (s : State) (p k : Nat) : CtxX := tget s.ctxx (kKey p k) CtxX.reset
def State.updCtxX (s : State) (p k : Nat) (f : CtxX → CtxX) : State :=
  { s with ctxx := tset s.ctxx (kKey p k) (f (s.ctxX p k)) }
def State.part (s : State) (p : Nat) : Part := tget s.parts p Part.reset
def State.updPart (s : State) (p : Nat) (f : Part → Part) : State := { s with parts := tset s.parts p (f (s.part p)) }
def Ctx.queue (x : Ctx) (i : Nat) : CmdQueue := tget x.queues i CmdQueue.reset
def State.updQueue (s : State) (p k x : Nat) (f : CmdQueue → CmdQueue) : State :=
  s.updCtx p k (fun c => { c with queues := tset c.queues x (f (c.queue x)) })
def State.port (s : State) (i : Nat) : Port := tget s.hosts.ports i Port.reset
def State.updPort (s : State) (i : Nat) (f : Port → Port) : State :=
  { s with hosts := { s.hosts with ports := tset s.hosts.ports i (f (s.port i)) } }
/-- A slice before the floor plan names it: slices 0-63 serve their own logical slice, 64 and 65 are spare (log entry 8). -/
def sliceDefault (phys : Nat) : Slice :=
  if phys < 64 then { Slice.reset with logical := phys } else { Slice.reset with logical := 0x7F, st := 1 }
def State.slice (s : State) (c phys : Nat) : Slice := tget s.mem.slices (sKey c phys) (sliceDefault phys)
def State.updSlice (s : State) (c phys : Nat) (f : Slice → Slice) : State :=
  { s with mem := { s.mem with slices := tset s.mem.slices (sKey c phys) (f (s.slice c phys)) } }
def State.chan (s : State) (i : Nat) : MemCh := tget s.mem.chans i MemCh.reset
def State.updChan (s : State) (i : Nat) (f : MemCh → MemCh) : State :=
  { s with mem := { s.mem with chans := tset s.mem.chans i (f (s.chan i)) } }
def State.router (s : State) (n : Nat) : Router := tget s.mesh.routers n Router.reset
def State.updRouter (s : State) (n : Nat) (f : Router → Router) : State :=
  { s with mesh := { s.mesh with routers := tset s.mesh.routers n (f (s.router n)) } }
def State.channel (s : State) (ta i : Nat) : Channel := tget s.msg.chans (16 * ta + i) Channel.reset
def State.updChannel (s : State) (ta i : Nat) (f : Channel → Channel) : State :=
  { s with msg := { s.msg with chans := tset s.msg.chans (16 * ta + i) (f (s.channel ta i)) } }
def State.rxq (s : State) (ta i : Nat) : RxQueue := tget s.msg.queues (16 * ta + i) RxQueue.reset
def State.updRxq (s : State) (ta i : Nat) (f : RxQueue → RxQueue) : State :=
  { s with msg := { s.msg with queues := tset s.msg.queues (16 * ta + i) (f (s.rxq ta i)) } }
def State.comb (s : State) (c q : Nat) : CombQueue := tget s.msg.comb (qKey c q) CombQueue.reset
def State.updComb (s : State) (c q : Nat) (f : CombQueue → CombQueue) : State :=
  { s with msg := { s.msg with comb := tset s.msg.comb (qKey c q) (f (s.comb c q)) } }

def Tile.updCore (t : Tile) (f : TileCore → TileCore) : Tile := { t with core := f t.core }
def Tile.updNet (t : Tile) (f : TileNet → TileNet) : Tile := { t with net := f t.net }
def Tile.updCtl (t : Tile) (f : TileCtl → TileCtl) : Tile := { t with ctl := f t.ctl }
def Tile.updTest (t : Tile) (f : TileTest → TileTest) : Tile := { t with test := f t.test }
def Tile.thread (t : Tile) (i : Nat) : Thread := tget t.core.threads i Thread.reset
def Tile.updThread (t : Tile) (i : Nat) (f : Thread → Thread) : Tile :=
  t.updCore (fun x => { x with threads := tset x.threads i (f (t.thread i)) })

/-! Free values and outward events. -/

/-- Draw a free value of w bits (log entry 4). -/
def State.freeVal (s : State) (w : Nat) : BitVec w := Config.free w s.freeCtr

/-- The state after n free values are drawn. -/
def State.drew (s : State) (n : Nat) : State := { s with freeCtr := s.freeCtr + n }

/-- Banks of a scratchpad that hold unspecified data: free values (02 R63). -/
def blurBanks (m : Mem) (banks n : Nat) : Mem :=
  (bitsOf 12 banks).foldl (fun m k => mwriteBytes m (0x8000 * k) (leBytes 0x8000 (Config.free 0x40000 (n + k)).toNat)) m

/-- Drive something outward (log entry 5). -/
def State.emit (s : State) (e : OutEvent) : State := { s with out := e :: s.out }

/-! Configuration in force. -/

/-- The active per-cluster configuration (17 R398). -/
def State.ccfg (s : State) (c : Nat) : ClusterCfg := tget s.cfg.clusters c ClusterCfg.reset

/-- The skip value of a column (01 R26): 31 where none is set. -/
def State.skip (s : State) (c x : Nat) : Nat := tget (s.ccfg c).skips x 31

/-- CLU_BAT_SHAPE of a battery (04 R119). -/
def State.shape (s : State) (c b : Nat) : Nat := tget (s.ccfg c).bats b 0
def shapeX0 (n : Nat) : Nat := field n 0 4
def shapeY0 (n : Nat) : Nat := field n 4 4
def shapeW (n : Nat) : Nat := field n 8 4 + 1
def shapeH (n : Nat) : Nat := field n 12 4 + 1
def shapeValid (n : Nat) : Bool := n.testBit 16

/-- The physical tile at logical position (i, j) of a battery (04 R93). -/
def State.tileAt (s : State) (c b i j : Nat) : Nat :=
  let sh := s.shape c b
  let x := shapeX0 sh + i
  taddr c x (physRow (s.skip c x) (shapeY0 sh + j))

/-- The logical positions of a battery, as 16j + i. -/
def positions (w h : Nat) : List Nat :=
  (List.range h).flatMap (fun j => (List.range w).map (fun i => 16 * j + i))

/-- The physical tiles of a battery with their logical positions (04 R93). -/
def State.batTiles (s : State) (c b : Nat) : List (Nat × Nat) :=
  let sh := s.shape c b
  if shapeValid sh then
    (positions (shapeW sh) (shapeH sh)).map (fun q => (q, s.tileAt c b (q % 16) (q / 16)))
  else []

/-- The battery a physical tile belongs to, with its logical position (04 R92, R93). -/
def State.batOf (s : State) (ta : Nat) : Option (Nat × Nat) :=
  let c := taC ta
  (List.range 64).findSome? (fun b =>
    (s.batTiles c b).findSome? (fun e => if e.2 = ta then some (b, e.1) else none))

/-- The record of a partition in the active map, if it exists (11 R249). -/
def State.prec (s : State) (p : Nat) : Option PartRec := (s.cfg.dev.parts.find? (fun e => e.1 == p)).map (·.2)

/-- Does partition p hold cluster c (11 R249)? -/
def State.owns (s : State) (p c : Nat) : Bool :=
  match s.prec p with
  | some r => r.clusters.testBit c
  | none => false

/-- The partition that holds cluster c. -/
def State.partOf (s : State) (c : Nat) : Option Nat :=
  (s.cfg.dev.parts.find? (fun e => e.2.clusters.testBit c)).map (·.1)

/-- The clusters of a partition. -/
def State.clustersOf (s : State) (p : Nat) : List Nat := (List.range 16).filter (fun c => s.owns p c)

/-- The current identity of a context (02 R64). -/
def State.ident (s : State) (p k : Nat) : CtxId := { part := p, ctx := k, gen := (s.ctx p k).gen }

/-- Is a context identity live (11 R256)? -/
def State.live (s : State) (i : CtxId) : Bool :=
  (s.ctx i.part i.ctx).st != 0 && (s.ctx i.part i.ctx).gen == i.gen

/-- The run of a descriptor that holds a stream tile of its delivery sequence (06 R148, R157). -/
def Desc.runOf (d : Desc) (n : Nat) : StreamRun :=
  ((d.runs.filter (fun r => decide (r.seq0 ≤ n))).getLast?).getD { seq0 := 0, base := 0, counts := [] }
/-- The stream tile with which the run begins that delivers now. -/
def Desc.seq0 (d : Desc) : Nat := (d.runOf d.delivered).seq0
/-- The base of the run that delivers now (06 R141, R157). -/
def Desc.base (d : Desc) : Nat := (d.runOf d.delivered).base
/-- The count words of the run that delivers now, after SEG_CAP and MAX_ITEMS (05 R126). -/
def Desc.counts (d : Desc) : List Nat := (d.runOf d.delivered).counts
/-- Is the run that delivers now the last that was started? -/
def Desc.lastRun (d : Desc) : Bool :=
  match d.runs.getLast? with
  | some r => r.seq0 == d.seq0
  | none => true
/-- Stream tiles delivered since the last STREAM or STREAM_REARM (06 R163). -/
def Desc.sinceStart (d : Desc) : Nat := d.delivered - ((d.runs.getLast?).map (·.seq0)).getD 0
/-- The takes of a binding of a section. -/
def takesOf (t : Tbl TakeState) (n : Nat) : TakeState := tget t n { taken := 0, token := 0, start := 0, foreign := false }

/-- Is the cluster pinned at 1.350 GHz by strict mode (01 R39)? -/
def State.pinnedCl (s : State) (c : Nat) : Bool := (s.clock c).pinned

/-- Is the tile muffled (15 R345)? CLU_MUFFLE is indexed 16y + x. -/
def State.muffledTile (s : State) (ta : Nat) : Bool := (s.clY (taC ta)).muffled.contains (16 * taY ta + taX ta)

/-- Fold a state update over a list. -/
def State.each {α : Type} (s : State) (l : List α) (f : State → α → State) : State := l.foldl f s

end Sys2Proof.Machine
end

