-- ==== Sys2Proof/Machine/Walk.lean ====
section
/-! DEFINITION. Device addresses, frame tags, poisoned lines, region locks and the table walk (07 R164-R180, 08 R187-R192). -/
namespace Sys2Proof.Machine

/-- The memory that holds a device physical address (07 R164). -/
inductive Home where
  | hbm (group chan : Nat)
  | far (f : Nat)
  | cm (c s : Nat)
  | unmapped
  deriving DecidableEq, Repr

/-- The home of a DPA (07 R164, R166, R168). -/
def home (dpa : Nat) : Home :=
  if dpa < 0x9000000000 then
    let g := dpa / 0x300000000
    .hbm g (16 * (g / 4) + 4 * (g % 4) + field (dpa % 0x300000000) 11 2)
  else if 0x10000000000 ≤ dpa && dpa < 0x38000000000 then .far ((dpa - 0x10000000000) / 0x1400000000)
  else if 0x40000000000 ≤ dpa && dpa < 0x40080000000 then
    let o := dpa - 0x40000000000
    let sl := o % 0x8000000 / 0x100000
    if sl < 64 then .cm (o / 0x8000000) sl else .unmapped
  else .unmapped

/-- An HBM group offers memory when all four of its channels are in service (16 R377). -/
def State.groupOffers (s : State) (g : Nat) : Bool :=
  (List.range 4).all (fun i => (s.chan (16 * (g / 4) + 4 * (g % 4) + i)).st == 1)

/-- The physical slice that serves a logical slice (07 R169). -/
def State.physOf (s : State) (c sl : Nat) : Option Nat :=
  (List.range 66).find? (fun ph =>
    let x := s.slice c ph
    x.logical == sl && (x.st == 0 || x.st == 2))

/-- Is a DPA mapped to partition p and addressable (07 R165, 16 R377)? none if so, else the status. A muffled far-tier channel keeps its
addresses: the request ends with UNIT_MUFFLED (10 R240). -/
def State.dpaStatus (s : State) (p dpa : Nat) : Option Nat :=
  match home dpa with
  | .hbm g _ => match s.prec p with
    | some r => if r.hbm.testBit g && s.groupOffers g then none else some 0x65
    | none => some 0x65
  | .far f => match s.prec p with
    | some r => if r.far.testBit f then none else some 0x65
    | none => some 0x65
  | .cm c sl =>
    if s.owns p c then
      match s.physOf c sl with
      | some ph => if (s.slice c ph).mode == 0 && !(s.slice c ph).secondary then none else some 0x72
      | none => some 0x65
    else some 0x65
  | .unmapped => some 0x65

/-- The base of the frame a DPA lies in (07 R175): 64 KiB in cluster memory, 2 MiB elsewhere. -/
def frameBase (dpa : Nat) : Nat :=
  if 0x40000000000 ≤ dpa then dpa / 0x10000 * 0x10000 else dpa / 0x200000 * 0x200000

/-- The size of the frame a DPA lies in. -/
def frameSize (dpa : Nat) : Nat := if 0x40000000000 ≤ dpa then 0x10000 else 0x200000

/-- The owner tag of a frame (07 R175). -/
def State.tag (s : State) (dpa : Nat) : Option CtxId :=
  (s.mem.tags.find? (fun e => e.1 == frameBase dpa)).map (·.2)

/-- Do [a, a+m) and [b, b+n) overlap? -/
def overlaps (a m b n : Nat) : Bool := decide (a < b + n) && decide (b < a + m)

/-- Drop the stream-cache lines of a range in every cluster (07 R172); a fill under way of such a line is not installed (07 R184). -/
def State.dropLines (s : State) (dpa len : Nat) : State :=
  { s with clusters := tmap s.clusters (fun _ x =>
      { x with
        cache := x.cache.filter (fun l => !overlaps (l.line * 256) 256 dpa len)
        fills := x.fills.filter (fun a => !overlaps (a / 256 * 256) 256 dpa len) }) }

/-- Extents of device memory of which the manual says only that they hold unspecified data of the same context: free values, and no cached
line of them (04 R111, 09 R227, 11 R255, 15 R359, 19 R447; log entry 89). -/
def State.blur (s : State) : List (Nat × Nat) → State
  | [] => s
  | (a, n) :: l =>
    let s := s.dropLines a n
    State.blur { s with mem := { s.mem with bytes := mwriteBytes s.mem.bytes a (leBytes n (s.freeVal (8 * n)).toNat) }, freeCtr := s.freeCtr + 1 } l

/-- Zero-fill a frame (07 R176): zeros, no poison, no cached line. -/
def State.zeroFrame (s : State) (dpa : Nat) : State :=
  let b := frameBase dpa
  let n := frameSize dpa
  let s := s.dropLines b n
  { s with mem := { s.mem with
      bytes := mclear s.mem.bytes b n
      poison := s.mem.poison.filter (fun l => !overlaps (l * 64) 64 b n) } }

/-- Zero-fill a frame and tag it to a context (07 R176). -/
def State.takeFrame (s : State) (dpa : Nat) (i : CtxId) : State :=
  let s := s.zeroFrame dpa
  { s with mem := { s.mem with tags := tset s.mem.tags (frameBase dpa) i } }

/-- What a frame tag says to a translating context (07 R176). -/
inductive TagCheck where
  | admits | fill | owned
  deriving DecidableEq, Repr

/-- The frame tag check of 07 R176. -/
def State.tagCheck (s : State) (dpa : Nat) (i : CtxId) : TagCheck :=
  match s.tag dpa with
  | none => .fill
  | some j => if j = i then .admits else if s.live j then .owned else .fill

/-- Is any line of a range poisoned (07 R179)? -/
def State.poisoned (s : State) (dpa len : Nat) : Bool := s.mem.poison.any (fun l => overlaps (l * 64) 64 dpa len)

/-- Would a write of a range touch only a part of a poisoned line (07 R179)? -/
def State.partPoison (s : State) (dpa len : Nat) : Bool :=
  s.mem.poison.any (fun l => overlaps (l * 64) 64 dpa len && !(decide (dpa ≤ l * 64) && decide (l * 64 + 64 ≤ dpa + len)))

/-- Perform a write (07 R180): the bytes, the poison of wholly written lines (R179), the cached lines (R172). -/
def State.store (s : State) (dpa : Nat) (bs : List Byte) : State :=
  let n := bs.length
  let s := s.dropLines dpa n
  { s with mem := { s.mem with
      bytes := mwriteBytes s.mem.bytes dpa bs
      poison := s.mem.poison.filter (fun l => !(decide (dpa ≤ l * 64) && decide (l * 64 + 64 ≤ dpa + n))) } }

/-- Read n bytes of device memory as a little-endian number. -/
def State.load (s : State) (dpa n : Nat) : Nat := mread s.mem.bytes dpa n

/-- Does a lock of 04 R107 make this access wait? `holder` is the key of the battery whose own access it is. -/
def State.locked (s : State) (dpa len : Nat) (write : Bool) (holder : Option Nat) : Bool :=
  s.bats.any (fun e => e.2.locks && some e.1 != holder &&
    e.2.regions.any (fun r => overlaps r.dpa r.len dpa len && (r.out || write)))

/-- What a walk of the page tables answers (08 R190), before the frame tag is looked at; a host page comes with the size of its device
page as log2 (08 R195). -/
inductive XRes where
  | dev (dpa : Nat) (cache : Bool)
  | host (hua : Nat) (write : Bool) (page : Nat)
  | err (status : Nat)
  deriving DecidableEq, Repr

/-- The page size of a level, as log2 (08 R188). -/
def levelBits (level : Nat) : Nat := if level = 1 then 30 else if level = 2 then 21 else 16

/-- The index of a table at a level (08 R188). -/
def levelIndex (level va : Nat) : Nat :=
  if level = 1 then field va 30 18 else if level = 2 then field va 21 9 else field va 16 5

/-- Is a table's DPA in an HBM group given to the partition that offers memory (08 R188)? -/
def State.tableOk (s : State) (p dpa : Nat) : Bool :=
  match home dpa with
  | .hbm _ _ => s.dpaStatus p dpa == none
  | _ => false

/-- A checked leaf (08 R189, R190): the page it maps. -/
def leafCheck (e level va : Nat) (write : Bool) : XRes :=
  let n := levelBits level
  let host := e.testBit 2
  if field e 5 3 != 0 || (host && e.testBit 4) || e % 2 ^ n / 256 != 0 || (!host && e / 2 ^ 43 != 0) then .err 0x65
  else if write && !e.testBit 3 then .err 0x66
  else if host then .host (e / 256 * 256 + va % 2 ^ n) (e.testBit 3) n
  else .dev (e / 256 * 256 + va % 2 ^ n) (e.testBit 4)

/-- The table walk (08 R188-R190), reading at most three levels. -/
def State.walk (s : State) (p va : Nat) (write : Bool) : Nat → Nat → Nat → XRes
  | 0, _, _ => .err 0x65
  | fuel + 1, level, table =>
    if !s.tableOk p table then .err 0x65
    else
      let a := table + 8 * levelIndex level va
      if s.poisoned a 8 then .err 0x70
      else
        let e := s.load a 8
        if !e.testBit 0 then .err 0x65
        else if e.testBit 1 then leafCheck e level va write
        else if level = 3 || field e 2 6 != 0 || e / 2 ^ 43 != 0 || (level = 1 && field e 8 4 != 0) then .err 0x65
        else s.walk p va write fuel (level + 1) (e / 256 * 256)

/-- A walk of a context's tables from its root (08 R187, R190), with the DPA check of R165. -/
def State.resolve (s : State) (i : CtxId) (va : Nat) (write : Bool) : XRes :=
  let x := (s.ctx i.part i.ctx).xlat
  if 2 ^ 48 ≤ va then .err 0x69
  else if !x.enable then .err 0x65
  else match s.walk i.part va write 3 1 (x.root * 2 ^ 21) with
    | .dev dpa c => match s.dpaStatus i.part dpa with
      | none => .dev dpa c
      | some st => .err st
    | r => r

/-- The DPA to which a context's tables lead a VA, whatever it may do there (15 R343): none for a host page or where the walk fails. -/
def State.leadsTo (s : State) (i : CtxId) (va : Nat) : Option Nat :=
  let x := (s.ctx i.part i.ctx).xlat
  if 2 ^ 48 ≤ va || !x.enable then none
  else match s.walk i.part va false 3 1 (x.root * 2 ^ 21) with
  | .dev dpa _ => some dpa
  | _ => none

/-- Translate in one step (08 R190, 07 R176): the walk, the frame tag, and the zero-fill it asks for. -/
def State.translate (s : State) (i : CtxId) (va : Nat) (write : Bool) : State × XRes :=
  match s.resolve i va write with
  | .dev dpa c => match s.tagCheck dpa i with
    | .admits => (s, .dev dpa c)
    | .fill => (s.takeFrame dpa i, .dev dpa c)
    | .owned => (s, .err 0x71)
  | r => (s, r)

/-- The device memory behind a range of a context's VAs holds unspecified data (11 R255, 15 R359), page by page of 64 KiB; host
pages are left out. -/
def State.blurVa (s : State) (i : CtxId) : Nat → Nat → Nat → State
  | 0, _, _ => s
  | fuel + 1, va, n =>
    if n = 0 then s
    else
      let k := min n (0x10000 - va % 0x10000)
      (match (s.translate i va true).2 with
        | .dev dpa _ => s.blur [(dpa, k)]
        | _ => s).blurVa i fuel (va + k) (n - k)

/-- The VAs at which a context's tables map a frame of 64 KiB: the leaves of its tables, page by page of the loss. A level-1
table has 2^18 entries; the walk looks at the entries that are not zero. -/
def State.leavesTo (s : State) (p dpa len : Nat) : Nat → Nat → Nat → Nat → List (Nat × Nat × Nat)
  | 0, _, _, _ => []
  | fuel + 1, level, table, va =>
    if !s.tableOk p table then []
    else
      let n := if level = 1 then 2 ^ 18 else if level = 2 then 512 else 32
      let used := ((s.mem.bytes.filter (fun b => decide (table ≤ b.1) && decide (b.1 < table + 8 * n))).map
        (fun b => (b.1 - table) / 8)).eraseDups
      used.flatMap (fun ix =>
        let e := s.load (table + 8 * ix) 8
        let v := va + ix * 2 ^ levelBits level
        if !e.testBit 0 then []
        else if e.testBit 1 then
          match leafCheck e level v false with
          | .dev a _ =>
            let sz := 2 ^ levelBits level
            if overlaps a sz dpa len then
              let lo := max a dpa
              [(lo, v + (lo - a), min (a + sz) (dpa + len) - lo)]
            else []
          | _ => []
        else if level = 3 then []
        else s.leavesTo p dpa len fuel (level + 1) (e / 256 * 256) v)

end Sys2Proof.Machine
end

