-- ==== Sys2Proof/Machine/RingTx.lean ====
section
/-! DEFINITION. The optical ring's wavelengths, ports and outgoing frames (19 R428-R433, R441, R447). -/
namespace Sys2Proof.Machine

/-- The two engines of a ring port (19 R428). -/
def engineOf (port half : Nat) : Nat :=
  let l := if port = 0 then (7, 0) else if port = 1 then (1, 2) else if port = 2 then (5, 6) else (3, 4)
  if half = 0 then l.1 else l.2

/-- The ring port of an engine. -/
def portOfEngine (e : Nat) : Nat := [0, 1, 1, 3, 3, 2, 2, 0].getD e 0

/-- A wavelength by 17 e + w. -/
def State.wave (s : State) (i : Nat) : Wave := tget s.ring.waves i Wave.reset
def State.updWave (s : State) (i : Nat) (f : Wave → Wave) : State :=
  { s with ring := { s.ring with waves := tset s.ring.waves i (f (s.wave i)) } }

/-- A ring port. -/
def State.rport (s : State) (p : Nat) : RingPort := tget s.ring.ports p RingPort.reset
def State.updRport (s : State) (p : Nat) (f : RingPort → RingPort) : State :=
  { s with ring := { s.ring with ports := tset s.ring.ports p (f (s.rport p)) } }

/-- The carrying wavelengths of an engine. -/
def State.carrying (s : State) (e : Nat) : List Nat := (List.range 17).filter (fun w => (s.wave (17 * e + w)).carry)

/-- Is a port READY or LINKED (19 R437)? -/
def State.portUpRing (s : State) (p : Nat) : Bool := (s.rport p).st == 1 || (s.rport p).st == 2

/-- Is an engine muffled whole (19 R429)? On a LINKED port one that carries nothing; else one on which no 8 wavelengths are left. -/
def State.engineOff (s : State) (linked : Bool) (e : Nat) : Bool :=
  if linked then (s.carrying e).isEmpty else decide (((List.range 17).filter (fun w => !(s.wave (17 * e + w)).muffled)).length < 8)

/-- The state of a port after its wavelengths changed (19 R429): an engine with fewer than 8 is muffled whole; with both muffled the
port is DOWN. -/
def State.checkEngine (s : State) (e : Nat) : State :=
  let p := portOfEngine e
  let s := if (s.carrying e).length < 8 then
      (List.range 17).foldl (fun s w => s.updWave (17 * e + w) (fun x => { x with carry := false })) s
    else s
  let linked := (s.rport p).st == 2
  if s.engineOff linked (engineOf p 0) && s.engineOff linked (engineOf p 1) then
    s.updRport p (fun x => { x with st := 3 })
  else s

/-- A wavelength is muffled (19 R429): its traffic and its replay buffer move to the engine's free wavelength, if there is one, and the
frames of the buffer are sent again on it. -/
def State.muffleWave (s : State) (i : Nat) : State :=
  let x := s.wave i
  let e := i / 17
  let s := s.updWave i (fun w => { w with muffled := true, carry := false, replay := [] })
  if !x.carry then s.checkEngine e
  else
    let s := match (List.range 17).find? (fun w => !(s.wave (17 * e + w)).carry && !(s.wave (17 * e + w)).muffled) with
      | some w =>
        x.replay.foldl (fun (s : State) (f : Nat × Nat × Nat) => s.emit (.optical (portOfEngine e) (17 * e + w) f.2.1))
          ((s.updWave (17 * e + w) (fun y => { y with carry := true, nextFseq := x.nextFseq, inOrder := x.inOrder, acked := x.acked, replay := x.replay })).updRport
            (portOfEngine e) (fun q => { q with retries := wrapAdd 32 q.retries x.replay.length }))
      | none => s
    s.checkEngine e

/-- A wavelength is back in service, not yet carrying; a DOWN port listens again once that readmits its engine (19 R437). -/
def State.wakeWave (s : State) (i : Nat) : State :=
  let s := s.updWave i (fun w => { w with muffled := false })
  if s.engineOff false (i / 17) then s
  else s.updRport (portOfEngine (i / 17)) (fun q => if q.st == 3 then { q with st := 0 } else q)

/-- Send one 640-byte frame on an engine's next carrying wavelength (19 R433): a frame header, then the data. -/
def State.sendFrame (s : State) (e data : Nat) : State :=
  let l := s.carrying e
  let k := tget s.ring.sentFrames e 0
  match l[k % l.length]? with
  | none => s
  | some w =>
    let x := s.wave (17 * e + w)
    let frame := pack [(8, x.nextFseq), (1, 0), (8, x.inOrder), (3, 0), (5120, data)]
    let s := { s with ring := { s.ring with sentFrames := tset s.ring.sentFrames e (k + 1) } }
    let s := s.updWave (17 * e + w) (fun y => { y with
      nextFseq := wrapAdd 8 y.nextFseq 1, replay := (y.replay ++ [(x.nextFseq, frame, 0)]).drop (y.replay.length + 1 - 128) })
    s.emit (.optical (portOfEngine e) (17 * e + w) frame)

/-- Send a ring packet of n bytes out of a port, in consecutive frames of one engine (19 R441); while an open segment relinks it is
held (19 R437). -/
def State.sendRing (s : State) (p packet n : Nat) : State :=
  let q := s.rport p
  if q.st == 2 then
    let e := if (s.carrying (engineOf p 0)).isEmpty then engineOf p 1 else engineOf p 0
    (List.range ((n + 639) / 640)).foldl (fun s i => s.sendFrame e (field packet (5120 * i) 5120)) s
  else if q.st == 1 && q.bypassOpen then s.updRport p (fun q => { q with held := q.held ++ [(packet, n)] })
  else s

/-- Is a ring in service (19 R439)? -/
def State.ringOk (s : State) (r : Nat) : Bool := (tget s.ring.census r (0, false)).2

/-! A RING_OP (19 R442). -/

/-- The rings a RING_OP names: 0 A, 1 B. -/
def ringsOf (bits : BitVec 512) : List Nat :=
  let n := bf bits 74 2
  if n = 0 then [0, 1] else if n = 1 then [0] else if n = 2 then [1] else []

def ringOpc (bits : BitVec 512) : Nat := bf bits 68 4
def ringCount (bits : BitVec 512) : Nat := bf bits 256 32
def ringPeer (bits : BitVec 512) : Nat := bf bits 96 6

/-- The members of a RING_OP, lowest rank first. -/
def membersOf (bits : BitVec 512) : List Nat := bitsOf 64 (bf bits 320 64)

/-- The other members. -/
def State.peersOf (s : State) (bits : BitVec 512) : List Nat := (membersOf bits).filter (fun m => m != s.ring.index)

/-- A member's rank. -/
def rankOf (bits : BitVec 512) (m : Nat) : Nat := ((membersOf bits).filter (fun x => decide (x < m))).length

/-- The part of the source this member sends to another, offset and bytes (log entry 40): its block to each rank in a
REDUCE_SCATTER, the whole source otherwise, nothing for RECV. -/
def RingJob.part (j : RingJob) (m : Nat) : Nat × Nat :=
  let b := j.cmd.bits
  let n := 4 * ringCount b
  if ringOpc b = 1 then (n / (membersOf b).length * rankOf b m, n / (membersOf b).length)
  else if ringOpc b = 4 then (0, 0) else (0, n)

/-- The bytes this member takes from each other member. -/
def RingJob.wants (j : RingJob) : Nat :=
  let b := j.cmd.bits
  let n := 4 * ringCount b
  if ringOpc b = 1 then n / (membersOf b).length else if ringOpc b = 3 then 0 else n

/-- Bytes of the source and of the destination (19 R442). -/
def ringSizes (b : BitVec 512) : Nat × Nat :=
  let n := 4 * ringCount b
  let m := (membersOf b).length
  let op := ringOpc b
  (if op = 4 then 0 else n, if op = 1 then n / m else if op = 2 then n * m else if op = 3 then 0 else n)

/-- The rings in service that a job uses. -/
def State.jobRings (s : State) (j : RingJob) : List Nat := (ringsOf j.cmd.bits).filter (fun r => s.ringOk r)

/-- Does a job wait for a member's credit (19 R446)? -/
def State.jobWaits (s : State) (j : RingJob) : Bool :=
  (s.peersOf j.cmd.bits).any (fun m => decide (tget j.credits m 0 < (j.part m).2))

/-- A µs in which operations in progress wait for credit (19 R450 WAIT). -/
def State.countRingWait (s : State) : State :=
  (((s.ring.jobs.filter (fun j => s.jobWaits j)).map (·.cluster)).eraseDups).foldl (fun s c =>
    s.updClY c (fun y => { y with ringWait := wrapAdd 32 y.ringWait 1 })) s

/-- The staging granted per operation, ring and direction (19 R446). -/
def ringGrant : Nat := 262144

/-- Send a packet of a job to a member (19 R441): type, ring, direction, chunk, argument, data. -/
def State.sendJob (s : State) (j : RingJob) (typ r dir dst chunk arg : Nat) (data : List Byte) : State × RingJob :=
  let n := tget j.seqOut (64 * r + dst) 0
  let h := pack [(4, typ), (1, r), (1, dir), (6, s.ring.index), (6, dst), (2, 0), (16, (tget s.ring.keys j.owner.part (0, false)).1),
    (16, bf j.cmd.bits 80 16), (4, ringOpc j.cmd.bits), (8, 0), (32, chunk), (14, data.length), (18, 0), (32, n), (32, arg), (64, 0)]
  (s.sendRing (2 * r + 1 - dir) (h + 2 ^ 256 * leNat data) (32 + data.length),
    { j with seqOut := tset j.seqOut (64 * r + dst) (wrapAdd 32 n 1) })

/-- A job leaves the engine with a status, its staging dropped. -/
def State.takeJob (s : State) (j : RingJob) (status : Nat) : State :=
  let s := { s with ring := { s.ring with jobs := s.ring.jobs.erase j } }
  s.updClY j.cluster (fun y => { y with ringLast := status })

/-- A RING_OP ends early (19 R447): its destination holds unspecified data, and ABORT goes to every other member, eastwards on
the first ring in service. -/
def State.dropJob (s : State) (j : RingJob) (status : Nat) : State :=
  let s := (s.blur j.dst).takeJob j status
  match (s.jobRings j) with
  | [] => s
  | r :: _ => (s.peersOf j.cmd.bits).foldl (fun s m => (s.sendJob j 3 r 0 m 0 status []).1) s

end Sys2Proof.Machine
end

