-- ==== Sys2Proof/Machine/Report.lean ====
section
/-! DEFINITION. Reporting: interrupts, the log ring, belfry reports, fault records, completions, fatal faults (20 R453,
18 R417-R420, 20 R462, 15 R342-R344, 11 R262, 08 R193). -/
namespace Sys2Proof.Machine

/-- Key of an MSI-X vector: port, function, vector. -/
def msixKey (port f vec : Nat) : Nat := (port * 17 + f) * 2048 + vec

/-- Key of a function's MSI-X Enable bit, kept as vector 2047 of the function. -/
def msixEnKey (port f : Nat) : Nat := msixKey port f 2047

/-- Send one MSI-X message, or set the pending bit of a vector masked by itself or with its function (20 R453). -/
def State.msi (s : State) (port f vec : Nat) : State :=
  let e := tget s.hosts.msix (msixKey port f vec) (false, false)
  if e.1 || (tget s.hosts.msix (msixKey port f 2046) (false, false)).1 then { s with hosts := { s.hosts with msix := tset s.hosts.msix (msixKey port f vec) (e.1, true) } }
  else s.emit (.interrupt port f vec)

/-- Is MSI-X enabled at a function (20 R453)? -/
def State.msixOn (s : State) (port f : Nat) : Bool := (tget s.hosts.msix (msixEnKey port f) (false, false)).1

/-- Send the interrupt of vector k of partition p to its VF, or to the owner port's PF (20 R453). -/
def State.partMsi (s : State) (p k : Nat) : State :=
  match s.prec p with
  | none => s
  | some r =>
    if s.msixOn r.owner r.vf then s.msi r.owner r.vf k
    else if s.msixOn r.owner 0 then s.msi r.owner 0 (8 + 65 * p + k)
    else s

/-- The completion interrupt of a context (11 R262, 20 R453): its cause bit, then one message. -/
def State.irqCq (s : State) (p k : Nat) : State :=
  if (s.ctxX p k).irqCq = 0 then (s.updCtxX p k (fun x => { x with irqCq := 1 })).partMsi p k else s

/-- The fault interrupt of a context (15 R344, 20 R453). -/
def State.irqFault (s : State) (p k : Nat) : State :=
  if (s.ctxX p k).irqFault = 0 then (s.updCtxX p k (fun x => { x with irqFault := 1 })).partMsi p k else s

/-- An interrupt of every PF that is enabled (20 R453 vectors 0 and 1). -/
def State.irqPf (s : State) (vec : Nat) : State :=
  s.each (List.range 4) (fun s i => if s.msixOn i 0 then s.msi i 0 vec else s)

/-! The log ring. -/

/-- A log entry (18 R418). -/
def logEntry (typ core comp frag last seq now data : Nat) : LogEntry :=
  BitVec.ofNat 256 (pack [(8, typ), (8, core), (4, comp), (4, frag), (4, last), (4, 0), (32, seq), (64, now), (128, data)])

/-- Write a record of n bytes to the log ring (18 R417): consecutive entries, the newest first in the list; the oldest of
32,768 is overwritten. -/
def State.log_ (s : State) (typ core comp n data : Nat) : State :=
  let last := (n + 15) / 16 - 1
  let es := (List.range (last + 1)).map (fun i =>
    logEntry typ core comp i last ((s.log.nextSeq + i) % 2 ^ 32) s.now (field data (128 * i) 128))
  { s with log := { s.log with
      ring := (es.reverse ++ s.log.ring).take 32768
      nextSeq := (s.log.nextSeq + last + 1) % 2 ^ 32 } }

/-- The function code of an access event (18 R418): port in [6:5], function in [4:0]. -/
def fnCode : Fn → Nat
  | .pf port => 32 * port.val
  | .vf port v => 32 * port.val + v.val
  | .net => 0

/-- The offset of a register in the BAR0 of a function (20 R452), from its offset in the PF's. -/
def fnOff (fn : Fn) (off : Nat) : Nat :=
  match fn with
  | .vf _ _ => if 0x200000 ≤ off && off < 0x240000 then 0x10000 + off % 0x4000
      else if 0x10000 ≤ off && off < 0x110000 then off % 0x10000 else off
  | _ => off

/-- An access event (18 R418): offset, function, owner function or 0x7F, reason, value. The offset and the value are those of the access
being performed; of a command that is a register's own row, those of its register, given by their place in a PF's BAR0. -/
def State.logAccess (s : State) (fn : Fn) (off owner reason val : Nat) : State :=
  let a := s.hosts.acc.getD (fnOff fn off, val)
  s.log_ 0x06 3 0 16 (pack [(32, a.1), (7, fnCode fn), (1, b2n (fn == .net)), (7, owner), (1, 0), (8, 0), (8, reason), (64, a.2)])

/-- Perform a register access at an offset of the function's own BAR0 with a value, which the access events of it name (18 R418). -/
def State.withAccess (s : State) (off val : Nat) (act : State → State) : State :=
  let t := act { s with hosts := { s.hosts with acc := some (off, val) } }
  { t with hosts := { t.hosts with acc := none } }

/-- A power event (18 R418). -/
def State.logPower (s : State) (c : Nat) (wide : Bool) (code loop status count : Nat) : State :=
  s.log_ 0x08 1 0 16 (pack [(4, c), (1, b2n wide), (7, code), (4, loop), (8, status), (16, count)])

/-! The belfry (20 R457, R462). -/

/-- The tag of a message (20 R457): the first 16 bytes of HMAC-SHA-256 under the management key. -/
def bfTag (key : BitVec 256) (bytes : List Byte) : BitVec 128 := (Config.hmac256 key bytes).setWidth 128

/-- The header of a message (20 R457). -/
def bfHeader (typ : Nat) (fromDev resp ack : Bool) (port seq ref len now : Nat) : List Byte :=
  leBytes 32 (pack [(32, 0x31594642), (8, 1), (8, typ), (1, b2n fromDev), (1, b2n resp), (1, b2n ack), (5, 0), (1, port), (7, 0),
    (32, seq), (32, ref), (11, len), (21, 0), (64, now), (32, 0)])

/-- A whole datagram of the module: header, payload, tag. -/
def State.bfMsg (s : State) (typ : Nat) (resp ack : Bool) (port seq ref : Nat) (payload : List Byte) : Nat :=
  let b := bfHeader typ true resp ack port seq ref payload.length s.now ++ payload
  leNat (b ++ leBytes 16 (bfTag s.belfry.key b).toNat)

/-- Has a management port link? -/
def State.bfLink (s : State) (port : Nat) : Bool := if port = 0 then s.belfry.link0 else s.belfry.link1

/-- Where reports of a port go (20 R462): its collector, as address and UDP port, or ff02::1 port 50480. -/
def State.bfDest (s : State) (port : Nat) : Nat :=
  (if port = 0 then s.belfry.coll0 else s.belfry.coll1).getD (0xFF020000000000000000000000000001 * 65536 + 50480)

/-- Send a message on both ports (20 R457); a port without link sends nothing. -/
def State.bfSend (s : State) (typ : Nat) (resp ack : Bool) (seq ref : Nat) (payload : List Byte) : State :=
  s.each [0, 1] (fun s port => if s.bfLink port then s.emit (.belfry port (s.bfDest port) (s.bfMsg typ resp ack port seq ref payload)) else s)

/-- Bytes of a report's payload (20 R459). -/
def reportLen (typ : Nat) : Nat :=
  if typ = 2 then 256 else if typ = 3 then 64 else if typ = 4 then 32 else if typ = 5 then 4 else 8

/-- The response to a request (20 R457, R458): a status byte and bytes, kept among the 64 highest and sent on the port it came by, to the
sender of the request, for which the destination 0 stands. -/
def State.respond (s : State) (port typ ref status : Nat) (bytes : List Byte) : State :=
  let b := s.belfry
  let m := s.bfMsg typ true false port b.seq ref (BitVec.ofNat 8 status :: bytes)
  let all := b.kept ++ [(ref, m)]
  let low := all.foldl (fun n e => min n e.1) ref
  let s := { s with belfry := { b with
      seq := wrapAdd 32 b.seq 1, kept := if all.length ≤ 64 then all else all.filter (fun e => e.1 != low) } }
  if s.bfLink port then s.emit (.belfry port 0 m) else s

/-- What a request waits for (20 R461): the module, a partition, a swap, a staging or a context. -/
def waitModule : Nat := 99
def waitPart (p : Nat) : Nat := 100 + p
def waitSwap (t : Nat) : Nat := 200 + t
def waitStage : Nat := 300
def waitCtx (p k : Nat) : Nat := 1000 + 64 * p + k
def waitUnit (kind idx : Nat) : Nat := 65536 * (kind + 1) + idx

/-- The requests that wait for something are answered with its status (20 R461). -/
def State.answer (s : State) (key status : Nat) : State :=
  let ws := s.belfry.waits.filter (fun w => w.1 == key)
  let s := { s with belfry := { s.belfry with waits := s.belfry.waits.filter (fun w => w.1 != key) } }
  s.each ws (fun s w => s.respond w.2.1 w.2.2.1 w.2.2.2 status [])

/-! Belfry reports. -/

/-- Queue a belfry report and send it on both ports (20 R462): at most 256 are held, the oldest is dropped and counted. -/
def State.report (s : State) (typ payload : Nat) : State :=
  let b := s.belfry
  let seq := b.seq
  let all := b.reports ++ [(seq, typ, payload, s.now)]
  let s := { s with belfry := { b with
      seq := wrapAdd 32 seq 1
      reports := if all.length ≤ 256 then all else all.tail
      dropped := if all.length ≤ 256 then b.dropped else satAdd 16 b.dropped 1 } }
  s.bfSend typ false true seq 0 (leBytes (reportLen typ) payload)

/-- An EVENT message (20 R459): status, unit or rail, and an argument that the manual does not define (log entry 4). -/
def State.event (s : State) (status unit_ : Nat) : State :=
  (s.drew 1).report 0x06 (pack [(8, status), (8, unit_), (48, (s.freeVal 48).toNat)])

/-! Fault records. -/

/-- A fault record as its 256 bytes (15 R342, R343). -/
def FaultRec.bits (r : FaultRec) (now rseq : Nat) : Nat :=
  pack [(8, r.status), (3, r.agent), (1, b2n r.unresolved), (1, b2n r.fatal), (3, 0),
    (4, r.part.getD 0), (6, (r.ctx.map (·.ctx)).getD 0), (1, b2n r.ctx.isSome), (5, 0),
    (8, (r.ctx.map (·.gen)).getD 0), (4, r.cluster), (6, r.battery), (14, 0),
    (13, r.taddr), (3, 0), (16, r.further), (32, r.section_), (26, r.cycle), (6, 0), (48, r.va), (48, 0),
    (64, now), (32, rseq), (160, 0), (1536, r.detail)]

/-- A blank record of a status and an agent. -/
def FaultRec.of (status agent : Nat) : FaultRec :=
  { status, agent, unresolved := false, fatal := false, part := none, ctx := none, cluster := 0, battery := 0, taddr := 0,
    further := 0, section_ := 0, cycle := 0, va := 0, detail := 0 }

/-- Statuses whose records go to the belfry (15 R344): the hardware-suspect statuses, and those of R230, R324, R340, R366. -/
def toBelfry (status : Nat) : Bool :=
  isSuspect status || status == 0x73 || status == 0x90 || status == 0x91 || (decide (0xB0 ≤ status) && decide (status ≤ 0xB8)) ||
    (decide (0xC0 ≤ status) && decide (status ≤ 0xC4)) || status == 0x70

/-- Write a record into the fault ring of its context (15 R344). -/
def State.ringRecord (s : State) (i : CtxId) (r : FaultRec) : State :=
  let x := s.ctxX i.part i.ctx
  let bits := r.bits s.now x.rseq
  let s := s.updCtxX i.part i.ctx (fun x => { x with rseq := wrapAdd 32 x.rseq 1 })
  if !x.ringEnable || 2 ^ x.ringSize ≤ (x.tail + 2 ^ 32 - x.head) % 2 ^ 32 then
    s.updCtxX i.part i.ctx (fun x => { x with overrun := satAdd 16 x.overrun 1 })
  else
    let fail := s.updCtxX i.part i.ctx (fun x => { x with ringFault := true })
    match s.translate i (x.ringBase + 256 * (x.tail % 2 ^ x.ringSize)) true with
    | (s1, .dev dpa _) => match home dpa with
      | .hbm _ _ =>
        ((s1.store dpa (leBytes 256 bits)).updCtxX i.part i.ctx (fun x => { x with tail := wrapAdd 32 x.tail 1 })).irqFault
          i.part i.ctx
      | _ => fail
    | _ => fail

/-- Raise a fault record: the context's ring, the partition window, the belfry and the log (15 R344). -/
def State.raise (s : State) (r : FaultRec) : State :=
  let rseq := match r.ctx with
    | some i => (s.ctxX i.part i.ctx).rseq
    | none => 0
  let bits := r.bits s.now rseq
  let s := s.log_ 0x01 3 0 256 bits
  let s := if toBelfry r.status then s.report 0x02 bits else s
  match r.ctx with
  | some i => if (s.ctx i.part i.ctx).gen = i.gen then s.ringRecord i r else s
  | none => match r.part with
    | some p => (s.updPart p (fun x => { x with lastRec := BitVec.ofNat 2048 bits, irq := 1 })).partMsi p 64
    | none => s

/-! Completions. -/

/-- The success status of an opcode (11 R262). -/
def successOf (op : Nat) : Nat :=
  if op = 0x02 || op = 0x03 then St.committed
  else if op = 0x10 || op = 0x11 then St.delivered
  else if op = 0x20 then 0xF0 else St.completed

/-- The bits of a completion entry (11 R262). -/
def compEntry (r : CmdRef) (status pos now : Nat) : Nat :=
  pack [(8, status), (2, r.x), (6, 0), (16, r.tag), (32, r.idx), (8, r.op), (2, pos), (54, 0), (64, now), (64, 0)]

/-- Move HEAD past the completed commands (11 R258). -/
def advanceHead : Nat → CmdQueue → CmdQueue
  | 0, q => q
  | n + 1, q =>
    if q.done.contains q.head then advanceHead n { q with done := q.done.erase q.head, head := wrapAdd 32 q.head 1 } else q

/-- Mark a command complete (11 R258, R259). -/
def State.markDone (s : State) (p k x idx : Nat) : State :=
  s.updQueue p k x (fun q => advanceHead 64 { q with done := idx :: q.done, inProg := q.inProg.filter (fun r => r.idx != idx) })

/-- Complete a command (11 R262): an entry if the status is not its success status or CQE is 1, with NOTIFY kept above the
entry until it is written. -/
def State.complete (s : State) (r : CmdRef) (status pos : Nat) : State :=
  if status != successOf r.op || r.cqe then
    s.updCtx r.part r.ctx (fun c => { c with comps := c.comps ++ [compEntry r status pos s.now + 2 ^ 256 * b2n r.notify] })
  else s.markDone r.part r.ctx r.x r.idx

/-- Complete a command if there is one. -/
def State.completeOpt (s : State) (r : Option CmdRef) (status : Nat) : State :=
  match r with
  | some r => s.complete r status 0
  | none => s

/-! Fatal faults. -/

/-- Descriptors, by key, whose owner is a context. -/
def State.descsOf (s : State) (i : CtxId) : List Nat := (s.descs.filter (fun e => e.2.owner == some i)).map (·.1)

/-- Stop an ACTIVE or PARKED descriptor with a status that is not replayable; its command completes (08 R193, R508). -/
def State.stopDesc (s : State) (key status : Nat) : State :=
  let d := tget s.descs key Desc.reset
  if d.st == .active || d.st == .parked then
    let s := { s with descs := tset s.descs key { d with st := .stopped, lastStatus := status, cmd := none } }
    s.completeOpt d.cmd status
  else if d.st == .stopped && (d.lastStatus == 0x67 || d.lastStatus == 0x68 || d.lastStatus == 0x6B) then
    let s := { s with descs := tset s.descs key { d with lastStatus := status, cmd := none } }
    s.completeOpt d.cmd status
  else s

/-- The tiles of a battery leave ARM or RUN: no bank assignment is in force (02 R60). -/
def State.quietTiles (s : State) (c b : Nat) : State :=
  s.each (s.batTiles c b) (fun s e => s.updTile e.2 (fun t => { t with
    ctl := { t.ctl with wide := 0, running := false }
    core := { t.core with threads := tmap t.core.threads (fun i th => if i < 3 then { th with running := false } else th) } }))

/-- The chain a command stands for. -/
def State.chainBy (s : State) (c : Nat) (r : CmdRef) : Option Chain :=
  if r.op == 3 then (s.cl c).chains.find? (fun h => h.cmd == r) else none

/-- End a chain (06 R159): its status and position, its buffers back in the pool. -/
def State.endChain (s : State) (c : Nat) (h : Chain) (status : Nat) : State :=
  let s := s.updCl c (fun x => { x with chains := x.chains.filter (fun g => g.cmd != h.cmd) })
  s.complete h.cmd status h.pos

/-- The opcode under which the implied SEC_RUN of a chain section waits at its battery. -/
def chainRun : Nat := 0x103

/-- Complete the command of a battery of a cluster; a chain ends, with the position of its section (06 R159). -/
def State.completeAt (s : State) (c : Nat) (r : Option CmdRef) (status : Nat) : State :=
  match r with
  | none => s
  | some r => match s.chainBy c { r with op := if r.op = chainRun then 3 else r.op } with
    | some h => s.endChain c h status
    | none => s.complete r status 0

/-- What a battery shows when no section is in ARM or later (04 R119): LOADED or LOADING of its shadow, else EMPTY. -/
def Battery.restState (x : Battery) : BState :=
  if x.shadow.isSome then .loaded else if x.loadImg.isSome then .loading else .empty

/-- A battery that its section has left; the shadow and the active image stay (04 R103, R105). -/
def Battery.left (x : Battery) : Battery :=
  { x with
    st := x.restState, cmd := none, waitLock := false, waitSwap := false, waitPin := false, faults := []
    locks := false, regions := [], armOk := false, endPending := false }

/-- The section leaves the battery, its command not completed: it is held or runs again later (15 R348, 11 R269). -/
def State.leaveBattery (s : State) (c b : Nat) : State := s.updBat c b Battery.left

/-- The section leaves the battery with a status (04 R119). -/
def State.endBattery (s : State) (c b status : Nat) : State := s.updBat c b (fun x => { x.left with lastStatus := status })

/-- Empty the shadow of a battery. -/
def Battery.emptied (x : Battery) : Battery :=
  { x with
    rsv := none, shadow := none, loadImg := none, loadCmd := none
    st := if x.st == .loading || x.st == .loaded then .empty else x.st }

/-- Is a command of a context? -/
def ofCtx (p k : Nat) (r : CmdRef) : Bool := r.part == p && r.ctx == k

/-- One battery after a fault fatal to a context (08 R193 steps 2 and 4): a section of it in ARM, or held for re-placement, its load, and
its commands that wait end with ARM_CANCELLED; one in RUN or COMMIT goes on; log entry 94. -/
def State.cancelBat (s : State) (i : CtxId) (key : Nat) : State :=
  let c := key / 64
  let b := key % 64
  let x := s.bat c b
  let mine := x.waiting.filter (fun r => ofCtx i.part i.ctx r)
  let s := s.updBat c b (fun y => { y with waiting := y.waiting.filter (fun r => !ofCtx i.part i.ctx r) })
  let s := if x.owner == some i && (x.st == .arm || (s.batX c b).held) then
      ((((s.quietTiles c b).endBattery c b St.armCancelled).updBatX c b (fun y => { y with held := false })).completeAt c x.cmd St.armCancelled)
    else s
  let s := if x.rsv == some i then
      (s.updBat c b (fun y => { y.emptied with lastStatus := St.armCancelled })).completeAt c x.loadCmd St.armCancelled
    else s
  s.each mine (fun s r => s.completeAt c (some r) St.armCancelled)

/-- Sections of a context in LOADING, LOADED or ARM end with ARM_CANCELLED (08 R193 step 4). -/
def State.cancelSections (s : State) (i : CtxId) : State := s.each (s.bats.map (·.1)) (fun s key => s.cancelBat i key)

/-- Does a wait for an engine slot belong to a context: its command is the context's, or a descriptor of it waits to resume (06 R138)? -/
def State.waitOf (s : State) (c : Nat) (i : CtxId) (w : EngWait) : Bool :=
  match w.cmd with
  | some r => ofCtx i.part i.ctx r
  | none => (s.desc c w.engine w.desc).owner == some i

/-- A context's waits for engine slots end; what becomes of the command of each is given (06 R138). -/
def State.dropWaits (s : State) (i : CtxId) (f : State → Option CmdRef → State) : State :=
  let waits := s.clusters.flatMap (fun e => (e.2.engWait.filter (fun w => s.waitOf e.1 i w)).map (fun w => (e.1, w)))
  s.each waits (fun s (e : Nat × EngWait) =>
    f ((s.updCl e.1 (fun x => { x with engWait := x.engWait.erase e.2 })).updDescX e.1 e.2.engine e.2.desc (fun y =>
      { y with engWait := false })) e.2.cmd)

/-- The order in progress on a context completes with a result (11 R281). -/
def State.ctxResult (s : State) (p k result : Nat) : State :=
  (s.updCtx p k (fun c => { c with go := false, result })).answer (waitCtx p k) result

/-- A context enters FAULTED (08 R193, 11 R255): from ACTIVE, or from an operation in progress, which completes with the status of the
fault; a context in another state stays in it; log entry 94. -/
def State.enterFaulted (s : State) (i : CtxId) (status : Nat) : State :=
  let st := (s.ctx i.part i.ctx).st
  let t := s.updCtx i.part i.ctx (fun c => { c with st := 7, xlat := { c.xlat with faulted := true } })
  if st = 1 then t else if st = 2 || st = 4 || st = 6 then t.ctxResult i.part i.ctx status else s

/-- A fault fatal to a context (08 R193): the record, FAULTED, descriptors stopped, sections before RUN cancelled; log entry 35; log entry 94.
A context whose generation has passed is not live, and only the record is written. -/
def State.fatal (s : State) (i : CtxId) (r : FaultRec) : State :=
  let s := s.raise { r with ctx := some i, part := some i.part, fatal := true }
  if !s.live i then s
  else
    let s := s.enterFaulted i r.status
    let s := s.dropWaits i (fun s cmd => s.completeOpt cmd r.status)
    let s := s.each (s.descsOf i) (fun s key => s.stopDesc key r.status)
    let s := s.each (s.ring.jobs.filter (fun j => j.owner == i)) (fun s j => (s.dropJob j r.status).complete j.cmd r.status 0)
    s.cancelSections i

/-- DPA and DPA_VALID of the record of a translation fault (15 R343): not for RESIDENT_LOST, whose detail lists ranges. -/
def State.dpaDetail (s : State) (i : CtxId) (status va : Nat) : Nat :=
  match s.leadsTo i va with
  | some dpa => if status = 0x70 then 0 else pack [(43, dpa), (1, 1)]
  | none => 0

/-- A fatal translation fault of a context: status, agent, VA and DPA in the record (15 R343). -/
def State.fatalXlat (s : State) (i : CtxId) (status agent cluster va : Nat) : State :=
  s.fatal i { FaultRec.of status agent with cluster, va, detail := s.dpaDetail i status va }

/-- The contexts that own a frame of a range (07 R175, R179). -/
def State.ownersOf (s : State) (dpa len : Nat) : List CtxId :=
  ((s.mem.tags.filter (fun e => overlaps e.1 (frameSize e.1) dpa len)).map (·.2)).eraseDups

/-- The detail of a RESIDENT_LOST record (15 R364): up to 11 ranges of address, VA and length. -/
def lostDetail (l : List (Nat × Nat × Nat)) (noVa more : Bool) : Nat :=
  pack ([(4, l.length), (1, b2n more), (123, 0)] ++
    l.flatMap (fun (r : Nat × Nat × Nat) => [(43, r.1), (1, b2n noVa), (4, 0), (48, r.2.1), (32, r.2.2)]))

/-- RESIDENT_LOST for an access outside a section to lost data, to every owner (07 R179). -/
def State.lostNotice (s : State) (dpa len : Nat) : State :=
  s.each (s.ownersOf dpa len) (fun s (i : CtxId) => s.raise { FaultRec.of 0x70 5 with
    ctx := some i, part := some i.part, detail := lostDetail [(dpa, 0, len)] true false })

/-- Write bytes line by line (07 R179): a line that is poisoned and written in part takes nothing, and the write of it raises RESIDENT_LOST
as a read would. -/
def State.storeLines (s : State) (tell : Bool) : Nat → Nat → List Byte → State
  | 0, _, _ => s
  | fuel + 1, dpa, bs =>
    if bs.isEmpty then s
    else
      let k := min bs.length (64 - dpa % 64)
      (if s.partPoison dpa k then (if tell then s.lostNotice dpa k else s) else s.store dpa (bs.take k)).storeLines tell fuel (dpa + k) (bs.drop k)

/-- Write bytes of which a part may meet poisoned lines (07 R179). -/
def State.storeRange (s : State) (tell : Bool) (dpa : Nat) (bs : List Byte) : State :=
  if s.partPoison dpa bs.length then s.storeLines tell (bs.length / 64 + 2) dpa bs else s.store dpa bs

/-- The host port of a context: that of its partition's owner (08 R194). -/
def State.hostPort (s : State) (i : CtxId) : Nat :=
  match s.prec i.part with
  | some r => r.owner
  | none => 0

/-- Perform the write of a MEM element (06 R156): a poisoned line that it covers in part takes nothing (07 R179). -/
def State.performParts (s : State) (i : CtxId) : List (Bool × Nat × List Byte) → State
  | [] => s
  | (host, a, bs) :: rest =>
    (if host then s.emit (.hostWrite (s.hostPort i) a bs.length (leNat bs)) else s.storeRange false a bs).performParts i rest

/-- Set LOST of the slice or channel that holds an address (07 R179). -/
def State.setLost (s : State) (dpa : Nat) : State :=
  match home dpa with
  | .hbm _ ch => s.updChan ch (fun x => { x with lost := 1 })
  | .far f => s.updChan (192 + f) (fun x => { x with lost := 1 })
  | .cm c sl => match s.physOf c sl with
    | some ph => s.updSlice c ph (fun x => { x with lost := true })
    | none => s
  | .unmapped => s

/-- Declare the lines of a range lost (07 R179): poison, LOST; each owner's RESIDENT_LOST waits for the walk of
the scheduler core (15 R364). -/
def State.declareLost (s : State) (dpa len : Nat) : State :=
  let ls := (List.range ((dpa + len + 63) / 64 - dpa / 64)).map (fun i => dpa / 64 + i)
  let s := { s with mem := { s.mem with
      poison := (s.mem.poison ++ ls).eraseDups
      lostDpas := s.mem.lostDpas ++ [(dpa, len)]
      frameWait := s.mem.frameWait ++ (s.ownersOf dpa len).map (fun (i : CtxId) => (kKey i.part i.ctx, s.mem.lostDpas.length)) } }
  s.setLost dpa

end Sys2Proof.Machine
end

