-- ==== Sys2Proof/Machine/Access.lean ====
section
/-! DEFINITION. Ownership of registers and orders, register offsets, and refused writes (00 R13, 11 R252, 18 R418, 22 R494). -/
namespace Sys2Proof.Machine

/-- BAR0 offset of a register of partition block p (22 R494). -/
def offP (p o : Nat) : Nat := 0x10000 + 0x10000 * p + o
/-- BAR0 offset of a register of cluster block c (22 R494). -/
def offC (c o : Nat) : Nat := 0x400000 + 0x10000 * c + o
/-- BAR0 offset of a register of the doorbell page of context k of partition p (22 R494). -/
def offD (p k o : Nat) : Nat := 0x200000 + 0x4000 * p + 0x100 * k + o
/-- BAR0 offset of a register of the fault and recovery block (22 R494). -/
def offF (o : Nat) : Nat := 0xC00000 + o

/-- Does a function own the partition's blocks (11 R252)? The management network counts as an owner. -/
def State.ownsP (s : State) (fn : Fn) (p : Nat) : Bool :=
  match s.prec p, fn with
  | some r, .pf port => r.owner == port.val
  | some r, .vf port v => r.owner == port.val && r.vf == v.val
  | _, .net => true
  | none, _ => false

/-- Does a function own the global block (11 R252)? -/
def State.ownsG (s : State) : Fn → Bool
  | .pf port => s.cfg.mgmtValid && s.cfg.mgmtPort == port.val
  | .vf _ _ => false
  | .net => true

/-- Does a function own a cluster block (11 R252)? -/
def State.ownsC (s : State) (fn : Fn) (c : Nat) : Bool :=
  match s.partOf c with
  | some p => s.ownsP fn p
  | none => s.ownsG fn

/-- The owner function that an access event names (18 R418): the PF of the owner port; 0x7F for none (log entry 13). -/
def State.ownerP (s : State) (p : Nat) : Nat :=
  match s.prec p with
  | some r => 32 * r.owner
  | none => 0x7F
def State.ownerG (s : State) : Nat := if s.cfg.mgmtValid then 32 * s.cfg.mgmtPort else 0x7F
def State.ownerC (s : State) (c : Nat) : Nat :=
  match s.partOf c with
  | some p => s.ownerP p
  | none => s.ownerG

/-- A write to a partition register that is refused: logged with its reason (00 R13, 18 R418). -/
def State.refuseP (s : State) (fn : Fn) (p off reason val : Nat) : State := s.logAccess fn off (s.ownerP p) reason val
/-- A write to a global register that is refused. -/
def State.refuseG (s : State) (fn : Fn) (off reason val : Nat) : State := s.logAccess fn off s.ownerG reason val
/-- A write to a cluster register that is refused. -/
def State.refuseC (s : State) (fn : Fn) (c off reason val : Nat) : State := s.logAccess fn off (s.ownerC c) reason val

/-- Is a reset of the partition or the module in progress? -/
def State.resetting (s : State) (p : Nat) : Bool := s.orders.any (fun o => o.target == p || o.target == 16)

/-- Is a reset in progress that covers a cluster's registers (22 R497)? -/
def State.resettingC (s : State) (c : Nat) : Bool := s.resetting ((s.partOf c).getD 16)

/-- A write to a partition register acts if its owner makes it (00 R13) and no reset of the domain is in progress (22 R507);
log entry 79. -/
def State.gateP (s : State) (fn : Fn) (p off val : Nat) (act : State → State) : State :=
  if !s.ownsP fn p then s.refuseP fn p off 2 val else if s.resetting p then s.refuseP fn p off 3 val else act s

/-- The same for a cluster register. -/
def State.gateC (s : State) (fn : Fn) (c off val : Nat) (act : State → State) : State :=
  if !s.ownsC fn c then s.refuseC fn c off 2 val else if s.resettingC c then s.refuseC fn c off 3 val else act s

/-- The same for a global register; before the end of stage 3 a PF's write is discarded and logged (16 R372). -/
def State.gateG (s : State) (fn : Fn) (off val : Nat) (act : State → State) : State :=
  if !s.boot.bundle && fn != .net then s.refuseG fn off 3 val else if !s.ownsG fn then s.refuseG fn off 2 val else act s

/-- An access of a function releases its latch (00 R11). -/
def State.unlatch (s : State) (fn : Fn) : State :=
  match fn with
  | .net => s
  | f => { s with hosts := { s.hosts with latch := tdel s.hosts.latch (fnCode f) } }

/-- The same of an order's issuer. -/
def State.unlatchBy (s : State) : Issuer → State
  | .fn f => s.unlatch f
  | _ => s

/-- Does an offset name a 64-bit register that a reset of the partition covers (22 R497, R501-R505)? -/
def State.offPart (s : State) (p off : Nat) : Bool :=
  let cluster := decide (0x400000 ≤ off) && decide (off < 0x500000) && s.owns p ((off - 0x400000) / 0x10000) &&
    !([0x8, 0x48, 0x60].contains (off % 0x10000))
  let entry := decide (0xC02000 ≤ off) && decide (off < 0xC08000) && (off - 0xC00000) % 0x2000 / 8 / 64 == p
  let block := decide (offP p 0 ≤ off) && decide (off < offP p 0x3800)
  cluster || entry || block || (decide (offD p 0 0 ≤ off) && decide (off < offD p 64 0))

end Sys2Proof.Machine
end

