-- ==== Sys2Proof/Machine/Route.lean ====
section
/-! DEFINITION. The way of traffic through the mesh: nodes, ports, keys, route tables, credits, and what a request meets on it
(01 R29-R33, 10 R233-R245, 16 R378). -/
namespace Sys2Proof.Machine

namespace St
def noRoute : Nat := 0x90
def keyViolation : Nat := 0x91
def notReady : Nat := 0xD0
end St

/-! Nodes: 0-15 the clusters, 16-23 the chiplets IOC0-IOC7. -/

/-- The clusters the chiplets IOC0-IOC7 enter at (10 R233). -/
def iocCluster : List Nat := [1, 2, 7, 11, 15, 13, 12, 0]

/-- The cluster router that serves a node: a cluster, or the one a chiplet enters at. -/
def nodeRouter (n : Nat) : Nat := if n < 16 then n else iocCluster.getD (n - 16) 0

/-- The chiplets that units attach to (01 R30): HBM stacks, far-tier channels, optical engines, host ports; the service units are the
power-management core, MGT1, the scheduler core, and the security core with the always-on block and MGT0. -/
def stackNode (stack : Nat) : Nat := [16, 16, 17, 17, 18, 19, 20, 20, 21, 21, 22, 23].getD stack 16
def farNode (f : Nat) : Nat := 16 + f / 4
def engineNode (e : Nat) : Nat := 16 + e
def portNode (p : Nat) : Nat := 16 + 2 * p
def serviceNode (u : Nat) : Nat := [17, 19, 21, 23].getD u 23

/-- The node a device address is reached at (01 R30, R31). -/
def homeNode (dpa : Nat) : Option Nat :=
  match home dpa with
  | .hbm _ ch => some (stackNode (ch / 16))
  | .far f => some (farNode f)
  | .cm c _ => some c
  | .unmapped => none

/-! Ports. -/

/-- The neighbour behind a port of a cluster router and the port it is entered at (10 R233); none where no router lies. -/
def neighbour (c port : Nat) : Option (Nat × Nat) :=
  if port = 0 then (if 4 ≤ c then some (c - 4, 2) else none)
  else if port = 1 then (if c % 4 < 3 then some (c + 1, 3) else none)
  else if port = 2 then (if c < 12 then some (c + 4, 0) else none)
  else if port = 3 then (if 0 < c % 4 then some (c - 1, 1) else none)
  else none

/-- Does a port exist at a cluster (10 R233)? -/
def portExists (c port : Nat) : Bool :=
  port == 4 || (port == 5 && iocCluster.contains c) || (neighbour c port).isSome

/-- Is a port up (10 R240)? -/
def State.portUp (s : State) (c port : Nat) : Bool := portExists c port && !(s.router c).down.testBit port

/-- PORT_UP of CLU_RTR_STATUS (10 R248). -/
def State.portsUp (s : State) (c : Nat) : Nat :=
  (List.range 6).foldl (fun n p => n + b2n (s.portUp c p) * 2 ^ p) 0

/-! Keys (10 R241-R244). -/

/-- The current key of a partition (10 R241). -/
def State.keyOf (s : State) (p : Nat) : BitVec 12 := (tget s.mesh.pkeys p (0, false, 0)).1

/-- Has a partition a current key? -/
def State.hasKey (s : State) (p : Nat) : Bool := (tget s.mesh.pkeys p (0, false, 0)).2.1

/-- The partition whose current key this is. -/
def State.keyOwner (s : State) (key : BitVec 12) : Option Nat :=
  (List.range 16).find? (fun p => s.hasKey p && s.keyOf p == key)

/-- Is the key some partition's retired key (10 R244)? -/
def State.isRetired (s : State) (key : BitVec 12) : Bool :=
  key != 0 && (List.range 16).any (fun p => (tget s.mesh.pkeys p (0, false, 0)).2.2 == key)

/-- Is a key admitted at a router input port (10 R243)? Port 6 stands for what the router itself sends. -/
def State.keyAllowed (s : State) (c port : Nat) (key : BitVec 12) : Bool :=
  key == 0 || 6 ≤ port || (match s.keyOwner key with
    | some p => (field (s.router c).keymask (16 * port) 16).testBit p
    | none => false)

/-- A port that checks keys besides the router inputs (10 R243): a physical slice of a cluster, an HBM channel, a far-tier channel. -/
inductive UnitPort where
  | slice (c phys : Nat)
  | hbm (chan : Nat)
  | far (f : Nat)
  deriving DecidableEq, Repr

/-- PORT_KIND and PORT_INDEX of a unit's port (15 R343). -/
def UnitPort.code : UnitPort → Nat × Nat
  | .slice c phys => (1, 66 * c + phys)
  | .hbm ch => (2, ch)
  | .far f => (3, f)

/-- The HBM channel group of a channel (07 R166). -/
def groupOf (chan : Nat) : Nat := 4 * (chan / 16) + chan % 16 / 4

/-- Is a key admitted at a memory slice or a memory channel (10 R243)? -/
def State.unitAdmits (s : State) (u : UnitPort) (key : BitVec 12) : Bool :=
  key == 0 || (match s.keyOwner key with
    | none => false
    | some p => match u with
      | .slice c _ => s.owns p c
      | .hbm ch => (match s.prec p with
        | some r => r.hbm.testBit (groupOf ch)
        | none => false)
      | .far f => (match s.prec p with
        | some r => r.far.testBit f
        | none => false))

/-- What the last router before a unit answers for it (10 R240, 16 R378): NOT_READY, UNIT_MUFFLED, or 0 where the unit serves. -/
def State.unitStatus (s : State) : UnitPort → Nat
  | .slice c phys => if !(s.clY c).ready then St.notReady else if (s.slice c phys).st == 3 then St.unitMuffled else 0
  | .hbm ch => if (s.chan ch).st == 2 then St.unitMuffled else if !s.boot.readyHbm.testBit (ch / 16) then St.notReady else 0
  | .far f => if (s.chan (192 + f)).st == 2 then St.unitMuffled else if !s.boot.readyFar.testBit f then St.notReady else 0

/-- The detail of a KEY_VIOLATION record (15 R343). -/
def keyDetail (kind index : Nat) (key : BitVec 12) (src : Option Nat) (agent ta dest : Nat) : Nat :=
  pack [(3, kind), (13, index), (12, key.toNat), (4, src.getD 0), (1, b2n src.isSome), (3, agent), (13, ta), (5, dest)]

/-- A key that is not allowed at a port (10 R244): silent for a retired key; else the record, and the named context stops. -/
def State.keyFault (s : State) (kind index : Nat) (key : BitVec 12) (ctx : Option CtxId) (agent ta dest : Nat) : State :=
  if s.isRetired key && (s.keyOwner key).isNone then s
  else
    let src := s.keyOwner key
    let r := { FaultRec.of St.keyViolation 4 with part := src, detail := keyDetail kind index key src agent ta dest }
    match ctx with
    | some i => if s.live i then s.fatal i r else s.raise { r with part := some i.part, ctx := some i }
    | none => s.raise r

/-! Route tables and credits (10 R235-R239). -/

/-- A router's route-table entry toward a node under an epoch. -/
def Router.entry (r : Router) (epoch : Bool) (dest : Nat) : Nat := tget (if epoch then r.bank1 else r.bank0) dest 0
def rtAdapt (e : Nat) : Nat := field e 0 6
def rtEsc (e : Nat) : Nat := field e 8 3
def rtYx (e : Nat) : Bool := e.testBit 11

/-- The key of a channel's credits: port, class, 0 adaptive or 1 escape. -/
def creditKey (port cls chan : Nat) : Nat := port * 6 + cls * 2 + chan

/-- The flits a channel buffers at the receiving port: 24 adaptive, 8 escape (10 R235). -/
def creditFull (chan : Nat) : Nat := if chan = 0 then 24 else 8
def Router.credit (r : Router) (port cls chan : Nat) : Nat := tget r.credits (creditKey port cls chan) (creditFull chan)

/-- What a router does with a packet. -/
inductive RouteRes where
  | out (port chan : Nat)
  | wait
  | noRoute
  deriving DecidableEq, Repr

/-- The first port with the most credits. -/
def bestPort (r : Router) (cls : Nat) : List Nat → Option Nat
  | [] => none
  | p :: rest =>
    match bestPort r cls rest with
    | none => if 0 < r.credit p cls 0 then some p else none
    | some q => if r.credit q cls 0 ≤ r.credit p cls 0 then some p else some q

/-- The output of a packet at a router (10 R237, R239): by its epoch, destination, class and whether it has taken an escape channel. -/
def State.routeOf (s : State) (c : Nat) (epoch : Bool) (dest cls : Nat) (escape : Bool) : RouteRes :=
  let r := s.router c
  let e := r.entry epoch dest
  let ups := (bitsOf 6 (rtAdapt e)).filter (fun q => s.portUp c q)
  let escUp := s.portUp c (rtEsc e)
  if ups.isEmpty && !escUp then .noRoute
  else match (if escape then none else bestPort r cls ups) with
  | some q => .out q 0
  | none => if escUp && decide (0 < r.credit (rtEsc e) cls 1) then .out (rtEsc e) 1 else .wait

/-! Requests of the engines and host ports, which act at their destination as soon as they are routed (log entry 16). -/

/-- Where a request ends: it arrives, a router has no way for it, or a router input refuses its key. -/
inductive Trip where
  | arrives
  | noRoute (c : Nat)
  | keyBad (port : Nat)
  deriving DecidableEq, Repr

/-- Follow a request under the current epoch, from an input port of a router to a node (10 R237, R239, R243). One that waits for a credit
takes the port it waits for; a way longer than the fuel is no way that a table of R238 gives. -/
def State.trip (s : State) (key : BitVec 12) (dest : Nat) : Nat → Nat → Nat → Bool → Trip
  | 0, _, _, _ => .arrives
  | fuel + 1, c, port, escape =>
    if !s.keyAllowed c port key then .keyBad (8 * c + port)
    else
      let go := fun (q : Nat) (esc : Bool) => match neighbour c q with
        | some (n, p) => s.trip key dest fuel n p esc
        | none => .arrives
      match s.routeOf c s.mesh.epoch dest 0 escape with
      | .noRoute => .noRoute c
      | .out q chan => go q (escape || chan == 1)
      | .wait =>
        let e := (s.router c).entry s.mesh.epoch dest
        if escape || s.portUp c (rtEsc e) then go (rtEsc e) true
        else go (((bitsOf 6 (rtAdapt e)).find? (fun q => s.portUp c q)).getD (rtEsc e)) false

/-- Follow a request from a node to a node; one to its own cluster passes the crossbar only (10, preamble). -/
def State.tripTo (s : State) (key : BitVec 12) (src dest : Nat) : Trip :=
  if src = dest && src < 16 then .arrives else s.trip key dest 24 (nodeRouter src) (if src < 16 then 4 else 5) false

/-- The port of a unit that a device address is served at; none for an address outside memory, or of a slice that none serves. -/
def State.portOf (s : State) (dpa : Nat) : Option UnitPort :=
  match home dpa with
  | .hbm _ ch => some (.hbm ch)
  | .far f => some (.far f)
  | .cm c sl => (s.physOf c sl).map (.slice c)
  | .unmapped => none

/-- A request of an agent of a context at a node reaches another node (10 R239, R243, R244): 0, or NO_ROUTE or KEY_VIOLATION with the record
that goes with it. -/
def State.reachNode (s : State) (src : Nat) (i : CtxId) (agent ta n : Nat) : State × Nat :=
  let key := s.keyOf i.part
  match s.tripTo key src n with
  | .noRoute c => (s.raise { FaultRec.of St.noRoute 4 with detail := pack [(4, c), (5, n)] }, St.noRoute)
  | .keyBad port => (s.keyFault 0 port key (some i) agent ta n, St.keyViolation)
  | .arrives => (s, 0)

/-- A request of an agent of a context at a node reaches a device address, or ends with a status (10 R239, R240, R243, R244, 16 R378):
NO_ROUTE, KEY_VIOLATION, NOT_READY or UNIT_MUFFLED, with the record that goes with it; 0 stands for arrival. -/
def State.reachMem (s : State) (src : Nat) (i : CtxId) (agent ta dpa : Nat) : State × Nat :=
  match homeNode dpa with
  | none => (s, 0)
  | some n =>
    match s.reachNode src i agent ta n with
    | (s1, 0) => match s1.portOf dpa with
      | none => (s1, St.unitMuffled)
      | some u =>
        if !s1.unitAdmits u (s1.keyOf i.part) then (s1.keyFault u.code.1 u.code.2 (s1.keyOf i.part) (some i) agent ta n, St.keyViolation)
        else (s1, s1.unitStatus u)
    | r => r

/-- The first address of a list that is not reached decides. -/
def State.reachAll (s : State) (src : Nat) (i : CtxId) (agent ta : Nat) : List Nat → State × Nat
  | [] => (s, 0)
  | a :: rest => match s.reachMem src i agent ta a with
    | (s1, 0) => s1.reachAll src i agent ta rest
    | r => r

end Sys2Proof.Machine
end

