-- ==== Sys2Proof/Machine/Endpoint.lean ====
section
/-! DEFINITION. Message descriptors, packets entering the mesh, returned descriptors, and closing channels and queues
(09 R206-R218, 10 R234, R242, R245). -/
namespace Sys2Proof.Machine

/-! The descriptor (09 R209): a number whose low 256 bits are the descriptor; the data a PUT or COMBINE carries stand above. -/

def dKind (p : Nat) : Nat := field p 0 2
def dMore (p : Nat) : Bool := p.testBit 4
def dCq (p : Nat) : Bool := p.testBit 5
def dSys (p : Nat) : Bool := p.testBit 7
def dStatus (p : Nat) : Nat := field p 8 8
def dDest (p : Nat) : Nat := field p 16 13
def dDestQ (p : Nat) : Nat := field p 32 5
def dGen (p : Nat) : Nat := field p 40 8
def dSeq (p : Nat) : Nat := field p 48 16
def dSrc (p : Nat) : Nat := field p 76 13
def dSrcCh (p : Nat) : Nat := field p 89 4
def dAddr (p : Nat) : Nat := field p 96 48
def dLen (p : Nat) : Nat := field p 144 24
def dFormat (p : Nat) : Nat := field p 168 8
def dToff (p : Nat) : Nat := field p 176 16
def dArg (p : Nat) : Nat := field p 192 64
def dData (p : Nat) : Nat := p / 2 ^ 256
/-- A notification of a combining queue (09 R222): a MSG the device generated. -/
def dNotify (p : Nat) : Bool := dSys p && dKind p == 0
def descOnly (p : Nat) : Nat := p % 2 ^ 256

/-- A descriptor with its STATUS set (09 R213). -/
def withStatus (p status : Nat) : Nat := setField (descOnly p) 8 8 status

namespace St
def posted : Nat := 0x80
def readerGone : Nat := 0x81
def flushed : Nat := 0x82
def combineIdle : Nat := 0x83
def combineRange : Nat := 0x84
def combineBusy : Nat := 0x85
def queueFull : Nat := 0x86
def queueOpen : Nat := 0x8B
end St

/-! Packets. A packet's kind: 0 traffic handed in from outside the modelled agents, 1 a descriptor, 2 a returned descriptor or
acknowledgement, 3 a part of a PUT whose data is performed. Each packet of a PUT or COMBINE carries the descriptor and one part of the
data at its own offset (10 R234; log entry 16). -/

/-- The generations a packet toward a tile carries (10 R234, 15 R361): of the partition that holds the cluster, and of the tile as
a unit; log entry 67. -/
def State.destGen (s : State) (ta : Nat) : Nat :=
  let g := match s.partOf (taC ta) with
    | some p => (s.part p).gen
    | none => 0
  256 * g + tget s.mesh.unitGens (64 + ta) 0

/-- A packet of a transfer is injected with the current route epoch (10 R242, R245). -/
def State.injectPart (s : State) (group : Nat) (p : Packet) : State :=
  { s with mesh := { s.mesh with
      net := s.mesh.net ++ [{ p with id := s.mesh.nextId, epoch := s.mesh.epoch, escape := false, arrived := false, group, slot := none }]
      nextId := s.mesh.nextId + 1 } }

/-- A packet that is a whole transfer. -/
def State.inject (s : State) (p : Packet) : State := s.injectPart s.mesh.nextId p

/-- The flits of a packet (10 R234): its header, and one for each 128 bytes of data. -/
def flitsOf (n : Nat) : Nat := 1 + (n + 127) / 128

/-- A transfer with data, cut into packets of at most 2 KiB, each of which names its own offset (10 R234). -/
def State.injectAll (s : State) (p : Packet) (d : Nat) (data : List Byte) : State :=
  let group := s.mesh.nextId
  s.each (List.range ((data.length + 2047) / 2048)) (fun s n =>
    let part := (data.drop (2048 * n)).take 2048
    s.injectPart group { p with payload := d + 2 ^ 256 * leNat part, off := 2048 * n, flits := flitsOf part.length })

/-- The flits of a packet leave the receive buffer they stand in (10 R235): the router that sent them is owed their credits. -/
def State.leaveBuffer (s : State) (p : Packet) : State :=
  match p.slot with
  | some (c, k, n) => s.updRouter c (fun r => { r with owed := tset r.owed k (tget r.owed k 0 + n) })
  | none => s

/-- Packets leave the mesh, and their receive buffers. -/
def State.dropWhere (s : State) (pick : Packet → Bool) : State :=
  let gone := s.mesh.net.filter pick
  { s with mesh := { s.mesh with net := s.mesh.net.filter (fun p => !pick p) } }.each gone State.leaveBuffer

/-- Remove a packet from the mesh. -/
def State.dropPacket (s : State) (id : Nat) : State := s.dropWhere (fun p => p.id == id)

/-- Remove every packet of a transfer. -/
def State.dropGroup (s : State) (group : Nat) : State := s.dropWhere (fun p => p.group == group)

/-- The packets of a transfer. -/
def State.groupOf (s : State) (group : Nat) : List Packet := s.mesh.net.filter (fun p => p.group == group)

/-- The packet of a number. -/
def State.packet (s : State) (id : Nat) : Option Packet := s.mesh.net.find? (fun p => p.id == id)

/-- Replace a packet. -/
def State.setPacket (s : State) (id : Nat) (f : Packet → Packet) : State :=
  { s with mesh := { s.mesh with net := s.mesh.net.map (fun p => if p.id == id then f p else p) } }

/-- NOTIFY_PENDING of a combining queue clears: its notification is popped or gone (09 R207, R218, R220). -/
def State.notifyGone (s : State) (key : Nat) : State :=
  s.updComb (key / 32) (key % 32) (fun x => { x with pending := false })

/-- A descriptor goes back to its sender with a status (09 R212, R213), entering the mesh at a node and port (6: the router
itself). A notification has no sender: it is dropped. `inc` is the opening of the sending channel. -/
def State.sendBack (s : State) (node port payload inc : Nat) (key : BitVec 12) (ctx : Option CtxId) (status : Nat) : State :=
  if dSys payload then (if dNotify payload then s.notifyGone inc else s)
  else s.inject { Packet.blank with
    node, inPort := port, dest := taC (dSrc payload), cls := 1, key, ctx, agent := 1, taddr := dSrc payload
    kind := 2, payload := withStatus payload status, back := inc }

/-- A descriptor goes back under the system key (10 R240, R244). -/
def State.sendNotice (s : State) (node payload inc : Nat) (ctx : Option CtxId) (status : Nat) : State :=
  if dSys payload then (if dNotify payload then s.notifyGone inc else s)
  else s.inject { Packet.blank with
    node, inPort := 6, dest := taC (dSrc payload), cls := 2, ctx, agent := 1, taddr := dSrc payload
    kind := 2, payload := withStatus payload status, back := inc }

/-- GONE of CLU_MSG_DROP counts descriptors returned with READER_GONE (09 R217, R229). -/
def State.countGone (s : State) (c n : Nat) : State := s.updClX c (fun x => { x with gone := satAdd 16 x.gone n })

/-- A descriptor held in a queue of a tile goes back to its sender. -/
def State.returnEntry (s : State) (ta : Nat) (ctx : Option CtxId) (e : RxEntry) (status : Nat) : State :=
  let key := match ctx with
    | some i => s.keyOf i.part
    | none => 0
  let s := if status == St.readerGone && !dSys e.data then s.countGone (taC ta) 1 else s
  s.sendBack (taC ta) 4 e.data e.inc key ctx status

/-- Close a receive queue (09 R207): everything it holds goes back with READER_GONE. -/
def State.closeRx (s : State) (ta q : Nat) : State :=
  let x := s.rxq ta q
  let s := s.each (x.entries ++ x.parts) (fun s e => s.returnEntry ta x.ctx e St.readerGone)
  s.updRxq ta q (fun y => { y with opened := false, entries := [], parts := [], ends := [], reserved := 0, windows := [], markers := [] })

/-- Release reserved entries of a receive queue, if it is still the opening they were reserved in (09 R208). -/
def State.unreserve (s : State) (ta q gen n : Nat) : State :=
  let x := s.rxq ta q
  if x.opened && x.gen == gen then s.updRxq ta q (fun y => { y with reserved := y.reserved - n }) else s

/-- Close a send channel (09 R207, R213): its completions are discarded, its reserved entries released. -/
def State.closeChan (s : State) (ta n : Nat) : State :=
  let x := s.channel ta n
  let s := if x.destCq then s else s.unreserve x.dest x.destQ x.gen x.window
  let s := s.updChannel ta n (fun y => { y with opened := false, inFlight := [] })
  { s with msg := { s.msg with
      cqs := tset s.msg.cqs ta ((tget s.msg.cqs ta []).filter (fun e => dSrcCh e != n)) } }

/-! The configuration registers CFG0, CFG1 and CFG2 of a combining queue as one number (09 R229). -/

def combTarget (b : BitVec 192) : Nat := field b.toNat 0 48
def combFp (b : BitVec 192) : Bool := b.toNat.testBit 48
def combElems (b : BitVec 192) : Nat := field b.toNat 64 19
def combN (b : BitVec 192) : Nat := field b.toNat (64 + 19) 16
def combStage (b : BitVec 192) : Nat := field b.toNat 128 48
def combSlot (b : BitVec 192) : Nat := 32 * field b.toNat (128 + 48) 12

/-- The staging area of a combining queue in strict order, in bytes. -/
def combStageLen (b : BitVec 192) : Nat := combN b * combSlot b

/-- The notify queue of a combining queue, as (TADDR, queue). -/
def combNotify (bits : BitVec 192) : Nat × Nat := (field bits.toNat (64 + 35) 13, field bits.toNat (64 + 48) 4)

/-- Close a combining queue (09 R207, R227): a round stops, staging is discarded, and the target of a round that has begun holds
unspecified data. -/
def State.closeComb (s : State) (c q : Nat) : State :=
  let x := s.comb c q
  let s := if x.st = 3 ∨ (x.st = 2 ∧ x.count ≠ 0) then s.blur x.target else s
  let s := s.unreserve (combNotify x.bits).1 (combNotify x.bits).2 x.nGen 1
  s.updComb c q (fun y => { y with st := 0, count := 0, target := [], staging := [], staged := [] })

/-- At the clearing of a tile, the channels and queues of other contexts close (09 R207). -/
def State.closeForeign (s : State) (ta : Nat) (i : CtxId) : State :=
  let s := s.each (List.range 16) (fun s n =>
    if (s.channel ta n).opened && (s.channel ta n).ctx != some i then s.closeChan ta n else s)
  s.each (List.range 16) (fun s q => if (s.rxq ta q).opened && (s.rxq ta q).ctx != some i then s.closeRx ta q else s)

/-- A context reset closes every channel and queue of the context (09 R207). -/
def State.closeContext (s : State) (i : CtxId) : State :=
  let s := s.each s.msg.chans (fun s e => if e.2.opened && e.2.ctx == some i then s.closeChan (e.1 / 16) (e.1 % 16) else s)
  let s := s.each s.msg.queues (fun s e => if e.2.opened && e.2.ctx == some i then s.closeRx (e.1 / 16) (e.1 % 16) else s)
  s.each s.msg.comb (fun s e => if e.2.st != 0 && e.2.ctx == some i then s.closeComb (e.1 / 32) (e.1 % 32) else s)

/-- Was a descriptor sent on an opening of its channel that has ended? -/
def State.orphan (s : State) (payload inc : Nat) : Bool :=
  let x := s.channel (dSrc payload) (dSrcCh payload)
  !dSys payload && !(x.opened && x.inc == inc)

/-- Entries of a receive queue that are spoken for (09 R206, R208): the reservations, the descriptors of closed channels that stand in it or
are on their way to it, and peals. -/
def State.rxTaken (s : State) (ta q : Nat) : Nat :=
  let x := s.rxq ta q
  x.reserved + ((x.entries ++ x.parts).filter (fun e => s.orphan e.data e.inc || dKind e.data == 3)).length +
    (s.mesh.net.filter (fun p => (p.kind == 1 || p.kind == 3) && p.off == 0 && dKind p.payload != 2 && dDest p.payload == ta && dDestQ p.payload == q &&
      dGen p.payload == x.gen && s.orphan p.payload p.back)).length

/-! Items not yet whole (09 R215, R218). -/

/-- The key of a channel at a receive queue: SRC, SRC_CH and the channel's opening. -/
def chanKey (payload inc : Nat) : Nat := inc * 131072 + dSrc payload * 16 + dSrcCh payload

/-- The part of a channel that stands next to where its items are known to begin. -/
def RxQueue.lowPart (x : RxQueue) (key : Nat) : Option RxEntry :=
  let b := ((x.ends.find? (fun e => e.1 == key && !e.2.2)).map (·.2.1)).getD 0
  let l := x.parts.filter (fun e => chanKey e.data e.inc == key)
  let d := fun (e : RxEntry) => (dSeq e.data + 65536 - b) % 65536
  l.find? (fun e => l.all (fun f => decide (d e ≤ d f)))

/-- The channels of whose partly assembled items a flush counts one: none of whose discarded items, already counted, is still open (09 R218). -/
def RxQueue.freshKeys (x : RxQueue) : List Nat :=
  ((x.parts.map (fun e => chanKey e.data e.inc)).eraseDups).filter (fun k => !x.markers.any (fun m => m.key == k && m.counted))

/-- The parts of unfinished items are discarded and go back with a status; markers keep their place (09 R218). The items counted now carry
the mark of it, as those of a muffled tile do, which no flush counts. -/
def State.discardParts (s : State) (ta q status : Nat) (muffled : Bool) : State :=
  let x := s.rxq ta q
  let s := s.each x.parts (fun s e => s.returnEntry ta x.ctx e status)
  s.updRxq ta q (fun y => { y with
    parts := []
    markers := y.markers ++ x.parts.map (fun e =>
      let key := chanKey e.data e.inc
      { key, seq := dSeq e.data, more := dMore e.data, muffled
        counted := muffled || (x.freshKeys.contains key && x.lowPart key == some e) }) })

/-- A muffled tile: the items assembling there are discarded with UNIT_MUFFLED (09 R218). -/
def State.muffleEndpoint (s : State) (ta : Nat) : State :=
  s.each (List.range 16) (fun s q => if (s.rxq ta q).parts.isEmpty then s else s.discardParts ta q St.unitMuffled true)

end Sys2Proof.Machine
end

