-- ==== Sys2Proof/Machine/Bar2.lean ====
section
/-! DEFINITION. BAR2: windows, and the requests of a host port in arrival order (01 R33, 04 R107, 07 R183, 20 R454, R455). -/
namespace Sys2Proof.Machine

/-- The device pages of a range that a context may access (11 R272); a host page is no device memory. -/
def State.devPages (s : State) (i : CtxId) (write : Bool) : Nat → Nat → Nat → State × Except Nat (List (Nat × Nat))
  | 0, _, _ => (s, .ok [])
  | fuel + 1, va, n =>
    if n = 0 then (s, .ok [])
    else
      let k := min n (0x10000 - va % 0x10000)
      match s.translate i va write with
      | (s1, .dev dpa _) => match s1.devPages i write fuel (va + k) (n - k) with
        | (s2, .ok l) => (s2, .ok ((dpa, k) :: l))
        | r => r
      | (s1, .host _ _ _) => (s1, .error St.sourceTier)
      | (s1, .err st) => (s1, .error st)

/-- n bytes of a buffer from an offset. -/
def State.readPages (s : State) : List (Nat × Nat) → Nat → Nat → List Byte
  | [], _, _ => []
  | (a, l) :: rest, off, n =>
    if l ≤ off then s.readPages rest (off - l) n
    else
      let k := min n (l - off)
      mbytes s.mem.bytes (a + off) k ++ s.readPages rest 0 (n - k)

/-- A window of a port. -/
def State.window (s : State) (p w : Nat) : Window := tget s.hosts.windows (16 * p + w) Window.reset

/-- The size of a window: a sixteenth of BAR2. -/
def State.winSize (s : State) (p : Nat) : Nat := 2 ^ ((s.port p).bar2 - 4)

/-- The context and VA of a BAR2 access; none where no valid binding covers it. -/
def State.bar2Va (s : State) (p addr len : Nat) : Option (CtxId × Nat) :=
  let n := s.winSize p
  let x := s.window p (addr / n)
  let i : CtxId := { part := x.part, ctx := x.ctx, gen := x.gen }
  if 16 ≤ addr / n || n < addr % n + len || !x.valid || !s.live i then none else some (i, x.va + addr % n)

/-- What a BAR2 access leads to: nothing (no binding, no translation, no way), pages, or a region lock it waits for (04 R107). -/
inductive Bar2Res where
  | fails
  | waits
  | pages (l : List (Nat × Nat))
  deriving DecidableEq, Repr

/-- Bind, translate and route a BAR2 access (20 R454, 01 R33, 10 R243); neither failure is a fault of the context. -/
def State.bar2Look (s : State) (p : Nat) (x : Bar2Op) : State × Bar2Res :=
  let len := if x.write then x.data.length else x.len
  match s.bar2Va p x.addr len with
  | none => (s, .fails)
  | some (i, va) => match s.devPages i x.write (len / 65536 + 2) va len with
    | (s1, .error _) => (s1, .fails)
    | (s1, .ok l) =>
      if l.any (fun g => s1.locked g.1 g.2 x.write none) then (s1, .waits)
      else match s1.reachAll (portNode p) i 4 0 (l.map (·.1)) with
      | (s2, 0) => (s2, .pages l)
      | (s2, _) => (s2, .fails)

/-- Write bytes over pages; a poisoned line that they cover in part takes nothing (07 R179). -/
def State.bar2Store (s : State) : List (Nat × Nat) → List Byte → State
  | [], _ => s
  | (a, l) :: rest, bs => (s.storeRange true a (bs.take l)).bar2Store rest (bs.drop l)

/-- Perform a BAR2 request whose way is known (20 R454, 07 R179). -/
def State.bar2Perform (s : State) (p : Nat) (x : Bar2Op) (r : Bar2Res) : State :=
  match r with
  | .waits => s
  | .fails => if x.write then s else s.emit (.unsupported p)
  | .pages l =>
    if x.write then s.bar2Store l x.data
    else if l.any (fun g => s.poisoned g.1 g.2) then s.emit (.readPoisoned p x.len)
    else s.emit (.readData p x.len (leNat (s.readPages l 0 x.len)))

/-- Perform the requests that a port holds, in arrival order, up to one that waits for a lock (07 R183). -/
def State.bar2Drain (s : State) (p : Nat) : Nat → State
  | 0 => s
  | fuel + 1 =>
    match (s.port p).held with
    | [] => s
    | x :: rest => match s.bar2Look p x with
      | (s1, .waits) => s1
      | (s1, r) => ((s1.updPort p (fun q => { q with held := rest })).bar2Perform p x r).bar2Drain p fuel

/-- Locks have ended: the BAR2 requests that waited for one are performed (04 R107). -/
def State.bar2Go (s : State) : State := s.each (List.range 4) (fun s p => s.bar2Drain p ((s.port p).held.length))

/-- A BAR2 request arrives at a port (07 R183). -/
def State.bar2Arrive (s : State) (p : Nat) (x : Bar2Op) : State :=
  let s := s.updPort p (fun q => { q with held := q.held ++ [x] })
  s.bar2Drain p ((s.port p).held.length)

end Sys2Proof.Machine
end

