-- ==== Sys2Proof/Machine/SecImg.lean ====
section
/-! DEFINITION. The fields of a section image (17 R400, R401; 04 R95, R100, R114; 05 R120, R125). -/
namespace Sys2Proof.Machine

namespace SecImage
def id (i : SecImage) : Nat := bf i.header 0 32
def w (i : SecImage) : Nat := bf i.header 32 4 + 1
def h (i : SecImage) : Nat := bf i.header 36 4 + 1
def tolerant (i : SecImage) : Bool := i.header.toNat.testBit 40
def schedN (i : SecImage) : Nat := bf i.header 48 7
def replayable (i : SecImage) : Bool := i.header.toNat.testBit 55
def cycles (i : SecImage) : Nat := bf i.header 64 32
end SecImage

namespace Binding
def index (b : Binding) : Nat := bf b.bits 0 3
def engine (b : Binding) : Nat := bf b.bits 3 2
def desc (b : Binding) : Nat := bf b.bits 5 4
def look (b : Binding) : Nat := bf b.bits 9 4
def varying (b : Binding) : Bool := b.bits.toNat.testBit 13
def segments (b : Binding) : Nat := bf b.bits 14 5
def segCap (b : Binding) : Nat := bf b.bits 19 16
def tokenI (b : Binding) : Nat := bf b.bits 35 4
def tokenJ (b : Binding) : Nat := bf b.bits 39 4
def tokenNorth (b : Binding) : Bool := b.bits.toNat.testBit 43
def tiles (b : Binding) : Nat := bf b.bits 64 24
def bytes (b : Binding) : Nat := bf b.bits 88 40
def countAddr (b : Binding) : Nat := bf b.bits 128 48

/-- The take cycles that the take runs list (17 R400). -/
def takeCycles (b : Binding) : List Nat :=
  b.takes.flatMap (fun r => (List.range (bf r 64 24)).map (fun n => bf r 0 32 + n * bf r 32 32))
end Binding

/-- A region record (17 R400): index, kind, hand-over index, base, length. -/
def regIndex (r : BitVec 128) : Nat := bf r 0 4
def regKind (r : BitVec 128) : Nat := bf r 4 2
def regHo (r : BitVec 128) : Nat := bf r 6 2
def regBase (r : BitVec 128) : Nat := bf r 16 48
def regLen (r : BitVec 128) : Nat := bf r 64 32

/-- A chime record (17 R400): order, address, value. -/
def chOrder (r : BitVec 192) : Nat := bf r 0 2
def chVa (r : BitVec 192) : Nat := bf r 64 48
def chValue (r : BitVec 192) : Nat := bf r 128 64

namespace TileImg
def wide (t : TileImg) : BitVec 12 := BitVec.ofNat 12 (bf t.cfg 256 16)
def resIn (t : TileImg) : BitVec 12 := BitVec.ofNat 12 (bf t.cfg 272 16)
def resOut (t : TileImg) : BitVec 12 := BitVec.ofNat 12 (bf t.cfg 288 16)
def slabMode (t : TileImg) : Nat := bf t.cfg 304 3
def aInt4 (t : TileImg) : Bool := t.cfg.toNat.testBit 307
def aSigned (t : TileImg) : Bool := t.cfg.toNat.testBit 308
def wSigned (t : TileImg) : Bool := t.cfg.toNat.testBit 309
def cvtA (t : TileImg) : Bool := t.cfg.toNat.testBit 310
def cvtW (t : TileImg) : Bool := t.cfg.toNat.testBit 311
def osFloat (t : TileImg) : Bool := t.cfg.toNat.testBit 312
def outFmt (t : TileImg) : Nat := bf t.cfg 313 3
def outSigned (t : TileImg) : Bool := t.cfg.toNat.testBit 316
def clipLo (t : TileImg) : Nat := bf t.cfg 320 32
def clipHi (t : TileImg) : Nat := bf t.cfg 352 32
def entryPc (t : TileImg) (th : Nat) : Nat := bf t.cfg (384 + 11 * th) 11
def runs (t : TileImg) (th : Nat) : Bool := t.cfg.toNat.testBit (417 + th)
def ctrInit (t : TileImg) (k : Nat) : Nat := bf t.cfg (448 + 24 * k) 24
def depthE (t : TileImg) : Nat := bf t.cfg 640 5
def depthS (t : TileImg) : Nat := bf t.cfg 645 5
def depthScalar (t : TileImg) (d : Nat) : Nat := bf t.cfg (650 + 6 * d) 6
def depthControl (t : TileImg) (d : Nat) : Nat := bf t.cfg (674 + 6 * d) 6

/-- The schedule entry at an index; beyond the schedule, an ending idle entry. -/
def entryAt (t : TileImg) (n : Nat) : Dword := t.sched.getD n (BitVec.ofNat 64 (pack [(32, 0), (16, 1), (2, 3)]))
end TileImg

/-- The fields of a switch-schedule entry (04 R100). -/
def swVEast (e : Dword) : Nat := bf e 0 3
def swVSouth (e : Dword) : Nat := bf e 3 3
def swWPort (e : Dword) : Nat := bf e 6 3
def swRdPort (e : Dword) : Nat := bf e 9 3
def swSOut (e : Dword) (d : Nat) : Nat := bf e (12 + 2 * d) 2
def swCOut (e : Dword) (d : Nat) : Nat := bf e (20 + 2 * d) 2
def swPushV (e : Dword) : Bool := e.toNat.testBit 28
def swPushS (e : Dword) : Bool := e.toNat.testBit 29
def swPushC (e : Dword) : Bool := e.toNat.testBit 30
def swHold (e : Dword) : Nat := bf e 32 16
def swNext (e : Dword) : Nat := bf e 48 2
def swCtr (e : Dword) : Nat := bf e 50 3
def swTarget (e : Dword) : Nat := bf e 53 9

/-- The fields of an arm record (05 R120). -/
def armBranch (a : BitVec 128) : Nat := bf a 0 9
def armEnd (a : BitVec 128) (taken : Bool) : Nat := if taken then bf a 32 9 else bf a 16 9
def armJoin (a : BitVec 128) : Nat := bf a 48 9
def armLen (a : BitVec 128) (taken : Bool) : Nat := if taken then bf a 96 26 else bf a 64 26

/-- The part of an image at a logical position. -/
def SecImage.tileAt (i : SecImage) (pos : Nat) : TileImg := tget i.tiles pos { cfg := 0, code := [], sched := [], arms := [] }

/-- The image and logical position that govern a tile, when its battery has an active image. -/
def State.imgOf (s : State) (ta : Nat) : Option (Nat × Nat × SecImage × TileImg) :=
  match s.batOf ta with
  | some (b, pos) => match (s.bat (taC ta) b).active with
    | some i => some (b, pos, i, i.tileAt pos)
    | none => none
  | none => none

/-- Does an image fit a battery under the skip values in force (04 R96)? -/
def State.fits (s : State) (i : SecImage) (c b : Nat) : Bool :=
  let sh := s.shape c b
  shapeValid sh && i.w == shapeW sh && i.h == shapeH sh &&
    (i.tolerant || (List.range (shapeW sh)).all (fun n =>
      let k := s.skip c (shapeX0 sh + n)
      !(decide (shapeY0 sh + 1 ≤ k) && decide (k ≤ shapeY0 sh + shapeH sh - 1))))

end Sys2Proof.Machine
end

