-- ==== Sys2Proof/Machine/Slab.lean ====
section
/-! DEFINITION. The MAC slab and the output stage, bit by bit (03 R72-R90; 05 R131). -/
namespace Sys2Proof.Machine

/-- Byte n of a number. -/
def byteAt (v n : Nat) : Nat := field v (8 * n) 8
/-- Nibble n of a number (03 R73). -/
def nibAt (v n : Nat) : Nat := field v (4 * n) 4
/-- 32-bit word n of a number. -/
def wordAt (v n : Nat) : Word := BitVec.ofNat 32 (field v (32 * n) 32)

/-- A number from its 32-bit words, lowest first. -/
def packWords (l : List Word) : Nat := pack (l.map (fun w => (32, w.toNat)))

/-- An integer operand, signed or unsigned (03 R72). -/
def operand (w : Nat) (signed : Bool) (v : Nat) : Int := if signed then sint w v else (v : Int)

/-- Activation k of a west word (03 R76). -/
def actAt (t : TileImg) (a k : Nat) : Int :=
  if t.aInt4 then operand 4 t.aSigned (nibAt a k) else operand 8 t.aSigned (byteAt a k)

/-- Weights are INT4 in the split and grouped-scale modes (03 R82). -/
def wInt4 (mode : Nat) : Bool := mode == 1 || mode == 3 || mode == 4

/-- Bits of the activations that the slab reads of a west word (03 R76). -/
def actBits (t : TileImg) : Nat := if t.slabMode == 5 then 512 else (if t.slabMode == 2 || t.slabMode == 3 then 64 else 32) * (if t.aInt4 then 4 else 8)

/-- Bytes of a weight plane with its scales or indices, by mode (02 R67, 03 R77). -/
def planeBytes (mode : Nat) : Nat := if mode = 3 then 1536 else if mode = 2 || mode = 4 then 1280 else 1024

/-- Output channels of a mode (02 R56). -/
def slabChans (mode : Nat) : Nat := if mode == 5 then 16 else if wInt4 mode then 64 else 32

/-- The kept value or weight at position p of the first area of a plane (03 R77, R81). -/
def weightAt (t : TileImg) (plane p : Nat) : Int :=
  if wInt4 t.slabMode then operand 4 t.wSigned (nibAt plane p) else operand 8 t.wSigned (byteAt plane p)

/-- The exact integer sum of products of channel j (03 R80, R81, R84). -/
def dotInt (t : TileImg) (plane a j : Nat) : Int :=
  let c := slabChans t.slabMode
  if t.slabMode == 2 || t.slabMode == 3 then
    ((List.range 32).map (fun gm =>
      let p := c * gm + j
      weightAt t plane p * actAt t a (4 * (gm / 2) + field plane (8192 + 2 * p) 2))).foldl (· + ·) 0
  else ((List.range 32).map (fun k => weightAt t plane (c * k + j) * actAt t a k)).foldl (· + ·) 0

/-- One channel of the slab: the outgoing partial (03 R80, R83, R84). -/
def slabChan (t : TileImg) (plane a j : Nat) (pin : Word) : Word :=
  if t.slabMode == 5 then
    (List.range 16).foldl (fun acc k =>
      fpAdd acc (fpMul (toFp19 t.cvtA (wordAt a k)) (fp19Read (wordAt plane (16 * k + j))))) pin
  else if t.slabMode == 4 then
    fpAdd pin (fpMul (i32ToFp (BitVec.ofInt 32 (dotInt t plane a j))) (fp19Read (wordAt plane (256 + j))))
  else pin + BitVec.ofInt 32 (dotInt t plane a j)

/-- The slab's outgoing word: channels of the mode, the lanes above the last carry 0 (03 R78). -/
def slabWord (t : TileImg) (plane : BitVec 12288) (act pin : Row) : Row :=
  BitVec.ofNat 2048 (packWords ((List.range (slabChans t.slabMode)).map (fun j =>
    slabChan t plane.toNat act.toNat j (wordAt pin.toNat j))))

/-- Row groups gated in a cycle (05 R131, R132): groups of 32 activations that are all zero; FP19 mode gates nothing. -/
def gatedGroups (t : TileImg) (act : Row) : Nat :=
  if t.slabMode == 5 then 0
  else
    let groups := if t.slabMode == 2 || t.slabMode == 3 then 2 else 1
    let w := if t.aInt4 then 128 else 256
    ((List.range groups).filter (fun g => field act.toNat (w * g) w == 0)).length

/-- The scale-and-round of the integer path (03 R87). -/
def intPath (acc : Word) (m b : Word) (sh : Nat) : Int :=
  let p := acc.toInt * m.toInt
  let q := if sh = 0 then p
    else
      let q := p / (2 ^ sh : Nat)
      let r := p - q * (2 ^ sh : Nat)
      if (2 ^ (sh - 1) : Nat) < r || (r = (2 ^ (sh - 1) : Nat) && q % 2 == 1) then q + 1 else q
  q + b.toInt

/-- The range of an INT8 or INT4 result (03 R89). -/
def outRange (w : Nat) (signed : Bool) : Int × Int :=
  if signed then (-(2 ^ (w - 1) : Nat), (2 ^ (w - 1) : Nat) - 1) else (0, (2 ^ w : Nat) - 1)

/-- One result of the output stage, as its width and bits (03 R86-R89). -/
def osChan (t : TileImg) (consts : Nat) (j : Nat) (acc : Word) : Nat × Nat :=
  let lo := BitVec.ofNat 32 t.clipLo
  let hi := BitVec.ofNat 32 t.clipHi
  if t.osFloat then
    let a := if t.slabMode == 4 || t.slabMode == 5 then acc else i32ToFp acc
    let u := fpClip lo hi (fpAdd (fpMul a (wordAt consts (4 * j))) (wordAt consts (4 * j + 1)))
    if t.outFmt == 0 then
      (8, (BitVec.ofInt 8 (fpToIntRne (outRange 8 t.outSigned).1 (outRange 8 t.outSigned).2 u)).toNat)
    else if t.outFmt == 1 then
      (4, (BitVec.ofInt 4 (fpToIntRne (outRange 4 t.outSigned).1 (outRange 4 t.outSigned).2 u)).toNat)
    else if t.outFmt == 4 then (32, (toFp19 true u).toNat)
    else (32, u.toNat)
  else
    let v := intPath acc (wordAt consts (4 * j)) (wordAt consts (4 * j + 1)) (field consts (128 * j + 64) 6)
    let v := min (max v lo.toInt) hi.toInt
    if t.outFmt == 0 then
      (8, (BitVec.ofInt 8 (clampInt (outRange 8 t.outSigned).1 (outRange 8 t.outSigned).2 v)).toNat)
    else if t.outFmt == 1 then
      (4, (BitVec.ofInt 4 (clampInt (outRange 4 t.outSigned).1 (outRange 4 t.outSigned).2 v)).toNat)
    else if t.outFmt == 3 then (32, (fpRound (decide (v < 0)) v.natAbs 0).toNat)
    else (32, (BitVec.ofInt 32 v).toNat)

/-- The word the output stage emits for a row of partials (03 R90). -/
def osWord (t : TileImg) (consts : BitVec 8192) (part : Row) : Row :=
  BitVec.ofNat 2048 (pack ((List.range (slabChans t.slabMode)).map (fun j =>
    osChan t consts.toNat j (wordAt part.toNat j))))

end Sys2Proof.Machine
end

