-- ==== Sys2Proof/Machine/Malorgus.lean ====
section
/-! DEFINITION. The Malorgus container: its records, the checks of validation, and what an image builds (17 R390-R401). -/
namespace Sys2Proof.Machine

/-- A record of an image (17 R392): type, reserved bits, length, value, and whether its padding is zero. -/
structure MRec where
  typ : Nat
  rsv : Nat
  len : Nat
  v : Nat
  padOk : Bool
  deriving DecidableEq, Repr

/-- Round up to a multiple of 8. -/
def up8 (n : Nat) : Nat := (n + 7) / 8 * 8

/-- Walk up to `count` records from byte pos; the records read and the byte after them (17 R392). -/
def walkRecs (n stop : Nat) : Nat → Nat → List MRec × Nat
  | 0, pos => ([], pos)
  | count + 1, pos =>
    if stop < pos + 8 then ([], stop + 1)
    else
      let len := field n (8 * pos + 32) 32
      let next := pos + 8 + up8 len
      let r : MRec :=
        { typ := field n (8 * pos) 16, rsv := field n (8 * pos + 16) 16, len,
          v := field n (8 * (pos + 8)) (8 * len), padOk := field n (8 * (pos + 8 + len)) (8 * (up8 len - len)) == 0 }
      if stop < next then ([r], stop + 1)
      else
        let rest := walkRecs n stop count next
        (r :: rest.1, rest.2)

/-- The header fields (17 R391). -/
def mMagic (n : Nat) : Nat := field n 0 32
def mFormat (n : Nat) : Nat := field n 32 16
def mFamily (n : Nat) : Nat := field n 48 16
def mKind (n : Nat) : Nat := field n 64 8
def mCluster (n : Nat) : Nat := field n 72 4
def mSigned (n : Nat) : Bool := n.testBit 76
def mRecords (n : Nat) : Nat := field n 96 16
def mLength (n : Nat) : Nat := field n 128 32
def mRecBytes (n : Nat) : Nat := field n 160 32
def mId (n : Nat) : Nat := field n 192 32
def mHash (n : Nat) : Nat := field n 256 64

/-- The byte at which the trailer begins (17 R393). -/
def mTrailer (n : Nat) : Nat := mLength n - (if mSigned n then 104 else 8)

/-- The records of an image and the byte after the last. -/
def mRecs (n : Nat) : List MRec × Nat := walkRecs n (64 + mRecBytes n) (mRecords n) 64

/-- All record types of the container; any other value is reserved (17 R392). -/
def knownTypes : List Nat := [0x101, 0x102, 0x103, 0x201, 0x202, 0x203, 0x301, 0x302, 0x303, 0x304, 0x305, 0x306, 0x307]

/-- A TILE_CFG value that holds a reserved value (17 R401, 03 R82). -/
def cfgReserved (v : Nat) : Bool :=
  let t : TileImg := { cfg := BitVec.ofNat 768 v, code := [], sched := [], arms := [] }
  let m := t.slabMode
  field v 268 4 != 0 || field v 284 4 != 0 || field v 300 4 != 0 || field v 317 3 != 0 || field v 420 28 != 0 ||
  field v 698 70 != 0 || decide (5 < m) || (m == 5 && (t.aInt4 || !t.aSigned || !t.wSigned)) ||
  (m != 5 && (t.cvtA || t.cvtW)) || (!t.osFloat && (m == 4 || m == 5)) || decide (4 < t.outFmt) ||
  (!t.osFloat && t.outFmt == 4) || (t.osFloat && t.outFmt == 2) || (decide (2 ≤ t.outFmt) && !t.outSigned) ||
  (t.osFloat && ((field t.clipLo 23 8 == 255 && field t.clipLo 0 23 != 0) ||
    (field t.clipHi 23 8 == 255 && field t.clipHi 0 23 != 0))) ||
  decide (16 < t.depthE) || decide (16 < t.depthS) ||
  (List.range 4).any (fun d => decide (32 < t.depthScalar d) || decide (32 < t.depthControl d))

/-- A BINDING value that holds a reserved value (05 R125, 17 R400). -/
def bindReserved (v : Nat) : Bool :=
  let b : Binding := { bits := BitVec.ofNat 384 v, takes := [] }
  field v 44 20 != 0 || field v 176 16 != 0 || field v 256 128 != 0 || b.look == 0 || decide (8 < b.look) ||
  (if b.varying then
    b.segments == 0 || decide (16 < b.segments) || b.segCap == 0 ||
      (!b.tokenNorth && b.tokenI != 0) || (b.tokenNorth && b.tokenJ != 0)
  else field v 14 30 != 0 || b.countAddr != 0)

/-- One arm record with a reserved value (05 R120). -/
def armReserved (a : Nat) : Bool :=
  field a 9 7 != 0 || field a 25 7 != 0 || field a 41 7 != 0 || field a 57 7 != 0 || field a 90 6 != 0 ||
  field a 122 6 != 0 || field a 64 26 == 0 || decide (40000000 < field a 64 26) || field a 96 26 == 0 ||
  decide (40000000 < field a 96 26)

/-- Does a record hold a reserved field or value (17 R395 check 10; of a route entry 10 R236)? -/
def recReserved (r : MRec) : Bool :=
  let v := r.v
  r.rsv != 0 || !knownTypes.contains r.typ ||
  (if r.typ = 0x101 then field v 11 5 != 0 || field v 44 4 != 0 || field v 60 4 != 0 || field v 112 16 != 0 ||
      field v 160 96 != 0 || field v 6 5 == 0 || decide (16 < field v 6 5)
  else if r.typ = 0x102 then field v 4 60 != 0 || field v 448 64 != 0 ||
    (List.range 24).any (fun e => let w := field v (64 + 16 * e) 16
      field w 6 2 != 0 || field w 12 4 != 0 || decide (5 < field w 8 3))
  else if r.typ = 0x103 then field v 4 12 != 0 || field v 112 16 != 0
  else if r.typ = 0x201 then (List.range (r.len / 4)).any (fun i => field v (32 * i + 22) 10 != 0)
  else if r.typ = 0x202 then field v 80 48 != 0 ||
    (List.range 16).any (fun x => decide (16 < field v (5 * x) 5) && field v (5 * x) 5 != 31)
  else if r.typ = 0x203 then (List.range 64).any (fun i => let e := field v (16 * i) 16
    (decide (65 < field e 0 7) && field e 0 7 != 0x7F) || field e 7 2 == 3)
  else if r.typ = 0x301 then field v 41 7 != 0 || field v 56 8 != 0 || field v 96 160 != 0 ||
    decide (field v 48 7 < 32) || decide (64 < field v 48 7)
  else if r.typ = 0x302 then bindReserved v
  else if r.typ = 0x303 then field v 4 2 == 3 || field v 6 2 == 3 || (field v 4 2 != 2 && field v 6 2 != 0) ||
    field v 8 8 != 0 || field v 96 32 != 0 || (field v 4 2 == 2 && field v 16 48 != 0)
  else if r.typ = 0x304 then field v 2 62 != 0 || field v 112 16 != 0
  else if r.typ = 0x305 then cfgReserved v
  else if r.typ = 0x306 then field v 8 24 != 0 || field v 64 16 == 0 || decide (8192 < field v 64 16) ||
    field v 64 16 % 4 != 0 || field v 80 16 != 0 || field v 128 10 == 0 || decide (512 < field v 128 10) ||
    field v 138 54 != 0
  else if r.typ = 0x307 then field v 8 56 != 0 ||
    (List.range ((r.len - 8) / 16)).any (fun i => armReserved (field v (64 + 128 * i) 128))
  else false)

/-- Is the length right for the type (17 R395 check 11)? -/
def recLenOk (r : MRec) : Bool :=
  if r.typ = 0x101 then r.len == 32 else if r.typ = 0x102 then r.len == 64 else if r.typ = 0x103 then r.len == 16
  else if r.typ = 0x201 then r.len % 4 == 0 && decide (r.len ≤ 256) else if r.typ = 0x202 then r.len == 16
  else if r.typ = 0x203 then r.len == 128 else if r.typ = 0x301 then r.len == 32 else if r.typ = 0x302 then r.len == 48
  else if r.typ = 0x303 then r.len == 16 else if r.typ = 0x304 then r.len == 24 else if r.typ = 0x305 then r.len == 96
  else if r.typ = 0x306 then r.len == 24
  else if r.typ = 0x307 then decide (24 ≤ r.len) && (r.len - 8) % 16 == 0 && decide (r.len ≤ 520) else false

/-- The largest number of records of a type (Count columns). -/
def recMax (typ : Nat) : Nat :=
  if typ = 0x101 || typ = 0x102 || typ = 0x103 || typ = 0x303 then 16
  else if typ = 0x302 then 8 else if typ = 0x304 then 4
  else if typ = 0x305 || typ = 0x306 then 256 else if typ = 0x307 then 256 else 1

/-- The records of a type. -/
def recsOf (l : List MRec) (typ : Nat) : List Nat := (l.filter (fun r => r.typ == typ)).map (·.v)

/-- The payload references of a record, as offset and length (17 R400). -/
def recRefs (r : MRec) : List (Nat × Nat) :=
  if r.typ = 0x302 then [(field r.v 192 32, 16 * field r.v 224 32)]
  else if r.typ = 0x306 then [(field r.v 32 32, field r.v 64 16), (field r.v 96 32, 8 * field r.v 128 10)]
  else []

/-- The bytes of the bundle's components of a target (18 R411). -/
def bundleParts (bundle : Mem) (target : Nat) : List Byte :=
  let n := mread bundle 10 1 % 64
  (List.range n).flatMap (fun i =>
    let e := mread bundle (128 + 64 * i) 16
    if field e 8 3 = target then mbytes bundle (field e 32 32) (field e 64 32) else [])

/-- Checks 1-9 of 17 R395 over the bytes supplied; 0 if all pass. `target` is the cluster of a kind 2 destination. -/
def checkHead (key bs : List Byte) (kind target : Nat) (secure : Bool) (fpHash : Nat) : Nat :=
  let n := leNat bs
  if mMagic n != 0x4D4C4731 then 0x40
  else if mLength n % 8 != 0 || decide (mLength n < 72) || decide (4194304 < mLength n) || decide (bs.length < mLength n) ||
    decide (mLength n < 64 + mRecBytes n + (if mSigned n then 104 else 8)) then 0x41
  else if (crc32c (bs.take (mTrailer n))).toNat != field n (8 * mTrailer n) 32 then 0x42
  else if mFormat n != 1 then 0x43
  else if mFamily n != 0xB4 then 0x44
  else if mKind n != kind || (kind == 2 && mCluster n != target) then 0x45
  else if kind == 3 then 0
  else if secure && !mSigned n then 0x46
  else if mSigned n && !Config.ecdsaOk key (Config.sha384 (bs.take (mTrailer n + 8)))
      (BitVec.ofNat 768 (field n (8 * (mTrailer n + 8)) 768)) then 0x47
  else if mHash n != fpHash then 0x48
  else 0

/-- Checks 10-13 of 17 R395; 0 if all pass. -/
def checkRecs (n kind : Nat) : Nat :=
  let rs := mRecs n
  let l := rs.1
  if field n 77 19 != 0 || field n 112 16 != 0 || field n 224 32 != 0 || field n 320 192 != 0 || mRecords n == 0 ||
    decide (4096 < mRecords n) || (kind != 2 && mCluster n != 0) || (kind == 3 && (mSigned n || mHash n != 0)) ||
    field n (8 * (mTrailer n + 4)) 32 != 0 || l.any recReserved then St.reservedNonzero
  else if l.length != mRecords n || rs.2 != 64 + mRecBytes n || l.any (fun r => r.typ / 256 != kind) ||
    l.any (fun r => !recLenOk r || !r.padOk) ||
    l.any (fun r => decide (recMax r.typ < (recsOf l r.typ).length)) ||
    l.any (fun r => (recRefs r).any (fun o => o.1 % 8 != 0)) ||
    (kind != 3 && mTrailer n != 64 + mRecBytes n) then 0x49
  else if l.any (fun r => (recRefs r).any (fun o => decide (o.1 < 64 + mRecBytes n) || decide (mTrailer n < o.1 + o.2))) then
    0x41
  else
    let has := fun typ k => decide (k ≤ (recsOf l typ).length)
    if kind == 1 && !(has 0x102 16 && has 0x103 16) then 0x4A
    else if kind == 2 && !(has 0x201 1 && has 0x202 1 && has 0x203 1) then 0x4A
    else if kind == 3 && !(has 0x301 1 && has 0x305 1 && has 0x306 1) then 0x4A
    else 0

/-! What an image builds. -/

/-- The tile part at a position (17 R400, R401). -/
def buildTile (n : Nat) (l : List MRec) (pos : Nat) : TileImg :=
  let cfg := ((recsOf l 0x305).find? (fun v => v.testBit pos)).getD 0
  let code := ((recsOf l 0x306).find? (fun v => 16 * field v 4 4 + field v 0 4 == pos)).getD 0
  let arms := ((l.filter (fun r => r.typ == 0x307)).find? (fun r => 16 * field r.v 4 4 + field r.v 0 4 == pos))
  { cfg := BitVec.ofNat 768 cfg
    code := (List.range (field code 64 16 / 4)).map (fun i => BitVec.ofNat 32 (field n (8 * field code 32 32 + 32 * i) 32))
    sched := (List.range (field code 128 10)).map (fun i => BitVec.ofNat 64 (field n (8 * field code 96 32 + 64 * i) 64))
    arms := match arms with
      | some r => (List.range ((r.len - 8) / 16)).map (fun i => BitVec.ofNat 128 (field r.v (64 + 128 * i) 128))
      | none => [] }

/-- The section image a container holds (17 R400). -/
def buildSection (va n : Nat) : SecImage :=
  let l := (mRecs n).1
  let head := BitVec.ofNat 256 ((recsOf l 0x301).headD 0)
  { va
    header := head
    bindings := (recsOf l 0x302).map (fun v => Binding.mk (BitVec.ofNat 384 v)
      ((List.range (field v 224 32)).map (fun i => BitVec.ofNat 128 (field n (8 * field v 192 32 + 128 * i) 128))))
    regions := (recsOf l 0x303).map (BitVec.ofNat 128)
    chimes := (recsOf l 0x304).map (BitVec.ofNat 192)
    tiles := (positions (bf head 32 4 + 1) (bf head 36 4 + 1)).map (fun q => (q, buildTile n l q)) }

/-- Are the elements of a list distinct? -/
def distinct (l : List Nat) : Bool := l.eraseDups.length == l.length

/-- Do the numbers of a list rise strictly? -/
def rising : List Nat → Bool
  | a :: b :: r => decide (a < b) && rising (b :: r)
  | _ => true

/-- The arm rules of 05 R120 at one tile. -/
def armsOk (t : TileImg) : Bool :=
  let n := t.sched.length
  let next := fun i => swNext (t.entryAt i)
  (List.range n).all (fun i => next i != 2 || (t.arms.filter (fun a => armBranch a == i)).length == 1) &&
  distinct (t.arms.map armBranch) &&
  t.arms.all (fun a => decide (armBranch a < n) && decide (armEnd a false < n) && decide (armEnd a true < n) &&
    decide (armJoin a < n) && next (armBranch a) == 2 && next (armEnd a false) == 0 && next (armEnd a true) == 0)

/-- Is each pair of regions disjoint? -/
def disjoint : List (Nat × Nat) → Bool
  | [] => true
  | a :: r => r.all (fun b => !overlaps a.1 a.2 b.1 b.2) && disjoint r

/-- The cross-record rules of 17 R401. -/
def sectionConsistent (n : Nat) : Bool :=
  let l := (mRecs n).1
  let i := buildSection 0 n
  let masks := recsOf l 0x305
  let cover := positions i.w i.h
  let regs := i.regions.filter (fun r => regKind r != 2)
  (List.range 256).all (fun q => (masks.filter (fun v => v.testBit q)).length == (if cover.contains q then 1 else 0)) &&
  cover.all (fun q => ((recsOf l 0x306).filter (fun v => 16 * field v 4 4 + field v 0 4 == q)).length == 1) &&
  (recsOf l 0x306).all (fun v => cover.contains (16 * field v 4 4 + field v 0 4)) &&
  distinct ((recsOf l 0x307).map (fun v => field v 0 8)) &&
  i.tiles.all (fun e => armsOk e.2) &&
  distinct (i.bindings.map (·.index)) && distinct (i.regions.map regIndex) && distinct (i.chimes.map chOrder) &&
  i.bindings.all (fun b => b.countAddr % 4 == 0 && rising b.takeCycles && b.takeCycles.all (fun x => decide (x < i.cycles)) &&
    b.takeCycles.length == b.tiles) &&
  i.chimes.all (fun c => chVa c % 8 == 0) &&
  regs.all (fun r => regBase r % 64 == 0 && regLen r % 64 == 0 && decide (64 ≤ regLen r) && decide (regLen r ≤ 67108864)) &&
  disjoint (regs.map (fun r => (regBase r, regLen r)))

/-- A switch-schedule entry with a reserved value or combination (04 R100), at a logical column, of a schedule of n entries. -/
def entryReserved (e : Dword) (col n : Nat) : Bool :=
  swVEast e == 7 || swVSouth e == 7 || decide (4 < swWPort e) || decide (4 < swRdPort e) || e.toNat.testBit 31 ||
  swHold e == 0 || bf e 62 2 != 0 || (swNext e == 2 && e.toNat.testBit 52) ||
  ((swVEast e == 3 || swVSouth e == 3) && swRdPort e != 3) || (swRdPort e == 4 && col != 0) || decide (n ≤ swTarget e)

/-- The reserved values that LOAD finds after check 16 (04 R104). -/
def loadReserved (i : SecImage) : Bool :=
  i.tiles.any (fun e => e.2.sched.any (fun x => entryReserved x (e.1 % 16) e.2.sched.length) ||
    (List.range 3).any (fun th => decide (e.2.code.length < e.2.entryPc th))) ||
  i.bindings.any (fun b => b.takes.any (fun r => bf r 88 40 != 0))

/-- Every check of LOAD over a section image's bytes (17 R395, 04 R104) but the shape; 0 if all pass. -/
def checkSection (bs : List Byte) : Nat :=
  let n := leNat bs
  let h := checkHead [] bs 3 0 false 0
  if h != 0 then h
  else
    let r := checkRecs n 3
    if r != 0 then r
    else if !sectionConsistent n then 0x4B
    else if loadReserved (buildSection 0 n) then St.reservedNonzero
    else 0

/-- The per-cluster configuration a container holds (17 R398). -/
def buildCluster (n : Nat) : ClusterCfg :=
  let l := (mRecs n).1
  let bt := (l.find? (fun r => r.typ == 0x201)).getD { typ := 0, rsv := 0, len := 0, v := 0, padOk := true }
  let sk := (recsOf l 0x202).headD 0
  let sm := (recsOf l 0x203).headD 0
  { valid := true
    id := mId n
    bats := (List.range (bt.len / 4)).foldl (fun t i =>
      tset t (field bt.v (32 * i + 16) 6) (field bt.v (32 * i) 16 + 2 ^ 16)) []
    skips := (List.range 16).map (fun x => (x, field sk (5 * x) 5))
    slices := (List.range 64).map (fun i => (i, field sm (16 * i) 16)) }

/-- The rectangle of a battery entry does not leave the cluster (04 R92). -/
def shapeFits (sh : Nat) : Bool := decide (shapeX0 sh + shapeW sh ≤ 16) && decide (shapeY0 sh + shapeH sh ≤ 16)

/-- Two battery rectangles do not overlap (04 R92). -/
def shapesApart (a b : Nat) : Bool :=
  !(overlaps (shapeX0 a) (shapeW a) (shapeX0 b) (shapeW b) && overlaps (shapeY0 a) (shapeH a) (shapeY0 b) (shapeH b))

/-- Every pair of a list meets a relation. -/
def pairwiseB (f : Nat → Nat → Bool) : List Nat → Bool
  | [] => true
  | a :: r => r.all (f a) && pairwiseB f r

/-- The rules of 17 R399. -/
def clusterConsistent (n : Nat) : Bool :=
  let l := (mRecs n).1
  let g := buildCluster n
  let nb := (((l.find? (fun r => r.typ == 0x201)).map (·.len)).getD 0) / 4
  let sl := fun i => tget g.slices i 0
  let phys := ((List.range 64).map (fun i => field (sl i) 0 7)).filter (fun x => x != 0x7F)
  let prim := (List.range 64).filter (fun i => (sl i).testBit 9)
  g.bats.length == nb && g.bats.all (fun e => shapeFits e.2) && pairwiseB shapesApart (g.bats.map (·.2)) && distinct phys &&
  prim.all (fun i => field (sl i) 7 2 == 0 && field (sl i) 10 6 != i && field (sl (field (sl i) 10 6)) 7 2 == 0 &&
    !prim.contains (field (sl i) 10 6) && (prim.filter (fun j => field (sl j) 10 6 == field (sl i) 10 6)).length == 1)

/-- The device-level configuration a container holds (17 R396). -/
def buildDevice (n : Nat) : DeviceCfg :=
  let l := (mRecs n).1
  { valid := true
    id := mId n
    parts := (recsOf l 0x101).foldl (fun t v => tset t (field v 0 4)
      { clusters := field v 16 16, owner := field v 4 2, vf := field v 6 5, hbm := field v 64 48, far := field v 128 32,
        key := BitVec.ofNat 12 (field v 32 12), resetKey := BitVec.ofNat 12 (field v 48 12) }) []
    routes0 := (recsOf l 0x102).foldl (fun t v => tset t (field v 0 4)
      ((List.range 24).map (fun e => (e, field v (64 + 16 * e) 16)))) []
    keymasks := (recsOf l 0x103).foldl (fun t v => tset t (field v 0 4) (field v 16 96)) [] }

/-- The first rule of 17 R397. -/
def deviceConsistent (n : Nat) : Bool :=
  let l := (mRecs n).1
  let ps := recsOf l 0x101
  let masks := fun lo w => pairwiseB (fun a b => field a lo w &&& field b lo w == 0) ps
  distinct (ps.map (fun v => field v 0 4)) && distinct (ps.map (fun v => 32 * field v 4 2 + field v 6 5)) &&
  masks 16 16 && masks 64 48 && masks 128 32 &&
  distinct ((recsOf l 0x102).map (fun v => field v 0 4)) && distinct ((recsOf l 0x103).map (fun v => field v 0 4)) &&
  (recsOf l 0x103).all (fun v => (List.range 6).all (fun i => (bitsOf 16 (field v (16 + 16 * i) 16)).all (fun p =>
    (ps.map (fun v => field v 0 4)).contains p)))

/-- The third rule of 17 R397: keys in range and distinct. -/
def deviceKeysOk (n : Nat) : Bool :=
  let ks := (recsOf (mRecs n).1 0x101).flatMap (fun v => [field v 32 12, field v 48 12])
  ks.all (fun k => k != 0) && distinct ks

end Sys2Proof.Machine
end

