-- ==== Sys2Proof/Machine/Checks.lean ====
section
/-! DEFINITION. Checks lost and self-test slices abandoned, with their records (13 R308, 14 R327, R338, 18 R415). -/
namespace Sys2Proof.Machine

/-- CHECK_LIMITED for a tile or a cluster (13 R308, R313): one record to the belfry and one to every ACTIVE context of the
partition; log entry 32. -/
def State.checkLimited (s : State) (c ta : Nat) : State :=
  let r := { FaultRec.of 0xB2 6 with cluster := c, taddr := ta }
  match s.partOf c with
  | none => s.raise r
  | some p =>
    let s := s.raise r
    s.each ((List.range 64).filter (fun k => (s.ctx p k).st == 1)) (fun s k =>
      s.ringRecord (s.ident p k) { r with part := some p, ctx := some (s.ident p k) })

/-- A check on a tile ends (02 R69): its stroke buffer and its weight planes are zeroed (log entry 109). -/
def State.endDuty (s : State) (ta : Nat) : State :=
  s.updTile ta (fun t => { t with core := { t.core with plane0 := 0, plane1 := 0 }, test := { t.test with duty := none } })

/-- The check of a worker that a tile runs, if one does, ends there. -/
def State.endDutyOf (s : State) (k : Check) : State :=
  match k.checker with
  | some h => s.endDuty h
  | none => s

/-- Does the first checker of a check that disagreed still hold the capture (13 R309)? -/
def State.firstHolds (s : State) (k : Check) (ta : Nat) : Bool :=
  k.checker.isNone && !k.dead && (k.first.map (·.1)) == some ta && (s.tile ta).test.duty == some k.capture

/-- A first checker that still holds the capture gives it up. -/
def State.endFirst (s : State) (k : Check) : State :=
  match k.first with
  | some (f, _) => if s.firstHolds k f then s.endDuty f else s
  | none => s

/-- A check of a worker is lost (13 R308): counted; the third in a row raises CHECK_LIMITED. -/
def State.loseCheck (s : State) (k : Check) : State :=
  let c := taC k.worker
  let t := s.tile k.worker
  let s := (s.endDutyOf k).updClX c (fun x => { x with lostCnt := satAdd 16 x.lostCnt 1, checks := x.checks.erase k })
  let limit := decide (3 ≤ t.test.lostRun + 1) && !t.test.limitedSent
  let s := s.updTile k.worker (fun t => t.updTest (fun x => { x with
    lostRun := x.lostRun + 1, limitedSent := x.limitedSent || limit }))
  if limit then s.checkLimited c k.worker else s

/-- The checks that run on a tile are lost (13 R308); a lost second check, or a capture lost before it, leaves the resolution to its time
limit (13 R323). -/
def State.loseChecksOn (s : State) (ta : Nat) : State :=
  s.each ((s.clX (taC ta)).checks.filter (fun k => k.checker == some ta || s.firstHolds k ta)) (fun s k =>
    if k.first.isNone then s.loseCheck k
    else (s.endDuty ta).updClX (taC ta) (fun x => { x with
      checks := x.checks.map (fun j => if j == k then { j with checker := none, dead := true } else j) }))

/-! The sampling rate (13 R305, R313). -/

/-- Is a component down (18 R414)? Components are numbered 16 core + COMP, core 3 + c for cluster control core c. -/
def State.compDown (s : State) (n : Nat) : Bool := s.fw.down.contains n

/-- The tiles of a cluster in order of TADDR. -/
def tilesOf (c : Nat) : List Nat := (List.range 16).flatMap (fun x => (List.range 17).map (fun y => taddr c x y))

/-- The checkers of a cluster (13 R306): not muffled, and covered by no valid battery entry. -/
def State.checkersOf (s : State) (c : Nat) : List Nat := (tilesOf c).filter (fun ta => !s.muffledTile ta && (s.batOf ta).isNone)

/-- log2 of W_cap (13 R305): the least from 16 up with W_cap K >= 10 T; 15 if K is 0 or there is none up to 1,024. -/
def capLog (covered checkers : Nat) : Nat := if checkers = 0 then 15 else ((List.range 7).find? (fun l => decide (10 * covered ≤ 2 ^ (l + 4) * checkers))).elim 15 (· + 4)

/-- P(k) on a cluster (13 R305): the fewest passes of the context in its last step, over the tiles that ran at least 41,488. -/
def State.passesOf (s : State) (c : Nat) (i : CtxId) : Option Nat :=
  ((s.tiles.filter (fun e => taC e.1 == c)).flatMap (fun e =>
    (e.2.test.stats.filter (fun x => x.ctx == i && decide (41488 ≤ x.lastPasses))).map (·.lastPasses))).min?

/-- log2 of W_need(k) on a cluster (13 R305). -/
def State.needLog (s : State) (c : Nat) (i : CtxId) : Option Nat := (s.passesOf c i).map (fun n => min (Nat.log2 (n / 2593)) s.health.rateLog2)

/-- The ACTIVE contexts of a partition. -/
def State.activeOf (s : State) (p : Nat) : List CtxId :=
  ((List.range 64).filter (fun k => (s.ctx p k).st == 1)).map (fun k => s.ident p k)

/-- The identities whose need binds on a cluster. -/
def State.needsOf (s : State) (c : Nat) : List Nat :=
  match s.partOf c with
  | none => []
  | some p => (s.activeOf p).filterMap (fun i => s.needLog c i)

/-- Set W, LIMITED and K of a cluster (13 R305, R313); W stays while the checking component is down (18 R414). -/
def State.recompute (s : State) (c : Nat) : State :=
  if s.compDown 34 then s
  else
    let x := s.clX c
    let k := (s.checkersOf c).length
    let covered := ((tilesOf c).filter (fun ta => (s.batOf ta).isSome)).length
    let cap := capLog covered k
    let needs := s.needsOf c
    let w := min 10 (max cap (min s.health.rateLog2 (if s.health.autoRate then needs.foldl min 10 else 10)))
    let limited := decide (10 < cap) || needs.any (fun n => decide (n < cap))
    let s := s.updClX c (fun x => { x with wLog2 := w, capLog2 := cap, checkers := k, limited })
    let s := if w != x.wLog2 then
        s.report 0x05 (pack [(4, c), (4, w), (4, cap), (1, b2n limited), (3, 0), (9, k), (7, 0)])
      else s
    if limited && !x.limited then s.checkLimited c 0 else s

/-- Has a context run passes on a cluster, in its last step or in this one? -/
def State.runsOn (s : State) (c : Nat) (i : CtxId) (last : Bool) : Bool :=
  s.tiles.any (fun e => taC e.1 == c && e.2.test.stats.any (fun x =>
    x.ctx == i && (decide (0 < x.lastPasses) || (!last && decide (0 < x.passes)))))

/-- Write PTN_CTX_CHECK of the ACTIVE contexts of a partition (13 R313, R325). -/
def State.showChecks (s : State) (p : Nat) : State :=
  let cs := s.clustersOf p
  s.each (s.activeOf p) (fun s i =>
    let needs := cs.filterMap (fun c => s.needLog c i)
    s.updCtxX p i.ctx (fun x => { x with
      needLog2 := (needs.min?).getD 0
      goalMet := cs.all (fun c => !s.runsOn c i true || (match s.needLog c i with
        | some n => decide ((s.clX c).wLog2 ≤ n)
        | none => false))
      limited := cs.any (fun c => s.runsOn c i false && (s.clX c).limited) }))

/-- A change of a cluster's battery table, skip values or muffled tiles recomputes its rate (13 R305). -/
def State.tilesChanged (s : State) (c : Nat) : State :=
  let s := s.recompute c
  match s.partOf c with
  | some p => s.showChecks p
  | none => s

/-! Self-test slices. -/

/-- The ledger entry number of the lowest unit of a slice of kinds 6 and 7, or the TADDR of the tile (14 R338, 13 R318). -/
def TapSlice.unitNo (x : TapSlice) : Nat :=
  if x.kind = 6 then 17504 + x.unit_ else if x.kind = 7 then 18016 + 68 * (x.unit_ / 17) + 4 * (x.unit_ % 17) else x.unit_

/-- Write the tap record of a slice to the log ring (14 R338); a failed one goes to the belfry as well. -/
def State.tapRecord (s : State) (x : TapSlice) (outcome errors lanes sig : Nat) : State :=
  let bits := pack [(4, x.kind), (4, outcome), (1, b2n x.retest), (1, b2n x.forced), (4, x.form), (1, b2n x.fast), (1, 0),
    (16, x.unitNo), (8, errors), (4, lanes), (20, 0), (64, sig), (64, x.start), (32, s.ledger.opSec)]
  let s := s.log_ 0x03 2 3 32 bits
  let s := if s.mon.tapWait == some (x.kind, x.unit_) then
      { s with mon := { s.mon with tapWait := none } }.emit (.serial ((leBytes 32 bits).map (fun (b : Byte) => b.toNat)))
    else s
  if outcome = 1 then s.report 0x04 bits else s

/-- Does a slice run on a tile? -/
def TapSlice.onTile (x : TapSlice) (ta : Nat) : Bool := decide (x.kind < 6) && x.unit_ == ta

/-- A slice or a hold lets the array clock go (01 R39, R40): the step asked for meanwhile is taken, a pinned cluster goes back to
1.350 GHz. -/
def Clock.release (k : Clock) : Clock :=
  { k with
    tapHold := false, heldStep := none, dvfs := k.heldStep.getD k.dvfs
    target := if k.pinned then (if k.code != 54 then some 54 else k.target) else k.heldStep.orElse (fun _ => k.target) }

/-- A tile slice saves the vector registers and the constant store into the test buffer (14 R327). -/
def Tile.lend (t : Tile) : Tile := t.updTest (fun y => { y with buf := some (t.core.vregs, t.core.consts) })

/-- A tile slice gives a tile back (14 R327): what the test buffer holds is restored, both weight planes are zero. -/
def Tile.giveBack (t : Tile) : Tile :=
  { t with
    core := { t.core with
      vregs := t.test.buf.elim t.core.vregs (·.1), consts := t.test.buf.elim t.core.consts (·.2), plane0 := 0, plane1 := 0 }
    test := { t.test with buf := none } }

/-- The tile is returned (14 R327), and ACLK is free of the slice. -/
def State.returnTile (s : State) (x : TapSlice) : State :=
  let s := { s with health := { s.health with slices := s.health.slices.erase x } }
  if 6 ≤ x.kind then s
  else
    let c := taC x.unit_
    let s := s.updTile x.unit_ Tile.giveBack
    let busy := s.health.slices.any (fun y => decide (y.kind < 6) && taC y.unit_ == c)
    if busy || (s.clX c).tapHold then s else s.updClock c Clock.release

/-- The slices that a test picks end early with an outcome (14 R330, R332, R339). -/
def State.abandonSlices (s : State) (outcome : Nat) (pick : TapSlice → Bool) : State :=
  s.each (s.health.slices.filter pick) (fun s x => (s.returnTile x).tapRecord x outcome 0 0 0)

/-- An ARM that begins ends the checks and the opportunistic slices on a tile of its battery (13 R308, 14 R332). -/
def State.clearTests (s : State) (ta : Nat) : State :=
  (s.loseChecksOn ta).abandonSlices 3 (fun x => x.onTile ta)

end Sys2Proof.Machine
end

