-- ==== Sys2Proof/Machine/Section.lean ====
section
/-! DEFINITION. The section lifecycle: starting a command, LOAD, ARM, ABORT, the end of a section, chains (04 R103-R117,
06 R152, R159, 15 R348). -/
namespace Sys2Proof.Machine

/-! Starting a command of a queue (11 R258, R259). -/

/-- The command at the start of a queue: fetched, its context ACTIVE, its queue not held by a WAIT. -/
def State.fetchedCmd (s : State) (p k x op : Nat) : Option CmdRef :=
  let c := s.ctx p k
  let q := c.queue x
  match q.fetched with
  | some (idx, bits) =>
    if c.st == 1 && q.waitOn.isNone && bf bits 0 8 == op then
      some { part := p, ctx := k, x, idx, op, tag := bf bits 16 16, cqe := bits.toNat.testBit 8,
             notify := bits.toNat.testBit 9, bits }
    else none
  | none => none

/-- The command starts: it is in progress and the queue goes on to the next index. -/
def State.startCmd (s : State) (r : CmdRef) : State :=
  s.updQueue r.part r.ctx r.x (fun q =>
    { q with fetched := none, next := wrapAdd 32 r.idx 1, inProg := q.inProg ++ [r], stalled := none })

/-- Has every earlier command of the queue completed (11 R259)? -/
def State.allEarlier (s : State) (r : CmdRef) : Bool := ((s.ctx r.part r.ctx).queue r.x).head == r.idx

/-- A command is left not completed (11 R269): it starts again on RESUME. -/
def State.leaveCmd (s : State) (r : Option CmdRef) : State :=
  match r with
  | some r => s.updQueue r.part r.ctx r.x (fun q => { q with inProg := q.inProg.filter (fun y => y.idx != r.idx) })
  | none => s

/-- Does isolation keep a context's commands from an engine (15 R356): 1 a stream engine, 2 the ring engine? -/
def State.isolated (s : State) (c engine idx k : Nat) : Bool :=
  let y := s.clY c
  y.isoActive && y.isoEngine == engine && (engine == 2 || y.isoIndex == idx) && y.isoAdmitted != k

/-- The context identity of a command. -/
def State.identOf (s : State) (r : CmdRef) : CtxId := s.ident r.part r.ctx

/-! Reading context memory. -/

/-- Why a read of context memory failed: its status and the VA of the page; fatal, if the translation failed (08 R188, R190), and not where
the data is poisoned (07 R179) or the page is a host one. -/
structure ReadErr where
  status : Nat
  va : Nat
  fatal : Bool
  deriving DecidableEq, Repr

/-- Read n bytes at a VA of a context, page by page, or say why not. A host page is no device memory and gives SOURCE_TIER (06 R162; log
entry 9). -/
def State.readVa (s : State) (i : CtxId) : Nat → Nat → Nat → State × Except ReadErr (List Byte)
  | 0, _, _ => (s, .ok [])
  | fuel + 1, va, n =>
    if n = 0 then (s, .ok [])
    else
      let k := min n (0x10000 - va % 0x10000)
      match s.translate i va false with
      | (s1, .dev dpa _) =>
        if s1.poisoned dpa k then (s1, .error { status := 0x70, va, fatal := false })
        else
          match s1.readVa i fuel (va + k) (n - k) with
          | (s2, .ok bs) => (s2, .ok (mbytes s1.mem.bytes dpa k ++ bs))
          | r => r
      | (s1, .host _ _ _) => (s1, .error { status := St.sourceTier, va, fatal := false })
      | (s1, .err st) => (s1, .error { status := st, va, fatal := true })

/-! Tiles at ARM. -/

/-- Clear a tile (02 R65): banks, valid bits, registers of threads 0-2, vector state, planes, constants, stroke buffer. -/
def Tile.cleared (t : Tile) : Tile :=
  { t with
    core := { TileCore.reset with threads := t.core.threads.filter (fun e => e.1 == 3) }
    ctl := { t.ctl with resValid := 0 }
    test := { t.test with capture := none } }

/-- Start clearing a tile for a context, if its current context differs (02 R65, 09 R207). -/
def State.clearFor (s : State) (ta : Nat) (i : CtxId) : State :=
  let t := s.tile ta
  if t.ctl.cur = some i then s
  else (s.closeForeign ta i).setTile ta { t.cleared with ctl := { t.cleared.ctl with clearing := some i, cur := none } }

/-- Is a tile of the battery still being cleared? -/
def State.clearing (s : State) (c b : Nat) : Bool := (s.batTiles c b).any (fun e => (s.tile e.2).ctl.clearing.isSome)

/-- The bank masks of a section come into force on its tiles (02 R60, R63). -/
def State.masksOn (s : State) (c b : Nat) (img : SecImage) : State :=
  s.each (s.batTiles c b) (fun s e => s.updTile e.2 (fun t => t.updCtl (fun x =>
    let p := img.tileAt e.1
    { x with wide := p.wide, resIn := p.resIn, resOut := p.resOut })))

/-! Chains. -/

/-- The chain whose section holds the battery. -/
def State.chainOf (s : State) (c b : Nat) : Option Chain := (s.bat c b).cmd.bind (s.chainBy c)

/-- Replace a chain of a cluster. -/
def State.setChain (s : State) (c : Nat) (h : Chain) : State :=
  s.updCl c (fun x => { x with chains := x.chains.map (fun g => if g.cmd == h.cmd then h else g) })

/-! LOAD. -/

/-- The battery a command acts on: CLU_REPLACE redirects it (15 R351). -/
def State.redirect (s : State) (c b : Nat) : Nat :=
  let x := s.batX c b
  if x.replValid then x.replTarget else b

/-- Reject a LOAD: the shadow stays empty (04 R104), and no longer reserved (DESIGN CHOICE, log entry 100: R94 names no such end of a
reservation). -/
def State.rejectLoad (s : State) (c b : Nat) (r : CmdRef) (status : Nat) : State :=
  let s := s.updBat c b (fun x => { x with
    rsv := none, loadImg := none, loadCmd := none, shadow := none, lastStatus := status
    st := if x.st == .loading then .empty else x.st })
  match s.chainBy c r with
  | some h => s.endChain c h status
  | none => s.complete r status 0

/-- The read of an image fails: fatal to the context (08 R188, R193), which ends the load with ARM_CANCELLED; else the load is rejected. -/
def State.loadFails (s : State) (c b : Nat) (r : CmdRef) (i : CtxId) (x : ReadErr) : State :=
  if x.fatal then s.fatalXlat i x.status 0 c x.va else s.rejectLoad c b r x.status

/-- Take a SEC_LOAD (04 R94, R104): reserve the shadow, read the image, check it; a good image is being copied. -/
def State.takeLoad (s : State) (c b va : Nat) (r : CmdRef) : State :=
  let i := s.identOf r
  let s := s.updBat c b (fun x => { x with
    rsv := some i, loadCmd := some r, ctx := if x.st == .empty then r.ctx else x.ctx
    st := if x.st == .empty then .loading else x.st })
  match s.readVa i 66 va 64 with
  | (s1, .error x) => s1.loadFails c b r i x
  | (s1, .ok hd) =>
    let len := mLength (leNat hd)
    let n := if decide (len ≤ 4194304) && decide (64 ≤ len) then len else 64
    match s1.readVa i 66 va n with
    | (s2, .error x) => s2.loadFails c b r i x
    | (s2, .ok bs) =>
      let st := checkSection bs
      let img := buildSection va (leNat bs)
      let sh := s2.shape c b
      if st != 0 then s2.rejectLoad c b r st
      else if img.w != shapeW sh || img.h != shapeH sh then s2.rejectLoad c b r St.floorplanMismatch
      else if img.cycles == 0 || decide (40000000 < img.cycles) then s2.rejectLoad c b r St.boundExceeded
      else s2.updBat c b (fun x => { x with loadImg := some img })

/-! Ending a section. -/

/-- Complete the SEC_RUN of a section, or go on with its chain (04 R110, 06 R159); a preempted chain is left not completed, to run
again whole (11 R269). -/
def State.finishSection (s : State) (c status : Nat) (cmd : Option CmdRef) : State :=
  match cmd.bind (s.chainBy c) with
  | none => s.completeOpt cmd status
  | some h =>
    if status != St.committed || h.n ≤ h.pos + 1 then s.endChain c h status
    else if (s.ctx h.owner.part h.owner.ctx).st == 7 then s.endChain c { h with pos := h.pos + 1 } St.armCancelled
    else if h.stopAsked then
      (s.updCl c (fun x => { x with chains := x.chains.filter (fun g => g.cmd != h.cmd) })).leaveCmd (some h.cmd)
    else
      let h := { h with pos := h.pos + 1, hoDone := h.pos :: h.hoDone }
      let s := s.setChain c h
      let b' := s.redirect c (h.bats.getD h.pos 0)
      if (s.bat c b').rsv.isNone && (s.bat c b').loadCmd.isNone then s.takeLoad c b' (h.vas.getD h.pos 0) h.cmd
      else s.updBat c b' (fun x => { x with waiting := x.waiting ++ [h.cmd] })

/-- HO and HO_IDX of a SLOT descriptor's BASE instruction (06 R142, R160); HO of a MEM descriptor has no effect: log entry 101. -/
def baseHo (m : BitVec 1536) : Bool × Nat :=
  match ((List.range 16).map (fun n => bf m (512 + 64 * n) 64)).find? (fun i => field i 60 4 == 1) with
  | some i => (i.testBit 51 && bf m 0 2 == 0, field i 48 2)
  | none => (false, 0)

/-- Rewind the bound streams of a section (06 R152): the stream tiles delivered from the start point on are discarded, and those of a
hand-over buffer wait for the consumer's next ARM (06 R160). Without a replay the descriptor stops with the section's status and its command
completes (08 R508), as does one that had stopped on a fault (06 R161). -/
def State.rewind (s : State) (c b : Nat) (img : SecImage) (replay : Bool) (status : Nat) : State :=
  let x := s.bat c b
  s.each img.bindings (fun s bd =>
    let d := s.desc c bd.engine bd.desc
    let start := if x.st == .run then (takesOf x.takes bd.index).start else d.taken
    if d.st == .free then s
    else
      let s := s.updDescX c bd.engine bd.desc (fun x => { x with draining := true, recordDue := false, record := none })
      let d' := { d with
        delivered := min d.delivered start, taken := min d.taken start, at_ := [], hoWait := (baseHo d.image).1 }
      if replay && (d.st != .stopped || d.lastStatus == St.preempted) then
        s.setDesc c bd.engine bd.desc (if d.st == .stopped then d' else { d' with st := .active })
      else
        let s := s.setDesc c bd.engine bd.desc { d' with st := .stopped, lastStatus := status, rewound := true, cmd := none }
        s.completeOpt d.cmd status)

/-- Is the SEC_RUN of a battery held for re-placement on this status (15 R348)? -/
def State.holds (s : State) (c b status : Nat) (img : SecImage) (inArm : Bool) : Bool :=
  img.replayable && !(s.batX c b).replaced &&
    (status == St.unitMuffled || (inArm && (status == St.partialInput || status == St.floorplanMismatch)))

/-- Has a bound stream delivered its first min(L, TILES) tiles (04 R106)? -/
def State.slotReady (s : State) (c : Nat) (bd : Binding) : Bool :=
  let d := s.desc c bd.engine bd.desc
  d.st != .free && decide (min bd.look bd.tiles ≤ d.delivered - d.taken)

/-- Does ARM of a battery wait for lookahead tiles (04 R119 WAIT_SLOTS)? -/
def State.waitSlots (s : State) (c b : Nat) : Bool :=
  let x := s.bat c b
  match x.active with
  | some img => x.st == .arm && x.armOk && !img.bindings.all (s.slotReady c)
  | none => false

/-- ARM ends with a status (04 R106): held for re-placement (15 R348), left for RESUME (11 R269), or completed. -/
def State.failArm (s : State) (c b status : Nat) : State :=
  let x := s.bat c b
  let s := s.quietTiles c b
  match x.active with
  | none => (s.endBattery c b status).finishSection c status x.cmd
  | some img =>
    if s.holds c b status img true then
      let s := (s.leaveBattery c b).updBatX c b (fun y => { y with held := true, heldStatus := status, plan := 0 })
      s.updBat c b (fun y => { y with cmd := x.cmd })
    else
      let s := s.rewind c b img false status
      (s.endBattery c b status).finishSection c status x.cmd

/-! ARM. -/

/-- Map a region of a section page by page to device addresses of scratch-mode cluster memory of its cluster (04 R106). -/
def State.mapRegion (s : State) (c : Nat) (i : CtxId) (out : Bool) : Nat → Nat → Nat → State × Except (Nat × Nat) (List Region)
  | 0, _, _ => (s, .ok [])
  | fuel + 1, va, n =>
    if n = 0 then (s, .ok [])
    else
      let k := min n (0x10000 - va % 0x10000)
      match s.translate i va out with
      | (s1, .dev dpa _) => match home dpa with
        | .cm c' _ =>
          if c' = c then
            match s1.mapRegion c i out fuel (va + k) (n - k) with
            | (s2, .ok l) => (s2, .ok ({ out, va, dpa, len := k } :: l))
            | r => r
          else (s1, .error (St.notResident, va))
        | _ => (s1, .error (St.notResident, va))
      | (s1, .err st) => (s1, .error (st, va))
      | (s1, .host _ _ _) => (s1, .error (St.notResident, va))

/-- Map every region of an image; a HANDOVER region maps the buffer of its chain (06 R159). -/
def State.mapRegions (s : State) (c b : Nat) (i : CtxId) : List (BitVec 128) → State × Except (Nat × Nat) (List Region)
  | [] => (s, .ok [])
  | r :: rest =>
    let one : State × Except (Nat × Nat) (List Region) :=
      if regKind r == 2 then
        match s.chainOf c b with
        | none => (s, .error (St.notResident, 0))
        | some h =>
          let out := regHo r == h.pos
          match h.hoffs.find? (fun e => e.1 == regHo r) with
          | some (_, (base, len)) =>
            if (out || regHo r + 1 == h.pos) && decide (regLen r ≤ len) then
              (s, .ok [{ out, va := 2 ^ 48 + regHo r * 2 ^ 32, dpa := base, len := regLen r }])
            else (s, .error (St.notResident, 0))
          | none => (s, .error (St.notResident, 0))
      else s.mapRegion c i (regKind r == 1) 1026 (regBase r) (regLen r)
    match one with
    | (s1, .error st) => (s1, .error st)
    | (s1, .ok l) => match s1.mapRegions c b i rest with
      | (s2, .ok l') => (s2, .ok (l ++ l'))
      | r => r

/-- Does a chain section at ARM still need its output buffer (06 R159)? -/
def State.needsBuffer (s : State) (c b : Nat) (img : SecImage) : Bool :=
  match s.chainOf c b with
  | some h => img.regions.any (fun r => regKind r == 2 && regHo r == h.pos && !h.hoffs.any (fun e => e.1 == h.pos))
  | none => false

/-- The image of the descriptor a binding names: that of the STREAM that waits for an engine slot, if one does (06 R138). -/
def State.boundImage (s : State) (c : Nat) (bd : Binding) : BitVec 1536 :=
  match (s.cl c).engWait.find? (fun w => w.engine == bd.engine && w.desc == bd.desc && w.kind == 0) with
  | some w => w.image
  | none => (s.desc c bd.engine bd.desc).image

/-- Is the transfer a binding names marked partial (06 R155)? A FREE descriptor has none. -/
def State.boundPartial (s : State) (c : Nat) (bd : Binding) : Bool :=
  (s.desc c bd.engine bd.desc).st != .free && (s.desc c bd.engine bd.desc).isPartial

/-- The stream tile a binding of a battery begins with (06 R152): the lowest not yet taken, after the tiles of the sections that armed
before it and bind the same descriptor (06 R161). -/
def State.bindStart (s : State) (c b : Nat) (bd : Binding) : Nat :=
  let n := (s.bat c b).armSeq
  let before := (s.bats.filter (fun e => e.1 / 64 == c && e.1 % 64 != b && decide (e.2.armSeq < n))).flatMap (fun e =>
    match e.2.active with
    | some img => (img.bindings.filter (fun o => o.engine == bd.engine && o.desc == bd.desc)).map (fun o => (e.2, o))
    | none => [])
  let ran := (before.filter (fun e => e.1.st == .run)).foldl (fun m e => max m ((takesOf e.1.takes e.2.index).start + e.2.tiles))
    (s.desc c bd.engine bd.desc).taken
  (before.filter (fun e => e.1.st == .arm)).foldl (fun m e => m + e.2.tiles) ran

/-- The ARM checks of 04 R106 from the floor-plan class on, in order, once every tile is cleared. -/
def State.armChecks (s : State) (c b : Nat) : State :=
  let x := s.bat c b
  match x.active, x.owner with
  | some img, some i =>
    if x.st != .arm || x.armOk || s.clearing c b then s
    else if !s.fits img c b then s.failArm c b St.floorplanMismatch
    else if (s.part i.part).strict && !s.pinnedCl c then s.updBat c b (fun y => { y with waitPin := true })
    else
      let s := s.updBat c b (fun y => { y with waitPin := false })
      if (decide (img.schedN < 64) && !s.pinnedCl c) || decide (img.schedN < 54) then s.failArm c b St.clockClass
      else if (s.batTiles c b).any (fun e => s.muffledTile e.2) then s.failArm c b St.unitMuffled
      else if s.needsBuffer c b img then s.updBat c b (fun y => { y with waitLock := true })
      else match s.mapRegions c b i img.regions with
      | (s1, .error (st, va)) =>
        let s2 := s1.failArm c b St.notResident
        if st == 0x71 || st == 0x70 then s2.fatalXlat i st 0 c va else s2
      | (s1, .ok regs) =>
        if (s1.batTiles c b).any (fun e => (s1.tile e.2).ctl.resIn &&& ~~~ (s1.tile e.2).ctl.resValid != 0) then
          s1.failArm c b St.notResident
        else if img.bindings.any (fun bd => bf (s1.boundImage c bd) 8 4 != bd.look) then s1.failArm c b St.streamMismatch
        else if img.bindings.any (s1.boundPartial c) then s1.failArm c b St.partialInput
        else s1.updBat c b (fun y => { y with armOk := true, waitLock := true, regions := regs })
  | _, _ => s

/-- A section enters ARM with the battery's active image (04 R106): tiles of another context are cleared first (02 R65). -/
def State.enterArm (s : State) (c b : Nat) (i : CtxId) (img : SecImage) : State :=
  let s := s.each (s.batTiles c b) (fun s e => (s.clearTests e.2).clearFor e.2 i)
  let s := s.masksOn c b img
  let n := (s.cl c).armSeq
  let s := s.updCl c (fun x => { x with armSeq := n + 1 })
  let s := s.updBat c b (fun x => { x with
    st := .arm, owner := some i, ctx := i.ctx, active := some img, activeCtx := some i, armSeq := n, armOk := false, takes := [], faults := []
    waitLock := false, waitPin := false, waitSwap := false, locks := false, regions := [] })
  s.armChecks c b

/-! ABORT. -/

/-- A forced carillon entry is under way: no replay is started (09 R223). -/
def State.forcedEntry (s : State) (c : Nat) : Bool := (s.clX c).carState == 1 && (s.clX c).carForced

/-- A carillon entry has reached its third step: no section of the cluster is in ARM, RUN or COMMIT, and the streams have
stopped issuing (09 R223). -/
def State.carQuiet (s : State) (c : Nat) : Bool :=
  (s.clX c).carState != 0 &&
    !s.bats.any (fun e => e.1 / 64 == c && (e.2.st == .arm || e.2.st == .run || e.2.st == .commit))

/-- The tiles of a battery stop in RUN (04 R111): the output regions and the RES_OUT banks hold unspecified data, these banks
lose their valid bits (02 R63), unfinished loads are dropped, an untaken capture is released (02 R68) and made up later
(13 R304); log entry 92; log entry 93. -/
def State.stopTiles (s : State) (c b : Nat) : State :=
  let n := ((s.batTiles c b).filter (fun e => (s.tile e.2).test.capture.isSome)).length
  let s := s.updClX c (fun x => { x with deferredCnt := satAdd 16 x.deferredCnt n })
  let s := s.blur (((s.bat c b).regions.filter (·.out)).map (fun r => (r.dpa, r.len)))
  s.each (s.batTiles c b) (fun s e => (s.updTile e.2 (fun t => { t with
    core := { t.core with
      pad := blurBanks t.core.pad t.ctl.resOut.toNat s.freeCtr
      vq := [], vcyc := 0, vrep := 0, vdone := false, vE := none, vS := none, feed := none, planeCnt := 0, osPipe := []
      threads := tmap t.core.threads (fun i th => if i < 3 then { th with landing := [], waitc := none } else th) }
    ctl := { t.ctl with
      resValid := t.ctl.resValid &&& ~~~ t.ctl.resOut
      portQ := t.ctl.portQ.filter (fun o => match o.kind with
        | .load _ _ => false
        | _ => true) }
    test := { t.test with
      deferred := t.test.deferred || t.test.capture.isSome
      capture := none } })).drew 12)

/-- The detail bits of a section fault (15 R343): unit, bank, narrow address, stream binding. -/
def tileDetail (unit_ bank addr binding : Nat) : Nat := pack [(3, unit_), (4, bank), (19, addr), (3, binding)]

/-- Record BANK_CONFLICT and RESIDENT_WRITE in CLU_BANK_STATUS (02 R70). -/
def State.flagTile (s : State) (ta : Nat) (l : List Nat) : State :=
  s.updTile ta (fun t => t.updCtl (fun x => { x with
    conflict := x.conflict || l.contains St.bankConflict
    resFault := x.resFault || l.contains St.residentWrite }))

/-- Faults of a section in its present cycle (02 R50, 04 R109): the section aborts in this cycle, when the cycle has shown all its faults
(04 R116). -/
def State.fault (s : State) (c b : Nat) (l : List SecFault) : State :=
  (s.each l (fun s f => s.flagTile f.ta [f.status])).updBat c b (fun x => { x with faults := x.faults ++ l })

/-- The faults of one access of a tile: each condition it meets (02 R50), with the same detail and VA. -/
def State.faultOn (s : State) (ta b : Nat) (l : List Nat) (detail va : Nat) : State :=
  s.fault (taC ta) b (l.map (fun st => { status := st, ta, detail, va }))

/-- The fault that the record names: lowest code, then lowest TADDR (04 R116). -/
def pickFault (l : List SecFault) : Option SecFault :=
  l.foldl (fun best f => match best with
    | none => some f
    | some g => if f.status < g.status || (f.status == g.status && f.ta < g.ta) then some f else some g) none

/-- The record of an ABORT (04 R113, 15 R343). -/
def State.abortRecord (s : State) (c b : Nat) (f : SecFault) (further : Nat) : State :=
  let x := s.bat c b
  match x.active, x.owner with
  | some img, some i => s.raise { FaultRec.of f.status (if f.detail % 8 = 6 then 0 else 1) with
      part := some i.part, ctx := some i, cluster := c, battery := b, taddr := f.ta, further, section_ := img.id,
      cycle := x.cycle, va := f.va, detail := f.detail }
  | _, _ => s

/-- ABORT (04 R111-R113): the record, the tiles stopped, the streams rewound, then a replay, a hold, or the end. -/
def State.abortCore (s : State) (c b : Nat) (f : SecFault) (further : Nat) : State :=
  let x := s.bat c b
  match x.active, x.owner with
  | some img, some i =>
    let status := f.status
    let s := s.abortRecord c b f further
    let s := (s.stopTiles c b).quietTiles c b
    let ctxSt := (s.ctx i.part i.ctx).st
    if isReplayClass status && img.replayable && decide (x.replays < 2) && ctxSt == 1 && !s.forcedEntry c then
      let s := s.rewind c b img true status
      let s := s.updBat c b (fun y => { y with replays := y.replays + 1, locks := false, regions := [] })
      s.bar2Go.enterArm c b i img
    else if s.holds c b status img false then
      let s := s.rewind c b img true status
      let s := (s.leaveBattery c b).updBatX c b (fun y => { y with held := true, heldStatus := status, plan := 0 })
      s.updBat c b (fun y => { y with cmd := x.cmd })
    else if isReplayClass status && img.replayable && decide (x.replays < 2) && ctxSt == 2 then
      let s := s.rewind c b img true status
      (s.leaveBattery c b).leaveCmd x.cmd
    else
      let s := s.rewind c b img false status
      (s.endBattery c b status).finishSection c status x.cmd
  | _, _ => s

/-! Commands that wait at a battery (04 R94, R105, R118; 11 R259). -/

/-- Does the pending per-cluster configuration change the battery's entry or a skip value of its columns (04 R118)? -/
def State.swapTouches (s : State) (c b : Nat) : Bool :=
  match s.cfg.clusterShadows.find? (fun e => e.1 == c) with
  | none => false
  | some (_, n) =>
    let sh := s.shape c b
    tget n.bats b 0 != sh ||
      (shapeValid sh && (List.range (shapeW sh)).any (fun i => tget n.skips (shapeX0 sh + i) 31 != s.skip c (shapeX0 sh + i)))

/-- Does a pending CFG_SWAP (04 R118), a carillon (09 R223) or a forced hold (14 R333) block the entry into ARM on a battery? -/
def State.swapBlocks (s : State) (c b : Nat) : Bool :=
  (s.clX c).carState != 0 || ((s.clX c).tapHold && (s.clX c).tapHoldBat == b) || (s.cfg.swaps.any (fun w => w.target == c) && s.swapTouches c b) ||
    (s.clY c).skips.any (fun e => decide (shapeX0 (s.shape c b) ≤ e.1) && decide (e.1 < shapeX0 (s.shape c b) + shapeW (s.shape c b)))

/-- Does a section hold the battery: in ARM, RUN, COMMIT or ABORT, or held for re-placement (15 R348)? -/
def State.busyBat (s : State) (c b : Nat) : Bool :=
  let st := (s.bat c b).st
  st == .arm || st == .run || st == .commit || st == .abort || (s.batX c b).held

/-- Do two commands come from one queue? -/
def sameQueue (a b : CmdRef) : Bool := a.part == b.part && a.ctx == b.ctx && a.x == b.x

/-- Is a waiting command a load? -/
def isLoadOp (r : CmdRef) : Bool := r.op == 1 || r.op == 3

/-- Could a waiting SEC_RUN enter ARM but for a pending swap: the battery is free, no load of its own queue is under way? -/
def State.runReady (s : State) (c b : Nat) (r : CmdRef) : Bool :=
  !s.busyBat c b && (r.op == chainRun || !(match (s.bat c b).loadCmd with
    | some l => sameQueue l r
    | none => false))

/-- May a waiting command take effect, given those that wait before it (04 R94, 11 R259)? -/
def State.canTake (s : State) (c b : Nat) (before : List CmdRef) (r : CmdRef) : Bool :=
  (r.op == chainRun || !before.any (sameQueue r)) &&
    (if isLoadOp r then !before.any isLoadOp && (s.bat c b).rsv.isNone && (s.bat c b).loadCmd.isNone
     else s.runReady c b r && !s.swapBlocks c b)

/-- The first waiting command that may take effect, and the others. -/
def State.pick (s : State) (c b : Nat) : List CmdRef → List CmdRef → Option (CmdRef × List CmdRef)
  | _, [] => none
  | before, r :: rest =>
    if s.canTake c b before r then some (r, before ++ rest) else s.pick c b (before ++ [r]) rest

/-- NOT_LOADED (04 R105): nothing else changes, LAST_STATUS (04 R119) included; log entry 111. -/
def State.finishRun (s : State) (c : Nat) (cmd : CmdRef) : State :=
  match s.chainBy c cmd with
  | some h => s.endChain c h St.notLoaded
  | none => s.complete cmd St.notLoaded 0

/-- A SEC_RUN takes effect (04 R105): the loaded or the active image of the same context and SECTION_ID enters ARM; else
NOT_LOADED. The step counter is latched for the draws of the section (12 R289). -/
def State.takeRun (s : State) (c b : Nat) (r : CmdRef) : State :=
  let i := s.identOf r
  let x := s.bat c b
  let cmd : CmdRef := if r.op == chainRun then { r with op := 3 } else r
  let id := match s.chainBy c cmd with
    | some h => h.ids.getD h.pos 0
    | none => bf r.bits 96 32
  let go := fun (s : State) (img : SecImage) =>
    ((s.updBatX c b (fun y => { y with replaced := false })).updBat c b (fun y => { y with cmd := some cmd, replays := 0, step := (s.ctxX r.part r.ctx).step })).enterArm c b i img
  let fromShadow := match x.shadow with
    | some img => img.id == id && x.rsv == some i
    | none => false
  if fromShadow then
    match x.shadow with
    | some img => go (s.updBat c b (fun y => { y with shadow := none, rsv := none })) img
    | none => s
  else match x.active with
  | some img =>
    if x.shadow.isNone && x.loadImg.isNone && img.id == id && x.activeCtx == some i then go s img
    else s.finishRun c cmd
  | none => s.finishRun c cmd

/-- The VA of the image a waiting load names. -/
def State.loadVa (s : State) (c : Nat) (r : CmdRef) : Nat :=
  match s.chainBy c r with
  | some h => h.vas.getD h.pos 0
  | none => bf r.bits 128 48

/-- Let the commands that wait at a battery take effect, as far as they may. -/
def State.pump (s : State) (c b : Nat) : Nat → State
  | 0 => s
  | fuel + 1 =>
    match s.pick c b [] (s.bat c b).waiting with
    | none => s.updBat c b (fun x => { x with
        waitSwap := x.waiting.any (fun r => !isLoadOp r && s.runReady c b r && s.swapBlocks c b) })
    | some (r, rest) =>
      let s := s.updBat c b (fun x => { x with waiting := rest })
      (if isLoadOp r then s.takeLoad c b (s.loadVa c r) r else s.takeRun c b r).pump c b fuel

/-- A re-placed section enters ARM again (15 R348) once no pending swap (04 R118), carillon (09 R223) or forced hold (14 R333) blocks it;
where its context may start nothing, its command is left not completed. -/
def State.enterHeld (s : State) (c b : Nat) : State :=
  let x := s.bat c b
  match x.active, x.owner with
  | some img, some i =>
    if !((s.batX c b).held && (s.batX c b).plan == 3) || s.swapBlocks c b then s
    else
      let s := s.updBatX c b (fun y => { y with held := false, plan := 0 })
      if (s.ctx i.part i.ctx).st = 1 then (s.updBat c b (fun y => { y with replays := 0 })).enterArm c b i img
      else (s.updBat c b (fun y => { y with cmd := none })).leaveCmd x.cmd
  | _, _ => s

/-- Let the section and the commands that wait at a battery take effect, after the BAR2 requests that a lock held (04 R107). -/
def State.pumpBat (s : State) (c b : Nat) : State := (s.bar2Go.enterHeld c b).pump c b ((s.bat c b).waiting.length + 1)

/-- A command reaches a battery (04 R94). -/
def State.reach (s : State) (c b : Nat) (r : CmdRef) : State :=
  (s.updBat c b (fun x => { x with waiting := x.waiting ++ [r] })).pumpBat c b

end Sys2Proof.Machine
end

