-- ==== Sys2Proof/Machine/Ledger.lean ====
section
/-! DEFINITION. Muffling, confirmed errors and suspect events: the shared part of the ledger and of recovery (13 R308, R315-R321,
15 R345, R346, 07 R174, 06 R155). -/
namespace Sys2Proof.Machine

/-! Stream destinations, as muffling needs them. -/

/-- Instruction n of a descriptor image (06 R139). -/
def progInstr (img : BitVec 1536) (n : Nat) : Nat := bf img (512 + 64 * n) 64

/-- The instructions of a program up to its END. -/
def progList (img : BitVec 1536) : List Nat := ((List.range 16).map (progInstr img)).takeWhile (fun i => field i 60 4 != 7)

/-- The first instruction with an opcode. -/
def progFind (img : BitVec 1536) (op : Nat) : Option Nat := (progList img).find? (fun i => field i 60 4 == op)

/-- The LOOP count of a counter; 0 without a LOOP. -/
def loopCount (img : BitVec 1536) (ctr : Nat) : Nat :=
  match (progList img).find? (fun i => field i 60 4 == 2 && field i 56 3 == ctr) with
  | some i => field i 32 24
  | none => 0

/-- The effective multicast mask (06 R153) as (columns, rows) when the step counter holds v. -/
def mcastMask (img : BitVec 1536) (v : Nat) : Nat × Nat :=
  match progFind img 5 with
  | none => (1, 1)
  | some i =>
    let cols := field i 0 16
    let rows := field i 16 16
    if field i 56 3 == 7 then (cols, rows)
    else if i.testBit 52 then (cols, field (rows * 2 ^ v) 0 16) else (field (cols * 2 ^ v) 0 16, rows)

/-- Does any element of the program name logical position (i, j) (06 R155)? -/
def descNames (img : BitVec 1536) (i j : Nat) : Bool :=
  let n := match progFind img 5 with
    | some x => if field x 56 3 == 7 then 1 else min (loopCount img (field x 56 3)) 16
    | none => 1
  (List.range n).any (fun v => (mcastMask img v).1.testBit i && (mcastMask img v).2.testBit j)

/-- A SLOT descriptor (06 R139). -/
def descSlot (img : BitVec 1536) : Bool := bf img 0 2 == 0

/-- Mark partial every SLOT transfer with a destination at a position of a battery (06 R155). -/
def State.markPartial (s : State) (c b pos : Nat) : State :=
  { s with descs := tmap s.descs (fun _ d =>
      if d.st != .free && d.cluster == c && d.bat == b && descSlot d.image && descNames d.image (pos % 16) (pos / 16) then
        { d with isPartial := true }
      else d) }

/-- A transfer marked partial ends the ARM of a section bound to it with PARTIAL_INPUT (04 R106, 06 R155). -/
def State.partialEnds (s : State) (c : Nat) : State :=
  s.each ((s.bats.filter (fun e => e.1 / 64 == c && e.2.st == .arm && e.2.armOk)).map (·.1 % 64)) (fun s b =>
    match (s.bat c b).active with
    | some img =>
      if (s.bat c b).st == .arm && img.bindings.any (s.boundPartial c) then
        (s.failArm c b St.partialInput).pumpBat c b
      else s
    | none => s)

/-! Muffling. -/

/-- A tile is muffled (15 R345, R346): its bit, its banks, its fills; the streams and checks without it; the section of
its battery ends with UNIT_MUFFLED (04 R106, R109) unless it is in COMMIT. -/
def State.muffleTile (s : State) (ta : Nat) : State :=
  let c := taC ta
  let i := 16 * taY ta + taX ta
  if s.muffledTile ta then s
  else match (s.batOf ta).filter (fun e => (s.bat c e.1).st == .commit) with
  | some (b, _) => s.updBatX c b (fun y => { y with muffles := y.muffles ++ [ta] })
  | none =>
    let s := s.updClY c (fun x => { x with muffled := x.muffled ++ [i] })
    let s := ((s.loseChecksOn ta).abandonSlices 4 (fun x => x.onTile ta)).muffleEndpoint ta
    let s := s.updTile ta (fun t => { t with
      ctl := { t.ctl with lostBanks := t.ctl.resValid, resValid := 0, landing := [] }
      test := { t.test with capture := none } })
    let s := s.tilesChanged c
    match s.batOf ta with
    | none => s
    | some (b, pos) =>
      let s := (s.markPartial c b pos).partialEnds c
      let x := s.bat c b
      if x.st == .run then s.fault c b [{ status := St.unitMuffled, ta, detail := tileDetail 6 0 0 0, va := 0 }]
      else if x.st == .arm then (s.failArm c b St.unitMuffled).pumpBat c b
      else s

/-- The frames of a logical slice lose their data (07 R174, R179). -/
def State.loseSlice (s : State) (c sl : Nat) : State :=
  s.declareLost (0x40000000000 + c * 0x8000000 + sl * 0x100000) 0x100000

/-- A free spare slice of a cluster (07 R169). -/
def State.spareOf (s : State) (c : Nat) : Option Nat :=
  (List.range 66).find? (fun ph => (s.slice c ph).st == 1)

/-- A physical slice fails or is muffled (07 R174), by its role and the spares left. -/
def State.failSlice (s : State) (c phys : Nat) : State :=
  let x := s.slice c phys
  if x.st == 3 then s
  else
    let gone := fun (s : State) => s.updSlice c phys (fun y => { y with st := 3, logical := 0x7F, mirror := false, secondary := false })
    let mapSpare := fun (s : State) (sp st : Nat) => s.updSlice c sp (fun y =>
      { y with logical := x.logical, mode := x.mode, mirror := x.mirror, partner := x.partner, secondary := x.secondary, st })
    let drop := fun (s : State) => s.updCl c (fun y => { y with cache := y.cache.filter (fun l => l.set / 256 != x.logical) })
    if x.st == 1 then gone s
    else if x.mode == 1 then
      match s.spareOf c with
      | some sp => drop (mapSpare (gone s) sp 0)
      | none => drop (gone s)
    else if x.mirror then
      let partner := (List.range 66).find? (fun ph => (s.slice c ph).logical == x.partner && (s.slice c ph).mirror && (s.slice c ph).st != 3)
      let rebuilding := match partner with
        | some ph => (s.slice c ph).st == 2
        | none => false
      let base := if x.secondary then x.partner else x.logical
      if rebuilding then (gone (s.loseSlice c base)) else
      match s.spareOf c with
      | some sp => (mapSpare (gone s) sp 2).updCl c (fun y => { y with mirrorBusy := y.mirrorBusy ++ [sp] })
      | none =>
        let s := match partner with
          | some ph => s.updSlice c ph (fun y => { y with
              mirror := false, secondary := false, logical := if y.secondary then x.logical else y.logical })
          | none => s
        gone s
    else
      let s := s.loseSlice c x.logical
      match s.spareOf c with
      | some sp => mapSpare (gone s) sp 0
      | none => gone s

/-! Packets that end before their destination (10 R239, R240, R244). -/

/-- A request of an agent ends with a status: a stream engine stops the descriptor with its transfer partial (10 R239); any other agent is
told so. -/
def State.requestEnds (s : State) (p : Packet) (status : Nat) : State :=
  if p.agent == 2 && thas s.descs p.taddr then
    let s := s.stopDesc p.taddr status
    ({ s with descs := tset s.descs p.taddr { tget s.descs p.taddr Desc.reset with isPartial := true } }).partialEnds (p.taddr / 64)
  else s.emit (.notice p.agent p.taddr status)

/-- A packet ends at a router with a status; with a notice the answer travels under the system key. -/
def State.packetEnds (s : State) (c : Nat) (p : Packet) (notice : Bool) (status : Nat) : State :=
  let s := s.dropGroup p.group
  if p.kind == 1 then
    (if notice then s.sendNotice c p.payload p.back p.ctx status else s.sendBack c 6 p.payload p.back p.key p.ctx status)
  else s.requestEnds p status

/-- The packets whose flits are still on their way through a port that goes down are cut off there (10 R240): their flits are discarded and the
source is told UNIT_MUFFLED under the system key. -/
def State.cutPackets (s : State) (c port : Nat) : State :=
  s.each (s.mesh.net.filter (fun p => !p.arrived && (match p.slot with
    | some (n, k, m) => n == c && k / 6 == port && decide (m < p.flits)
    | none => false))) (fun s p => if (s.packet p.id).isSome then s.packetEnds c p true St.unitMuffled else s)

/-- The router ports at both ends of a link group (10 R240): the group behind port 1 (east) or 2 (south) of cluster c. -/
def State.linkDown (s : State) (c : Nat) (south : Bool) : State :=
  let p := if south then 2 else 1
  let c' := if south then c + 4 else c + 1
  let q := if south then 0 else 3
  let s := s.abandonSlices 4 (fun x => x.kind == 6 && x.unit_ / 16 == 2 * c + b2n south)
  let s := (s.updRouter c (fun r => { r with down := r.down ||| 2 ^ p })).updRouter c' (fun r => { r with down := r.down ||| 2 ^ q })
  (s.cutPackets c p).cutPackets c' q

/-- The cluster pairs that face each other across a seam (01 R28): the cluster and whether the port is south. -/
def seamPairs (seam : Nat) : List (Nat × Bool) :=
  if seam = 0 then [(1, false), (5, false)] else if seam = 1 then [(9, false), (13, false)]
  else if seam = 2 then [(4, true), (5, true)] else [(6, true), (7, true)]

/-- The lanes of a seam that are muffled. -/
def State.seamMuffled (s : State) (seam : Nat) : Nat := (s.health.lanes.filter (fun l => l / 68 == seam)).length

/-- Lanes of a seam in service (01 R28): 64 less those muffled that no spare has replaced. DESIGN CHOICE (log entry 106): the rule does not
number the spares, and the model counts every muffled lane as one that was in service. -/
def State.seamLanes (s : State) (seam : Nat) : Nat := 64 - (s.seamMuffled seam - tget s.health.spared seam 0)

/-- A seam is retrained (01 R28): a spare takes the place of each muffled lane, as far as the four go. -/
def State.retrainSeam (s : State) (seam : Nat) : State :=
  { s with health := { s.health with spared := tset s.health.spared seam (min 4 (s.seamMuffled seam)) } }

/-- The number under which the mesh knows a unit on its way back (10 R246). -/
def unitCode (kind idx : Nat) : Nat := 65536 * kind + idx

/-- The mark of a unit muffled again before the flip that brings it back (10 R247). -/
def remuffled : Nat := 2 ^ 32

/-- The ready bit of a memory channel's instance (16 R377): of its stack, when each of the 16 channels is in service or muffled and one is in
service; of a far-tier channel, when it is in service. A unit muffled later keeps it (16 R378). -/
def State.chanReady (s : State) (n : Nat) : State :=
  if n < 192 then
    let chs := (List.range 16).map (fun i => 16 * (n / 16) + i)
    if chs.all (fun m => (s.chan m).st != 0) && chs.any (fun m => (s.chan m).st == 1) then
      { s with boot := { s.boot with readyHbm := s.boot.readyHbm ||| 2 ^ (n / 16) } }
    else s
  else if (s.chan n).st = 1 then { s with boot := { s.boot with readyFar := s.boot.readyFar ||| 2 ^ (n - 192) } }
  else s

/-- Muffle a unit by ledger kind and index (15 R345, 13 R318). -/
def State.muffleUnit (s : State) (kind idx : Nat) : State :=
  let s := { s with mesh := { s.mesh with
    installing := s.mesh.installing.map (fun e => if e == unitCode kind idx then e + remuffled else e) } }
  if kind = 1 || kind = 2 then s.muffleTile idx
  else if kind = 3 then s.failSlice (idx / 66) (idx % 66)
  else if kind = 4 then
    let s := { s with health := { s.health with links := (s.health.links ++ [idx]).eraseDups } }
    let g := idx / 16
    if (s.health.links.filter (fun l => l / 16 == g)).length == 16 then s.linkDown (g / 2) (g % 2 == 1) else s
  else if kind = 5 then
    let s := { s with health := { s.health with lanes := (s.health.lanes ++ [idx]).eraseDups } }
    let seam := idx / 68
    if s.seamLanes seam < 32 then s.each (seamPairs seam) (fun s e => s.linkDown e.1 e.2) else s
  else if kind = 6 then (s.updChan idx (fun x => { x with st := 2 })).chanReady idx
  else if kind = 7 then s.updChan (192 + idx) (fun x => { x with st := 2 })
  else if kind = 8 then s.muffleWave idx
  else s

/-! The ledger. -/

/-- The ledger entry number of a unit (13 R318). -/
def ledgerNo (kind idx : Nat) : Nat :=
  if kind = 1 then 64 + idx else if kind = 2 then 8256 + idx else if kind = 3 then 16448 + idx
  else if kind = 4 then 17504 + idx else if kind = 5 then 18016 + idx else if kind = 6 then 18288 + idx
  else if kind = 7 then 18480 + idx else if kind = 8 then 18512 + idx else 0

/-- A blank unit entry (13 R319): no confirmed error, no suspect event. -/
def blankEntry (kind idx : Nat) : LedgerEntry :=
  BitVec.ofNat 512 (pack [(4, kind), (4, 0), (16, idx), (8, 0), (32, 0), (32, 0xFFFFFFFF), (32, 0xFFFFFFFF), (32, 0xFFFFFFFF)])

/-- The entry of a unit as the security core holds it. -/
def State.ledgerOf (s : State) (kind idx : Nat) : LedgerEntry := tget s.ledger.work (ledgerNo kind idx) (blankEntry kind idx)

/-- Update an entry; the write to the NOR is due (13 R320). -/
def State.setLedger (s : State) (kind idx : Nat) (e : LedgerEntry) : State :=
  let n := ledgerNo kind idx
  { s with ledger := { s.ledger with work := tset s.ledger.work n e, dirty := s.ledger.dirty ++ [n] } }

def ledState (e : LedgerEntry) : Nat := bf e 4 4
def ledLast (e : LedgerEntry) : Nat := bf e 64 32

/-- A record that names a unit, for the belfry (13 R324): the tile for kinds 1 and 2, the cluster for a slice. -/
def unitRec (status kind idx : Nat) : FaultRec :=
  { FaultRec.of status 6 with
    taddr := if kind = 1 || kind = 2 then idx else 0
    cluster := if kind = 1 || kind = 2 then taC idx else if kind = 3 then idx / 66 else 0 }

/-- A confirmed error against a unit (13 R315, R317, R321). -/
def State.confirm (s : State) (kind idx source cause : Nat) : State :=
  let e := s.ledgerOf kind idx
  let now := s.ledger.opSec
  let last := ledLast e
  let none_ := last == 0xFFFFFFFF
  let st := ledState e
  let pending := decide (2 ≤ st) || s.ledger.retests.any (fun r => r.1 == kind && r.2.1 == idx && r.2.2 == 0)
  if !none_ && decide (now ≤ last + 10) && pending then s
  else
    let st' := if st == 0 then (if none_ || decide (last + 2592000 < now) then 1 else 2) else if st == 1 then 2 else st
    let v := e.toNat
    let v := setField v 4 4 st'
    let v := setField v 24 8 cause
    let v := setField v 96 32 last
    let v := setField v 64 32 now
    let v := setField v 160 16 (satAdd 16 (field v 160 16) 1)
    let v := setField v 192 4 source
    let s := s.setLedger kind idx (BitVec.ofNat 512 v)
    if st == 0 && st' == 1 then
      let s := s.raise (unitRec 0xB3 kind idx)
      let s := { s with ledger := { s.ledger with retests := s.ledger.retests ++ [(kind, idx, 0)] } }
      if kind == 3 || kind == 6 || kind == 7 then s else s.muffleUnit kind idx
    else if (st == 0 || st == 1) && st' == 2 then
      let s := s.raise (unitRec 0xB4 kind idx)
      let s := { s with
        ledger := { s.ledger with
          retests := s.ledger.retests.filter (fun r => !(r.1 == kind && r.2.1 == idx)), perm := s.ledger.perm ++ [(ledgerNo kind idx, s.now)] }
        health := { s.health with fpStale := true } }
      s.muffleUnit kind idx
    else s

/-- A suspect event against a tile (13 R316): a second within 86,400 s is a confirmed error. -/
def State.suspect (s : State) (ta cause : Nat) : State :=
  let e := s.ledgerOf 1 ta
  let prev := bf e 128 32
  let now := s.ledger.opSec
  if prev != 0xFFFFFFFF && decide (now ≤ prev + 86400) then s.confirm 1 ta 4 cause
  else
    let v := setField (setField e.toNat 128 32 now) 176 8 (satAdd 8 (bf e 176 8) 1)
    s.setLedger 1 ta (BitVec.ofNat 512 v)

/-- ABORT with its suspect event (04 R111, 13 R316): the fault named, and how many others the cycle had. -/
def State.abort (s : State) (c b : Nat) (f : SecFault) (further : Nat) : State :=
  let s := s.abortCore c b f further
  (if f.status == St.lateData || f.status == St.cycleMismatch || f.status == St.scheduleViolation then s.suspect f.ta f.status
   else s).pumpBat c b

/-- The section of a battery aborts on the faults of its cycle, if there are any (04 R116). -/
def State.abortDue (s : State) (c b : Nat) : State :=
  let l := (s.bat c b).faults
  match pickFault l with
  | some f => s.abort c b f (l.length - 1)
  | none => s

/-- Count an event toward a threshold of 16 within one operating hour (07 R178): the window kept, and whether it is reached. -/
def hourWindow (now : Nat) (w : List Nat) : List Nat × Bool :=
  let w := now :: w.filter (fun t => decide (now < t + 3600))
  if 16 ≤ w.length then ([], true) else (w, false)

end Sys2Proof.Machine
end

