-- ==== Sys2Proof/Machine/CtxReset.lean ====
section
/-! DEFINITION. The order arbiter, and a context's work ended by a reset (11 R277-R279, 15 R358). -/
namespace Sys2Proof.Machine

/-! The order arbiter (11 R277-R279). Commands arrive one at a time: two orders of one always-on cycle are two commands (log
entry 19). -/

/-- What an order names (11 R278). -/
inductive Target where
  | module
  | part (p : Nat)
  | cluster (c : Nat)
  | ctx (p k : Nat)
  deriving DecidableEq, Repr

/-- Does one target contain another (11 R278)? -/
def State.contains (s : State) : Target → Target → Bool
  | .module, t => t != .module
  | .part p, .cluster c => s.owns p c
  | .part p, .ctx q _ => p == q
  | _, _ => false

/-- Do two targets conflict (11 R278)? -/
def State.conflicts (s : State) (a b : Target) : Bool := a == b || s.contains a b || s.contains b a

/-- The orders in progress, as severity and target (11 R277). -/
def State.inProgress (s : State) : List (Nat × Target) :=
  s.orders.map (fun o => if o.target = 16 then (2, Target.module) else (3, Target.part o.target)) ++
  s.ctxs.filterMap (fun e =>
    let t := Target.ctx (e.1 / 64) (e.1 % 64)
    if e.2.st = 8 then some (5, t) else if e.2.st = 2 || e.2.st = 4 then some (6, t) else if e.2.st = 6 then some (7, t) else none) ++
  s.cfg.swaps.map (fun w => (8, if w.target = 16 then Target.module else Target.cluster w.target))

/-- What the arbiter says of a new order (11 R279). -/
inductive Verdict where
  | proceed | superseded | join
  deriving DecidableEq, Repr

/-- The verdict on an order of a severity (11 R279). At equal severity on a containing target the new order loses (log entry 20);
log entry 19. -/
def State.arbitrate (s : State) (sev : Nat) (t : Target) : Verdict :=
  let l := s.inProgress.filter (fun o => s.conflicts o.2 t)
  if l.any (fun o => decide (o.1 < sev)) then .superseded
  else if l.any (fun o => o.1 == sev && o.2 == t) then .join
  else if l.any (fun o => o.1 == sev) then .superseded
  else .proceed

/-- A pending CFG_SWAP ends with SUPERSEDED (11 R279). -/
def State.dropSwap (s : State) (w : Swap) : State :=
  let s := { s with cfg := { s.cfg with
      swaps := s.cfg.swaps.filter (fun v => v != w)
      status := tset s.cfg.status w.target
        (let b := tget s.cfg.status w.target BankStatus.reset
         { b with pending := false, lastStatus := St.superseded }) } }
  (s.completeOpt w.cmd St.superseded).answer (waitSwap w.target) St.superseded

/-! The extent of a save area (11 R272, R273). -/

/-- The batteries that hold a LOADED or active image of a context, in order: (cluster, battery, pending VA, active VA). -/
def State.batteryMap (s : State) (i : CtxId) : List (Nat × Nat × Nat × Nat) :=
  s.bats.filterMap (fun e =>
    let pend := match e.2.shadow with
      | some img => if e.2.rsv == some i then img.va else 0
      | none => 0
    let act := match e.2.active with
      | some img => if e.2.activeCtx == some i then img.va else 0
      | none => 0
    let has := (e.2.shadow.isSome && e.2.rsv == some i) || (e.2.active.isSome && e.2.activeCtx == some i)
    if has then some (e.1 / 64, e.1 % 64, pend, act) else none)

/-- The resident banks of a context in a set of clusters: (map index, i, j, bank, TADDR) (11 R272). -/
def State.banksOf (s : State) (i : CtxId) (mask : Nat) (m : List (Nat × Nat × Nat × Nat)) : List (Nat × Nat × Nat × Nat × Nat) :=
  s.tiles.flatMap (fun e =>
    if e.2.ctl.cur == some i && mask.testBit (taC e.1) then
      match s.batOf e.1 with
      | none => []
      | some (b, pos) =>
        match (List.range m.length).find? (fun n => (m.getD n (0, 0, 0, 0)).1 == taC e.1 && (m.getD n (0, 0, 0, 0)).2.1 == b) with
        | none => []
        | some n => (bitsOf 12 e.2.ctl.resValid.toNat).map (fun k => (n, pos % 16, pos / 16, k, e.1))
    else [])

/-- The cluster-memory frames of a context in a set of clusters, with a VA that maps each: (DPA, VA, cluster) (11 R272). -/
def State.framesOf (s : State) (i : CtxId) (mask : Nat) : List (Nat × Nat × Nat) :=
  s.mem.tags.filterMap (fun e =>
    if e.2 == i then
      match home e.1 with
      | .cm c _ =>
        if mask.testBit c then
          (s.leavesTo i.part e.1 0x10000 3 1 ((s.ctx i.part i.ctx).xlat.root * 2 ^ 21) 0).head?.map (fun l => (e.1, l.2.1, c))
        else none
      | _ => none
    else none)

/-- The save area of a context whose SAVE ends early holds unspecified data (11 R255, R280). -/
def State.blurSave (s : State) (p k : Nat) : State :=
  let c := s.ctx p k
  if c.st = 4 then
    let i := s.ident p k
    let m := s.batteryMap i
    let ds := (s.descsOf i).filter (fun key => (tget s.descs key Desc.reset).st != .free)
    let bk := if c.banksNow then (s.banksOf i c.clustersNow m).length else 0
    let fr := if c.framesNow then (s.framesOf i c.clustersNow).length else 0
    let n := 512 + (16 * m.length + 63) / 64 * 64 + 384 * ds.length + 32832 * bk + 65600 * fr
    s.blurVa i (n / 65536 + 2) c.saveVa n
  else s

/-- A new order takes over: the conflicting orders of lower severity in progress complete with SUPERSEDED (11 R279). -/
def State.takeOver (s : State) (sev : Nat) (t : Target) : State :=
  let s := s.each s.ctxs (fun s e =>
    let p := e.1 / 64
    let k := e.1 % 64
    let own := if e.2.st = 8 && e.2.go then 5 else if e.2.st = 2 || e.2.st = 4 then 6 else if e.2.st = 6 then 7 else 0
    if sev < own && s.conflicts (.ctx p k) t then (s.blurSave p k).ctxResult p k St.superseded else s)
  let s := if sev < 3 && t == .module then s.each ((s.orders.filter (fun o => o.target != 16)).map (·.target)) (fun s p =>
      s.answer (waitPart p) St.superseded) else s
  if sev < 8 then
    s.each s.cfg.swaps (fun s w =>
      if s.conflicts (if w.target = 16 then .module else .cluster w.target) t then s.dropSwap w else s)
  else s

/-! A context's work ends (15 R358). -/

/-- A section in RUN aborts on a reset (04 R111, R113, 15 R358, R359): its record carries SUPERSEDED (log entry 21). -/
def State.resetAbort (s : State) (c b : Nat) : State :=
  if (s.bat c b).st == .run then
    (s.abortRecord c b { status := St.superseded, ta := 0, detail := tileDetail 6 0 0 0, va := 0 } 0).stopTiles c b
  else s

/-- A section ends without COMMIT (04 R106, R117, 15 R358): one in RUN aborts; one in ARM leaves ARM_CANCELLED in LAST_STATUS (log
entry 96), while its command completes with SUPERSEDED. -/
def State.endSection (s : State) (c b status : Nat) : State :=
  ((s.resetAbort c b).quietTiles c b).endBattery c b (if (s.bat c b).st == .arm then St.armCancelled else status)

/-- One battery as a reset of a context leaves it (15 R358 steps 2 and 4). -/
def State.resetBat (s : State) (i : CtxId) (key : Nat) : State :=
  let c := key / 64
  let b := key % 64
  let x := s.bat c b
  let mine := x.owner == some i && (x.st == .arm || x.st == .run || (s.batX c b).held)
  let s := if mine then s.endSection c b St.superseded else s
  let s := if mine && (s.batX c b).held then
      (s.updBatX c b (fun y => { y with held := false })).updBat c b (fun y => { y with cmd := none })
    else s
  let s := if x.rsv == some i then s.updBat c b Battery.emptied else s
  s.updBat c b (fun y => { y with waiting := y.waiting.filter (fun r => !ofCtx i.part i.ctx r) })

/-- The writes under way of MEM elements complete (06 R156, R161). -/
def State.finishWrites (s : State) (i : CtxId) (key : Nat) : State :=
  s.each (tget s.descx key DescX.reset).writes (fun s w => s.performParts i w.parts)

/-- A descriptor of a context becomes FREE (06 R161): elements in flight complete, the fields a function reads keep their values (06 R163). -/
def State.freeDesc (s : State) (i : CtxId) (key : Nat) : State :=
  let s := s.finishWrites i key
  { s with
    descs := tset s.descs key
      (let d := tget s.descs key Desc.reset
       { d with st := .free, cmd := none, issued := [], doneEl := [], rewound := false, owner := none })
    descx := tset s.descx key DescX.reset }

/-- The fills held for a context are dropped (06 R161). -/
def State.dropFills (s : State) (i : CtxId) : State :=
  { s with tiles := tmap s.tiles (fun _ t => t.updCtl (fun y => { y with landing := y.landing.filter (fun h => h.ctx != i) })) }

/-- The descriptors, waits, chains, channels, ring work and windows of a context end (15 R358 step 4). -/
def State.dropWork (s : State) (i : CtxId) : State :=
  let s := s.dropWaits i (fun s _ => s)
  let s := (s.each (s.descsOf i) (fun s key => s.freeDesc i key)).dropFills i
  let s := s.each (s.ring.jobs.filter (fun j => j.owner == i)) (fun s j => s.dropJob j St.superseded)
  let s := { s with
    clusters := tmap s.clusters (fun _ x => { x with chains := x.chains.filter (fun h => h.owner != i) }) }
  let s := { s with
    hosts := { s.hosts with windows := tmap s.hosts.windows (fun _ w =>
      if w.part == i.part && w.ctx == i.ctx then { w with valid := false } else w) } }
  s.closeContext i

/-- Let the commands of other contexts that wait at batteries go on. -/
def State.pumpAll (s : State) : State :=
  s.each (s.bats.map (·.1)) (fun s key =>
    if (s.bat (key / 64) (key % 64)).waiting.isEmpty && (s.batX (key / 64) (key % 64)).plan != 3 then s
    else s.pumpBat (key / 64) (key % 64))

/-- The position of the section that a chain's command is at (06 R159); 0 for another command. -/
def State.chainPos (s : State) (r : CmdRef) : Nat := ((s.chainBy (bf r.bits 64 4) r).map (·.pos)).getD 0

/-- Every command of a context in progress completes with a status (15 R358 step 3), a chain with a position it is given (06 R159). -/
def State.completeAll (s : State) (p k status : Nat) (pos : CmdRef → Nat) : State :=
  s.each ((List.range 4).flatMap (fun x => ((s.ctx p k).queue x).inProg)) (fun s r => s.complete r status (pos r))

/-- A queue after a context reset: HEAD at the TAIL published at step 1, nothing in progress (15 R358 step 5). -/
def CmdQueue.afterReset (q : CmdQueue) : CmdQueue :=
  { q with head := q.rtail, next := q.rtail, done := [], fetched := none, record := none, inProg := [], waitOn := none, stalled := none }

/-- The work of a context ends, without the change of its state. -/
def State.endWork (s : State) (i : CtxId) : State :=
  (s.each (s.bats.map (·.1)) (fun s key => s.resetBat i key)).dropWork i

/-- A context reset from its second step on (15 R358). -/
def State.finishReset (s : State) (p k : Nat) : State :=
  let i := s.ident p k
  let s := (s.endWork i).completeAll p k St.superseded s.chainPos
  let s := s.updCtx p k (fun c => { c with
    st := 1, gen := wrapAdd 8 c.gen 1, qstop := 0, go := false, result := St.completed
    queues := tmap c.queues (fun _ q => q.afterReset), xlat := { c.xlat with faulted := false } })
  s.pumpAll.answer (waitCtx p k) St.completed

/-- Does a section of a context stand in COMMIT (04 R117)? -/
def State.committing (s : State) (i : CtxId) : Bool := s.bats.any (fun e => e.2.st == .commit && e.2.owner == some i)

/-- A context reset that waited for COMMIT goes on (04 R117). -/
def State.resetIfDue (s : State) (p k : Nat) : State :=
  if (s.ctx p k).st = 8 && !s.committing (s.ident p k) then s.finishReset p k else s

/-- A context reset is ordered (11 R255, R279, 15 R358 step 1): RESETTING, and at once done unless a section is in COMMIT. -/
def State.resetContext (s : State) (p k : Nat) : State × Nat :=
  if (s.ctx p k).st = 0 then (s, St.contextState)
  else match s.arbitrate 5 (.ctx p k) with
  | .superseded => (s, St.superseded)
  | .join => (s, 0)
  | .proceed =>
    let s := s.takeOver 5 (.ctx p k)
    let s := s.updCtx p k (fun c => { c with
      st := 8, queues := tmap c.queues (fun _ q => { q with rtail := q.tail, fetched := none, waitOn := none }) })
    (s.resetIfDue p k, 0)

end Sys2Proof.Machine
end

