-- ==== Sys2Proof/Machine/Tile.lean ====
section
/-! DEFINITION. The scalar core of a tile: issue, ALU, branches, multiply, divide, narrow accesses, net ports, cluster-memory
accesses, landing registers, WAITC (02 R44-R50, 04 R102, R107, 05 R124). -/
namespace Sys2Proof.Machine

/-- May thread th issue an instruction now (02 R44, R45)? Its battery is in RUN, the cycle is the thread's slot, the thread
runs section code, waits on nothing and has not issued in this cycle. -/
def State.canIssue (s : State) (ta th : Nat) : Option (Nat × Nat) :=
  match s.batOf ta with
  | none => none
  | some (b, _) =>
    let x := s.bat (taC ta) b
    let t := (s.tile ta).thread th
    if x.st == .run && !x.endPending && th < 3 && x.cycle % 4 == th && t.running && t.waitc.isNone &&
      t.lastIssue != some x.cycle then some (b, x.cycle)
    else none

/-- The value of a register as an instruction of the thread reads it (02 R44, R47): s0 reads 0; a result that is not ready
yet reads as a free value (log entry 4). -/
def State.regVal (s : State) (ta th r cycle slot : Nat) : Word :=
  let t := (s.tile ta).thread th
  if r = 0 then 0
  else if cycle < tget t.notReady r 0 then Config.free 32 (s.freeCtr + slot)
  else tget t.regs r 0

/-- Write a register, ready at a given cycle (02 R47); s0 ignores writes. -/
def Thread.setReg (t : Thread) (r : Nat) (v : Word) (ready : Nat) : Thread :=
  if r = 0 then t else { t with regs := tset t.regs r v, notReady := tset t.notReady r ready }

/-- The thread has issued in this cycle: its slot is used and its pc goes on. -/
def Thread.issued (t : Thread) (cycle : Nat) : Thread := { t with lastIssue := some cycle, pc := t.pc + 1 }

/-- Update one thread of one tile. -/
def State.updThread (s : State) (ta th : Nat) (f : Thread → Thread) : State := s.updTile ta (fun t => t.updThread th f)

/-- The cycle in which thread 3 issues next (02 R44, R45), by the tile's free-running count: in RUN the present cycle if it is the
thread's slot and still free; outside RUN the next slot of the rotation. -/
def State.slot3 (s : State) (ta : Nat) : Option Nat :=
  let t := s.tile ta
  let n := t.ctl.cycle
  if t.ctl.running then
    match s.batOf ta with
    | some (b, _) => if (s.bat (taC ta) b).cycle % 4 = 3 && (t.thread 3).lastIssue != some n then some n else none
    | none => none
  else some (n + (3 - n % 4))

/-- The cycle in which a thread issues an instruction that needs no section (02 R44, R45). -/
def State.slotOf (s : State) (ta th : Nat) : Option Nat := if th = 3 then s.slot3 ta else (s.canIssue ta th).map (·.2)

/-- The free-running count goes past a slot that thread 3 used outside RUN (02 R44, log entry 49). -/
def Tile.pastSlot (t : Tile) (th cycle : Nat) : Tile :=
  if th = 3 && !t.ctl.running then t.updCtl (fun x => { x with cycle := cycle + 1 }) else t

/-- Issue an instruction that writes one register, ready in the thread's next slot (02 R47). -/
def State.issueReg (s : State) (ta th cycle rd : Nat) (v : Word) : State :=
  (s.updTile ta (fun x => (x.updThread th (fun t => (t.setReg rd v (cycle + 4)).issued cycle)).pastSlot th cycle)).drew 2

/-- Issue an instruction without a register result. -/
def State.issueOnly (s : State) (ta th cycle : Nat) : State :=
  (s.updTile ta (fun x => (x.updThread th (fun t => t.issued cycle)).pastSlot th cycle)).drew 2

/-! Integer instructions. -/

/-- The ALU (02 R47); a shift by 32 or more has no stated result (log entry 4). -/
def alu (op : AluOp) (a b free : Word) : Word :=
  match op with
  | .add => a + b
  | .sub => a - b
  | .and => a &&& b
  | .or => a ||| b
  | .xor => a ^^^ b
  | .sll => if b.toNat < 32 then a <<< b.toNat else free
  | .srl => if b.toNat < 32 then a >>> b.toNat else free
  | .sra => if b.toNat < 32 then a.sshiftRight b.toNat else free
  | .slt => if a.slt b then 1 else 0
  | .sltu => if a.ult b then 1 else 0
  | .mov => b

/-- The second source of an instruction. -/
def State.srcVal (s : State) (ta th cycle : Nat) : Src → Word
  | .reg r => s.regVal ta th r.val cycle 1
  | .imm v => v

def stepIntegerAlu (t : TileId) (th : Fin 4) (op : AluOp) (rd rs : Fin 32) (src : Src) (s : State) : State :=
  let ta := tileKey t
  match s.slotOf ta th.val with
  | none => s
  | some cy =>
    let v := alu op (s.regVal ta th.val rs.val cy 0) (s.srcVal ta th.val cy src) (Config.free 32 (s.freeCtr + 2))
    (s.issueReg ta th.val cy rd.val v).drew 1

/-- INTEGER_ALU (02 R47). -/
def execIntegerAlu (t : TileId) (th : Fin 4) (op : AluOp) (rd rs : Fin 32) (src : Src) (s : State) :
    Host.Outcome State Fault Refusal := .next (stepIntegerAlu t th op rd rs src s)

/-- Is the branch taken (02 R47)? The counter loop tests the register after its decrement (log entry 10). -/
def branchTaken (op : BrOp) (a b : Word) (accept : Bool) : Bool :=
  match op with
  | .always => true
  | .eq => a == b
  | .ne => a != b
  | .lt => a.slt b
  | .ge => !a.slt b
  | .ltu => a.ult b
  | .geu => !a.ult b
  | .loop => a - 1 != 0
  | .accept => accept

def stepBranch (t : TileId) (th : Fin 4) (op : BrOp) (rs1 rs2 : Fin 32) (target : Nat) (s : State) : State :=
  let ta := tileKey t
  match s.slotOf ta th.val with
  | none => s
  | some cy =>
    let a := s.regVal ta th.val rs1.val cy 0
    let b := s.regVal ta th.val rs2.val cy 1
    let taken := branchTaken op a b ((s.tile ta).thread th.val).accept
    (s.updTile ta (fun y => (y.updThread th.val (fun x =>
      let x := if op == .loop then x.setReg rs1.val (a - 1) (cy + 4) else x
      { x with lastIssue := some cy, pc := if taken then target else x.pc + 1 })).pastSlot th.val cy)).drew 2

/-- BRANCH (02 R47): the same time taken or not. -/
def execBranch (t : TileId) (th : Fin 4) (op : BrOp) (rs1 rs2 : Fin 32) (target : Nat) (s : State) :
    Host.Outcome State Fault Refusal := .next (stepBranch t th op rs1 rs2 target s)

/-- A half of the 64-bit product (02 R47). -/
def mulVal (op : MulOp) (a b : Word) : Word :=
  match op with
  | .low => a * b
  | .highS => BitVec.ofInt 32 (a.toInt * b.toInt / (2 ^ 32 : Nat))
  | .highU => BitVec.ofNat 32 (a.toNat * b.toNat / 2 ^ 32)

def stepMultiply (t : TileId) (th : Fin 4) (op : MulOp) (rd rs1 rs2 : Fin 32) (s : State) : State :=
  let ta := tileKey t
  match s.slotOf ta th.val with
  | none => s
  | some cy =>
    s.issueReg ta th.val cy rd.val (mulVal op (s.regVal ta th.val rs1.val cy 0) (s.regVal ta th.val rs2.val cy 1))

/-- MULTIPLY (02 R47). -/
def execMultiply (t : TileId) (th : Fin 4) (op : MulOp) (rd rs1 rs2 : Fin 32) (s : State) :
    Host.Outcome State Fault Refusal := .next (stepMultiply t th op rd rs1 rs2 s)

/-- Divide and remainder (02 R47): a divisor of 0 gives a quotient of all ones and the dividend as remainder. The signed
quotient of the most negative number by -1 has no stated value (log entry 4). DESIGN CHOICE: a signed quotient is rounded toward zero and
the remainder has the sign of the dividend; the rule gives no rounding (log entry 110). -/
def divVal (op : DivOp) (a b free : Word) : Word :=
  match op with
  | .divU => if b = 0 then 0xFFFFFFFF else a / b
  | .remU => if b = 0 then a else a % b
  | .divS => if b = 0 then 0xFFFFFFFF else if a = 0x80000000 && b = 0xFFFFFFFF then free else a.sdiv b
  | .remS => if b = 0 then a else if a = 0x80000000 && b = 0xFFFFFFFF then free else a.srem b

def stepDivide (t : TileId) (th : Fin 4) (op : DivOp) (rd rs1 rs2 : Fin 32) (s : State) : State :=
  let ta := tileKey t
  match s.slotOf ta th.val with
  | none => s
  | some cy =>
    let v := divVal op (s.regVal ta th.val rs1.val cy 0) (s.regVal ta th.val rs2.val cy 1) (Config.free 32 (s.freeCtr + 2))
    (s.updTile ta (fun y => (y.updThread th.val (fun x => (x.setReg rd.val v (cy + 36)).issued cy)).pastSlot th.val cy)).drew 3

/-- DIVIDE (02 R47): ready after 9 slots. -/
def execDivide (t : TileId) (th : Fin 4) (op : DivOp) (rd rs1 rs2 : Fin 32) (s : State) :
    Host.Outcome State Fault Refusal := .next (stepDivide t th op rd rs1 rs2 s)

/-! Narrow accesses. -/

/-- Bank, row and byte of a narrow address (02 R59). -/
def narrowBank (a : Nat) : Nat := field a 15 4

/-- The conditions of 02 R50 a narrow access meets, as statuses. -/
def narrowFaults (x : TileCtl) (a bytes : Nat) (write : Bool) : List Nat :=
  let inRange := decide (a < 0x60000)
  (if inRange && x.wide.toNat.testBit (narrowBank a) then [St.bankConflict] else []) ++
  (if inRange && write && x.resValid.toNat.testBit (narrowBank a) && !x.resOut.toNat.testBit (narrowBank a) then
    [St.residentWrite] else []) ++
  (if inRange then [] else [St.scratchRange]) ++
  (if a % bytes = 0 then [] else [St.misaligned])

/-- A narrow access is of 1, 2 or 4 bytes; another size is an unassigned opcode (02 R47, R50). -/
def narrowSize : Size → Option Nat
  | .b1 => some 1
  | .b2 => some 2
  | .b4 => some 4
  | .b8 => none

/-- Detail of a fault at a narrow address. -/
def narrowDetail (th a : Nat) : Nat := tileDetail th (narrowBank a) a 0

/-- The cycle of a narrow access of thread 3: never in RUN (02 R60, R61). -/
def State.slotPad3 (s : State) (ta : Nat) : Option Nat := if (s.tile ta).ctl.running then none else s.slot3 ta

/-- An uncorrectable word of a scratchpad bank (07 R178): the bank's valid bit is 0, and a confirmed error is entered against the tile. -/
def State.scratchLost (s : State) (ta bank : Nat) : State :=
  (s.updTile ta (fun t => t.updCtl (fun x => { x with resValid := x.resValid &&& ~~~ (1#12 <<< bank) }))).confirm 1 ta 2 0x73

/-- A narrow load of thread 3 outside RUN, when no bank assignment is in force (02 R60); a fault abandons the access, and the trap is
THREAD_3_FAULT (02 R50, 18 R415). An uncorrectable word clears the bank's valid bit and is entered against the tile (07 R178). -/
def State.narrowLoad3 (s : State) (ta cy rd n : Nat) (signed : Bool) (a : Nat) (ecc : Ecc) : State :=
  if !(a < 0x60000 && a % n = 0) then s.issueOnly ta 3 cy
  else if ecc == .uncorrectable then
    (s.issueOnly ta 3 cy).scratchLost ta (narrowBank a)
  else s.issueReg ta 3 cy rd (extend n signed (mread (s.tile ta).core.pad a n))

/-- A narrow store of thread 3 outside RUN (02 R60). -/
def State.narrowStore3 (s : State) (ta cy n a : Nat) (v : Word) : State :=
  if a < 0x60000 && a % n = 0 then
    (s.updTile ta (fun t => t.updCore (fun x => { x with pad := mwrite x.pad a n v.toNat }))).issueOnly ta 3 cy
  else s.issueOnly ta 3 cy

def stepNarrowLoad (t : TileId) (th : Fin 4) (size : Size) (signed : Bool) (rd rs : Fin 32) (off : Word) (ecc : Ecc)
    (s : State) : State :=
  let ta := tileKey t
  match s.slotPad3 ta, narrowSize size, decide (th.val = 3) with
  | some cy, some n, true => s.narrowLoad3 ta cy rd.val n signed (s.regVal ta 3 rs.val cy 0 + off).toNat ecc
  | _, _, _ =>
  match s.canIssue ta th.val with
  | none => s
  | some (b, cy) =>
    match narrowSize size with
    | none => (s.issueOnly ta th.val cy).faultOn ta b [St.illegalInstruction] (tileDetail th.val 0 0 0) 0
    | some n =>
      let a := (s.regVal ta th.val rs.val cy 0 + off).toNat
      let bad := narrowFaults (s.tile ta).ctl a n false ++ (if ecc == .uncorrectable && a < 0x60000 then [0x73] else [])
      if bad.isEmpty then s.issueReg ta th.val cy rd.val (extend n signed (mread (s.tile ta).core.pad a n))
      else
        let s := (s.issueOnly ta th.val cy).faultOn ta b bad (narrowDetail th.val a) 0
        if bad.contains 0x73 then s.scratchLost ta (narrowBank a) else s

/-- NARROW_LOAD (02 R47, R50; 07 R178): range, view and alignment are checked; an uncorrectable word aborts with SCRATCH_ECC. -/
def execNarrowLoad (t : TileId) (th : Fin 4) (size : Size) (signed : Bool) (rd rs : Fin 32) (off : Word) (ecc : Ecc)
    (s : State) : Host.Outcome State Fault Refusal := .next (stepNarrowLoad t th size signed rd rs off ecc s)

def stepNarrowStore (t : TileId) (th : Fin 4) (size : Size) (rs rb : Fin 32) (off : Word) (s : State) : State :=
  let ta := tileKey t
  match s.slotPad3 ta, narrowSize size, decide (th.val = 3) with
  | some cy, some n, true => s.narrowStore3 ta cy n (s.regVal ta 3 rb.val cy 0 + off).toNat (s.regVal ta 3 rs.val cy 1)
  | _, _, _ =>
  match s.canIssue ta th.val with
  | none => s
  | some (b, cy) =>
    match narrowSize size with
    | none => (s.issueOnly ta th.val cy).faultOn ta b [St.illegalInstruction] (tileDetail th.val 0 0 0) 0
    | some n =>
      let a := (s.regVal ta th.val rb.val cy 0 + off).toNat
      let bad := narrowFaults (s.tile ta).ctl a n true
      if bad.isEmpty then
        (s.updTile ta (fun t => t.updCore (fun x =>
          { x with pad := mwrite x.pad a n (s.regVal ta th.val rs.val cy 1).toNat }))).issueOnly ta th.val cy
      else (s.issueOnly ta th.val cy).faultOn ta b bad (narrowDetail th.val a) 0

/-- NARROW_STORE (02 R47, R50, R63). -/
def execNarrowStore (t : TileId) (th : Fin 4) (size : Size) (rs rb : Fin 32) (off : Word) (s : State) :
    Host.Outcome State Fault Refusal := .next (stepNarrowStore t th size rs rb off s)

/-! Static net ports. -/

/-- The index of a direction: N, E, S, W. -/
def dirIx : Dir → Nat
  | .n => 0
  | .e => 1
  | .s => 2
  | .w => 3

def stepStaticNetPort (t : TileId) (th : Fin 4) (acc : PortAccess) (s : State) : State :=
  let ta := tileKey t
  match s.canIssue ta th.val with
  | none => s
  | some (b, cy) =>
    let net := (s.tile ta).net
    match acc with
    | .readScalar d rd =>
      match net.inS.find? (fun e => e.1 == dirIx d) with
      | some (_, v) => s.issueReg ta th.val cy rd.val v
      | none => (s.issueOnly ta th.val cy).faultOn ta b [St.scheduleViolation] (tileDetail th.val 0 0 0) 0
    | .writeScalar d rs =>
      (s.updTile ta (fun t => t.updNet (fun x =>
        { x with wrS := tset x.wrS (dirIx d) (s.regVal ta th.val rs.val cy 0) }))).issueOnly ta th.val cy
    | .readControl d rd =>
      s.issueReg ta th.val cy rd.val (BitVec.ofNat 32 (tget net.inC (dirIx d) 0).toNat)
    | .writeControl d rs =>
      let v := s.regVal ta th.val rs.val cy 0
      if 0xF0 ≤ v.toNat % 256 then
        (s.issueOnly ta th.val cy).faultOn ta b [St.scheduleViolation] (tileDetail th.val 0 0 0) 0
      else
        (s.updTile ta (fun t => t.updNet (fun x =>
          { x with wrC := tset x.wrC (dirIx d) (BitVec.ofNat 8 v.toNat) }))).issueOnly ta th.val cy

/-- STATIC_NET_PORT (02 R47, 04 R99, R102): an invalid scheduled read, or a write of a reserved token, raises
SCHEDULE_VIOLATION. -/
def execStaticNetPort (t : TileId) (th : Fin 4) (acc : PortAccess) (s : State) : Host.Outcome State Fault Refusal :=
  .next (stepStaticNetPort t th acc s)

/-! Cluster memory. -/

/-- The device address of an access inside one mapped piece of a region of the section (04 R107). -/
def regionDpa (regs : List Region) (va n : Nat) (write : Bool) : Option Nat :=
  (regs.find? (fun r => decide (r.va ≤ va) && decide (va + n ≤ r.va + r.len) && (!write || r.out))).map (fun r => va - r.va + r.dpa)

/-- The conditions a cluster-memory access meets (02 R50, 04 R107). -/
def memFaults (regs : List Region) (va n : Nat) (write : Bool) : List Nat :=
  (if va % n = 0 then [] else [St.misaligned]) ++
  (if (regionDpa regs va n write).isSome then [] else [St.regionRange])

/-- Add an entry to a tile's crossbar-port queue. -/
def State.pushPort (s : State) (ta b va dpa n : Nat) (kind : PortKind) (i : CtxId) : State :=
  s.updTile ta (fun t => t.updCtl (fun x =>
    { x with portQ := x.portQ ++ [{ kind, ctx := i, bat := b, va, dpa, bytes := n, done := none }] }))

def stepClusterMemoryLoad (t : TileId) (th : Fin 4) (landing : Fin 8) (size : Size) (va : Nat) (s : State) : State :=
  let ta := tileKey t
  match s.canIssue ta th.val with
  | none => s
  | some (b, cy) =>
    let x := s.bat (taC ta) b
    match narrowSize size with
    | none => (s.issueOnly ta th.val cy).faultOn ta b [St.illegalInstruction] (tileDetail th.val 0 0 0) 0
    | some n =>
      let bad := memFaults x.regions va n false
      if bad.isEmpty then
        let s := s.pushPort ta b va ((regionDpa x.regions va n false).getD 0) n (.load th.val landing.val)
          (x.owner.getD { part := 0, ctx := 0, gen := 0 })
        (s.updThread ta th.val (fun y =>
          { y with landing := tset y.landing landing.val { waiting := true, val := none } })).issueOnly ta th.val cy
      else (s.issueOnly ta th.val cy).faultOn ta b bad (tileDetail th.val 0 0 0) va

/-- CLUSTER_MEMORY_LOAD (02 R48, 04 R107): split-phase; the landing register waits. -/
def execClusterMemoryLoad (t : TileId) (th : Fin 4) (landing : Fin 8) (size : Size) (va : Nat) (s : State) :
    Host.Outcome State Fault Refusal := .next (stepClusterMemoryLoad t th landing size va s)

def stepLandingRegisterFill (t : TileId) (th : Fin 4) (landing : Fin 8) (s : State) : State :=
  let ta := tileKey t
  let q := (s.tile ta).ctl.portQ
  let isIt := fun (o : PortOp) => o.kind == .load th.val landing.val && o.done.isSome
  match q.find? isIt with
  | none => s
  | some o =>
    s.updTile ta (fun t =>
      (t.updCtl (fun x => { x with portQ := x.portQ.erase o })).updThread th.val (fun y =>
        { y with landing := tset y.landing landing.val { waiting := false, val := some (BitVec.ofNat 32 (o.done.getD 0)) } }))

/-- LANDING_REGISTER_FILL (02 R48): data read at the slice arrives in its landing register. -/
def execLandingRegisterFill (t : TileId) (th : Fin 4) (landing : Fin 8) (s : State) : Host.Outcome State Fault Refusal :=
  .next (stepLandingRegisterFill t th landing s)

def stepUseInstruction (t : TileId) (th : Fin 4) (landing : Fin 8) (rd : Fin 32) (s : State) : State :=
  let ta := tileKey t
  match s.canIssue ta th.val with
  | none => s
  | some (b, cy) =>
    match (tget ((s.tile ta).thread th.val).landing landing.val Landing.reset).val with
    | some v =>
      (s.updThread ta th.val (fun y => { y with landing := tset y.landing landing.val Landing.reset })).issueReg
        ta th.val cy rd.val v
    | none => (s.issueOnly ta th.val cy).faultOn ta b [St.lateData] (tileDetail th.val 0 0 0) 0

/-- USE_INSTRUCTION (02 R48, 04 R109): an empty landing register aborts with LATE_DATA. -/
def execUseInstruction (t : TileId) (th : Fin 4) (landing : Fin 8) (rd : Fin 32) (s : State) :
    Host.Outcome State Fault Refusal := .next (stepUseInstruction t th landing rd s)

def stepClusterMemoryStore (t : TileId) (th : Fin 4) (size : Size) (va : Nat) (rs : Fin 32) (s : State) : State :=
  let ta := tileKey t
  match s.canIssue ta th.val with
  | none => s
  | some (b, cy) =>
    let x := s.bat (taC ta) b
    match narrowSize size with
    | none => (s.issueOnly ta th.val cy).faultOn ta b [St.illegalInstruction] (tileDetail th.val 0 0 0) 0
    | some n =>
      let bad := memFaults x.regions va n true
      if bad.isEmpty then
        (s.pushPort ta b va ((regionDpa x.regions va n true).getD 0) n
          (.store th.val (s.regVal ta th.val rs.val cy 0).toNat)
          (x.owner.getD { part := 0, ctx := 0, gen := 0 })).issueOnly ta th.val cy
      else (s.issueOnly ta th.val cy).faultOn ta b bad (tileDetail th.val 0 0 0) va

/-- CLUSTER_MEMORY_STORE (02 R48, 04 R107): posted; a write to an input region is out of range. -/
def execClusterMemoryStore (t : TileId) (th : Fin 4) (size : Size) (va : Nat) (rs : Fin 32) (s : State) :
    Host.Outcome State Fault Refusal := .next (stepClusterMemoryStore t th size va rs s)

def stepFenceSc (t : TileId) (th : Fin 4) (s : State) : State :=
  let ta := tileKey t
  match s.canIssue ta th.val with
  | none => s
  | some (b, cy) =>
    (s.pushPort ta b 0 0 0 .fence ((s.bat (taC ta) b).owner.getD { part := 0, ctx := 0, gen := 0 })).issueOnly ta th.val cy

/-- FENCE_SC (02 R48): an ordering marker in the crossbar-port queue. -/
def execFenceSc (t : TileId) (th : Fin 4) (s : State) : Host.Outcome State Fault Refusal := .next (stepFenceSc t th s)

/-! WAITC. -/

def stepWaitc (t : TileId) (th : Fin 4) (sN : Fin 32) (s : State) : State :=
  let ta := tileKey t
  match s.canIssue ta th.val with
  | none => s
  | some (b, cy) =>
    let n := (s.regVal ta th.val sN.val cy 0).toNat
    if n < cy || n % 4 != th.val then
      (s.issueOnly ta th.val cy).faultOn ta b [St.scheduleViolation] (tileDetail th.val 0 0 0) 0
    else if n = cy then s.issueOnly ta th.val cy
    else (s.updThread ta th.val (fun y => { y with waitc := some n, lastIssue := some cy })).drew 2

/-- WAITC (05 R124): the thread skips its slots until the named cycle; a late or misaligned target is a violation. -/
def execWaitc (t : TileId) (th : Fin 4) (sN : Fin 32) (s : State) : Host.Outcome State Fault Refusal :=
  .next (stepWaitc t th sN s)

def stepWaitcComplete (t : TileId) (th : Fin 4) (s : State) : State :=
  let ta := tileKey t
  match s.batOf ta with
  | none => s
  | some (b, _) =>
    let x := s.bat (taC ta) b
    if x.st == .run && ((s.tile ta).thread th.val).waitc == some x.cycle then
      s.updThread ta th.val (fun y => { y with waitc := none, lastIssue := some x.cycle, pc := y.pc + 1 })
    else s

/-- WAITC_COMPLETE (05 R124): WAITC completes in the slot of the named cycle. -/
def execWaitcComplete (t : TileId) (th : Fin 4) (s : State) : Host.Outcome State Fault Refusal :=
  .next (stepWaitcComplete t th s)

end Sys2Proof.Machine
end

