-- ==== Sys2Proof/Machine/Vector.lean ====
section
/-! DEFINITION. The vector unit: issue queue, lane operations, special functions (02 R51-R55). -/
namespace Sys2Proof.Machine

/-- Lane i of a row. -/
def lane (r : Row) (i : Nat) : Word := r.extractLsb' (32 * i) 32

/-- A row from its 64 lanes. -/
def rowOf (f : Nat → Word) : Row := BitVec.ofNat 2048 (packWords ((List.range 64).map f))

/-- A special operation (02 R54). -/
def isSpecial (op : VOp) : Bool := op == .exp2 || op == .recip || op == .rsqrt || op == .log2

/-- The word of an order key (fpKey). -/
def fpOfKey (k : Int) : Word := if k < 0 then BitVec.ofNat 32 (2 ^ 31 + k.natAbs) else BitVec.ofNat 32 k.natAbs

/-- Compare my * 2^ey with the exact value of a special function at m * 2^e, m > 0 (02 R54); the argument of exp2 has a sign. Powers by
2^k make both sides integers. -/
def specCmp (op : VOp) (neg : Bool) (m : Nat) (e : Int) (yneg : Bool) (my : Nat) (ey : Int) : Ordering :=
  let scaled := fun (a : Nat) (p : Int) (b : Nat) => if 0 ≤ p then compare (a * 2 ^ p.toNat) b else compare a (b * 2 ^ (-p).toNat)
  match op with
  | .exp2 =>
    if yneg || my = 0 then .lt
    else
      let k := (-e).toNat
      let x : Int := (m * 2 ^ (e + k).toNat : Nat)
      scaled (my ^ 2 ^ k) (ey * (2 ^ k : Nat) - (if neg then -x else x)) 1
  | .recip => scaled (my * m) (ey + e) 1
  | .rsqrt => scaled (my * my * m) (2 * ey + e) 1
  | _ =>
    let k := (-ey).toNat
    let y : Int := (my * 2 ^ (ey + k).toNat : Nat)
    (scaled (m ^ 2 ^ k) (e * (2 ^ k : Nat) - (if yneg then -y else y)) 1).swap

/-- Compare an FP32 value, given by its order key, with the exact value of a special function. -/
def specAt (op : VOp) (x : Word) (k : Int) : Ordering :=
  match fpDecode x, fpDecode (fpOfKey k) with
  | .fin n m e, .fin yn my ey => specCmp op n m e yn my ey
  | _, .inf yn => if yn then .lt else .gt
  | _, _ => .gt

/-- The highest key at or below the exact value: a search by halves over the keys of the finite values. -/
def specFloor (op : VOp) (x : Word) : Int :=
  (List.range 32).foldl (fun (k : Int) i =>
    let k' := k + (2 ^ (31 - i) : Nat)
    if k' ≤ 0x7F7FFFFF && specAt op x k' != .gt then k' else k) (-0x7F800000)

/-- The largest error in steps between neighbouring FP32 values (02 R54; log entry 97). -/
def specErr (op : VOp) : Nat := if op == .exp2 || op == .log2 then 2 else 1

/-- The keys that the error bound admits. -/
def specAdmits (op : VOp) (x : Word) : List Int :=
  let k := specFloor op x
  let n := specErr op
  (List.range (2 * n)).map (fun i => k - (n : Int) + 1 + (i : Int)) ++ (if specAt op x k == .eq then [k - (n : Int)] else [])

/-- The number of a special operation. -/
def specNo (op : VOp) : Nat := match op with
  | .exp2 => 0
  | .recip => 1
  | .rsqrt => 2
  | _ => 3

/-- A special function between its corner cases (02 R54): one of the admitted values, as Config.special picks. -/
def specPick (op : VOp) (x : Word) : Word :=
  let l := specAdmits op x
  fpOfKey (l.getD (Config.special (specNo op) x % l.length) 0)

/-- A special function of one lane (02 R54): the tabled inputs; elsewhere a fixed function whose bits are not given, within the error
bound, its subnormal results flushed. -/
def special (op : VOp) (x : Word) : Word :=
  let x := fpFlush x
  let neg := x.toNat.testBit 31
  match fpDecode x with
  | .nan => canonNan
  | .inf n =>
    match op with
    | .exp2 => if n then 0 else fpInf false
    | .recip => fpZero n
    | .rsqrt => if n then canonNan else 0
    | _ => if n then canonNan else fpInf false
  | .fin _ m _ =>
    if m = 0 then
      match op with
      | .exp2 => 0x3F800000
      | .recip => fpInf neg
      | .rsqrt => fpInf neg
      | _ => fpInf true
    else
      match op with
      | .exp2 => if fpKey x ≥ 0x43000000 then fpInf false else if fpKey x < -0x42FC0000 then 0 else fpFlush (specPick .exp2 x)
      | .recip => fpFlush (specPick .recip (x &&& 0x7FFFFFFF) ||| (x &&& 0x80000000))
      | .rsqrt => if neg then canonNan else fpFlush (specPick .rsqrt x)
      | _ => if neg then canonNan else fpFlush (specPick .log2 x)

/-- One lane of an operation (02 R53, R55); `free` stands for a shift by 32 or more (log entry 4). -/
def laneOp (op : VOp) (a b c free : Word) : Word :=
  match op with
  | .fadd => fpAdd a b
  | .fsub => fpSub a b
  | .fmul => fpMul a b
  | .ffma => fpFma a b c
  | .iadd => a + b
  | .isub => a - b
  | .imul => a * b
  | .shl => if b.toNat < 32 then a <<< b.toNat else free
  | .shr => if b.toNat < 32 then a >>> b.toNat else free
  | .sar => if b.toNat < 32 then a.sshiftRight b.toNat else free
  | .vand => a &&& b
  | .vor => a ||| b
  | .vxor => a ^^^ b
  | .cmpEq => if a == b then 1 else 0
  | .cmpLt => if a.slt b then 1 else 0
  | .cmpLtu => if a.ult b then 1 else 0
  | .vmin => if a.slt b then a else b
  | .vmax => if a.slt b then b else a
  | .vminu => if a.ult b then a else b
  | .vmaxu => if a.ult b then b else a
  | .i2f => i32ToFp a
  | .f2i => fpToI32 a
  | .mov => a
  | .exp2 => special .exp2 a
  | .recip => special .recip a
  | .rsqrt => special .rsqrt a
  | .log2 => special .log2 a
  | .vrand => a

/-- The linear row of bank and row, stepped (02 R52). A row stepped past row 127 goes on in the next bank, and past the last row at row
0: DESIGN CHOICE, log entry 98. -/
def stepRow (bank row k stride : Nat) : Nat := (bank * 128 + row + k * stride) % 1536

/-- A 256 B row of the scratchpad (02 R59). -/
def readRow (pad : Mem) (r : Nat) : Row := BitVec.ofNat 2048 (mread pad (256 * r) 256)

/-- Write a 256 B row of the scratchpad. -/
def writeRow (pad : Mem) (r : Nat) (v : Row) : Mem := mwrite pad (256 * r) 256 v.toNat

/-- The conditions a wide access meets (02 R60, R63). -/
def wideFaults (x : TileCtl) (bank : Nat) (write : Bool) : List Nat :=
  (if x.wide.toNat.testBit bank then [] else [St.bankConflict]) ++
  (if write && x.resValid.toNat.testBit bank && !x.resOut.toNat.testBit bank then [St.residentWrite] else [])

/-- What governs a repeat besides the unit: the entry in force, the net words of the cycle, the row fed to the west input. -/
structure VecIn where
  rd : Bool
  wr : Bool
  west : Row
  north : Row

/-- The row an operand names on repeat k, if it is a wide one. -/
def srcAddr (k rowStride : Nat) : VSrc → Option Nat
  | .wide bank row => some (stepRow bank.val row.val k rowStride)
  | _ => none

/-- The row the destination names on repeat k, if it is a wide one. -/
def dstAddr (k rowStride : Nat) : VDst → Option Nat
  | .wide bank row => some (stepRow bank.val row.val k rowStride)
  | _ => none

/-- The wide rows that the operands of an instruction read on repeat k. -/
def vecReads (vi : VInstr) (k : Nat) : List Nat := ([vi.a, vi.b, vi.c].filterMap (srcAddr k vi.rowStride)).eraseDups

/-- The conditions of repeat k, each with its bank (02 R50, R60, R63); only an owner of a wide port accesses a bank (R51). -/
def vecFaults (x : TileCtl) (i : VecIn) (vi : VInstr) (k : Nat) : List (Nat × Nat) :=
  (if i.rd then (vecReads vi k).flatMap (fun r => (wideFaults x (r / 128) false).map (fun f => (f, r / 128))) else []) ++
  (if i.wr then (dstAddr k vi.rowStride vi.dst).elim [] (fun r => (wideFaults x (r / 128) true).map (fun f => (f, r / 128))) else [])

/-- An operand's row in repeat k (02 R51, R52). A register index stepped past v15 goes on at v0; a row read through the wide port in a
cycle in which another unit owns it is a free value: DESIGN CHOICE, log entry 98. -/
def srcRow (t : TileCore) (i : VecIn) (k regStride rowStride : Nat) (free : Row) : VSrc → Row
  | .none => 0
  | .vreg v => tget t.vregs ((v.val + k * regStride) % 16) 0
  | .wide bank row => if i.rd then readRow t.pad (stepRow bank.val row.val k rowStride) else free
  | .netW => i.west
  | .netN => i.north

/-- Store the result of repeat k (02 R51, R52); to a wide port that another unit owns in the cycle nothing is written. A register index
stepped past v15 goes on at v0: DESIGN CHOICE, log entry 98. -/
def putRow (t : TileCore) (i : VecIn) (k regStride rowStride : Nat) (v : Row) : VDst → TileCore
  | .vreg d => { t with vregs := tset t.vregs ((d.val + k * regStride) % 16) v }
  | .wide bank row => if i.wr then { t with pad := writeRow t.pad (stepRow bank.val row.val k rowStride) v } else t
  | .netE => { t with vE := some v }
  | .netS => { t with vS := some v }

/-- One repeat of a vector instruction; `free` numbers the free values it may need. -/
def vecRepeat (vi : VInstr) (free : Nat) (i : VecIn) (t : TileCore) (k : Nat) : TileCore :=
  let src := fun n => srcRow t i k vi.regStride vi.rowStride (Config.free 2048 (free + n))
  let a := src 0 vi.a
  let b := src 1 vi.b
  let c := src 2 vi.c
  putRow t i k vi.regStride vi.rowStride
    (rowOf (fun l => laneOp vi.op (lane a l) (lane b l) (lane c l) (Config.free 32 (free + 3 + l)))) vi.dst

/-- Free values that one repeat may need: three rows and 64 lanes. -/
def vecFree : Nat := 67

/-- ACLK that one repeat occupies the unit (02 R52, R54; 12 R293). -/
def vecCycles (vi : VInstr) : Nat := if isSpecial vi.op || vi.op == .vrand then 4 else 1

/-- Can the instruction be one: a repeat count of 1-64, and at most one wide row to read in a cycle (02 R52, R59; log entry 98)? -/
def vecLegal (vi : VInstr) : Bool := decide (1 ≤ vi.rep) && decide (vi.rep ≤ 64) && decide ((vecReads vi 0).length ≤ 1)

def stepVectorIssue (t : TileId) (th : Fin 4) (vi : VInstr) (s : State) : State :=
  let ta := tileKey t
  match s.canIssue ta th.val with
  | none => s
  | some (b, cy) =>
    let x := (s.tile ta).core
    let vi := if vi.op == .vrand then { vi with a := .none, b := .none, c := .none, stream := s.regVal ta th.val (vi.stream.toNat % 32) cy 0 } else vi
    if !vecLegal vi then (s.issueOnly ta th.val cy).faultOn ta b [St.illegalInstruction] (tileDetail th.val 0 0 0) 0
    else if 4 ≤ x.vq.length then s
    else
      (s.updTile ta (fun t => t.updCore (fun y => { y with vq := y.vq ++ [{ instr := vi, thread := th.val }] }))).issueOnly
        ta th.val cy

/-- VECTOR_ISSUE (02 R47, R52): into the 4-entry queue, or the thread waits. -/
def execVectorIssue (t : TileId) (th : Fin 4) (vi : VInstr) (s : State) : Host.Outcome State Fault Refusal :=
  .next (stepVectorIssue t th vi s)

/-- The instruction of which a repeat is due in the present cycle (02 R52, R54): the head of the queue, once it has had its ACLK; none
during padding, which gates the unit (05 R122). -/
def Tile.vecDue (t : Tile) : Option VInstr :=
  match t.core.vq with
  | [] => none
  | h :: _ => if !t.core.vdone && !t.net.inPad && t.core.vcyc == vecCycles h.instr * (t.core.vrep + 1) then some h.instr else none

/-- The schedule entry in force on a tile: an idle one in padding and after the end of the schedule (04 R101, 05 R121). -/
def TileNet.inForce (x : TileNet) (ti : TileImg) : Dword := if x.ended || x.inPad then 0 else ti.entryAt x.entry

/-- What a repeat finds on a tile. The row of a west-edge feed is the word of the west input (04 R100). -/
def Tile.vecIn (t : Tile) (ti : TileImg) (feed : Nat) : VecIn :=
  let e := t.net.inForce ti
  { rd := swRdPort e == 1, wr := swWPort e == 1
    west := if swRdPort e == 4 then readRow t.core.pad feed else t.net.inW.getD 0
    north := t.net.inN.getD 0 }

/-- The vector unit after the repeat of a cycle, or a fault of it: the feed is known. -/
def TileCore.repeated (t : TileCore) (feed : Option Nat) : TileCore := { t with vdone := true, feed }

/-- Is the tile's section in RUN, before the end of its last cycle? -/
def State.inRun (s : State) (ta : Nat) : Option (Nat × TileImg) :=
  match s.imgOf ta with
  | some (b, _, _, ti) =>
    if (s.bat (taC ta) b).st == .run && !(s.bat (taC ta) b).endPending then some (b, ti) else none
  | none => none

/-- The repeat of the present cycle on a tile, if one is due of an operation of a class (02 R52): the conditions met, or its result. An
instruction starts in the cycle after its issue, or after the one before it ended; log entry 59. `feed` is the row of the west-edge feed, where the
operation reads the west input. -/
def State.runVector (s : State) (ta : Nat) (feed : Option Nat) (ecc : Ecc) (mine : VOp → Bool) (rep : VInstr → Nat → VecIn → TileCore → Nat → TileCore) : State :=
  let t := s.tile ta
  match s.inRun ta, t.vecDue with
  | some (b, ti), some vi =>
    if !mine vi.op then s
    else
      let i := t.vecIn ti (feed.getD 0)
      let known := if swRdPort (t.net.inForce ti) == 4 then feed else none
      let lost := if i.rd && ecc == .uncorrectable then (vecReads vi t.core.vrep).map (· / 128) else []
      match vecFaults t.ctl i vi t.core.vrep ++ lost.map (fun b => (0x73, b)) with
      | [] => (s.updTile ta (fun t => t.updCore (fun x => (rep vi s.freeCtr i x x.vrep).repeated known))).drew vecFree
      | l => ((s.each lost (fun s b => s.scratchLost ta b)).updTile ta (fun t => t.updCore (fun x => x.repeated known))).fault (taC ta) b
          (l.map (fun f => { status := f.1, ta, detail := tileDetail 3 f.2 0 0, va := 0 }))
  | _, _ => s

/-- VECTOR_INSTRUCTION (02 R51-R55): one repeat of the head of the queue, one an ACLK; bank and row are those of the west-edge feed of the
cycle, if the tile has one; log entry 59. -/
def execVectorInstruction (v : VecCycle) (s : State) : Host.Outcome State Fault Refusal :=
  .next (s.runVector (tileKey v.tile) (some (128 * v.bank.val + v.row.val)) v.ecc (fun op => !isSpecial op && op != .vrand) vecRepeat)

/-- SPECIAL_FUNCTION (02 R54): one repeat in 4 ACLK, 16 lanes per ACLK. -/
def execSpecialFunction (v : VecCycle) (s : State) : Host.Outcome State Fault Refusal :=
  .next (s.runVector (tileKey v.tile) (some (128 * v.bank.val + v.row.val)) v.ecc isSpecial vecRepeat)

/-! Random draws (12 R291-R293). -/

/-- Rotate left by n. -/
def rotl (x : Word) (n : Nat) : Word := x.rotateLeft n

/-- One round of rand32 (12 R291). -/
def randRound (k : Nat → Word) (x : Word × Word × Word × Word) (r : Nat) : Word × Word × Word × Word :=
  let (x0, x1, x2, x3) := x
  let x0 := x0 ^^^ k (r % 4)
  let x2 := x2 ^^^ k ((r + 2) % 4)
  let x0 := x0 + x1
  let x3 := rotl (x3 ^^^ x0) 16
  let x2 := x2 + x3
  let x1 := rotl (x1 ^^^ x2) 12
  let x0 := x0 + x1
  let x3 := rotl (x3 ^^^ x0) 8
  let x2 := x2 + x3
  let x1 := rotl (x1 ^^^ x2) 7
  (x0, x1 + 0x9E3779B9 * BitVec.ofNat 32 (r + 1), x2, x3)

/-- A random draw (12 R291). -/
def rand32 (seed step sid tile ln draw : Nat) : Word :=
  let k := fun i => BitVec.ofNat 32 (field seed (32 * i) 32)
  let x3 := BitVec.ofNat 32 (tile * 2 ^ 24 + ln * 2 ^ 17 + draw)
  let y := (List.range 10).foldl (randRound k)
    (BitVec.ofNat 32 (field step 0 32), BitVec.ofNat 32 (field step 32 32), BitVec.ofNat 32 sid, x3)
  (y.1 ^^^ y.2.1) + (y.2.2.1 ^^^ y.2.2.2)

/-- The seed of a context (12 R290). -/
def State.seedOf (s : State) (i : CtxId) : Nat :=
  (s.ctxX i.part i.ctx).seedLo.toNat + 2 ^ 64 * (s.ctxX i.part i.ctx).seedHi.toNat

/-- The draw of a tile of a running section (12 R292). -/
def State.drawOf (s : State) (ta b pos ln draw : Nat) : Word :=
  let x := s.bat (taC ta) b
  let seed := (x.owner.map s.seedOf).getD 0
  let sid := (x.active.map (·.id)).getD 0
  rand32 seed x.step sid pos ln (draw % 2 ^ 17)

/-- A lane of VRAND (12 R293): the draw, or the draw as an FP32 value in [0, 1). -/
def randLane (fmt : Bool) (v : Word) : Word := if fmt then fpRound false (v.toNat / 256) (-24) else v

/-- VRAND (12 R293): one repeat in 4 ACLK. -/
def execVrand (t : TileId) (s : State) : Host.Outcome State Fault Refusal :=
  let ta := tileKey t
  .next (match s.batOf ta with
    | none => s
    | some (b, pos) => s.runVector ta none .clean (· == .vrand) (fun vi _ i x k =>
        putRow x i k vi.regStride vi.rowStride
          (rowOf (fun l => randLane vi.fmt (s.drawOf ta b pos l (vi.stream.toNat + k)))) vi.dst))

def stepSrand (t : TileId) (th : Fin 4) (sD sN : Fin 32) (s : State) : State :=
  let ta := tileKey t
  match s.canIssue ta th.val, s.batOf ta with
  | some (b, cy), some (_, pos) =>
    let v := s.drawOf ta b pos (64 + th.val) (s.regVal ta th.val sN.val cy 0).toNat
    (s.updThread ta th.val (fun y => (y.setReg sD.val v (cy + 8)).issued cy)).drew 2
  | _, _ => s

/-- SRAND (12 R293): ready after 2 slots. -/
def execSrand (t : TileId) (th : Fin 4) (sD sN : Fin 32) (s : State) : Host.Outcome State Fault Refusal :=
  .next (stepSrand t th sD sN s)

end Sys2Proof.Machine
end

