-- ==== Sys2Proof/Machine/Pass.lean ====
section
/-! DEFINITION. Passes of a tile and the sampling schedule (13 R301-R304, 02 R66-R68). -/
namespace Sys2Proof.Machine

/-- Has a pass ended that PASS_END has not yet counted (13 R301)? A pass is 64 RUN cycles; the last may be shorter. -/
def Battery.passDue (x : Battery) (img : SecImage) (passIdx : Nat) : Bool :=
  decide (64 * (passIdx + 1) ≤ x.cycle) || (x.endPending && decide (64 * passIdx < img.cycles))

/-- The offset of the scheduled pass in window w of a tile (13 R303), for W = 2^wl under a sampling key. -/
def sampleOffset (key : BitVec 128) (w ta wl : Nat) : Nat := (rand32 key.toNat w (0x53000000 ||| ta) 0 0 0).toNat % 2 ^ wl

/-- A capture at its start (02 R66, 13 R314). -/
def State.newCapture (s : State) (c b pos ta n : Nat) : Option Capture :=
  let x := s.bat c b
  match x.active, x.owner with
  | some img, some i => some
      { ctx := i, section_ := img.id, step := x.step, pass := n, bat := b, cycle := 64 * (s.tile ta).test.passIdx, lpos := pos, mode := (img.tileAt pos).slabMode, acts := [], partials := []
        outs := [], plane := (s.tile ta).core.plane0, signature := 0, complete := false }
  | _, _ => none

/-- A pass begins on a tile (13 R303, R304): the window in force, and the capture if the pass is scheduled or a sample is owed. -/
def State.beginPass (s : State) (c b pos ta : Nat) : State :=
  let t := (s.tile ta).test
  let n := t.passes
  let wl := (s.clX c).wLog2
  let w := if t.w != wl && n % 2 ^ (max t.w wl) == 0 then wl else t.w
  let s := s.updTile ta (fun t => t.updTest (fun x => { x with w }))
  let due := n % 2 ^ w == sampleOffset (Config.samplingKey s.health.keyDrawn) (n / 2 ^ w) ta w
  if (due || t.deferred) && t.capture.isNone then
    s.updTile ta (fun t => t.updTest (fun x => { x with capture := s.newCapture c b pos ta n, deferred := false }))
  else if due then
    (s.updTile ta (fun t => t.updTest (fun x => { x with deferred := true }))).updClX c (fun x =>
      { x with deferredCnt := satAdd 16 x.deferredCnt 1 })
  else s

/-- Count a pass for a context in the tile's statistics. -/
def bumpStat (i : CtxId) (f : TileStat → TileStat) (l : List TileStat) : List TileStat :=
  if l.any (fun e => e.ctx == i) then l.map (fun e => if e.ctx == i then f e else e)
  else l ++ [f { ctx := i, passes := 0, checks := 0, lastPasses := 0, lastChecks := 0, good := none }]

/-- The capture of a pass at its end (02 R66, R67): the signature of the outgoing partials; the top row keeps no incoming ones. -/
def Capture.finish (k : Capture) : Capture :=
  { k with
    complete := true
    partials := if k.lpos / 16 = 0 then [] else k.partials
    signature := crc32c (k.outs.flatMap (fun r => leBytes 256 r.toNat)) }

def stepPassEnd (t : TileId) (s : State) : State :=
  let ta := tileKey t
  match s.batOf ta with
  | none => s
  | some (b, pos) =>
    let c := t.c.val
    let x := s.bat c b
    match x.active, x.owner with
    | some img, some i =>
      let y := (s.tile ta).test
      if x.st != .run || !x.passDue img y.passIdx then s
      else
        let open_ := match y.capture with
          | some k => !k.complete
          | none => false
        let s := s.updTile ta (fun t => t.updTest (fun y => { y with
          passes := wrapAdd 48 y.passes 1, passIdx := y.passIdx + 1, capture := if open_ then y.capture.map Capture.finish else y.capture
          stats := bumpStat i (fun e => { e with passes := e.passes + 1 }) y.stats }))
        let s := if open_ then s.updClX c (fun z => { z with
            capWait := if 2 ≤ y.lostRun then ta :: z.capWait else z.capWait ++ [ta] }) else s
        if 64 * (y.passIdx + 1) < img.cycles then s.beginPass c b pos ta else s
    | _, _ => s

/-- PASS_END (13 R301, R303, R304): the pass is counted, its capture complete, the next pass begins. -/
def execPassEnd (t : TileId) (s : State) : Host.Outcome State Fault Refusal := .next (stepPassEnd t s)

end Sys2Proof.Machine
end

