-- ==== Sys2Proof/Machine/Agp.lean ====
section
/-! DEFINITION. Address-generating programs: their validity, the loop nest, element addresses, resume records (06 R139-R145, R153,
08 R200, R201). -/
namespace Sys2Proof.Machine

/-- The opcode of a program instruction. -/
def agOp (i : Nat) : Nat := field i 60 4

/-! Validity (06 R139, R142, R143). -/

/-- Is a field or code of an instruction reserved (06 R142)? -/
def instrReserved (i : Nat) : Bool :=
  match agOp i with
  | 1 => field i 52 8 != 0 || i.testBit 50
  | 2 => i.testBit 59 || decide (6 ≤ field i 56 3) || field i 32 24 == 0
  | 3 => field i 56 3 == 6 || i.testBit 55 || field i 52 3 == 6
  | 4 => i.testBit 59 || decide (6 ≤ field i 56 3) || i.testBit 55 || decide (6 ≤ field i 52 3) ||
    field i 48 4 == 0 || decide (13 ≤ field i 48 4) || field i 0 48 != 0
  | 5 => i.testBit 59 || field i 56 3 == 6 || field i 53 3 != 0 || field i 32 20 != 0
  | 6 => field i 56 4 != 0 || field i 12 32 != 0
  | 7 => field i 0 60 != 0
  | _ => true

/-- Is a field of the descriptor header reserved, or not zero for its DEST_KIND (06 R139)? -/
def headReserved (m : BitVec 1536) : Bool :=
  let kind := bf m 0 2
  let l := bf m 8 4
  decide (2 ≤ kind) || bf m 3 5 != 0 || bf m 18 14 != 0 || bf m 43 21 != 0 || bf m 112 400 != 0 ||
    (kind == 0 && (l == 0 || decide (8 < l) || bf m 64 48 != 0)) ||
    (kind == 1 && (l != 0 || bf m 12 6 != 0 || bf m 32 11 != 0))

/-- The instructions that are read: up to and with the END, or all 16 (06 R143). -/
def readInstrs (m : BitVec 1536) : List Nat :=
  let l := progList m
  (((List.range 16).map (progInstr m)).take (l.length + 1))

/-- The LOOPs in nest order: counter, count, stride. -/
def loopsOf (m : BitVec 1536) : List (Nat × Nat × Int) :=
  ((progList m).filter (fun i => agOp i == 2)).map (fun i => (field i 56 3, field i 32 24, sint 32 (field i 0 32)))

/-- Elements per stream tile and element length (06 R142). -/
def tileElems (m : BitVec 1536) : Nat := ((progFind m 6).map (fun i => field i 44 12)).getD 1
def elemLen (m : BitVec 1536) : Nat := ((progFind m 6).map (fun i => 32 * field i 0 12)).getD 0

/-- The BASE instruction: HO, HO_IDX, ADDR. -/
def baseOf (m : BitVec 1536) : Bool × Nat × Nat :=
  match progFind m 1 with
  | some i => (i.testBit 51, field i 48 2, field i 0 48)
  | none => (false, 0, 0)

/-- Elements of a whole program: the product of the LOOP counts (06 R143). -/
def elemCount (m : BitVec 1536) : Nat := (loopsOf m).foldl (fun n l => n * l.2.1) 1

/-- Do the named counters stand next to each other in nest order? -/
def adjacent (l : List Nat) (a b : Nat) : Bool :=
  let i := l.idxOf a
  let j := l.idxOf b
  i + 1 == j || j + 1 == i

/-- Is the program valid (06 R143), given the battery's entry (CLU_BAT_SHAPE)? LEN32 and TILE_ELEMS out of their ranges make it invalid
(log entry 112). -/
def progValid (m : BitVec 1536) (sh : Nat) : Bool :=
  let l := progList m
  let count := fun op => (l.filter (fun i => agOp i == op)).length
  let ctrs := (loopsOf m).map (·.1)
  let named := l.flatMap (fun i => match agOp i with
    | 3 => [field i 56 3, field i 52 3]
    | 4 => [field i 56 3, field i 52 3]
    | 5 => [field i 56 3]
    | _ => [])
  let te := tileElems m
  let bytes := te * elemLen m
  let slot := bf m 0 2 == 0
  l.length < 16 && count 1 == 1 && decide (1 ≤ count 2) && decide (count 2 ≤ 6) && distinct ctrs && decide (count 3 ≤ 4) &&
    decide (count 4 ≤ 1) && decide (count 5 ≤ 1) && count 6 == 1 &&
    named.all (fun c => c == 7 || ctrs.contains c) &&
    (baseOf m).2.2 % 32 == 0 && (loopsOf m).all (fun x => x.2.2 % 32 == 0) &&
    decide (1 ≤ te) && decide (te ≤ 512) && decide (1 ≤ elemLen m) && decide (elemLen m ≤ 16384) &&
    bytes % 256 == 0 && decide (bytes ≤ 16384) && elemCount m % te == 0 &&
    (match progFind m 4 with
      | some i =>
        let cx := field i 56 3
        let cy := field i 52 3
        cx != cy && adjacent ctrs cx cy && decide (loopCount m cx ≤ 2 ^ field i 48 4) && decide (loopCount m cy ≤ 2 ^ field i 48 4)
      | none => true) &&
    (if slot then shapeValid sh && decide (bf m 32 11 + (bf m 8 4 + 1) * (bytes / 256) ≤ 1536) &&
        (match progFind m 5 with
          | some i => decide (field i 16 16 < 2 ^ shapeH sh) && decide (field i 0 16 < 2 ^ shapeW sh)
          | none => true)
      else count 5 == 0 && bf m 64 48 % 256 == 0)

/-- The status of a descriptor image at STREAM (06 R143): 0 if it is good. -/
def checkDesc (m : BitVec 1536) (sh : Nat) : Nat :=
  if headReserved m || (readInstrs m).any instrReserved then St.reservedNonzero
  else if progValid m sh then 0 else St.streamInvalid

/-! The loop nest (06 R144). -/

/-- One step of the curve function of 06 R144 at side s. -/
def hilStep (a : Nat × Nat × Nat) (n : Nat) : Nat × Nat × Nat :=
  let s := 2 ^ n
  let x := a.1
  let y := a.2.1
  let t := a.2.2
  let rx := t / 2 % 2
  let ry := (t ^^^ rx) % 2
  let p := if ry = 0 then (if rx = 1 then (s - 1 - y, s - 1 - x) else (y, x)) else (x, y)
  (p.1 + s * rx, p.2 + s * ry, t / 4)

/-- hilbert(m, d) of 06 R144. -/
def hilbert (m d : Nat) : Nat × Nat :=
  let r := (List.range m).foldl hilStep (0, 0, d)
  (r.1, r.2.1)

/-- The curve index of the j-th point that is not skipped (06 R144). -/
def hilFind (m nx ny : Nat) : Nat → Nat → Nat → Nat
  | 0, d, _ => d
  | fuel + 1, d, j =>
    let p := hilbert m d
    if p.1 < nx && p.2 < ny then (if j = 0 then d else hilFind m nx ny fuel (d + 1) (j - 1)) else hilFind m nx ny fuel (d + 1) j

/-- A level of the nest. -/
inductive Level where
  | loop (ctr count : Nat)
  | curve (cx cy m nx ny : Nat)
  deriving DecidableEq, Repr

def Level.size : Level → Nat
  | .loop _ n => n
  | .curve _ _ _ nx ny => nx * ny

/-- The levels of a program, outermost first: a HILBERT pair is one level, at its outer LOOP (06 R144). -/
def levelsOf (m : BitVec 1536) : List Level :=
  match progFind m 4 with
  | none => (loopsOf m).map (fun l => .loop l.1 l.2.1)
  | some h =>
    let cx := field h 56 3
    let cy := field h 52 3
    let ctrs := (loopsOf m).map (·.1)
    let outer := if ctrs.idxOf cx < ctrs.idxOf cy then cx else cy
    (loopsOf m).filterMap (fun l =>
      if l.1 == outer then some (.curve cx cy (field h 48 4) (loopCount m cx) (loopCount m cy))
      else if l.1 == cx || l.1 == cy then none
      else some (.loop l.1 l.2.1))

/-- The counters at an element, and the curve index (06 R144); the innermost level varies fastest. -/
def vectorAt : List Level → Nat → Tbl Nat × Nat
  | [], _ => ([], 0)
  | l :: rest, n =>
    let inner := rest.foldl (fun a x => a * x.size) 1
    let r := vectorAt rest (n % inner)
    let j := n / inner
    match l with
    | .loop c _ => (tset r.1 c j, r.2)
    | .curve cx cy m nx ny =>
      let d := hilFind m nx ny (4 ^ m) 0 j
      let p := hilbert m d
      (tset (tset r.1 cx p.1) cy p.2, d)

/-- coord(C) of a bound (06 R144). -/
def boundCoord (i : Nat) (v : Tbl Nat) : Int :=
  let c := fun k => if k = 7 then 0 else tget v k 0
  ((c (field i 56 3) * field i 40 12 + c (field i 52 3) : Nat) : Int) + sint 16 (field i 24 16)

/-- What an element is (06 R144): its address and the range of its in-bound bytes; an empty range is all zeros. -/
structure ElemInfo where
  addr : Int
  lo : Nat
  hi : Nat
  deriving DecidableEq, Repr

/-- The element at a counter vector, with a given base (06 R144, R145). -/
def elemInfo (m : BitVec 1536) (base : Nat) (v : Tbl Nat) : ElemInfo :=
  let bounds := (progList m).filter (fun i => agOp i == 3)
  let len : Int := elemLen m
  let rowOut := bounds.any (fun i => !i.testBit 59 && (decide (boundCoord i v < 0) || decide ((field i 0 24 : Int) ≤ boundCoord i v)))
  let cols := bounds.filter (fun i => i.testBit 59)
  let lo := cols.foldl (fun (a : Int) i => max a (-boundCoord i v)) 0
  let hi := cols.foldl (fun (a : Int) i => min a ((field i 0 24 : Int) - boundCoord i v)) len
  let addr := (loopsOf m).foldl (fun (a : Int) l => a + Int.ofNat (tget v l.1 0) * l.2.2) (base : Int)
  if rowOut || decide (hi ≤ lo) then { addr := 0, lo := 0, hi := 0 } else { addr, lo := lo.toNat, hi := hi.toNat }

/-- The destinations of an element by logical position (06 R153). -/
def elemDests (m : BitVec 1536) (v : Tbl Nat) (w h : Nat) : List (Nat × Nat) :=
  let k := match progFind m 5 with
    | some i => if field i 56 3 == 7 then 0 else tget v (field i 56 3) 0
    | none => 0
  let mask := mcastMask m k
  (bitsOf h mask.2).flatMap (fun j => (bitsOf w mask.1).map (fun i => (i, j)))

/-! Resume records (08 R200, R201). -/

/-- A resume record of 08 R200. -/
def resumeRecord (status e d c k gen p : Nat) (write : Bool) (faultVa faultHua : Nat) (v : Tbl Nat) (curve tiles elem mask now : Nat) :
    BitVec 1024 :=
  BitVec.ofNat 1024 (pack [(8, status), (2, e), (4, d), (4, c), (6, k), (8, gen), (4, p), (1, b2n write), (1, b2n (mask != 0)),
    (26, 0), (48, faultVa), (16, 0),
    (24, tget v 0 0), (24, tget v 1 0), (24, tget v 2 0), (24, tget v 3 0), (24, tget v 4 0), (24, tget v 5 0),
    (24, curve), (24, tiles), (9, elem), (55, 0), (64, faultHua), (64, now), (512, mask)])

/-- Does a saved record pass the check of 08 R201 for a descriptor image? -/
def recordOk (r : BitVec 1024) (m : BitVec 1536) : Bool :=
  let st := bf r 0 8
  let elem := bf r 320 9
  let mask := bf r 512 512
  let te := tileElems m
  let n := bf r 296 24 * te + elem
  let v := vectorAt (levelsOf m) n
  (st == 0x67 || st == 0x68 || st == 0x6B || st == 0xA3) && bf r 38 26 == 0 && bf r 112 16 == 0 && bf r 329 55 == 0 &&
    decide (elem < te) && decide (n < elemCount m) && mask % 2 ^ (elem + 1) == 2 ^ elem - 1 && mask / 2 ^ te == 0 &&
    bf r 37 1 == b2n (mask != 0) && (List.range 6).all (fun k => bf r (128 + 24 * k) 24 == tget v.1 k 0) && bf r 272 24 == v.2 &&
    (st != 0xA3 || (bf r 36 1 == 0 && bf r 64 48 == 0 && bf r 384 64 == 0)) && bf m 0 2 == 1

end Sys2Proof.Machine
end

