-- ==== Sys2Proof/Machine/Fabric.lean ====
section
/-! DEFINITION. The static fabric, switch schedules and landing buffers: RUN_CYCLE, SWITCH_ENTRY_END, PADDING_END,
LANDING_FILL, LANDING_ENTRY_ARRIVAL, TILE_CLEAR_COMPLETE (04 R97-R101, 05 R121, R122, 02 R56-R65). -/
namespace Sys2Proof.Machine

/-- Does a tile wait for its switch unit to go on (the entry or the padding has run out)? -/
def TileNet.due (x : TileNet) : Bool :=
  !x.ended && ((x.inPad && x.padding == 0) || (!x.inPad && x.hold == 0))

/-- What one tile does in one cycle: its parts after the cycle, its outgoing words, the conditions it meets. -/
structure TileOut where
  core : TileCore
  net : TileNet
  capture : Option Capture
  east : Option Row
  south : Option Row
  sc : Tbl Word
  ct : Tbl Byte
  faults : List (Nat × Nat)
  gated : Nat

/-- The opposite of a direction index: N-S, E-W. -/
def opp (d : Nat) : Nat := (d + 2) % 4

/-- Find a key of a table. -/
def tfind {α : Type} (t : Tbl α) (k : Nat) : Option α := (t.find? (fun e => e.1 == k)).map (·.2)

/-- A row write of the wide port: the row address. -/
def actRow (bank row : Nat) : Nat := bank * 128 + row

/-- The word of plane i after a wide read (03 R77): FP19 weights pass through CVT_W. -/
def planeWord (ti : TileImg) (w : Row) : Row :=
  if ti.slabMode == 5 then rowOf (fun i => toFp19 ti.cvtW (lane w i)) else w

/-- Put 256 bytes at row i of a plane or constant block. -/
def putBlock (v i : Nat) (w : Row) : Nat := setField v (2048 * i) 2048 w.toNat

/-- FIFO outcome of one output: the word popped, the list after, a violation. -/
def fifoStep {α : Type} (l : List α) (depth : Nat) (pop : Bool) (push : Option α) : Option α × List α × Bool :=
  let under := pop && l.isEmpty
  let excess := push.isSome && decide (depth ≤ l.length)
  (if pop then l.head? else none,
   (if pop then l.tail else l) ++ (match push with
     | some v => if excess then [] else [v]
     | none => []),
   under || excess)

/-- Consecutive wide reads that load a weight plane, by mode (02 R57, 03 R77). -/
def planeReads (mode : Nat) : Nat := if mode = 3 then 6 else if mode = 2 || mode = 4 then 5 else 4

/-- The schedule goes on at an entry. -/
def TileNet.goTo (x : TileNet) (ti : TileImg) (n : Nat) : TileNet :=
  { x with entry := n, hold := swHold (ti.entryAt n), inPad := false, padding := 0 }

/-- The step from an entry whose HOLD has run out (04 R101, 05 R121): the new net state, or a length mismatch. A counter is 24 bits wide, so
that one of initial value 0 goes on at 2^24 - 1. -/
def TileNet.nextEntry (x : TileNet) (ti : TileImg) : Option TileNet :=
  let e := ti.entryAt x.entry
  match x.arms with
  | f :: rest =>
    let a := ti.arms.getD f.arm 0
    if armEnd a f.taken == x.entry then
      if f.count != armLen a f.taken then none
      else
        let pad := max (armLen a false) (armLen a true) - armLen a f.taken
        some (if pad = 0 then ({ x with arms := rest }).goTo ti (armJoin a)
          else { x with arms := rest, inPad := true, padding := pad, joinAt := armJoin a })
    else some (plain x e)
  | [] => some (plain x e)
where
  plain (x : TileNet) (e : Dword) : TileNet :=
    if swNext e == 0 then x.goTo ti (x.entry + 1)
    else if swNext e == 1 then
      let v := (tget x.ctrs (swCtr e) 0 + 0xFFFFFF) % 2 ^ 24
      if v != 0 then ({ x with ctrs := tset x.ctrs (swCtr e) v }).goTo ti (swTarget e)
      else ({ x with ctrs := tset x.ctrs (swCtr e) (ti.ctrInit (swCtr e)) }).goTo ti (x.entry + 1)
    else if swNext e == 2 then
      let taken := tget x.lastC (swCtr e % 4) 0 != 0
      let arm := ti.arms.findIdx (fun a => armBranch a == x.entry)
      ({ x with arms := { arm, taken, count := 0 } :: x.arms }).goTo ti (if taken then swTarget e else x.entry + 1)
    else { x with ended := true }

/-- The vector unit at the end of a cycle (02 R52): an instruction all of whose repeats are done leaves the queue, the ACLK of the head go
on but for padding (05 R122). -/
def TileCore.vecTick (t : TileCore) (inPad : Bool) : TileCore :=
  let t' := { t with vdone := false, vE := none, vS := none, feed := none }
  if inPad then t'
  else match t.vq with
  | [] => t'
  | h :: rest =>
    if !t.vdone then { t' with vcyc := t.vcyc + 1 }
    else if t.vrep + 1 < h.instr.rep then { t' with vcyc := t.vcyc + 1, vrep := t.vrep + 1 }
    else { t' with vq := rest, vrep := 0, vcyc := if rest.isEmpty then 0 else 1 }

/-- One tile, one cycle of RUN (04 R97-R100). An idle entry is in force in padding and after the schedule's end; log entry 57. The slab takes
a word in every cycle but those of padding (03 R76, 05 R122, R132): an invalid word counts as 0, and the word it sends south is valid
(DESIGN CHOICE, log entry 99). -/
def tileCycle (t : Tile) (ti : TileImg) (bottom : Bool) (a : TileAct) : TileOut :=
  let x := t.net
  let idle := x.ended || x.inPad
  let e : Dword := x.inForce ti
  let rd := swRdPort e
  let rdFrom := if rd == 4 then t.core.feed.getD (actRow a.rdBank.val a.rdRow.val) else actRow a.rdBank.val a.rdRow.val
  let rdOn := rd == 2 && a.rdUse != .none || (rd == 3) || (rd == 4)
  let rdBad := if rdOn then wideFaults t.ctl (rdFrom / 128) false ++ (if a.ecc == .uncorrectable then [0x73] else []) else []
  let rdRow : Row := if rdBad.isEmpty then readRow t.core.pad rdFrom else 0
  let w := if rd == 4 then some rdRow else x.inW
  let n := x.inN
  let plane := if t.core.planeSel then t.core.plane1 else t.core.plane0
  let pout : Option Row := if x.inPad then none else some (slabWord ti plane (w.getD 0) (n.getD 0))
  let osOut := (t.core.osPipe.getD 2 none)
  let fe := fifoStep x.fifoE ti.depthE (swVEast e == 6) (if swPushV e then w else none)
  let fs := fifoStep x.fifoS ti.depthS (swVSouth e == 6) (if swPushV e then n else none)
  let east := match swVEast e with
    | 1 => w
    | 2 => t.core.vE
    | 3 => some rdRow
    | 4 => w
    | 5 => osOut
    | 6 => fe.1
    | _ => none
  let south := match swVSouth e with
    | 1 => n
    | 2 => t.core.vS
    | 3 => some rdRow
    | 4 => pout
    | 5 => osOut
    | 6 => fs.1
    | _ => none
  let fsc := (List.range 4).map (fun d =>
    (d, fifoStep (tget x.fifoSc d []) (ti.depthScalar d) (swSOut e d == 3) (if swPushS e then tfind x.inS (opp d) else none)))
  let fct := (List.range 4).map (fun d =>
    (d, fifoStep (tget x.fifoCt d []) (ti.depthControl d) (swCOut e d == 3)
      (if swPushC e && tget x.inC (opp d) 0 != 0 then tfind x.inC (opp d) else none)))
  let sc := fsc.filterMap (fun f =>
    match swSOut e f.1 with
    | 1 => (tfind x.wrS f.1).map (fun v => (f.1, v))
    | 2 => (tfind x.inS (opp f.1)).map (fun v => (f.1, v))
    | 3 => f.2.1.map (fun v => (f.1, v))
    | _ => none)
  let ct := fct.filterMap (fun f =>
    match swCOut e f.1 with
    | 1 => (tfind x.wrC f.1).map (fun v => (f.1, v))
    | 2 => (tfind x.inC (opp f.1)).map (fun v => (f.1, v))
    | 3 => f.2.1.map (fun v => (f.1, v))
    | _ => none)
  let wr : Option Row := match swWPort e with
    | 2 => osOut
    | 3 => w
    | 4 => n
    | _ => none
  let wrBad := if wr.isSome then wideFaults t.ctl a.wrBank.val true else []
  let net := { x with
    hold := if idle then x.hold else x.hold - 1
    padding := if x.inPad then x.padding - 1 else x.padding
    arms := x.arms.map (fun f => { f with count := f.count + 1 })
    lastC := x.inC
    wrS := []
    wrC := []
    fifoE := fe.2.1
    fifoS := fs.2.1
    fifoSc := fsc.map (fun f => (f.1, f.2.2.1))
    fifoCt := fct.map (fun f => (f.1, f.2.2.1)) }
  let faults :=
    rdBad.map (fun f => (f, tileDetail 4 (rdFrom / 128) 0 0)) ++
    wrBad.map (fun f => (f, tileDetail 5 a.wrBank.val 0 0)) ++
    (if fe.2.2 || fs.2.2 || fsc.any (fun f => f.2.2.2) || fct.any (fun f => f.2.2.2) then
      [(St.scheduleViolation, tileDetail 6 0 0 0)] else []) ++
    (if !idle && net.hold == 0 && (net.nextEntry ti).isNone then [(St.cycleMismatch, tileDetail 6 0 0 0)] else [])
  let osIn : Option Row := if bottom then pout.map (osWord ti t.core.consts) else none
  let loads := rd == 2 && a.rdUse == .plane && rdBad.isEmpty
  let loaded := fun (v : BitVec 12288) =>
    if loads then BitVec.ofNat 12288 (putBlock v.toNat t.core.planeCnt (planeWord ti rdRow)) else v
  let core := { t.core.vecTick x.inPad with
    pad := match wr with
      | some v => if wrBad.isEmpty then writeRow t.core.pad (actRow a.wrBank.val a.wrRow.val) v else t.core.pad
      | none => t.core.pad
    plane0 := if t.core.planeSel then loaded t.core.plane0 else t.core.plane0
    plane1 := if t.core.planeSel then t.core.plane1 else loaded t.core.plane1
    planeCnt := if loads then (t.core.planeCnt + 1) % planeReads ti.slabMode else 0
    planeSel := if a.swapPlane && !idle then !t.core.planeSel else t.core.planeSel
    consts := match a.rdUse with
      | .consts i => if rd == 2 && rdBad.isEmpty then BitVec.ofNat 8192 (putBlock t.core.consts.toNat i.val rdRow) else t.core.consts
      | _ => t.core.consts
    osPipe := if x.inPad then t.core.osPipe else (osIn :: t.core.osPipe).take 3 }
  { core
    net
    capture := t.test.capture.map (fun k =>
      if k.complete || 64 ≤ k.acts.length then k
      else
        { k with
          acts := k.acts ++ [BitVec.ofNat 2048 (field (w.getD 0).toNat 0 (actBits ti))]
          partials := k.partials ++ [BitVec.ofNat 2048 (field (n.getD 0).toNat 0 (32 * slabChans ti.slabMode))]
          outs := k.outs ++ [pout.getD 0]
          plane := BitVec.ofNat 12288 (field plane.toNat 0 (8 * planeBytes ti.slabMode)) })
    east
    south
    sc
    ct
    faults
    gated := if x.inPad then 1 else gatedGroups ti (w.getD 0) }

/-- The action of a tile in a cycle; none given: no wide access. -/
def actOf (acts : List TileAct) (pos : Nat) : TileAct :=
  (acts.find? (fun a => a.pos == pos)).getD { pos, rdUse := .none, rdBank := 0, rdRow := 0, wrBank := 0, wrRow := 0, swapPlane := false, ecc := .clean }

/-- The inputs of a tile in the next cycle (04 R97, R98): its neighbours' outputs; a closed input is invalid, its token 0;
log entry 58. -/
def linkIn (outs : Tbl TileOut) (net : TileNet) (i j : Nat) : TileNet :=
  let west := if i = 0 then none else tfind outs (16 * j + i - 1)
  let east := tfind outs (16 * j + i + 1)
  let north := if j = 0 then none else tfind outs (16 * (j - 1) + i)
  let south := tfind outs (16 * (j + 1) + i)
  let east := if i = 15 then none else east
  let src : List (Nat × Option TileOut) := [(0, north), (1, east), (2, south), (3, west)]
  { net with
    inW := west.bind (·.east)
    inN := north.bind (·.south)
    inS := src.filterMap (fun e => e.2.bind (fun o => (tfind o.sc (opp e.1)).map (fun v => (e.1, v))))
    inC := src.filterMap (fun e => e.2.bind (fun o => (tfind o.ct (opp e.1)).map (fun v => (e.1, v)))) }

/-- The tokens that varying-rate bindings hold on their token tile (05 R128). -/
def tokenIn (img : SecImage) (takes : Tbl TakeState) (pos : Nat) (net : TileNet) : TileNet :=
  img.bindings.foldl (fun net bd =>
    if bd.varying && pos == 16 * bd.tokenJ + bd.tokenI then
      let tok := BitVec.ofNat 8 (takesOf takes bd.index).token
      { net with inC := tset net.inC (if bd.tokenNorth then 0 else 3) tok }
    else net) net

/-- The stall and empty counts of the channels and queues of a tile go on by n ACLK (09 R229). -/
def State.countTraffic (s : State) (n : Nat → Nat) : State :=
  { s with msg := { s.msg with
      chans := tmap s.msg.chans (fun k x =>
        if x.opened && x.window ≤ x.inFlight.length then { x with stall := wrapAdd 32 x.stall (n (k / 16)) } else x)
      queues := tmap s.msg.queues (fun k x =>
        if x.opened && x.entries.isEmpty then { x with empty := wrapAdd 32 x.empty (n (k / 16)) } else x) } }

/-- ACLK edges of a cluster in the next nanosecond: its clock makes code / 40 a nanosecond (01 R36), and phase holds the rest. -/
def State.aclkEdges (s : State) (c : Nat) : Nat := ((s.clock c).phase + (s.clock c).code) / 40

/-- A nanosecond of the array clocks outside RUN (log entry 17): the counts of the tiles that are not in RUN. -/
def State.countIdle (s : State) : State :=
  let s' := s.countTraffic (fun ta => if (s.tile ta).ctl.running then 0 else s.aclkEdges (taC ta))
  s'.each (List.range 16) (fun s c => s.updClock c (fun k => { k with phase := (k.phase + k.code) % 40 }))

/-- Is a take of the section due in its present cycle that has not been made (06 R149)? -/
def Battery.takeDue (x : Battery) (img : SecImage) : Bool :=
  img.bindings.any (fun bd => bd.takeCycles[(takesOf x.takes bd.index).taken]? == some x.cycle)

/-- Does a tile of a battery wait for a command of the present cycle: an end of a schedule entry, of padding or of a pass, a repeat of its
vector unit (log entry 27)? -/
def State.tileDue (s : State) (x : Battery) (img : SecImage) (ta : Nat) : Bool :=
  let t := s.tile ta
  t.net.due || x.passDue img t.test.passIdx || t.vecDue.isSome

/-- One ACLK of RUN of a battery (04 R97); log entry 27. Its faults abort the section (R116), but for those of the last cycle, which RUN_END
judges with its own. -/
def State.runCycle (s : State) (c b : Nat) (acts : List TileAct) : State :=
  let x := s.bat c b
  match x.active with
  | none => s
  | some img =>
    let ts := s.batTiles c b
    if x.st != .run || x.endPending || x.takeDue img || ts.any (fun e => s.tileDue x img e.2) then s
    else
      let outs : Tbl TileOut := ts.map (fun e =>
        (e.1, tileCycle (s.tile e.2) (img.tileAt e.1) (e.1 / 16 + 1 == img.h) (actOf acts e.1)))
      let bad : List SecFault := ts.flatMap (fun e => match tfind outs e.1 with
        | some o => o.faults.map (fun f => { status := f.1, ta := e.2, detail := f.2, va := 0 })
        | none => [])
      let s := s.each ts (fun s e => match tfind outs e.1 with
        | some o => s.updTile e.2 (fun t => { t with
            core := o.core
            net := tokenIn img x.takes e.1 (linkIn outs o.net (e.1 % 16) (e.1 / 16))
            ctl := { t.ctl with cycle := t.ctl.cycle + 1, filled := false }
            test := { t.test with capture := o.capture } })
        | none => s)
      let s := match x.owner with
        | some i => s.updCtxX i.part i.ctx (fun y => { y with runcyc := wrapAdd 64 y.runcyc 1 })
        | none => s
      let s := s.updCl c (fun y => { y with gated := wrapAdd 48 y.gated (outs.foldl (fun n o => n + o.2.gated) 0) })
      let s := s.countTraffic (fun ta => b2n (ts.any (fun e => e.2 == ta)))
      let s := s.each (bad.filter (fun f => f.status == 0x73)) (fun s f => s.scratchLost f.ta (field f.detail 3 4))
      let s := s.fault c b bad
      if x.cycle + 1 = img.cycles then s.updBat c b (fun y => { y with endPending := true })
      else if (s.bat c b).faults.isEmpty then s.updBat c b (fun y => { y with cycle := y.cycle + 1 })
      else s.abortDue c b

/-- RUN_CYCLE (04 R97-R100, 02 R56-R58, 03 R75-R90). -/
def execRunCycle (c : Fin 16) (b : Fin 64) (acts : List TileAct) (s : State) : Host.Outcome State Fault Refusal :=
  .next (s.runCycle c.val b.val acts)

/-! The switch unit. -/

def stepSwitchEntryEnd (t : TileId) (s : State) : State :=
  let ta := tileKey t
  match s.inRun ta with
  | none => s
  | some (_, ti) =>
    let x := (s.tile ta).net
    if x.ended || x.inPad || x.hold != 0 then s
    else match x.nextEntry ti with
      | some y => s.updTile ta (fun t => t.updNet (fun _ => y))
      | none => s

/-- SWITCH_ENTRY_END (04 R101, 05 R121). -/
def execSwitchEntryEnd (t : TileId) (s : State) : Host.Outcome State Fault Refusal := .next (stepSwitchEntryEnd t s)

def stepPaddingEnd (t : TileId) (s : State) : State :=
  let ta := tileKey t
  match s.inRun ta with
  | none => s
  | some (_, ti) =>
    let x := (s.tile ta).net
    if x.inPad && x.padding == 0 then s.updTile ta (fun t => t.updNet (fun x => x.goTo ti x.joinAt)) else s

/-- PADDING_END (05 R121): the schedule continues at JOIN. -/
def execPaddingEnd (t : TileId) (s : State) : Host.Outcome State Fault Refusal := .next (stepPaddingEnd t s)

/-! Landing buffers. -/

/-- Is this a fill cycle of the tile (02 R62)? Outside RUN every cycle is; in RUN, the wide write port has no owner. -/
def State.fillCycle (s : State) (ta : Nat) : Bool :=
  match s.imgOf ta with
  | some (b, _, _, ti) =>
    let x := (s.tile ta).net
    (s.bat (taC ta) b).st != .run || x.ended || x.inPad || swWPort (ti.entryAt x.entry) == 0
  | none => true

/-- Is the head of the landing buffer held (02 R62)? -/
def State.fillHeld (s : State) (ta : Nat) : Bool :=
  let t := s.tile ta
  match t.ctl.landing with
  | h :: _ => (t.ctl.running && !t.ctl.wide.toNat.testBit (h.row / 128)) || t.ctl.cur != some h.ctx
  | [] => false

/-- The bytes of a row with the granules they belong to (06 R147). -/
def maskedBytes (mask : Nat) (data : Row) : List (Bool × Byte) :=
  (List.range 256).map (fun i => (mask.testBit (i / 32), BitVec.ofNat 8 (field data.toNat (8 * i) 8)))

/-- Does the row of a landing entry lie in the slot region that another descriptor owns in this tile, one of its destinations (06 R148)? -/
def State.slotClash (s : State) (ta : Nat) (h : LandEntry) : Bool :=
  let c := taC ta
  (List.range 64).any (fun n =>
    let d := s.desc c (n / 16) (n % 16)
    let row0 := bf d.image 32 11
    n != 16 * h.engine + h.desc && d.st != .free && descSlot d.image &&
      decide (row0 ≤ h.row) && decide (h.row < row0 + (bf d.image 8 4 + 1) * (tileElems d.image * elemLen d.image / 256)) &&
      (match s.batOf ta with
        | some (b, pos) => d.bat == b && descNames d.image (pos % 16) (pos / 16)
        | none => false))

def stepLandingFill (t : TileId) (s : State) : State :=
  let ta := tileKey t
  if s.fillHeld ta || !s.fillCycle ta || s.muffledTile ta || ((s.tile ta).ctl.running && (s.tile ta).ctl.filled) then s
  else match (s.tile ta).ctl.landing with
  | [] => s
  | h :: rest =>
    let clash := s.slotClash ta h
    let bs := maskedBytes h.mask (if clash then s.freeVal 2048 else h.data)
    (s.updTile ta (fun t => { t with
      ctl := { t.ctl with landing := rest, filled := true }
      core := { t.core with pad := mwriteMasked t.core.pad (256 * h.row) bs } })).drew (if clash then 1 else 0)

/-- LANDING_FILL (02 R62, 06 R147, R148); where slot regions overlap the row is a free value (log entry 89). -/
def execLandingFill (t : TileId) (s : State) : Host.Outcome State Fault Refusal := .next (stepLandingFill t s)

def stepLandingEntryArrival (t : TileId) (c : Fin 16) (e : Fin 4) (d : Fin 16) (s : State) : State :=
  let ta := tileKey t
  let x := s.descX c.val e.val d.val
  match x.transit.find? (fun r => r.ta == ta), (s.desc c.val e.val d.val).owner with
  | some r, some i =>
    let s' := s.updDescX c.val e.val d.val (fun y => { y with transit := y.transit.erase r })
    if s.muffledTile ta then s'
    else if 8 ≤ (s.tile ta).ctl.landing.length then s
    else s'.updTile ta (fun t => t.updCtl (fun y => { y with
      landing := y.landing ++ [{ row := r.row, mask := r.mask, data := r.data, ctx := i, engine := e.val, desc := d.val, elem := r.elem }] }))
  | _, _ => s

/-- LANDING_ENTRY_ARRIVAL (02 R62): a row write enters the landing buffer; a full buffer stops the port; a muffled tile
takes none (15 R346). -/
def execLandingEntryArrival (t : TileId) (c : Fin 16) (e : Fin 4) (d : Fin 16) (s : State) :
    Host.Outcome State Fault Refusal := .next (stepLandingEntryArrival t c e d s)

def stepTileClearComplete (t : TileId) (s : State) : State :=
  let ta := tileKey t
  match (s.tile ta).ctl.clearing with
  | none => s
  | some i =>
    let s := s.updTile ta (fun t => t.updCtl (fun x => { x with clearing := none, cur := some i }))
    match s.batOf ta with
    | some (b, _) => (s.armChecks (taC ta) b).pumpBat (taC ta) b
    | none => s

/-- TILE_CLEAR_COMPLETE (02 R65): the tile takes the new context; ARM goes on once every tile is clear. -/
def execTileClearComplete (t : TileId) (s : State) : Host.Outcome State Fault Refusal := .next (stepTileClearComplete t s)

end Sys2Proof.Machine
end

