-- ==== Sys2Proof/Machine/Sect.lean ====
section
/-! DEFINITION. The battery engine: SEC_LOAD, LOADED, SEC_RUN, LOCK_GRANT, RUN_START, TAKE, RUN_END, COMMIT, SEC_CHAIN and the
hand-over pool (04 R94, R103-R112, 05 R125-R128, 06 R149, R152, R159). -/
namespace Sys2Proof.Machine

/-- NOT_READY (16 R378): the command completes without effect. -/
def stNotReady : Nat := 0xD0

def stepSecLoad (p : Fin 16) (k : Fin 64) (s : State) : State :=
  match s.fetchedCmd p.val k.val 0 0x01 with
  | none => s
  | some r =>
    let s := s.startCmd r
    let c := bf r.bits 64 4
    if !(s.clY c).ready then s.complete r stNotReady 0 else s.reach c (s.redirect c (bf r.bits 68 6)) r

/-- SEC_LOAD (04 R94, R104; 16 R378). -/
def execSecLoad (p : Fin 16) (k : Fin 64) (s : State) : Host.Outcome State Fault Refusal := .next (stepSecLoad p k s)

def stepLoaded (c : Fin 16) (b : Fin 64) (s : State) : State :=
  let x := s.bat c.val b.val
  match x.loadImg, x.loadCmd with
  | some img, some r =>
    let s := s.updBat c.val b.val (fun x => { x with
      shadow := some img, loadImg := none, loadCmd := none
      st := if x.st == .loading then .loaded else x.st })
    if r.op == 3 then
      (s.updBat c.val b.val (fun x => { x with waiting := { r with op := chainRun } :: x.waiting })).pumpBat c.val b.val
    else
      let s := s.updBat c.val b.val (fun x => { x with lastStatus := St.completed })
      (s.complete r St.completed 0).pumpBat c.val b.val
  | _, _ => s

/-- LOADED (04 R103, R104): the image is wholly in the shadow. -/
def execLoaded (c : Fin 16) (b : Fin 64) (s : State) : Host.Outcome State Fault Refusal := .next (stepLoaded c b s)

def stepSecRun (p : Fin 16) (k : Fin 64) (s : State) : State :=
  match s.fetchedCmd p.val k.val 0 0x02 with
  | none => s
  | some r =>
    let c := bf r.bits 64 4
    (s.startCmd r).reach c (s.redirect c (bf r.bits 68 6)) r

/-- SEC_RUN (04 R105, R106); log entry 60. -/
def execSecRun (p : Fin 16) (k : Fin 64) (s : State) : Host.Outcome State Fault Refusal := .next (stepSecRun p k s)

/-! Locks. -/

/-- Do the regions of two sections conflict (04 R107)? -/
def regionsClash (a b : List Region) : Bool :=
  a.any (fun r => b.any (fun q => overlaps r.dpa r.len q.dpa q.len && (r.out || q.out)))

/-- The regions of a battery's section: mapped, or, before its ARM has come to that, as its context's tables map them now (04 R106). -/
def State.regionsOf (s : State) (c b : Nat) : List Region :=
  let x := s.bat c b
  if x.armOk then x.regions
  else match x.active, x.owner with
  | some img, some i => match (s.mapRegions c b i img.regions).2 with
    | .ok l => l
    | .error _ => []
  | _, _ => []

/-- May the locks of a battery's section be granted (04 R107)? No conflict with a held lock, nor with a region of a section
of the cluster that entered ARM earlier and still waits, for whatever. -/
def State.lockFree (s : State) (c b : Nat) : Bool :=
  let x := s.bat c b
  !s.bats.any (fun e => e.1 != bKey c b && e.1 / 64 == c &&
    ((e.2.locks && regionsClash x.regions e.2.regions) ||
     (e.2.st == .arm && !e.2.locks && decide (e.2.armSeq < x.armSeq) && regionsClash x.regions (s.regionsOf c (e.1 % 64)))))

def stepLockGrant (c : Fin 16) (b : Fin 64) (s : State) : State :=
  let x := s.bat c.val b.val
  if x.st == .arm && x.armOk && x.waitLock && s.lockFree c.val b.val then
    s.updBat c.val b.val (fun x => { x with locks := true, waitLock := false })
  else s

/-- LOCK_GRANT (04 R107): all locks of the section at once. -/
def execLockGrant (c : Fin 16) (b : Fin 64) (s : State) : Host.Outcome State Fault Refusal := .next (stepLockGrant c b s)

/-! RUN. -/

/-- The tile's part of RUN cycle 0 (04 R101, R108). -/
def Tile.start (t : Tile) (ti : TileImg) : Tile :=
  let e := ti.entryAt 0
  { t with
    core := { t.core with
      vq := [], vcyc := 0, vrep := 0, vdone := false, vE := none, vS := none, feed := none, planeCnt := 0, osPipe := []
      threads := tset (tset (tset t.core.threads 0 (go 0)) 1 (go 1)) 2 (go 2) }
    net := { TileNet.reset with
      entry := 0, hold := swHold e
      ctrs := (List.range 8).map (fun n => (n, ti.ctrInit n)) }
    ctl := { t.ctl with running := true } }
where
  go (i : Nat) : Thread :=
    { t.thread i with running := ti.runs i, pc := ti.entryPc i, waitc := none, landing := [], notReady := [], lastIssue := none }

def stepRunStart (c : Fin 16) (b : Fin 64) (s : State) : State :=
  let x := s.bat c.val b.val
  match x.active with
  | none => s
  | some img =>
    if x.st == .arm && x.armOk && x.locks && !x.waitLock && img.bindings.all (s.slotReady c.val) then
      let s := s.updBat c.val b.val (fun x => { x with st := .run, cycle := 0, endPending := false, faults := [] })
      let s := s.updClY c.val (fun x => { x with ran := true })
      let takes := img.bindings.foldl (fun t bd =>
        tset t bd.index { taken := 0, token := 0, start := s.bindStart c.val b.val bd, foreign := false }) []
      let s := s.updBat c.val b.val (fun x => { x with takes })
      let s := s.each img.bindings (fun s bd => s.updDesc c.val bd.engine bd.desc (fun d => { d with at_ := d.at_.map (fun e => (e.1, none)) }))
      s.each (s.batTiles c.val b.val) (fun s e =>
        (s.updTile e.2 (fun t => (t.start (img.tileAt e.1)).updTest (fun y => { y with passIdx := 0 }))).beginPass c.val b.val e.1 e.2)
    else s

/-- RUN_START (04 R106, R108): RUN cycle 0 on every tile of the battery; the start points of the bindings are recorded (06 R152). -/
def execRunStart (c : Fin 16) (b : Fin 64) (s : State) : Host.Outcome State Fault Refusal := .next (stepRunStart c b s)

/-! Varying-rate transfers (05 R126): `counts` holds SEG_CAP, MAX_ITEMS and then the count words; empty for a fixed rate. -/

/-- The items of a varying-rate transfer that have data, in slot order: indices in the enumeration of R125. -/
def vrItems (cap max_ : Nat) (cs : List Nat) : List Nat :=
  ((List.range cs.length).flatMap (fun n => (List.range (min (cs.getD n 0) cap)).map (fun i => n * cap + i))).take max_

/-- The number of items dropped (05 R126). -/
def vrDropped (cap max_ : Nat) (cs : List Nat) : Nat :=
  let kept := cs.foldl (fun n x => n + min x cap) 0
  cs.foldl (fun n x => n + (x - cap)) 0 + (kept - max_)

/-- The lowest segment that lost an item (05 R135). -/
def vrLostSeg (cap max_ : Nat) (cs : List Nat) : Nat :=
  ((List.range cs.length).find? (fun n =>
    decide (cap < cs.getD n 0) || decide (max_ < (cs.take (n + 1)).foldl (fun m x => m + min x cap) 0))).getD 0

/-- The token of a take of slot n (05 R128). -/
def vrToken (counts : List Nat) (n : Nat) : Nat :=
  match counts with
  | cap :: max_ :: cs =>
    if (vrItems cap max_ cs).length ≤ n then 0
    else if n + 1 = max_ && vrDropped cap max_ cs != 0 then 0xF4
    else 0xF1
  | _ => 0

/-! TAKE. -/

/-- The lowest physical tile of a battery (log entry 11): the tile a fault without a tile of its own names. -/
def State.lowTile (s : State) (c b : Nat) : Nat := ((s.batTiles c b).map (·.2)).foldl min 8191

def stepTake (c : Fin 16) (b : Fin 64) (binding : Fin 8) (s : State) : State :=
  let x := s.bat c.val b.val
  match x.active with
  | none => s
  | some img =>
    match img.bindings.find? (fun bd => bd.index == binding.val) with
    | none => s
    | some bd =>
      let ts := takesOf x.takes bd.index
      if x.st != .run || x.endPending || bd.takeCycles[ts.taken]? != some x.cycle then s
      else
        let d := s.desc c.val bd.engine bd.desc
        if d.delivered ≤ d.taken then
          (s.updBat c.val b.val (fun x => { x with takes := tset x.takes bd.index { ts with taken := ts.taken + 1 } })).faultOn
            (s.lowTile c.val b.val) b.val [St.lateData] (tileDetail 6 0 0 bd.index) 0
        else
          let late := match d.at_.find? (fun e => e.1 == d.taken) with
            | some (_, some n) => decide (x.cycle < n + 64)
            | some (_, none) => decide (x.cycle < 64) && (s.freeVal 1 == 1)
            | none => false
          let run := d.runOf d.taken
          let tok := if bd.varying then vrToken run.counts (d.taken - run.seq0) else 0
          let foreign := ts.foreign || decide (d.taken < ts.start) || decide (ts.start + bd.tiles ≤ d.taken)
          let s := s.setDesc c.val bd.engine bd.desc { d with
            taken := d.taken + 1, at_ := d.at_.filter (fun e => e.1 != d.taken)
            lag := if late then satAdd 16 d.lag 1 else d.lag }
          let s := s.updBat c.val b.val (fun x => { x with takes := tset x.takes bd.index { ts with taken := ts.taken + 1, token := tok, foreign } })
          let s := if bd.varying then
              s.updTile (s.tileAt c.val b.val bd.tokenI bd.tokenJ) (fun t => t.updNet (fun n =>
                { n with inC := tset n.inC (if bd.tokenNorth then 0 else 3) (BitVec.ofNat 8 tok) }))
            else s
          s.drew 1

/-- TAKE (06 R149, 04 R109, 05 R128): the lowest stream tile not yet taken; not delivered: LATE_DATA. LAG of a tile delivered outside RUN
and taken before cycle 64 is a free value (06 R163, log entry 4). -/
def execTake (c : Fin 16) (b : Fin 64) (binding : Fin 8) (s : State) : Host.Outcome State Fault Refusal :=
  .next (stepTake c b binding s)

/-! RUN_END. -/

/-- Bytes of one stream tile of a descriptor image (06 R141, R142). -/
def streamTileBytes (img : BitVec 1536) : Nat :=
  match progFind img 6 with
  | some e => 32 * field e 0 12 * field e 44 12
  | none => 0

/-- Does a tile end RUN as 04 R108 asks: its schedule in the last cycle of an ending entry, its queue empty, no load awaited? -/
def Tile.endsWell (t : Tile) (ti : TileImg) : Bool :=
  !t.net.ended && !t.net.inPad && t.net.hold == 0 && swNext (ti.entryAt t.net.entry) == 3 && t.core.vq.isEmpty &&
    (List.range 3).all (fun i => (t.thread i).landing.all (fun e => !e.2.waiting))

/-- Do a binding's takes equal its TILES and BYTES (04 R108), all under this binding (06 R161)? -/
def State.takesAgree (s : State) (c : Nat) (takes : Tbl TakeState) (bd : Binding) : Bool :=
  let n := (takesOf takes bd.index).taken
  n == bd.tiles && !(takesOf takes bd.index).foreign && n * streamTileBytes (s.desc c bd.engine bd.desc).image == bd.bytes

/-- A DONE descriptor whose stream tiles are all taken and released becomes FREE (06 R140, R149). -/
def Desc.released (d : Desc) : Desc := if d.st == .done && decide (d.delivered ≤ d.taken) then { d with st := .free } else d

def stepRunEnd (c : Fin 16) (b : Fin 64) (s : State) : State :=
  let x := s.bat c.val b.val
  match x.active with
  | none => s
  | some img =>
    if x.st != .run || !x.endPending || (s.batTiles c.val b.val).any (fun e => x.passDue img (s.tile e.2).test.passIdx) then s
    else
      let ts := s.batTiles c.val b.val
      let bad := ts.filter (fun e => !(s.tile e.2).endsWell (img.tileAt e.1))
      let off := img.bindings.filter (fun bd => !s.takesAgree c.val x.takes bd)
      let s := s.fault c.val b.val
        (bad.map (fun e => { status := St.cycleMismatch, ta := e.2, detail := tileDetail 6 0 0 0, va := 0 }) ++
         off.map (fun bd => { status := St.streamMismatch, ta := s.lowTile c.val b.val, detail := tileDetail 6 0 0 bd.index, va := 0 }))
      if !(s.bat c.val b.val).faults.isEmpty then s.abortDue c.val b.val
      else
        let s := (s.updBat c.val b.val (fun x => { x with st := .commit, endPending := false })).quietTiles c.val b.val
        s.each img.bindings (fun s bd => s.updDesc c.val bd.engine bd.desc Desc.released)

/-- RUN_END (04 R108): the checks of cycle CYCLES - 1, then COMMIT. -/
def execRunEnd (c : Fin 16) (b : Fin 64) (s : State) : Host.Outcome State Fault Refusal := .next (stepRunEnd c b s)

/-! Chimes (11 R266). -/

/-- The cluster whose translation cache serves a partition's queues, and from which its chimes are stored: its lowest (log entry 22). -/
def State.lowCluster (s : State) (p : Nat) : Nat := (s.clustersOf p).headD 0

/-- Where a chime address leads: the device address, or the status that ends the command; a fatal fault is raised here. -/
def State.chimeAt (s : State) (i : CtxId) (va : Nat) (write : Bool) (agent : Nat) : State × Except Nat Nat :=
  match s.translate i va write with
  | (s1, .dev dpa _) => match home dpa with
    | .far _ => (s1, .error St.sourceTier)
    | _ => match s1.reachMem (s1.lowCluster i.part) i agent 0 dpa with
      | (s2, 0) => (s2, .ok dpa)
      | (s2, st) => (s2, .error st)
  | (s1, .host _ _ _) => (s1, .error St.sourceTier)
  | (s1, .err st) => (s1.fatalXlat i st agent 0 va, .error st)

/-- Does a region lock make an access to a chime address wait (04 R107)? -/
def State.chimeLocked (s : State) (i : CtxId) (va : Nat) (write : Bool) : Bool :=
  match (s.translate i va write).2 with
  | .dev dpa _ => s.locked dpa 8 write none
  | _ => false

/-- One 64-bit store at a chime address (11 R266): its status, 0 for done. A poisoned line discards it (07 R179). -/
def State.chimeStore (s : State) (i : CtxId) (va value agent : Nat) : State × Nat :=
  match s.chimeAt i va true agent with
  | (s1, .ok dpa) => if s1.partPoison dpa 8 then (s1.lostNotice dpa 8, 0x70) else (s1.store dpa (leBytes 8 value), 0)
  | (s1, .error st) => (s1, st)

/-- Insertion of a chime record by ORDER. -/
def chInsert (r : BitVec 192) : List (BitVec 192) → List (BitVec 192)
  | [] => [r]
  | q :: rest => if chOrder r ≤ chOrder q then r :: q :: rest else q :: chInsert r rest

/-- The chimes of a section in increasing ORDER (04 R110). -/
def chSort (l : List (BitVec 192)) : List (BitVec 192) := l.foldr chInsert []

/-- Write the chimes of a section: the first status that is not 0, or 0. -/
def State.writeChimes (s : State) (i : CtxId) : List (BitVec 192) → State × Nat
  | [] => (s, 0)
  | r :: rest =>
    match s.chimeStore i (chVa r) (chValue r) 0 with
    | (s1, st) => match s1.writeChimes i rest with
      | (s2, st2) => (s2, if st != 0 then st else st2)

/-- A store of the battery's tiles is still pending (04 R110 step 1). -/
def State.storesPending (s : State) (c b : Nat) : Bool :=
  (s.batTiles c b).any (fun e => (s.tile e.2).ctl.portQ.any (fun o => o.bat == b && (match o.kind with
    | .store _ _ => true
    | _ => false)))

/-- The hand-over buffer a chain section consumes returns to the pool (06 R159): a stream of it waits for the next (06 R160). -/
def State.freeBuffer (s : State) (c b : Nat) (img : SecImage) : State :=
  match s.chainOf c b with
  | some h =>
    if h.pos = 0 then s
    else
      (s.setChain c { h with hoffs := h.hoffs.filter (fun e => e.1 + 1 != h.pos) }).each img.bindings (fun s bd =>
        s.updDesc c bd.engine bd.desc (fun d => { d with hoWait := d.hoWait || (baseHo d.image).1 }))
  | none => s

/-- The muffles that waited for the end of COMMIT (04 R117). -/
def State.muffleWaiting (s : State) (c b : Nat) : State :=
  (s.updBatX c b (fun y => { y with muffles := [] })).each (s.batX c b).muffles State.muffleTile

/-- COMMIT (04 R110): valid bits, locks, chimes in ORDER, the hand-over buffer, the command; then what waited for its end (04 R117). A
chime point in a region that another section has locked waits (04 R107). -/
def State.commitBat (s : State) (c : Fin 16) (b : Fin 64) : State :=
  let x := s.bat c.val b.val
  match x.active, x.owner with
  | some img, some i =>
    if x.st != .commit || s.storesPending c.val b.val then s
    else
      let s := s.each (s.batTiles c.val b.val) (fun s e => s.updTile e.2 (fun t => t.updCtl (fun y =>
        { y with resValid := y.resValid ||| y.resOut })))
      let s := s.updBat c.val b.val (fun y => { y with locks := false, regions := [] })
      if img.chimes.any (fun r => s.chimeLocked i (chVa r) true) then s.bar2Go
      else match s.writeChimes i (chSort img.chimes) with
      | (s, st) =>
        let status := if st = 0 then St.committed else st
        let s := s.freeBuffer c.val b.val img
        let s := (s.endBattery c.val b.val status).finishSection c.val status x.cmd
        ((s.muffleWaiting c.val b.val).pumpBat c.val b.val).resetIfDue i.part i.ctx
  | _, _ => s

/-! Chains (06 R159). -/

def stepSecChain (p : Fin 16) (k : Fin 64) (s : State) : State :=
  match s.fetchedCmd p.val k.val 0 0x03 with
  | none => s
  | some r =>
    let s := s.startCmd r
    let c := bf r.bits 64 4
    let n := bf r.bits 68 2 + 2
    let each := fun (f : Nat → Nat) => (List.range n).map f
    let h : Chain := {
      cmd := r, cluster := c, n, pos := 0
      bats := each (fun j => s.redirect c (bf r.bits (176 + 64 * j) 6))
      vas := each (fun j => bf r.bits (128 + 64 * j) 48)
      ids := each (fun j => bf r.bits (384 + 32 * j) 32)
      hoffs := [], hoDone := [], owner := s.identOf r, stopAsked := false }
    if !(s.clY c).ready then s.complete r stNotReady 0
    else
      let b := h.bats.getD 0 0
      let s := s.updCl c (fun x => { x with chains := x.chains ++ [h] })
      s.reach c b r

/-- SEC_CHAIN (06 R159): the sections load and run in order. -/
def execSecChain (p : Fin 16) (k : Fin 64) (s : State) : Host.Outcome State Fault Refusal := .next (stepSecChain p k s)

/-- Is a range of cluster memory wholly in slices of hand-over mode? -/
def State.inPool (s : State) (c off len : Nat) : Bool :=
  (List.range ((off + len + 0xFFFFF) / 0x100000 - off / 0x100000)).all (fun n =>
    let sl := off / 0x100000 + n
    decide (sl < 64) && (match s.physOf c sl with
      | some ph => (s.slice c ph).mode == 2
      | none => false))

/-- Room for a buffer in the hand-over pool of a cluster (log entry 12): the lowest 64 KiB frame at which it fits. -/
def State.poolRoom (s : State) (c len : Nat) : Option Nat :=
  let used := (s.cl c).chains.flatMap (fun h => h.hoffs.map (·.2))
  let base := 0x40000000000 + c * 0x8000000
  ((List.range 1024).find? (fun f =>
    s.inPool c (f * 0x10000) len && used.all (fun u => !overlaps u.1 u.2 (base + f * 0x10000) len))).map
    (fun f => base + f * 0x10000)

/-- The frames of a buffer last used by another context are zeroed, and all take the context's tag (06 R159). -/
def State.takeBuffer (s : State) (base len : Nat) (i : CtxId) : State :=
  s.each (List.range ((len + 0xFFFF) / 0x10000)) (fun s n =>
    let a := base + n * 0x10000
    if s.tag a == some i then s else s.takeFrame a i)

def stepHandoverAllocate (c : Fin 16) (b : Fin 64) (s : State) : State :=
  let x := s.bat c.val b.val
  match x.active, x.owner, s.chainOf c.val b.val with
  | some img, some i, some h =>
    if x.st == .arm && !x.armOk && x.waitLock && s.needsBuffer c.val b.val img then
      let len := ((img.regions.filter (fun r => regKind r == 2 && regHo r == h.pos)).map regLen).foldl max 0
      match s.poolRoom c.val len with
      | none => s
      | some base =>
        let s := s.takeBuffer base len i
        let s := s.setChain c.val { h with hoffs := tset h.hoffs h.pos (base, len) }
        let s := s.updBat c.val b.val (fun y => { y with waitLock := false })
        (s.armChecks c.val b.val).pumpBat c.val b.val
    else s
  | _, _, _ => s

/-- HANDOVER_ALLOCATE (06 R159): a buffer of the pool for the producer's output; without room its ARM waits. -/
def execHandoverAllocate (c : Fin 16) (b : Fin 64) (s : State) : Host.Outcome State Fault Refusal :=
  .next (stepHandoverAllocate c b s)

end Sys2Proof.Machine
end

