-- ==== Sys2Proof/Machine/Memory.lean ====
section
/-! DEFINITION. Memory events: crossbar accesses at a slice, ECC and check bytes, the stream-cache, frames, slices, lost data
(07 R169-R186, 15 R364). -/
namespace Sys2Proof.Machine

/-! Errors (07 R178). -/

/-- The ledger unit of an address: kind and index (13 R318); none if nothing is mapped. -/
def State.unitAt (s : State) (dpa : Nat) : Option (Nat × Nat) :=
  match home dpa with
  | .hbm _ ch => some (6, ch)
  | .far f => some (7, f)
  | .cm c sl => (s.physOf c sl).map (fun ph => (3, 66 * c + ph))
  | .unmapped => none

/-- Status codes written as LAST_CAUSE (13 R315). -/
def causeThreshold : Nat := 0xB9
def causeMirror : Nat := 0xBA
def causeLost : Nat := 0x70

/-- A single-bit error is corrected and counted; 16 in one hour are a confirmed error (07 R178). -/
def State.corrected (s : State) (dpa : Nat) : State :=
  match s.unitAt dpa with
  | none => s
  | some (kind, ix) =>
    let s := if kind = 3 then s.updSlice (ix / 66) (ix % 66) (fun x => { x with corrected := satAdd 12 x.corrected 1 })
      else s.updChan (if kind = 6 then ix else 192 + ix) (fun x => { x with corrected := satAdd 8 x.corrected 1 })
    let w := hourWindow s.ledger.opSec (tget s.mem.sbe (4096 * kind + ix) [])
    let s := { s with mem := { s.mem with sbe := tset s.mem.sbe (4096 * kind + ix) w.1 } }
    if w.2 then s.confirm kind ix 2 causeThreshold else s

/-- Is there a mirror copy to repair from (07 R173): a pair, neither copy being rebuilt? -/
def State.mirrored (s : State) (dpa : Nat) : Bool :=
  match home dpa with
  | .cm c sl => match s.physOf c sl with
    | some ph =>
      let x := s.slice c ph
      x.mirror && x.st == 0 && (match s.physOf c x.partner with
        | some q => (s.slice c q).st == 0 && (s.slice c q).mirror
        | none => false)
    | none => false
  | _ => false

/-- An uncorrectable error (07 R178): repaired from the mirror, or the line is lost; a confirmed error either way. -/
def State.uncorrectable (s : State) (dpa : Nat) : State :=
  let mend := s.mirrored dpa
  let u := s.unitAt dpa
  let s := if mend then s else s.declareLost (dpa / 64 * 64) 64
  match u with
  | some (kind, ix) => s.confirm kind ix 2 (if mend then causeMirror else causeLost)
  | none => s

/-- What ECC finds on an access; log entry 72. -/
def State.eccEvent (s : State) (dpa : Nat) : Ecc → State
  | .clean => s
  | .single => s.corrected dpa
  | .uncorrectable => s.uncorrectable dpa

/-! Crossbar accesses of tiles (02 R48, 07 R180-R182). -/

def PortOp.isStore (o : PortOp) : Bool :=
  match o.kind with
  | .store _ _ => true
  | _ => false
def PortOp.isFence (o : PortOp) : Bool := o.kind == .fence
def PortOp.isLoad (o : PortOp) : Bool :=
  match o.kind with
  | .load _ _ => true
  | _ => false
def PortOp.thread (o : PortOp) : Nat :=
  match o.kind with
  | .load t _ => t
  | .store t _ => t
  | .fence => 4

/-- May an access be performed before the entries queued ahead of it (07 R181)? -/
def mayPerform (before : List PortOp) (o : PortOp) : Bool :=
  if o.isFence then !before.any PortOp.isStore
  else if o.isStore then
    !before.any (fun e => e.thread == o.thread && (e.isStore || (e.isLoad && e.done.isNone)))
  else o.done.isNone && !before.any (fun e => e.isFence || (e.thread == o.thread && e.isLoad && e.done.isNone))

/-- The bytes of a load: memory, with the thread's own earlier stores that are still pending (07 R182). -/
def State.loadSees (s : State) (before : List PortOp) (o : PortOp) : Nat :=
  let m := before.foldl (fun (m : Mem) e => match e.kind with
    | .store t v => if t == o.thread then mwriteBytes m e.dpa (leBytes e.bytes v) else m
    | _ => m) (mslice s.mem.bytes o.dpa o.bytes o.dpa)
  mread m o.dpa o.bytes

/-- The RUN section of the access aborts with RESIDENT_LOST (07 R179); outside RUN only the notice is raised. -/
def State.lostAccess (s : State) (ta : Nat) (o : PortOp) : State :=
  let c := taC ta
  if (s.bat c o.bat).st == .run then s.faultOn ta o.bat [0x70] (tileDetail o.thread 0 0 0) o.va else s.lostNotice o.dpa o.bytes

/-! The crossbar's arbitration (07 R169). The requesters are 16y + x for a tile and 272 + e for a stream engine. -/

/-- A tile's arbitration index. -/
def xbarIndex (ta : Nat) : Nat := 16 * taY ta + taX ta

/-- Is a requester the first after the last winner, among those that ask with it?; log entry 53. -/
def xbarWins (last i : Nat) (rivals : List (Fin 276)) : Bool :=
  rivals.all (fun r => decide ((i + 275 - last) % 276 ≤ (r.val + 275 - last) % 276))

/-- The last winner at the slice that serves a line; 275 before the first, so that the round begins at index 0. -/
def State.xbarLast (s : State) (dpa : Nat) : Nat :=
  match home dpa with
  | .cm c sl => tget (s.cl c).lastWin ((s.physOf c sl).getD sl) 275
  | _ => 275

/-- A requester wins at the slice that serves a line. -/
def State.xbarWon (s : State) (i dpa : Nat) : State :=
  match home dpa with
  | .cm c sl => s.updCl c (fun x => { x with lastWin := tset x.lastWin ((s.physOf c sl).getD sl) i })
  | _ => s

/-- The lines of 64 bytes of ranges that lie in the cluster memory of a cluster. -/
def ownLines (c : Nat) (l : List (Nat × Nat)) : List Nat :=
  (l.flatMap (fun r => (List.range ((r.1 + r.2 + 63) / 64 - r.1 / 64)).map (fun n => (r.1 / 64 + n) * 64))).filter (fun a =>
    match home a with
    | .cm c' _ => c' == c
    | _ => false)

/-- The logical slice of an address in cluster memory. -/
def sliceOf (dpa : Nat) : Nat := (dpa - 0x40000000000) % 0x8000000 / 0x100000

/-- Does a stream engine win the arbitration at every slice of its cluster that it accesses, against the rivals that ask there in the same
cycle (07 R169)? A rival is a logical slice and a requester. -/
def State.engineWins (s : State) (c e : Nat) (l : List (Nat × Nat)) (rivals : List (Fin 64 × Fin 276)) : Bool :=
  (ownLines c l).all (fun a => match (272 + e : Nat) with
    | i => xbarWins (s.xbarLast a) i ((rivals.filter (fun r => r.1.val == sliceOf a)).map (·.2)))

/-- A stream engine wins at each 64-byte line of the ranges that its own cluster holds. -/
def State.engineWon (s : State) (c e : Nat) (l : List (Nat × Nat)) : State := (ownLines c l).foldl (fun s a => s.xbarWon (272 + e) a) s

/-- The slice's port that refuses the key of a tile's access, with the context (10 R243). -/
def State.portRefuses (s : State) (c : Nat) (o : PortOp) : Option (CtxId × UnitPort) :=
  match (s.bat c o.bat).owner, home o.dpa with
  | some i, .cm c' sl =>
    let u := UnitPort.slice c' ((s.physOf c' sl).getD sl)
    if s.unitAdmits u (s.keyOf i.part) then none else some (i, u)
  | _, _ => none

/-- Entry idx of the tile's crossbar port is performed at its slice if the tile wins there against the rivals, the other requesters that ask
in the same cycle. -/
def State.portAccess (t : TileId) (idx : Nat) (ecc : Ecc) (rivals : List (Fin 276)) (s : State) : State :=
  let ta := tileKey t
  let q := (s.tile ta).ctl.portQ
  match q[idx]? with
  | none => s
  | some o =>
    let drop := fun (s : State) => s.updTile ta (fun t => t.updCtl (fun x => { x with portQ := x.portQ.eraseIdx idx }))
    if !mayPerform (q.take idx) o then s
    else if o.isFence then drop s
    else if s.locked o.dpa o.bytes o.isStore (some (bKey (taC ta) o.bat)) then s
    else if !xbarWins (s.xbarLast o.dpa) (xbarIndex ta) rivals then s
    else match s.portRefuses (taC ta) o with
    | some (i, u) => (drop s).keyFault u.code.1 u.code.2 (s.keyOf i.part) (some i) 1 ta (taC ta)
    | none =>
      let s := (s.xbarWon (xbarIndex ta) o.dpa).eccEvent o.dpa ecc
      match o.kind with
      | .store _ v =>
        if s.partPoison o.dpa o.bytes then (drop s).lostAccess ta o
        else (drop s).store o.dpa (leBytes o.bytes v)
      | _ =>
        if s.poisoned o.dpa o.bytes then (drop s).lostAccess ta o
        else
          let v := s.loadSees (q.take idx) o
          s.updTile ta (fun t => t.updCtl (fun x => { x with portQ := x.portQ.set idx { o with done := some v } }))

def stepSliceAccess (who : Option TileId) (n : Nat) (ecc : Ecc) (rivals : List (Fin 276)) (s : State) : State :=
  match who with
  | some t => s.portAccess t n ecc rivals
  | none => s.eccEvent n ecc

/-- SLICE_ACCESS (07 R169, R173, R178-R182, 04 R107): an access of a tile; or what ECC finds when another agent reads a line, which
precedes what that agent's own command makes of the line. -/
def execSliceAccess (who : Option TileId) (n : Nat) (ecc : Ecc) (rivals : List (Fin 276)) (s : State) : Host.Outcome State Fault Refusal :=
  .next (stepSliceAccess who n ecc rivals s)

/-! The stream-cache (07 R171). -/

/-- The stream-cache slices of a cluster, in order of logical slice. -/
def State.cacheSlices (s : State) (c : Nat) : List Nat :=
  (List.range 64).filter (fun sl => match s.physOf c sl with
    | some ph => (s.slice c ph).mode == 1
    | none => false)

/-- The place of a line: the slice at A mod n, as its logical slice, and set (A div n) mod 256 (07 R171). -/
def cacheSet (l : List Nat) (a : Nat) : Nat := l.getD (a % l.length) 0 * 256 + a / l.length % 256

/-- Does a cluster's cache hold a sector, at the place where the line now belongs? -/
def State.cacheLook (s : State) (c a : Nat) : Bool :=
  let set := cacheSet (s.cacheSlices c) (a / 256)
  (s.cl c).cache.any (fun l => l.line == a / 256 && l.set == set && l.sectors.testBit (a / 32 % 8))

/-- Is an address one that the stream-cache may hold: HBM or far tier (07 R170, R171)? -/
def cacheHome (dpa : Nat) : Bool :=
  match home dpa with
  | .hbm _ _ => true
  | .far _ => true
  | _ => false

/-- A stream engine reads the sectors of a cacheable page (07 R171): hits are counted and aged, misses are to be fetched. -/
def State.cacheRead (s : State) (c : Nat) (addrs : List Nat) : State :=
  if (s.cacheSlices c).isEmpty then s
  else s.each (addrs.filter cacheHome) (fun s a =>
    if s.cacheLook c a then s.updCl c (fun x => { x with
      hits := wrapAdd 32 x.hits 1
      cacheStamp := x.cacheStamp + 1
      cache := x.cache.map (fun l => if l.line == a / 256 then { l with stamp := x.cacheStamp } else l) })
    else s.updCl c (fun x => { x with fills := if x.fills.contains a then x.fills else x.fills ++ [a] }))

/-- Install a sector, replacing the least recently used line of its set (07 R171). -/
def install (sls : List Nat) (stamp a : Nat) (l : List CacheLine) : List CacheLine :=
  let set := cacheSet sls (a / 256)
  let l := l.filter (fun x => x.line != a / 256 || x.set == set)
  if l.any (fun x => x.line == a / 256) then
    l.map (fun x => if x.line == a / 256 then { x with sectors := x.sectors ||| 2 ^ (a / 32 % 8), stamp } else x)
  else
    let ways := l.filter (fun x => x.set == set)
    let oldest := ways.foldl (fun m x => min m x.stamp) stamp
    let l := if ways.length < 16 then l else l.filter (fun x => !(x.set == set && x.stamp == oldest))
    l ++ [{ set, line := a / 256, sectors := 2 ^ (a / 32 % 8), stamp }]

def stepStreamCacheFill (c : Fin 16) (dpa : Nat) (ecc : Ecc) (s : State) : State :=
  let sls := s.cacheSlices c.val
  if !(s.cl c.val).fills.contains dpa then s
  else
    let s := s.eccEvent dpa ecc
    let s := s.updCl c.val (fun x => { x with fills := x.fills.erase dpa })
    if sls.isEmpty || s.poisoned dpa 32 then s
    else s.updCl c.val (fun x => { x with
      misses := wrapAdd 32 x.misses 1, cacheStamp := x.cacheStamp + 1, cache := install sls x.cacheStamp dpa x.cache })

/-- STREAM_CACHE_FILL (07 R171, R184). -/
def execStreamCacheFill (c : Fin 16) (dpa : Nat) (ecc : Ecc) (s : State) : Host.Outcome State Fault Refusal :=
  .next (stepStreamCacheFill c dpa ecc s)

/-! Frames (07 R175, R176). -/

/-- Does a held region lock, an open combining queue (09 R219) or a ring buffer (19 R443) cover a frame? -/
def State.frameLocked (s : State) (dpa : Nat) : Bool :=
  s.bats.any (fun e => e.2.locks && e.2.regions.any (fun r => overlaps r.dpa r.len (frameBase dpa) (frameSize dpa))) ||
    s.msg.comb.any (fun e => e.2.st != 0 &&
      (e.2.target ++ e.2.staging).any (fun r => overlaps r.1 r.2 (frameBase dpa) (frameSize dpa))) ||
    s.ring.jobs.any (fun j => (j.src ++ j.dst).any (fun r => overlaps r.1 r.2 (frameBase dpa) (frameSize dpa)))

/-- Return a frame to free. -/
def State.untag (s : State) (dpa : Nat) : State := { s with mem := { s.mem with tags := tdel s.mem.tags (frameBase dpa) } }

def stepFrameFree (fn : Fn) (p : Fin 16) (val : Dword) (s : State) : State :=
  let off := offP p.val 0x20
  let dpa := bf val 16 27 * 0x10000
  if !s.ownsP fn p.val then s.refuseP fn p.val off 2 val.toNat
  else if s.resetting p.val || (s.part p.val).frameBusy then s.refuseP fn p.val off 3 val.toNat
  else
    let s := s.updPart p.val (fun x => { x with frame := dpa })
    match s.tag dpa with
    | none => s
    | some i =>
      if i.part != p.val then s.refuseP fn p.val off 3 val.toNat
      else if s.frameLocked dpa then s.updPart p.val (fun x => { x with frameBusy := true })
      else s.untag dpa

/-- FRAME_FREE (07 R176, R186): a write of PTN_FRAME_FREE. -/
def execFrameFree (fn : Fn) (p : Fin 16) (val : Dword) (s : State) : Host.Outcome State Fault Refusal :=
  .next (stepFrameFree fn p val (s.unlatch fn))

def stepFrameRelease (p : Fin 16) (s : State) : State :=
  let x := s.part p.val
  if x.frameBusy && !s.frameLocked x.frame then
    let s := s.updPart p.val (fun x => { x with frameBusy := false })
    match s.tag x.frame with
    | some i => if i.part == p.val then s.untag x.frame else s
    | none => s
  else s

/-- FRAME_RELEASE (07 R176): the lock over the frame has ended. -/
def execFrameRelease (p : Fin 16) (s : State) : Host.Outcome State Fault Refusal := .next (stepFrameRelease p s)

/-! Check bytes (07 R177, R178). -/

/-- Does an address lie in memory that carries check bytes? -/
def hasCheck (dpa : Nat) : Bool :=
  match home dpa with
  | .hbm _ _ => true
  | .far _ => true
  | _ => false

def stepCheckByteMismatch (c : Fin 16) (dpa : Nat) (data : BitVec 256) (chk : BitVec 16) (s : State) : State :=
  let g := dpa / 32 * 32
  if hasCheck g && chk != checkBytes g data && !s.mem.mismatch.contains (16 * g + c.val) then
    { s with mem := { s.mem with mismatch := s.mem.mismatch ++ [16 * g + c.val] } }
  else s

/-- CHECK_BYTE_MISMATCH (07 R177, R178): the data and check bytes that a reader of cluster c receives for a granule do not agree; the read of
the granule retries once. -/
def execCheckByteMismatch (c : Fin 16) (read : GranuleRead) (s : State) : Host.Outcome State Fault Refusal :=
  .next (stepCheckByteMismatch c read.dpa read.got.data read.got.chk s)

def stepCheckByteRetry (c : Fin 16) (dpa : Nat) (data : BitVec 256) (chk : BitVec 16) (s : State) : State :=
  let g := dpa / 32 * 32
  if !s.mem.mismatch.contains (16 * g + c.val) then s
  else
    let s := { s with mem := { s.mem with mismatch := s.mem.mismatch.erase (16 * g + c.val) } }
    match s.unitAt g with
    | none => s
    | some (kind, ix) =>
      if chk == checkBytes g data then s.updChan (if kind = 6 then ix else 192 + ix) (fun x => { x with mismatch := satAdd 8 x.mismatch 1 })
      else (s.declareLost g 32).confirm kind ix 2 causeLost

/-- CHECK_BYTE_RETRY (07 R177, R178): the retry matches and is counted, or the granule is lost. -/
def execCheckByteRetry (c : Fin 16) (dpa : Nat) (got : Checked) (s : State) : Host.Outcome State Fault Refusal :=
  .next (stepCheckByteRetry c dpa got.data got.chk s)

/-! Slices (07 R174). -/

def stepSliceFailure (c : Fin 16) (phys : Nat) (s : State) : State := if phys < 66 then s.failSlice c.val phys else s

/-- SLICE_FAILURE (07 R174). -/
def execSliceFailure (c : Fin 16) (phys : Nat) (s : State) : Host.Outcome State Fault Refusal :=
  .next (stepSliceFailure c phys s)

def stepMirrorRebuildComplete (c : Fin 16) (phys : Nat) (s : State) : State :=
  if (s.cl c.val).mirrorBusy.contains phys && (s.slice c.val phys).st == 2 then
    (s.updCl c.val (fun x => { x with mirrorBusy := x.mirrorBusy.erase phys })).updSlice c.val phys (fun x => { x with st := 0 })
  else s

/-- MIRROR_REBUILD_COMPLETE (07 R174). -/
def execMirrorRebuildComplete (c : Fin 16) (phys : Nat) (s : State) : Host.Outcome State Fault Refusal :=
  .next (stepMirrorRebuildComplete c phys s)

/-! The walk for lost data (15 R364). -/

/-- The RESIDENT_LOST records of a context for its lost ranges, 11 to a record (15 R364). -/
def State.lostRecords (s : State) (i : CtxId) (noVa : Bool) : Nat → List (Nat × Nat × Nat) → State
  | 0, _ => s
  | fuel + 1, l =>
    if l.isEmpty then s
    else
      (s.raise { FaultRec.of 0x70 5 with
        ctx := some i, part := some i.part, detail := lostDetail (l.take 11) noVa (decide (11 < l.length)) }).lostRecords
        i noVa fuel (l.drop 11)

def stepResidentLostWalk (p : Fin 16) (k : Fin 64) (s : State) : State :=
  let i := s.ident p.val k.val
  if s.compDown 37 then s
  else match s.mem.frameWait.find? (fun e => e.1 == kKey p.val k.val) with
  | none => s
  | some e =>
    let s := { s with mem := { s.mem with frameWait := s.mem.frameWait.erase e } }
    match s.mem.lostDpas[e.2]? with
    | none => s
    | some (dpa, len) =>
      let root := (s.ctx p.val k.val).xlat.root * 2 ^ 21
      let l := s.leavesTo p.val dpa len 3 1 root 0
      if l.isEmpty then s.lostRecords i true 1 [(dpa, 0, len)] else s.lostRecords i false l.length l

/-- RESIDENT_LOST_WALK (15 R364, 07 R179): the scheduler core walks a context's tables for a loss and sends the records, once
its recovery component is up (18 R414). -/
def execResidentLostWalk (p : Fin 16) (k : Fin 64) (s : State) : Host.Outcome State Fault Refusal :=
  .next (stepResidentLostWalk p k s)

/-! Refresh (07 R167, R168). -/

def stepRefresh (_chan : Nat) (s : State) : State := s

/-- REFRESH (07 R167, R168): a refresh only delays the accesses of its channel; the model counts no memory time (log entry 5). -/
def execRefresh (chan : Nat) (s : State) : Host.Outcome State Fault Refusal := .next (stepRefresh chan s)

end Sys2Proof.Machine
end

