-- ==== Sys2Proof/Machine/HostX.lean ====
section
/-! DEFINITION. Translation for agents: the translation cache of a cluster, host pages through ATS, page requests (08 R190-R197). -/
namespace Sys2Proof.Machine

/-! The translation cache (08 R191). -/

/-- The cached leaf that covers a VA of a context in a cluster. -/
def State.tlbLook (s : State) (c : Nat) (i : CtxId) (va : Nat) : Option TlbEntry :=
  (s.cl c).tlb.find? (fun t => t.ctx == i && t.va == va / 2 ^ t.size * 2 ^ t.size)

/-- The level of a page size. -/
def levelOf (size : Nat) : Nat := if size = 30 then 1 else if size = 21 then 2 else 3

/-- A translation by a leaf: the DPA check and the frame tag (08 R190, 07 R176). -/
def State.byLeaf (s : State) (i : CtxId) (r : XRes) : State × XRes :=
  match r with
  | .dev dpa cch => match s.dpaStatus i.part dpa with
    | some st => (s, .err st)
    | none => match s.tagCheck dpa i with
      | .admits => (s, .dev dpa cch)
      | .fill => (s.takeFrame dpa i, .dev dpa cch)
      | .owned => (s, .err 0x71)
  | r => (s, r)

/-- A translation by an agent of a cluster: where an entry is cached, the old or the new entry is used (08 R191: a free
choice, log entry 4); else the tables are walked. Without ENABLE every translation fails (08 R187). -/
def State.translateC (s : State) (c : Nat) (i : CtxId) (va : Nat) (write : Bool) : State × XRes :=
  match (if (s.ctx i.part i.ctx).xlat.enable && decide (va < 2 ^ 48) then s.tlbLook c i va else none) with
  | some t =>
    if s.freeVal 1 == 1 then (s.drew 1).byLeaf i (leafCheck t.leaf.toNat (levelOf t.size) va write)
    else (s.drew 1).translate i va write
  | none => s.translate i va write

/-! Host pages (08 R194). -/

/-- The PASID that host requests of a context carry, if any (08 R194, R205). -/
def State.pasidOf (s : State) (i : CtxId) : Option Nat :=
  let x := (s.ctx i.part i.ctx).xlat
  if x.pasidEn then some x.pasid else none

/-- The ATC entry that covers a host untranslated address of a context (08 R194). -/
def State.atcLook (s : State) (i : CtxId) (hua : Nat) : Option AtcEntry :=
  (s.port (s.hostPort i)).atc.find? (fun e => e.ctx == i && e.pasid == s.pasidOf i && e.va == hua / 2 ^ e.size * 2 ^ e.size)

/-- What an agent gets for a host page: its translated address, or it waits for the completion. -/
inductive HostRes where
  | ok (hpa : Nat)
  | wait
  deriving DecidableEq, Repr

/-- Translate a host page: from the ATC, or by a Translation Request that is sent once (08 R194, R196); `page` is the size of its device
page as log2. -/
def State.hostPage (s : State) (i : CtxId) (c : Nat) (agent : XAgent) (elem va hua page : Nat) (write : Bool) : State × HostRes :=
  let ask :=
    let port := s.hostPort i
    let pasid := s.pasidOf i
    let x := s.port port
    if x.reqs.any (fun r => !r.prg && r.ctx == i && r.agent == agent && r.elem == elem && r.hua / 4096 == hua / 4096 && r.write == write)
    then s
    else
      (s.updPort port (fun x => { x with
        nextReq := x.nextReq + 1
        reqs := x.reqs ++ [{ idx := x.nextReq, ctx := i, cluster := c, agent, elem, va, hua, page, pasid, write, prg := false,
                             waiting := false, stale := false }] })).emit
        (.atsRequest port x.nextReq (hua / 4096 * 4096) pasid write)
  match s.atcLook i hua with
  | some e => if write && !e.write then (ask, .wait) else (s, .ok (e.hpa + (hua - e.va)))
  | none => (ask, .wait)

/-- Page requests in use at a port (08 R196). -/
def Port.prgUsed (x : Port) : List Nat := (x.reqs.filter (fun r => r.prg && !r.waiting)).map (·.idx)

/-- The lowest free PRG index of the 512 of a port, if any. -/
def Port.prgFree (x : Port) : Option Nat := (List.range 512).find? (fun n => !x.prgUsed.contains n)

/-- The message of a page request (08 R196): one Page Request, with R and W set to the access and the Last flag. -/
def HostReq.message (r : HostReq) (port idx : Nat) : OutEvent :=
  .pageRequest port idx (r.hua / 4096 * 4096) r.pasid (!r.write) r.write true

/-- Send a page request, or let it wait for an index behind those that wait already (08 R196). -/
def State.sendPrg (s : State) (i : CtxId) (c : Nat) (agent : XAgent) (elem va hua : Nat) (write : Bool) : State :=
  let port := s.hostPort i
  let r : HostReq := { idx := 0, ctx := i, cluster := c, agent, elem, va, hua, page := 16, pasid := s.pasidOf i, write, prg := true,
                       waiting := true, stale := false }
  let x := s.port port
  match (if x.reqs.any (fun q => q.prg && q.waiting) then none else x.prgFree) with
  | some n => (s.updPort port (fun x => { x with reqs := x.reqs ++ [{ r with idx := n, waiting := false }] })).emit (r.message port n)
  | none => s.updPort port (fun x => { x with reqs := x.reqs ++ [r] })

/-- Drop the ATC entries that cover a host page (08 R196). -/
def State.atcDrop (s : State) (i : CtxId) (hua : Nat) : State :=
  s.updPort (s.hostPort i) (fun x => { x with atc := x.atc.filter (fun e => !(e.ctx == i && e.va == hua / 2 ^ e.size * 2 ^ e.size)) })

end Sys2Proof.Machine
end

