-- ==== Sys2Proof/Machine/Stream.lean ====
section
/-! DEFINITION. Stream engines: descriptors, elements, lookahead, rewinds, host faults and resume (06, 05 R126-R129, 08 R198-R201). -/
namespace Sys2Proof.Machine

/-! Positions in a run of a program: elements are numbered from 0 at the last STREAM or STREAM_REARM. -/

def Desc.te (d : Desc) : Nat := tileElems d.image
/-- Stream tiles of the run (06 R141; 05 R126: MAX_ITEMS for a varying rate). -/
def Desc.tiles (d : Desc) : Nat :=
  match d.counts with
  | _ :: max_ :: _ => max_
  | _ => elemCount d.image / d.te
/-- Stream tiles of the run that are complete. -/
def Desc.runTile (d : Desc) : Nat := d.delivered - d.seq0
/-- The lowest element not complete (06 R146). -/
def Desc.lowest (d : Desc) : Nat :=
  let b := d.runTile * d.te
  ((List.range d.te).find? (fun k => !d.doneEl.contains (b + k))).map (fun k => b + k) |>.getD (b + d.te)
/-- A run of a descriptor's program has `tiles` stream tiles; the program's element for an element of it, none for an item that is empty
(05 R126). -/
def Desc.progElem (d : Desc) (n : Nat) : Option Nat :=
  match d.counts with
  | cap :: max_ :: cs => ((vrItems cap max_ cs)[n / d.te]?).map (fun t => t * d.te + n % d.te)
  | _ => some n
/-- Is an element within the window of 06 R146, and not yet translated? -/
def Desc.inWindow (d : Desc) (n : Nat) : Bool :=
  let b := d.runTile * d.te
  decide (b ≤ n) && decide (n < b + d.te) && decide (n < d.lowest + 64) && decide (n ≤ d.next) && decide (d.runTile < d.tiles) &&
    !d.issued.contains n && !d.doneEl.contains n
/-- May the stream tile begin (06 R149)? -/
def Desc.slotFree (d : Desc) : Bool := !descSlot d.image || decide (d.delivered < d.taken + bf d.image 8 4)

/-- ACTIVE descriptors of an engine (06 R136, R138). -/
def State.activeCount (s : State) (c e : Nat) : Nat := ((List.range 16).filter (fun d => (s.desc c e d).st == .active)).length

/-! Starting (06 R137, R138). -/

/-- The varying-rate binding of a loaded or active image of the battery that names a descriptor (05 R125; log entry 14). -/
def State.vrBinding (s : State) (c b e d : Nat) : Option Binding :=
  let x := s.bat c b
  let of := fun (i : Option SecImage) => i.bind (fun img => img.bindings.find? (fun bd => bd.engine == e && bd.desc == d && bd.varying))
  (of x.loadImg).orElse (fun _ => (of x.shadow).orElse (fun _ => of x.active))

/-- Split a little-endian number into 32-bit words. -/
def words32 : Nat → Nat → List Nat
  | 0, _ => []
  | n + 1, v => v % 2 ^ 32 :: words32 n (v / 2 ^ 32)

/-- Do count words lie in the far tier, as no element of a SLOT stream may (05 R126, 06 R151)? -/
def State.farCounts (s : State) (i : CtxId) (bd : Binding) : Bool :=
  match s.resolve i bd.countAddr false with
  | .dev dpa _ => (match home dpa with
    | .far _ => true
    | _ => false)
  | _ => false

/-- The count read of a varying-rate transfer, with its drops if they are to be counted (05 R126, R129), when STREAM or STREAM_REARM takes effect: log entry 102. A
failed read is a fault of the first element. -/
def State.readCounts (s : State) (c e d : Nat) (i : CtxId) (count : Bool) : State :=
  let x := s.desc c e d
  match (if descSlot x.image then s.vrBinding c x.bat e d else none) with
  | none => s
  | some bd =>
    if s.farCounts i bd then
      ((s.updDesc c e d (fun z => { z with isPartial := true })).stopDesc (dKey c e d) St.sourceTier).partialEnds c
    else
    match s.readVa i 4 bd.countAddr (4 * bd.segments) with
    | (s1, .error y) =>
      if y.fatal then s1.fatalXlat i y.status 2 c y.va
      else if y.status == St.sourceTier then
        ((s1.updDesc c e d (fun z => { z with isPartial := true })).stopDesc (dKey c e d) y.status).partialEnds c
      else s1.stopDesc (dKey c e d) y.status
    | (s1, .ok bs) =>
      let cs := words32 bd.segments (leNat bs)
      let s2 := s1.updDesc c e d (fun y => { y with
        runs := y.runs.dropLast ++ (y.runs.getLast?.toList.map (fun r => { r with counts := bd.segCap :: bd.tiles :: cs })) })
      let n := vrDropped bd.segCap bd.tiles cs
      if n = 0 || !count then s2
      else s2.updBatX c x.bat (fun y => { y with
        drops := satAdd 24 y.drops n, ovf := true, lastSeg := vrLostSeg bd.segCap bd.tiles cs })

/-- Is a destination tile of a SLOT image muffled as the transfer starts (06 R155)? -/
def State.muffledDest (s : State) (c b : Nat) (m : BitVec 1536) : Bool :=
  descSlot m && (s.batTiles c b).any (fun e => s.muffledTile e.2 && descNames m (e.1 % 16) (e.1 / 16))

/-- A descriptor becomes ACTIVE with an image (06 R137, R140); with a resume record it starts at the record's position
(08 R201). -/
def State.activate (s : State) (c e d : Nat) (r : CmdRef) (m : BitVec 1536) (rec_ : Option (BitVec 1024)) : State :=
  let i := s.identOf r
  let b := baseOf m
  let te := tileElems m
  let done := match rec_ with
    | some v => bf v 296 24
    | none => 0
  let doneEl := match rec_ with
    | some v => (bitsOf te (bf v 512 512)).map (fun k => done * te + k)
    | none => []
  let next := match rec_ with
    | some v => done * te + bf v 320 9
    | none => 0
  let bat := s.redirect c (bf m 12 6)
  let s := s.setDesc c e d { Desc.reset with
    st := .active, image := m, owner := some i, ctx := i.ctx, cmd := some r, cluster := c, bat
    runs := [{ seq0 := 0, base := b.2.2, counts := [] }], dst := bf m 64 48, doneEl, next, delivered := done
    isPartial := s.muffledDest c bat m, hoWait := (baseHo m).1 }
  let s := s.updDescX c e d (fun _ => DescX.reset)
  s.readCounts c e d i true

/-- The runs of a descriptor that a rewind may still reach (06 R152): those from the start point of a section in RUN, or the lowest stream
tile not taken, on. -/
def State.runsKept (s : State) (c e d : Nat) : List StreamRun :=
  let x := s.desc c e d
  let starts := (s.bats.filter (fun y => y.1 / 64 == c && y.2.st == .run)).flatMap (fun y =>
    match y.2.active with
    | some img => (img.bindings.filter (fun o => o.engine == e && o.desc == d)).map (fun o => (takesOf y.2.takes o.index).start)
    | none => [])
  let low := (x.runOf (starts.foldl min x.taken)).seq0
  x.runs.filter (fun r => decide (low ≤ r.seq0))

/-- STREAM_REARM takes effect (06 R157): a new run of the program, whose stream tiles follow those delivered. -/
def State.rearm (s : State) (c e d : Nat) (r : CmdRef) : State :=
  let old := s.runsKept c e d
  let s := s.updDesc c e d (fun x => { x with
    st := .active, cmd := some r, runs := old ++ [{ seq0 := x.delivered, base := bf r.bits 128 48, counts := [] }]
    dst := if descSlot x.image then x.dst else bf r.bits 192 48
    issued := [], doneEl := [], next := 0, isPartial := s.muffledDest c x.bat x.image, rewound := false
    hoWait := (baseHo x.image).1 })
  let s := s.updDescX c e d (fun x => { x with
    engWait := false, record := none, recordDue := false, stopStatus := 0, faulted := [], uses := [], transit := [], writes := [] })
  s.readCounts c e d (s.identOf r) true

/-- A stopped descriptor goes on from where it stopped (08 R201, 11 R271): no complete element is issued again. -/
def State.resumeDesc (s : State) (c e d : Nat) : State :=
  let s := s.updDesc c e d (fun x => { x with st := .active, issued := [], next := x.lowest })
  s.updDescX c e d (fun x => { x with
    engWait := false, record := none, recordDue := false, stopStatus := 0, faulted := [], uses := [], transit := [], writes := [] })

/-- A command or resume that would make a descriptor ACTIVE: at once, or it waits for a slot of the engine (06 R138). -/
def State.enterActive (s : State) (c e d kind : Nat) (r : Option CmdRef) (m : BitVec 1536) (rec_ : Option (BitVec 1024)) : State :=
  if s.activeCount c e < 8 && !(s.cl c).engWait.any (fun w => w.engine == e) then
    match kind, r with
    | 0, some r => s.activate c e d r m rec_
    | 1, some r => s.rearm c e d r
    | _, _ => s.resumeDesc c e d
  else
    let s := s.updDescX c e d (fun x => { x with engWait := true })
    s.updCl c (fun x => { x with engWait := x.engWait ++ [{ engine := e, desc := d, cmd := r, kind, image := m, record := rec_ }] })

def stepStream (p : Fin 16) (k : Fin 64) (s : State) : State :=
  match s.fetchedCmd p.val k.val 1 0x10 with
  | none => s
  | some r =>
    let q := (s.ctx p.val k.val).queue 1
    let c := bf r.bits 64 4
    let e := bf r.bits 68 2
    let d := bf r.bits 70 4
    if s.isolated c 1 e k.val then s
    else
    let s := s.startCmd r
    if !(s.clY c).ready then s.complete r stNotReady 0
    else if (s.desc c e d).st != .free || (s.descX c e d).engWait then s.complete r St.streamBusy 0
    else
      let st := checkDesc q.image (s.shape c (bf q.image 12 6))
      if st != 0 then s.complete r st 0
      else if (match q.record with
        | some v => !recordOk v q.image
        | none => false) then s.complete r 0x6A 0
      else s.enterActive c e d 0 (some r) q.image q.record

/-- STREAM (06 R137-R143, 05 R126, 08 R201; 16 R378). -/
def execStream (p : Fin 16) (k : Fin 64) (s : State) : Host.Outcome State Fault Refusal := .next (stepStream p k s)

def stepStreamRearm (p : Fin 16) (k : Fin 64) (s : State) : State :=
  match s.fetchedCmd p.val k.val 1 0x11 with
  | none => s
  | some r =>
    let c := bf r.bits 64 4
    let e := bf r.bits 68 2
    let d := bf r.bits 70 4
    if s.isolated c 1 e k.val then s
    else
    let s := s.startCmd r
    let x := s.desc c e d
    let mine := x.owner == some (s.identOf r)
    if !mine || (s.descX c e d).engWait || !(x.st == .parked || (x.st == .stopped && x.rewound)) then s.complete r St.streamBusy 0
    else if descSlot x.image && bf r.bits 192 48 != 0 then s.complete r St.reservedNonzero 0
    else if bf r.bits 128 48 % 32 != 0 || (!descSlot x.image && bf r.bits 192 48 % 256 != 0) then s.complete r St.streamInvalid 0
    else s.enterActive c e d 1 (some r) 0 none

/-- STREAM_REARM (06 R157, R143). -/
def execStreamRearm (p : Fin 16) (k : Fin 64) (s : State) : Host.Outcome State Fault Refusal := .next (stepStreamRearm p k s)

def stepEngineSlotGrant (c : Fin 16) (e : Fin 4) (s : State) : State :=
  if 8 ≤ s.activeCount c.val e.val then s
  else match (s.cl c.val).engWait.find? (fun w => w.engine == e.val) with
  | none => s
  | some w =>
    let s := s.updCl c.val (fun x => { x with engWait := x.engWait.erase w })
    let s := s.updDescX c.val e.val w.desc (fun x => { x with engWait := false })
    match w.kind, w.cmd with
    | 0, some r => s.activate c.val e.val w.desc r w.image w.record
    | 1, some r => s.rearm c.val e.val w.desc r
    | _, _ => s.resumeDesc c.val e.val w.desc

/-- ENGINE_SLOT_GRANT (06 R138): the oldest waiting command of the engine takes effect. -/
def execEngineSlotGrant (c : Fin 16) (e : Fin 4) (s : State) : Host.Outcome State Fault Refusal := .next (stepEngineSlotGrant c e s)

/-- The hand-over buffer that lets a descriptor begin (06 R160): its binding section is in ARM as consumer, its producer has
committed. -/
def State.hoBuffer (s : State) (c e d : Nat) : Option (Nat × Nat) :=
  let x := s.desc c e d
  let b := s.bat c x.bat
  match b.active, s.chainOf c x.bat with
  | some img, some h =>
    let n := (baseHo x.image).2
    if b.st == .arm && h.pos == n + 1 && h.hoDone.contains n && img.bindings.any (fun bd => bd.engine == e && bd.desc == d) then
      (h.hoffs.find? (fun w => w.1 == n)).map (·.2)
    else none
  | _, _ => none

def stepHoRelease (c : Fin 16) (e : Fin 4) (d : Fin 16) (s : State) : State :=
  let x := s.desc c.val e.val d.val
  if x.st == .active && x.hoWait then
    match s.hoBuffer c.val e.val d.val with
    | some (base, len) => s.setDesc c.val e.val d.val { x with hoWait := false, dst := base + 2 ^ 48 * len }
    | none => s
  else s

/-- HO_RELEASE (06 R160): a descriptor with HO = 1 begins; `dst` holds the buffer's address and length. -/
def execHoRelease (c : Fin 16) (e : Fin 4) (d : Fin 16) (s : State) : Host.Outcome State Fault Refusal := .next (stepHoRelease c e d s)

/-! Elements. -/

/-- A range cut at 4 KiB boundaries, the smallest host page (08 R195); log entry 62. -/
def cut4k : Nat → Nat → Nat → List (Nat × Nat)
  | 0, _, _ => []
  | fuel + 1, a, n =>
    if n = 0 then [] else
      let k := min n (4096 - a % 4096)
      (a, k) :: cut4k fuel (a + k) (n - k)

/-- A translated piece of an element. -/
structure Piece where
  host : Bool
  addr : Nat
  len : Nat
  cache : Bool
  va : Nat
  hua : Nat
  deriving DecidableEq, Repr

/-- What the translations of an element give. -/
inductive Pieces where
  | ok (l : List Piece)
  | wait
  | fatal (status va : Nat)
  | tier
  deriving DecidableEq, Repr

/-- Join the result of one piece with those after it: a failure of the lowest address decides. -/
def joinPiece (p : Pieces) (rest : Pieces) : Pieces :=
  match p, rest with
  | .ok a, .ok b => .ok (a ++ b)
  | .ok _, r => r
  | .wait, .ok _ => .wait
  | .wait, r => r
  | r, _ => r

/-- Translate the pieces of an element (06 R145, R151, 08 R192, R199). -/
def State.pieces (s : State) (c : Nat) (i : CtxId) (agent : XAgent) (elem : Nat) (slot write : Bool) :
    List (Nat × Nat) → State × Pieces
  | [] => (s, .ok [])
  | (va, n) :: rest =>
    let one : State × Pieces :=
      match s.translateC c i va write with
      | (s1, .err st) => (s1, .fatal st va)
      | (s1, .dev dpa cch) => match home dpa with
        | .far _ => if slot then (s1, .tier) else (s1, .ok [{ host := false, addr := dpa, len := n, cache := cch, va, hua := 0 }])
        | _ => (s1, .ok [{ host := false, addr := dpa, len := n, cache := cch, va, hua := 0 }])
      | (s1, .host hua _ page) =>
        if slot then (s1, .tier)
        else match s1.hostPage i c agent elem va hua page write with
          | (s2, .ok hpa) => (s2, .ok [{ host := true, addr := hpa, len := n, cache := false, va, hua }])
          | (s2, .wait) => (s2, .wait)
    match one.1.pieces c i agent elem slot write rest with
    | (s3, r) => (s3, joinPiece one.2 r)

/-- The bytes of pieces: device memory, or free values for host memory (log entry 4). -/
def State.fetch (s : State) : List Piece → State × List Byte
  | [] => (s, [])
  | p :: rest =>
    let bs := if p.host then leBytes p.len (s.freeVal (8 * p.len)).toNat else mbytes s.mem.bytes p.addr p.len
    match (if p.host then s.drew 1 else s).fetch rest with
    | (s1, r) => (s1, bs ++ r)

/-- The row entries of an element at a byte offset of its stream tile (06 R147): data granules and zero granules apart. -/
def rowEntries (row0 off lo hi : Nat) (bytes : List Byte) : List (Nat × Nat × Nat) :=
  let n := bytes.length / 32
  let cells := (List.range n).map (fun g =>
    let pos := off + 32 * g
    (2 * (row0 + pos / 256) + (if 32 * g < hi && lo < 32 * g + 32 then 1 else 0), pos % 256 / 32, leNat ((bytes.drop (32 * g)).take 32)))
  let keys := (cells.map (·.1)).eraseDups
  keys.map (fun k =>
    let l := cells.filter (fun x => x.1 == k)
    (k / 2, l.foldl (fun m x => m ||| 2 ^ x.2.1) 0, l.foldl (fun m x => m + x.2.2 * 2 ^ (256 * x.2.1)) 0))

/-- Is the element blocked by a region lock (04 R107)? -/
def State.piecesLocked (s : State) (l : List Piece) (write : Bool) : Bool := l.any (fun p => !p.host && s.locked p.addr p.len write none)

/-- Has every lower element of the stream tile been translated? A failure takes effect in program order (08 R203). -/
def Desc.lowerDone (d : Desc) (n : Nat) : Bool :=
  let b := d.runTile * d.te
  (List.range (n - b)).all (fun k => d.issued.contains (b + k) || d.doneEl.contains (b + k))

/-- The element is issued: its row writes or its memory write are under way. -/
def State.issueElem (s : State) (c e d : Nat) (i : CtxId) (elem : Nat) (uses : List Piece) (tr : List Transit) (wr : List MemWrite) : State :=
  let pasid := s.pasidOf i
  let s := s.updDesc c e d (fun x => { x with issued := x.issued ++ [elem] })
  s.updDescX c e d (fun x => { x with
    transit := x.transit ++ tr, writes := x.writes ++ wr
    uses := x.uses ++ uses.map (fun p =>
      { elem, va := p.va, len := p.len, page := if p.host then some (p.hua / 4096 * 4096) else none, pasid }) })

/-- The destinations of an element by logical position (06 R153). An empty item has no place in the program, so its zeros go to every
destination of the transfer (05 R127, 06 R155): log entry 103. -/
def State.destsOf (s : State) (c : Nat) (d : Desc) (v : Option (Tbl Nat)) : List (Nat × Nat) :=
  let sh := s.shape c d.bat
  match v with
  | some v => elemDests d.image v (shapeW sh) (shapeH sh)
  | none => ((List.range (shapeH sh)).flatMap (fun j => (List.range (shapeW sh)).map (fun i => (i, j)))).filter (fun q => descNames d.image q.1 q.2)

/-- The row writes of a SLOT element to its destinations (06 R147, R148, R153, R155). -/
def State.slotWrites (s : State) (c : Nat) (d : Desc) (elem lo hi : Nat) (v : Option (Tbl Nat)) (bytes : List Byte) : List Transit :=
  let len := elemLen d.image
  let rows := d.te * len / 256
  let slot := d.delivered % (bf d.image 8 4 + 1)
  let es := rowEntries (bf d.image 32 11 + slot * rows) (elem % d.te * len) lo hi bytes
  ((s.destsOf c d v).map (fun q => s.tileAt c d.bat q.1 q.2)).flatMap (fun ta =>
    if s.muffledTile ta then []
    else es.map (fun r => { ta, row := r.1, mask := r.2.1, data := BitVec.ofNat 2048 r.2.2, elem }))

/-- The element's data once its source pieces are translated. -/
def elemBytes (len lo hi : Nat) (src : List Byte) : List Byte := List.replicate lo 0 ++ src ++ List.replicate (len - hi) 0

/-- Sector addresses of the cacheable pieces. -/
def cacheSectors (l : List Piece) : List Nat :=
  l.flatMap (fun p => if p.cache && !p.host then
    (List.range ((p.addr + p.len + 31) / 32 - p.addr / 32)).map (fun n => (p.addr / 32 + n) * 32) else [])

/-- The ranges of device memory among the pieces that no cache serves. -/
def ownRanges (l : List Piece) : List (Nat × Nat) :=
  (l.filter (fun p => !p.host && !(p.cache && cacheHome p.addr))).map (fun p => (p.addr, p.len))

/-- The device addresses of pieces. -/
def srcDpas (l : List Piece) : List Nat := (l.filter (fun p => !p.host)).map (·.addr)

/-- A failed translation of an element (06 R151, 08 R188, R193): fatal to the context, or SOURCE_TIER with the transfer partial. -/
def State.failElem (s : State) (c e d : Nat) (i : CtxId) (x : Desc) (elem : Nat) (p : Pieces) : State :=
  if !x.lowerDone elem then s
  else match p with
  | .fatal st va => s.fatalXlat i st 2 c va
  | .tier =>
    ((s.updDesc c e d (fun y => { y with isPartial := true })).stopDesc (dKey c e d) St.sourceTier).partialEnds c
  | _ => s

/-- An element whose data is lost stops its descriptor (07 R179), in program order. -/
def State.lostElem (s : State) (c e d : Nat) (x : Desc) (elem : Nat) : State :=
  if x.lowerDone elem then s.stopDesc (dKey c e d) 0x70 else s

/-- The device pieces of an element that the mesh does not bring to their home, or whose home does not serve (10 R239, R240, R244, 16 R378): the
status stops the descriptor with its transfer partial, in program order; 0 where each is reached. Host pieces go to the owner's port. -/
def State.reachElem (s : State) (c e d : Nat) (i : CtxId) (host : Bool) (dpas : List Nat) : State × Nat :=
  match (if host then s.reachNode c i 2 (dKey c e d) (portNode (s.hostPort i)) else (s, 0)) with
  | (s1, 0) => s1.reachAll c i 2 (dKey c e d) dpas
  | r => r

/-- An element that does not reach its memory (10 R239). -/
def State.unreached (s : State) (c e d st : Nat) : State :=
  ((s.updDesc c e d (fun y => { y with isPartial := true })).stopDesc (dKey c e d) st).partialEnds c

/-- Where a MEM element is written (06 R156). -/
def Desc.destAt (x : Desc) (elem : Nat) : Nat :=
  let len := elemLen x.image
  x.dst + elem / x.te * (x.te * len) + elem % x.te * len

/-- A destination range cut at the ends of its in-bound bytes and at 4 KiB boundaries (08 R198, R199). -/
def cutDest (da len lo hi : Nat) : List (Nat × Nat) :=
  cut4k 6 da (min lo len) ++ cut4k 6 (da + lo) (hi - lo) ++ cut4k 6 (da + hi) (len - hi)

/-- Issue an element whose source pieces are there, if the engine wins at the slices it reads (06 R145-R147, R156, 07 R169, 08 R199); log
entry 61. -/
def State.deliver (s : State) (c e d : Nat) (i : CtxId) (x : Desc) (elem : Nat) (info : ElemInfo) (v : Option (Tbl Nat)) (src : List Piece)
    (rivals : List (Fin 64 × Fin 276)) : State :=
  let len := elemLen x.image
  if src.any (fun p => !p.host && s.poisoned (p.addr / 32 * 32) (p.len + p.addr % 32)) then s.lostElem c e d x elem
  else if s.piecesLocked src false || !s.engineWins c e (ownRanges src) rivals || !x.lowerDone elem && (s.reachElem c e d i (src.any (·.host)) (srcDpas src)).2 != 0 then s
  else match s.reachElem c e d i (src.any (·.host)) (srcDpas src) with
  | (s, 0) =>
    let go := fun (s : State) (dst : Option (List Piece)) =>
      match ((s.engineWon c e (ownRanges src)).cacheRead c (cacheSectors src)).fetch src with
      | (s1, bs) =>
        let bytes := elemBytes len info.lo info.hi bs
        match dst with
        | none => s1.issueElem c e d i elem src (s1.slotWrites c x elem info.lo info.hi v bytes) []
        | some l =>
          let parts := l.foldl (fun (a : Nat × List (Bool × Nat × List Byte)) p =>
            (a.1 + p.len, a.2 ++ [(p.host, p.addr, (bytes.drop a.1).take p.len)])) (0, [])
          s1.issueElem c e d i elem (src ++ l) [] [{ elem, parts := parts.2 }]
    if descSlot x.image then go s none
    else
      let da := x.destAt elem
      if 2 ^ 48 < da + len then s.failElem c e d i x elem (.fatal 0x69 0)
      else match s.pieces c i (.engine (Fin.ofNat 4 e) (Fin.ofNat 16 d)) elem false true (cutDest da len info.lo info.hi) with
      | (s1, .ok l) => if s1.piecesLocked l true then s1 else go s1 (some l)
      | (s1, .wait) => s1
      | (s1, r) => s1.failElem c e d i x elem r
  | (s, st) => s.unreached c e d st

/-- Has the engine stopped a descriptor on a host fault or a preemption, but for the elements below the stop element (08 R198 steps 1 and 3)? -/
def DescX.stopped (y : DescX) (elem : Nat) : Bool :=
  y.recordDue && !(y.stopStatus == 0 && y.faulted.all (fun f => decide (elem < f.elem)))

/-- May a descriptor translate an element: ACTIVE, neither waiting nor rewinding nor stopped, its slot free, its context live, no carillon
(06 R146, R149, R152, R160, 08 R198, 09 R223)? -/
def State.serves (s : State) (c e d elem : Nat) : Bool :=
  let x := s.desc c e d
  let y := s.descX c e d
  x.st == .active && !x.hoWait && !y.draining && !y.stopped elem && x.slotFree && x.inWindow elem && !s.carQuiet c &&
    (match x.owner with
      | some i => s.live i
      | none => false)

/-- The descriptor whose turn it is (06 R136): the first after the one served last that has a further element to translate
(log entry 113). -/
def State.turnOf (s : State) (c e : Nat) : Option Nat :=
  let last := tget (s.cl c).turns e 15
  ((List.range 16).map (fun n => (last + 1 + n) % 16)).find? (fun d => s.serves c e d (s.desc c e d).next)

def stepElementTranslated (c : Fin 16) (e : Fin 4) (d : Fin 16) (elem : Nat) (rivals : List (Fin 64 × Fin 276)) (s : State) : State :=
  let x := s.desc c.val e.val d.val
  match x.owner with
  | none => s
  | some i =>
    if !s.serves c.val e.val d.val elem || (elem == x.next && s.turnOf c.val e.val != some d.val) then s
    else
      let s := if elem == x.next then
          (s.updDesc c.val e.val d.val (fun x => { x with next := elem + 1 })).updCl c.val (fun y => { y with turns := tset y.turns e.val d.val })
        else s
      match x.progElem elem with
      | none => s.deliver c.val e.val d.val i x elem { addr := 0, lo := 0, hi := 0 } none [] rivals
      | some n =>
        let v := (vectorAt (levelsOf x.image) n).1
        let info := elemInfo x.image x.base v
        if info.hi = 0 then s.deliver c.val e.val d.val i x elem info (some v) [] rivals
        else
          let a := info.addr + info.lo
          let b := info.addr + info.hi
          if decide (a < 0) || decide ((2 ^ 48 : Nat) < b) then
            s.failElem c.val e.val d.val i x elem (.fatal 0x69 (if 0 ≤ a && a < (2 ^ 48 : Nat) then a.toNat else 0))
          else if (baseHo x.image).1 then
            let base := x.dst % 2 ^ 48
            let len := x.dst / 2 ^ 48
            if len < b.toNat then s.failElem c.val e.val d.val i x elem (.fatal 0x65 0)
            else s.deliver c.val e.val d.val i x elem info (some v)
              [{ host := false, addr := base + a.toNat, len := info.hi - info.lo, cache := false, va := 0, hua := 0 }] rivals
          else match s.pieces c.val i (.engine e d) elem (descSlot x.image) false (cut4k 6 a.toNat (info.hi - info.lo)) with
          | (s1, .ok l) => s1.deliver c.val e.val d.val i x elem info (some v) l rivals
          | (s1, .wait) => s1
          | (s1, r) => s1.failElem c.val e.val d.val i x elem r

/-- ELEMENT_TRANSLATED (06 R136, R144-R149, R151, 08 R192, R198, R199): the element is issued, waits for a host page, or stops the
descriptor. A further element is translated on the descriptor's turn only. -/
def execElementTranslated (c : Fin 16) (e : Fin 4) (d : Fin 16) (turn : ElemTurn) (s : State) : Host.Outcome State Fault Refusal :=
  .next (stepElementTranslated c e d turn.elem turn.rivals s)

/-! Completion. -/

/-- Is a row write of an element still on its way to a tile that is not muffled (06 R147, R155)? -/
def State.rowsLeft (s : State) (c e d elem : Nat) : Bool :=
  (s.descX c e d).transit.any (fun t => t.elem == elem && !s.muffledTile t.ta) ||
    s.tiles.any (fun t => t.1 / 512 == c && !s.muffledTile t.1 &&
      t.2.ctl.landing.any (fun l => l.engine == e && l.desc == d && l.elem == elem))

/-- A run has ended (06 R140, R155-R157, 08 R508): the command completes; the descriptor parks, or is DONE. -/
def State.runEnded (s : State) (c e d : Nat) : State :=
  let x := s.desc c e d
  let st := if x.isPartial then St.destPartial else St.delivered
  let persistent := x.image.toNat.testBit 2
  let s := s.setDesc c e d { x with
    st := if persistent then .parked else if descSlot x.image then .done else .free
    cmd := none, lastStatus := st, park := if persistent then some (x.base, x.dst) else none }
  s.completeOpt x.cmd st

/-- An element is complete: its stream tile, the delivery count and the end of the run follow (06 R147, R149); after a rewind into an earlier
run (06 R152) the next run follows. -/
def State.elemDone (s : State) (c e d elem : Nat) : State :=
  let x := s.desc c e d
  let doneEl := x.doneEl ++ [elem]
  let b := x.runTile * x.te
  if (List.range x.te).all (fun k => doneEl.contains (b + k)) then
    let bt := s.bat c x.bat
    let at_ := if descSlot x.image then x.at_ ++ [(x.delivered, if bt.st == .run then some bt.cycle else none)] else []
    let s := s.setDesc c e d { x with issued := x.issued.erase elem, doneEl := [], delivered := x.delivered + 1, at_ }
    if x.runTile + 1 = x.tiles then
      (if x.lastRun then s.runEnded c e d else s.updDesc c e d (fun x => { x with next := 0 }))
    else s
  else s.setDesc c e d { x with issued := x.issued.erase elem, doneEl }

def stepElementComplete (c : Fin 16) (e : Fin 4) (d : Fin 16) (elem : Nat) (rivals : List (Fin 64 × Fin 276)) (s : State) : State :=
  let x := s.desc c.val e.val d.val
  let y := s.descX c.val e.val d.val
  match x.owner with
  | none => s
  | some i =>
    let parts := (y.writes.filter (fun w => w.elem == elem)).flatMap (·.parts)
    let own := (parts.filter (fun p => !p.1)).map (fun p => (p.2.1, p.2.2.length))
    if !x.issued.contains elem then s
    else if descSlot x.image && s.rowsLeft c.val e.val d.val elem then s
    else if own.any (fun p => s.locked p.1 p.2 true none) || !s.engineWins c.val e.val own rivals then s
    else match s.reachElem c.val e.val d.val i (parts.any (·.1)) (own.map (·.1)) with
    | (s, 0) =>
      let bad := own.any (fun p => s.partPoison p.1 p.2)
      let s := s.updDescX c.val e.val d.val (fun y => { y with
        transit := y.transit.filter (fun t => t.elem != elem)
        writes := y.writes.filter (fun w => w.elem != elem)
        uses := y.uses.filter (fun u => u.elem != elem) })
      let drop := fun (s : State) => s.updDesc c.val e.val d.val (fun x => { x with issued := x.issued.erase elem })
      let s := (s.engineWon c.val e.val own).performParts i parts
      if bad then (drop s).stopDesc (dKey c.val e.val d.val) 0x70
      else if y.draining || x.st != .active then drop s
      else s.elemDone c.val e.val d.val elem
    | (s, st) =>
      let s := s.updDescX c.val e.val d.val (fun y => { y with
        writes := y.writes.filter (fun w => w.elem != elem), uses := y.uses.filter (fun u => u.elem != elem) })
      let s := s.updDesc c.val e.val d.val (fun x => { x with issued := x.issued.erase elem })
      if y.draining || x.st != .active then s else s.unreached c.val e.val d.val st

/-- ELEMENT_COMPLETE (06 R147, R149, R153-R156, 07 R169, R179, 08 R508). -/
def execElementComplete (c : Fin 16) (e : Fin 4) (d : Fin 16) (turn : ElemTurn) (s : State) : Host.Outcome State Fault Refusal :=
  .next (stepElementComplete c e d turn.elem turn.rivals s)

def stepRewindResume (c : Fin 16) (e : Fin 4) (d : Fin 16) (s : State) : State :=
  let x := s.desc c.val e.val d.val
  let y := s.descX c.val e.val d.val
  if y.draining && x.issued.isEmpty then
    let s := s.updDesc c.val e.val d.val (fun x => { x with doneEl := [], next := x.runTile * x.te })
    s.updDescX c.val e.val d.val (fun y => { y with draining := false, faulted := [], transit := [], writes := [], uses := [] })
  else s

/-- REWIND_RESUME (06 R152): the elements in flight have drained; issuing goes on from the start point. -/
def execRewindResume (c : Fin 16) (e : Fin 4) (d : Fin 16) (s : State) : Host.Outcome State Fault Refusal := .next (stepRewindResume c e d s)

/-! Host faults (08 R198-R201). -/

/-- Is a translation of a descriptor outstanding at its host port (08 R198 step 2)? -/
def State.asking (s : State) (c e d : Nat) (i : CtxId) : Bool :=
  (s.port (s.hostPort i)).reqs.any (fun r => !r.prg && !r.stale && r.cluster == c && r.ctx == i &&
    r.agent == .engine (Fin.ofNat 4 e) (Fin.ofNat 16 d))

/-- The VAs of an element's in-bound bytes on a side (08 R198, R200): from, to. -/
def Desc.inBytes (x : Desc) (elem : Nat) (write : Bool) : Nat × Nat :=
  let info := elemInfo x.image x.base (vectorAt (levelsOf x.image) elem).1
  if write then (x.destAt elem + info.lo, x.destAt elem + info.hi) else ((info.addr + info.lo).toNat, (info.addr + info.hi).toNat)

/-- The lowest VA of a fault's page that an in-bound byte of the element has, or the VA asked for. -/
def Desc.faultVa (x : Desc) (f : ElemFault) : Nat :=
  let r := x.inBytes f.elem f.write
  let p := f.va / 4096 * 4096
  if max p r.1 < min (p + 4096) r.2 then max p r.1 else f.va

/-- The fault a stop element is recorded with (08 R198 step 4): on its lowest page, one with in-bound bytes first. -/
def Desc.stopFault (x : Desc) (l : List ElemFault) : Option ElemFault :=
  let inB := l.filter (fun f =>
    let r := x.inBytes f.elem f.write
    let p := f.va / 4096 * 4096
    decide (max p r.1 < min (p + 4096) r.2))
  let l := if inB.isEmpty then l else inB
  let low := l.foldl (fun n f => min n f.va) (2 ^ 48)
  l.find? (fun f => f.va == low)

def stepResumeRecordWrite (c : Fin 16) (e : Fin 4) (d : Fin 16) (s : State) : State :=
  let x := s.desc c.val e.val d.val
  let y := s.descX c.val e.val d.val
  match x.owner with
  | none => s
  | some i =>
    if !y.recordDue || x.st != .active || !x.issued.isEmpty then s
    else
      let pre := y.stopStatus == St.preempted
      let f := if pre then x.lowest else y.faulted.foldl (fun n g => min n g.elem) (2 ^ 48)
      if !pre && (s.asking c.val e.val d.val i || !x.lowerDone f) then s
      else
        let b := x.runTile * x.te
        let g := if pre then none else x.stopFault (y.faulted.filter (fun g => g.elem == f))
        let va := (g.map x.faultVa).getD 0
        let hua := (g.map (fun g => g.hua + va - g.va)).getD 0
        let write := (g.map (·.write)).getD false
        let page := 2 * (va / 4096) + b2n write
        let tries := if y.triesVa == page then y.triesN else 0
        let st := if pre then St.preempted else if (g.map (·.late)).getD false then 0x6B else if 3 ≤ tries then 0x68 else 0x67
        let v := vectorAt (levelsOf x.image) f
        let mask := x.doneEl.foldl (fun m n => m ||| 2 ^ (n - b)) 0
        let r := resumeRecord st e.val d.val c.val i.ctx i.gen i.part write va hua v.1 v.2 x.runTile (f - b) mask s.now
        let s := s.setDesc c.val e.val d.val { x with st := .stopped, lastStatus := st }
        let s := s.updDescX c.val e.val d.val (fun y => { y with
          record := some r, recordDue := false, stopStatus := 0, faulted := []
          triesN := if pre then y.triesN else tries, triesVa := if pre then y.triesVa else page })
        let s := s.raise { FaultRec.of st 2 with
          part := some i.part, ctx := some i, cluster := c.val, battery := x.bat, va, detail := r.toNat }
        if st == 0x67 then s.sendPrg i c.val (.engine e d) f va hua write else s

/-- RESUME_RECORD_WRITE (08 R198 step 4, R200, 11 R269): STOPPED with its record; the PRG of a host fault is sent. -/
def execResumeRecordWrite (c : Fin 16) (e : Fin 4) (d : Fin 16) (s : State) : Host.Outcome State Fault Refusal :=
  .next (stepResumeRecordWrite c e d s)

/-- Is a descriptor STOPPED on a replayable host status (08 R201)? -/
def Desc.replayable (x : Desc) : Bool := x.st == .stopped && (x.lastStatus == 0x67 || x.lastStatus == 0x68 || x.lastStatus == 0x6B)

def stepStreamResume (fn : Fn) (p : Fin 16) (val : Dword) (s : State) : State :=
  s.gateP fn p.val (offP p.val 0x18) val.toNat (fun s =>
    let c := bf val 0 4
    let e := bf val 4 2
    let d := bf val 6 4
    let s := s.updPart p.val (fun y => { y with strCluster := c, strEngine := e, strDesc := d })
    if !val.toNat.testBit 16 then s
    else
      let x := s.desc c e d
      let mine := match x.owner with
        | some i => i.part == p.val
        | none => false
      let res := if !mine || !x.replayable || (s.descX c e d).engWait then St.streamBusy
        else if (s.descX c e d).record.isNone then 0x6A else 0
      let s := s.updPart p.val (fun y => { y with strGo := false, strResult := res })
      if res = 0 then s.enterActive c e d 2 none 0 none else s)

/-- STREAM_RESUME (08 R201, R205): a write of PTN_STREAM_RESUME. -/
def execStreamResume (fn : Fn) (p : Fin 16) (val : Dword) (s : State) : Host.Outcome State Fault Refusal :=
  .next (stepStreamResume fn p val (s.unlatch fn))

end Sys2Proof.Machine
end

