-- ==== Sys2Proof/Machine/Xlat.lean ====
section
/-! DEFINITION. Translation requests, table reads, zero-fills, invalidations, ATS and page requests (07 R176, 08 R187-R197). -/
namespace Sys2Proof.Machine

/-! Walks (08 R188-R192). -/

/-- What a failed translation gives an agent (08 R192). -/
def State.xFail (s : State) (c : Nat) (agent : XAgent) (i : CtxId) (status va : Nat) : State :=
  let va := if va < 2 ^ 48 then va else 0
  match agent with
  | .engine _ _ => s.fatalXlat i status 2 c va
  | .battery b =>
    let s := if (s.bat c b.val).st == .arm && (s.bat c b.val).owner == some i && !(s.bat c b.val).armOk then
        (s.failArm c b.val St.notResident).pumpBat c b.val
      else s
    if status == 0x70 || status == 0x71 then s.fatalXlat i status 0 c va else s
  | .queue _ => s.fatalXlat i status 0 c va
  | .message => s.fatalXlat i status 1 c va
  | .ring => s.fatalXlat i status 3 c va
  | .bar2 _ _ => s
  | .firmware => s

/-- Install a translation in the cluster's cache of 1,024 entries, dropping the oldest (08 R191). -/
def State.tlbAdd (s : State) (c : Nat) (i : CtxId) (va level leaf : Nat) : State :=
  let size := levelBits level
  let e : TlbEntry := { ctx := i, va := va / 2 ^ size * 2 ^ size, size, leaf := BitVec.ofNat 64 leaf }
  s.updCl c (fun x => { x with tlb := ((x.tlb.filter (fun t => !(t.ctx == i && t.va == e.va && t.size == size))) ++ [e]).reverse.take 1024 |>.reverse })

/-- Update one walk of a cluster. -/
def State.updWalk (s : State) (c id : Nat) (f : Walk → Walk) : State :=
  s.updCl c (fun x => { x with walks := x.walks.map (fun w => if w.id == id then f w else w) })

/-- A walk ends. -/
def State.endWalk (s : State) (c id : Nat) : State := s.updCl c (fun x => { x with walks := x.walks.filter (fun w => w.id != id) })

/-- The leaf of a walk is there: DPA check and frame tag (08 R190, 07 R176). A frame to be zero-filled makes it wait. -/
def State.leafFound (s : State) (c : Nat) (w : Walk) (leaf : Nat) : State :=
  match leafCheck leaf w.level w.va w.write with
  | .err st => (s.endWalk c w.id).xFail c w.agent w.ctx st w.va
  | .host _ _ _ => (s.endWalk c w.id).tlbAdd c w.ctx w.va w.level leaf
  | .dev dpa _ => match s.dpaStatus w.ctx.part dpa with
    | some st => (s.endWalk c w.id).xFail c w.agent w.ctx st w.va
    | none => match s.tagCheck dpa w.ctx with
      | .admits => (s.endWalk c w.id).tlbAdd c w.ctx w.va w.level leaf
      | .fill => s.updWalk c w.id (fun y => { y with frame := some dpa, result := some leaf })
      | .owned => (s.endWalk c w.id).xFail c w.agent w.ctx 0x71 w.va

def stepTranslationRequest (c : Fin 16) (agent : XAgent) (p : Fin 16) (k : Fin 64) (va : Nat) (write : Bool) (s : State) : State :=
  let i := s.ident p.val k.val
  let x := (s.ctx p.val k.val).xlat
  if (s.ctx p.val k.val).st == 0 || x.faulted then s
  else if 2 ^ 48 ≤ va then s.xFail c.val agent i 0x69 va
  else if !x.enable then s.xFail c.val agent i 0x65 va
  else
    let w : Walk := { id := (s.cl c.val).nextWalk, agent, ctx := i, va, write, level := 1, table := x.root * 2 ^ 21,
                      dropped := false, frame := none, result := none }
    let s1 := s.updCl c.val (fun y => { y with nextWalk := y.nextWalk + 1, walks := y.walks ++ [w] })
    match s.tlbLook c.val i va with
    | some t => s1.leafFound c.val { w with level := levelOf t.size } t.leaf.toNat
    | none => s1

/-- TRANSLATION_REQUEST (08 R187, R190-R192): served from the translation cache, or a walk begins. -/
def execTranslationRequest (c : Fin 16) (agent : XAgent) (p : Fin 16) (k : Fin 64) (va : Nat) (write : Bool) (s : State) :
    Host.Outcome State Fault Refusal := .next (stepTranslationRequest c agent p k va write s)

/-- Is the invalidation that dropped a walk still under way (08 R203)? -/
def State.invalidating (s : State) (w : Walk) : Bool := (s.part w.ctx.part).invGo && (s.part w.ctx.part).invNow.1 == w.ctx.ctx

def stepTableRead (c : Fin 16) (walk : Nat) (s : State) : State :=
  match (s.cl c.val).walks.find? (fun w => w.id == walk) with
  | none => s
  | some w =>
    let x := (s.ctx w.ctx.part w.ctx.ctx).xlat
    if w.frame.isSome then s
    else if !s.live w.ctx then s.endWalk c.val w.id
    else if !x.enable then (s.endWalk c.val w.id).xFail c.val w.agent w.ctx 0x65 w.va
    else if w.dropped then
      (if s.invalidating w then s else s.updWalk c.val w.id (fun y => { y with dropped := false, level := 1, table := x.root * 2 ^ 21 }))
    else if !s.tableOk w.ctx.part w.table then (s.endWalk c.val w.id).xFail c.val w.agent w.ctx 0x65 w.va
    else
      let a := w.table + 8 * levelIndex w.level w.va
      if s.poisoned a 8 then (s.endWalk c.val w.id).xFail c.val w.agent w.ctx 0x70 w.va
      else
        let e := s.load a 8
        if e.testBit 0 && e.testBit 1 then s.leafFound c.val w e
        else if !e.testBit 0 || w.level = 3 || field e 2 6 != 0 || e / 2 ^ 43 != 0 || (w.level = 1 && field e 8 4 != 0) then
          (s.endWalk c.val w.id).xFail c.val w.agent w.ctx 0x65 w.va
        else s.updWalk c.val w.id (fun y => { y with level := y.level + 1, table := e / 256 * 256 })

/-- TABLE_READ (08 R187-R190, R203): one read of a walk; a walk an invalidation dropped begins again after it. -/
def execTableRead (c : Fin 16) (walk : Nat) (s : State) : Host.Outcome State Fault Refusal := .next (stepTableRead c walk s)

def stepZeroFill (c : Fin 16) (walk : Nat) (s : State) : State :=
  match (s.cl c.val).walks.find? (fun w => w.id == walk) with
  | none => s
  | some w =>
    match w.frame, w.result with
    | some dpa, some leaf =>
      if !s.live w.ctx then s.endWalk c.val w.id
      else if !(s.ctx w.ctx.part w.ctx.ctx).xlat.enable then (s.endWalk c.val w.id).xFail c.val w.agent w.ctx 0x65 w.va
      else match s.tagCheck dpa w.ctx with
      | .fill => ((s.takeFrame dpa w.ctx).endWalk c.val w.id).tlbAdd c.val w.ctx w.va w.level leaf
      | .admits => (s.endWalk c.val w.id).tlbAdd c.val w.ctx w.va w.level leaf
      | .owned => (s.endWalk c.val w.id).xFail c.val w.agent w.ctx 0x71 w.va
    | _, _ => s

/-- ZERO_FILL (07 R176, R184): the frame is zeroed and tagged, and the waiting translation completes. -/
def execZeroFill (c : Fin 16) (walk : Nat) (s : State) : Host.Outcome State Fault Refusal := .next (stepZeroFill c walk s)

/-! Invalidation (08 R191). -/

/-- The range an invalidation names: first VA and length. -/
def invRange (size va : Nat) : Nat × Nat :=
  if size = 3 then (0, 2 ^ 48)
  else
    let n := if size = 0 then 16 else if size = 1 then 21 else 30
    (va / 2 ^ n * 2 ^ n, 2 ^ n)

def stepXlatInvalidate (fn : Fn) (p : Fin 16) (val : Dword) (s : State) : State :=
  s.gateP fn p.val (offP p.val 0x10) val.toNat (fun s =>
    let go := val.toNat.testBit 0 && !(s.part p.val).invGo
    let s := s.updPart p.val (fun x => { x with invCtx := bf val 1 6, invSize := bf val 7 2, invVa := bf val 16 32 * 65536 })
    if !go then s
    else
      let r := invRange (bf val 7 2) (bf val 16 32 * 65536)
      let s := s.updPart p.val (fun x => { x with invGo := true, invNow := (bf val 1 6, r.1, r.2) })
      { s with clusters := tmap s.clusters (fun _ x => { x with
          walks := x.walks.map (fun w =>
            if w.ctx.part == p.val && w.ctx.ctx == bf val 1 6 && overlaps w.va 1 r.1 r.2 then
              { w with dropped := true, frame := none, result := none }
            else w) }) })

/-- XLAT_INVALIDATE (08 R191, R203, R205): a write of PTN_XLAT_INV; walks in the range begin again. A write while GO is 1
sets the fields and starts nothing (00 R12). -/
def execXlatInvalidate (fn : Fn) (p : Fin 16) (val : Dword) (s : State) : Host.Outcome State Fault Refusal :=
  .next (stepXlatInvalidate fn p val (s.unlatch fn))

/-- Does the target or the staging area of an open combining queue of a context overlap a VA range (09 R219)? -/
def State.combHeld (s : State) (p k a n : Nat) : Bool :=
  s.msg.comb.any (fun e => e.2.st != 0 && (match e.2.ctx with
    | some i => i.part == p && i.ctx == k
    | none => false) && (overlaps (combTarget e.2.bits) (4 * combElems e.2.bits) a n ||
      (e.2.strict && overlaps (combStage e.2.bits) (combStageLen e.2.bits) a n)))

/-- Does a locked region or a ring buffer of the named context overlap a VA range (08 R191, 19 R443)? -/
def State.regionHeld (s : State) (p k a n : Nat) : Bool :=
  s.combHeld p k a n || s.bats.any (fun e => e.2.locks && (match e.2.owner with
    | some i => i.part == p && i.ctx == k
    | none => false) && e.2.regions.any (fun r => overlaps r.va r.len a n)) ||
    s.ring.jobs.any (fun j => j.owner.part == p && j.owner.ctx == k && (overlaps (bf j.cmd.bits 128 48) (ringSizes j.cmd.bits).1 a n ||
      overlaps (bf j.cmd.bits 192 48) (ringSizes j.cmd.bits).2 a n))

/-- Is an element of the context in flight that uses a page of the range (08 R191)? -/
def State.elemsUse (s : State) (p k a n : Nat) : Bool :=
  s.descx.any (fun e =>
    (match (tget s.descs e.1 Desc.reset).owner with
      | some i => i.part == p && i.ctx == k
      | none => false) && e.2.uses.any (fun u => overlaps u.va u.len a n))

def stepXlatInvalidateComplete (p : Fin 16) (s : State) : State :=
  let x := s.part p.val
  let (k, a, n) := x.invNow
  if !x.invGo || s.regionHeld p.val k a n || s.elemsUse p.val k a n then s
  else
    let s := s.updPart p.val (fun y => { y with invGo := false })
    { s with clusters := tmap s.clusters (fun _ y => { y with
        tlb := y.tlb.filter (fun t => !(t.ctx.part == p.val && t.ctx.ctx == k && overlaps t.va (2 ^ t.size) a n)) }) }

/-- XLAT_INVALIDATE_COMPLETE (08 R191). -/
def execXlatInvalidateComplete (p : Fin 16) (s : State) : Host.Outcome State Fault Refusal := .next (stepXlatInvalidateComplete p s)

/-! ATS and page requests (08 R194-R197). -/

/-- Drop a request of a port. -/
def State.dropReq (s : State) (port : Nat) (r : HostReq) : State := s.updPort port (fun x => { x with reqs := x.reqs.erase r })

/-- A host fault of an agent (08 R196, R198, 11 R260): an engine stops its descriptor; a queue stalls and its page request is
sent. `late` marks a completion timeout. -/
def State.hostFault (s : State) (r : HostReq) (late : Bool) : State :=
  match r.agent with
  | .engine e d =>
    let x := s.desc r.cluster e.val d.val
    if x.owner == some r.ctx && x.st == .active && (s.descX r.cluster e.val d.val).stopStatus == 0 then
      s.updDescX r.cluster e.val d.val (fun y => { y with
        faulted := y.faulted ++ [{ elem := r.elem, va := r.va, hua := r.hua, write := r.write, late }], recordDue := true })
    else s
  | .queue x =>
    if late then
      (s.updQueue r.ctx.part r.ctx.ctx x.val (fun q => { q with stalled := some 0x6B })).updCtx r.ctx.part r.ctx.ctx (fun c => { c with qstop := 0x6B })
    else
      (s.updQueue r.ctx.part r.ctx.ctx x.val (fun q => { q with stalled := some 0x67 })).sendPrg r.ctx r.cluster r.agent r.elem r.va r.hua r.write
  | _ => s

/-- The ATC entry of a completion (08 R195): a range larger than the device page is cached at the device page's size. -/
def HostReq.entry (r : HostReq) (hpa size : Nat) (write : Bool) : AtcEntry :=
  let k := min size r.page
  let base := r.hua / 2 ^ k * 2 ^ k
  { ctx := r.ctx, pasid := r.pasid, va := base, size := k, hpa := hpa + (base - r.hua / 2 ^ size * 2 ^ size), write }

def stepAtsTranslationCompletion (port : Fin 4) (idx : Nat) (res : AtsResult) (s : State) : State :=
  match (s.port port.val).reqs.find? (fun r => !r.prg && r.idx == idx) with
  | none => s
  | some r =>
    let s := s.dropReq port.val r
    if r.stale || !s.live r.ctx then s
    else match res with
    | .translated hpa size w =>
      if r.write && !w then s.hostFault r false
      else
        let e := r.entry hpa (12 + size.val) w
        s.updPort port.val (fun x => { x with
          atc := ((x.atc.filter (fun a => !(a.ctx == e.ctx && a.pasid == e.pasid && overlaps a.va (2 ^ a.size) e.va (2 ^ e.size)))) ++ [e]).reverse.take 2048
            |>.reverse })
    | .fault => s.hostFault r false

/-- ATS_TRANSLATION_COMPLETION (08 R194-R196, R198). -/
def execAtsTranslationCompletion (port : Fin 4) (idx : Nat) (res : AtsResult) (s : State) : Host.Outcome State Fault Refusal :=
  .next (stepAtsTranslationCompletion port idx res s)

def stepTranslationCompletionTimeout (port : Fin 4) (idx : Nat) (s : State) : State :=
  match (s.port port.val).reqs.find? (fun r => !r.prg && r.idx == idx) with
  | none => s
  | some r =>
    let s := s.dropReq port.val r
    if r.stale || !s.live r.ctx then s else s.hostFault r true

/-- TRANSLATION_COMPLETION_TIMEOUT (08 R196): as a page request without a response, HOST_TIMEOUT. -/
def execTranslationCompletionTimeout (port : Fin 4) (idx : Nat) (s : State) : Host.Outcome State Fault Refusal :=
  .next (stepTranslationCompletionTimeout port idx s)

def stepPrgIndexGrant (port : Fin 4) (s : State) : State :=
  let x := s.port port.val
  match x.prgFree, x.reqs.find? (fun r => r.prg && r.waiting) with
  | some n, some r =>
    if r.stale || !s.live r.ctx then s.dropReq port.val r
    else
      (s.updPort port.val (fun x => { x with reqs := x.reqs.map (fun q =>
        if q == r then { q with idx := n, waiting := false } else q) })).emit (r.message port.val n)
  | _, _ => s

/-- PRG_INDEX_GRANT (08 R196): the oldest waiting page request takes a free index. -/
def execPrgIndexGrant (port : Fin 4) (s : State) : Host.Outcome State Fault Refusal := .next (stepPrgIndexGrant port s)

/-- A page request ends without a page (08 R196): the descriptor with its record, or the queue, shows the status. -/
def State.prgFailed (s : State) (r : HostReq) (status : Nat) : State :=
  match r.agent with
  | .engine e d =>
    let x := s.desc r.cluster e.val d.val
    if x.owner == some r.ctx && x.st == .stopped && x.lastStatus == 0x67 then
      (s.updDesc r.cluster e.val d.val (fun x => { x with lastStatus := status })).updDescX r.cluster e.val d.val (fun y =>
        { y with record := y.record.map (fun v => BitVec.ofNat 1024 (setField v.toNat 0 8 status)) })
    else s
  | .queue x =>
    (s.updQueue r.ctx.part r.ctx.ctx x.val (fun q => { q with stalled := some status })).updCtx r.ctx.part r.ctx.ctx (fun c => { c with qstop := status })
  | _ => s

def stepPrgResponse (port : Fin 4) (idx : Nat) (pasid : Option Nat) (code : PrgCode) (s : State) : State :=
  match (s.port port.val).reqs.find? (fun r => r.prg && !r.waiting && r.idx == idx && r.pasid == pasid) with
  | none => s
  | some r =>
    let s := s.dropReq port.val r
    if r.stale || !s.live r.ctx then s
    else match code with
    | .success =>
      let s := s.atcDrop r.ctx r.hua
      match r.agent with
      | .engine e d =>
        let x := s.desc r.cluster e.val d.val
        let y := s.descX r.cluster e.val d.val
        if x.owner == some r.ctx && x.st == .stopped && x.lastStatus == 0x67 && !y.engWait then
          let page := 2 * (r.va / 4096) + b2n r.write
          let s := s.updDescX r.cluster e.val d.val (fun y => { y with triesVa := page, triesN := if y.triesVa == page then y.triesN + 1 else 1 })
          s.enterActive r.cluster e.val d.val 2 none 0 none
        else s
      | .queue x => s.updQueue r.ctx.part r.ctx.ctx x.val (fun q => { q with stalled := none })
      | _ => s
    | _ => s.prgFailed r 0x68

/-- PRG_RESPONSE (08 R196, R201, R203; 11 R260): a response carries the PASID of its request (08 R195): log entry 105. -/
def execPrgResponse (port : Fin 4) (idx : Nat) (answer : PrgAnswer) (s : State) : Host.Outcome State Fault Refusal :=
  .next (stepPrgResponse port idx answer.pasid answer.code s)

def stepPrgTimeout (port : Fin 4) (idx : Nat) (s : State) : State :=
  match (s.port port.val).reqs.find? (fun r => r.prg && !r.waiting && r.idx == idx) with
  | none => s
  | some r =>
    let s := s.dropReq port.val r
    if r.stale || !s.live r.ctx then s else s.prgFailed r 0x6B

/-- PRG_TIMEOUT (08 R196): 2 s from the sending of the request. -/
def execPrgTimeout (port : Fin 4) (idx : Nat) (s : State) : Host.Outcome State Fault Refusal := .next (stepPrgTimeout port idx s)

def stepAtsInvalidateRequest (port : Fin 4) (pasid : Option Nat) (va len : Nat) (s : State) : State :=
  if 32 ≤ (s.port port.val).invals.length then s else s.updPort port.val (fun x => { x with invals := x.invals ++ [(pasid, va, len)] })

/-- ATS_INVALIDATE_REQUEST (08 R195, R197): the queue is 32 deep; a request beyond it is not taken: log entry 105. -/
def execAtsInvalidateRequest (port : Fin 4) (pasid : Option Nat) (va len : Nat) (s : State) : Host.Outcome State Fault Refusal :=
  .next (stepAtsInvalidateRequest port pasid va len s)

/-- Is an element in flight that was issued under a host page of a PASID (08 R197)? -/
def State.hostPagesUsed (s : State) (port : Nat) (pasid : Option Nat) (va len : Nat) : Bool :=
  s.descx.any (fun e => match (tget s.descs e.1 Desc.reset).owner with
    | some i => s.hostPort i == port && e.2.uses.any (fun u => u.pasid == pasid && (match u.page with
        | some a => overlaps a 4096 va len
        | none => false))
    | none => false)

def stepAtsInvalidateCompletion (port : Fin 4) (idx : Nat) (s : State) : State :=
  match (s.port port.val).invals[idx]? with
  | none => s
  | some (pasid, va, len) =>
    if s.hostPagesUsed port.val pasid va len then s
    else
      (s.updPort port.val (fun x => { x with
        invals := x.invals.eraseIdx idx
        atc := x.atc.filter (fun a => !(a.pasid == pasid && overlaps a.va (2 ^ a.size) va len)) })).emit (.atsDone port.val pasid va)

/-- ATS_INVALIDATE_COMPLETION (08 R197): the entries are dropped and the elements under them are complete. -/
def execAtsInvalidateCompletion (port : Fin 4) (idx : Nat) (s : State) : Host.Outcome State Fault Refusal :=
  .next (stepAtsInvalidateCompletion port idx s)

end Sys2Proof.Machine
end

