-- ==== Sys2Proof/Machine/Msg.lean ====
section
/-! DEFINITION. Messages: the tile's SEND, RECV, QCOUNT, CPOP and CQARM, the operations of CLU_MSG_CTL, arriving descriptors, items,
PUT, acknowledgements and combining queues (09 R206-R222, R229). -/
namespace Sys2Proof.Machine

/-! SEND (09 R209-R211, R214). -/

/-- Are reserved bits of a tile's descriptor zero and its codes assigned, for a channel bound to a combining queue or not
(09 R209, R210)? -/
def sendOk (p : Nat) (cq : Bool) : Bool :=
  field p 2 2 == 0 && !p.testBit 6 && field p 29 3 == 0 && field p 37 3 == 0 && field p 93 3 == 0 && dToff p == 0 &&
  (dKind p == 0 || !dMore p) &&
  (if dKind p == 0 then !cq
   else if dKind p == 1 then
     !cq && dLen p % 32 == 0 && dAddr p % 32 == 0 && field (dArg p) 0 48 % 32 == 0 && decide (32 ≤ dLen p) && decide (dLen p ≤ 65536) &&
       dFormat p == 0 && field (dArg p) 48 16 == 0
   else if dKind p == 2 then
     cq && dLen p % 4 == 0 && dAddr p % 4 == 0 && decide (4 ≤ dLen p) && decide (dLen p ≤ 65536) && decide (dFormat p < 2) &&
       field (dArg p) 24 40 == 0
   else false)

/-- The device addresses of a range inside the mapped regions of a section, piece by piece; none if a byte lies outside. -/
def regionPieces (regs : List Region) : Nat → Nat → Nat → Option (List (Nat × Nat))
  | 0, _, _ => none
  | fuel + 1, va, n =>
    if n = 0 then some []
    else match regs.find? (fun r => decide (r.va ≤ va) && decide (va < r.va + r.len)) with
    | none => none
    | some r =>
      let k := min n (r.va + r.len - va)
      (regionPieces regs fuel (va + k) (n - k)).map (fun l => (va - r.va + r.dpa, k) :: l)

/-- A piece of memory as the sending thread sees it: with the stores that wait in its tile's port (07 R182, log entry 15). -/
def State.pieceSeen (s : State) (q : List PortOp) (dpa n : Nat) : List Byte :=
  let m := q.foldl (fun (m : Mem) o => match o.kind with
    | .store _ v => if overlaps o.dpa o.bytes dpa n then mwrite m o.dpa o.bytes v else m
    | _ => m) (mslice s.mem.bytes dpa n dpa)
  mbytes m dpa n

/-- Eight registers as 256 bits, word i in register b + i (09 R211). -/
def State.regs8 (s : State) (ta th b cycle : Nat) : Nat :=
  (List.range 8).foldl (fun v i => v + (s.regVal ta th (b + i) cycle i).toNat * 2 ^ (32 * i)) 0

/-- Write 256 bits to eight registers, ready in the next slot (09 R213, R216). -/
def Thread.setRegs8 (t : Thread) (b v cycle : Nat) : Thread :=
  (List.range 8).foldl (fun t i => t.setReg (b + i) (BitVec.ofNat 32 (v / 2 ^ (32 * i))) (cycle + 4)) t

/-- The descriptor a channel sends: the sender's fields with the hardware's (09 R209). -/
def hwFields (p dest destQ gen seq : Nat) (key : BitVec 12) (src ch : Nat) : Nat :=
  let p := setField (setField (setField p 7 1 0) 8 8 0) 16 13 dest
  let p := setField (setField (setField p 32 5 destQ) 40 8 gen) 48 16 seq
  setField (setField (setField p 64 12 key.toNat) 76 13 src) 89 4 ch

/-- The window-slot marker of a descriptor returned under 09 R210, which takes no SEQ; log entry 63. -/
def noSeq : Nat := 65536

/-- A tile descriptor is accepted (09 R211): returned at once under R210, or sent with its source data. -/
def State.sendOn (s : State) (ta n : Nat) (i : CtxId) (p : Nat) (data : List Byte) : State :=
  let x := s.channel ta n
  let key := s.keyOf i.part
  let s := s.updChannel ta n (fun y => { y with sent := wrapAdd 32 y.sent 1 })
  if !sendOk p x.destCq then
    let d := hwFields p x.dest x.destQ x.gen (s.freeVal 16).toNat key ta n
    let s := (s.drew 1).updChannel ta n (fun y => { y with inFlight := y.inFlight ++ [noSeq] })
    { s with msg := { s.msg with cqs := tset s.msg.cqs ta (tget s.msg.cqs ta [] ++ [withStatus d St.reservedNonzero + 2 ^ 256]) } }
  else
    let d := hwFields p x.dest x.destQ x.gen x.seq key ta n
    let s := s.updChannel ta n (fun y => { y with seq := wrapAdd 16 y.seq 1, inFlight := y.inFlight ++ [y.seq] })
    let q : Packet := { Packet.blank with
      node := taC ta, inPort := 4, dest := taC x.dest, key, ctx := some i, agent := 1, taddr := ta, kind := 1, payload := d, back := x.inc
      gen := s.destGen x.dest }
    if data.isEmpty then s.inject q else s.injectAll q d data

/-- May a channel take a descriptor of a context (09 R211)? -/
def Channel.takes (x : Channel) (i : CtxId) : Bool := x.opened && x.ctx == some i && decide (x.inFlight.length < x.window)

def stepSend (t : TileId) (th : Fin 4) (chan : Fin 16) (sB : Fin 32) (s : State) : State :=
  let ta := tileKey t
  match s.canIssue ta th.val with
  | none => s
  | some (b, cy) =>
    let x := s.bat (taC ta) b
    let det := tileDetail th.val 0 0 0
    if sB.val = 0 || 24 < sB.val then ((s.issueOnly ta th.val cy)).faultOn ta b [St.illegalInstruction] det 0
    else
      let p := s.regs8 ta th.val sB.val cy
      let answer := fun (s : State) (a : Bool) =>
        ((s.updThread ta th.val (fun y => { y with accept := a })).issueOnly ta th.val cy).drew 6
      let ch := s.channel ta chan.val
      match x.owner with
      | none => s
      | some i =>
        if !ch.takes i then answer s false
        else if sendOk p ch.destCq && (dKind p == 1 || dKind p == 2) then
          match regionPieces x.regions 18 (dAddr p) (dLen p) with
          | none => (answer s true).faultOn ta b [St.regionRange] det (dAddr p)
          | some l =>
            if l.any (fun q => s.poisoned q.1 q.2) then (answer s true).faultOn ta b [0x70] det (dAddr p)
            else
              let data := l.flatMap (fun q => s.pieceSeen (s.tile ta).ctl.portQ q.1 q.2)
              answer (s.sendOn ta chan.val i p data) true
        else answer (s.sendOn ta chan.val i p []) true

/-- SEND (02 R49, 09 R209-R212, R214). -/
def execSend (t : TileId) (th : Fin 4) (chan : Fin 16) (sB : Fin 32) (s : State) : Host.Outcome State Fault Refusal :=
  .next (stepSend t th chan sB s)

/-! RECV, QCOUNT, CPOP. -/

def stepRecv (t : TileId) (th : Fin 4) (q : Fin 16) (sB : Fin 32) (s : State) : State :=
  let ta := tileKey t
  match s.canIssue ta th.val with
  | none => s
  | some (b, cy) =>
    let det := tileDetail th.val 0 0 0
    let y := s.rxq ta q.val
    if 24 < sB.val then (s.issueOnly ta th.val cy).faultOn ta b [St.illegalInstruction] det 0
    else match y.entries with
    | e :: rest =>
      if y.ctx != (s.bat (taC ta) b).owner then (s.issueOnly ta th.val cy).faultOn ta b [St.lateData] det 0
      else
        let s := s.updRxq ta q.val (fun z => { z with entries := rest })
        let s := s.returnEntry ta y.ctx e St.posted
        (s.updThread ta th.val (fun z => z.setRegs8 sB.val e.data cy)).issueOnly ta th.val cy
    | [] => (s.issueOnly ta th.val cy).faultOn ta b [St.lateData] det 0

/-- RECV (09 R216): the head entry; an empty queue is LATE_DATA; log entry 64. -/
def execRecv (t : TileId) (th : Fin 4) (q : Fin 16) (sB : Fin 32) (s : State) : Host.Outcome State Fault Refusal :=
  .next (stepRecv t th q sB s)

def stepQcount (t : TileId) (th : Fin 4) (q : Fin 16) (sD : Fin 32) (s : State) : State :=
  let ta := tileKey t
  match s.canIssue ta th.val with
  | none => s
  | some (b, cy) =>
    let y := s.rxq ta q.val
    let n := if y.ctx == (s.bat (taC ta) b).owner then y.entries.length else 0
    s.issueReg ta th.val cy sD.val (BitVec.ofNat 32 n)

/-- QCOUNT (09 R216). -/
def execQcount (t : TileId) (th : Fin 4) (q : Fin 16) (sD : Fin 32) (s : State) : Host.Outcome State Fault Refusal :=
  .next (stepQcount t th q sD s)

/-- The window slot of a channel's descriptor is free again (09 R212). -/
def State.freeSlot (s : State) (ta n mark : Nat) : State :=
  s.updChannel ta n (fun y => { y with inFlight := y.inFlight.erase mark })

def stepCpop (t : TileId) (th : Fin 4) (sB : Fin 32) (s : State) : State :=
  let ta := tileKey t
  match s.canIssue ta th.val with
  | none => s
  | some (b, cy) =>
    if 24 < sB.val then (s.issueOnly ta th.val cy).faultOn ta b [St.illegalInstruction] (tileDetail th.val 0 0 0) 0
    else match tget s.msg.cqs ta [] with
    | [] => (s.updThread ta th.val (fun z => z.setRegs8 sB.val 0 cy)).issueOnly ta th.val cy
    | e :: rest =>
      let s := { s with msg := { s.msg with cqs := tset s.msg.cqs ta rest } }
      let s := s.freeSlot ta (dSrcCh e) (if e.testBit 256 then noSeq else dSeq e)
      (s.updThread ta th.val (fun z => z.setRegs8 sB.val e cy)).issueOnly ta th.val cy

/-- CPOP (09 R212, R213): the oldest completion entry, or zeros. -/
def execCpop (t : TileId) (th : Fin 4) (sB : Fin 32) (s : State) : Host.Outcome State Fault Refusal := .next (stepCpop t th sB s)

/-! Arming a combining queue (09 R220). -/

/-- Arm a combining queue for a context, none standing for the context recorded at open: the state and a status, 0 for done. -/
def State.armComb (s : State) (c q : Nat) (i : Option CtxId) : State × Nat :=
  let x := s.comb c q
  if x.st = 0 || (i.isSome && x.ctx != i) then (s, St.readerGone)
  else if x.st != 1 || x.pending then (s, St.combineBusy)
  else (s.updComb c q (fun y => { y with st := 2, count := 0, staged := [] }), 0)

def stepCqarm (t : TileId) (th : Fin 4) (q : Fin 32) (s : State) : State :=
  let ta := tileKey t
  match s.canIssue ta th.val with
  | none => s
  | some (b, cy) =>
    match s.armComb (taC ta) q.val (s.bat (taC ta) b).owner with
    | (s1, st) =>
      let s1 := s1.issueOnly ta th.val cy
      if st = 0 then s1 else s1.faultOn ta b [st] (tileDetail th.val 0 0 0) 0

/-- CQARM (09 R220): a refused arm aborts the section. -/
def execCqarm (t : TileId) (th : Fin 4) (q : Fin 32) (s : State) : Host.Outcome State Fault Refusal := .next (stepCqarm t th q s)

/-! CLU_MSG_CTL (09 R208, R218-R220, R229). -/

def mcOp (v : Dword) : Nat := bf v 1 3
def mcTaddr (v : Dword) : Nat := bf v 4 13
def mcIndex (v : Dword) : Nat := bf v 17 5
def mcContext (v : Dword) : Nat := bf v 22 6
def mcWindow (v : Dword) : Nat := bf v 28 5
def mcDest (v : Dword) : Nat := bf v 33 13
def mcDestQ (v : Dword) : Nat := bf v 46 5
def mcDestCq (v : Dword) : Bool := v.toNat.testBit 51

/-- The reserved values of an operation (09 R208 check 1, R219; 01 R23 for every TADDR). -/
def State.mcReserved (s : State) (c : Nat) (strict : Bool) (v : Dword) : Bool :=
  let op := mcOp v
  let g := (s.comb c (mcIndex v)).cfg
  taC (mcTaddr v) != c || decide (16 < taY (mcTaddr v)) ||
  (decide (5 ≤ op) && (taX (mcTaddr v) != 0 || taY (mcTaddr v) != 0)) ||
  (decide (op < 5) && decide (15 < mcIndex v)) ||
  (op == 3 && (mcWindow v == 0 || decide (16 < mcWindow v))) ||
  (decide (15 < mcDestQ v) && !mcDestCq v) ||
  (op == 3 && decide (16 < taY (mcDest v))) ||
  (op == 5 && (decide (16 < taY (combNotify g).1) || combElems g == 0 || decide (262144 < combElems g) || combN g == 0 ||
    (strict && (combSlot g == 0 || decide (65536 < combSlot g)))))

/-- Map a range to scratch-mode cluster memory of one cluster, page by page, in frames of a context (09 R219). -/
def State.mapScratch (s : State) (c : Nat) (i : CtxId) : Nat → Nat → Nat → State × Except Nat (List (Nat × Nat))
  | 0, _, _ => (s, .ok [])
  | fuel + 1, va, n =>
    if n = 0 then (s, .ok [])
    else
      let k := min n (0x10000 - va % 0x10000)
      match s.translate i va true with
      | (s1, .dev dpa _) => match home dpa with
        | .cm c' _ =>
          if c' = c then
            match s1.mapScratch c i fuel (va + k) (n - k) with
            | (s2, .ok l) => (s2, .ok ((dpa, k) :: l))
            | r => r
          else (s1, .error St.sourceTier)
        | _ => (s1, .error St.sourceTier)
      | (s1, .host _ _ _) => (s1, .error St.sourceTier)
      | (s1, .err st) => (s1, .error st)

/-- Open a combining queue (09 R219). -/
def State.openComb (s : State) (c q : Nat) (i : CtxId) (strict : Bool) : State × Nat :=
  let g := (s.comb c q).cfg
  match s.mapScratch c i 18 (combTarget g) (4 * combElems g) with
  | (s1, .error st) => (s1, st)
  | (s1, .ok tgt) =>
    match (if strict then s1.mapScratch c i 65538 (combStage g) (combStageLen g) else (s1, .ok [])) with
    | (s2, .error st) => (s2, st)
    | (s2, .ok stg) =>
      let (ta, n) := combNotify g
      let y := s2.rxq ta n
      if !(y.opened && y.ctx == some i && decide (s2.rxTaken ta n < 64)) then (s2, St.queueFull)
      else
        let s3 := s2.updRxq ta n (fun z => { z with reserved := z.reserved + 1 })
        (s3.updComb c q (fun x => { x with
          st := 1, ctx := some i, gen := wrapAdd 8 x.gen 1, bits := g, strict, count := 0, rounds := 0, target := tgt
          staging := stg, staged := [], nGen := y.gen }), 0)

/-- Open a channel (09 R208): its destination, then the reservation of W entries. -/
def State.openChan (s : State) (ta n : Nat) (i : CtxId) (v : Dword) : State × Nat :=
  let dest := mcDest v
  let q := mcDestQ v
  let w := mcWindow v
  let bind := fun (s : State) (gen : Nat) => s.updChannel ta n (fun x =>
    { x with
      opened := true, ctx := some i, gen, inc := x.inc + 1, dest := if mcDestCq v then taddr (taC dest) 0 0 else dest, destQ := q, destCq := mcDestCq v, window := w, seq := 0
      inFlight := [], sent := 0, stall := 0 })
  if mcDestCq v then
    let y := s.comb (taC dest) q
    if y.st = 0 || y.ctx != some i then (s, St.readerGone) else (bind s y.gen, 0)
  else
    let y := s.rxq dest q
    if !y.opened || y.ctx != some i then (s, St.readerGone)
    else if 64 < s.rxTaken dest q + w then (s, St.queueFull)
    else
      let key := (s.channel ta n).inc * 131072 + 131072 + ta * 16 + n
      (bind (s.updRxq dest q (fun z => { z with reserved := z.reserved + w, windows := tset z.windows key w })) y.gen, 0)

/-- Flush a receive queue (09 R218): the visible items and one partly assembled item of each channel count now, a further item of a channel
when the descriptors between show that it is one; log entry 65. -/
def State.flushRx (s : State) (ta q : Nat) : State :=
  let x := s.rxq ta q
  let n := (x.entries.filter (fun e => e.first && !dSys e.data && dKind e.data == 0)).length + x.freshKeys.length
  let s := s.each x.entries (fun s e => s.returnEntry ta x.ctx e St.flushed)
  let s := (s.updRxq ta q (fun y => { y with entries := [] })).discardParts ta q St.flushed false
  s.updClX (taC ta) (fun y => { y with flushItems := satAdd 16 y.flushItems n })

/-- Perform an operation of CLU_MSG_CTL (09 R208): the state and RESULT. -/
def State.msgPerform (s : State) (c : Nat) (v : Dword) : State × Nat :=
  let op := mcOp v
  let ta := mcTaddr v
  let n := mcIndex v
  let p := s.partOf c
  let i := s.ident (p.getD 0) (mcContext v)
  let strict := (s.part (p.getD 0)).strict
  let isOpen := op == 0 || op == 3 || op == 5
  if s.mcReserved c strict v then (s, St.reservedNonzero)
  else if isOpen && (p.isNone || !s.live i) then (s, St.contextState)
  else match op with
  | 0 => if (s.rxq ta n).opened then (s, St.queueOpen) else
      (s.updRxq ta n (fun x =>
        { x with
          opened := true, ctx := some i, gen := wrapAdd 8 x.gen 1, entries := [], parts := [], ends := [], reserved := 0, windows := []
          markers := []
          received := 0, empty := 0 }), 0)
  | 1 => if (s.rxq ta n).opened then (s.closeRx ta n, 0) else (s, St.readerGone)
  | 2 => if (s.rxq ta n).opened then (s.flushRx ta n, 0) else (s, St.readerGone)
  | 3 => if (s.channel ta n).opened then (s, St.queueOpen) else s.openChan ta n i v
  | 4 => if (s.channel ta n).opened then (s.closeChan ta n, 0) else (s, St.readerGone)
  | 5 => if (s.comb c n).st != 0 then (s, St.queueOpen) else s.openComb c n i strict
  | 6 => if (s.comb c n).st != 0 then (s.closeComb c n, 0) else (s, St.readerGone)
  | _ => s.armComb c n none

/-- A write of CLU_MSG_CTL (09 R229): its fields, and the operation if GO is 1. -/
def State.msgWrite (s : State) (fn : Fn) (c : Nat) (v : Dword) : State :=
  s.gateC fn c (offC c 0x18) v.toNat (fun s =>
    let keep := bf (s.clX c).msgCtl 56 8
    let fields := bf v 1 51 * 2
    if !v.toNat.testBit 0 then s.updClX c (fun x => { x with msgCtl := BitVec.ofNat 64 (fields + keep * 2 ^ 56) })
    else match s.msgPerform c v with
    | (s1, res) => s1.updClX c (fun x => { x with msgCtl := BitVec.ofNat 64 (fields + res * 2 ^ 56) }))

/-- The written value with GO = 1 and an operation. -/
def mcWith (op : Nat) (v : Dword) : Dword := BitVec.ofNat 64 (setField v.toNat 0 4 (1 + 2 * op))

/-- OPEN_QUEUE (09 R208). -/
def execOpenQueue (fn : Fn) (c : Fin 16) (val : Dword) (s : State) : Host.Outcome State Fault Refusal :=
  .next ((s.unlatch fn).msgWrite fn c.val (mcWith 0 val))
/-- CLOSE_QUEUE (09 R207, R218). -/
def execCloseQueue (fn : Fn) (c : Fin 16) (val : Dword) (s : State) : Host.Outcome State Fault Refusal :=
  .next ((s.unlatch fn).msgWrite fn c.val (mcWith 1 val))
/-- FLUSH_QUEUE (09 R218). -/
def execFlushQueue (fn : Fn) (c : Fin 16) (val : Dword) (s : State) : Host.Outcome State Fault Refusal :=
  .next ((s.unlatch fn).msgWrite fn c.val (mcWith 2 val))
/-- OPEN_CHANNEL (09 R208). -/
def execOpenChannel (fn : Fn) (c : Fin 16) (val : Dword) (s : State) : Host.Outcome State Fault Refusal :=
  .next ((s.unlatch fn).msgWrite fn c.val (mcWith 3 val))
/-- CLOSE_CHANNEL (09 R213, R218). -/
def execCloseChannel (fn : Fn) (c : Fin 16) (val : Dword) (s : State) : Host.Outcome State Fault Refusal :=
  .next ((s.unlatch fn).msgWrite fn c.val (mcWith 4 val))
/-- OPEN_COMBINING_QUEUE (09 R219). -/
def execOpenCombiningQueue (fn : Fn) (c : Fin 16) (val : Dword) (s : State) : Host.Outcome State Fault Refusal :=
  .next ((s.unlatch fn).msgWrite fn c.val (mcWith 5 val))
/-- CLOSE_COMBINING_QUEUE (09 R207, R218, R227). -/
def execCloseCombiningQueue (fn : Fn) (c : Fin 16) (val : Dword) (s : State) : Host.Outcome State Fault Refusal :=
  .next ((s.unlatch fn).msgWrite fn c.val (mcWith 6 val))
/-- ARM_COMBINING_QUEUE (09 R220). -/
def execArmCombiningQueue (fn : Fn) (c : Fin 16) (val : Dword) (s : State) : Host.Outcome State Fault Refusal :=
  .next ((s.unlatch fn).msgWrite fn c.val (mcWith 7 val))

/-! Items (09 R215). -/

/-- The part of a channel with a SEQ, and the marker with a SEQ. -/
def RxQueue.partAt (x : RxQueue) (key seq : Nat) : Option RxEntry :=
  x.parts.find? (fun e => chanKey e.data e.inc == key && dSeq e.data == seq)
def RxQueue.markAt (x : RxQueue) (key seq : Nat) : Option Marker := x.markers.find? (fun m => m.key == key && m.seq == seq)

/-- MORE of the descriptor known at a SEQ. -/
def RxQueue.moreAt (x : RxQueue) (key seq : Nat) : Option Bool :=
  match x.partAt key seq with
  | some e => some (dMore e.data)
  | none => (x.markAt key seq).map (·.more)

/-- The descriptors of the item that begins at a SEQ, as far as they are here, and how it ends: 0 not yet, 1 with MORE = 0, 2 at
min(4, W) descriptors, 3 before a PUT. -/
def RxQueue.chain (x : RxQueue) (key : Nat) : Nat → Nat → List Nat × Nat
  | 0, _ => ([], 2)
  | n + 1, b =>
    if x.ends.contains (key, b, true) then ([], 3)
    else match x.moreAt key b with
    | none => ([], 0)
    | some false => ([b], 1)
    | some true =>
      let r := x.chain key n (wrapAdd 16 b 1)
      (b :: r.1, r.2)

/-- FLUSH_ITEMS counts an item that a flush discarded and that had not been told from another (09 R218). -/
def State.countItem (s : State) (c : Nat) (new : Bool) : State :=
  if new then s.updClX c (fun y => { y with flushItems := satAdd 16 y.flushItems 1 }) else s

/-- Settle the item of a channel that begins at a SEQ: made visible when whole; returned where a marker belongs to it. -/
def State.settleAt (s : State) (ta q key lim b : Nat) : State :=
  let x := s.rxq ta q
  let r := x.chain key lim b
  let here := fun (seq : Nat) => r.1.contains seq
  let ps := r.1.filterMap (x.partAt key)
  let ms := x.markers.filter (fun m => m.key == key && here m.seq)
  let restP := x.parts.filter (fun e => !(chanKey e.data e.inc == key && here (dSeq e.data)))
  let restM := x.markers.filter (fun m => !(m.key == key && here m.seq))
  let stop := wrapAdd 16 b r.1.length
  let ends1 := if r.2 = 0 then x.ends else x.ends.erase (key, b, false)
  let ends2 := if r.2 = 3 then ends1.erase (key, stop, true) else if r.2 = 2 then ends1 ++ [(key, stop, false)] else ends1
  if ms.isEmpty then
    if r.2 = 0 then s
    else
      let vis := ps.map (fun e => { e with first := dSeq e.data == b })
      s.updRxq ta q (fun y => { y with
        entries := y.entries ++ vis, parts := restP, ends := ends2, received := wrapAdd 32 y.received ps.length })
  else
    let muffled := ms.any (·.muffled)
    let s := s.each ps (fun s e => s.returnEntry ta x.ctx e (if muffled then St.unitMuffled else St.flushed))
    s.updRxq ta q (fun y => { y with
      parts := restP, ends := ends2
      markers := if r.2 = 0 then
          y.markers ++ ps.map (fun e => { key, seq := dSeq e.data, more := dMore e.data, muffled, counted := false })
        else restM }) |>.countItem (taC ta) (r.2 != 0 && !ms.any (·.counted))

/-- Settle every item of a channel whose first SEQ is known. -/
def State.settle (s : State) (ta q key lim : Nat) : State :=
  s.each (List.range 17) (fun s _ =>
    s.each ((s.rxq ta q).ends.filter (fun e => e.1 == key && !e.2.2)) (fun s e => s.settleAt ta q key lim e.2.1))

/-- A SEQ of a channel becomes known at a queue: a PUT, or the last MSG of an item, tells where the next item begins. -/
def RxQueue.know (x : RxQueue) (key seq : Nat) (put last : Bool) : RxQueue :=
  let e0 := if x.ends.any (fun e => e.1 == key) then x.ends else x.ends ++ [(key, 0, false)]
  let e1 := if put then e0 ++ [(key, seq, true)] else e0
  { x with ends := if put || last then e1 ++ [(key, wrapAdd 16 seq 1, false)] else e1 }

/-- min(4, W) of the channel a descriptor came from (09 R215), as its opening told the queue. -/
def RxQueue.itemLimit (x : RxQueue) (key : Nat) : Nat := min 4 (tget x.windows key 4)

/-! Arriving descriptors. -/

/-- The status that turns a descriptor away at its destination tile (09 R217, 15 R362, 16 R378): none if it is taken. -/
def State.rxRefuses (s : State) (p : Packet) : Option Nat :=
  let ta := dDest p.payload
  let x := s.rxq ta (dDestQ p.payload)
  if s.muffledTile ta then some St.unitMuffled
  else if !(s.clY (taC ta)).ready then some 0xD0
  else if !x.opened || x.gen != dGen p.payload || p.gen != s.destGen ta then some St.readerGone
  else none

/-- A packet's descriptor goes back to its sender from its destination cluster. -/
def State.refusePacket (s : State) (p : Packet) (status : Nat) : State :=
  let s := s.dropPacket p.id
  let s := if status == St.readerGone && !dSys p.payload then s.countGone p.node 1 else s
  s.sendBack p.node 4 p.payload p.back p.key p.ctx status

/-- A descriptor goes back from its destination cluster with all its packets. -/
def State.refuseGroup (s : State) (p : Packet) (status : Nat) : State := (s.dropGroup p.group).refusePacket p status

/-- An arrived descriptor packet of a kind. -/
def State.arrivedDesc (s : State) (id kind : Nat) : Option Packet :=
  (s.packet id).bind (fun p => if p.arrived && p.kind == kind then some p else none)

/-- The destination of a PUT, page by page (09 R214): pieces of device memory, or a status. -/
def State.putPieces (s : State) (c : Nat) (i : CtxId) : Nat → Nat → Nat → State × Except Nat (List (Nat × Nat))
  | 0, _, _ => (s, .ok [])
  | fuel + 1, va, n =>
    if n = 0 then (s, .ok [])
    else
      let k := min n (0x10000 - va % 0x10000)
      match s.translateC c i va true with
      | (s1, .dev dpa _) =>
        match s1.putPieces c i fuel (va + k) (n - k) with
        | (s2, .ok l) => (s2, .ok ((dpa, k) :: l))
        | r => r
      | (s1, .host _ _ _) => (s1, .error St.sourceTier)
      | (s1, .err st) => (s1, .error st)

/-- Write data over pieces; a poisoned line that a piece covers in part takes nothing (07 R179). -/
def State.writePieces (s : State) : List (Nat × Nat) → List Byte → State
  | [], _ => s
  | (dpa, n) :: rest, bs => (s.storeRange true dpa (bs.take n)).writePieces rest (bs.drop n)

/-- The SEQ of a PUT is known at its queue (09 R215): it ends the item before it. -/
def State.putKnown (s : State) (p : Packet) : State :=
  let ta := dDest p.payload
  let q := dDestQ p.payload
  let key := chanKey p.payload p.back
  (s.updRxq ta q (fun x => x.know key (dSeq p.payload) true false)).settle ta q key ((s.rxq ta q).itemLimit key)

/-- Is a packet the first of its PUT to act at the destination? -/
def State.firstPart (s : State) (p : Packet) : Bool := !(s.groupOf p.group).any (fun q => q.kind == 3)

/-- A packet of a PUT arrives (09 R214, R215): its part of the data is written, waits for a lock, or the descriptor goes back; in each case
but the second its SEQ is known. A line lost in part takes nothing, and the descriptor goes back in the end (07 R179). -/
def State.putArrives (s : State) (p : Packet) (i : CtxId) : State :=
  let ta := dDest p.payload
  let va := field (dArg p.payload) 0 48 + p.off
  let n := min 2048 (dLen p.payload - p.off)
  let known := fun (s : State) => if s.firstPart p then s.putKnown p else s
  match s.putPieces (taC ta) i 4 va n with
  | (s1, .error st) =>
    let s1 := if st == St.sourceTier then s1
      else s1.fatal i { FaultRec.of st 1 with cluster := taC (dSrc p.payload), taddr := dSrc p.payload, va }
    (known s1).refuseGroup p st
  | (s1, .ok l) =>
    if l.any (fun e => s1.locked e.1 e.2 true none) then s1
    else match s1.reachAll (taC ta) i 1 (dSrc p.payload) (l.map (·.1)) with
    | (s2, 0) =>
      let bad := l.any (fun e => s2.partPoison e.1 e.2)
      (known (s2.writePieces l (leBytes n (dData p.payload)))).setPacket p.id (fun y => { y with kind := 3, fault := if bad then 0x70 else 0 })
    | (s2, st) => (known s2).refuseGroup p st

def stepDescriptorArrival (id : Nat) (s : State) : State :=
  match s.arrivedDesc id 1 with
  | none => s
  | some p =>
    let d := p.payload
    if dKind d == 2 then s
    else match s.rxRefuses p with
    | some st => s.refuseGroup p st
    | none =>
      let ta := dDest d
      let q := dDestQ d
      match p.ctx with
      | none => s
      | some i =>
        if dKind d == 1 then s.putArrives p i
        else if dSys d then
          (s.dropPacket id).updRxq ta q (fun x => { x with
            entries := x.entries ++ [{ data := descOnly d, inc := p.back, first := true }], received := wrapAdd 32 x.received 1 })
        else
          let key := chanKey d p.back
          ((s.dropPacket id).updRxq ta q (fun x =>
            { x.know key (dSeq d) false (!dMore d) with parts := x.parts ++ [{ data := descOnly d, inc := p.back, first := false }] })).settle
            ta q key ((s.rxq ta q).itemLimit key)

/-- DESCRIPTOR_ARRIVAL (09 R214-R218). -/
def execDescriptorArrival (id : Nat) (s : State) : Host.Outcome State Fault Refusal := .next (stepDescriptorArrival id s)

def stepPutPerformed (id : Nat) (s : State) : State :=
  match s.arrivedDesc id 3 with
  | none => s
  | some p =>
    let g := s.groupOf p.group
    let whole := g.all (fun q => q.kind == 3) && g.length == (dLen p.payload + 2047) / 2048
    match s.rxRefuses p with
    | some st => s.refuseGroup p st
    | none =>
      if !whole then s
      else match g.find? (fun q => q.fault != 0) with
      | some q => s.refuseGroup p q.fault
      | none =>
        (s.dropGroup p.group).updRxq (dDest p.payload) (dDestQ p.payload) (fun x => { x with
          entries := x.entries ++ [{ data := descOnly p.payload, inc := p.back, first := true }], received := wrapAdd 32 x.received 1 })

/-- PUT_PERFORMED (09 R215, R227, 10 R232): the PUT is placed after the data of all its packets, which arrive in any order. -/
def execPutPerformed (id : Nat) (s : State) : Host.Outcome State Fault Refusal := .next (stepPutPerformed id s)

def stepAcknowledgement (id : Nat) (s : State) : State :=
  match s.arrivedDesc id 2 with
  | none => s
  | some p =>
    let ta := dSrc p.payload
    let n := dSrcCh p.payload
    let x := s.channel ta n
    let s := s.dropPacket id
    if !x.opened || x.inc != p.back then s
    else if dStatus p.payload == St.posted && !dCq p.payload then s.freeSlot ta n (dSeq p.payload)
    else { s with msg := { s.msg with cqs := tset s.msg.cqs ta (tget s.msg.cqs ta [] ++ [descOnly p.payload]) } }

/-- ACKNOWLEDGEMENT (09 R212, R213): frees the slot, or writes a completion entry; discarded for a closed channel. -/
def execAcknowledgement (id : Nat) (s : State) : Host.Outcome State Fault Refusal := .next (stepAcknowledgement id s)

/-! Combining (09 R220-R222). -/

/-- The device address at an offset of mapped pieces. -/
def pieceAt : List (Nat × Nat) → Nat → Option Nat
  | [], _ => none
  | (dpa, n) :: rest, o => if o < n then some (dpa + o) else pieceAt rest (o - n)

/-- Add the elements of a contribution into the target (09 R221): an element is a word, or lost with its line, and a lost word of the target
stays lost (07 R179). -/
def State.addElems (s : State) (tgt : List (Nat × Nat)) (fp : Bool) (first : Nat) (data : List (Option Word)) : State :=
  s.each ((List.range data.length).zip data) (fun s (e : Nat × Option Word) =>
    match pieceAt tgt (4 * (first + e.1)), e.2 with
    | some a, some x =>
      if s.poisoned a 4 then s.lostNotice a 4
      else
        let old := BitVec.ofNat 32 (s.load a 4)
        s.store a (leBytes 4 (if fp then fpAdd old x else old + x).toNat)
    | _, _ => s)

/-- The round ends (09 R222): the queue is idle and its notification is on its way. -/
def State.endRound (s : State) (c q : Nat) : State :=
  let x := s.comb c q
  let nt := combNotify x.bits
  let i := x.ctx.getD { part := 0, ctx := 0, gen := 0 }
  let key := s.keyOf i.part
  let d := pack [(2, 0), (5, 0), (1, 1), (8, 0), (13, nt.1), (3, 0), (5, nt.2), (3, 0), (8, x.nGen), (16, 0), (12, key.toNat), (13, 0), (4, 0),
    (3, 0), (48, combTarget x.bits), (24, 4 * combElems x.bits), (8, 0xFF), (16, 0), (5, q), (3, 0), (29, x.rounds), (27, 0)]
  let s := s.updComb c q (fun y => { y with st := 1, pending := true, rounds := wrapAdd 24 y.rounds 1, staged := [] })
  s.inject { Packet.blank with
    node := c, inPort := 4, dest := taC nt.1, key, ctx := x.ctx, agent := 5, taddr := taddr c 0 0, kind := 1, payload := d
    back := qKey c q, gen := s.destGen nt.1 }

/-- The data of a contribution whose packets have all arrived, in the order of their offsets (10 R232, R234). -/
def State.groupData (s : State) (p : Packet) : Option Nat :=
  let n := (dLen p.payload + 2047) / 2048
  let g := (List.range n).filterMap (fun k => (s.groupOf p.group).find? (fun q => q.off == 2048 * k && q.arrived))
  if g.length == n then some (g.foldl (fun v q => v + dData q.payload * 2 ^ (8 * q.off)) 0) else none

/-- The device ranges a contribution writes. -/
def combWrites (x : CombQueue) (d : Nat) : List (Nat × Nat) :=
  let ws := if x.strict then (List.range ((dLen d + 3) / 4)).map (fun j => pieceAt x.staging (x.count * combSlot x.bits + 4 * j))
    else (List.range (dLen d / 4)).map (fun j => pieceAt x.target (4 * (field (dArg d) 0 24 + j)))
  ws.filterMap (fun o => o.map (fun a => (a, 4)))

/-- The status that turns a contribution away (09 R217, R220): none if it is taken. UNIT_MUFFLED says that a slice it would reach is not in
service. -/
def State.combRefuses (s : State) (p : Packet) (x : CombQueue) : Option Nat :=
  let d := p.payload
  let n := dLen d / 4
  let first := field (dArg d) 0 24
  let c := p.node
  if !(s.clY c).ready then some 0xD0
  else if x.st = 0 || x.gen != dGen d then some St.readerGone
  else if (combWrites x d).any (fun e => match home e.1 with
    | .cm c sl => (s.physOf c sl).isNone
    | _ => false) then some St.unitMuffled
  else if x.st != 2 then some St.combineIdle
  else if combElems x.bits < first + n || (x.strict && combSlot x.bits < dLen d) then some St.combineRange
  else if dFormat d != b2n (combFp x.bits) then some St.reservedNonzero
  else none

def stepCombine (id : Nat) (s : State) : State :=
  match s.arrivedDesc id 1 with
  | none => s
  | some p =>
    let d := p.payload
    if dKind d != 2 then s
    else
      let c := p.node
      let q := dDestQ d
      let x := s.comb c q
      match s.combRefuses p x with
      | some st =>
        let s := if st == St.combineIdle || st == St.combineRange then
            s.updClX c (fun y => { y with cqReturns := satAdd 16 y.cqReturns 1 })
          else s
        s.refuseGroup p st
      | none => match s.groupData p with
      | none => s
      | some bits =>
        let ws := combWrites x d
        if ws.any (fun e => s.locked e.1 e.2 true none) then s
        else if ws.any (fun e => s.partPoison e.1 e.2) then (s.each ws (fun s e => s.lostNotice e.1 e.2)).refuseGroup p 0x70
        else
          let s := (s.dropGroup p.group).sendBack c 4 d p.back p.key p.ctx St.posted
          let s := s.updComb c q (fun y => { y with count := y.count + 1 })
          let full := x.count + 1 == combN x.bits
          if x.strict then
            let s := s.each ((List.range ws.length).zip ws) (fun s e => s.store e.2.1 (leBytes 4 (field bits (32 * e.1) 32)))
            s.updComb c q (fun y => { y with
              staged := y.staged ++ [{ src := dSrc d, seq := dSeq d, ch := dSrcCh d, elem := field (dArg d) 0 24, slot := x.count, len := dLen d }]
              st := if full then 3 else 2 })
          else
            let s := s.addElems x.target (combFp x.bits) (field (dArg d) 0 24)
              ((List.range (dLen d / 4)).map (fun j => some (BitVec.ofNat 32 (field bits (32 * j) 32))))
            if full then s.endRound c q else s

/-- COMBINE (09 R220-R222): a contribution whose packets have all arrived reaches its combining queue. -/
def execCombine (id : Nat) (s : State) : Host.Outcome State Fault Refusal := .next (stepCombine id s)

/-- Is one staged contribution added before another (09 R221)? -/
def contribLe (a b : Contribution) : Bool :=
  decide (a.src < b.src) || (a.src == b.src && (decide (a.seq < b.seq) || (a.seq == b.seq && decide (a.ch ≤ b.ch))))

def contribInsert (a : Contribution) : List Contribution → List Contribution
  | [] => [a]
  | b :: r => if contribLe a b then a :: b :: r else b :: contribInsert a r

/-- Staged contributions in the order of strict summation (09 R221). -/
def contribSort (l : List Contribution) : List Contribution := l.foldr contribInsert []

/-- Read a staged contribution back: its words, none where its line is lost (07 R179). -/
def State.stagedData (s : State) (x : CombQueue) (k : Contribution) : List (Option Word) :=
  (List.range (k.len / 4)).map (fun j => match pieceAt x.staging (k.slot * combSlot x.bits + 4 * j) with
    | some a => if s.poisoned a 4 then none else some (BitVec.ofNat 32 (s.load a 4))
    | none => none)

/-- RESIDENT_LOST for the staged words that are lost (07 R179). -/
def State.stagedLost (s : State) (x : CombQueue) : State :=
  s.each (x.staging.filter (fun e => s.poisoned e.1 e.2)) (fun s e => s.lostNotice e.1 e.2)

def stepStrictSummationDone (c : Fin 16) (q : Fin 32) (s : State) : State :=
  let x := s.comb c.val q.val
  if x.st != 3 then s
  else
    ((s.stagedLost x).each (contribSort x.staged) (fun s k =>
      s.addElems x.target (combFp x.bits) k.elem (s.stagedData x k))).endRound c.val q.val

/-- STRICT_SUMMATION_DONE (09 R221, R222). -/
def execStrictSummationDone (c : Fin 16) (q : Fin 32) (s : State) : Host.Outcome State Fault Refusal :=
  .next (stepStrictSummationDone c q s)

end Sys2Proof.Machine
end

