-- ==== Sys2Proof/Machine/Mesh.lean ====
section
/-! DEFINITION. The mesh: key checks, routing, credits, resends and route installation (10 R233-R246). -/
namespace Sys2Proof.Machine

/-- A packet whose key a port refuses (10 R244): dropped whole, silently under a retired key. -/
def State.keyRefused (s : State) (c kind index : Nat) (p : Packet) : State :=
  if s.isRetired p.key && (s.keyOwner p.key).isNone then s.dropGroup p.group
  else ((s.keyFault kind index p.key p.ctx p.agent p.taddr p.dest)).packetEnds c p true St.keyViolation

/-- A packet that a router input port refuses (10 R244). -/
def State.keyDrop (s : State) (c : Nat) (p : Packet) : State := s.keyRefused c 0 (8 * c + p.inPort) p

/-! Routing (10 R237-R240). -/

/-- The output of a packet at a router (10 R237, R239). -/
def State.route (s : State) (c : Nat) (p : Packet) : RouteRes := s.routeOf c p.epoch p.dest p.cls p.escape

/-- Does a cluster in carillon mode hold the packet back (09 R223)? -/
def State.heldByCarillon (s : State) (c : Nat) (p : Packet) : Bool :=
  (s.clX c).carState == 2 && p.dest == c && p.cls == 0 && p.kind == 1

/-- No route (10 R239): the descriptor returns, a stream stops, any other access ends, and the belfry hears of it. -/
def State.noRoute (s : State) (c : Nat) (p : Packet) : State :=
  (s.raise { FaultRec.of St.noRoute 4 with detail := pack [(4, c), (5, p.dest)] }).packetEnds c p false St.noRoute

/-- The port of the memory unit a request is for, if it is for one (10 R234, R243). -/
def Packet.unitPort (p : Packet) : Option UnitPort :=
  if p.dest < 16 then (if p.unit_ < 66 then some (.slice p.dest p.unit_) else none)
  else if p.unit_ < 192 then some (.hbm p.unit_)
  else if p.unit_ < 224 then some (.far (p.unit_ - 192))
  else none

/-- A request leaves the mesh (10 R240, R243, 16 R378): the last router returns it for a unit not ready or muffled, the unit's port checks its
key, and the agent behind takes it. -/
def State.requestArrives (s : State) (c : Nat) (p : Packet) : State :=
  match p.unitPort with
  | none => s.dropPacket p.id
  | some u =>
    if s.unitStatus u != 0 then s.packetEnds c p false (s.unitStatus u)
    else if !s.unitAdmits u p.key then s.keyRefused c u.code.1 u.code.2 p
    else s.dropPacket p.id

/-- A packet leaves a router through a port, on an adaptive (0) or escape (1) channel (10 R235, R237): its flits leave the buffer they stand
in and take the credits there are; a tail without a credit follows as slots come free (log entry 16). -/
def State.sendOut (s : State) (c : Nat) (p : Packet) (port chan : Nat) : State :=
  let s := s.leaveBuffer p
  let n := min p.flits ((s.router c).credit port p.cls chan)
  let s := s.updRouter c (fun r => { r with credits := tset r.credits (creditKey port p.cls chan) (r.credit port p.cls chan - n) })
  let slot := some (c, creditKey port p.cls chan, n)
  if port = 4 || port = 5 then
    let s := s.setPacket p.id (fun y => { y with node := c, arrived := true, slot })
    if p.kind == 0 then s.requestArrives c { p with slot } else s
  else match neighbour c port with
  | none => s
  | some (n, q) => s.setPacket p.id (fun y => { y with node := n, inPort := q, escape := y.escape || chan == 1, slot })

/-- A packet at a router input (10 R237): its key is checked, it is routed, held, dropped or returned. -/
def State.routePacket (s : State) (p : Packet) : State :=
  let c := nodeRouter p.node
  let p := if p.node < 16 then p else { p with node := c, inPort := 5 }
  if p.arrived then s
  else if !s.keyAllowed c p.inPort p.key then s.keyDrop c p
  else if s.heldByCarillon c p then s
  else match s.route c p with
  | .noRoute => s.noRoute c p
  | .wait => s
  | .out port chan => s.sendOut c p port chan

/-- The packet an agent outside the modelled ones injects (10 R234, R241, R242): under its partition's key, or under the system key, which only
the device's own agents carry: memory, checking and firmware (codes 5 to 7). -/
def State.injected (s : State) (x : Inject) : Option Packet :=
  let ok := match x.srcPart with
    | some p => s.hasKey p.val
    | none => decide (5 ≤ x.agent.val)
  if !ok || 2048 < x.bytes then none
  else some { Packet.blank with
    node := x.node.val, inPort := if x.node.val < 16 then 4 else 5, dest := x.dest.val, unit_ := x.unit_
    cls := if x.srcPart.isNone then 2 else min x.cls 1, flits := flitsOf x.bytes
    key := (x.srcPart.map (fun p => s.keyOf p.val)).getD 0
    ctx := x.srcPart.bind (fun p => x.srcCtx.map (fun k => s.ident p.val k.val))
    agent := x.agent.val, taddr := x.taddr, gen := if x.dest.val < 16 then s.destGen (taddr x.dest.val 0 0) else 0 }

def stepPacketRoute (id : Nat) (inj : Option Inject) (s : State) : State :=
  match inj with
  | none => match s.packet id with
    | some p => s.routePacket p
    | none => s
  | some x => match s.injected x with
    | none => s
    | some q =>
      let s := s.inject q
      match s.packet (s.mesh.nextId - 1) with
      | some p => s.routePacket p
      | none => s

/-- PACKET_ROUTE (10 R233-R245): one router hop of a packet of the mesh, or of a packet handed in. -/
def execPacketRoute (id : Nat) (inj : Option Inject) (s : State) : Host.Outcome State Fault Refusal :=
  .next (stepPacketRoute id inj s)

def stepCreditReturn (node : Fin 24) (port : Fin 8) (cls chan : Nat) (s : State) : State :=
  let k := creditKey port.val cls chan
  if node.val < 16 && port.val < 6 && cls < 3 && chan < 2 && 0 < tget (s.router node.val).owed k 0 then
    s.updRouter node.val (fun r => { r with
      owed := tset r.owed k (tget r.owed k 0 - 1)
      credits := tset r.credits k (min (creditFull chan) (r.credit port.val cls chan + 1)) })
  else s

/-- CREDIT_RETURN (10 R235): a flit has left the receive buffer, and the sender has its credit again. -/
def execCreditReturn (node : Fin 24) (port : Fin 8) (cls chan : Nat) (s : State) : Host.Outcome State Fault Refusal :=
  .next (stepCreditReturn node port cls chan s)

/-! Link errors (13 R315). -/

/-- The ledger unit of a lane of a router port: kind 4 with 32c + 16 dir + link, or kind 5 with 68s + lane (13 R318). -/
def linkUnit (c port lane : Nat) : Option (Nat × Nat) :=
  let c0 := if port = 0 then c - 4 else if port = 3 then c - 1 else c
  let south := port = 0 || port = 2
  if (neighbour c port).isNone then none
  else if south && c0 / 4 = 1 then some (5, 68 * (2 + c0 % 4 / 2) + lane)
  else if !south && c0 % 4 = 1 then some (5, 68 * (c0 / 8) + lane)
  else if lane < 16 then some (4, 32 * c0 + 16 * (if south then 1 else 0) + lane)
  else none

/-- LINK_ERRORS as LAST_CAUSE (13 R315). -/
def causeLink : Nat := 0xB8

def stepFlitResend (node : Fin 16) (port : Fin 4) (link : Fin 68) (s : State) : State :=
  match linkUnit node.val port.val link.val with
  | none => s
  | some (kind, ix) =>
    let w := hourWindow s.ledger.opSec (tget s.mem.sbe (4096 * kind + ix) [])
    let s := { s with mem := { s.mem with sbe := tset s.mem.sbe (4096 * kind + ix) w.1 } }
    if w.2 then s.confirm kind ix 5 causeLink else s

/-- FLIT_RESEND (13 R315): counted; the sixteenth in an hour is a confirmed error. -/
def execFlitResend (node : Fin 16) (port : Fin 4) (link : Fin 68) (s : State) : Host.Outcome State Fault Refusal :=
  .next (stepFlitResend node port link s)

/-! Epochs (10 R245, R248). -/

/-- Do packets of an epoch remain in a router (10 R248)? -/
def State.epochBusy (s : State) (c : Nat) (epoch : Bool) : Bool :=
  s.mesh.net.any (fun p => p.node == c && !p.arrived && p.epoch == epoch)

/-- OLD_BUSY of a router. -/
def State.oldBusy (s : State) (c : Nat) : Bool := s.epochBusy c (!s.mesh.epoch)

end Sys2Proof.Machine
end

