-- ==== Sys2Proof/Machine/Carillon.lean ====
section
/-! DEFINITION. The carillon and its peals (09 R223-R226). -/
namespace Sys2Proof.Machine

namespace St
def pealed : Nat := 0x87
def pealPartial : Nat := 0x88
def notCarillon : Nat := 0x89
def carillonTimeout : Nat := 0x8A
end St

/-- The batteries of a cluster in a given state. -/
def State.batsIn (s : State) (c : Nat) (st : BState) : List Nat :=
  (s.bats.filter (fun e => e.1 / 64 == c && e.2.st == st)).map (fun e => e.1 % 64)

/-- A core is told a status or a record (09 R223, R224, R226); core 16 is the scheduler core. -/
def State.tell (s : State) (core v : Nat) : State :=
  { s with msg := { s.msg with told := tset s.msg.told core (BitVec.ofNat 512 v) } }

/-- Start a carillon entry (09 R223); a forced entry ends the sections in ARM. -/
def State.carStart (s : State) (c : Nat) (bySched forced : Bool) : State :=
  let s := s.updClX c (fun x => { x with carState := 1, bySched, carForced := forced })
  if forced then s.each (s.batsIn c .arm) (fun s b => s.failArm c b St.armCancelled) else s

def stepCarillonEntry (c : Fin 16) (bySched forced : Bool) (s : State) : State :=
  let x := s.clX c.val
  if !bySched && s.compDown (16 * (3 + c.val) + 3) then s
  else if x.carState = 0 || (x.carState = 1 && forced && !x.carForced) then s.carStart c.val bySched forced else s

/-- CARILLON_ENTRY (09 R223); the control core starts none with its channels component down (18 R414). -/
def execCarillonEntry (c : Fin 16) (bySched forced : Bool) (s : State) : Host.Outcome State Fault Refusal :=
  .next (stepCarillonEntry c bySched forced s)

/-- Is no stream element of a cluster in flight? -/
def State.streamsIdle (s : State) (c : Nat) : Bool := s.descs.all (fun e => e.1 / 64 != c || e.2.issued.isEmpty)

def stepCarillonEntered (c : Fin 16) (s : State) : State :=
  if (s.clX c.val).carState == 1 && s.carQuiet c.val && s.streamsIdle c.val then
    s.updClX c.val (fun x => { x with carState := 2 })
  else s

/-- CARILLON_ENTERED (09 R223): the cluster is drained. -/
def execCarillonEntered (c : Fin 16) (s : State) : Host.Outcome State Fault Refusal := .next (stepCarillonEntered c s)

/-- The cluster is in normal mode again: what waited at its batteries goes on. -/
def State.carLeave (s : State) (c : Nat) : State :=
  let s := s.updClX c (fun x => { x with carState := 0, bySched := false, carForced := false })
  s.each (List.range 64) (fun s b => if (s.bat c b).waiting.isEmpty then s else s.pumpBat c b)

def stepCarillonTimeout (c : Fin 16) (s : State) : State :=
  let x := s.clX c.val
  if x.carState == 1 && !x.carForced then (s.carLeave c.val).tell (if x.bySched then 16 else c.val) St.carillonTimeout else s

/-- CARILLON_TIMEOUT (09 R223): an ordinary entry is undone, and the core that started it is told; log entry 18. -/
def execCarillonTimeout (c : Fin 16) (s : State) : Host.Outcome State Fault Refusal := .next (stepCarillonTimeout c s)

def stepCarillonExit (c : Fin 16) (bySched : Bool) (s : State) : State :=
  if !bySched && s.compDown (16 * (3 + c.val) + 3) then s else if (s.clX c.val).carState == 2 then s.carLeave c.val else s

/-- CARILLON_EXIT (09 R223): steps 4, 3 and 1 reversed. -/
def execCarillonExit (c : Fin 16) (bySched : Bool) (s : State) : Host.Outcome State Fault Refusal := .next (stepCarillonExit c bySched s)

/-! Peals. -/

/-- The destinations of a peal (09 R224, R225): cluster, column and row masks of ARG [48:0]. -/
def pealTiles (targets : Nat) : List Nat :=
  (bitsOf 16 (field targets 0 16)).flatMap (fun c =>
    (bitsOf 16 (field targets 16 16)).flatMap (fun x => (bitsOf 17 (field targets 32 17)).map (fun y => taddr c x y)))

/-- Is there a way from one cluster to another by ports that are up (10 R237, R239)? -/
def State.reachable (s : State) (epoch : Bool) (dest : Nat) : Nat → Nat → Bool
  | 0, _ => false
  | fuel + 1, c =>
    c == dest ||
      (let e := (s.router c).entry epoch dest
       ((bitsOf 6 (rtAdapt e)) ++ [rtEsc e]).any (fun q =>
         s.portUp c q && (match neighbour c q with
           | some (n, _) => s.reachable epoch dest fuel n
           | none => false)))

/-- Why a destination is not written (09 R226): 0 if it is. -/
def State.pealReason (s : State) (c ta : Nat) : Nat :=
  if s.muffledTile ta then 1
  else if (s.clX (taC ta)).carState != 2 then 2
  else if s.reachable s.mesh.epoch (taC ta) 7 c then 0 else 3

/-- Are the values of a peal assigned (09 R225)? -/
def pealOk (kind toff len : Nat) : Bool :=
  decide (32 ≤ len) && decide (len ≤ 65536) && len % 32 == 0 && decide (kind < 3) &&
    (if kind = 1 then decide (toff * 32 + len ≤ 4096) else if kind = 2 then decide (toff * 32 + len ≤ 0x60000) else decide (toff < 16))

/-- Does an address lie in HBM, or in cluster memory of a cluster in carillon mode (09 R225)? -/
def State.pealByte (s : State) (dpa : Nat) : Bool :=
  match home dpa with
  | .hbm _ _ => true
  | .cm c _ => (s.clX c).carState == 2
  | _ => false

/-- Does a payload, of 64 KiB at most, lie wholly in such memory (09 R225)? -/
def State.pealSource (s : State) (dpa len : Nat) : Bool := s.pealByte dpa && s.pealByte (dpa + len - 1)

/-- Write a peal to one destination (09 R225). A closed queue, or one without a free entry, takes nothing; log entry 66. -/
def State.pealWrite (s : State) (ta targets kind toff dpa len : Nat) : State :=
  let bs := mbytes s.mem.bytes dpa len
  if kind = 0 then
    let x := s.rxq ta toff
    if !x.opened || decide (64 ≤ s.rxTaken ta toff) then s
    else
      let d := pack [(2, 3), (5, 0), (1, 1), (8, 0), (13, ta), (3, 0), (5, toff), (3, 0), (8, x.gen), (16, 0), (12, 0), (13, 0), (4, 0), (3, 0),
        (48, dpa), (24, len), (8, 0), (16, 0), (49, targets), (2, kind)]
      s.updRxq ta toff (fun y => { y with
        entries := y.entries ++ [{ data := d, inc := 0, first := true }], received := wrapAdd 32 y.received 1 })
  else if kind = 1 then s.updTile ta (fun t => t.updTest (fun y => { y with service := mwriteBytes y.service (toff * 32) bs }))
  else s.updTile ta (fun t => t.updCore (fun y => { y with pad := mwriteBytes y.pad (toff * 32) bs }))

def stepPeal (c : Fin 16) (bySched : Bool) (targets kind toff dpa len : Nat) (s : State) : State :=
  if !pealOk kind toff len || !s.pealSource dpa len then s.tell (if bySched then 16 else c.val) St.reservedNonzero
  else if !bySched && (s.clX c.val).carState != 2 then s.tell c.val St.notCarillon
  else if s.poisoned dpa len then s.tell (if bySched then 16 else c.val) 0x70
  else
    let all := (pealTiles targets).map (fun ta => (ta, s.pealReason c.val ta))
    let good := (all.filter (fun e => e.2 == 0)).map (·.1)
    let bad := all.filter (fun e => e.2 != 0)
    let s := s.each good (fun s ta => s.pealWrite ta targets kind toff dpa len)
    let s := s.each ((good.map taC).eraseDups) (fun s k => s.updClX k (fun x => { x with peals := satAdd 16 x.peals 1 }))
    let id := s.msg.peals.foldl (fun n x => max n (x.id + 1)) 0
    { s with msg := { s.msg with
        peals := s.msg.peals ++ [{ id, sender := if bySched then 16 else c.val, written := good.length, failed := bad }] } }

/-- PEAL (09 R224-R226): from a control core only in carillon mode (NOT_CARILLON); lost data is not sent (07 R179); a refused peal has no effect but on what its
sender is told. -/
def execPeal (c : Fin 16) (bySched : Bool) (targets kind toff dpa len : Nat) (s : State) : Host.Outcome State Fault Refusal :=
  .next (stepPeal c bySched targets kind toff dpa len s)

/-- The completion record of a peal (09 R226). -/
def Peal.bits (x : Peal) (now : Nat) : Nat :=
  let n := x.failed.length
  let l := x.failed.take 16
  pack ([(8, if n = 0 then St.pealed else St.pealPartial), (13, x.written), (13, n), (1, b2n (decide (16 < n))), (5, l.length), (24, 0)] ++
    (List.range 16).map (fun i => (16, match l[i]? with
      | some e => e.1 + 8192 * e.2
      | none => 0)) ++ [(64, now), (128, 0)])

def stepPealCompletion (id : Nat) (s : State) : State :=
  match s.msg.peals.find? (fun x => x.id == id) with
  | none => s
  | some x =>
    let s := (s.log_ 0x04 (if x.sender = 16 then 2 else 16 + x.sender) 0 64 (x.bits s.now)).tell x.sender (x.bits s.now)
    { s with msg := { s.msg with peals := s.msg.peals.filter (fun y => y.id != id) } }

/-- PEAL_COMPLETION (09 R226): the sender receives the record, which is logged. -/
def execPealCompletion (id : Nat) (s : State) : Host.Outcome State Fault Refusal := .next (stepPealCompletion id s)

end Sys2Proof.Machine
end

