-- ==== Sys2Proof/Machine/Queue.lean ====
section
/-! DEFINITION. Command queues: doorbells, fetching and checking records, completions, BARRIER, CHIME, WAIT (11 R257-R267). -/
namespace Sys2Proof.Machine

/-! Doorbells (11 R258, R261). -/

/-- The log2 sizes a command ring and a completion ring may have (11 R258, R262). -/
def ringSizeOk (n : Nat) : Bool := decide (4 ≤ n) && decide (n ≤ 16)
def cqSizeOk (n : Nat) : Bool := decide (7 ≤ n) && decide (n ≤ 16)

def stepDoorbell (fn : Fn) (p : Fin 16) (k : Fin 64) (x : Fin 4) (tail : Word) (s : State) : State :=
  let off := offD p.val k.val (8 * x.val)
  let c := s.ctx p.val k.val
  let q := c.queue x.val
  let fromPf := match fn with
    | .pf _ => true
    | _ => false
  if !s.ownsP fn p.val then s.refuseP fn p.val off 2 tail.toNat
  else if s.resetting p.val then s.refuseP fn p.val off 3 tail.toNat
  else if x.val = 3 && !fromPf then s.refuseP fn p.val off 3 tail.toNat
  else if c.st = 0 || c.st = 7 then s
  else if !ringSizeOk q.size || 2 ^ q.size < (tail.toNat + 2 ^ 32 - q.head) % 2 ^ 32 then s.refuseP fn p.val off 5 tail.toNat
  else s.updQueue p.val k.val x.val (fun q => { q with tail := tail.toNat, stalled := none })

/-- DOORBELL (11 R258, R260, R261): the new TAIL; a queue stopped in its fetch starts it again. -/
def execDoorbell (fn : Fn) (p : Fin 16) (k : Fin 64) (x : Fin 4) (tail : Word) (s : State) : Host.Outcome State Fault Refusal :=
  .next (stepDoorbell fn p k x tail (s.unlatch fn))

def stepCqHeadWrite (fn : Fn) (p : Fin 16) (k : Fin 64) (head : Word) (s : State) : State :=
  s.gateP fn p.val (offD p.val k.val 0x48) head.toNat (fun s => s.updCtx p.val k.val (fun c => { c with cqHead := head.toNat }))

/-- CQ_HEAD_WRITE (11 R261, R262). -/
def execCqHeadWrite (fn : Fn) (p : Fin 16) (k : Fin 64) (head : Word) (s : State) : Host.Outcome State Fault Refusal :=
  .next (stepCqHeadWrite fn p k head (s.unlatch fn))

/-! The record (11 R263-R265). -/

/-- The bits a record of an opcode may set (11 R263, R264); none for an unassigned opcode. -/
def opMask (op : Nat) : Option Nat :=
  let m := fun (l : List (Nat × Nat)) => some (l.foldl (fun (n : Nat) (f : Nat × Nat) => n ||| (2 ^ f.2 - 1) * 2 ^ f.1)
    ((2 ^ 10 - 1) ||| (2 ^ 16 - 1) * 2 ^ 16))
  if op = 0x00 || op = 0x30 || op = 0x33 then m []
  else if op = 0x01 then m [(64, 10), (134, 42)]
  else if op = 0x02 then m [(64, 10), (96, 32)]
  else if op = 0x03 then m [(64, 6), (128, 54), (192, 54), (256, 54), (320, 54), (384, 128)]
  else if op = 0x10 then m [(64, 11), (134, 42), (199, 41)]
  else if op = 0x11 then m [(64, 10), (128, 48), (192, 48)]
  else if op = 0x20 then m [(64, 16), (80, 22), (128, 48), (192, 48), (256, 32), (320, 64)]
  else if op = 0x31 then m [(67, 45), (128, 64)]
  else if op = 0x32 then m [(67, 46), (128, 64)]
  else if op = 0x34 then m [(64, 5)]
  else none

/-- Values that a record's fields may not take together (11 R264): a missing resume record address, sections beyond N, a cluster
named with LEVEL = 0, reserved codes of a RING_OP (19 R442). -/
def opOdd (op : Nat) (b : BitVec 512) : Bool :=
  if op = 0x10 then !b.toNat.testBit 74 && bf b 192 48 != 0
  else if op = 0x03 then
    let n := bf b 68 2 + 2
    decide (4 < n) || (List.range 4).any (fun i => decide (n ≤ i) && (bf b (128 + 64 * i) 54 != 0 || bf b (384 + 32 * i) 32 != 0)) ||
      (List.range 4).any (fun i => bf b (128 + 64 * i) 6 != 0)
  else if op = 0x34 then !b.toNat.testBit 64 && bf b 65 4 != 0
  else if op = 0x20 then decide (4 < bf b 68 4) || bf b 72 2 == 3 || bf b 74 2 == 3
  else false

/-- The queue an opcode is accepted by (11 R257): none for any queue. -/
def opQueue (op : Nat) : Option Nat :=
  if op = 0x01 || op = 0x02 || op = 0x03 || op = 0x33 then some 0
  else if op = 0x10 || op = 0x11 then some 1
  else if op = 0x20 then some 2
  else if op = 0x34 then some 3
  else none

/-- Does the command name what its partition does not hold (11 R265 check 3)? -/
def State.opForeign (s : State) (p op : Nat) (b : BitVec 512) : Bool :=
  let c := bf b 64 4
  let noCl := !s.owns p c
  if op = 0x01 || op = 0x02 then noCl || !shapeValid (s.shape c (bf b 68 6))
  else if op = 0x03 then noCl || (List.range (bf b 68 2 + 2)).any (fun i => !shapeValid (s.shape c (bf b (176 + 64 * i) 6)))
  else if op = 0x10 || op = 0x11 || op = 0x20 then noCl
  else if op = 0x34 then
    if b.toNat.testBit 64 then !s.owns p (bf b 65 4)
    else !(s.cfg.mgmtValid && (match s.prec p with
      | some r => r.owner == s.cfg.mgmtPort
      | none => false))
  else false

/-- The checks of a record at start (11 R265): 0, or the status of the first failure. -/
def State.checkRecord (s : State) (p x : Nat) (b : BitVec 512) : Nat :=
  let op := bf b 0 8
  match opMask op with
  | none => St.reservedNonzero
  | some m =>
    if b.toNat &&& m != b.toNat || opOdd op b then St.reservedNonzero
    else if (match opQueue op with
      | some y => y != x
      | none => false) then St.wrongQueue
    else if s.opForeign p op b then St.notOwner
    else 0

/-! Fetching. -/

/-- What a read in a context's address space gives (11 R260). -/
inductive ReadRes where
  | ok (bytes : List Byte)
  | wait
  | fatal (status va : Nat)
  deriving DecidableEq, Repr

/-- Read n bytes for a queue of a context (11 R260). -/
def State.readQ (s : State) (p k x va n : Nat) : State × ReadRes :=
  let i := s.ident p k
  match s.pieces (s.lowCluster p) i (.queue (Fin.ofNat 4 x)) 0 false false (cut4k 6 va n) with
  | (s1, .ok l) =>
    if l.any (fun q => !q.host && s1.poisoned q.addr q.len) then (s1, .fatal 0x70 va)
    else match s1.fetch l with
      | (s2, bs) => (s2, .ok bs)
  | (s1, .wait) => (s1, .wait)
  | (s1, .fatal st v) => (s1, .fatal st v)
  | (s1, _) => (s1, .wait)

/-- The next index a queue starts: completed commands, and those of stopped descriptors, are skipped (11 R271). -/
def CmdQueue.nextIdx (q : CmdQueue) : Nat → Nat → Nat
  | 0, i => i
  | n + 1, i => if q.done.contains i || q.inProg.any (fun r => r.idx == i) then q.nextIdx n (wrapAdd 32 i 1) else i

/-- The command reference of a record. -/
def refOf (p k x idx : Nat) (b : BitVec 512) : CmdRef :=
  { part := p, ctx := k, x, idx, op := bf b 0 8, tag := bf b 16 16, cqe := b.toNat.testBit 8, notify := b.toNat.testBit 9, bits := b }

/-- A fetched record is checked: it waits to start, or completes without effect. -/
def State.takeRecord (s : State) (p k x idx : Nat) (b : BitVec 512) (img : BitVec 1536) (rec_ : Option (BitVec 1024)) : State :=
  let st := s.checkRecord p x b
  if st = 0 then s.updQueue p k x (fun q => { q with fetched := some (idx, b), next := idx, image := img, record := rec_ })
  else
    let r := refOf p k x idx b
    (s.startCmd r).complete r st 0

def stepRecordFetch (p : Fin 16) (k : Fin 64) (x : Fin 4) (s : State) : State :=
  let c := s.ctx p.val k.val
  let q := c.queue x.val
  let idx := q.nextIdx 64 q.next
  let ahead := (idx + 2 ^ 32 - q.head) % 2 ^ 32
  let i := s.ident p.val k.val
  let fail := fun (s : State) (st va : Nat) => s.fatalXlat i st 0 (s.lowCluster p.val) va
  if c.st != 1 || q.fetched.isSome || q.waitOn.isSome || q.stalled.isSome || !ringSizeOk q.size || 32 ≤ ahead ||
      (q.tail + 2 ^ 32 - q.head) % 2 ^ 32 ≤ ahead then s
  else match s.readQ p.val k.val x.val (q.base + 64 * (idx % 2 ^ q.size)) 64 with
  | (s1, .wait) => s1
  | (s1, .fatal st va) => fail s1 st va
  | (s1, .ok bs) =>
    let b := BitVec.ofNat 512 (leNat bs)
    if bf b 0 8 != 0x10 || s1.checkRecord p.val x.val b != 0 then s1.takeRecord p.val k.val x.val idx b 0 none
    else match s1.readQ p.val k.val x.val (bf b 128 48) 192 with
    | (s2, .wait) => s2
    | (s2, .fatal st va) => fail s2 st va
    | (s2, .ok im) =>
      let img := BitVec.ofNat 1536 (leNat im)
      if !b.toNat.testBit 74 then s2.takeRecord p.val k.val x.val idx b img none
      else match s2.readQ p.val k.val x.val (bf b 192 48) 128 with
      | (s3, .wait) => s3
      | (s3, .fatal st va) => fail s3 st va
      | (s3, .ok rb) => s3.takeRecord p.val k.val x.val idx b img (some (BitVec.ofNat 1024 (leNat rb)))

/-- RECORD_FETCH (11 R257-R260, R263-R265): a record, and a STREAM's descriptor image and resume record, is read and checked;
log entry 69. -/
def execRecordFetch (p : Fin 16) (k : Fin 64) (x : Fin 4) (s : State) : Host.Outcome State Fault Refusal :=
  .next (stepRecordFetch p k x s)

/-! Completions (11 R262). -/

/-- A completion entry has been written: its command is complete. -/
def State.entryWritten (s : State) (p k e : Nat) : State :=
  let s := s.updCtx p k (fun c => { c with cqTail := wrapAdd 32 c.cqTail 1, comps := c.comps.tail })
  let x := field e 8 2
  let idx := field e 32 32
  let s := if ((s.ctx p k).queue x).inProg.any (fun r => r.idx == idx) then s.markDone p k x idx else s
  if e.testBit 256 then s.irqCq p k else s

def stepCompletionEntryWrite (p : Fin 16) (k : Fin 64) (s : State) : State :=
  let c := s.ctx p.val k.val
  match c.comps with
  | [] => s
  | e :: rest =>
    if c.st = 0 then s.updCtx p.val k.val (fun c => { c with comps := rest })
    else if !cqSizeOk c.cqSize || 2 ^ c.cqSize ≤ (c.cqTail + 2 ^ 32 - c.cqHead) % 2 ^ 32 then s
    else
      let i := s.ident p.val k.val
      let va := c.cqBase + 32 * (c.cqTail % 2 ^ c.cqSize)
      match s.translateC (s.lowCluster p.val) i va true with
      | (s1, .dev dpa _) =>
        if s1.locked dpa 32 true none then s1
        else if s1.partPoison dpa 32 then (s1.lostNotice dpa 32).entryWritten p.val k.val e
        else (s1.store dpa (leBytes 32 e)).entryWritten p.val k.val e
      | (s1, .host hua _ page) => match s1.hostPage i (s1.lowCluster p.val) (.queue 0) 0 va hua page true with
        | (s2, .ok hpa) => (s2.emit (.hostWrite (s2.hostPort i) hpa 32 (e % 2 ^ 256))).entryWritten p.val k.val e
        | (s2, .wait) => s2
      | (s1, .err st) => (s1.fatalXlat i st 0 (s1.lowCluster p.val) va).entryWritten p.val k.val e

/-- COMPLETION_ENTRY_WRITE (11 R262): the oldest waiting entry, while the ring has room; NOTIFY raises the interrupt. -/
def execCompletionEntryWrite (p : Fin 16) (k : Fin 64) (s : State) : Host.Outcome State Fault Refusal :=
  .next (stepCompletionEntryWrite p k s)

/-! NOP, BARRIER, CHIME. -/

def stepNop (p : Fin 16) (k : Fin 64) (x : Fin 4) (s : State) : State :=
  match s.fetchedCmd p.val k.val x.val 0x00 with
  | none => s
  | some r => (s.startCmd r).complete r St.completed 0

/-- NOP (11 R264): completes at start. -/
def execNop (p : Fin 16) (k : Fin 64) (x : Fin 4) (s : State) : Host.Outcome State Fault Refusal := .next (stepNop p k x s)

def stepBarrier (p : Fin 16) (k : Fin 64) (x : Fin 4) (s : State) : State :=
  match s.fetchedCmd p.val k.val x.val 0x30 with
  | none => s
  | some r => if s.allEarlier r then (s.startCmd r).complete r St.completed 0 else s

/-- BARRIER (11 R259). -/
def execBarrier (p : Fin 16) (k : Fin 64) (x : Fin 4) (s : State) : Host.Outcome State Fault Refusal := .next (stepBarrier p k x s)

/-- The fault agent of a queue's own accesses: battery, stream or ring engine; 0 for queue C. -/
def queueAgent (x : Nat) : Nat := if x = 1 then 2 else if x = 2 then 3 else 0

def stepChime (p : Fin 16) (k : Fin 64) (x : Fin 4) (s : State) : State :=
  match s.fetchedCmd p.val k.val x.val 0x31 with
  | none => s
  | some r =>
    if !s.allEarlier r || s.chimeLocked (s.identOf r) (bf r.bits 64 48) true then s
    else match (s.startCmd r).chimeStore (s.identOf r) (bf r.bits 64 48) (bf r.bits 128 64) (queueAgent x.val) with
      | (s1, st) => s1.complete r (if st = 0 then St.completed else st) 0

/-- CHIME (11 R259, R266): a store into a locked region waits (04 R107). -/
def execChime (p : Fin 16) (k : Fin 64) (x : Fin 4) (s : State) : Host.Outcome State Fault Refusal := .next (stepChime p k x s)

/-! WAIT (11 R267). -/

/-- Is the condition of a WAIT met by the word read? -/
def waitMet (cmp : Bool) (value : Dword) (v : Nat) : Bool := if cmp then decide (value.toNat ≤ v) else v == value.toNat

/-- The WAIT at a queue's hold looks at its word (11 R267). -/
def State.waitLook (s : State) (r : CmdRef) (dpa : Nat) (cmp : Bool) (value : Dword) : State :=
  let ended := fun (s : State) => s.updQueue r.part r.ctx r.x (fun q => { q with waitOn := none })
  if s.locked dpa 8 false none then s
  else if s.poisoned dpa 8 then (ended (s.lostNotice dpa 8)).complete r 0x70 0
  else if waitMet cmp value (s.load dpa 8) then (ended s).complete r St.completed 0
  else s

def stepWait (p : Fin 16) (k : Fin 64) (x : Fin 4) (s : State) : State :=
  match s.fetchedCmd p.val k.val x.val 0x32 with
  | none => s
  | some r =>
    match (s.startCmd r).chimeAt (s.identOf r) (bf r.bits 64 48) false (queueAgent x.val) with
    | (s1, .error st) => s1.complete r st 0
    | (s1, .ok dpa) =>
      let cmp := r.bits.toNat.testBit 112
      let value := BitVec.ofNat 64 (bf r.bits 128 64)
      (s1.updQueue p.val k.val x.val (fun q => { q with waitOn := some (dpa, r.idx, cmp, value) })).waitLook r dpa cmp value

/-- WAIT (11 R259, R267): holds its queue until the word meets its condition. -/
def execWait (p : Fin 16) (k : Fin 64) (x : Fin 4) (s : State) : Host.Outcome State Fault Refusal := .next (stepWait p k x s)

def stepWaitComplete (p : Fin 16) (k : Fin 64) (x : Fin 4) (s : State) : State :=
  let q := (s.ctx p.val k.val).queue x.val
  match q.waitOn with
  | none => s
  | some (dpa, idx, cmp, value) =>
    match q.inProg.find? (fun r => r.idx == idx) with
    | none => s
    | some r => s.waitLook r dpa cmp value

/-- WAIT_COMPLETE (11 R267): after a store to its line the word is read again. -/
def execWaitComplete (p : Fin 16) (k : Fin 64) (x : Fin 4) (s : State) : Host.Outcome State Fault Refusal :=
  .next (stepWaitComplete p k x s)

end Sys2Proof.Machine
end

