-- ==== Sys2Proof/Machine/Context.lean ====
section
/-! DEFINITION. Contexts: CREATE, PREEMPT, RESUME, SAVE, RESTORE, context reset, DESTROY (11 R255, R256, R269-R276, R281). -/
namespace Sys2Proof.Machine

/-! Permission and order (11 R255, R277-R279). -/

/-- The state codes of a context (11 R255). -/
def cxFree : Nat := 0
def cxActive : Nat := 1
def cxPreempting : Nat := 2
def cxPreempted : Nat := 3
def cxSaving : Nat := 4
def cxSaved : Nat := 5
def cxRestoring : Nat := 6
def cxFaulted : Nat := 7

/-- The severity of an operation (11 R277). -/
def opSev (op : Nat) : Nat := if op = 1 || op = 3 then 6 else if op = 2 || op = 4 then 7 else if op = 5 then 5 else 8

/-- Is an operation permitted in a state (11 R255)? -/
def opAllowed (op st : Nat) : Bool :=
  if op = 0 then st == cxFree
  else if op = 1 then st == cxActive
  else if op = 2 then st == cxPreempted
  else if op = 3 then st == cxPreempted
  else if op = 4 then st == cxSaved
  else if op = 5 then st != cxFree
  else if op = 6 then st == cxPreempted || st == cxSaved || st == cxFaulted
  else false

/-! CREATE and DESTROY. -/

/-- CREATE (11 R256, 12 R288, R290, R300, 15 R344): a new generation, step and seed 0, empty queues. The completion and fault rings keep
their registers; log entry 71. -/
def State.createCtx (s : State) (p k : Nat) : State :=
  let s := s.updCtx p k (fun c => { c with
    st := cxActive, gen := wrapAdd 8 c.gen 1, qstop := 0, comps := [], cqTail := 0, cqHead := 0, xlat := { c.xlat with faulted := false }
    queues := tmap c.queues (fun _ q => { CmdQueue.reset with size := q.size, base := q.base }) })
  s.updCtxX p k (fun x => { x with step := 0, seedLo := 0, seedHi := 0, rseq := 0, runcyc := 0 })

/-- DESTROY (11 R256, 12 R288, R290): the context is not live; what it still held is free. -/
def State.destroyCtx (s : State) (p k : Nat) : State :=
  let s := s.endWork (s.ident p k)
  let s := s.updCtx p k (fun c => { c with
    st := cxFree, comps := [], queues := tmap c.queues (fun _ q => { CmdQueue.reset with size := q.size, base := q.base }) })
  (s.updCtxX p k (fun x => { x with step := 0, seedLo := 0, seedHi := 0 })).pumpAll

/-! PREEMPT (11 R269). -/

/-- Does a chain run to its end under preemption: a section of it is not replayable? -/
def State.chainHard (s : State) (c : Nat) (h : Chain) : Bool :=
  h.bats.any (fun b =>
    let x := s.bat c b
    (x.cmd == some h.cmd && (match x.active with
      | some img => !img.replayable
      | none => false)) ||
    (match x.loadImg with
      | some img => x.loadCmd == some h.cmd && !img.replayable
      | none => false))

/-- The batteries of a preempted context (11 R269): a section in ARM ends with ARM_CANCELLED, what waits is left for RESUME; log entry 96. -/
def State.preemptBat (s : State) (i : CtxId) (key : Nat) : State :=
  let c := key / 64
  let b := key % 64
  let x := s.bat c b
  let hard := fun (r : CmdRef) => match s.chainBy c { r with op := if r.op = chainRun then 3 else r.op } with
    | some h => s.chainHard c h
    | none => false
  let hardNow := match x.cmd with
    | some r => hard r
    | none => false
  let held := (s.batX c b).held
  let s := if x.owner == some i && (x.st == .arm || held) && !hardNow then
      let s := (s.quietTiles c b).updBat c b (fun y => { y with
        st := y.restState, cmd := none, waitLock := false, waitSwap := false, waitPin := false, faults := [], locks := false
        regions := [], armOk := false, lastStatus := St.armCancelled })
      (s.updBatX c b (fun y => { y with held := false })).leaveCmd x.cmd
    else s
  let gone := (s.bat c b).waiting.filter (fun r => ofCtx i.part i.ctx r && !hard r)
  let s := s.updBat c b (fun y => { y with waiting := y.waiting.filter (fun r => !gone.contains r) })
  s.each gone (fun s r => s.leaveCmd (some r))

/-- An ACTIVE descriptor of a preempted context (11 R269). -/
def State.preemptDesc (s : State) (key : Nat) : State :=
  let d := tget s.descs key Desc.reset
  let x := tget s.descx key DescX.reset
  if d.st != .active then s
  else if descSlot d.image then
    { s with
      descs := tset s.descs key { d with st := .stopped, lastStatus := St.preempted, delivered := d.taken, issued := [], hoWait := (baseHo d.image).1 }
      descx := tset s.descx key { x with draining := true, transit := [] } }
  else { s with descx := tset s.descx key { x with recordDue := true, stopStatus := St.preempted, faulted := [] } }

/-- What PREEMPT does at once (11 R269). -/
def State.preemptCtx (s : State) (p k : Nat) : State :=
  let i := s.ident p k
  let s := s.updCtx p k (fun c => { c with
    st := cxPreempting
    queues := tmap c.queues (fun _ q => match q.waitOn with
      | some (_, idx, _) => { q with fetched := none, waitOn := none, inProg := q.inProg.filter (fun r => r.idx != idx) }
      | none => { q with fetched := none }) })
  let s := { s with clusters := tmap s.clusters (fun c (x : Cluster) => { x with
    chains := x.chains.map (fun (h : Chain) => if h.owner == i && !s.chainHard c h then { h with stopAsked := true } else h) }) }
  let s := s.each (s.bats.map (·.1)) (fun s key => s.preemptBat i key)
  let s := s.dropWaits i (fun s cmd => s.leaveCmd cmd)
  let s := s.each (s.descsOf i) (fun s key => s.preemptDesc key)
  let s := { s with
    clusters := tmap s.clusters (fun c (x : Cluster) => { x with
      chains := x.chains.filter (fun (h : Chain) => !(h.owner == i && h.stopAsked && !s.bats.any (fun (e : Nat × Battery) =>
        e.1 / 64 == c && (e.2.cmd == some h.cmd || e.2.loadCmd == some h.cmd)))) }) }
  let s := { s with
    ring := { s.ring with jobs := s.ring.jobs.map (fun (j : RingJob) => if j.owner == i then { j with preemptAt := some s.now } else j) } }
  s.pumpAll

/-- May a PREEMPTING context enter PREEMPTED (11 R269)? -/
def State.preemptDone (s : State) (i : CtxId) : Bool :=
  !s.bats.any (fun e => (e.2.st == .arm || e.2.st == .run || e.2.st == .commit) && e.2.owner == some i) &&
  !(s.descsOf i).any (fun key => (tget s.descs key Desc.reset).st == .active) &&
  !s.ring.jobs.any (fun j => j.owner == i) &&
  !s.clusters.any (fun e => e.2.chains.any (fun h => h.owner == i))

/-! RESUME (11 R271). -/

/-- Descriptors stopped with PREEMPTED go on (11 R271). -/
def State.resumeDescs (s : State) (i : CtxId) : State :=
  s.each (s.descsOf i) (fun s key =>
    let d := tget s.descs key Desc.reset
    if d.st == .stopped && d.lastStatus == St.preempted then s.enterActive (key / 64) (key / 16 % 4) (key % 16) 2 none 0 none else s)

/-- RESUME: ACTIVE, each queue from HEAD. -/
def State.resumeCtx (s : State) (p k : Nat) : State :=
  let s := s.updCtx p k (fun c => { c with st := cxActive, queues := tmap c.queues (fun _ q => { q with next := q.head }) })
  s.resumeDescs (s.ident p k)

/-! The operations (11 R255, R279, R281). -/

/-- A waiting operation is performed (12 R286). -/
def State.ctxPerform (s : State) (p k op : Nat) : State :=
  match op with
  | 0 => (s.createCtx p k).ctxResult p k St.completed
  | 2 => (s.resumeCtx p k).ctxResult p k St.completed
  | 4 => s.updCtx p k (fun c => { c with st := cxRestoring })
  | _ => s

/-- Has the partition no cluster, so that no context of it may become ACTIVE, SAVING or RESTORING (11 R250)? A context reset ends in ACTIVE;
log entry 95. -/
def State.noCluster (s : State) (p op : Nat) : Bool :=
  (op == 0 || op == 2 || op == 3 || op == 4 || op == 5) && (s.clustersOf p).isEmpty

/-- A refused operation writes only RESULT; an order of the belfry in progress on the context goes on. -/
def State.ctxRefuse (s : State) (p k result : Nat) : State := s.updCtx p k (fun c => { c with result })

/-- The operation in progress, with the flags and the mask of a SAVE as they stand when it starts (11 R272, R281). -/
def Ctx.started (c : Ctx) (op : Nat) : Ctx :=
  { c with go := true, opNow := op, banksNow := c.banks, framesNow := c.frames, clustersNow := c.clusters }

/-- An operation on a context arrives (11 R255, R277-R279): GO reads 1 until RESULT is written. -/
def State.ctxOp (s : State) (p k op : Nat) : State :=
  let c := s.ctx p k
  if op = 7 then s.ctxRefuse p k St.reservedNonzero
  else if op = 5 && s.noCluster p op then s.ctxRefuse p k St.contextState
  else if op = 5 then
    match s.resetContext p k with
    | (s1, 0) => if (s1.ctx p k).st = 8 then s1.updCtx p k (fun c => { c with go := true, opNow := 5 }) else s1
    | (s1, st) => s1.ctxRefuse p k st
  else match s.arbitrate (opSev op) (.ctx p k) with
  | .superseded => s.ctxRefuse p k St.superseded
  | .join => s
  | .proceed =>
    if !opAllowed op c.st || s.noCluster p op then s.ctxRefuse p k St.contextState
    else
      let s := (s.takeOver (opSev op) (.ctx p k)).updCtx p k (fun c => c.started op)
      if op = 1 then s.preemptCtx p k
      else if op = 3 then s.updCtx p k (fun c => { c with st := cxSaving })
      else if op = 6 then (s.destroyCtx p k).ctxResult p k St.completed
      else if (s.part p).strictBusy then s
      else s.ctxPerform p k op

/-- The fields of PTN_CTX_CTL that a write sets (11 R281). -/
def State.ctxFields (s : State) (p k : Nat) (v : Dword) : State :=
  s.updCtx p k (fun c => { c with op := bf v 1 3, banks := v.toNat.testBit 4, frames := v.toNat.testBit 5, clusters := bf v 16 16 })

/-- A write of PTN_CTX_CTL (11 R281): its fields, and the operation if GO is 1. A second GO starts nothing (00 R12), but a context reset
takes over (11 R255). -/
def State.ctxWrite (s : State) (fn : Fn) (p k : Nat) (v : Dword) : State :=
  s.gateP fn p (offP p (0x100 + 8 * k)) v.toNat (fun s =>
    let busy := (s.ctx p k).go && bf v 1 3 != 5
    let s := s.ctxFields p k v
    if v.toNat.testBit 0 && !busy then s.ctxOp p k (bf v 1 3) else s)

/-- CREATE (11 R255, R256). -/
def execCreate (fn : Fn) (p : Fin 16) (k : Fin 64) (s : State) : Host.Outcome State Fault Refusal :=
  .next ((s.unlatch fn).ctxWrite fn p.val k.val 1)

/-- PREEMPT (11 R269); log entry 73. -/
def execPreempt (fn : Fn) (p : Fin 16) (k : Fin 64) (s : State) : Host.Outcome State Fault Refusal :=
  .next ((s.unlatch fn).ctxWrite fn p.val k.val 3)

def stepPreempted (p : Fin 16) (k : Fin 64) (s : State) : State :=
  if (s.ctx p.val k.val).st == cxPreempting && s.preemptDone (s.ident p.val k.val) then
    (s.updCtx p.val k.val (fun c => { c with st := cxPreempted })).ctxResult p.val k.val St.completed
  else s

/-- PREEMPTED (11 R269). -/
def execPreempted (p : Fin 16) (k : Fin 64) (s : State) : Host.Outcome State Fault Refusal := .next (stepPreempted p k s)

/-- RESUME (11 R271). -/
def execResume (fn : Fn) (p : Fin 16) (k : Fin 64) (s : State) : Host.Outcome State Fault Refusal :=
  .next ((s.unlatch fn).ctxWrite fn p.val k.val 5)

/-- DESTROY (11 R256). -/
def execDestroy (fn : Fn) (p : Fin 16) (k : Fin 64) (s : State) : Host.Outcome State Fault Refusal :=
  .next ((s.unlatch fn).ctxWrite fn p.val k.val 13)

/-- SAVE (11 R272): SAVING, with the mask and flags of the value written. -/
def execSave (fn : Fn) (p : Fin 16) (k : Fin 64) (val : Dword) (s : State) : Host.Outcome State Fault Refusal :=
  .next ((s.unlatch fn).ctxWrite fn p.val k.val (BitVec.ofNat 64 (setField val.toNat 0 4 7)))

/-- RESTORE (11 R275). -/
def execRestore (fn : Fn) (p : Fin 16) (k : Fin 64) (s : State) : Host.Outcome State Fault Refusal :=
  .next ((s.unlatch fn).ctxWrite fn p.val k.val 9)

def stepContextReset (who : Issuer) (p : Fin 16) (k : Fin 64) (s : State) : State :=
  match who with
  | .fn f => s.ctxWrite f p.val k.val 11
  | _ => s.ctxOp p.val k.val 5

/-- CONTEXT_RESET (11 R255, 15 R358). -/
def execContextReset (who : Issuer) (p : Fin 16) (k : Fin 64) (s : State) : Host.Outcome State Fault Refusal :=
  .next (stepContextReset who p k (s.unlatchBy who))

/-! SAVE_COMPLETE (11 R272-R274). -/

/-- A battery map entry (11 R274). -/
def mapEntry (e : Nat × Nat × Nat × Nat) : List Byte :=
  leBytes 16 (pack [(4, e.1), (6, e.2.1), (4, e.1), (6, e.2.1), (12, 0), (48, e.2.2.1), (48, e.2.2.2)])

/-- A descriptor image as it stands: the current ADDR in its BASE instruction and DST_ADDR in its header (11 R273). -/
def Desc.imageNow (d : Desc) : BitVec 1536 :=
  let n := d.image.toNat
  let at_ := (List.range 16).find? (fun j => field (progInstr d.image j) 60 4 == 1)
  let n := match at_ with
    | some j => if (baseOf d.image).1 then n else setField n (512 + 64 * j) 48 d.base
    | none => n
  BitVec.ofNat 1536 (if descSlot d.image then n else setField n 64 48 d.dst)

/-- The saved state of a descriptor (11 R274): 1 preempted, 2 stopped otherwise, 3 PARKED. -/
def Desc.saveCode (d : Desc) : Nat :=
  if d.st == .parked then 3 else if d.st == .stopped && d.lastStatus == St.preempted then 1 else 2

/-- A descriptor record of a save area: 384 bytes (11 R273, R274). -/
def State.descRecord (s : State) (key : Nat) : List Byte :=
  let d := tget s.descs key Desc.reset
  let x := tget s.descx key DescX.reset
  let c := key / 64
  leBytes 64 (pack [(4, c), (2, key / 16 % 4), (4, key % 16), (3, d.saveCode), (4, c), (23, 0), (24, d.taken), (448, 0)]) ++
    leBytes 192 d.imageNow.toNat ++ leBytes 128 ((x.record.getD 0).toNat)

/-- Bytes filled with zeros to a length. -/
def padTo (n : Nat) (l : List Byte) : List Byte := l ++ List.replicate (n - l.length) 0

/-- The DONE mask of a queue (11 R269). -/
def CmdQueue.doneMask (q : CmdQueue) : Nat :=
  (List.range 31).foldl (fun m i => if q.done.contains (wrapAdd 32 q.head (1 + i)) then m + 2 ^ i else m) 0

/-- The save area of a context (11 R273). -/
def State.saveArea (s : State) (p k : Nat) : List Byte :=
  let i := s.ident p k
  let c := s.ctx p k
  let x := s.ctxX p k
  let m := s.batteryMap i
  let ds := s.descsOf i
  let ds := ds.filter (fun key => (tget s.descs key Desc.reset).st != .free)
  let bk := if c.banksNow then s.banksOf i c.clustersNow m else []
  let fr := if c.framesNow then s.framesOf i c.clustersNow else []
  let body :=
    padTo ((16 * m.length + 63) / 64 * 64) (m.flatMap mapEntry) ++ ds.flatMap s.descRecord ++
    bk.flatMap (fun b => leBytes 64 (pack [(10, b.1), (4, b.2.1), (4, b.2.2.1), (4, b.2.2.2.1)]) ++
      mbytes (s.tile b.2.2.2.2).core.pad (32768 * b.2.2.2.1) 32768) ++
    fr.flatMap (fun f => leBytes 64 (pack [(48, f.2.1), (4, f.2.2)]) ++ mbytes s.mem.bytes f.1 65536)
  let qs := (List.range 4).map (fun n => (96, pack [(32, (c.queue n).head), (32, (c.queue n).tail), (32, (c.queue n).doneMask)]))
  let hd := fun (crc : Nat) => leBytes 512 (pack ([(16, 1), (4, p), (6, k), (6, 0), (8, c.gen), (1, b2n c.banksNow), (1, b2n c.framesNow), (22, 0),
    (16, c.clustersNow), (16, 0), (11, m.length), (5, 0), (11, ds.length), (5, 0), (16, bk.length), (16, fr.length), (64, x.step),
    (64, x.seedLo.toNat), (64, x.seedHi.toNat)] ++ qs ++ [(64, s.now), (64, 512 + body.length), (3200, 0), (32, crc)]))
  let crc := crc32c (hd 0 ++ body)
  hd crc.toNat ++ body

/-- The answers to the requests of a saved context are discarded (08 R203). -/
def State.staleReqs (s : State) (i : CtxId) : State :=
  s.each (List.range 4) (fun s n => s.updPort n (fun x => { x with reqs := x.reqs.map (fun r => if r.ctx == i then { r with stale := true } else r) }))

/-- What SAVE frees (11 R272 steps 1 to 3 and 5). -/
def State.saveFree (s : State) (i : CtxId) : State :=
  let c := s.ctx i.part i.ctx
  let fr := if c.framesNow then s.framesOf i c.clustersNow else []
  let s := s.each (s.bats.map (·.1)) (fun s key =>
    if (s.bat (key / 64) (key % 64)).rsv == some i then s.updBat (key / 64) (key % 64) Battery.emptied else s)
  let s := s.each (s.descsOf i) (fun s key => s.freeDesc i key)
  let s := (s.closeContext i).staleReqs i
  let s := { s with tiles := tmap s.tiles (fun ta t =>
    if t.ctl.cur == some i && c.clustersNow.testBit (taC ta) then t.updCtl (fun y => { y with resValid := 0, cur := none }) else t) }
  s.each fr (fun s f => s.untag f.1)

def stepSaveComplete (p : Fin 16) (k : Fin 64) (s : State) : State :=
  let c := s.ctx p.val k.val
  if c.st != cxSaving then s
  else
    let i := s.ident p.val k.val
    let area := s.saveArea p.val k.val
    let back := fun (s : State) (st : Nat) => (s.updCtx p.val k.val (fun c => { c with st := cxPreempted })).ctxResult p.val k.val st
    let lost := if c.framesNow then (s.framesOf i c.clustersNow).filter (fun f => s.poisoned f.1 65536) else []
    match s.devPages i true (area.length / 65536 + 2) c.saveVa area.length with
    | (s1, .error st) => back s1 st
    | (s1, .ok l) => if !lost.isEmpty then back (s1.each lost (fun s f => s.lostNotice f.1 65536)) 0x70 else
      let s1 := (s1.saveFree i).writePieces l area
      ((s1.updCtx p.val k.val (fun c => { c with st := cxSaved })).ctxResult p.val k.val St.completed).pumpAll

/-- SAVE_COMPLETE (11 R272-R274): the save area is written and the saved state freed; a fault of the area, or a frame whose data
is lost (07 R179; log entry 107), frees nothing. -/
def execSaveComplete (p : Fin 16) (k : Fin 64) (s : State) : Host.Outcome State Fault Refusal := .next (stepSaveComplete p k s)

/-! RESTORE_COMPLETE (11 R275). -/

/-- A part of a save area: header, battery map, descriptor, bank and frame records. -/
structure SaveArea where
  hd : Nat
  maps : List Nat
  descs : List Nat
  banks : List (Nat × List Byte)
  frames : List (Nat × List Byte)
  deriving DecidableEq, Repr

/-- n records of a size, cut from bytes. -/
def cutRecs (size : Nat) : Nat → List Byte → List (List Byte)
  | 0, _ => []
  | n + 1, bs => bs.take size :: cutRecs size n (bs.drop size)

/-- Read a save area's regions (11 R273). -/
def parseSave (bs : List Byte) : SaveArea :=
  let hd := leNat (bs.take 512)
  let nb := field hd 96 11
  let nd := field hd 112 11
  let nk := field hd 128 16
  let nf := field hd 144 16
  let m := bs.drop 512
  let d := m.drop ((16 * nb + 63) / 64 * 64)
  let b := d.drop (384 * nd)
  let f := b.drop (32832 * nk)
  { hd
    maps := (cutRecs 16 nb m).map leNat
    descs := (cutRecs 384 nd d).map leNat
    banks := (cutRecs 32832 nk b).map (fun l => (leNat (l.take 64), l.drop 64))
    frames := (cutRecs 65600 nf f).map (fun l => (leNat (l.take 64), l.drop 64)) }

/-- The length of a save area by its counts (11 R273). -/
def saveLen (hd : Nat) : Nat :=
  512 + (16 * field hd 96 11 + 63) / 64 * 64 + 384 * field hd 112 11 + 32832 * field hd 128 16 + 65600 * field hd 144 16

/-- Reserved bits of a save area (11 R273, R274). -/
def saveReserved (a : SaveArea) : Bool :=
  field a.hd 26 6 != 0 || field a.hd 42 22 != 0 || field a.hd 80 16 != 0 || field a.hd 107 5 != 0 || field a.hd 123 5 != 0 ||
  field a.hd 864 3200 != 0 ||
  a.maps.any (fun m => field m 20 12 != 0) ||
  a.descs.any (fun d => field d 17 23 != 0 || field d 64 448 != 0 || field d 10 3 == 0 || decide (3 < field d 10 3)) ||
  a.banks.any (fun b => b.1 / 2 ^ 22 != 0 || decide (11 < field b.1 18 4)) ||
  a.frames.any (fun f => f.1 / 2 ^ 52 != 0)

/-- What a check of RESTORE that fails gives (11 R275). -/
def restoreBad : ReadErr := { status := St.restoreInvalid, va := 0, fatal := false }

/-- The image a saved VA names (11 R275): a read that fails ends RESTORE as it ends a read of the save area, an image that fails the
checks of LOAD as a check of RESTORE. -/
def State.imageAt (s : State) (i : CtxId) (va : Nat) : State × Except ReadErr SecImage :=
  match s.readVa i 66 va 64 with
  | (s1, .error x) => (s1, .error x)
  | (s1, .ok hd) =>
    let len := mLength (leNat hd)
    if decide (len ≤ 4194304) && decide (64 ≤ len) then
      match s1.readVa i 66 va len with
      | (s2, .ok bs) => (s2, if checkSection bs = 0 then .ok (buildSection va (leNat bs)) else .error restoreBad)
      | (s2, .error x) => (s2, .error x)
    else (s1, .error restoreBad)

/-- The image of a battery map entry for a battery of a shape; VA 0 names none. -/
def State.mapImage (s : State) (i : CtxId) (sh va : Nat) : State × Except ReadErr (Option SecImage) :=
  if va = 0 then (s, .ok none)
  else match s.imageAt i va with
  | (s1, .ok img) => (s1, if img.w == shapeW sh && img.h == shapeH sh then .ok (some img) else .error restoreBad)
  | (s1, .error x) => (s1, .error x)

/-- The images of the battery map, read again (11 R275): (new cluster, new battery, pending, active). -/
def State.loadMaps (s : State) (i : CtxId) :
    List Nat → State × Except ReadErr (List (Nat × Nat × Option SecImage × Option SecImage))
  | [] => (s, .ok [])
  | m :: rest =>
    let c := field m 10 4
    let b := field m 14 6
    let sh := s.shape c b
    if !s.owns i.part c || !shapeValid sh then (s, .error restoreBad)
    else match s.mapImage i sh (field m 32 48) with
    | (s1, .error x) => (s1, .error x)
    | (s1, .ok pend) =>
      if pend.isSome && (s1.bat c b).rsv.isSome then (s1, .error restoreBad)
      else match s1.mapImage i sh (field m 80 48) with
      | (s2, .error x) => (s2, .error x)
      | (s2, .ok act) => match s2.loadMaps i rest with
        | (s3, .ok l) => (s3, .ok ((c, b, pend, act) :: l))
        | (s3, .error x) => (s3, .error x)

/-- The image of a saved descriptor record. -/
def savedImage (d : Nat) : BitVec 1536 := BitVec.ofNat 1536 (field d 512 1536)

/-- The new battery of a saved descriptor: that of the map entry of its battery. -/
def newBattery (a : SaveArea) (d : Nat) : Option (Nat × Nat) :=
  (a.maps.find? (fun m => field m 0 4 == field d 0 4 && field m 4 6 == bf (savedImage d) 12 6)).map (fun m => (field m 10 4, field m 14 6))

/-- The checks of RESTORE on descriptors (11 R275). -/
def State.descsFit (s : State) (a : SaveArea) : Bool :=
  a.descs.all (fun d =>
    (s.desc (field d 13 4) (field d 4 2) (field d 6 4)).st == .free &&
      (!descSlot (savedImage d) || (match newBattery a d with
        | some (c, _) => c == field d 13 4
        | none => false)))

/-- One descriptor is installed at its new location (11 R275 step 4); a varying-rate stream that goes on reads its count words again: log
entry 104. -/
def State.installDesc (s : State) (a : SaveArea) (i : CtxId) (d : Nat) : State :=
  let e := field d 4 2
  let n := field d 6 4
  let c := field d 13 4
  let img := savedImage d
  let img := match newBattery a d with
    | some (_, b) => BitVec.ofNat 1536 (setField img.toNat 12 6 b)
    | none => img
  let rec_ := field d 2048 1024
  let code := field d 10 3
  let q := (s.ctx i.part i.ctx).queue 1
  let cmd := q.inProg.find? (fun r => bf r.bits 64 4 == field d 0 4 && bf r.bits 68 2 == e && bf r.bits 70 4 == n)
  let b := baseOf img
  let te := tileElems img
  let mask := field rec_ 512 512
  let done := field rec_ 296 24
  let t := field d 40 24
  let m := match (if descSlot img then s.vrBinding c (bf img 12 6) e n else none) with
    | some bd => bd.tiles
    | none => elemCount img / te
  let seq0 := if !descSlot img then 0 else if code = 3 then t - m else t / m * m
  let last := if code = 1 then St.preempted else if rec_ != 0 then rec_ % 256 else (s.freeVal 8).toNat
  let s := (s.drew 1).setDesc c e n { Desc.reset with
    st := if code = 3 then .parked else .stopped, image := img, owner := some i, ctx := i.ctx, cmd, cluster := c, bat := bf img 12 6
    runs := [{ seq0, base := b.2.2, counts := [] }], dst := bf img 64 48, taken := t, delivered := if descSlot img then t else done
    doneEl := if rec_ = 0 then [] else (bitsOf te mask).map (fun x => done * te + x)
    lastStatus := if code = 3 then 0 else last }
  let s := s.updDescX c e n (fun _ => { DescX.reset with record := if rec_ = 0 then none else some (BitVec.ofNat 1024 rec_) })
  if code = 1 then s.readCounts c e n i false else s

/-- The images and banks of a save area are put back (11 R275 steps 1 and 2). -/
def State.restoreBats (s : State) (a : SaveArea) (i : CtxId) (l : List (Nat × Nat × Option SecImage × Option SecImage)) : State :=
  let s := s.each l (fun s e => s.updBat e.1 e.2.1 (fun x => { x with
    active := if e.2.2.2.isSome then e.2.2.2 else x.active, activeCtx := if e.2.2.2.isSome then some i else x.activeCtx
    shadow := if e.2.2.1.isSome then e.2.2.1 else x.shadow, rsv := if e.2.2.1.isSome then some i else x.rsv
    st := if e.2.2.1.isSome && x.st == .empty then .loaded else x.st, ctx := i.ctx }))
  s.each a.banks (fun s b =>
    match l[field b.1 0 10]? with
    | none => s
    | some e =>
      let ta := s.tileAt e.1 e.2.1 (field b.1 10 4) (field b.1 14 4)
      let bank := field b.1 18 4
      let t := s.tile ta
      if s.muffledTile ta then s
      else
      let s := if t.ctl.cur == some i then s
        else (s.closeForeign ta i).setTile ta { t.cleared with ctl := { t.cleared.ctl with cur := some i, clearing := none } }
      s.updTile ta (fun t =>
        (t.updCore (fun y => { y with pad := mwriteBytes (mclear y.pad (32768 * bank) 32768) (32768 * bank) b.2 })).updCtl (fun y =>
          { y with resValid := y.resValid ||| (1#12 <<< bank) })))

/-- The frames of a save area are written at their VAs (11 R275 step 3). -/
def State.restoreFrames (s : State) (i : CtxId) : List (Nat × List Byte) → State × Except ReadErr Unit
  | [] => (s, .ok ())
  | f :: rest =>
    match s.translate i (field f.1 0 48) true with
    | (s1, .dev dpa _) => (s1.store dpa f.2).restoreFrames i rest
    | (s1, .host _ _ _) => (s1, .error { status := St.sourceTier, va := field f.1 0 48, fatal := false })
    | (s1, .err st) => (s1, .error { status := st, va := field f.1 0 48, fatal := true })

/-- The queues of a context as a save header gives them (11 R273, R275 step 5). -/
def CmdQueue.restored (q : CmdQueue) (v : Nat) : CmdQueue :=
  let head := field v 0 32
  { q with
    head, tail := field v 32 32, next := head, done := (bitsOf 32 (field v 64 32)).map (fun i => wrapAdd 32 head (1 + i))
    fetched := none, waitOn := none, stalled := none }

/-- Does a save area belong to a context as it stands: CRC, FORMAT, reserved bits, PARTITION, CONTEXT and GEN (11 R275)? -/
def CtxId.saved (i : CtxId) (bs : List Byte) : Bool :=
  let a := parseSave bs
  (crc32c (bs.take 508 ++ [0, 0, 0, 0] ++ bs.drop 512)).toNat == field a.hd 4064 32 && field a.hd 0 16 == 1 && !saveReserved a &&
    field a.hd 16 4 == i.part && field a.hd 20 6 == i.ctx && field a.hd 32 8 == i.gen

/-- RESTORE as a whole on a read save area (11 R275): the checks, then its five steps; or what ends it. -/
def State.restoreFrom (s : State) (i : CtxId) (bs : List Byte) : State × Except ReadErr Unit :=
  let a := parseSave bs
  if !i.saved bs then (s, .error restoreBad)
  else match s.loadMaps i a.maps with
  | (s1, .error x) => (s1, .error x)
  | (s1, .ok l) =>
    if !s1.descsFit a then (s1, .error restoreBad)
    else match (s1.restoreBats a i l).restoreFrames i a.frames with
    | (s2, .ok ()) =>
      let s3 := s2.each a.descs (fun s d => s.installDesc a i d)
      let s4 := s3.updCtx i.part i.ctx (fun c => { c with
        queues := (List.range 4).foldl (fun t x => tset t x ((c.queue x).restored (field a.hd (352 + 96 * x) 96))) c.queues })
      (s4.updCtxX i.part i.ctx (fun x => { x with
        step := field a.hd 160 64, seedLo := BitVec.ofNat 64 (field a.hd 224 64), seedHi := BitVec.ofNat 64 (field a.hd 288 64) }), .ok ())
    | (_, .error x) => (s1, .error x)

/-- RESTORE ends on a failed read or write of its save area or of a frame (07 R165, 08 R193): fatal to the context, with the status in
RESULT; on a host page, which is no device memory, or a poisoned line (07 R179) the context goes back to SAVED (log entry 9). -/
def State.restoreFault (s : State) (i : CtxId) (x : ReadErr) : State :=
  if x.fatal then s.fatalXlat i x.status 3 0 x.va
  else (s.updCtx i.part i.ctx (fun c => { c with st := cxSaved })).ctxResult i.part i.ctx x.status

def stepRestoreComplete (p : Fin 16) (k : Fin 64) (s : State) : State :=
  let c := s.ctx p.val k.val
  let i := s.ident p.val k.val
  if c.st != cxRestoring then s
  else match s.readVa i 4 c.saveVa 512 with
  | (s1, .error x) => s1.restoreFault i x
  | (s1, .ok hd) =>
    let n := saveLen (leNat hd)
    if field (leNat hd) 800 64 != n then s1.restoreFault i restoreBad
    else match s1.readVa i (n / 65536 + 2) c.saveVa n with
    | (s2, .error x) => s2.restoreFault i x
    | (s2, .ok bs) => match s2.restoreFrom i bs with
      | (s3, .ok ()) =>
        ((s3.updCtx p.val k.val (fun c => { c with st := cxActive })).ctxResult p.val k.val St.completed).resumeDescs i
      | (s3, .error x) => s3.restoreFault i x

/-- RESTORE_COMPLETE (11 R275): the checks, then images, banks, frames, descriptors, step, seed and queues; ACTIVE as by RESUME. -/
def execRestoreComplete (p : Fin 16) (k : Fin 64) (s : State) : Host.Outcome State Fault Refusal := .next (stepRestoreComplete p k s)

end Sys2Proof.Machine
end

