-- ==== Sys2Proof/Machine/Check.lean ====
section
/-! DEFINITION. Double-stroke checking and STEP: CHECK, CHECK_RESULT, SECOND_CHECK_RESULT, SECOND_CHECK_TIMEOUT, CHECK_LOST,
STEP (13 R301-R317, 12 R288). -/
namespace Sys2Proof.Machine

/-! The choice of a checker (13 R306). -/

/-- Is a tile on checker duty, in a slice, or holding a capture of its own? -/
def State.testBusy (s : State) (ta : Nat) : Bool :=
  (s.clX (taC ta)).checks.any (fun k => k.checker == some ta) || (s.tile ta).test.duty.isSome || s.health.slices.any (fun x => x.onTile ta) ||
    (s.tile ta).test.capture.isSome

/-- The free checkers of a cluster for a worker, not one of a list; a forced tile is kept for its slices (14 R339). -/
def State.freeCheckers (s : State) (worker : Nat) (not_ : List Nat) : List Nat :=
  (s.checkersOf (taC worker)).filter (fun ta => !s.testBusy ta && !(s.tile ta).test.forced && ta != worker && !not_.contains ta)

/-- An idle tile of a battery with no section in ARM or RUN (13 R306), lowest TADDR first. -/
def State.idleTile (s : State) (worker : Nat) (not_ : List Nat) : Option Nat :=
  (tilesOf (taC worker)).find? (fun ta => !s.muffledTile ta && !s.testBusy ta && ta != worker && !not_.contains ta && (match s.batOf ta with
    | some (b, _) => let st := (s.bat (taC ta) b).st; st != .arm && st != .run
    | none => false))

/-- The checker a capture goes to (13 R306, R308): round-robin in TADDR order, else an idle tile unless the capture has priority. -/
def State.pickChecker (s : State) (worker : Nat) (not_ : List Nat) (only : Bool) : Option Nat :=
  let l := s.freeCheckers worker not_
  let last := tget s.health.rr (taC worker) 0
  match l.find? (fun ta => decide (last < ta)), l with
  | some ta, _ => some ta
  | none, ta :: _ => some ta
  | none, [] => if only then none else s.idleTile worker not_

/-- Must a tile's next check run on a checker (13 R308)? -/
def State.priority (s : State) (worker : Nat) : Bool := decide (2 ≤ (s.tile worker).test.lostRun)

/-- Can the waiting capture of a tile be served now? -/
def State.servable (s : State) (worker : Nat) : Bool :=
  (s.tile worker).test.capture.isSome && (s.pickChecker worker [] (s.priority worker)).isSome

/-- Does a check belong to a worker and wait for its second checker (13 R309)? -/
def Check.needsSecond (k : Check) (worker : Nat) : Bool := k.worker == worker && k.first.isSome && k.checker.isNone && !k.dead

def stepCheck (t checker : TileId) (s : State) : State :=
  let w := tileKey t
  let h := tileKey checker
  let c := t.c.val
  let x := s.clX c
  let took := fun (cap : Capture) (s : State) =>
    (State.updTile { s with health := { s.health with rr := tset s.health.rr c h } } h (fun t => t.updTest (fun y => { y with duty := some cap })))
  match x.checks.find? (fun k => k.needsSecond w) with
  | some k =>
    let first := (k.first.map (·.1)).getD w
    if s.pickChecker w [first] false == some h then
      took k.capture ((s.endDuty first).updClX c (fun x => { x with checks := x.checks.map (fun j => if j == k then { j with checker := some h } else j) }))
    else s
  | none =>
    match (s.tile w).test.capture with
    | none => s
    | some cap =>
      if !cap.complete || !x.capWait.contains w || s.pickChecker w [] (s.priority w) != some h then s
      else if (x.capWait.takeWhile (· != w)).any (fun u => s.servable u) then s
      else
        let s := s.updTile w (fun t => t.updTest (fun y => { y with capture := none }))
        took cap (s.updClX c (fun x => { x with
          capWait := x.capWait.erase w
          checks := x.checks ++ [{ worker := w, capture := cap, checker := some h, first := none, dead := false }] }))

/-- CHECK (13 R306, R307, R309, 02 R69): the oldest capture that can be served, or a disagreeing one, goes to the checker the rule picks. -/
def execCheck (t checker : TileId) (s : State) : Host.Outcome State Fault Refusal := .next (stepCheck t checker s)

/-! Results. -/

/-- A check of a worker completes (13 R308, R325): its step is good if nobody disagreed with the worker. -/
def State.checkDone (s : State) (k : Check) (good : Bool) : State :=
  let s := ((s.endDutyOf k).endFirst k).updClX (taC k.worker) (fun x => { x with checked := wrapAdd 32 x.checked 1, checks := x.checks.erase k })
  s.updTile k.worker (fun t => t.updTest (fun y => { y with
    lostRun := 0, limitedSent := false
    stats := bumpStat k.capture.ctx (fun e => { e with
      checks := e.checks + 1, good := if good then some k.capture.step else e.good }) y.stats }))

/-- The detail of a STROKE_MISMATCH or CHECKER_FAULT record (15 R343). -/
def strokeDetail (k : Check) (good : Option Nat) (first second : Nat) (sig2 : Nat) : Nat :=
  pack [(64, k.capture.step), (48, k.capture.pass), (32, k.capture.signature.toNat), (32, ((k.first.map (fun f => f.2.toNat)).getD 0)), (32, sig2),
    (64, good.getD (2 ^ 64 - 1)), (8, k.capture.lpos), (13, first), (13, second)]

/-- The worker's latched step of its last check without disagreement (13 R314). -/
def State.goodStep (s : State) (k : Check) : Option Nat :=
  ((s.tile k.worker).test.stats.find? (fun e => e.ctx == k.capture.ctx)).bind (·.good)

/-- The record of a finding (13 R314). -/
def State.findingRec (s : State) (k : Check) (status : Nat) (unresolved : Bool) (second sig2 : Nat) : FaultRec :=
  { FaultRec.of status 6 with
    unresolved, part := some k.capture.ctx.part, cluster := taC k.worker, battery := k.capture.bat
    taddr := if status = 0xB1 then (k.first.map (·.1)).getD 0 else k.worker, section_ := k.capture.section_
    cycle := k.capture.cycle, detail := strokeDetail k (s.goodStep k) ((k.first.map (·.1)).getD 0) second sig2 }

/-- The worker errs (13 R309, R314, R315): a record to the belfry and to the context while its generation is current. -/
def State.workerErrs (s : State) (k : Check) (unresolved : Bool) (second sig2 : Nat) : State :=
  let r := s.findingRec k 0xB0 unresolved second sig2
  let s := s.raise { r with ctx := some k.capture.ctx }
  s.confirm 2 k.worker 1 0xB0

def stepCheckResult (t : TileId) (signature : Word) (s : State) : State :=
  let w := tileKey t
  match (s.clX t.c.val).checks.find? (fun k => k.worker == w && k.first.isNone && k.checker.isSome) with
  | none => s
  | some k =>
    if signature = k.capture.signature then s.checkDone k true
    else s.updClX t.c.val (fun x => { x with
      checks := x.checks.map (fun j => if j == k then { j with checker := none, first := j.checker.map (fun h => (h, signature)) } else j) })

/-- CHECK_RESULT (13 R307, R309): agreement ends the check; on a disagreement the first checker keeps the capture for a second one; log entry
68. -/
def execCheckResult (t : TileId) (signature : Word) (s : State) : Host.Outcome State Fault Refusal := .next (stepCheckResult t signature s)

def stepSecondCheckResult (t : TileId) (signature : Word) (s : State) : State :=
  let w := tileKey t
  match (s.clX t.c.val).checks.find? (fun k => k.worker == w && k.first.isSome && k.checker.isSome) with
  | none => s
  | some k =>
    match k.first, k.checker with
    | some (f, sig1), some h =>
      if signature = k.capture.signature then
        let s := s.raise { s.findingRec k 0xB1 false h signature.toNat with part := none }
        (s.checkDone k false).confirm 2 f 1 0xB1
      else if signature = sig1 then (s.checkDone k false).workerErrs k false h signature.toNat
      else ((s.checkDone k false).workerErrs k true h signature.toNat).suspect f 0xB0
    | _, _ => s

/-- SECOND_CHECK_RESULT (13 R309): the three signatures decide who erred. -/
def execSecondCheckResult (t : TileId) (signature : Word) (s : State) : Host.Outcome State Fault Refusal :=
  .next (stepSecondCheckResult t signature s)

def stepSecondCheckTimeout (t : TileId) (s : State) : State :=
  match (s.clX t.c.val).checks.find? (fun k => k.worker == tileKey t && k.first.isSome) with
  | none => s
  | some k => (s.checkDone k false).workerErrs k true 0 0

/-- SECOND_CHECK_TIMEOUT (13 R309 fourth row): no second check within 2 ms; the worker is taken to err, unresolved. -/
def execSecondCheckTimeout (t : TileId) (s : State) : Host.Outcome State Fault Refusal := .next (stepSecondCheckTimeout t s)

def stepCheckLost (t : TileId) (s : State) : State :=
  match (s.clX t.c.val).checks.find? (fun k => k.worker == tileKey t && k.first.isNone) with
  | none => s
  | some k => s.loseCheck k

/-- CHECK_LOST (13 R308): the running check of a worker is abandoned and counted. -/
def execCheckLost (t : TileId) (s : State) : Host.Outcome State Fault Refusal := .next (stepCheckLost t s)

/-! STEP (12 R288, 13 R305, R311). -/

/-- The step of a context ends on a tile: counts of the last step. -/
def stepStat (i : CtxId) (l : List TileStat) : List TileStat :=
  l.map (fun e => if e.ctx == i then { e with lastPasses := e.passes, lastChecks := e.checks, passes := 0, checks := 0 } else e)

/-- Did a tile get fewer checks than planned in the step that ends (13 R311: whole windows less one)?; log entry 30. -/
def State.shortfall (s : State) (i : CtxId) : Bool :=
  s.tiles.any (fun e => e.2.test.stats.any (fun x =>
    x.ctx == i && decide (41488 ≤ x.lastPasses) && decide (x.lastChecks < x.lastPasses / 2 ^ e.2.test.w - 1)))

/-- The fewest checks of any tile of the context in the last step that ran at least 41,488 passes (13 R325). -/
def State.minChecks (s : State) (i : CtxId) : Nat :=
  ((s.tiles.flatMap (fun e =>
    (e.2.test.stats.filter (fun x => x.ctx == i && decide (41488 ≤ x.lastPasses))).map (·.lastChecks))).min?).getD 0

/-- The effect of a STEP of a context on its counter and on the sampling windows. -/
def State.stepCtx (s : State) (p k : Nat) : State :=
  let i := s.ident p k
  let s := s.updCtxX p k (fun x => { x with step := wrapAdd 64 x.step 1 })
  let s := { s with tiles := tmap s.tiles (fun _ (t : Tile) => t.updTest (fun y => { y with stats := stepStat i y.stats })) }
  let s := s.updCtxX p k (fun x => { x with
    shortfall := x.shortfall || s.shortfall i, minChecks := min (s.minChecks i) 0xFFFFFFFF })
  (s.each (s.clustersOf p) (fun s c => s.recompute c)).showChecks p

def stepStepCommand (p : Fin 16) (k : Fin 64) (s : State) : State :=
  match s.fetchedCmd p.val k.val 0 0x33 with
  | none => s
  | some r => if s.allEarlier r then (s.startCmd r |>.stepCtx p.val k.val).complete r St.completed 0 else s

/-- STEP (12 R288, 13 R305): the step counter goes on by 1, and the windows of the partition's clusters are set again. -/
def execStepCommand (p : Fin 16) (k : Fin 64) (s : State) : Host.Outcome State Fault Refusal := .next (stepStepCommand p k s)

end Sys2Proof.Machine
end

