-- ==== Sys2Proof/Machine/Clock.lean ====
section
/-! DEFINITION. The clock tick, the array clocks and strict mode: ACLK_STEP, STRICT_WRITE, PINNED, FLUSH, STEP_COUNTER_WRITE,
SEED_WRITE (01 R36-R41, 12 R285-R290, R300, 13 R320). -/
namespace Sys2Proof.Machine

/-- Alert cause 2 (20 R464): the queue has held an unacknowledged report for more than 10 s. -/
def State.checkQueue (s : State) : State :=
  if s.belfry.reports.any (fun r => decide (r.2.2.2 + 10000000000 < s.now)) && !s.smbus.causes.testBit 2 then
    ({ s with smbus := { s.smbus with causes := s.smbus.causes ||| 4 } }).emit (.alert true)
  else s

/-- One nanosecond passes (log entry 1): the timestamp, the operating time and the rings' WAIT go on while power is good (00 R3, 13 R320,
19 R450). -/
def State.tick (s : State) : State :=
  if !s.boot.powerGood then s
  else
    let ns := s.ledger.opNs + 1
    let s := (if s.now % 1000 = 999 then s.countRingWait.checkQueue else s).countIdle
    { s with
      now := wrapAdd 64 s.now 1
      ledger := if ns = 1000000000 then { s.ledger with opNs := 0, opSec := s.ledger.opSec + 1 } else { s.ledger with opNs := ns } }

/-! Steps of the array clock (01 R36, R37). -/

/-- An excursion of a pinned cluster is over (01 R39, 15 R343): counted, and reported to the live contexts of its partition and
to the belfry. -/
def State.endExcursion (s : State) (c : Nat) : State :=
  let k := s.clock c
  let s := s.updClock c (fun k => { k with excursions := satAdd 16 k.excursions 1, lowest := 54 })
  let r := { FaultRec.of 0xC4 7 with cluster := c, detail := k.lowest }
  let s := s.raise r
  match s.partOf c with
  | none => s
  | some p =>
    s.each (((List.range 64).map (fun k => s.ident p k)).filter (fun i => s.live i)) (fun s i =>
      s.ringRecord i { r with part := some p, ctx := some i })

/-- A step of the array clock completes at a code (01 R37). -/
def State.setCode (s : State) (c n : Nat) : State :=
  let k := s.clock c
  let s := s.updClock c (fun k => { k with
    code := n, lowest := if k.pinned then min k.lowest n else n
    target := if k.target == some n then none else k.target })
  if k.pinned && n == 54 && k.code != 54 then s.endExcursion c else s

/-- The step that is due, toward the frequency that was asked for (01 R36, R37). -/
def Clock.next (k : Clock) (up : Bool) : Option Nat :=
  match k.target with
  | some t => if t < k.code then (if up then none else some (k.code - 1)) else if k.code < t then (if up then some (k.code + 1) else none) else none
  | none => none

/-- Does a self-test slice hold the array clock of a cluster (01 R40)? -/
def State.sliceHolds (s : State) (c : Nat) : Bool := s.health.slices.any (fun x => decide (x.kind < 6) && taC x.unit_ == c)

/-- Have the clusters of a cluster's partition reported ready, so that its array clock may leave 1.000 GHz upward (01 R41)? -/
def State.mayRise (s : State) (c : Nat) : Bool :=
  match s.partOf c with
  | some p => (s.clustersOf p).all (fun n => (s.clY n).ready)
  | none => (s.clY c).ready

def stepAclkStep (c : Fin 16) (up : Bool) (s : State) : State :=
  if (s.compDown 17 && !(s.clock c.val).lowered) || s.sliceHolds c.val || (up && decide (40 ≤ (s.clock c.val).code) && !s.mayRise c.val) then s
  else match (s.clock c.val).next up with
  | some n => s.setCode c.val n
  | none => s

/-- ACLK_STEP (01 R36, R37, R40): one 25 MHz step is complete, toward the frequency asked for; a slice holds the clock; with
the loops down only the current limit moves it (18 R414); log entry 24. -/
def execAclkStep (c : Fin 16) (up : Bool) (s : State) : Host.Outcome State Fault Refusal := .next (stepAclkStep c up s)

/-! Strict mode (12 R285-R287). -/

/-- May STRICT change: every context FREE, PREEMPTED, SAVED or FAULTED (12 R285)? -/
def State.strictFree (s : State) (p : Nat) : Bool :=
  (List.range 64).all (fun k => let st := (s.ctx p k).st; st == 0 || st == 3 || st == 5 || st == 7)

/-- The operations that waited for BUSY are performed (12 R286). -/
def State.runWaiting (s : State) (p : Nat) : State :=
  s.each (List.range 64) (fun s k =>
    let c := s.ctx p k
    if c.go && ((c.opNow == 0 && c.st == 0) || (c.opNow == 2 && c.st == 3) || (c.opNow == 4 && c.st == 5)) then s.ctxPerform p k c.opNow else s)

/-- Sections of a cluster that wait for PINNED go on with their checks (12 R286). -/
def State.unpinWaits (s : State) (c : Nat) : State :=
  s.each (s.bats.filter (fun e => e.1 / 64 == c && e.2.st == .arm && e.2.waitPin)) (fun s e => s.armChecks c (e.1 % 64))

/-- Strict mode goes on or off in a partition (12 R286); an excursion under way ends with it (01 R39). -/
def State.setStrict (s : State) (p : Nat) (on : Bool) : State :=
  let cs := s.clustersOf p
  if on then
    let s := s.each cs (fun s c => s.updClock c (fun k => { k with target := if k.code = 54 then none else some 54 }))
    let s := s.each cs (fun s c => s.logPower c false 54 4 0 0)
    s.updPart p (fun x => { x with strict := true, strictBusy := !cs.isEmpty })
  else
    let s := s.each (cs.filter (fun c => (s.clock c).pinned && (s.clock c).lowest != 54)) State.endExcursion
    let s := s.each cs (fun s c => s.updClock c (fun k => { k with pinned := false, target := none, heldStep := none, lowered := false, dvfs := k.code }))
    let s := s.updPart p (fun x => { x with strict := false, strictBusy := false })
    (s.each cs (fun s c => s.unpinWaits c)).runWaiting p

/-- A write of STRICT by an owner (12 R285). -/
def State.writeStrict (s : State) (p : Nat) (on : Bool) : State :=
  let result := fun (s : State) (n : Nat) => s.updPart p (fun x => { x with strictResult := n })
  if s.arbitrate 8 (.part p) != .proceed then result s St.superseded
  else if on == (s.part p).strict then result s St.completed
  else if !s.strictFree p then result s St.contextState
  else result (s.setStrict p on) St.completed

/-- Drop the stream-cache lines of a partition's clusters and the cached translations of its contexts (12 R300). -/
def State.flushPart (s : State) (p : Nat) : State :=
  { s with clusters := tmap s.clusters (fun c (x : Cluster) => { x with
      cache := if s.owns p c then [] else x.cache
      tlb := x.tlb.filter (fun e => e.ctx.part != p) }) }

def stepStrictWrite (fn : Fn) (p : Fin 16) (val : Dword) (s : State) : State :=
  if !s.ownsP fn p.val then s.refuseP fn p.val (offP p.val 8) 2 val.toNat
  else if s.resetting p.val then s.refuseP fn p.val (offP p.val 8) 3 val.toNat
  else
    let s := s.writeStrict p.val (val.toNat.testBit 0)
    if val.toNat.testBit 2 then s.flushPart p.val else s

/-- STRICT_WRITE (12 R285, R286, R300): STRICT, and FLUSH where the word written sets it. -/
def execStrictWrite (fn : Fn) (p : Fin 16) (val : Dword) (s : State) : Host.Outcome State Fault Refusal := .next (stepStrictWrite fn p val (s.unlatch fn))

def stepPinned (p : Fin 16) (s : State) : State :=
  let cs := s.clustersOf p.val
  if !(s.part p.val).strict then s
  else
    let now := cs.filter (fun c => (s.clock c).code == 54 && !(s.clock c).pinned)
    let s := s.each now (fun s c =>
      (s.updClock c (fun k => { k with pinned := true, lowest := 54, target := none, lowered := false })).unpinWaits c)
    if (s.part p.val).strictBusy && cs.all (fun c => (s.clock c).pinned) then
      (s.updPart p.val (fun x => { x with strictBusy := false })).runWaiting p.val
    else s

/-- PINNED (12 R286): each cluster of a strict partition that stands at 1.350 GHz is pinned; BUSY clears when all are. -/
def execPinned (p : Fin 16) (s : State) : Host.Outcome State Fault Refusal := .next (stepPinned p s)

def stepFlush (fn : Fn) (p : Fin 16) (s : State) : State :=
  if !s.ownsP fn p.val then s.refuseP fn p.val (offP p.val 8) 2 4
  else if s.resetting p.val then s.refuseP fn p.val (offP p.val 8) 3 4
  else s.flushPart p.val

/-- FLUSH (12 R300): done at once, so the bit reads 0 again; log entry 28. -/
def execFlush (fn : Fn) (p : Fin 16) (s : State) : Host.Outcome State Fault Refusal := .next (stepFlush fn p (s.unlatch fn))

/-! The step counter and the seed (12 R288, R290). -/

/-- May the driver write the step counter or the seed (12 R288)? -/
def State.stepFree (s : State) (p k : Nat) : Bool := let st := (s.ctx p k).st; st == 0 || st == 3 || st == 5 || st == 7

/-- A write of a register of a context that only its owner makes, in the states of R288. -/
def State.writeStill (s : State) (fn : Fn) (p k off : Nat) (val : Dword) (f : CtxX → CtxX) : State :=
  if !s.ownsP fn p then s.refuseP fn p (offP p off) 2 val.toNat
  else if s.resetting p || !s.stepFree p k then s.refuseP fn p (offP p off) 3 val.toNat
  else s.updCtxX p k f

/-- STEP_COUNTER_WRITE (12 R288). -/
def execStepCounterWrite (fn : Fn) (p : Fin 16) (k : Fin 64) (val : Dword) (s : State) : Host.Outcome State Fault Refusal :=
  .next ((s.unlatch fn).writeStill fn p.val k.val (0xB00 + 8 * k.val) val (fun x => { x with step := val.toNat }))

/-- SEED_WRITE (12 R290). -/
def execSeedWrite (fn : Fn) (p : Fin 16) (k : Fin 64) (hi : Bool) (val : Dword) (s : State) : Host.Outcome State Fault Refusal :=
  .next ((s.unlatch fn).writeStill fn p.val k.val ((if hi then 0xF00 else 0xD00) + 8 * k.val) val (fun x =>
    if hi then { x with seedHi := val } else { x with seedLo := val }))

end Sys2Proof.Machine
end

