-- ==== Sys2Proof/Machine/Tap.lean ====
section
/-! DEFINITION. Self-test slices, retests and ledger writes: TAP_SCHEDULE, TAP_SLICE_END, RAIL_SAMPLE, TAP_FORCED, FORCED_HOLD,
TAP_OVERDUE, RETEST_START, RETEST_TIMEOUT, RETEST_RETRY, SCRUB_SLICE, LEDGER_WRITE, LEDGER_HEADER_REWRITE (14, 13 R318-R322). -/
namespace Sys2Proof.Machine

/-! Where a slice may run (14 R329, R330). -/

/-- Is ACLK of a cluster at a test frequency, with no step under way (01 R40)? -/
def State.atTest (s : State) (c : Nat) : Bool := let k := s.clock c; k.target.isNone && (k.code == 40 || k.code == 54)

/-- Conditions of a tile slice on one tile, but for the muffle (14 R329). -/
def State.tileQuiet (s : State) (ta : Nat) : Bool :=
  let c := taC ta
  !(s.clX c).checks.any (fun k => k.checker == some ta) && (s.tile ta).test.duty.isNone &&
    (match (s.tile ta).test.capture with
      | some k => k.complete
      | none => true) &&
    (match s.batOf ta with
      | some (b, _) => let st := (s.bat c b).st; st != .arm && st != .run && st != .commit
      | none => true)

/-- Conditions of a tile slice of a kind (14 R329): a muffled tile serves a retest only; NET also looks at the east and south neighbours. -/
def State.tileReady (s : State) (kind ta : Nat) (retest : Bool) : Bool :=
  let ok := fun (n : Nat) => (retest || !s.muffledTile n) && s.tileQuiet n
  ok ta && !s.health.slices.any (fun x => x.onTile ta) &&
    (kind != 5 || ((taX ta = 15 || ok (taddr (taC ta) (taX ta + 1) (taY ta))) && (taY ta = 16 || ok (taddr (taC ta) (taX ta) (taY ta + 1)))))

/-- The banks of a SCRATCH slice that are scrubbed, not marched (14 R328): resident, or the tile's context is live. -/
def State.tapForm (s : State) (kind ta : Nat) : Nat :=
  if kind < 2 || 4 < kind then 0
  else
    let t := s.tile ta
    let live := match t.ctl.cur with
      | some i => s.live i
      | none => false
    (List.range 4).foldl (fun m i => if live || t.ctl.resValid.toNat.testBit (4 * (kind - 2) + i) then m + 2 ^ i else m) 0

/-- The MESH and SEAM units of a die in their round (14 R334): its mesh links, then the lane groups of the seams it owns. -/
def dieUnits (die : Nat) : List (Nat × Nat) :=
  let c := 8 * (die / 2) + 2 * (die % 2)
  [(2 * c), (2 * c + 1), (2 * (c + 1) + 1), (2 * (c + 4))].flatMap (fun g => (List.range 16).map (fun l => (6, 16 * g + l))) ++
    (if die = 0 then [0, 2] else if die = 1 then [3] else if die = 2 then [1] else []).flatMap (fun sm =>
      (List.range 17).map (fun g => (7, 17 * sm + g)))

/-- The die that runs a MESH or SEAM slice (14 R334). -/
def unitDie (kind u : Nat) : Nat :=
  ((List.range 4).find? (fun d => (dieUnits d).contains (kind, u))).getD 4

/-- Is a link or lane group out of service? -/
def State.linkMuffled (s : State) (kind u : Nat) : Bool :=
  if kind = 6 then s.health.links.contains u
  else (List.range 4).any (fun i => s.health.lanes.contains (68 * (u / 17) + 4 * (u % 17) + i))

/-- The place in its die's round of the unit that comes next (14 R334); -1 wraps to the start. -/
def State.nextOnDie (s : State) (die : Nat) : Option (Nat × Nat) :=
  let l := dieUnits die
  let at_ := tget s.health.rr (16 + die) 0
  (l.drop at_ ++ l.take at_).find? (fun e => !s.linkMuffled e.1 e.2)

/-- A slice starts (14 R326, R338): it holds its cluster's ACLK (01 R40). -/
def State.startSlice (s : State) (kind u : Nat) (retest forced : Bool) : State :=
  let fast := decide (kind < 6) && (s.clock (taC u)).code == 54
  let s := { s with health := { s.health with
      slices := s.health.slices ++ [{ kind, unit_ := u, retest, forced, form := s.tapForm kind u, fast, start := s.now }] } }
  if kind < 6 then (s.updTile u Tile.lend).updClock (taC u) (fun k => { k with tapHold := true }) else s

/-- The kind a tile's current cycle misses first (14 R332). -/
def State.nextKind (s : State) (ta : Nat) : Option Nat := (List.range 6).find? (fun k => !(s.tile ta).test.done.testBit k)

/-- Is a tile under the forced hold of its cluster? -/
def State.underHold (s : State) (ta : Nat) : Bool :=
  (s.clX (taC ta)).tapHold && (match s.batOf ta with
    | some (b, _) => b == (s.clX (taC ta)).tapHoldBat
    | none => false)

/-- Could a slice of the kind that a tile misses first start on it now (14 R329, R330)? -/
def State.tapDue (s : State) (ta : Nat) : Bool :=
  s.atTest (taC ta) && (match s.nextKind ta with
    | some k => s.tileReady k ta false
    | none => false)

/-- The operating second of a tile's last full tap cycle; a tile without one counts from second 0. -/
def State.cycleSec (s : State) (ta : Nat) : Nat :=
  let a := (s.tile ta).test.cycleAt
  if a = 0xFFFFFFFF then 0 else a

/-- Is a tile's turn come: no tile that could start now has the older cycle, or the lower TADDR at equal age (14 R332)? -/
def State.tapTurn (s : State) (ta : Nat) : Bool :=
  !((List.range 16).flatMap tilesOf).any (fun n =>
    (decide (s.cycleSec n < s.cycleSec ta) || (decide (n < ta) && s.cycleSec n == s.cycleSec ta)) && s.tapDue n)

def stepTapSchedule (kind u : Nat) (s : State) : State :=
  if !s.boot.bundle || s.compDown 35 || s.compDown 19 then s
  else if kind < 6 then
    if s.tileReady kind u false && s.atTest (taC u) &&
        (s.mon.tapWait == some (kind, u) || (s.nextKind u == some kind && (s.underHold u || s.tapTurn u))) then
      s.startSlice kind u false (s.underHold u)
    else s
  else
    let d := unitDie kind u
    if d < 4 && s.nextOnDie d == some (kind, u) && !s.health.slices.any (fun x => 6 ≤ x.kind && unitDie x.kind x.unit_ == d) then
      let l := dieUnits d
      let n := (l.idxOf (kind, u) + 1) % l.length
      { s with health := { s.health with rr := tset s.health.rr (16 + d) n } }.startSlice kind u false false
    else s

/-- TAP_SCHEDULE (14 R329-R334): an opportunistic or forced slice starts on a unit that meets the conditions. -/
def execTapSchedule (kind u : Nat) (s : State) : Host.Outcome State Fault Refusal := .next (stepTapSchedule kind u s)

/-! Forced holds (14 R333). -/

/-- Has a tile had no full tap cycle for a time (14 R333, R335)? -/
def State.tapAge (s : State) (ta sec : Nat) : Bool :=
  decide (s.cycleSec ta + sec ≤ s.ledger.opSec)

def stepTapForced (t : TileId) (s : State) : State :=
  let ta := tileKey t
  if !s.muffledTile ta && s.tapAge ta 72000 then s.updTile ta (fun t => t.updTest (fun x => { x with forced := true })) else s

/-- TAP_FORCED (14 R333). -/
def execTapForced (t : TileId) (s : State) : Host.Outcome State Fault Refusal := .next (stepTapForced t s)

/-- The frequency a hold or a retest steps to (14 R333 step 2). -/
def testCode (n : Nat) : Nat := if 54 < n then 54 else if n = 54 then 54 else 40

def stepForcedHold (c : Fin 16) (b : Fin 64) (s : State) : State :=
  let st := (s.bat c.val b.val).st
  if s.compDown 35 || (s.clX c.val).tapHold || st == .arm || st == .run || st == .commit || st == .abort ||
      !(s.batTiles c.val b.val).any (fun e => (s.tile e.2).test.forced) then s
  else
    let s := s.updClX c.val (fun x => { x with tapHold := true, tapHoldBat := b.val, tapTries := [] })
    let s := s.updClock c.val (fun k =>
      { k with tapHold := true, target := if k.code = testCode k.code then none else some (testCode k.code) })
    if (s.clock c.val).target.isSome then s.logPower c.val false (testCode (s.clock c.val).code) 5 0 0 else s

/-- FORCED_HOLD (14 R333): ARM is blocked on the battery, and ACLK steps to a test frequency. -/
def execForcedHold (c : Fin 16) (b : Fin 64) (s : State) : Host.Outcome State Fault Refusal := .next (stepForcedHold c b s)

/-- The hold of a cluster is released (14 R333 step 4). -/
def State.releaseHold (s : State) (c : Nat) : State :=
  if !(s.clX c).tapHold then s
  else
    let b := (s.clX c).tapHoldBat
    let s := s.updClX c (fun x => { x with tapHold := false })
    let busy := s.health.slices.any (fun y => decide (y.kind < 6) && taC y.unit_ == c)
    let s := if busy then s else s.updClock c (fun k => Clock.release { k with target := none })
    s.pumpBat c b

/-- Has a hold done its work: no tile of its battery is forced or older than 36,000 s (14 R333 step 3)? -/
def State.holdDone (s : State) (c : Nat) : Bool :=
  (s.batTiles c (s.clX c).tapHoldBat).all (fun e => s.muffledTile e.2 || !((s.tile e.2).test.forced || s.tapAge e.2 36000))

/-- A slice did not complete: in a hold it is retried twice, then the hold is released (14 R333). -/
def State.skipSlice (s : State) (x : TapSlice) (outcome : Nat) : State :=
  let c := taC x.unit_
  let tries := ((s.clX c).tapTries.filter (fun e => e == (x.kind, x.unit_))).length
  if x.kind < 6 && x.forced && 2 ≤ tries then ((s.returnTile x).tapRecord x 5 0 0 0).releaseHold c
  else
    let s := (s.returnTile x).tapRecord x outcome 0 0 0
    if x.kind < 6 && x.forced then s.updClX c (fun y => { y with tapTries := y.tapTries ++ [(x.kind, x.unit_)] }) else s

/-- The slices of a cluster are skipped because its conditions do not hold (14 R330). -/
def State.skipSlices (s : State) (c : Nat) : State :=
  s.each (s.health.slices.filter (fun x => decide (x.kind < 6) && taC x.unit_ == c)) (fun s x => s.skipSlice x 2)

def stepRailSample (kind u mv : Nat) (s : State) : State :=
  match s.health.slices.find? (fun x => x.kind == kind && x.unit_ == u) with
  | none => s
  | some x =>
    let tp := Config.testPoint s.fw.version kind x.fast
    if 100 * mv < 98 * tp || 102 * tp < 100 * mv then s.skipSlice x 2 else s

/-- RAIL_SAMPLE (14 R330): a rail outside its window ends the slice, skipped. -/
def execRailSample (kind u mv : Nat) (s : State) : Host.Outcome State Fault Refusal := .next (stepRailSample kind u mv s)

def stepTapOverdue (t : TileId) (s : State) : State :=
  let ta := tileKey t
  let x := (s.tile ta).test
  if !s.muffledTile ta && x.forced && !x.overdue && s.tapAge ta 86400 then
    (s.updTile ta (fun t => t.updTest (fun x => { x with overdue := true }))).raise (unitRec 0xB7 1 ta)
  else s

/-- TAP_OVERDUE (14 R335). -/
def execTapOverdue (t : TileId) (s : State) : Host.Outcome State Fault Refusal := .next (stepTapOverdue t s)

/-! Retests (13 R321, R322, 14 R337). A retest's number is 0 while it waits, n + 1 after n slices passed, 1000 after it ran out of
time. -/

/-- The retest of a unit. -/
def State.retestOf (s : State) (kind idx : Nat) : Option Nat :=
  (s.ledger.retests.find? (fun r => r.1 == kind && r.2.1 == idx)).map (·.2.2)

/-- Set the number of a retest, or end it. -/
def State.setRetest (s : State) (kind idx : Nat) (n : Option Nat) : State :=
  { s with ledger := { s.ledger with retests := match n with
      | some n => s.ledger.retests.map (fun r => if r.1 == kind && r.2.1 == idx then (kind, idx, n) else r)
      | none => s.ledger.retests.filter (fun r => !(r.1 == kind && r.2.1 == idx)) } }

/-- The n-th slice of a unit's retest: kind, unit and the clock code it needs; none after the last (14 R337). -/
def retestSlice (kind idx n : Nat) : Option (Nat × Nat × Option Nat) :=
  if kind = 1 || kind = 2 then
    if n < 6 then some (n, idx, some 40) else if n < 8 then some (n - 6, idx, some 54) else none
  else if kind = 4 then if n < 3 then some (6, idx, none) else none
  else if kind = 5 then if n < 3 then some (7, 17 * (idx / 68) + idx % 68 / 4, none) else none
  else none

/-- Is a unit out of service? -/
def State.unitMuffled (s : State) (kind idx : Nat) : Bool :=
  if kind = 1 || kind = 2 then s.muffledTile idx
  else if kind = 3 then (s.slice (idx / 66) (idx % 66)).st == 3
  else if kind = 4 then s.health.links.contains idx
  else if kind = 5 then s.health.lanes.contains idx
  else if kind = 6 then (s.chan idx).st == 2
  else if kind = 7 then (s.chan (192 + idx)).st == 2
  else if kind = 8 then (s.wave idx).muffled
  else false

/-- A unit's way back into service begins (10 R246): it comes up at the next flip of the epoch. -/
def State.readmit (s : State) (kind idx : Nat) : State :=
  if s.unitMuffled kind idx && !s.mesh.installing.contains (unitCode kind idx) then
    let s := { s with mesh := { s.mesh with installing := s.mesh.installing ++ [unitCode kind idx] } }
    s.each (List.range 16) (fun s c => s.updRouter c (fun r => { r with shadowValid := false }))
  else s

/-- A retest passes (13 R321): clean, counted, reported; a muffled unit is re-admitted. -/
def State.retestPass (s : State) (kind idx : Nat) : State :=
  let e := s.ledgerOf kind idx
  let s := s.setRetest kind idx none
  let s := if ledState e == 1 then
      let v := setField (setField e.toNat 4 4 0) 184 8 (satAdd 8 (field e.toNat 184 8) 1)
      (s.setLedger kind idx (BitVec.ofNat 512 v)).raise (unitRec 0xB5 kind idx)
    else s
  if s.unitMuffled kind idx then s.readmit kind idx else s.answer (waitUnit kind idx) St.completed

/-- A retest fails (13 R321): permanent, muffled, to be written into the floor plan. -/
def State.retestFail (s : State) (kind idx : Nat) : State :=
  let e := s.ledgerOf kind idx
  let s := (s.setRetest kind idx none).answer (waitUnit kind idx) St.unitMuffled
  if ledState e == 1 then
    let s := (s.setLedger kind idx (BitVec.ofNat 512 (setField e.toNat 4 4 2))).raise (unitRec 0xB4 kind idx)
    { s with
      health := { s.health with fpStale := true }
      ledger := { s.ledger with perm := s.ledger.perm ++ [(ledgerNo kind idx, s.now)] } }.muffleUnit kind idx
  else s

/-- The unit whose retest a slice belongs to. -/
def State.retestUnit (s : State) (x : TapSlice) : Option (Nat × Nat × Nat) :=
  s.ledger.retests.find? (fun r => r.2.2 != 0 && r.2.2 != 1000 && (match retestSlice r.1 r.2.1 (r.2.2 - 1) with
    | some (k, u, _) => k == x.kind && u == x.unit_
    | none => false))

/-- The next slice of a retest starts, or its cluster's ACLK steps to the frequency it needs (13 R322, 14 R337). -/
def State.retestGo (s : State) (kind idx n : Nat) : State :=
  match retestSlice kind idx (n - 1) with
  | none => s
  | some (k, u, code) =>
    if s.health.slices.any (fun x => x.kind == k && x.unit_ == u) then s
    else match code with
    | none =>
      if s.health.slices.any (fun x => 6 ≤ x.kind && unitDie x.kind x.unit_ == unitDie k u) then s else s.startSlice k u true false
    | some f =>
      let c := taC u
      if (s.clock c).code = f && s.atTest c then (if s.tileReady k u true then s.startSlice k u true false else s)
      else s.updClock c (fun x => { x with tapHold := true, target := some f })

def stepRetestStart (u : UnitId) (s : State) : State :=
  match s.retestOf u.kind u.index with
  | none => s
  | some n =>
    if !s.boot.bundle || s.compDown 35 || n == 1000 then s
    else (s.setRetest u.kind u.index (some (max n 1))).retestGo u.kind u.index (max n 1)

/-- RETEST_START (13 R322, 14 R337): the next slice of the unit's retest. -/
def execRetestStart (u : UnitId) (s : State) : Host.Outcome State Fault Refusal := .next (stepRetestStart u s)

def stepRetestTimeout (u : UnitId) (s : State) : State :=
  match s.retestOf u.kind u.index with
  | none => s
  | some _ =>
    let s := s.abandonSlices 2 (fun x => x.retest && s.retestUnit x == s.ledger.retests.find? (fun r => r.1 == u.kind && r.2.1 == u.index))
    let s := if (u.kind = 1 || u.kind = 2) && !s.sliceHolds (taC u.index) && !(s.clX (taC u.index)).tapHold then
        s.updClock (taC u.index) (fun k => Clock.release { k with target := none })
      else s
    s.setRetest u.kind u.index (some 1000)

/-- RETEST_TIMEOUT (14 R337): 120 s without the conditions leave the unit transient-suspect; the retest waits. -/
def execRetestTimeout (u : UnitId) (s : State) : Host.Outcome State Fault Refusal := .next (stepRetestTimeout u s)

def stepRetestRetry (u : UnitId) (s : State) : State :=
  match s.retestOf u.kind u.index with
  | some 1000 => (s.setRetest u.kind u.index (some 1)).retestGo u.kind u.index 1
  | _ => s

/-- RETEST_RETRY (14 R337): after 600 s the retest begins again. -/
def execRetestRetry (u : UnitId) (s : State) : Host.Outcome State Fault Refusal := .next (stepRetestRetry u s)

/-! The end of a slice. -/

/-- What a march leaves (14 R328): each bank not scrubbed is zeroed with its valid bit 0. -/
def State.marched (s : State) (x : TapSlice) : State :=
  if x.kind < 2 || 4 < x.kind then s
  else s.each ((List.range 4).filter (fun i => !x.form.testBit i)) (fun s i =>
    let k := 4 * (x.kind - 2) + i
    s.updTile x.unit_ (fun t => { t with
      core := { t.core with pad := mclear t.core.pad (32768 * k) 32768 }
      ctl := { t.ctl with resValid := t.ctl.resValid &&& ~~~(1#12 <<< k) }
      test := { t.test with march := tset t.test.march k s.ledger.opSec } }))

/-- A kind has passed in a tile's cycle; six make a full cycle (14 R326, R333). -/
def State.kindPassed (s : State) (ta kind : Nat) : State :=
  let sec := s.ledger.opSec
  s.updTile ta (fun t => t.updTest (fun x =>
    let done := x.done ||| 2 ^ kind
    if done = 63 then { x with done := 0, cycleAt := sec, forced := false, overdue := false } else { x with done }))

/-- A slice that is no retest fails (14 R336, 13 R315): a confirmed error on its unit or lanes, and TAP_FAILED. -/
def State.tapFail (s : State) (x : TapSlice) (lanes : Nat) : State :=
  let hit := if x.kind = 0 then [(2, x.unit_)] else if x.kind < 6 then [(1, x.unit_)] else if x.kind = 6 then [(4, x.unit_)]
    else ((List.range 4).filter (fun i => lanes % 16 == 0 || lanes.testBit i)).map (fun i => (5, 68 * (x.unit_ / 17) + 4 * (x.unit_ % 17) + i))
  let u := hit.headD (1, 0)
  let s := s.raise (unitRec 0xB6 u.1 u.2)
  s.each hit (fun s (u : Nat × Nat) => s.confirm u.1 u.2 3 0xB6)

/-- The outcome of a retest slice (14 R336, R337). -/
def State.retestEnd (s : State) (x : TapSlice) (pass : Bool) : State :=
  match s.retestUnit x with
  | none => s
  | some (kind, idx, n) =>
    if !pass then s.retestFail kind idx
    else if (retestSlice kind idx n).isNone then s.retestPass kind idx
    else s.setRetest kind idx (some (n + 1))

/-- An uncorrectable read of a SCRATCH slice (07 R178): each bank concerned, or all four if none is named, loses its valid bit, and the
tile takes a confirmed error. -/
def State.scrubLost (s : State) (x : TapSlice) (banks : Nat) : State :=
  if x.kind < 2 || 4 < x.kind then s
  else s.each ((List.range 4).filter (fun i => banks % 16 == 0 || banks.testBit i)) (fun s i => s.scratchLost x.unit_ (4 * (x.kind - 2) + i))

def stepTapSliceEnd (kind u : Nat) (golden : Bool) (sig : Dword) (errors lanes : Nat) (s : State) : State :=
  match s.health.slices.find? (fun x => x.kind == kind && x.unit_ == u) with
  | none => s
  | some x =>
    let errors := if 2 ≤ kind && kind ≠ 5 then errors else 0
    let pass := golden && errors == 0
    let s := ((s.returnTile x).marched x).tapRecord x (if pass then 0 else 1) (min errors 255) (if kind = 7 then lanes % 16 else 0) sig.toNat
    let s := if kind < 6 && !pass then s.updTile u (fun t => t.updTest (fun y => { y with fails := satAdd 8 y.fails 1 })) else s
    let s := if 0 < errors then s.scrubLost x lanes else s
    let s := if pass && kind < 6 then s.kindPassed u kind else s
    let s := if x.retest then s.retestEnd x pass else if pass then s else s.tapFail x lanes
    if kind < 6 && x.forced && s.holdDone (taC u) then s.releaseHold (taC u) else s

/-- TAP_SLICE_END (14 R328, R331, R336, R338): signature, record, ledger; `golden` says that the signature equals the golden one, `errors` counts
CRC errors or uncorrectable reads, `lanes` names the lanes of a SEAM slice that showed one, or the banks of a SCRATCH slice. -/
def execTapSliceEnd (kind u : Nat) (golden : Bool) (sig : Dword) (errors lanes : Nat) (s : State) : Host.Outcome State Fault Refusal :=
  .next (stepTapSliceEnd kind u golden sig errors lanes s)

def stepScrubSlice (u : UnitId) (last pass : Bool) (s : State) : State :=
  if u.kind != 3 && u.kind != 6 && u.kind != 7 then s
  else match s.retestOf u.kind u.index with
  | none => s
  | some n =>
    if n == 0 || n == 1000 then s
    else if !pass then s.retestFail u.kind u.index
    else if last then s.retestPass u.kind u.index
    else s

/-- SCRUB_SLICE (14 R337): a read slice of the retest of a memory slice or channel. -/
def execScrubSlice (u : UnitId) (last pass : Bool) (s : State) : Host.Outcome State Fault Refusal := .next (stepScrubSlice u last pass s)

/-! The ledger in the NOR (13 R318-R320). -/

/-- Is a version's CRC right (13 R319)? -/
def ledgerOk (e : LedgerEntry) : Bool := (crc32c (leBytes 60 (e.toNat % 2 ^ 480))).toNat == bf e 480 32

/-- A version with a sequence number and its CRC. -/
def sealEntry (e : Nat) (seq : Nat) : LedgerEntry :=
  let v := setField e 32 32 seq % 2 ^ 480
  BitVec.ofNat 512 (setField v 480 32 (crc32c (leBytes 60 v)).toNat)

/-- Does copy A hold the current version of an entry (13 R320)? -/
def Ledger.inA (l : Ledger) (n : Nat) : Bool :=
  let a := tget l.copyA n 0
  let b := tget l.copyB n 0
  ledgerOk a && (!ledgerOk b || bf b 32 32 ≤ bf a 32 32)

/-- Write a version to the copy that does not hold the current one. -/
def State.writeLedger (s : State) (n v : Nat) : State :=
  let l := s.ledger
  let e := sealEntry v (l.seq + 1)
  { s with ledger := if l.inA n then { l with copyB := tset l.copyB n e, seq := l.seq + 1 }
      else { l with copyA := tset l.copyA n e, seq := l.seq + 1 } }

def stepLedgerWrite (u : UnitId) (s : State) : State :=
  let n := ledgerNo u.kind u.index
  if !s.ledger.dirty.contains n || s.compDown 1 then s
  else
    let s := s.writeLedger n (s.ledgerOf u.kind u.index).toNat
    let e := BitVec.ofNat 512 (setField (s.ledgerOf u.kind u.index).toNat 32 32 s.ledger.seq)
    { s with ledger := { s.ledger with dirty := s.ledger.dirty.erase n, work := tset s.ledger.work n e } }

/-- LEDGER_WRITE (13 R320). -/
def execLedgerWrite (u : UnitId) (s : State) : Host.Outcome State Fault Refusal := .next (stepLedgerWrite u s)

def stepLedgerHeaderRewrite (s : State) : State :=
  if s.compDown 1 then s
  else
    let s := s.writeLedger 0 (pack [(8, 0), (16, 1), (8, 0), (32, 0), (32, s.ledger.opSec)])
    { s with ledger := { s.ledger with headerSec := s.ledger.opSec } }

/-- LEDGER_HEADER_REWRITE (13 R319, R320). -/
def execLedgerHeaderRewrite (s : State) : Host.Outcome State Fault Refusal := .next (stepLedgerHeaderRewrite s)

end Sys2Proof.Machine
end

