-- ==== Sys2Proof/Machine/Power.lean ====
section
/-! DEFINITION. The power and thermal loops: DVFS_PERIOD, CURRENT_LIMIT_PERIOD, THERMAL_PERIOD, CAP_PERIOD (18 R421-R425, 05 R133,
R134, 01 R39, R40, 07 R167, R168). Draws are held in mW, temperatures in degrees Celsius. -/
namespace Sys2Proof.Machine

/-! DVFS (05 R133, R134, 18 R423). -/

/-- The step the DVFS loop asks of a cluster at code n, and whether R134 asked it (05 R133, R134): 0 hold, 1 raise, 2 lower. -/
def dvfsAsk (k : Clock) (y : ClusterY) (draw waitShare : Nat) : Nat × Bool :=
  let n := k.code
  if 100 < waitShare && 40 < n then (2, true)
  else if y.allot < draw then (if 32 < n then (2, false) else (0, false))
  else if !k.inhibit && y.headroom && decide (waitShare ≤ 100) && decide (n < 64) && decide (n * draw + 3 * draw ≤ y.allot * n) then (1, false)
  else (0, false)

/-- The loop's step is taken, or kept for the end of a hold (01 R40). A raise leaves what the loop had set before the current limit lowered
the cluster (18 R421). -/
def Clock.dvfsTo (k : Clock) (n : Nat) : Clock :=
  if k.tapHold then { k with heldStep := some n } else { k with target := some n, dvfs := if k.lowered && decide (k.code < n) then max k.dvfs n else n }

/-- What a period's wait share does to the inhibition of raises (05 R134). -/
def Clock.inhibited (k : Clock) (lowers : Bool) (waitShare : Nat) : Clock :=
  { k with inhibit := lowers || (k.inhibit && decide (20 ≤ waitShare)) }

/-- Does a cluster belong to a partition in strict mode (12 R287)? -/
def State.strictCl (s : State) (c : Nat) : Bool :=
  match s.partOf c with
  | some p => (s.part p).strict
  | none => false

def stepDvfsPeriod (c : Fin 16) (draw waitShare : Nat) (s : State) : State :=
  if !s.boot.bundle || s.compDown 17 then s
  else
    let s := s.updClY c.val (fun y => { y with draw })
    let k := s.clock c.val
    if k.pinned || s.strictCl c.val || !(s.clY c.val).ready then s
    else
      let a := if k.target.isSome then (0, false) else dvfsAsk k (s.clY c.val) draw waitShare
      let s := s.updClock c.val (fun k => k.inhibited a.2 waitShare)
      if a.1 = 0 then s
      else
        let n := if a.1 = 1 then k.code + 1 else k.code - 1
        (s.updClock c.val (fun k => k.dvfsTo n)).logPower c.val false n 1 0 0

/-- DVFS_PERIOD (05 R133, R134, 18 R423): one cluster's draw in mW and its wait share in thousandths at the end of a period;
log entry 33. -/
def execDvfsPeriod (c : Fin 16) (draw waitShare : Nat) (s : State) : Host.Outcome State Fault Refusal :=
  .next (stepDvfsPeriod c draw waitShare s)

/-! The current limit (18 R421). -/

/-- A lowering is logged once per 1 ms; the others are counted for the next entry (18 R418). -/
def State.logLimit (s : State) (c : Nat) (wide : Bool) (code : Nat) : State :=
  let ms := s.now / 1000000 + 1
  if s.pwr.loggedMs = ms then { s with pwr := { s.pwr with unlogged := satAdd 16 s.pwr.unlogged 1 } }
  else
    let n := if s.pwr.loggedMs + 1 = ms then s.pwr.unlogged else 0
    { s with pwr := { s.pwr with unlogged := 0, loggedMs := ms } }.logPower c wide code 0 0 n

/-- The current limit lowers a cluster by one step (18 R421, 01 R39, R40): running slices are skipped. -/
def State.limitLower (s : State) (wide : Bool) (c : Nat) : State :=
  let k := s.clock c
  if k.code ≤ 32 then s
  else
    let s := (s.skipSlices c).updClock c (fun k => { k with target := some (max 32 (k.code - 1)), lowered := true })
    s.logLimit c wide (k.code - 1)

/-- A lowered cluster goes up one step, to what the DVFS loop last set, or to 1.350 GHz if pinned (18 R421, 01 R39). -/
def State.limitRaise (s : State) (c : Nat) : State :=
  s.updClock c (fun k =>
    let goal := if k.pinned then 54 else k.dvfs
    if !k.lowered then k
    else if k.code < goal then { k with target := some (k.code + 1), lowered := k.code + 1 != goal }
    else { k with lowered := false })

/-- The input current limit in mA (21 R475), from CAP_W and the measured VIN in units of 10 mV. -/
def State.iLimit (s : State) : Nat :=
  let v := s.pwr.vinSamples.foldl (· + ·) 0 / s.pwr.vinSamples.length
  if v = 0 then 48000 else min 48000 ((s.pwr.capW + 100) * 100000 / v)

def stepCurrentLimitPeriod (ma : Nat) (draws rails : List Nat) (s : State) : State :=
  let s := { s with pwr := { s.pwr with inputMa := ma } }
  let cs := List.range 16
  let tooMuch := decide (s.pwr.ilim < ma)
  let excess := cs.filter (fun c => decide ((s.clY c).allot < draws.getD c 0))
  let hot := cs.filter (fun c => decide (103 ≤ (s.clY c).temp) || decide (140000 < rails.getD c 0))
  let all := tooMuch && excess.isEmpty
  let l := cs.filter (fun c => all || (tooMuch && excess.contains c) || hot.contains c)
  if tooMuch || !l.isEmpty then
    s.each l (fun s c => s.limitLower all c) |> fun s => { s with pwr := { s.pwr with noExcessUs := 0 } }
  else
    let us := min 1000 (s.pwr.noExcessUs + 10)
    let s := { s with pwr := { s.pwr with noExcessUs := us } }
    if us < 100 then s else s.each cs (fun s c => s.limitRaise c)

/-- CURRENT_LIMIT_PERIOD (18 R421, 21 R475): the input current in mA, each cluster's draw in mW and its rail's current in mA. -/
def execCurrentLimitPeriod (ma : Nat) (draws rails : List Nat) (s : State) : Host.Outcome State Fault Refusal :=
  .next (stepCurrentLimitPeriod ma draws rails s)

/-! Temperatures (18 R424, 07 R167, R168). -/

/-- The refresh rate at a temperature, from the one in force: 0 for 1x, 1 for 2x, 2 for 4x, down only at 2 degrees below a threshold. -/
def refreshRate (old t : Nat) : Nat :=
  let up := if 95 ≤ t then 2 else if 85 ≤ t then 1 else 0
  let down := if t ≤ 83 then 0 else if t ≤ 93 then 1 else 2
  max up (min old down)

/-- What a cluster's temperature does to its headroom and allotment (18 R424). -/
def ClusterY.heated (y : ClusterY) (n t : Nat) : ClusterY :=
  { y with
    temp := t, headroom := decide (t < 95)
    allot := if 95 ≤ t && t ≤ 102 then min y.allot (max (y.allot * 95 / 100) (y.draw * 40 / n)) else y.allot }

def stepThermalPeriod (temps chips : List Nat) (s : State) : State :=
  let s := { s with smbus := { s.smbus with junction := (temps ++ chips).foldl max 0 % 256 } }
  if !s.boot.bundle then s
  else
    let s := if s.compDown 17 then s
      else s.each (List.range 16) (fun s c => match temps[c]? with
        | some t => s.updClY c (fun y => y.heated (s.clock c).code t)
        | none => s)
    if s.compDown 18 then s
    else s.each (List.range 224) (fun s i => match chips[if i < 192 then i / 16 else i - 180]? with
      | some t => s.updChan i (fun x => { x with refresh := refreshRate x.refresh t })
      | none => s)

/-- THERMAL_PERIOD (18 R424, 07 R167, R168): the hottest sensor of each cluster, and the temperature of each HBM stack 0-11 and far-tier
channel F0-F31. -/
def execThermalPeriod (temps chips : List Nat) (s : State) : Host.Outcome State Fault Refusal := .next (stepThermalPeriod temps chips s)

/-! The module cap (18 R422). -/

/-- Was a cluster idle in the cap period: no section in RUN? -/
def State.idleCl (s : State) (c : Nat) : Bool := !(s.clY c).ran && !s.bats.any (fun e => e.1 / 64 == c && e.2.st == .run)

def stepCapPeriod (inputW : Nat) (draws : List Nat) (s : State) : State :=
  if !s.boot.bundle || s.compDown 17 then s
  else
    let p := fun (c : Nat) => draws.getD c 0
    let cs := List.range 16
    let sum := cs.foldl (fun n c => n + p c) 0
    let uncore := inputW - sum
    let budget := s.pwr.capW * 1000 - uncore - 40000
    let idle := cs.filter (fun c => s.idleCl c)
    let pinned := cs.filter (fun c => !s.idleCl c && s.pinnedCl c)
    let rest := cs.filter (fun c => !s.idleCl c && !s.pinnedCl c)
    let fixed := idle.foldl (fun n c => n + p c + 2000) 0 + pinned.foldl (fun n c => n + p c) 0
    let share := min 110000 ((budget - fixed) / rest.length)
    let s := s.each cs (fun s c => s.updClY c (fun y => { y with
      idle := idle.contains c, ran := false
      allot := if idle.contains c then p c + 2000 else if pinned.contains c then p c else share }))
    let unmet := decide (budget < fixed)
    let s := { s with
      pwr := { s.pwr with
        inputW, uncoreW := uncore, clusterW := sum, capUnmet := s.pwr.capUnmet || unmet }
      smbus := { s.smbus with powerW := inputW / 1000 } }
    if unmet then (s.event 0xE8 0).logPower 0 true 0 3 0xE8 0 else s

/-- CAP_PERIOD (18 R422): the input power and the cluster rail draws of the period, in mW; log entry 34. -/
def execCapPeriod (inputW : Nat) (draws : List Nat) (s : State) : Host.Outcome State Fault Refusal := .next (stepCapPeriod inputW draws s)

end Sys2Proof.Machine
end

