-- ==== Sys2Proof/Machine/Cfg.lean ====
section
/-! DEFINITION. Configuration banks: staging, validation, swaps, the epoch flip: CFG_STAGE, STAGING_WINDOW_WRITE,
VALIDATION_COMPLETE, SECURE, DEVICE_CFG_SWAP, CLUSTER_CFG_SWAP, CLUSTER_SWAP_INSTALL, EPOCH_FLIP (17 R394-R408, 10 R238, R245, R246). -/
namespace Sys2Proof.Machine

/-! Route tables and key masks (10 R238, 17 R397). -/

/-- The ports of a shortest path from a router to another, the dimension-order port of east-west routing first (10 R238). -/
def minimalPorts (c d : Nat) : List Nat :=
  (if c % 4 < d % 4 then [1] else if d % 4 < c % 4 then [3] else []) ++ (if c / 4 < d / 4 then [2] else if d / 4 < c / 4 then [0] else [])

/-- The dimension-order port from a router to another. -/
def dimPort (yx : Bool) (c d : Nat) : Nat :=
  let l := minimalPorts c d
  (if yx then l.reverse else l).headD 4

/-- One entry of a route table (10 R238): the escape port, the adaptive set, the ports that leave the mesh. -/
def entryOk (c e v : Nat) : Bool :=
  let d := nodeRouter e
  let esc := if c = d then (if e < 16 then 4 else 5) else dimPort (rtYx v) c d
  let ad := rtAdapt v
  rtEsc v == esc && ad.testBit esc && (bitsOf 6 ad).all (portExists c) &&
    (if c = d then ad == 2 ^ esc else !ad.testBit 4 && !ad.testBit 5)

/-- Follow the escape path to a node: the routers entered with their input ports; none beyond 7 hops (10 R238). -/
def escPath (routes : Tbl (Tbl Nat)) (e : Nat) : Nat → Nat → Option (List (Nat × Nat))
  | 0, _ => none
  | fuel + 1, c =>
    if c = nodeRouter e then some []
    else match neighbour c (rtEsc (tget (tget routes c []) e 0)) with
    | none => none
    | some (n, q) => (escPath routes e fuel n).map ((n, q) :: ·)

/-- The bank rules of 10 R238 over a whole image. -/
def routesOk (d : DeviceCfg) : Bool :=
  (List.range 16).all (fun c =>
    let t := tget d.routes0 c []
    (List.range 24).all (fun e => entryOk c e (tget t e 0) && rtYx (tget t e 0) == rtYx (tget t 0 0) &&
      (escPath d.routes0 e 8 c).isSome))

/-- The chiplets that host a partition's channels (01 R30): as nodes. -/
def hostNodes (r : PartRec) : List Nat :=
  ((bitsOf 48 r.hbm).map (fun g => stackNode (g / 4)) ++ (bitsOf 32 r.far).map farNode).eraseDups

/-- The key-mask rule of 17 R397: every escape path of a partition is admitted at each router input it enters, the input of the
source cluster included; log entry 38. -/
def masksOk (d : DeviceCfg) : Bool :=
  let open_ := fun (p c port : Nat) => (field (tget d.keymasks c 0) (16 * port) 16).testBit p
  d.parts.all (fun e =>
    let cs := bitsOf 16 e.2.clusters
    cs.all (fun c => open_ e.1 c 4 && (cs ++ hostNodes e.2).all (fun n => match escPath d.routes0 n 8 c with
      | some l => l.all (fun h => open_ e.1 h.1 h.2)
      | none => false)))

/-! Banks. -/

/-- The number of the device-level bank among the targets. -/
def devTarget : Nat := 16

/-- Change the status of a bank. -/
def State.updBank (s : State) (t : Nat) (f : BankStatus → BankStatus) : State :=
  { s with cfg := { s.cfg with status := tset s.cfg.status t (f (tget s.cfg.status t BankStatus.reset)) } }

/-- The status of a bank. -/
def State.bank (s : State) (t : Nat) : BankStatus := tget s.cfg.status t BankStatus.reset

/-- The order target of a bank (11 R277). -/
def bankTarget (t : Nat) : Target := if t = devTarget then .module else .cluster t

/-! Staging (17 R402, R406). The stagers are numbered by port; 4 is the belfry. -/

/-- Change a stager. -/
def State.updStager (s : State) (n : Nat) (f : Stager → Stager) : State :=
  { s with cfg := { s.cfg with stagers := tset s.cfg.stagers n (f (tget s.cfg.stagers n Stager.reset)) } }

/-- A stager. -/
def State.stager (s : State) (n : Nat) : Stager := tget s.cfg.stagers n Stager.reset

/-- A staging into a bank starts, or is refused with a status (17 R402, R406). -/
def State.stageGo (s : State) (n t len : Nat) : State × Nat :=
  if t != devTarget && !s.boot.readyClusters.testBit t then (s, 0xD0)
  else if (s.bank t).shadow == 1 || s.cfg.swaps.any (fun w => w.target == t) then (s, 0x50)
  else if s.arbitrate 8 (bankTarget t) != .proceed then (s, St.superseded)
  else
    let s := s.updBank t (fun b => { b with shadow := 1, byBelfry := n == 4 })
    let s := if t = devTarget then { s with cfg := { s.cfg with devShadow := none } }
      else { s with cfg := { s.cfg with clusterShadows := s.cfg.clusterShadows.filter (fun e => e.1 != t) } }
    (s.updStager n (fun x => { x with go := true, bankNow := t, lenNow := len }), 0)

def stepCfgStage (fn : Fn) (val : Dword) (s : State) : State :=
  match fn with
  | .pf port =>
    let x := s.stager port.val
    let t := if val.toNat.testBit 1 then bf val 2 4 else devTarget
    if !s.boot.bundle then s.refuseG fn 0x78 3 val.toNat
    else if 4194304 < bf val 32 23 then s.refuseG fn 0x78 6 val.toNat
    else
      let s := s.updStager port.val (fun x => { x with target := bf val 1 1, cluster := bf val 2 4, len := bf val 32 23 })
      if !val.toNat.testBit 0 || x.go then s
      else if !(if t = devTarget then s.ownsG fn else s.ownsC fn t) then s.updStager port.val (fun x => { x with result := St.notOwner })
      else match s.stageGo port.val t (bf val 32 23) with
      | (s1, 0) => s1
      | (s1, st) => s1.updStager port.val (fun x => { x with result := st })
  | _ => s

/-- CFG_STAGE (17 R402, R406, R408): the fields are set; while GO reads 1 a further 1 in it starts nothing (00 R12). -/
def execCfgStage (fn : Fn) (val : Dword) (s : State) : Host.Outcome State Fault Refusal := .next (stepCfgStage fn val (s.unlatch fn))

def stepStagingWindowWrite (fn : Fn) (firmware : Bool) (off : Nat) (data : List Byte) (s : State) : State :=
  match fn with
  | .pf port =>
    let base := if firmware then 0x1000000 else 0x800000
    let size := if firmware then 0x1000000 else 0x400000
    if size < off + data.length then s
    else if firmware then
      let x := tget s.fw.loads port.val FwStager.reset
      if x.go then s.refuseG fn (base + off) 4 (leNat data)
      else { s with fw := { s.fw with loads := tset s.fw.loads port.val { x with buf := mwriteBytes x.buf off data } } }
    else if !s.boot.bundle then s.refuseG fn (base + off) 3 (leNat data)
    else if (s.stager port.val).go then s.refuseG fn (base + off) 4 (leNat data)
    else s.updStager port.val (fun x => { x with buf := mwriteBytes x.buf off data })
  | _ => s

/-- STAGING_WINDOW_WRITE (17 R402, 18 R412): into the PF's own buffer; discarded and logged while its staging goes on. -/
def execStagingWindowWrite (fn : Fn) (firmware : Bool) (off : Nat) (data : List Byte) (s : State) : Host.Outcome State Fault Refusal :=
  .next (stepStagingWindowWrite fn firmware off data (s.unlatch fn))

def stepSecure (fn : Fn) (val : Dword) (s : State) : State :=
  s.gateG fn 0x80 val.toNat (fun s => if val.toNat.testBit 0 then { s with cfg := { s.cfg with secure := true } } else s)

/-- SECURE (17 R394, R408): on until the next chip reset. -/
def execSecure (fn : Fn) (val : Dword) (s : State) : Host.Outcome State Fault Refusal := .next (stepSecure fn val (s.unlatch fn))

/-! Swaps (17 R404, R405). A swap's phase: 0 it waits for validation, 1 it is under way, 2 it has joined another. -/

/-- Every swap of a bank ends with a status (17 R404, 11 R279). -/
def State.endSwap (s : State) (t status : Nat) : State :=
  let l := s.cfg.swaps.filter (fun w => w.target == t)
  let s := { s with cfg := { s.cfg with swaps := s.cfg.swaps.filter (fun w => w.target != t) } }
  let s := s.updBank t (fun b => { b with pending := false, lastStatus := status })
  (s.each l (fun s w => s.completeOpt w.cmd status)).answer (waitSwap t) status

/-- May the contexts of a partition lose their last cluster (11 R250)? -/
def State.partIdle (s : State) (p : Nat) (free : Bool) : Bool :=
  (List.range 64).all (fun k => let st := (s.ctx p k).st; st == 0 || (!free && (st == 3 || st == 5 || st == 7)))

/-- Does a live context of a partition hold anything in a cluster (11 R250)? A battery image counts while its shadow is reserved or a section
of the context is at work on it: the image a section left active is not loaded any more. -/
def State.heldIn (s : State) (p c : Nat) : Bool :=
  let mine := fun (i : CtxId) => i.part == p && s.live i
  let mineO := fun (i : Option CtxId) => match i with
    | some i => mine i
    | none => false
  s.mem.tags.any (fun e => mine e.2 && (match home e.1 with
    | .cm n _ => n == c
    | _ => false)) ||
  s.bats.any (fun e => e.1 / 64 == c && (mineO e.2.rsv || (s.busyBat c (e.1 % 64) && mineO e.2.owner))) ||
  s.descs.any (fun e => e.2.cluster == c && e.2.st != .free && mineO e.2.owner) ||
  s.msg.chans.any (fun e => taC (e.1 / 16) == c && e.2.opened && mineO e.2.ctx) ||
  s.msg.queues.any (fun e => taC (e.1 / 16) == c && e.2.opened && mineO e.2.ctx) ||
  s.msg.comb.any (fun e => e.1 / 32 == c && e.2.st != 0 && mineO e.2.ctx)

/-- The checks of a device-level swap (17 R404 step 2): 0 or the status. -/
def State.deviceSwapCheck (s : State) (d : DeviceCfg) : Nat :=
  let new := fun (p : Nat) => tfind d.parts p
  let ps := List.range 16
  let busy := ps.any (fun p => match s.prec p with
    | none => false
    | some r =>
      let lost := (bitsOf 16 r.clusters).filter (fun c => match new p with
        | some n => !n.clusters.testBit c
        | none => true)
      lost.any (fun c => s.heldIn p c) || (match new p with
        | none => !s.partIdle p true
        | some n => n.clusters == 0 && !s.partIdle p false))
  let keyOf := fun (p : Nat) => tget s.mesh.pkeys p (0, false, 0)
  let badKey := d.parts.any (fun e =>
    let k := keyOf e.1
    let same := match s.prec e.1 with
      | some r => r.owner == e.2.owner && r.vf == e.2.vf
      | none => false
    (if same then k.1 != e.2.key else e.2.key == k.1 || e.2.key == k.2.2) ||
      ps.any (fun q => q != e.1 && (let o := keyOf q
        (o.1 != 0 && (o.1 == e.2.key || o.1 == e.2.resetKey)) || (o.2.2 != 0 && (o.2.2 == e.2.key || o.2.2 == e.2.resetKey)))))
  if busy then 0x4E else if badKey then 0x4D else 0

/-- The primary whose secondary a logical slice is, by a slice map (17 R398). -/
def primaryOf (slices : Tbl Nat) (n : Nat) : Option Nat :=
  (List.range 64).find? (fun m => (tget slices m 0).testBit 9 && field (tget slices m 0) 10 6 == n)

/-- Does a per-cluster image change a logical slice (17 R405): its physical slice, its mode or its mirror role, primary or secondary? -/
def State.sliceChanges (s : State) (c : Nat) (g : ClusterCfg) (n : Nat) : Bool :=
  let v := tget g.slices n 0x7F
  tget (s.ccfg c).slices n 0x7F != v || primaryOf (s.ccfg c).slices n != primaryOf g.slices n || (match s.physOf c n with
    | some ph => ph != field v 0 7
    | none => field v 0 7 != 0x7F && (s.slice c (field v 0 7)).st != 3)

/-- The checks of a per-cluster swap (17 R405 step 2). -/
def State.clusterSwapCheck (s : State) (c : Nat) (g : ClusterCfg) : Nat :=
  let frames := (List.range 64).any (fun n => s.sliceChanges c g n && s.mem.tags.any (fun e => s.live e.2 && (match home e.1 with
    | .cm h l => h == c && l == n
    | _ => false)))
  let banks := (List.range 16).any (fun x => tget g.skips x 31 != s.skip c x && (List.range 17).any (fun y =>
    let t := (s.tile (taddr c x y)).ctl
    t.resValid != 0 && (match t.cur with
      | some i => s.live i
      | none => false)))
  if frames || banks then 0x4E else 0

/-- The swap of a bank goes on, once its shadow is not VALIDATING (17 R404, R405 steps 1 and 2). -/
def State.advanceSwap (s : State) (t : Nat) : State :=
  if !s.cfg.swaps.any (fun w => w.target == t && w.phase == 0) || (s.bank t).shadow == 1 then s
  else if (s.bank t).shadow != 2 then s.endSwap t 0x4F
  else
    let st := if t = devTarget then (s.cfg.devShadow.elim 0x4F s.deviceSwapCheck)
      else ((tfind s.cfg.clusterShadows t).elim 0x4F (s.clusterSwapCheck t))
    if st != 0 then s.endSwap t st
    else
      let s := { s with cfg := { s.cfg with swaps := s.cfg.swaps.map (fun (w : Swap) => if w.target == t && w.phase == 0 then { w with phase := 1 } else w) } }
      if t = devTarget then s.each (List.range 16) (fun s c => s.updRouter c (fun r => { r with shadowValid := false })) else s

/-- Is a skip swap, which is more severe than a CFG_SWAP, pending in the cluster of a bank, or in any cluster for the device-level bank
(15 R349, R365)? -/
def State.skipPending (s : State) (t : Nat) : Bool := (List.range 16).any (fun c => (t == devTarget || t == c) && !(s.clY c).skips.isEmpty)

/-- A CFG_SWAP of a bank is ordered (17 R404, R405, 11 R277-R279), by a command or by the belfry. -/
def State.orderSwap (s : State) (t : Nat) (cmd : Option CmdRef) (byBelfry : Bool) (seq : Nat) : State × Nat :=
  match if s.skipPending t then Verdict.superseded else s.arbitrate 8 (bankTarget t) with
  | .superseded => (s.completeOpt cmd St.superseded, St.superseded)
  | .join => ({ s with cfg := { s.cfg with swaps := s.cfg.swaps ++ [({ target := t, cmd, byBelfry, seq, phase := 2 } : Swap)] } }, 0)
  | .proceed =>
    let s := { s with cfg := { s.cfg with swaps := s.cfg.swaps ++ [({ target := t, cmd, byBelfry, seq, phase := 0 } : Swap)] } }
    ((s.updBank t (fun b => { b with pending := true })).advanceSwap t, 0)

def stepCfgSwap (device : Bool) (p : Fin 16) (k : Fin 64) (s : State) : State :=
  match s.fetchedCmd p.val k.val 3 0x34 with
  | none => s
  | some r =>
    if bf r.bits 64 1 == (if device then 0 else 1) then
      ((s.startCmd r).orderSwap (if device then devTarget else bf r.bits 65 4) (some r) false 0).1
    else s

/-- DEVICE_CFG_SWAP (17 R404): from the C queue of a context. -/
def execDeviceCfgSwap (p : Fin 16) (k : Fin 64) (s : State) : Host.Outcome State Fault Refusal := .next (stepCfgSwap true p k s)
/-- CLUSTER_CFG_SWAP (17 R405): from the C queue of a context. -/
def execClusterCfgSwap (p : Fin 16) (k : Fin 64) (s : State) : Host.Outcome State Fault Refusal := .next (stepCfgSwap false p k s)

/-- The configuration verification key of the loaded bundle (18 R411): 97 bytes, a point. -/
def State.cfgKey (s : State) : List Byte := bundleParts s.fw.store 6

/-- The bytes of a staging buffer pass or fail (17 R395): the status, and what they build. -/
def State.validate (s : State) (t : Nat) (bs : List Byte) : Nat × Option DeviceCfg × Option ClusterCfg :=
  let n := leNat bs
  let kind := if t = devTarget then 1 else 2
  let h := checkHead s.cfgKey bs kind t s.cfg.secure s.boot.fpHash
  let r := if h != 0 then h else checkRecs n kind
  if r != 0 then (r, none, none)
  else if t = devTarget then
    let d := buildDevice n
    let st := if !deviceConsistent n then 0x4B else if !routesOk d || !masksOk d then 0x4C else if !deviceKeysOk n then 0x4D else 0
    (st, some d, none)
  else (if clusterConsistent n then 0 else 0x4B, none, some (buildCluster n))

def stepValidationComplete (who : Nat) (s : State) : State :=
  let x := s.stager who
  if !x.go then s
  else
    let t := x.bankNow
    let v := s.validate t (mbytes x.buf 0 x.lenNow)
    let st := if v.1 = 0 then St.completed else v.1
    let s := s.updStager who (fun x => { x with go := false, result := st })
    let s := if who = 4 then s.answer waitStage st else s
    let s := if v.1 != 0 then s
      else if t = devTarget then { s with cfg := { s.cfg with devShadow := v.2.1 } }
      else match v.2.2 with
      | some g => { s with cfg := { s.cfg with clusterShadows := tset s.cfg.clusterShadows t g } }
      | none => s
    (s.updBank t (fun b => { b with shadow := if v.1 = 0 then 2 else 3, lastStatus := st })).advanceSwap t

/-- VALIDATION_COMPLETE (17 R395, R402): the staging of a port, or of the belfry for 4, passes into its shadow or fails. -/
def execValidationComplete (who : Nat) (s : State) : Host.Outcome State Fault Refusal := .next (stepValidationComplete who s)

/-! Installing a per-cluster image (17 R405). -/

/-- The physical slices of a cluster as a slice map says (17 R398, 07 R169): the unnamed ones are spares; muffled ones stay so. -/
def State.mapSlices (s : State) (c : Nat) (g : ClusterCfg) : State :=
  s.each (List.range 66) (fun s ph =>
    if (s.slice c ph).st == 3 then s
    else match (List.range 64).find? (fun n => field (tget g.slices n 0x7F) 0 7 == ph) with
    | none => s.updSlice c ph (fun x => { x with logical := 0x7F, mode := 0, mirror := false, partner := 0, secondary := false, st := 1 })
    | some n =>
      let v := tget g.slices n 0
      let prim := primaryOf g.slices n
      s.updSlice c ph (fun x => { x with
        logical := n, mode := field v 7 2, mirror := v.testBit 9 || prim.isSome, st := 0
        partner := if v.testBit 9 then field v 10 6 else prim.getD 0, secondary := prim.isSome }))

/-- A logical slice is zeroed (17 R405 step 4, 07 R170): bytes, poison, frame tags, and the stream-cache lines it holds or that hold it. -/
def State.zeroSlice (s : State) (c n : Nat) : State :=
  let a := 0x40000000000 + c * 0x8000000 + n * 0x100000
  let s := (s.dropLines a 0x100000).updCl c (fun y => { y with cache := y.cache.filter (fun l => l.set / 256 != n) })
  { s with mem := { s.mem with
      bytes := mclear s.mem.bytes a 0x100000
      poison := s.mem.poison.filter (fun l => !overlaps (64 * l) 64 a 0x100000)
      tags := s.mem.tags.filter (fun e => !overlaps e.1 (frameSize e.1) a 0x100000) } }

/-- Is a battery at a section boundary (04 R118): no section in ARM, RUN or COMMIT? One held for re-placement is in none. -/
def State.atBoundary (s : State) (c b : Nat) : Bool :=
  let st := (s.bat c b).st
  !(st == .arm || st == .run || st == .commit || st == .abort)

/-- May a per-cluster swap take effect (04 R118, 14 R339)? -/
def State.swapBoundary (s : State) (c : Nat) (g : ClusterCfg) : Bool :=
  let all := (List.range 64).any (fun n => s.sliceChanges c g n)
  (List.range 64).all (fun b => (!all && !s.swapTouches c b) ||
    (s.atBoundary c b && !((s.clX c).tapHold && (s.clX c).tapHoldBat == b)))

/-- The redirects that a swap ends (15 R351): of batteries whose entry, or whose target's entry, is rewritten. -/
def State.clearRedirects (s : State) (c : Nat) (old new : ClusterCfg) : State :=
  let changed := fun (b : Nat) => tget old.bats b 0 != tget new.bats b 0
  s.each (List.range 64) (fun s b =>
    let x := s.batX c b
    if x.replValid && (changed b || changed x.replTarget) then s.updBatX c b (fun x => { x with replValid := false }) else s)

/-- A per-cluster swap takes effect (06 R154): the SLOT transfers into the batteries it touches that have delivered a stream tile which is
not yet taken become partial. -/
def State.swapPartial (s : State) (c : Nat) (bats : List Nat) : State :=
  { s with descs := tmap s.descs (fun _ d =>
      if d.st != .free && d.cluster == c && bats.contains d.bat && descSlot d.image && decide (d.taken < d.delivered) then
        { d with isPartial := true }
      else d) }

def stepClusterSwapInstall (c : Fin 16) (s : State) : State :=
  match tfind s.cfg.clusterShadows c.val with
  | none => s
  | some g =>
    if !s.cfg.swaps.any (fun w => w.target == c.val && w.phase == 1) || !s.swapBoundary c.val g then s
    else
      let old := s.ccfg c.val
      let chg := (List.range 64).filter (fun n => s.sliceChanges c.val g n)
      let s := s.swapPartial c.val ((List.range 64).filter (fun b => s.swapTouches c.val b))
      let s := if chg.isEmpty then s else (s.each chg (fun s n => s.zeroSlice c.val n)).mapSlices c.val g
      let s := s.clearRedirects c.val old g
      let s := { s with cfg := { s.cfg with
        clusters := tset s.cfg.clusters c.val g, clusterShadows := tset s.cfg.clusterShadows c.val old } }
      let s := s.updBank c.val (fun b => { b with activeId := g.id, shadow := 2 })
      ((s.endSwap c.val St.completed).tilesChanged c.val).pumpAll

/-- CLUSTER_SWAP_INSTALL (17 R405, 04 R118): at the common boundary the table, skip values and slice map change. -/
def execClusterSwapInstall (c : Fin 16) (s : State) : Host.Outcome State Fault Refusal := .next (stepClusterSwapInstall c s)

/-! The epoch flip (10 R245, R246, 17 R404). -/

/-- The router ports at both ends of a link group come up again. -/
def State.linkUp (s : State) (c : Nat) (south : Bool) : State :=
  let p := if south then 2 else 1
  let c' := if south then c + 4 else c + 1
  let q := if south then 0 else 3
  let clear := fun (n bit : Nat) => if n.testBit bit then n - 2 ^ bit else n
  (s.updRouter c (fun r => { r with down := clear r.down p })).updRouter c' (fun r => { r with down := clear r.down q })

/-- A unit is in service again (10 R246): its generation rises and its ports come up; one muffled again stays out. -/
def State.bringUp (s : State) (code : Nat) : State :=
  let kind := code % remuffled / 65536
  let idx := code % 65536
  let n := ledgerNo (if kind = 2 then 1 else kind) idx
  let gen := wrapAdd 8 (tget s.mesh.unitGens n 0) 1
  let s := { s with mesh := { s.mesh with unitGens := tset s.mesh.unitGens n gen } }
  if remuffled ≤ code then s
  else if kind = 1 || kind = 2 then
    let other := ledState (s.ledgerOf (3 - kind) idx)
    if other != 0 then s
    else (s.updClY (taC idx) (fun y => { y with muffled := y.muffled.filter (fun i => i != 16 * taY idx + taX idx) })).tilesChanged (taC idx)
  else if kind = 3 then s.updSlice (idx / 66) (idx % 66) (fun x => { x with st := 1, logical := 0x7F, mode := 0, mirror := false, secondary := false })
  else if kind = 4 then
    let s := { s with health := { s.health with links := s.health.links.filter (fun l => l != idx) } }
    s.linkUp (idx / 32) (idx / 16 % 2 == 1)
  else if kind = 5 then
    let s := { s with health := { s.health with lanes := s.health.lanes.filter (fun l => l != idx) } }
    let s := { s with health := { s.health with
      spared := tset s.health.spared (idx / 68) (min (s.seamMuffled (idx / 68)) (tget s.health.spared (idx / 68) 0)) } }
    if 32 ≤ s.seamLanes (idx / 68) then s.each (seamPairs (idx / 68)) (fun s e => s.linkUp e.1 e.2) else s
  else if kind = 6 then (s.updChan idx (fun x => { x with st := 1 })).chanReady idx
  else if kind = 7 then (s.updChan (192 + idx) (fun x => { x with st := 1 })).chanReady (192 + idx)
  else if kind = 8 then s.wakeWave idx
  else s

/-! New route tables (10 R238, R239, R246; log entry 23). -/

/-- The routers within a number of hops of a router over the ports that are up. -/
def nearRouters (up : Nat → Nat → Bool) (d : Nat) : Nat → List Nat
  | 0 => [d]
  | n + 1 =>
    let l := nearRouters up d n
    (List.range 16).filter (fun c => l.contains c || (List.range 4).any (fun p => up c p && (match neighbour c p with
      | some (m, _) => l.contains m
      | none => false)))

/-- The hops from each router to one over the ports that are up; 16 where there is no way. -/
def hopsTo (up : Nat → Nat → Bool) (d : Nat) : List Nat :=
  let near := (List.range 16).map (fun n => nearRouters up d n)
  (List.range 16).map (fun c => (near.takeWhile (fun l => !l.contains c)).length)

/-- An entry of a table of the scheduler core (10 R238, 16 R374): the escape port of a dimension order, and every port that is up and leads
to a router nearer the destination. -/
def tableEntry (up : Nat → Nat → Bool) (yx : Bool) (hops : List Nat) (c e : Nat) : Nat :=
  let d := nodeRouter e
  if c = d then (let p := if e < 16 then 4 else 5; 2 ^ p + 256 * p)
  else
    let esc := dimPort yx c d
    let ps := (List.range 4).filter (fun p => p != esc && up c p && (match neighbour c p with
      | some (m, _) => decide (hops.getD m 16 < hops.getD c 16)
      | none => false))
    ps.foldl (fun n p => n + 2 ^ p) (2 ^ esc) + 256 * esc + 2048 * b2n yx

/-- A bank of the scheduler core for the ports that are up. -/
def tableBank (up : Nat → Nat → Bool) (yx : Bool) : Tbl (Tbl Nat) :=
  let hops := (List.range 16).map (hopsTo up)
  (List.range 16).map (fun c => (c, (List.range 24).map (fun e => (e, tableEntry up yx (hops.getD (nodeRouter e) []) c e))))

/-- The default tables (16 R374): east-west escape, no muffled link or seam. -/
def State.defaultRoutes (s : State) : Tbl (Tbl Nat) := tableBank s.portUp false

/-- How many escape ports of a dimension order are down (10 R239). -/
def escDown (up : Nat → Nat → Bool) (yx : Bool) : Nat :=
  ((List.range 16).flatMap (fun c => (List.range 16).filter (fun d => c != d && !up c (dimPort yx c d)))).length

/-- The route tables to install (10 R239, R246, 17 R404): those of a device-level swap under way, the default ones where it goes
back to no image; else, with every port there is up, those of
the active image or the default ones; else tables around what is down, with the other ESC_YX where that leaves fewer escape ports down. A
unit on its way back is present in them. -/
def State.newRoutes (s : State) : Tbl (Tbl Nat) :=
  let up := (s.each s.mesh.installing State.bringUp).portUp
  let whole := (List.range 16).all (fun c => (List.range 4).all (fun p => !portExists c p || up c p))
  let yx := s.cfg.dev.valid && rtYx (tget (tget s.cfg.dev.routes0 0 []) 0 0)
  if s.cfg.swaps.any (fun w => w.target == 16 && w.phase == 1) && s.cfg.devShadow.isSome then
    (match s.cfg.devShadow with
    | some d => if d.valid then d.routes0 else tableBank up false
    | none => [])
  else if whole then (if s.cfg.dev.valid then s.cfg.dev.routes0 else tableBank up false)
  else tableBank up (if escDown up (!yx) < escDown up yx then !yx else yx)

def stepRouteInstall (c : Fin 16) (s : State) : State :=
  if s.compDown 36 || (List.range 16).any (fun n => s.oldBusy n) then s
  else
    let t := tget s.newRoutes c.val []
    s.updRouter c.val (fun r =>
      if s.mesh.epoch then { r with bank0 := t, shadowValid := true } else { r with bank1 := t, shadowValid := true })

/-- ROUTE_INSTALL (10 R246): the free bank of a router is written and valid, once OLD_BUSY is 0 in every router; with the routes
component down it waits (18 R414). -/
def execRouteInstall (c : Fin 16) (s : State) : Host.Outcome State Fault Refusal := .next (stepRouteInstall c s)

/-- The key table after a device-level swap (10 R241, 17 R397, R404): a partition that stays keeps its retired key. -/
def State.newKeys (s : State) (d : DeviceCfg) : Tbl (BitVec 12 × Bool × BitVec 12) :=
  (List.range 16).map (fun p =>
    let k := tget s.mesh.pkeys p (0, false, 0)
    match tfind d.parts p with
    | some r => (p, (r.key, true, if k.2.1 && k.1 != r.key then k.1 else k.2.2))
    | none => (p, (0, false, if k.2.1 then k.1 else k.2.2)))

/-- Every field of a FREE descriptor of a cluster that passes to another partition is 0 (06 R163). -/
def State.zeroFree (s : State) (c : Nat) : State :=
  { s with descs := s.descs.filter (fun e => !(e.1 / 64 == c && e.2.st == .free)) }

/-- Clusters that change partition take the clock of their new one (12 R286), and their FREE descriptors are zeroed (06 R163). -/
def State.rejoin (s : State) (old : DeviceCfg) : State :=
  s.each (List.range 16) (fun s c =>
    let was := (old.parts.find? (fun e => e.2.clusters.testBit c)).map (·.1)
    let is := s.partOf c
    if was == is then s
    else
    let s := s.zeroFree c
    match is with
    | some p => if (s.part p).strict then s.updClock c (fun k => { k with target := if k.code = 54 then none else some 54 })
        else s.updClock c (fun k => { k with pinned := false })
    | none => s.updClock c (fun k => { k with pinned := false }))

/-- The map, keys and masks of the device-level shadow become the active ones (17 R404 steps 4 and 5). -/
def State.installDevice (s : State) : State :=
  match s.cfg.devShadow with
  | none => s
  | some d =>
    let old := s.cfg.dev
    let s := { s with mesh := { s.mesh with pkeys := s.newKeys d } }
    let s := { s with cfg := { s.cfg with dev := d, devShadow := some old } }
    let s := s.each (List.range 16) (fun s c => s.updRouter c (fun r => { r with keymask := tget d.keymasks c 0 }))
    let s := { s with hosts := { s.hosts with windows := tmap s.hosts.windows (fun n (w : Window) =>
      match tfind d.parts w.part with
      | some r => if r.owner == n / 16 then w else { w with valid := false }
      | none => { w with valid := false }) } }
    let s := s.rejoin old
    (s.updBank devTarget (fun b => { b with activeId := d.id, shadow := 2 })).endSwap devTarget St.completed

def stepEpochFlip (s : State) : State :=
  if s.compDown 36 || !(List.range 16).all (fun c => (s.router c).shadowValid) then s
  else
    let units := s.mesh.installing
    let s := { s with mesh := { s.mesh with epoch := !s.mesh.epoch, flips := s.mesh.flips + 1, installing := [] } }
    let s := s.each (List.range 16) (fun s c => s.updRouter c (fun r => { r with shadowValid := false }))
    let s := s.each units (fun s u => (s.bringUp u).answer (65536 + u % remuffled) (if remuffled ≤ u then St.superseded else St.completed))
    if s.cfg.swaps.any (fun w => w.target == devTarget && w.phase == 1) then s.installDevice else s

/-- EPOCH_FLIP (10 R245, R246, 17 R404): once every router holds the new bank; with the routes component down it waits (18 R414). -/
def execEpochFlip (s : State) : Host.Outcome State Fault Refusal := .next (stepEpochFlip s)

end Sys2Proof.Machine
end

