-- ==== Sys2Proof/Machine/Ring.lean ====
section
/-! DEFINITION. The optical ring: frames, ports, bypass, census, ring packets and RING_OP (19 R428-R448). -/
namespace Sys2Proof.Machine

/-! Wavelengths (19 R429-R433). -/

/-- The wavelength a port's number w names: 17 for each of the port's two engines. -/
def waveNo (port w : Nat) : Nat := 17 * engineOf port (w / 17) + w % 17

/-- The cause LINK_ERRORS (13 R315). -/
def causeLinkErr : Nat := 0xB8

/-- A confirmed error against a wavelength (19 R430). -/
def State.confirmWave (s : State) (i : Nat) : State := s.confirm 8 i 5 causeLinkErr

/-- A wavelength loses lock and is retrained; a second loss within 60 s is a confirmed error (19 R430, R433). -/
def State.loseLock (s : State) (i : Nat) : State :=
  let now := s.ledger.opSec
  let second := match (s.wave i).lossAt with
    | some t => decide (now < t + 60)
    | none => false
  let s := s.updWave i (fun x => { x with lossAt := some now, replay := x.replay.map (fun f => (f.1, f.2.1, 0)) })
  if second then s.confirmWave i else s

def stepWavelengthMuffle (port : Fin 4) (w : Nat) (s : State) : State :=
  if w < 34 && !(s.wave (waveNo port.val w)).muffled then s.muffleWave (waveNo port.val w) else s

/-- WAVELENGTH_MUFFLE (19 R429). -/
def execWavelengthMuffle (port : Fin 4) (wave : Nat) (s : State) : Host.Outcome State Fault Refusal :=
  .next (stepWavelengthMuffle port wave s)

def stepLossOfLock (port : Fin 4) (w : Nat) (s : State) : State := if w < 34 then s.loseLock (waveNo port.val w) else s

/-- LOSS_OF_LOCK (19 R430). -/
def execLossOfLock (port : Fin 4) (wave : Nat) (s : State) : Host.Outcome State Fault Refusal := .next (stepLossOfLock port wave s)

def stepSymbolErrorAverage (port : Fin 4) (w ppb : Nat) (s : State) : State :=
  if w < 34 && decide (240000 < ppb) then s.confirmWave (waveNo port.val w) else s

/-- SYMBOL_ERROR_AVERAGE (19 R430): above 2.4e-4. -/
def execSymbolErrorAverage (port : Fin 4) (wave ppb : Nat) (s : State) : Host.Outcome State Fault Refusal :=
  .next (stepSymbolErrorAverage port wave ppb s)

/-- Resend a wavelength's kept frames after one (19 R433). -/
def State.resend (s : State) (port i last : Nat) : State :=
  let x := s.wave i
  let due := x.replay.filter (fun f => decide ((f.1 + 255 - last) % 256 < 128))
  let s := s.updWave i (fun x => { x with
    replay := x.replay.map (fun f => if decide ((f.1 + 255 - last) % 256 < 128) then (f.1, f.2.1, f.2.2 + 1) else f) })
  let s := s.updRport port (fun q => { q with retries := wrapAdd 32 q.retries due.length })
  let s := due.foldl (fun s f => s.emit (.optical port i f.2.1)) s
  if due.any (fun f => decide (8 ≤ f.2.2 + 1)) then s.loseLock i else s

/-- An idle frame that acknowledges, with NAK or not (19 R433). -/
def State.ackFrame (s : State) (port i : Nat) (nak : Bool) : State :=
  let x := s.wave i
  s.emit (.optical port i (pack [(8, x.nextFseq), (1, b2n nak), (8, x.inOrder), (3, 1)]))

def stepFrameReceive (port : Fin 4) (w : Nat) (frame : Option Nat) (s : State) : State :=
  if 34 ≤ w then s
  else
    let i := waveNo port.val w
    let x := s.wave i
    match frame with
    | none =>
      let (win, hit) := hourWindow s.ledger.opSec x.cwErrs
      let s := s.updRport port.val (fun q => { q with uncorr := satAdd 16 q.uncorr 1 })
      let s := (s.updWave i (fun x => { x with cwErrs := win })).ackFrame port.val i true
      if hit then s.confirmWave i else s
    | some f =>
      let s := if field f 17 3 = 0 && field f 0 8 = (x.inOrder + 1) % 256 then
          s.updWave i (fun x => { x with inOrder := (x.inOrder + 1) % 256 })
        else s
      let s := s.updWave i (fun x => { x with acked := field f 9 8 })
      if f.testBit 8 then s.resend port.val i (field f 9 8) else s

/-- FRAME_RECEIVE (19 R433): none stands for an uncorrectable codeword. The data of delivered frames arrives as RING_PACKET. -/
def execFrameReceive (port : Fin 4) (wave : Nat) (frame : Option Nat) (s : State) : Host.Outcome State Fault Refusal :=
  .next (stepFrameReceive port wave frame s)

def stepWavelengthRetest (port : Fin 4) (w : Nat) (pass : Bool) (s : State) : State :=
  let i := waveNo port.val w
  if 34 ≤ w || !s.boot.bundle || s.compDown 35 || (s.rport port.val).st != 2 then s
  else match s.retestOf 8 i with
    | none => s
    | some n =>
      if n = 1000 then s
      else if !pass then s.retestFail 8 i
      else if max n 1 < 3 then s.setRetest 8 i (some (max n 1 + 1))
      else s.retestPass 8 i

/-- WAVELENGTH_RETEST (19 R431): one slice ends; the third that passes readmits the wavelength. -/
def execWavelengthRetest (port : Fin 4) (wave : Nat) (pass : Bool) (s : State) : Host.Outcome State Fault Refusal :=
  .next (stepWavelengthRetest port wave pass s)

/-! Ports, bypass and census (19 R435-R439). -/

/-- May the bypass of a ring be open (19 R436)? -/
def State.mayOpen (s : State) (r : Nat) : Bool :=
  s.boot.powerGood && s.pwr.pwrEn && !s.orders.any (fun o => o.target == 16) && s.portUpRing (2 * r) && s.portUpRing (2 * r + 1)

/-- The bypass of a ring opens in the cycle in which both of its ports become READY (19 R436). -/
def State.openBypass (s : State) (r : Nat) : State :=
  if s.mayOpen r then
    [2 * r, 2 * r + 1].foldl (fun s p => s.updRport p (fun q => { q with bypassOpen := true })) s
  else s

/-- A port of stage 7 passes or fails its loopback (19 R437). -/
def State.portReady (s : State) (p : Nat) (pass : Bool) : State :=
  let q := s.rport p
  if q.st == 0 && pass && decide (7 ≤ s.boot.stage) then (s.updRport p (fun q => { q with st := 1 })).openBypass (p / 2)
  else if q.st == 1 && !pass then s.updRport p (fun q => { q with st := 0 })
  else s

/-- PORT_READY (19 R437, 16 R377): the operand says whether every transmitter passed its loopback. -/
def execPortReady (port : Fin 4) (pass : Bool) (s : State) : Host.Outcome State Fault Refusal := .next (s.portReady port.val pass)

def stepPortLinked (port : Fin 4) (carry : Nat) (s : State) : State :=
  let p := port.val
  let q := s.rport p
  let ws := fun (h : Nat) => (List.range 17).filter (fun w => carry.testBit (17 * h + w) && !(s.wave (waveNo p (17 * h + w))).muffled)
  if q.st != 1 || !q.bypassOpen || decide (16 < (ws 0).length) || decide (16 < (ws 1).length) ||
      (decide ((ws 0).length < 8) && decide ((ws 1).length < 8)) then s
  else
    let s := (List.range 34).foldl (fun s w => s.updWave (waveNo p w) (fun x => { x with carry := (ws (w / 17)).contains (w % 17) })) s
    let s := s.updRport p (fun q => { q with st := 2, held := [] })
    let s := (s.checkEngine (engineOf p 0)).checkEngine (engineOf p 1)
    let s := (List.range 34).foldl (fun s w => s.resend p (waveNo p w) (s.wave (waveNo p w)).acked) s
    q.held.foldl (fun s h => s.sendRing p h.1 h.2) s

/-- PORT_LINKED (19 R437): the operand holds the carrying wavelengths the neighbours agreed, 17 bits for each engine. -/
def execPortLinked (port : Fin 4) (carry : Nat) (s : State) : Host.Outcome State Fault Refusal := .next (stepPortLinked port carry s)

/-- A LINKED port loses its link: READY, no wavelength carries (19 R437). -/
def State.loseLink (s : State) (p : Nat) : State :=
  if (s.rport p).st == 2 then
    (List.range 34).foldl (fun s w => s.updWave (waveNo p w) (fun x => { x with carry := false }))
      (s.updRport p (fun q => { q with st := 1 }))
  else s

/-- LOSS_OF_LINK (19 R437). -/
def execLossOfLink (port : Fin 4) (s : State) : Host.Outcome State Fault Refusal := .next (s.loseLink port.val)

/-- Close a ring's bypass: its ports lose their links (19 R436). -/
def State.closeBypass (s : State) (r : Nat) : State :=
  [2 * r, 2 * r + 1].foldl (fun s p => (s.loseLink p).updRport p (fun q => { q with bypassOpen := false })) s

def stepBypassClose (ring : Fin 2) (s : State) : State := if s.mayOpen ring.val then s else s.closeBypass ring.val

/-- BYPASS_CLOSE (19 R436): it closes while a cause of R436 holds. -/
def execBypassClose (ring : Fin 2) (s : State) : Host.Outcome State Fault Refusal := .next (stepBypassClose ring s)

/-- A job of which a member has left the census of every ring in use (19 R447). -/
def State.jobLost (s : State) (j : RingJob) : Bool :=
  let rings := (ringsOf j.cmd.bits).filter (fun r => !(tget s.ring.present r []).isEmpty)
  !rings.isEmpty && (s.peersOf j.cmd.bits).any (fun m => rings.all (fun r => !(tget s.ring.present r []).contains m))

/-- End a job without ABORT (19 R444, R447); after RING_PEER_ABORT its destination holds unspecified data. -/
def State.endJob (s : State) (j : RingJob) (status : Nat) : State :=
  ((if status = 0xF4 then s.blur j.dst else s).takeJob j status).complete j.cmd status 0

/-- The ranges of a buffer's pages that n bytes from an offset take. -/
def cutPages : List (Nat × Nat) → Nat → Nat → List (Nat × Nat)
  | [], _, _ => []
  | (a, l) :: rest, off, n =>
    if n = 0 then []
    else if l ≤ off then cutPages rest (off - l) n
    else (a + off, min n (l - off)) :: cutPages rest 0 (n - min n (l - off))

/-- Does a region lock make a read of these ranges wait (04 R107)? -/
def State.heldRead (s : State) (l : List (Nat × Nat)) : Bool := l.any (fun e => s.locked e.1 e.2 false none)

/-- Does a read of these ranges meet lost data (07 R179)? -/
def State.lostRead (s : State) (l : List (Nat × Nat)) : Bool := l.any (fun e => s.poisoned e.1 e.2)

/-- A job whose source holds lost data in these ranges (07 R179): the record goes to the owners, the job ends with RESIDENT_LOST and
ABORT goes to its peers (log entry 129). -/
def State.loseJob (s : State) (j : RingJob) (l : List (Nat × Nat)) : State :=
  let s := s.each (l.filter (fun e => s.poisoned e.1 e.2)) (fun s e => s.lostNotice e.1 e.2)
  (s.dropJob j 0x70).complete j.cmd 0x70 0

/-- Put a job back. -/
def State.setJob (s : State) (j : RingJob) : State :=
  { s with ring := { s.ring with jobs := s.ring.jobs.map (fun (x : RingJob) => if x.cmd == j.cmd then j else x) } }

/-- Chunks of the part a member is sent. -/
def RingJob.chunks (j : RingJob) (m : Nat) : Nat := ((j.part m).2 + 8191) / 8192

/-- The ranges of chunk n of the part a member is sent. -/
def RingJob.chunkAt (j : RingJob) (m n : Nat) : List (Nat × Nat) :=
  cutPages j.src ((j.part m).1 + 8192 * n) (min 8192 ((j.part m).2 - 8192 * n))

/-- Send a chunk of this member's data on a ring; it is unacknowledged until its credit comes back (19 R445, R446). -/
def State.sendChunk (s : State) (j : RingJob) (r dir m n : Nat) : State × RingJob :=
  let (off, len) := j.part m
  let sj := s.sendJob j 0 r dir m n 0 (s.readPages j.src (off + 8192 * n) (min 8192 (len - 8192 * n)))
  (sj.1, { sj.2 with unacked := sj.2.unacked.filter (fun (e : Nat × Nat × Nat) => !(e.1 == m && e.2.1 == n)) ++ [(m, n, r)] })

/-- Send chunks, each named with its member, as reads of the source: they wait for a region lock (04 R107) and meet lost data (07 R179). -/
def State.sendChunks (s : State) (j : RingJob) (r dir : Nat) (l : List (Nat × Nat)) : State × RingJob :=
  l.foldl (fun (sj : State × RingJob) e => sj.1.sendChunk sj.2 r dir e.1 e.2) (s, j)

/-- A job's unacknowledged chunks on a ring that left service move to one in service (19 R445), once no region lock holds their source. -/
def State.moveChunks (s : State) (j : RingJob) : State :=
  match s.jobRings j with
  | [] => s
  | r :: rs =>
    let l := (j.unacked.filter (fun e => !(r :: rs).contains e.2.2)).map (fun e => (e.1, e.2.1))
    let ranges := l.flatMap (fun e => j.chunkAt e.1 e.2)
    if s.heldRead ranges then s
    else if s.lostRead ranges then s.loseJob j ranges
    else
      let sj := s.sendChunks j r 0 l
      sj.1.setJob sj.2

/-- The chunks for a member that its credit covers and that have not gone (19 R446) are sent, once no region lock holds their source. -/
def State.sendDue (s : State) (j : RingJob) (m r dir : Nat) : State :=
  let first := tget j.sent m 0
  let due := (List.range (j.chunks m)).filter (fun n => decide (first ≤ n ∧ min (j.part m).2 (8192 * (n + 1)) ≤ tget j.credits m 0))
  let ranges := due.flatMap (fun n => j.chunkAt m n)
  let s := s.setJob j
  if s.heldRead ranges then s
  else if s.lostRead ranges then s.loseJob j ranges
  else
    let sj := s.sendChunks { j with sent := tset j.sent m (first + due.length) } r dir (due.map (fun n => (m, n)))
    sj.1.setJob sj.2

def stepCensus (ring : Fin 2) (returned : Bool) (mods : List (Nat × Nat × Bool)) (s : State) : State :=
  let n := s.ring.size1 + 1
  let own := s.ring.index
  let ok := returned && s.ring.valid && mods.length + 1 == n &&
    mods.zipIdx.all (fun (e : (Nat × Nat × Bool) × Nat) => e.1.2.2 && e.1.2.1 == s.ring.size1 && e.1.1 == (own + 1 + e.2) % n)
  let s := { s with ring := { s.ring with
      census := tset s.ring.census ring.val (if returned then (mods.length + 1) % 128 else 0, ok)
      present := if returned then tset s.ring.present ring.val (own :: mods.map (fun (e : Nat × Nat × Bool) => e.1)) else s.ring.present } }
  let s := (s.ring.jobs.filter (fun j => s.jobLost j)).foldl (fun s j => s.endJob j 0xF4) s
  s.ring.jobs.foldl (fun s j => s.moveChunks j) s

/-- CENSUS (19 R439, R445, R447): the other modules eastwards, each with INDEX, SIZE1 and VALID, and whether the packet came back. -/
def execCensus (ring : Fin 2) (returned : Bool) (mods : List (Nat × Nat × Bool)) (s : State) : Host.Outcome State Fault Refusal :=
  .next (stepCensus ring returned mods s)

/-! Membership and keys (19 R438, R440). -/

def stepRingIdWrite (fn : Fn) (val : Dword) (s : State) : State :=
  s.gateG fn 0x70 val.toNat (fun s =>
    if !s.ring.jobs.isEmpty then s.refuseG fn 0x70 3 val.toNat
    else { s with ring := { s.ring with index := bf val 0 6, size1 := bf val 6 6, valid := val.toNat.testBit 12 } })

/-- RING_ID_WRITE (19 R438, R448). -/
def execRingIdWrite (fn : Fn) (val : Dword) (s : State) : Host.Outcome State Fault Refusal := .next (stepRingIdWrite fn val (s.unlatch fn))

def stepRingKeyWrite (fn : Fn) (p : Fin 16) (val : Dword) (s : State) : State :=
  let key := bf val 0 16
  let off := 0x200 + 8 * p.val
  s.gateG fn off val.toNat (fun s =>
    if s.ring.jobs.any (fun j => j.owner.part == p.val) || s.arbitrate 8 (.part p.val) != .proceed then s.refuseG fn off 3 val.toNat
    else if key == 0 || s.ring.keys.any (fun e => e.1 != p.val && e.2 == (key, true)) then s.refuseG fn off 6 val.toNat
    else { s with ring := { s.ring with keys := tset s.ring.keys p.val (key, val.toNat.testBit 16) } })

/-- RING_KEY_WRITE (19 R440, R448). -/
def execRingKeyWrite (fn : Fn) (p : Fin 16) (val : Dword) (s : State) : Host.Outcome State Fault Refusal :=
  .next (stepRingKeyWrite fn p val (s.unlatch fn))

/-! Buffers. -/

/-- The translated pages of a buffer, or the status and VA of the first page that fails (19 R443). -/
def State.ringPages (s : State) (i : CtxId) (write : Bool) : Nat → Nat → Nat → State × Except (Nat × Nat) (List (Nat × Nat))
  | 0, _, _ => (s, .ok [])
  | fuel + 1, va, n =>
    if n = 0 then (s, .ok [])
    else
      let k := min n (0x10000 - va % 0x10000)
      match s.translate i va write with
      | (s1, .dev dpa _) => match s1.ringPages i write fuel (va + k) (n - k) with
        | (s2, .ok l) => (s2, .ok ((dpa, k) :: l))
        | r => r
      | (s1, .host _ _ _) => (s1, .error (St.sourceTier, va))
      | (s1, .err st) => (s1, .error (st, va))

/-- Write bytes over the pages of a buffer; a lost line written in part takes nothing (07 R179). -/
def State.writePages (s : State) : List (Nat × Nat) → List Byte → State
  | [], _ => s
  | (a, l) :: rest, bs => (s.storeRange true a (bs.take l)).writePages rest (bs.drop l)

/-! Ring packets (19 R441, R445, R446; log entry 40). -/

/-- The partition of a ring key. -/
def State.ringKeyOwner (s : State) (key : Nat) : Option Nat := (s.ring.keys.find? (fun e => e.2 == (key, true))).map (·.1)

/-- The job of a partition with a tag. -/
def State.jobOf (s : State) (p tag : Nat) : Option RingJob :=
  s.ring.jobs.find? (fun j => j.owner.part == p && bf j.cmd.bits 80 16 == tag)

/-- Credit from a member: the chunk it names is acknowledged, unless it is one of the first credits, and the chunks it now covers are sent
(19 R446). -/
def State.takeCredit (s : State) (j : RingJob) (m r dir chunk arg : Nat) : State :=
  s.sendDue { j with
    credits := tset j.credits m (tget j.credits m 0 + arg)
    unacked := if arg ≤ 8192 then j.unacked.filter (fun (e : Nat × Nat × Nat) => !(e.1 == m && e.2.1 == chunk)) else j.unacked } m r (1 - dir)

/-- A packet for a job of this module (19 R441, R444, R447). -/
def State.jobPacket (s : State) (j : RingJob) (h : Nat) (data : List Byte) : State :=
  let r := field h 4 1
  let dir := field h 5 1
  let src := field h 6 6
  let k := 64 * r + src
  let want := tget j.seqIn k 0
  let seq := field h 128 32
  if 2 ^ 31 ≤ (seq + 2 ^ 32 - want) % 2 ^ 32 then s
  else
    let j := { j with seqIn := tset j.seqIn k (wrapAdd 32 seq 1) }
    let typ := field h 0 4
    let chunk := field h 64 32
    if typ = 0 then
      let j := if j.data.any (fun e => e.1 == src && e.2.1 == chunk) then j else { j with data := j.data ++ [(src, chunk, data)] }
      let (s, j) := (s.setJob j).sendJob j 1 r (1 - dir) src chunk data.length []
      s.setJob j
    else if typ = 1 then s.takeCredit j src r dir chunk (field h 160 32)
    else if typ = 3 then (s.setJob j).endJob j 0xF4
    else s

def stepRingPacket (port : Fin 4) (packet : Nat) (agree : Bool) (s : State) : State :=
  let h := field packet 0 256
  let typ := field h 0 4
  let len := field h 96 14
  if (s.rport port.val).st != 2 || typ = 2 || typ = 4 || 5 < typ then s
  else if field h 12 6 != s.ring.index then s.sendRing (port.val ^^^ 1) packet (32 + len)
  else if typ = 5 then s
  else match s.ringKeyOwner (field h 20 16) with
    | none => s.raise { FaultRec.of St.keyViolation 4 with
        detail := keyDetail 4 port.val (BitVec.ofNat 12 (field h 20 16)) none 3 0 0 }
    | some p => match s.jobOf p (field h 36 16) with
      | none => if typ = 1 then { s with ring := { s.ring with early := s.ring.early ++ [h] } } else s
      | some j =>
        if !agree || field h 52 4 != ringOpc j.cmd.bits then s.endJob j 0xF3
        else s.jobPacket j h (leBytes (min len 8192) (field packet 256 65536))

/-- RING_PACKET (19 R439, R440, R441, R444): forwarded unread, or checked against the ring keys and acted on; a TEST packet for this module
is the ring engines' own. CENSUS and IDENT are CENSUS's and PORT_LINKED's. The operand agree is false when the
exchange finds DTYPE, COUNT or MEMBERS to differ. -/
def execRingPacket (port : Fin 4) (packet : Nat) (agree : Bool) (s : State) : Host.Outcome State Fault Refusal :=
  .next (stepRingPacket port packet agree s)

/-! RING_OP (19 R443-R447). -/

/-- Is a request consistent (19 R443 step 1)? -/
def State.ringConsistent (s : State) (p : Nat) (b : BitVec 512) : Bool :=
  let ms := membersOf b
  let op := ringOpc b
  let dt := bf b 72 2
  s.ring.valid && ms.contains s.ring.index && decide (2 ≤ ms.length) && ms.all (fun m => decide (m ≤ s.ring.size1)) &&
    (if op ≤ 1 then decide (dt < 2) else dt == 2) && ringCount b != 0 && (op != 1 || ringCount b % ms.length == 0) &&
    (op < 3 || (ringPeer b != s.ring.index && ms.contains (ringPeer b) && ms.length == 2)) &&
    (tget s.ring.keys p (0, false)).2

/-- The first credits of a job, to every peer, on every ring it uses, in both directions (19 R446). -/
def State.grantAll (s : State) (j : RingJob) : State × RingJob :=
  ((s.jobRings j).flatMap (fun r => (s.peersOf j.cmd.bits).flatMap (fun m => [(r, 0, m), (r, 1, m)]))).foldl
    (fun (sj : State × RingJob) (g : Nat × Nat × Nat) => sj.1.sendJob sj.2 1 g.1 g.2.1 g.2.2 0 ringGrant []) (s, j)

/-- Grant the staging of a new job to every member, on every ring in service and in both directions; then take the credits that
came before (19 R446). -/
def State.beginJob (s : State) (j : RingJob) : State :=
  let s := { s with ring := { s.ring with jobs := s.ring.jobs ++ [j] } }
  let sj := s.grantAll j
  let s := sj.1.setJob sj.2
  let mine := fun (h : Nat) => s.ringKeyOwner (field h 20 16) == some j.owner.part && field h 36 16 == bf j.cmd.bits 80 16
  let hs := s.ring.early.filter mine
  let s := { s with ring := { s.ring with early := s.ring.early.filter (fun h => !mine h) } }
  hs.foldl (fun s h => match s.jobOf j.owner.part (bf j.cmd.bits 80 16) with
    | some j => s.jobPacket j h []
    | none => s) s

def stepRingOp (p : Fin 16) (k : Fin 64) (s : State) : State :=
  match s.fetchedCmd p.val k.val 2 0x20 with
  | none => s
  | some r =>
    let c := bf r.bits 64 4
    if s.isolated c 2 0 k.val || decide (4 ≤ (s.ring.jobs.filter (fun j => j.cluster == c)).length) then s
    else
      let s := s.startCmd r
      let i := s.identOf r
      let last := fun (s : State) (st : Nat) => s.updClY c (fun y => { y with ringLast := st })
      if !(s.clY c).ready then s.complete r stNotReady 0
      else if !s.ringConsistent p.val r.bits then (last s 0xF1).complete r 0xF1 0
      else if (ringsOf r.bits).all (fun g => !s.ringOk g) then (last s 0xF2).complete r 0xF2 0
      else
        let (ns, nd) := ringSizes r.bits
        let bad := fun (s : State) (e : Nat × Nat) =>
          if e.1 = St.sourceTier then (last s e.1).complete r e.1 0
          else ((last s e.1).complete r e.1 0).fatalXlat i e.1 3 c e.2
        match s.ringPages i false (ns / 65536 + 2) (bf r.bits 128 48) ns with
        | (s, .error e) => bad s e
        | (s, .ok src) => match s.ringPages i true (nd / 65536 + 2) (bf r.bits 192 48) nd with
          | (s, .error e) => bad s e
          | (s, .ok dst) => match s.reachAll c i 3 0 ((src ++ dst).map (·.1)) with
          | (s, st + 1) => (last s (st + 1)).complete r (st + 1) 0
          | (s, 0) => s.beginJob { cmd := r, owner := i, cluster := c, src, dst, credits := [], unacked := [], data := [], sent := [], seqOut := [],
                                         seqIn := [], preemptAt := none }

/-- RING_OP (19 R443): consistency, a ring in service, translation, and the way to its buffers (10 R239, R240); then it is in progress. A fifth on a cluster waits;
log entry 36. -/
def execRingOp (p : Fin 16) (k : Fin 64) (s : State) : Host.Outcome State Fault Refusal := .next (stepRingOp p k s)

/-- What a member has sent to this one, in the order of its chunks. -/
def RingJob.from_ (j : RingJob) (m : Nat) : List Byte :=
  (List.range ((j.wants + 8191) / 8192)).flatMap (fun n => match j.data.find? (fun e => e.1 == m && e.2.1 == n) with
    | some e => e.2.2
    | none => [])

/-- Has a job everything it needs (19 R446)? It has sent every chunk of its own, and has every byte it takes; a SEND has every chunk
acknowledged (log entry 40). -/
def State.jobDone (s : State) (j : RingJob) : Bool :=
  let b := j.cmd.bits
  (s.peersOf b).all (fun m => decide (j.chunks m ≤ tget j.sent m 0)) &&
    (if ringOpc b = 3 then j.unacked.isEmpty
     else if ringOpc b = 4 then (j.from_ (ringPeer b)).length == j.wants
     else (s.peersOf b).all (fun m => (j.from_ m).length == j.wants))

/-- Bytes as 32-bit words. -/
def wordsOf : Nat → List Byte → List Word
  | 0, _ => []
  | n + 1, bs => BitVec.ofNat 32 (leNat (bs.take 4)) :: wordsOf n (bs.drop 4)

/-- The sum of the members' vectors in increasing module index (19 R445). -/
def sumVectors (add : Word → Word → Word) : List (List Word) → List Word
  | [] => []
  | v :: vs => vs.foldl (fun a w => List.zipWith add a w) v

/-- The part of its own source that the result of a job takes: its block in a REDUCE_SCATTER, the whole in an ALL_REDUCE or ALL_GATHER. -/
def State.ownPart (s : State) (j : RingJob) : Nat × Nat :=
  if ringOpc j.cmd.bits = 1 then j.part s.ring.index else if ringOpc j.cmd.bits ≤ 2 then (0, 4 * ringCount j.cmd.bits) else (0, 0)

/-- The ranges of that part. -/
def State.ownRanges (s : State) (j : RingJob) : List (Nat × Nat) := cutPages j.src (s.ownPart j).1 (s.ownPart j).2

/-- Does a region lock hold the result of a job (04 R107)? -/
def State.jobHeld (s : State) (j : RingJob) : Bool :=
  s.heldRead (s.ownRanges j) || j.dst.any (fun e => s.locked e.1 e.2 true none)

/-- The result of a job: its bytes and the free values drawn. FP32 sums of three or more members in normal mode have no stated
order (19 R445). -/
def State.jobResult (s : State) (j : RingJob) : List Byte × Nat :=
  let b := j.cmd.bits
  let own := fun (_ : Unit) => s.readPages j.src (s.ownPart j).1 (s.ownPart j).2
  let vecs := fun (_ : Unit) => (membersOf b).map (fun m => if m == s.ring.index then own () else j.from_ m)
  let op := ringOpc b
  if op ≤ 1 then
    let n := j.wants / 4
    let vs := (vecs ()).map (wordsOf n)
    if bf b 72 2 = 0 then ((sumVectors (· + ·) vs).flatMap (fun (w : Word) => leBytes 4 w.toNat), 0)
    else if (s.part j.owner.part).strict || vs.length == 2 then ((sumVectors fpAdd vs).flatMap (fun (w : Word) => leBytes 4 w.toNat), 0)
    else ((List.range n).flatMap (fun e => leBytes 4 (Config.free 32 (s.freeCtr + e)).toNat), n)
  else if op = 2 then ((vecs ()).flatten, 0)
  else if op = 4 then (j.from_ (ringPeer b), 0)
  else ([], 0)

/-- A job goes on: what has lost its ring moves, and what a region lock held back is sent, eastwards on the first ring in service. -/
def State.pushJob (s : State) (j : RingJob) : State :=
  match s.jobRings j with
  | [] => s
  | r :: _ => (s.peersOf j.cmd.bits).foldl (fun s m => match s.ring.jobs.find? (fun x => x.cmd == j.cmd) with
    | some j => s.sendDue j m r 0
    | none => s) (s.moveChunks j)

/-- The oldest job of a context that has everything writes its destination and completes (19 R446). -/
def State.finishJob (s : State) (p k : Nat) : State :=
  match s.ring.jobs.find? (fun j => j.cmd.part == p && j.cmd.ctx == k && s.jobDone j && !s.jobHeld j) with
  | none => s
  | some j =>
    if s.lostRead (s.ownRanges j) then s.loseJob j (s.ownRanges j)
    else
      let (bs, n) := s.jobResult j
      ((s.drew n).writePages j.dst bs).endJob j 0xF0

def stepRingDone (p : Fin 16) (k : Fin 64) (s : State) : State :=
  (((s.ring.jobs.filter (fun j => j.cmd.part == p.val && j.cmd.ctx == k.val)).foldl (fun s j => s.pushJob j) s).finishJob p.val k.val)

/-- RING_DONE (19 R445, R446): the oldest RING_OP of the context that has everything writes its destination and completes. What a region
lock held back goes on first; a lock on its source or destination holds it (04 R107). -/
def execRingDone (p : Fin 16) (k : Fin 64) (s : State) : Host.Outcome State Fault Refusal := .next (stepRingDone p k s)

/-- Has a job that a preemption waits for run on for 50 ms (11 R269)? -/
def State.overdue (s : State) (j : RingJob) : Bool :=
  match j.preemptAt with
  | some t => decide (t + 50000000 ≤ s.now)
  | none => false

def stepRingOpPreemptLimit (p : Fin 16) (k : Fin 64) (s : State) : State :=
  (s.ring.jobs.filter (fun j => j.cmd.part == p.val && j.cmd.ctx == k.val && s.overdue j)).foldl
    (fun s j => (s.dropJob j St.preempted).leaveCmd (some j.cmd)) s

/-- RING_OP_PREEMPT_LIMIT (19 R447, 11 R269): what is in progress 50 ms after the preemption is abandoned with PREEMPTED, to run again on
RESUME. -/
def execRingOpPreemptLimit (p : Fin 16) (k : Fin 64) (s : State) : Host.Outcome State Fault Refusal := .next (stepRingOpPreemptLimit p k s)

end Sys2Proof.Machine
end

