-- ==== Sys2Proof/Machine/Recover.lean ====
section
/-! DEFINITION. Muffling, re-placement, engine, partition and chip resets, isolation and escalation (15 R345-R363, 11 R254, R277-R279,
16 R379). -/
namespace Sys2Proof.Machine

/-! Fences (15 R345-R347). -/

/-- Does the ledger know a unit (13 R318)? -/
def unitExists (kind idx : Nat) : Bool :=
  if kind = 1 || kind = 2 then decide (idx < 8192) && decide (taY idx < 17)
  else if kind = 3 then decide (idx < 1056) else if kind = 4 then decide (idx < 512) && (if idx / 16 % 2 = 0 then idx / 32 % 2 == 0 else idx / 128 % 2 == 0)
  else if kind = 5 then decide (idx < 272)
  else if kind = 6 then decide (idx < 192) else if kind = 7 then decide (idx < 32) else if kind = 8 then decide (idx < 136) else false

/-- The cluster that contains a unit, if one does (11 R278). -/
def unitTarget (kind idx : Nat) : Option Target :=
  if kind = 1 || kind = 2 then some (.cluster (taC idx)) else if kind = 3 then some (.cluster (idx / 66)) else none

/-- The arbiter's verdict on an order that names a unit: only a chip reset contains the units outside clusters. -/
def State.unitVerdict (s : State) (sev kind idx : Nat) : Verdict :=
  match unitTarget kind idx with
  | some t => s.arbitrate sev t
  | none => if s.orders.any (fun o => o.target == 16) then .superseded else .proceed

/-- A fence order on a unit (15 R345, 11 R279); one from the belfry also enters a confirmed error (13 R315). -/
def State.fence (s : State) (belfry : Bool) (kind idx : Nat) : State × Nat :=
  if s.unitVerdict 6 kind idx == .superseded then (s, St.superseded)
  else
    let s := match unitTarget kind idx with
      | some t => s.takeOver 6 t
      | none => s
    let s := s.muffleUnit kind idx
    (if belfry then s.confirm kind idx 6 0xBB else s, 0)

def stepMuffle (who : Issuer) (u : UnitId) (s : State) : State :=
  match who with
  | .belfry => if unitExists u.kind u.index then (s.fence true u.kind u.index).1 else s
  | .theldo => if unitExists u.kind u.index then (s.fence false u.kind u.index).1 else s
  | _ => s

/-- MUFFLE (15 R345, 13 R321): ordered by Theldo or the belfry. -/
def execMuffle (who : Issuer) (u : UnitId) (s : State) : Host.Outcome State Fault Refusal := .next (stepMuffle who u s)

/-- A re-admission order (15 R347, 20 R459): a unit that is not clean is retested first, a permanent one stays out. -/
def State.unfence (s : State) (kind idx : Nat) : State × Nat :=
  if s.unitVerdict 7 kind idx == .superseded then (s, St.superseded)
  else
    let st := ledState (s.ledgerOf kind idx)
    if 2 ≤ st then (s, St.unitMuffled)
    else if st = 1 then
      (if (s.retestOf kind idx).isSome then s.setRetest kind idx (some 0)
       else { s with ledger := { s.ledger with retests := s.ledger.retests ++ [(kind, idx, 0)] } }, 0)
    else (s.readmit kind idx, 0)

def stepReAdmission (who : Issuer) (u : UnitId) (s : State) : State :=
  match who with
  | .belfry | .theldo => if unitExists u.kind u.index then (s.unfence u.kind u.index).1 else s
  | _ => s

/-- RE_ADMISSION (15 R347, 10 R246). -/
def execReAdmission (who : Issuer) (u : UnitId) (s : State) : Host.Outcome State Fault Refusal := .next (stepReAdmission who u s)

/-! Re-placement (15 R348-R353). -/

/-- The first muffled tile of a battery in columns and rows order. -/
def State.mutedTile (s : State) (c b : Nat) : Option Nat := ((s.batTiles c b).map (·.2)).find? (fun ta => s.muffledTile ta)

/-- Is step 1 open to a muffled tile (15 R349)? -/
def State.skipOpen (s : State) (ta : Nat) : Bool :=
  decide (taY ta ≤ 15) && s.skip (taC ta) (taX ta) == 31 && !s.muffledTile (taddr (taC ta) (taX ta) 16) &&
    !(s.clY (taC ta)).skips.any (fun e => e.1 == taX ta)

/-- The battery that step 2 chooses (15 R351); one that holds a section for re-placement is none (log entry 122). -/
def State.relocTarget (s : State) (c b : Nat) (img : SecImage) : Option Nat :=
  (List.range 64).find? (fun b' => b' != b && s.shape c b' / 256 == s.shape c b / 256 && s.fits img c b' && (s.batTiles c b').all (fun e => !s.muffledTile e.2) &&
    !s.busyBat c b' && (s.bat c b').rsv.isNone && (s.bat c b').shadow.isNone && (s.bat c b').loadCmd.isNone &&
    (s.batTiles c b').all (fun e => (s.tile e.2).ctl.resValid == 0 || (match (s.tile e.2).ctl.cur with
      | some i => !s.live i
      | none => true)))

/-- The record of a re-placement (15 R343). -/
def State.replRecord (s : State) (c b : Nat) (i : CtxId) (status method newBat col val banks : Nat) : State :=
  s.raise { FaultRec.of status 7 with
    part := some i.part, ctx := some i, cluster := c, battery := b
    detail := pack [(2, method), (6, newBat), (4, col), (5, val), (12, banks)] }

/-- Step 3 (15 R353): the SEC_RUN completes with the status of its section. -/
def State.replFail (s : State) (c b : Nat) : State :=
  let x := s.bat c b
  match x.active, x.owner with
  | some img, some i =>
    let st := (s.batX c b).heldStatus
    let s := (s.rewind c b img false st).updBatX c b (fun y => { y with held := false, plan := 0, replLast := 3 })
    let s := s.updBat c b (fun y => { y with cmd := none, lastStatus := st })
    ((s.finishSection c st x.cmd).replRecord c b i 0xC2 3 0 0 0 0).pumpBat c b
  | _, _ => s

def stepReplacement (c : Fin 16) (b : Fin 64) (s : State) : State :=
  let c := c.val
  let b := b.val
  let x := s.bat c b
  match x.active, x.owner with
  | some img, some i =>
    let p := s.part i.part
    if !(s.batX c b).held || (s.batX c b).plan != 0 then s
    else match s.mutedTile c b with
    | some ta =>
      if p.autoSkip && s.skipOpen ta then
        if s.compDown (16 * (3 + c) + 2) then s
        else
        let s := s.each (s.cfg.swaps.filter (fun w => w.target == c)) (fun s w => s.dropSwap w)
        (s.updClY c (fun y => { y with skips := y.skips ++ [(taX ta, taY ta, b)] })).updBatX c b (fun y => { y with plan := 1 })
      else if s.compDown 37 then s
      else if p.autoRelocate && (s.relocTarget c b img).isSome then s.updBatX c b (fun y => { y with plan := 2 })
      else s.replFail c b
    | none =>
      if s.compDown 37 then s
      else if p.autoRelocate && (s.relocTarget c b img).isSome then s.updBatX c b (fun y => { y with plan := 2 }) else s.replFail c b
  | _, _ => s

/-- REPLACEMENT (15 R348): the step that applies is chosen; with none the SEC_RUN completes. It waits for the component whose duty the step
is, skip or recovery (18 R409, R414). -/
def execReplacement (c : Fin 16) (b : Fin 64) (s : State) : Host.Outcome State Fault Refusal := .next (stepReplacement c b s)

/-- SLOT transfers into a battery whose mapping changed restart at the lowest stream tile not taken (15 R352). -/
def State.restartSlots (s : State) (c : Nat) (bats : List Nat) (dst : Nat → Nat) : State :=
  s.each (s.descs.filter (fun e => e.1 / 64 == c && e.2.st != .free && descSlot e.2.image && bats.contains e.2.bat)) (fun s e =>
    let d := e.2
    let again := d.st == .active || ((d.st == .parked || d.st == .done) && decide (d.taken < d.delivered))
    let z : Desc := { d with
      bat := dst d.bat, isPartial := false, delivered := min d.delivered d.taken, at_ := []
      st := if again then .active else d.st }
    let s := { s with descs := tset s.descs e.1 (if d.st == .stopped then { z with doneEl := [], next := z.runTile * z.te } else z) }
    if again then { s with descx := tset s.descx e.1 { (tget s.descx e.1 DescX.reset) with draining := true } } else s)

/-- The held section of a battery has been re-placed (15 R348): it enters ARM again as soon as nothing blocks that. -/
def State.reArm (s : State) (c b : Nat) : State :=
  (s.updBatX c b (fun y => { y with held := true, replaced := true, plan := 3 })).enterHeld c b

/-- Column x shifts south from row y (15 R350): banks, valid bits and current context. -/
def State.shiftColumn (s : State) (c x y : Nat) : State :=
  let moved := (List.range (15 - y)).map (fun n => (y + 2 + n, s.tile (taddr c x (y + 1 + n))))
  let s := s.each moved (fun s (e : Nat × Tile) => s.updTile (taddr c x e.1) (fun t => { t with
    core := { t.core with pad := mcopy e.2.core.pad 0 0x60000 t.core.pad 0 }
    ctl := { t.ctl with resValid := e.2.ctl.resValid, cur := e.2.ctl.cur } }))
  s.updTile (taddr c x (y + 1)) (fun t => { t with
    core := { t.core with pad := mclear t.core.pad 0 0x60000 }, ctl := { t.ctl with resValid := 0, cur := none } })

/-- The batteries that cover a column. -/
def State.covering (s : State) (c x : Nat) : List Nat :=
  (List.range 64).filter (fun b => let sh := s.shape c b
    shapeValid sh && decide (shapeX0 sh ≤ x) && decide (x < shapeX0 sh + shapeW sh))

/-- The batteries of a list whose rows reach row y, so that a skip of it changes their mapping (15 R350, R352). -/
def State.shifted (s : State) (c : Nat) (l : List Nat) (y : Nat) : List Nat :=
  l.filter (fun b => let sh := s.shape c b; decide (y < shapeY0 sh + shapeH sh))

/-- Install a skip value in the active bank. -/
def State.setSkip (s : State) (c x v : Nat) : State :=
  let g := s.ccfg c
  { s with cfg := { s.cfg with clusters := tset s.cfg.clusters c { g with skips := tset g.skips x v } } }

def stepSkipSwap (c x : Fin 16) (s : State) : State :=
  let c := c.val
  let x := x.val
  let bats := s.covering c x
  let still := bats.all (fun b => let st := (s.bat c b).st
    !(st == .arm || st == .run || st == .commit || st == .abort))
  match (s.clY c).skips.find? (fun e => e.1 == x) with
  | some (_, y, b) =>
    if !still || s.compDown (16 * (3 + c) + 2) then s
    else
      let s := s.updClY c (fun z => { z with skips := z.skips.filter (fun e => e.1 != x) })
      let lost := (s.tile (taddr c x y)).ctl.lostBanks
      let s := (((s.shiftColumn c x y).setSkip c x y).restartSlots c (s.shifted c bats y) id).tilesChanged c
      let z := s.bat c b
      match z.active, z.owner with
      | some _, some i =>
        if (s.batX c b).held && (s.batX c b).plan == 1 then
          (((s.replRecord c b i 0xC1 1 b x y lost.toNat).updBatX c b (fun y => { y with replLast := 1 })).reArm c b).pumpAll
        else s.pumpAll
      | _, _ => s.pumpAll
  | none =>
    if s.skip c x == 31 && s.muffledTile (taddr c x 16) && still && !s.compDown (16 * (3 + c) + 2) then
      ((s.each (s.cfg.swaps.filter (fun w => w.target == c)) (fun s w => s.dropSwap w)).setSkip c x 16).tilesChanged c
    else s

/-- SKIP_SWAP (15 R349, R350): at the common boundary of the batteries that cover the column, once
the cluster's skip component is up (18 R414). -/
def execSkipSwap (c x : Fin 16) (s : State) : Host.Outcome State Fault Refusal := .next (stepSkipSwap c x s)

/-- The images, banks, waiting commands and redirects of battery b go to b' (15 R351); a tile of another context is cleared first, as an ARM
would clear it (02 R65). -/
def State.moveBattery (s : State) (c b b' : Nat) : State :=
  let x := s.bat c b
  let s := s.each (s.batTiles c b) (fun s e =>
    let t := s.tile e.2
    if s.muffledTile e.2 then s
    else s.updTile (s.tileAt c b' (e.1 % 16) (e.1 / 16)) (fun u =>
      let u := if u.ctl.cur == t.ctl.cur then u else u.cleared
      { u with
      core := { u.core with pad := (bitsOf 12 t.ctl.resValid.toNat).foldl (fun m k => mcopy t.core.pad (32768 * k) 32768 m (32768 * k)) u.core.pad }
      ctl := { u.ctl with resValid := t.ctl.resValid, cur := t.ctl.cur } }))
  let s := s.updBat c b' (fun o => { x with st := .empty, lastStatus := o.lastStatus, waiting := x.waiting ++ o.waiting })
  let s := s.updBat c b' (fun y => { y with st := y.restState })
  let s := s.updBat c b (fun y => { Battery.reset with lastStatus := y.lastStatus })
  let st := (s.batX c b).heldStatus
  let s := s.updBatX c b' (fun y => { y with held := true, heldStatus := st })
  s.each (List.range 64) (fun s n =>
    let y := s.batX c n
    if n == b || (y.replValid && y.replTarget == b) then s.updBatX c n (fun y => { y with replValid := true, replTarget := b' }) else s)

def stepRelocation (c : Fin 16) (b : Fin 64) (s : State) : State :=
  let c := c.val
  let b := b.val
  let x := s.bat c b
  match x.active, x.owner with
  | some img, some i =>
    if !(s.batX c b).held || (s.batX c b).plan != 2 || s.compDown 37 then s
    else match s.relocTarget c b img with
    | none => s.replFail c b
    | some b' =>
      let lost := (s.batTiles c b).foldl (fun (n : BitVec 12) e => if s.muffledTile e.2 then n ||| (s.tile e.2).ctl.lostBanks else n) 0
      let s := (s.moveBattery c b b').updBatX c b (fun y => { y with held := false, plan := 0, replLast := 2 })
      let s := s.restartSlots c [b] (fun _ => b')
      ((s.replRecord c b i 0xC1 2 b' 0 0 lost.toNat).reArm c b').pumpAll
  | _, _ => s

/-- RELOCATION (15 R351, R352). -/
def execRelocation (c : Fin 16) (b : Fin 64) (s : State) : Host.Outcome State Fault Refusal := .next (stepRelocation c b s)

/-! Engine resets (15 R359, 19 R447). -/

/-- A command is left not completed and starts again: its queue restarts at HEAD and skips what completed (15 R359, 11 R271). -/
def State.restartCmd (s : State) (r : CmdRef) : State :=
  (s.leaveCmd (some r)).updQueue r.part r.ctx r.x (fun q => { q with next := q.head, fetched := none, record := none })

def State.restartOpt (s : State) (r : Option CmdRef) : State :=
  match r with
  | some r => s.restartCmd r
  | none => s

/-- A battery under a battery-engine reset (15 R359). -/
def State.engineBat (s : State) (c b : Nat) : State :=
  let x := s.bat c b
  let held := (s.batX c b).held
  let s := if x.st == .arm || x.st == .run || held then
      let s := (s.resetAbort c b).quietTiles c b
      let once := x.st == .run && (match x.active with
        | some img => !img.replayable
        | none => false)
      let s := match x.active with
        | some img => s.rewind c b img (!once) St.superseded
        | none => s
      let s := (s.endBattery c b (if once then St.superseded else x.lastStatus)).updBatX c b (fun y => { y with held := false, plan := 0 })
      if once then s.finishSection c St.superseded x.cmd else s.restartOpt x.cmd
    else s
  let x := s.bat c b
  let s := match x.loadCmd with
    | some r => (s.updBat c b (fun y => { y with
        loadCmd := none, loadImg := none, rsv := if y.shadow.isSome then y.rsv else none
        st := if y.st == BState.loading then BState.empty else y.st })).restartCmd r
    | none => s
  s.each x.waiting (fun s r => (s.updBat c b (fun y => { y with waiting := y.waiting.erase r })).restartCmd r)

/-- A battery-engine reset: the sections and loads, then the chains with their hand-over buffers. -/
def State.batteryReset (s : State) (c : Nat) : State :=
  let s := s.each (List.range 64) (fun s b => s.engineBat c b)
  let hs := (s.cl c).chains
  let s := s.updCl c (fun x => { x with chains := [] })
  (s.each hs (fun s h => s.restartCmd h.cmd)).updClY c (fun y => { y with skips := [] })

/-- What a MEM stream has written begins at its DST_ADDR: its length, up to the last element that is complete or under way. -/
def Desc.written (x : Desc) : Nat :=
  elemLen x.image * ((x.issued ++ x.doneEl).foldl (fun n k => max n (k + 1)) (x.runTile * x.te))

/-- Does an element of a MEM stream read what the stream has written (15 R359)? -/
def Desc.selfRead (x : Desc) : Bool :=
  x.written != 0 && (List.range (x.tiles * x.te)).any (fun n =>
    let info := elemInfo x.image x.base (vectorAt (levelsOf x.image) n).1
    decide (info.lo < info.hi) && decide (info.addr + info.lo < (x.dst + x.written : Nat)) && decide ((x.dst : Nat) < info.addr + info.hi))

/-- The destination of a MEM stream that starts again and overlaps its source holds unspecified data (15 R359). -/
def State.blurDest (s : State) (x : Desc) : State :=
  match x.owner with
  | some i => if !descSlot x.image && x.selfRead then s.blurVa i (x.written / 65536 + 2) x.dst x.written else s
  | none => s

/-- A descriptor under a stream-engine reset (15 R359). -/
def State.streamDesc (s : State) (c e d : Nat) : State :=
  let x := s.desc c e d
  let s := s.updDescX c e d (fun _ => DescX.reset)
  let still : Desc := { x with issued := [], doneEl := [], cmd := none, at_ := [] }
  match x.st, x.park with
  | .free, _ => s
  | .parked, _ => s
  | .active, some (base, dst) => (s.setDesc c e d { still with st := .parked, runs := x.runs.dropLast ++ [{ seq0 := x.seq0, base, counts := x.counts }], dst }).completeOpt x.cmd St.superseded
  | _, _ => ((s.blurDest x).setDesc c e d { still with st := .free, owner := none, rewound := false }).restartOpt x.cmd

/-- A stream-engine reset: its waiting commands, then its descriptors. -/
def State.streamReset (s : State) (c e : Nat) : State :=
  let ws := (s.cl c).engWait.filter (fun w => w.engine == e)
  let s := s.updCl c (fun x => { x with engWait := x.engWait.filter (fun w => w.engine != e) })
  let s := s.each ws (fun s w => s.restartOpt w.cmd)
  s.each (List.range 16) (fun s d => s.streamDesc c e d)

/-- A ring-engine reset: its operations complete with SUPERSEDED (19 R447). -/
def State.ringReset (s : State) (c : Nat) : State :=
  s.each (s.ring.jobs.filter (fun j => j.cluster == c)) (fun s j => (s.dropJob j St.superseded).complete j.cmd St.superseded 0)

/-- The contexts and commands at work on an engine (15 R356). -/
def State.suspects (s : State) (c kind idx : Nat) : List CmdRef × List Nat :=
  let cmds := if kind = 1 then
      (List.range 16).flatMap (fun d => let x := s.desc c idx d
        if x.st == .active || x.st == .stopped then x.cmd.toList else [])
    else (s.ring.jobs.filter (fun j => j.cluster == c)).map (·.cmd)
  let ks := if kind = 1 then
      (List.range 16).flatMap (fun d => let x := s.desc c idx d
        if x.st == .active || x.st == .stopped then (x.owner.map (·.ctx)).toList else [])
    else cmds.map (·.ctx)
  (cmds, (List.range 64).filter (fun k => ks.contains k))

/-- Isolation admits the next suspect, or ends (15 R356). -/
def State.isoNext (s : State) (c : Nat) : State :=
  s.updClY c (fun y => match y.isoLeft with
    | k :: rest => { y with isoAdmitted := k, isoLeft := rest }
    | [] => { y with isoActive := false, isoAdmitted := 0, isoCmds := [], isoTried := y.isoTried || !y.isoNamed })

/-- A further hang names the admitted context (15 R356): stopped as by a fatal fault, with an ENGINE_HANG record. -/
def State.nameHang (s : State) (c kind idx : Nat) : State :=
  let y := s.clY c
  let s := match s.partOf c with
    | some p =>
      let i := s.ident p y.isoAdmitted
      if s.live i then s.fatal i { FaultRec.of 0xC0 (kind + 1) with cluster := c, detail := pack [(2, kind), (2, idx)] } else s
    | none => s
  (s.updClY c (fun y => { y with isoNamed := true })).isoNext c

/-- An engine reset passes the arbiter and acts (15 R356, R359, R361, 11 R277-R279): its result, COMPLETED or SUPERSEDED;
log entry 37. -/
def State.engineReset (s : State) (c kind idx : Nat) (hang : Bool) : State :=
  let put := fun (s : State) (n : Nat) => s.updClY c (fun y => { y with engKind := kind, engIndex := idx, engHang := hang, engResult := n })
  if s.arbitrate 4 (.cluster c) == .superseded then put s St.superseded
  else
    let s := s.takeOver 4 (.cluster c)
    let (cmds, ks) := s.suspects c kind idx
    let y := s.clY c
    let again := hang && y.isoActive && y.isoEngine == kind && (kind == 2 || y.isoIndex == idx)
    let s := if kind = 0 then s.batteryReset c else if kind = 1 then s.streamReset c idx else s.ringReset c
    let g := if kind = 0 then 0 else if kind = 1 then 1 + idx else 5
    let s := s.updClY c (fun y => { y with engGens := tset y.engGens g (wrapAdd 8 (tget y.engGens g 0) 1) })
    let s := if kind = 0 || !hang then s
      else if again then s.nameHang c kind idx
      else if y.isoActive || y.isoTried || ks.isEmpty then s
      else s.updClY c (fun y => { y with
        isoActive := true, isoEngine := kind, isoIndex := idx, isoAdmitted := ks.headD 0, isoLeft := ks.tail, isoCmds := cmds
        isoNamed := false })
    (put s St.completed).pumpAll

/-- An engine reset that a function orders through FLT_ENG_RST, or the management network. -/
def State.engineOrder (s : State) (fn : Fn) (c kind idx : Nat) (hang : Bool) : State :=
  s.gateC fn c (offF (0x200 + 8 * c)) (pack [(1, 1), (2, kind), (2, idx), (1, b2n hang)]) (fun s => s.engineReset c kind idx hang)

/-- BATTERY_ENGINE_RESET (15 R359). -/
def execBatteryEngineReset (fn : Fn) (c : Fin 16) (s : State) : Host.Outcome State Fault Refusal := .next ((s.unlatch fn).engineOrder fn c.val 0 0 false)

/-- STREAM_ENGINE_RESET (15 R356, R359). -/
def execStreamEngineReset (fn : Fn) (c : Fin 16) (e : Fin 4) (hang : Bool) (s : State) : Host.Outcome State Fault Refusal :=
  .next ((s.unlatch fn).engineOrder fn c.val 1 e.val hang)

/-- RING_ENGINE_RESET (19 R447, 15 R356, R359). -/
def execRingEngineReset (fn : Fn) (c : Fin 16) (hang : Bool) (s : State) : Host.Outcome State Fault Refusal :=
  .next ((s.unlatch fn).engineOrder fn c.val 2 0 hang)

/-- Has a re-issued command of a suspect still to complete? -/
def State.isoPending (s : State) (r : CmdRef) : Bool :=
  let x := s.ctx r.part r.ctx
  let q := x.queue r.x
  x.st != 0 && x.st != 7 && decide ((r.idx + 2 ^ 32 - q.head) % 2 ^ 32 < 2 ^ 31) && !q.done.contains r.idx

def stepIsolationAdmit (c : Fin 16) (s : State) : State :=
  let y := s.clY c.val
  if !y.isoActive || s.compDown 37 || y.isoCmds.any (fun r => r.ctx == y.isoAdmitted && s.isoPending r) then s else s.isoNext c.val

/-- ISOLATION_ADMIT (15 R356). -/
def execIsolationAdmit (c : Fin 16) (s : State) : Host.Outcome State Fault Refusal := .next (stepIsolationAdmit c s)

/-! Partition resets (15 R357, R360, 16 R379, 17 R397, 22 R497, R498). -/

/-- A tile after a partition reset: its registers and banks; its test history stays (13 R301 leaves it to the chip reset), and a check
on it goes on (13 R323). -/
def Tile.partReset (t : Tile) : Tile :=
  { Tile.reset with test := { t.test with capture := none, deferred := false, passIdx := 0, stats := [], limitedSent := false } }

/-- A cluster's registers of the CLU domain take their reset values (22 R497, R503); ACLK returns to 1.000 GHz (01 R41). -/
def State.resetClu (s : State) (c : Nat) : State :=
  let s := s.abandonSlices 4 (fun x => decide (x.kind < 6) && taC x.unit_ == c)
  let x := s.clX c
  let y := s.clY c
  let s := { s with
    fw := { s.fw with
      down := s.fw.down.filter (fun n => n / 16 != 3 + c), dead := s.fw.dead.filter (fun n => n / 16 != 3 + c)
      failed := s.fw.dead.any (fun n => n / 16 != 3 + c) }
    bats := s.bats.filter (fun e => e.1 / 64 != c), batx := s.batx.filter (fun e => e.1 / 64 != c)
    descs := s.descs.filter (fun e => e.1 / 64 != c), descx := s.descx.filter (fun e => e.1 / 64 != c)
    tiles := tmap s.tiles (fun ta t => if taC ta = c then t.partReset else t)
    msg := { s.msg with
      chans := s.msg.chans.filter (fun e => taC (e.1 / 16) != c)
      queues := tmap s.msg.queues (fun n (q : RxQueue) => if taC (n / 16) = c then { RxQueue.reset with gen := wrapAdd 8 q.gen 1 } else q)
      cqs := s.msg.cqs.filter (fun (e : Nat × List Nat) => taC e.1 != c)
      peals := s.msg.peals.filter (fun (e : Peal) => e.sender != c) } }
  let s := s.each (List.range 32) (fun s q => s.updComb c q (fun g => { CombQueue.reset with gen := wrapAdd 8 g.gen 1 }))
  let s := s.updCl c (fun cl => { Cluster.reset with
    clk := { Clock.reset with code := cl.clk.code, lowest := cl.clk.code, dvfs := 40, inhibit := cl.clk.inhibit
                              target := if cl.clk.code = 40 then none else some 40 }
    gated := cl.gated, waitNs := cl.waitNs, lastWin := cl.lastWin })
  let s := s.updClX c (fun _ => { ClusterX.reset with
    checks := x.checks, wLog2 := x.wLog2, capLog2 := x.capLog2, checkers := x.checkers, limited := x.limited, checked := x.checked
    deferredCnt := x.deferredCnt, lostCnt := x.lostCnt, tapSel := x.tapSel, tapTries := x.tapTries, tapHoldBat := x.tapHoldBat })
  s.updClY c (fun _ => { ClusterY.reset with
    engGens := (List.range 6).map (fun g => (g, wrapAdd 8 (tget y.engGens g 0) 1)), allot := y.allot, draw := y.draw, temp := y.temp
    idle := y.idle, headroom := y.headroom, muffled := y.muffled, degraded := y.degraded, readyTs := y.readyTs, ran := y.ran })

/-- The dies a seam joins, by number (01 R28). -/
def seamDies (seam : Nat) : Nat × Nat :=
  if seam = 0 then (0, 1) else if seam = 1 then (2, 3) else if seam = 2 then (0, 2) else (1, 3)

/-- The seams a reset of a partition retrains (01 R28). -/
def State.seamsOf (s : State) (p : Nat) : List Nat :=
  (List.range 4).filter (fun n =>
    (s.clustersOf p).any (fun c => dieOf c == (seamDies n).1) && (s.clustersOf p).any (fun c => dieOf c == (seamDies n).2))

/-- A context of a partition that is reset: FREE, its generation raised; a reset order on it keeps its result (22 R498). -/
def Ctx.partReset (x : Ctx) : Ctx :=
  { Ctx.reset with gen := wrapAdd 8 x.gen 1, result := if x.st = 8 then x.result else 0 }

/-- The HBM stacks all of whose groups belong to a partition, and its far-tier channels (16 R379). -/
def PartRec.stacks (r : PartRec) : Nat :=
  ((List.range 12).filter (fun n => field r.hbm (4 * n) 4 == 15)).foldl (fun m n => m + 2 ^ n) 0

/-- Clear bits of a mask. -/
def clearBits (n m : Nat) : Nat := n - (n &&& m)

/-- The key of a stage's instance. -/
def stageKey (stage unit_ : Nat) : Nat := 64 * stage + unit_

/-- A stage's instance starts. -/
def State.startStage (s : State) (stage unit_ : Nat) : State :=
  { s with boot := { s.boot with
    starts := tset s.boot.starts (stageKey stage unit_) s.now, stage := max s.boot.stage stage
    finished := s.boot.finished.filter (fun k => k != stageKey stage unit_) } }

/-- The memory channels of a partition: HBM 0-191, far tier from 192 (07 R162). -/
def PartRec.chans (r : PartRec) : List Nat :=
  (bitsOf 48 r.hbm).flatMap (fun g => (List.range 4).map (fun i => 16 * (g / 4) + 4 * (g % 4) + i)) ++ (bitsOf 32 r.far).map (· + 192)

/-- What a partition reset does at its order (15 R360). -/
def State.partReset (s : State) (p : Nat) (byReg : Bool) : State :=
  match s.prec p with
  | none => s
  | some r =>
    let cs := s.clustersOf p
    let s := s.each (s.ring.jobs.filter (fun j => j.owner.part == p)) (fun s j => s.dropJob j St.superseded)
    let s := s.each (List.range 64) (fun s k => (s.updCtx p k Ctx.partReset).updCtxX p k (fun _ => CtxX.reset))
    let s := s.each cs (fun s c => s.resetClu c)
    let s := s.updPart p (fun x => { Part.reset with
      gen := wrapAdd 8 x.gen 1, lastRec := x.lastRec, resetGo := byReg, result := if byReg then x.result else 0 })
    let k := tget s.mesh.pkeys p (0, false, 0)
    let key := if k.1 == r.key then r.resetKey else r.key
    let s := s.each (s.seamsOf p) (fun s n => s.each (seamPairs n) (fun s e => s.linkDown e.1 e.2))
    let s := s.each r.chans (fun s n => if (s.chan n).st = 2 then s else s.updChan n (fun x => { x with st := 0 }))
    let s := s.each cs (fun s c => s.startStage 5 c)
    let s := s.each ((bitsOf 12 r.stacks) ++ (bitsOf 32 r.far).map (· + 16)) (fun s u => s.startStage 6 u)
    { s with
      mesh := { s.mesh with pkeys := tset s.mesh.pkeys p (key, true, k.1) }
      mem := { s.mem with tags := s.mem.tags.filter (fun e => e.2.part != p), frameWait := s.mem.frameWait.filter (fun e => e.1 / 64 != p) }
      hosts := { s.hosts with
        windows := tmap s.hosts.windows (fun _ w => if w.part == p then { w with valid := false } else w)
        ports := tmap s.hosts.ports (fun _ q => { q with
          atc := q.atc.filter (fun a => a.ctx.part != p), reqs := q.reqs.filter (fun a => a.ctx.part != p) })
        latch := s.hosts.latch.filter (fun e => !s.offPart p e.2.1) }
      boot := { s.boot with
        readyClusters := clearBits s.boot.readyClusters r.clusters, readyHbm := clearBits s.boot.readyHbm r.stacks
        readyFar := clearBits s.boot.readyFar r.far, cause := 2 } }

/-- Everything but the always-on domain takes its reset values; stages 1 to 7 run again (15 R357, R360, 16 R369); log entry 77;
log entry 91. -/
def State.chipReset (s : State) (auto : Bool) : State :=
  let r := State.reset
  { r with
    pending := s.pending, freeCtr := s.freeCtr, out := s.out, now := s.now
    ctxs := (List.range 1024).map (fun i => (i, { Ctx.reset with gen := wrapAdd 8 (s.ctx (i / 64) (i % 64)).gen 1 }))
    parts := (List.range 16).map (fun p => (p, { Part.reset with gen := wrapAdd 8 (s.part p).gen 1 }))
    cly := (List.range 16).map (fun c => (c, { ClusterY.reset with
      engGens := (List.range 6).map (fun g => (g, wrapAdd 8 (tget (s.clY c).engGens g 0) 1)) }))
    msg := { r.msg with
      queues := tmap s.msg.queues (fun _ (q : RxQueue) => { RxQueue.reset with gen := wrapAdd 8 q.gen 1 })
      comb := (List.range 512).map (fun i => (i, { CombQueue.reset with gen := wrapAdd 8 (s.comb (i / 32) (i % 32)).gen 1 })) }
    mesh := { r.mesh with unitGens := tmap s.mesh.unitGens (fun _ n => wrapAdd 8 n 1) }
    orders := [{ target := 16, byReg := false, at_ := s.now, held := false, auto }]
    hosts := { r.hosts with ports := tmap s.hosts.ports (fun _ q => { Port.reset with perst := q.perst }) }
    log := { s.log with page := 0, traceEn := [], traced := [] }
    ledger := { s.ledger with retests := [] }
    boot := { r.boot with powerGood := s.boot.powerGood, stage := min s.boot.stage 1, done := s.boot.done % 2, cause := 1 }
    fw := { r.fw with svnFloor := s.fw.svnFloor }
    pwr := { s.pwr with capUnmet := false, inputW := 0, uncoreW := 0, clusterW := 0 }
    belfry := { s.belfry with coll0 := none, coll1 := none }
    smbus := s.smbus
    health := { r.health with
      keyDrawn := s.health.keyDrawn + 1, level := 4, auto, chipGen := wrapAdd 8 s.health.chipGen 1 } }

/-- Stage 1 starts when MOD_RST# is high (20 R465) and no chip reset still waits for a COMMIT. -/
def State.startOne (s : State) : State :=
  if s.pwr.modRst || !s.boot.powerGood || s.orders.any (fun o => o.target == 16 && o.held) then s else s.startStage 1 0

/-- A reset order that waited for COMMIT takes effect once no section of its target stands in COMMIT (04 R110, R117); log entry 108. -/
def State.releaseOrder (s : State) (o : Order) : State :=
  if !s.orders.contains o || s.bats.any (fun e => e.2.st == .commit && (o.target == 16 || s.owns o.target (e.1 / 64))) then s
  else if o.target = 16 then (s.chipReset o.auto).startOne
  else State.partReset { s with orders := s.orders.map (fun q => if q == o then { q with held := false } else q) } o.target o.byReg

/-- Every reset order that may now take effect does. -/
def State.releaseOrders (s : State) : State := s.each (s.orders.filter (·.held)) State.releaseOrder

def stepCommit (c : Fin 16) (b : Fin 64) (s : State) : State := (s.commitBat c b).releaseOrders

/-- COMMIT (04 R110, R117). -/
def execCommit (c : Fin 16) (b : Fin 64) (s : State) : Host.Outcome State Fault Refusal := .next (stepCommit c b s)

/-- A partition reset is ordered (11 R254, R277-R279, R281); its status if it does not go on. -/
def State.orderPartReset (s : State) (p : Nat) (byReg : Bool) : State × Nat :=
  if (s.prec p).isNone then (s, St.contextState)
  else match s.arbitrate 3 (.part p) with
  | .superseded => (if byReg then s.updPart p (fun x => { x with result := St.superseded }) else s, St.superseded)
  | .join => (if byReg then
      State.updPart { s with orders := s.orders.map (fun (o : Order) => if o.target = p then { o with byReg := true } else o) } p
        (fun x => { x with resetGo := true }) else s, 0)
  | .proceed =>
    let s := s.takeOver 3 (.part p)
    let o : Order := { target := p, byReg, at_ := s.now, held := true, auto := false }
    let s := { s with orders := s.orders ++ [o] }
    ((s.updPart p (fun x => { x with resetGo := x.resetGo || byReg })).releaseOrders, 0)

def stepPartitionReset (who : Issuer) (p : Fin 16) (s : State) : State :=
  match who with
  | .fn f => if !s.ownsP f p.val then s.refuseP f p.val (offP p.val 0) 2 1 else (s.orderPartReset p.val true).1
  | _ => (s.orderPartReset p.val false).1

/-- PARTITION_RESET (15 R360, 11 R281). -/
def execPartitionReset (who : Issuer) (p : Fin 16) (s : State) : Host.Outcome State Fault Refusal := .next (stepPartitionReset who p (s.unlatchBy who))

/-- Are the clusters and channels of a partition ready again (16 R379)? -/
def State.partReady (s : State) (p : Nat) : Bool :=
  match s.prec p with
  | none => true
  | some r => (s.clustersOf p).all (fun c => (s.clY c).ready) && r.chans.all (fun n => (s.chan n).st != 0)

def stepPartitionResetComplete (p : Fin 16) (s : State) : State :=
  let p := p.val
  let k := tget s.mesh.pkeys p (0, false, 0)
  match s.orders.find? (fun o => o.target == p) with
  | none => s
  | some o =>
    if p = 16 || o.held || !s.partReady p || s.mesh.net.any (fun q => q.key == k.1 || q.key == k.2.2) then s
    else
      let s := { s with orders := s.orders.erase o }.answer (waitPart p) St.completed
      let s := if o.byReg then s.updPart p (fun x => { x with resetGo := false, result := St.completed }) else s
      let s := s.each (s.seamsOf p) State.retrainSeam
      let s := s.each (s.seamsOf p) (fun s n => if 32 ≤ s.seamLanes n then s.each (seamPairs n) (fun s e => s.linkUp e.1 e.2) else s)
      s.raise { FaultRec.of St.completed 7 with part := some p }

/-- PARTITION_RESET_COMPLETE (17 R397, 16 R379, 22 R505, R507); log entry 74. -/
def execPartitionResetComplete (p : Fin 16) (s : State) : Host.Outcome State Fault Refusal := .next (stepPartitionResetComplete p s)

/-! Chip resets (15 R357, R360, 22 R497). -/

/-- A chip reset is ordered (11 R277-R279). -/
def State.orderChipReset (s : State) (auto : Bool) : State × Nat :=
  if !s.boot.powerGood then (s, St.contextState)
  else match s.arbitrate 2 .module with
  | .superseded => (s, St.superseded)
  | .join => (s, 0)
  | .proceed =>
    let s := (s.takeOver 2 .module).answer waitStage St.superseded
    (State.releaseOrders { s with orders := [{ target := 16, byReg := false, at_ := s.now, held := true, auto }] }, 0)

def stepChipReset (who : Issuer) (s : State) : State :=
  match who with
  | .fn _ => s
  | .theldo => (s.orderChipReset true).1
  | _ => (s.orderChipReset false).1

/-- CHIP_RESET (15 R357, R360, 11 R254): ordered by the belfry, MOD_RST# or Theldo; a function orders none. -/
def execChipReset (who : Issuer) (s : State) : Host.Outcome State Fault Refusal := .next (stepChipReset who s)

/-! The escalation ladder (15 R360). -/

/-- An ESCALATED record (15 R343, R366). -/
def State.escRecord (s : State) (level trigger : Nat) (part : Option Nat) (cluster : Nat) : State :=
  s.raise { FaultRec.of 0xC3 7 with part, cluster, detail := pack [(3, level), (1, b2n (decide (s.health.escLimit < level))), (8, trigger)] }

/-- Theldo orders a level unless ESC_LIMIT holds it; the record goes either way. -/
def State.orderLevel (s : State) (level trigger : Nat) (part : Option Nat) (cluster : Nat) (go : State → State) : State :=
  let held := decide (s.health.escLimit < level)
  let s := s.escRecord level trigger part cluster
  if held then s else go s

/-- A power-cycle request: the belfry's EVENT and the SMBus cause (20 R459, R464). -/
def State.powerCycleRequest (s : State) : State :=
  ({ s with smbus := { s.smbus with causes := s.smbus.causes ||| 1 } }.event 0xD7 0).emit (.alert true)

/-- Engine resets of every engine that holds a context's work (15 R360). -/
def State.resetEnginesOf (s : State) (i : CtxId) : State :=
  s.each (s.clustersOf i.part) (fun s c =>
    let s := if s.bats.any (fun e => e.1 / 64 == c && (e.2.owner == some i || e.2.rsv == some i) && e.2.st != .empty) then s.engineReset c 0 0 false else s
    let s := s.each (List.range 4) (fun s e =>
      if (s.descsOf i).any (fun key => key / 64 == c && key / 16 % 4 == e && (tget s.descs key Desc.reset).st != .free) then s.engineReset c 1 e false else s)
    if s.ring.jobs.any (fun j => j.cluster == c && j.owner == i) then s.engineReset c 2 0 false else s)

/-- A partition reset, or a chip reset where the cluster belongs to none. -/
def State.resetHolder (s : State) (c : Nat) (trigger : Nat) : State :=
  match s.partOf c with
  | some p => s.orderLevel 3 trigger (some p) c (fun s => (s.orderPartReset p false).1)
  | none => s.orderLevel 4 trigger none c (fun s => (s.orderChipReset true).1)

def stepEscalate (t : EscTrigger) (s : State) : State :=
  if s.compDown 37 then s
  else match t with
  | .contextReset p k =>
    if (s.ctx p.val k.val).st = 8 then
      s.orderLevel 2 0 (some p.val) 0 (fun s => s.resetEnginesOf (s.ident p.val k.val))
    else s
  | .hang c => if (s.clY c.val).isoTried && (s.clY c.val).engHang && !(s.clY c.val).isoActive then s.resetHolder c.val 0xC0 else s
  | .partitionReset p =>
    if s.orders.any (fun o => o.target == p.val && !o.held && decide (o.at_ + 3000000000 ≤ s.now)) then s.orderLevel 4 0 (some p.val) 0 (fun s => (s.orderChipReset true).1) else s
  | .noRoute => s.orderLevel 4 St.noRoute none 0 (fun s => (s.orderChipReset true).1)
  | .chipReset => if s.health.level = 4 then s.orderLevel 5 0 none 0 State.powerCycleRequest else s
  | .noCluster =>
    if s.boot.done.testBit 5 && s.boot.readyClusters = 0 then s.orderLevel 5 0 none 0 State.powerCycleRequest else s

/-- ESCALATE (15 R360), by the recovery component once it is up (18 R414); log entry 88. -/
def execEscalate (trigger : EscTrigger) (s : State) : Host.Outcome State Fault Refusal := .next (stepEscalate trigger s)

end Sys2Proof.Machine
end

