-- ==== Sys2Proof/Machine/Boot.lean ====
section
/-! DEFINITION. Bring-up stages, report records and the floor plan (16 R368-R389). -/
namespace Sys2Proof.Machine

/-! The floor-plan record (16 R382-R386). -/

/-- The ledger entry numbers of permanent and shipped-defective units (13 R319, 16 R371). -/
def State.defects (s : State) : List Nat := (s.ledger.work.filter (fun e => decide (2 ≤ ledState e.2))).map (·.1)

/-- Defective tiles of a cluster as 16y + x: the tile or its slab (16 R383). -/
def defTiles (ds : List Nat) (c : Nat) : List Nat :=
  (ds.filterMap (fun n =>
    let ta := if 64 ≤ n && n < 8256 then n - 64 else if 8256 ≤ n && n < 16448 then n - 8256 else 8192
    if ta < 8192 && taC ta == c then some (16 * taY ta + taX ta) else none)).eraseDups

/-- A mask of bits. -/
def maskOf (l : List Nat) : Nat := l.foldl (fun n i => n ||| 2 ^ i) 0

/-- Does a skip value map logical rows y0 to y0 + h - 1 past the defective rows (16 R385)? -/
def rowsOk (bad : List Nat) (k y0 h : Nat) : Bool := (List.range h).all (fun i => !bad.contains (physRow k (y0 + i)))

/-- Is some skip value right for a column? -/
def colOk (bad : List Nat) (y0 h : Nat) : Bool := (31 :: List.range 17).any (fun k => rowsOk bad k y0 h)

/-- The defective rows of each column that has any. -/
def badCols (tiles : List Nat) : List (Nat × List Nat) :=
  ((List.range 16).map (fun x => (x, (tiles.filter (fun i => i % 16 == x)).map (· / 16)))).filter (fun e => !e.2.isEmpty)

/-- MAX_ROWS and the lowest Y0 that achieves it (16 R385). -/
def maxRows (cols : List (Nat × List Nat)) : Nat × Nat :=
  (((List.range 16).map (fun n => 16 - n)).findSome? (fun h =>
    ((List.range (17 - h)).find? (fun y0 => cols.all (fun e => colOk e.2 y0 h))).map (fun y0 => (h, y0)))).getD (0, 0)

/-- SKIP of a column (16 R385). -/
def skipOf (cols : List (Nat × List Nat)) (m : Nat × Nat) (x : Nat) : Nat :=
  match cols.find? (fun e => e.1 == x) with
  | none => 31
  | some (_, bad) =>
    if bad == [16] then 16
    else ((List.range 17).find? (fun k => bad.contains k && rowsOk bad k m.2 m.1)).getD 31

/-- Defective physical slices of a cluster. -/
def defSlices (ds : List Nat) (c : Nat) : List Nat :=
  ds.filterMap (fun n => if 16448 ≤ n && n < 17504 && (n - 16448) / 66 == c then some ((n - 16448) % 66) else none)

/-- The cluster record (16 R383), with its READY_TS. -/
def clusterRec (ds : List Nat) (c readyTs : Nat) : Nat :=
  let t := defTiles ds c
  let cols := badCols t
  let m := maxRows cols
  let sl := defSlices ds c
  pack ([(272, maskOf t), (16, 0), (66, maskOf sl), (30, 0)] ++ (List.range 16).map (fun x => (5, skipOf cols m x)) ++
    [(9, 272 - t.length), (5, m.1), (1, b2n (decide (m.1 < 16))), (7, 66 - sl.length), (26, 0), (64, readyTs), (448, 0)])

/-- The clusters whose MAX_ROWS is below 16. -/
def degradedMask (ds : List Nat) : Nat := maskOf ((List.range 16).filter (fun c => decide ((maxRows (badCols (defTiles ds c))).1 < 16)))

/-- The module record (16 R384). -/
def moduleRec (ds : List Nat) : Nat :=
  let part := fun (lo n : Nat) => maskOf (ds.filterMap (fun d => if lo ≤ d && d < lo + n then some (d - lo) else none))
  let deg := degradedMask ds
  pack [(272, part 18016 272), (16, 0), (192, part 18288 192), (32, part 18480 32), (136, part 18512 136), (376, 0),
    (512, part 17504 512), (16, deg), (1, b2n (deg == 0)), (495, 0)]

/-- The whole record but for its header (16 R382). -/
def planBody (ds : List Nat) (readyTs : Nat → Nat) : Nat :=
  pack ((List.range 16).map (fun c => (1024, clusterRec ds c (readyTs c))) ++ [(2048, moduleRec ds)])

/-- The header (16 R382). -/
def planHead (seq opSec now hash crc : Nat) : Nat :=
  pack [(16, 1), (16, 0x00B4), (8, 1), (24, 0), (32, seq), (32, opSec), (64, now), (64, hash), (224, 0), (32, crc)]

/-- The floor plan changes (16 R385, R386): the record with its hash and CRC, FP_SEQ, and what is sent; log entry 76. -/
def State.refreshFp (s : State) : State :=
  let ds := s.defects
  let deg := degradedMask ds
  let hash := bf (Config.sha384 (leBytes 2368 (planHead 0 0 0 0 0 + 2 ^ 512 * planBody ds (fun _ => 0)))) 0 64
  let seq := wrapAdd 32 s.boot.fpSeq 1
  let body := 2 ^ 512 * planBody ds (fun c => (s.clY c).readyTs)
  let crc := (crc32c (leBytes 2368 (planHead seq s.ledger.opSec s.now hash 0 + body))).toNat
  let old := s.boot.degraded
  let first := deg != 0 && !s.boot.unserviceableSent
  let s := { s with
    boot := { s.boot with
      fpSeq := seq, degraded := deg, serviceable := deg == 0, fpHash := hash, unserviceableSent := s.boot.unserviceableSent || deg != 0
      fpRec := BitVec.ofNat 18944 (planHead seq s.ledger.opSec s.now hash crc + body) }
    health := { s.health with fpStale := false } }
  let s := s.each (List.range 16) (fun s c => s.updClY c (fun y => { y with degraded := deg.testBit c }))
  let s := (s.event 0xD4 0).irqPf 1
  let s := s.each ((List.range 16).filter (fun c => deg.testBit c && !old.testBit c)) (fun s c => s.event 0xD1 c)
  if first then s.event 0xD2 0 else s

def stepFloorplanChange (s : State) : State := if s.boot.fpValid && s.health.fpStale then s.refreshFp else s

/-- FLOORPLAN_CHANGE (16 R386): a unit has become permanent. -/
def execFloorplanChange (s : State) : Host.Outcome State Fault Refusal := .next (stepFloorplanChange s)

/-! Stages and report records (16 R368, R369, R380). -/

/-- The instances of a stage (16 R380). -/
def stageUnits (stage : Nat) : List Nat :=
  if stage = 2 || stage = 7 then List.range 4 else if stage = 5 then List.range 16
  else if stage = 6 then List.range 12 ++ (List.range 32).map (· + 16) else [0]

/-- Has an instance started and not finished? -/
def State.stageOpen (s : State) (stage unit_ : Nat) : Bool :=
  thas s.boot.starts (stageKey stage unit_) && !s.boot.finished.contains (stageKey stage unit_)

/-- A report record of an instance (16 R380): the log, the belfry, the interrupt, GLB_STAGE and the alert; log entry 75. -/
def State.stageReport (s : State) (stage unit_ result status : Nat) : State :=
  let key := stageKey stage unit_
  let start := tget s.boot.starts key s.now
  let late := match s.boot.reports.find? (fun e => e.1 == key) with
    | some (_, r) => bf r 4 4 == 3 && decide (start ≤ bf r 64 64)
    | none => false
  let ds := (s.ledger.perm.filter (fun e => decide (start ≤ e.2))).map (·.1)
  let status := if status = 0 then (ds.head?.map (fun n => bf (tget s.ledger.work n 0) 24 8)).getD 0 else status
  let bits := pack ([(4, stage), (4, if result = 0 && !ds.isEmpty then 1 else result), (8, status), (8, unit_),
    (3, if late then 3 else s.boot.cause), (5, 0), (32, (s.now - start) / 1000), (64, s.now), (16, ds.length), (1, b2n (decide (6 < ds.length))), (15, 0)] ++
    (List.range 6).map (fun i => (16, ds.getD i 0xFFFF)) ++ [(256, 0)])
  let s := s.log_ 0x02 (if stage ≤ 3 then 0 else 2) (if stage ≤ 3 then 0 else 1) 64 bits
  let reports := tset s.boot.reports key (BitVec.ofNat 512 bits)
  let all := (stageUnits stage).all (fun u => thas reports (stageKey stage u))
  let s := { s with boot := { s.boot with
    reports
    finished := if result = 3 then s.boot.finished else s.boot.finished ++ [key]
    done := if all then s.boot.done ||| 2 ^ stage else s.boot.done
    lastStatus := if result = 2 || result = 3 then status else s.boot.lastStatus } }
  let s := if (s.boot.done &&& 0xFE) == 0xFE then { s with health := { s.health with level := 0 } } else s
  let s := (s.report 0x03 bits).irqPf 0
  if result = 2 then ({ s with smbus := { s.smbus with causes := s.smbus.causes ||| 8 } }).emit (.alert true) else s

/-- The instances that start at the end of stage 1 or stage 4 (16 R368), but for those that a bound has started already (16 R369). -/
def State.startAfter (s : State) (stage : Nat) : State :=
  let l := if stage = 1 then (List.range 4).filter (fun p => !(s.port p).perst) else if stage = 4 then List.range 16 else []
  s.each (l.filter (fun u => !thas s.boot.starts (stageKey (stage + 1) u))) (fun s u => s.startStage (stage + 1) u)

def stepStageBound (stage idx : Nat) (s : State) : State :=
  if s.stageOpen stage idx && (stageUnits stage).contains idx then (s.stageReport stage idx 3 0).startAfter stage else s

/-- STAGE_BOUND (16 R369): an instance that has not finished reports as timed out and goes on; the stage ends, and what follows its end
starts; log entry 126. -/
def execStageBound (stage idx : Nat) (s : State) : Host.Outcome State Fault Refusal := .next (stepStageBound stage idx s)

/-! Power-good and stage 1 (16 R368, R371, 21 R480). -/

/-- What power-good leaves (21 R480, 22 R497): reset values but for what the SPI NOR, the harness and the ports hold; the timestamp
is 0 and stage 0 begins. -/
def State.powerGood (s : State) : State :=
  let r := State.reset
  let l := s.ledger
  let stored := s.belfry.storedHigh + 4096
  let s := { r with
    pending := s.pending, freeCtr := s.freeCtr, out := s.out
    hosts := { r.hosts with ports := tmap s.hosts.ports (fun _ q => { Port.reset with perst := q.perst }) }
    ledger := { r.ledger with copyA := l.copyA, copyB := l.copyB, seq := l.seq }
    boot := { r.boot with powerGood := true }
    fw := { r.fw with svnFloor := s.fw.svnFloor }
    pwr := { r.pwr with pwrEn := s.pwr.pwrEn, on := true, vin := s.pwr.vin, vinSamples := s.pwr.vinSamples, ilim := s.pwr.ilim, vinBand := s.pwr.vinBand, modRst := s.pwr.modRst }
    belfry := { r.belfry with key := s.belfry.key, high := stored, storedHigh := s.belfry.storedHigh }
    health := { r.health with keyDrawn := s.health.keyDrawn + 1 } }
  ((s.startStage 0 0).stageReport 0 0 0 0).startOne

def stepPowerGood (s : State) : State := if s.pwr.on && !s.boot.powerGood then s.powerGood else s

/-- POWER_GOOD (21 R480, 16 R368): stage 0 begins, and ends as its parties answer from then on (log entry 41). -/
def execPowerGood (s : State) : Host.Outcome State Fault Refusal := .next (stepPowerGood s)

/-- The unit of a ledger entry number (13 R318). -/
def unitOfNo (n : Nat) : Nat × Nat :=
  if n < 64 then (0, n) else if n < 8256 then (1, n - 64) else if n < 16448 then (2, n - 8256) else if n < 17504 then (3, n - 16448)
  else if n < 18016 then (4, n - 17504) else if n < 18288 then (5, n - 18016) else if n < 18480 then (6, n - 18288)
  else if n < 18512 then (7, n - 18480) else (8, n - 18512)

/-- The current version of an entry, of the copies that list it (13 R320): none if no listed version is valid; log entry 78. -/
def Ledger.current (l : Ledger) (n : Nat) : Option LedgerEntry :=
  let a := tget l.copyA n 0
  let b := tget l.copyB n 0
  if l.inA n then some a else if ledgerOk b then some b else none

/-- The entry numbers that a copy lists. -/
def Ledger.listed (l : Ledger) : List Nat := ((l.copyA.map (·.1)) ++ l.copyB.map (·.1)).eraseDups

/-- A damaged entry (16 R371): transient-suspect, LEDGER_DAMAGED. -/
def damagedEntry (n : Nat) : LedgerEntry :=
  let u := unitOfNo n
  BitVec.ofNat 512 (setField (setField (blankEntry u.1 u.2).toNat 4 4 1) 24 8 0xD3)

def stepBootLedgerRead (s : State) : State :=
  if !s.boot.powerGood || !s.stageOpen 1 0 then s
  else
    let l := s.ledger
    let ns := l.listed.filter (fun n => n != 0 && !l.dirty.contains n)
    let work := ns.foldl (fun t n => tset t n ((l.current n).getD (damagedEntry n))) (l.work.filter (fun e => l.dirty.contains e.1))
    let bad := ns.filter (fun n => (l.current n).isNone)
    let badHead := l.listed.contains 0 && (l.current 0).isNone
    let last := (work.filter (fun e => ledLast e.2 != 0xFFFFFFFF)).foldl (fun m e => max m (ledLast e.2)) 0
    let opSec := if s.boot.cause = 0 then (if badHead then last else (l.current 0).elim 0 (fun e => bf e 64 32)) else l.opSec
    let dirty := l.dirty ++ bad
    let s := { s with
      ledger := { l with work, dirty, opSec, retests := [] }
      boot := { s.boot with fpValid := true }
      orders := s.orders.filter (fun o => o.target != 16) }
    let s := s.each (work.filter (fun e => ledState e.2 != 0)) (fun s e =>
      let u := unitOfNo e.1
      let st := ledState e.2
      let s := if st = 1 then { s with ledger := { s.ledger with retests := s.ledger.retests ++ [(u.1, u.2, 0)] } } else s
      if st = 1 && (u.1 == 3 || u.1 == 6 || u.1 == 7) && !bad.contains e.1 then s else s.muffleUnit u.1 u.2)
    let hurt := badHead || !bad.isEmpty
    let s := if hurt then s.event 0xD3 0 else s
    let s := s.refreshFp.stageReport 1 0 (b2n hurt) (if hurt then 0xD3 else 0)
    let s := s.answer waitModule St.completed
    s.startAfter 1

/-- BOOT_LEDGER_READ (16 R371, R386): the boot map and the floor-plan record; a chip reset under way ends here (log entry 42). -/
def execBootLedgerRead (s : State) : Host.Outcome State Fault Refusal := .next (stepBootLedgerRead s)

/-! Stage 4 (16 R374). -/

/-- Bytes filled up to a multiple of 32. -/
def pad32 (bs : List Byte) : List Byte := bs ++ List.replicate ((32 - bs.length % 32) % 32) 0

/-- The lowest cluster with two in-service slices, and those slices' addresses (16 R374). -/
def State.pealSlices (s : State) : Option (Nat × Nat × Nat) :=
  (List.range 16).findSome? (fun c =>
    match (List.range 66).filter (fun ph => (s.slice c ph).st == 0 && (s.slice c ph).logical != 0x7F) with
    | a :: b :: _ =>
      let base := fun (ph : Nat) => 0x40000000000 + c * 0x8000000 + (s.slice c ph).logical * 0x100000
      some (c, base a, base b)
    | _ => none)

/-- One peal of the scheduler core and its record. -/
def State.schedPeal (s : State) (c targets kind dpa len : Nat) : State :=
  let id := s.msg.peals.foldl (fun n x => max n (x.id + 1)) 0
  let s := stepPeal (Fin.ofNat 16 c) true targets kind 0 dpa len s
  let late := match s.msg.peals.find? (fun x => x.id == id) with
    | some x => (x.failed.filter (fun e => e.2 == 3)).map (·.1)
    | none => []
  let s := stepPealCompletion id s
  s.each late (fun s ta =>
    stepPealCompletion id (stepPeal (Fin.ofNat 16 c) true (2 ^ taC ta + 2 ^ 16 * 2 ^ taX ta + 2 ^ 32 * 2 ^ taY ta) kind 0 dpa len s))

def stepCarillonBroadcast (s : State) : State :=
  if !s.boot.bundle || !s.stageOpen 4 0 then s
  else
    let s := s.each (List.range 16) (fun s c => s.updClX c (fun x => { x with carState := 2, bySched := true, carForced := false }))
    let s := match s.pealSlices with
      | none => s
      | some (c, a, b) =>
        let core := pad32 (bundleParts s.fw.store 3)
        let code := pad32 (bundleParts s.fw.store 4)
        let s := (s.store a core).store b code
        (s.schedPeal c (2 ^ 33 - 1) 2 a core.length).schedPeal c (2 ^ 49 - 1) 1 b code.length
    (s.stageReport 4 0 0 0).startAfter 4

/-- CARILLON_BROADCAST (16 R374). -/
def execCarillonBroadcast (s : State) : Host.Outcome State Fault Refusal := .next (stepCarillonBroadcast s)

/-! Stage 5 (16 R375, R376, R379). -/

/-- The default configuration of a cluster (16 R376). -/
def State.defaultCfg (s : State) (c : Nat) : ClusterCfg :=
  let ds := s.defects
  let cols := badCols (defTiles ds c)
  let m := maxRows cols
  let good := (List.range 66).filter (fun ph => (s.slice c ph).st != 3)
  { ClusterCfg.reset with
    skips := (List.range 16).map (fun x => (x, skipOf cols m x))
    slices := (List.range 64).filterMap (fun n => good[n]?.map (fun ph => (n, ph))) }

/-- The tap cycle and the marches of stage 5 on a cluster (16 R375 steps 1 and 2). -/
def State.testCluster (s : State) (c : Nat) : State :=
  let s := s.each ((tilesOf c).filter (fun ta => !s.muffledTile ta)) (fun s ta => s.updTile ta (fun t => { t with
    core := { t.core with pad := [], plane0 := 0, plane1 := 0 }
    ctl := { t.ctl with resValid := 0, cur := none }
    test := { t.test with
      done := 0, cycleAt := s.ledger.opSec, overdue := false, forced := false
      march := (List.range 12).map (fun b => (b, s.ledger.opSec)) } }))
  s.each (List.range 64) (fun s n => s.zeroSlice c n)

/-- The tiles of a cluster without the service code, which fail every slice of stage 5 (16 R374, 14 R336, 13 R315). -/
def State.failUncoded (s : State) (c : Nat) : State :=
  let code := bundleParts s.fw.store 4
  s.each ((tilesOf c).filter (fun ta => !s.muffledTile ta && mbytes (s.tile ta).test.service 0 code.length != code)) (fun s ta =>
    ((s.raise (unitRec 0xB6 1 ta)).confirm 2 ta 3 0xB6).confirm 1 ta 3 0xB6)

/-- Do retests of a cluster's tiles, slices or mesh links hold its stage 5, before the stage's bound (16 R368, R375 step 4)? -/
def State.retestsHold (s : State) (c : Nat) : Bool :=
  decide (s.now < tget s.boot.starts (stageKey 5 c) 0 + 2000000000) && s.ledger.retests.any (fun r => r.2.2 != 1000 &&
    (if r.1 = 1 || r.1 = 2 then taC r.2.1 == c else if r.1 = 3 then r.2.1 / 66 == c else if r.1 = 4 then r.2.1 / 32 == c else false))

def stepClusterSelfTest (c : Fin 16) (pass : Bool) (s : State) : State :=
  let c := c.val
  if !s.stageOpen 5 c || (s.clock c).code != 40 then s
  else
    let s := if pass then s.failUncoded c else s
    if pass && s.retestsHold c then s
    else
    let all := (tilesOf c).all (fun ta => s.muffledTile ta)
    if !pass then s.stageReport 5 c 2 St.pealPartial
    else if all then s.stageReport 5 c 2 St.unitMuffled
    else
      let s := s.testCluster c
      let s := if (s.partOf c).isSome then s
        else
          let g := s.defaultCfg c
          ({ s with cfg := { s.cfg with clusters := tset s.cfg.clusters c g } }).mapSlices c g
      let s := { s with boot := { s.boot with readyClusters := s.boot.readyClusters ||| 2 ^ c } }
      let s := (s.updClY c (fun y => { y with ready := true, readyTs := s.now })).updClX c (fun x => { x with
        carState := 0, bySched := false, carForced := false })
      let s := (s.stageReport 5 c 0 0).tilesChanged c
      let s := { s with boot := { s.boot with fpComplete := s.boot.fpComplete || s.boot.done.testBit 5 } }
      s.refreshFp

/-- CLUSTER_SELF_TEST (16 R375, R376, R378, R379, R386), once FREQ_CODE reads 40 (01 R41) and, before the stage's bound,
no retest of the cluster's units is pending: the operand says whether the control core runs; defects arrive as slices'
results. -/
def execClusterSelfTest (c : Fin 16) (pass : Bool) (s : State) : Host.Outcome State Fault Refusal := .next (stepClusterSelfTest c pass s)

/-! Stages 6 and 7 (16 R377). -/

/-- Does an address lie in a channel: 0-191 HBM, 192 on far tier? -/
def inChan (n dpa : Nat) : Bool :=
  match home dpa with
  | .hbm _ ch => ch == n
  | .far f => 192 + f == n
  | _ => false

/-- A channel is written whole and zero-filled (16 R377). -/
def State.zeroChan (s : State) (n : Nat) : State :=
  { s with mem := { s.mem with
    bytes := s.mem.bytes.filter (fun e => !inChan n e.1), poison := s.mem.poison.filter (fun l => !inChan n (64 * l)) } }

def stepMemoryTraining (chan : Nat) (pass : Bool) (s : State) : State :=
  let unit_ := if chan < 192 then chan / 16 else chan - 176
  if 224 ≤ chan || !s.boot.bundle || (s.chan chan).st != 0 then s
  else
    let s := if pass then (s.zeroChan chan).updChan chan (fun x => { x with st := 1 })
      else
        let src := (s.freeVal 4).toNat
        let cause := (Config.free 8 (s.freeCtr + 1)).toNat
        let k := if chan < 192 then (6, chan) else (7, chan - 192)
        ((s.drew 2).confirm k.1 k.2 src cause).muffleUnit k.1 k.2
    let s := s.chanReady chan
    if chan < 192 then
      let chs := (List.range 16).map (fun i => 16 * (chan / 16) + i)
      if chs.any (fun n => (s.chan n).st == 0) then s
      else
        let ok := chs.any (fun n => (s.chan n).st == 1)
        if s.stageOpen 6 unit_ then s.stageReport 6 unit_ (if ok then 0 else 2) (if ok then 0 else St.unitMuffled) else s
    else if s.stageOpen 6 unit_ then s.stageReport 6 unit_ (if pass then 0 else 2) (if pass then 0 else St.unitMuffled) else s

/-- MEMORY_TRAINING (16 R377): the operand says whether the channel trained; SOURCE and cause of a failure are not given (log entry 4). -/
def execMemoryTraining (chan : Nat) (pass : Bool) (s : State) : Host.Outcome State Fault Refusal := .next (stepMemoryTraining chan pass s)

def stepRingPortTraining (port : Fin 4) (pass : Bool) (s : State) : State :=
  let s := s.portReady port.val pass
  if pass && s.stageOpen 7 port.val && s.portUpRing port.val then s.stageReport 7 port.val 0 0 else s

/-- RING_PORT_TRAINING (16 R377, 19 R437): a port that does not pass keeps trying. -/
def execRingPortTraining (port : Fin 4) (pass : Bool) (s : State) : Host.Outcome State Fault Refusal := .next (stepRingPortTraining port pass s)

end Sys2Proof.Machine
end

