-- ==== Sys2Proof/Machine/Fwx.lean ====
section
/-! DEFINITION. Theldo firmware: loading a bundle, component traps and restarts, thread 3 faults, the thermal trip (18 R409-R416, R424). -/
namespace Sys2Proof.Machine

/-! The bundle (18 R411, R412). -/

/-- The stepping code of this module, A1 (22 R500). -/
def stepping : Nat := 0x01

/-- The header of a bundle as a number. -/
def fwHead (m : Mem) : Nat := mread m 0 128
def fwLen (h : Nat) : Nat := field h 96 32
def fwComps (h : Nat) : Nat := field h 80 6
def fwVersion (h : Nat) : Nat := field h 128 32
def fwSvn (h : Nat) : Nat := field h 160 32

/-- Where the key block, the signature and the component data lie. -/
def fwKeyAt (h : Nat) : Nat := 128 + 64 * fwComps h
def fwSigAt (h : Nat) : Nat := fwKeyAt h + 104
def fwDataAt (h : Nat) : Nat := (fwSigAt h + 96 + 63) / 64 * 64

/-- The entries of the component table. -/
def fwEntries (m : Mem) : List Nat := (List.range (fwComps (fwHead m))).map (fun i => mread m (128 + 64 * i) 64)

/-- The components a bundle must hold, as target and number (18 R409, R411). -/
def fwSet : List (Nat × Nat) :=
  (List.range 5).map (fun i => (0, i)) ++ (List.range 4).map (fun i => (1, i)) ++ (List.range 6).map (fun i => (2, i)) ++
    (List.range 4).map (fun i => (3, i)) ++ [(4, 0), (5, 0), (6, 0)]

/-- Check 1 (18 R412): format. -/
def fwFormatOk (m : Mem) (len : Nat) : Bool :=
  let h := fwHead m
  field h 0 32 == 0x544C4430 && field h 32 16 == 1 && field h 86 10 == 0 && field h 192 832 == 0 && decide (fwLen h ≤ len) &&
    decide (1 ≤ fwComps h) && decide (fwComps h ≤ 32) && decide (fwSigAt h + 96 ≤ fwLen h) &&
    (fwEntries m).all (fun e => field e 11 21 == 0 && field e 96 32 == 0) && mread m (fwKeyAt h + 97) 7 == 0

/-- Check 4: the key and the signature. -/
def fwSigned (m : Mem) : Bool :=
  let h := fwHead m
  Config.sha384 (mbytes m (fwKeyAt h) 97) == Config.romDigest &&
    Config.ecdsaOk (mbytes m (fwKeyAt h) 97) (Config.sha384 (mbytes m 0 (fwSigAt h))) (BitVec.ofNat 768 (mread m (fwSigAt h) 96))

/-- Check 6: the component set, sizes and ranges. -/
def fwSetOk (m : Mem) : Bool :=
  let h := fwHead m
  let es := fwEntries m
  let size := fun (e : Nat) => field e 64 32
  es.length == fwSet.length && fwSet.all (fun c => (es.filter (fun e => field e 8 3 == c.1 && field e 0 8 == c.2)).length == 1) &&
    es.all (fun e => field e 32 32 % 64 == 0 && decide (fwDataAt h ≤ field e 32 32) && decide (field e 32 32 + size e ≤ fwLen h) &&
      (if field e 8 3 ≤ 2 then decide (size e ≤ 524288) else if field e 8 3 = 4 then decide (size e ≤ 4096)
       else if field e 8 3 = 6 then size e == 97 else true)) &&
    decide (((es.filter (fun e => field e 8 3 == 3)).map size).sum ≤ 65536)

/-- Check 7: the digests. -/
def fwDigestsOk (m : Mem) : Bool :=
  (fwEntries m).all (fun e => Config.sha384 (mbytes m (field e 32 32) (field e 64 32)) == BitVec.ofNat 384 (field e 128 384))

/-- The checks of a bundle in order (18 R412): 0, or the status of the first that fails. -/
def fwCheck (m : Mem) (len floor : Nat) : Nat :=
  let h := fwHead m
  if !fwFormatOk m len then 0xE0
  else if field h 48 16 != 0x00B4 then 0x44
  else if stepping < field h 64 8 || field h 72 8 < stepping then 0xE1
  else if !fwSigned m then 0x47
  else if fwSvn h < floor then 0xE2
  else if !fwSetOk m then 0xE0
  else if !fwDigestsOk m then 0xE3
  else 0

/-- A PF's loader. -/
def State.loader (s : State) (port : Nat) : FwStager := tget s.fw.loads port FwStager.reset
def State.updLoader (s : State) (port : Nat) (f : FwStager → FwStager) : State :=
  { s with fw := { s.fw with loads := tset s.fw.loads port (f (s.loader port)) } }

def stepFwLoad (fn : Fn) (val : Dword) (s : State) : State :=
  match fn with
  | .pf port =>
    let p := port.val
    let len := bf val 32 25
    let x := s.loader p
    if !s.boot.done.testBit 1 then s
    else if 16777216 < len then s.refuseG fn 0x50 6 val.toNat
    else
      let s := s.updLoader p (fun x => { x with len })
      if !val.toNat.testBit 0 || x.go then s
      else if s.boot.bundle then s.updLoader p (fun x => { x with result := 0xE4 })
      else if s.fw.loadBy.isSome then s.updLoader p (fun x => { x with result := 0xE5 })
      else
        let s := s.updLoader p (fun x => { x with go := true })
        let s := { s with fw := { s.fw with store := mslice x.buf 0 len 0, storeLen := len, loadBy := some p } }
        if s.stageOpen 3 0 then s else s.startStage 3 0
  | _ => s

/-- FW_LOAD (18 R412, R413): one 8-byte write of GLB_FW_LOAD by a PF; log entry 39. -/
def execFwLoad (fn : Fn) (val : Dword) (s : State) : Host.Outcome State Fault Refusal := .next (stepFwLoad fn val (s.unlatch fn))

/-- Every router comes up with the default tables, and the seams are retrained (01 R28); muffled link groups and seams stay down (16 R374). -/
def State.startRouters (s : State) : State :=
  let s := (s.each (List.range 16) (fun s c => s.updRouter c (fun r => { r with down := 0 }))).each (List.range 4) State.retrainSeam
  let s := s.each (List.range 32) (fun s g => if (s.health.links.filter (fun l => l / 16 == g)).length == 16 then s.linkDown (g / 2) (g % 2 == 1) else s)
  let s := s.each (List.range 4) (fun s n => if s.seamLanes n < 32 then s.each (seamPairs n) (fun s e => s.linkDown e.1 e.2) else s)
  let rt := s.defaultRoutes
  s.each (List.range 16) (fun s c => s.updRouter c (fun r => { r with bank0 := tget rt c [], shadowValid := false }))

def stepFwVerified (s : State) : State :=
  match s.fw.loadBy with
  | none => s
  | some p =>
    let st := fwCheck s.fw.store s.fw.storeLen s.fw.svnFloor
    let s := { s with fw := { s.fw with loadBy := none } }
    if st != 0 then
      { s with fw := { s.fw with store := [], storeLen := 0 } }.updLoader p (fun x => { x with go := false, result := st })
    else
      let h := fwHead s.fw.store
      let s := { s with
        boot := { s.boot with bundle := true }
        fw := { s.fw with version := fwVersion h, svn := fwSvn h, restarts := 0 }
        cfg := if s.cfg.mgmtValid then s.cfg else { s.cfg with mgmtPort := p, mgmtValid := true } }
      let s := (s.updLoader p (fun x => { x with go := false, result := St.completed })).startRouters
      let s := (s.stageReport 3 0 0 0).startStage 4 0
      let s := s.each (stageUnits 6) (fun s u => s.startStage 6 u)
      s.each (List.range 4) (fun s p => s.startStage 7 p)

/-- FW_VERIFIED (18 R412, 16 R373, R374): the checks end; a good bundle ends stage 3. -/
def execFwVerified (s : State) : Host.Outcome State Fault Refusal := .next (stepFwVerified s)

/-! Components (18 R414-R416). A component is 16 times its core plus its number: cores 0 security, 1 power management, 2 scheduler, 3 + c
cluster control. -/

/-- The core code of the log (18 R418). -/
def coreCode (core : Nat) : Nat := if core < 3 then core else 13 + core

/-- A component event (18 R418). -/
def State.logComp (s : State) (core comp status cause pc addr restarts : Nat) : State :=
  s.log_ 0x05 (coreCode core) comp 16 (pack [(8, status), (8, cause), (32, pc), (16, 0), (48, addr), (8, restarts), (8, 0)])

/-! Trace points (18 R420). -/

/-- The kind of core a trace point is on: 0 security, 1 power management, 2 scheduler, 3 the cluster control cores. -/
def pointCore (n : Nat) : Nat := if n < 128 then 0 else if n < 256 then 1 else if n < 512 then 2 else 3

/-- Is trace point n enabled (18 R427)? -/
def State.pointOn (s : State) (n : Nat) : Bool := (tget s.log.traceEn (n / 32) 0).toNat.testBit (n % 32)

/-- A component's trace entries of the present millisecond. -/
def State.tracedNow (s : State) (comp : Nat) : Nat :=
  let w := tget s.log.traced comp (0, 0)
  if w.1 = s.now / 1000000 then w.2 else 0

/-- A component reaches a trace point with its three arguments: one entry, at most 64 in a millisecond, further ones dropped and counted;
log entry 25. -/
def State.tracePoint (s : State) (comp n : Nat) (args : BitVec 96) : State :=
  if !s.pointOn n || pointCore n != min (comp / 16) 3 then s
  else if 64 ≤ s.tracedNow comp then { s with log := { s.log with traceDrop := satAdd 16 s.log.traceDrop 1 } }
  else { s with log := { s.log with traced := tset s.log.traced comp (s.now / 1000000, s.tracedNow comp + 1) } }.log_
    0x07 (coreCode (comp / 16)) (comp % 16) 16 (pack [(10, n), (22, 0), (96, args.toNat)])

/-- The trace points of a step in order. -/
def State.tracePoints (s : State) (comp : Nat) (l : List (Fin 1024 × BitVec 96)) : State :=
  l.foldl (fun s e => s.tracePoint comp e.1.val e.2) s

/-- The components a trap takes down: a supervisor's whole core. -/
def compSet (comp : Nat) : List Nat := if comp % 16 = 0 then (List.range 6).map (· + comp) else [comp]

/-- What is held or dropped while a component is down (18 R414). A skip swap that ends with SUPERSEDED leaves its section to a further
REPLACEMENT; log entry 127. -/
def State.holdComp (s : State) (comp : Nat) : State :=
  let core := comp / 16
  if comp = 19 then s.each (List.range 16) (fun s c => s.skipSlices c)
  else if comp = 35 then s.each (List.range 16) (fun s c => s.releaseHold c)
  else if comp = 36 then s.each (List.range 16) (fun s c => s.updRouter c (fun r => { r with shadowValid := false }))
  else if 3 ≤ core && comp % 16 = 2 then
    let s := s.each ((s.clY (core - 3)).skips) (fun s e => s.updBatX (core - 3) e.2.2 (fun x => { x with plan := if x.plan = 1 then 0 else x.plan }))
    s.updClY (core - 3) (fun y => { y with skips := [] })
  else if 3 ≤ core && comp % 16 = 3 then
    s.updClX (core - 3) (fun x => if x.msgCtl.toNat.testBit 0 then
      { x with msgCtl := BitVec.ofNat 64 (setField (setField x.msgCtl.toNat 0 1 0) 56 8 St.superseded) } else x)
  else s

/-- The order a failed component makes (18 R416), within ESC_LIMIT. -/
def State.failComp (s : State) (comp : Nat) : State :=
  let core := comp / 16
  let s := { s with fw := { s.fw with failed := true, dead := s.fw.dead ++ [comp] } }
  let s := s.event 0xE7 (core - 3)
  if 3 ≤ core then s.resetHolder (core - 3) 0xE7
  else s.orderLevel 4 0xE7 none 0 (fun s => (s.orderChipReset true).1)

def stepComponentTrap (comp cause : Nat) (pc : Word) (addr : BitVec 48) (trace : List (Fin 1024 × BitVec 96)) (s : State) : State :=
  if 304 ≤ comp || !s.boot.bundle || s.compDown comp then s
  else
    let s := s.tracePoints comp trace
    let times := s.now :: (tget s.fw.times comp []).filter (fun t => decide (s.now < t + 60000000000))
    let s := { s with fw := { s.fw with
      times := tset s.fw.times comp times, down := (s.fw.down ++ compSet comp).eraseDups } }
    let s := (compSet comp).foldl (fun s n => s.holdComp n) s
    let s := s.logComp (comp / 16) (comp % 16) 0xE6 (if comp % 16 = 0 then 4 else cause) pc.toNat addr.toNat times.length
    if 3 ≤ times.length then s.failComp comp else s

/-- COMPONENT_TRAP (18 R414, R416, R420): trace lists the trace points that the component reaches before it traps. -/
def execComponentTrap (comp cause : Nat) (pc : Word) (addr : BitVec 48) (trace : List (Fin 1024 × BitVec 96)) (s : State) :
    Host.Outcome State Fault Refusal :=
  .next (stepComponentTrap comp cause pc addr trace s)

def stepComponentRestart (comp : Nat) (s : State) : State :=
  let sup := comp / 16 * 16
  if !s.compDown comp || s.fw.dead.contains comp || (comp != sup && s.compDown sup) then s
  else
    let s := { s with fw := { s.fw with
      down := s.fw.down.filter (fun n => !(compSet comp).contains n || s.fw.dead.contains n), restarts := satAdd 16 s.fw.restarts 1 } }
    if comp = 33 || comp = 34 then s.each (List.range 16) (fun s c => s.tilesChanged c) else s

/-- COMPONENT_RESTART (18 R414): the component is up again and its held duties go on; a supervisor
that is down restarts its whole core first. -/
def execComponentRestart (comp : Nat) (s : State) : Host.Outcome State Fault Refusal := .next (stepComponentRestart comp s)

def stepThread3Fault (t : TileId) (cause : Nat) (pc : Word) (addr : BitVec 48) (s : State) : State :=
  let ta := tileKey t
  let x := s.tile ta
  let times := s.now :: x.test.faults3.filter (fun n => decide (s.now < n + 60000000000))
  let s := s.logComp (3 + t.c.val) 0 0xE6 5 pc.toNat addr.toNat times.length
  let s := if x.test.capture.isSome then
      s.updClX t.c.val (fun y => { y with lostCnt := satAdd 16 y.lostCnt 1 })
    else s
  let s := s.updTile ta (fun u => (u.updThread 3 (fun _ => Thread.reset)).updTest (fun y => { y with
    capture := none, faults3 := times, service := mwriteBytes [] 0 (bundleParts s.fw.store 4) }))
  let s := s.loseChecksOn ta
  let s := s.each (s.health.slices.filter (fun z => z.onTile ta)) (fun s z => s.skipSlice z 2)
  if 3 ≤ times.length then (s.suspect ta cause).updTile ta (fun u => u.updTest (fun y => { y with faults3 := [] })) else s

/-- THREAD_3_FAULT (18 R415): the operand cause is the status of R50, which a suspect event takes as its cause. -/
def execThread3Fault (t : TileId) (cause : Nat) (pc : Word) (addr : BitVec 48) (s : State) : Host.Outcome State Fault Refusal :=
  .next (stepThread3Fault t cause pc addr s)

def stepThermalTrip (temp : Nat) (s : State) : State :=
  if temp < 105 || !s.boot.powerGood then s
  else
    let s := { s with smbus := { s.smbus with causes := s.smbus.causes ||| 2, junction := temp % 256 } }
    let s := (s.event 0xE9 0).emit (.alert true)
    (s.orderChipReset true).1

/-- THERMAL_TRIP (18 R424, 20 R464): 105 °C held for 1 ms; the chip reset is not held by ESC_LIMIT (21 R479). -/
def execThermalTrip (temp : Nat) (s : State) : Host.Outcome State Fault Refusal := .next (stepThermalTrip temp s)

end Sys2Proof.Machine
end

