-- ==== Sys2Proof/Machine/Phys.lean ====
section
/-! DEFINITION. Power input, rails, coolant and the hard signals (21 R472-R493, 20 R465). -/
namespace Sys2Proof.Machine

/-- Every rail goes off (21 R481): power-good drops, both bypasses close, every pin but PRSNT# is released. What the SPI NOR holds
stays; the other state is lost, and takes its reset values at the next power-good. -/
def State.powerOff (s : State) : State :=
  let s := (s.closeBypass 0).closeBypass 1
  let s := { s with
    boot := { Boot.reset with fpRec := 0 }
    pwr := { s.pwr with on := false, offAt := some s.now }
    orders := []
    mon := Monitor.reset }
  (s.emit (.pin 0 false)).emit (.alert false)

/-- May the power-up sequence start (21 R476, R480)? After a shutdown on input range VIN must have been in its operating band for 10 ms. -/
def State.mayPowerUp (s : State) : Bool :=
  (!s.pwr.vinShut || (s.pwr.vinBand == 0 && decide (10000000 ≤ s.pwr.vinNs))) && s.pwr.pwrEn && !s.pwr.on && s.pwr.offAt.isNone && decide (4400 ≤ s.pwr.vin) && decide (s.pwr.vin ≤ 5600)

/-- The rails come up (21 R480). -/
def State.powerUp (s : State) : State := if s.mayPowerUp then { s with pwr := { s.pwr with on := true, vinShut := false } }.emit (.pin 0 true) else s

def stepPwrEnRise (s : State) : State := { s with pwr := { s.pwr with pwrEn := true } }.powerUp

/-- PWR_EN_RISE (21 R480). -/
def execPwrEnRise (s : State) : Host.Outcome State Fault Refusal := .next (stepPwrEnRise s)

def stepPwrEnFall (s : State) : State :=
  let s := { s with pwr := { s.pwr with pwrEn := false } }
  if s.pwr.on then s.powerOff else s

/-- PWR_EN_FALL (21 R481, 20 R465). -/
def execPwrEnFall (s : State) : Host.Outcome State Fault Refusal := .next (stepPwrEnFall s)

def stepPowerOffHoldEnd (s : State) : State :=
  if s.pwr.offAt.isSome then { s with pwr := { s.pwr with offAt := none } }.powerUp else s

/-- POWER_OFF_HOLD_END (21 R481). -/
def execPowerOffHoldEnd (s : State) : Host.Outcome State Fault Refusal := .next (stepPowerOffHoldEnd s)

/-- The band of VIN, in units of 10 mV (21 R476): 0 operating, 1 warning, 2 shutdown. -/
def vinBandOf (v : Nat) : Nat :=
  if 4400 ≤ v && v ≤ 5600 then 0 else if 4200 ≤ v && v ≤ 5800 then 1 else 2

/-- Nanoseconds that VIN has been in its band after one more sample of 10 µs. -/
def State.vinHeld (s : State) (v : Nat) : Nat := if vinBandOf v = s.pwr.vinBand then s.pwr.vinNs + 10000 else 10000

/-- What a band of the input held for n ns brings, where it was held for `was` ns before (21 R476): power-off, an event, power-up. -/
def State.vinActs (s : State) (b n was : Nat) : State :=
  if b = 2 then (if 100000 ≤ n && s.pwr.on then { s.powerOff with pwr := { s.powerOff.pwr with vinShut := true } } else s)
  else if b = 1 then
    if 1000000 ≤ n && (was < 1000000 || n = 10000) && s.boot.powerGood then
      ({ s with pwr := { s.pwr with inputEvt := true } }.event 0xDA 0).logPower 0 true 0 0 0xDA 0
    else s
  else if 10000000 ≤ n then s.powerUp else s

def stepVinSample (v : Nat) (s : State) : State :=
  let b := vinBandOf v
  let n := s.vinHeld v
  let was := s.pwr.vinNs
  let s := { s with pwr := { s.pwr with vin := v % 65536, vinSamples := (v % 65536 :: s.pwr.vinSamples).take 100, vinBand := b, vinNs := n } }
  (if s.pwr.ilimMs = s.now / 1000000 + 1 then s
    else { s with pwr := { s.pwr with ilim := s.iLimit, ilimMs := s.now / 1000000 + 1 } }).vinActs b n was

/-- VIN_SAMPLE (21 R476): a sample every 10 µs, in units of 10 mV. -/
def execVinSample (mv10 : Nat) (s : State) : Host.Outcome State Fault Refusal := .next (stepVinSample mv10 s)

def stepRailFault (rail ns : Nat) (s : State) : State :=
  if ns < 100000 || 54 < rail || rail < 2 || !s.boot.powerGood then s
  else
    let s := { s with pwr := { s.pwr with railEvt := true, rail } }
    let s := (s.event 0xDC rail).logPower 0 true 0 0 0xDC 0
    (s.orderChipReset true).1

/-- RAIL_FAULT (21 R479): a rail other than VAO and V3P3_AO out of regulation for ns nanoseconds. -/
def execRailFault (rail ns : Nat) (s : State) : Host.Outcome State Fault Refusal := .next (stepRailFault rail ns s)

/-- Is the coolant's inlet, or its outlet, out of range (21 R483)? -/
def inletBad (t : Nat) : Bool := decide (t < 15) || decide (42 < t)
def outletBad (t : Nat) : Bool := decide (65 < t)

/-- A coolant excursion is reported (21 R483, R492). -/
def State.coolantReport (s : State) (on : Bool) : State :=
  if on && s.boot.powerGood then ({ s with pwr := { s.pwr with coolantEvt := true } }.event 0xDB 0).logPower 0 true 0 0 0xDB 0 else s

def stepCoolantRange (inlet outlet : Nat) (s : State) : State :=
  let wasIn := inletBad s.pwr.inlet && s.pwr.inlet != 0
  let wasOut := outletBad s.pwr.outlet
  let s := { s with pwr := { s.pwr with inlet := inlet % 256, outlet := outlet % 256 } }
  (s.coolantReport (inletBad inlet && !wasIn)).coolantReport (outletBad outlet && !wasOut)

/-- COOLANT_RANGE (21 R483): the temperatures held for 10 s; a report once per excursion of either. -/
def execCoolantRange (inlet outlet : Nat) (s : State) : Host.Outcome State Fault Refusal := .next (stepCoolantRange inlet outlet s)

def stepPowerGoodLoss (s : State) : State := 
  if s.boot.powerGood then
    let s := s.powerOff
    { s with pwr := { s.pwr with on := true, offAt := none } }.emit (.pin 0 true)
  else s

/-- POWER_GOOD_LOSS (21 R479): VAO or V3P3_AO fails; the module starts again from the sequence of R480. -/
def execPowerGoodLoss (s : State) : Host.Outcome State Fault Refusal := .next (stepPowerGoodLoss s)

def stepModRstLow (ns : Nat) (s : State) : State :=
  if ns < 10000 || !s.boot.powerGood then s
  else
    let s := ({ s with pwr := { s.pwr with modRst := true } }.orderChipReset false).1
    if s.stageOpen 1 0 then { s with boot := { s.boot with starts := tdel s.boot.starts (stageKey 1 0) } } else s

/-- MOD_RST_LOW (20 R465): low for ns nanoseconds. -/
def execModRstLow (ns : Nat) (s : State) : Host.Outcome State Fault Refusal := .next (stepModRstLow ns s)

def stepModRstRise (s : State) : State :=
  if s.pwr.modRst then { s with pwr := { s.pwr with modRst := false } }.startOne else s

/-- MOD_RST_RISE (20 R465): stages 1 to 7 start. -/
def execModRstRise (s : State) : Host.Outcome State Fault Refusal := .next (stepModRstRise s)

end Sys2Proof.Machine
end

