-- ==== Sys2Proof/Machine/HostPort.lean ====
section
/-! DEFINITION. The PCIe host ports: resets, link, configuration requests, MSI-X, BAR2 (20 R451-R455, 11 R254, 16 R368-R370). -/
namespace Sys2Proof.Machine

/-! Resets of a port (11 R254, 22 R497). -/

/-- A port's registers take their reset values: windows, CFG_STAGE, GLB_FW_LOAD, MSI-X, and the load it was making (16 R387). -/
def State.resetPort (s : State) (p : Nat) : State :=
  let st := s.stager p
  let s := if st.go then s.updBank st.bankNow (fun b => { b with shadow := 0 }) else s
  let loading := s.fw.loadBy == some p
  let s := { s with
    hosts := { s.hosts with
      windows := s.hosts.windows.filter (fun e => e.1 / 16 != p)
      msix := s.hosts.msix.filter (fun e => e.1 / 34816 != p)
      latch := s.hosts.latch.filter (fun e => e.1 / 32 != p) }
    cfg := { s.cfg with stagers := tset s.cfg.stagers p Stager.reset }
    fw := { s.fw with
      loads := tset s.fw.loads p FwStager.reset
      loadBy := if loading then none else s.fw.loadBy
      store := if loading then [] else s.fw.store, storeLen := if loading then 0 else s.fw.storeLen } }
  s.updPort p (fun q => { q with d3 := [], bar2 := 36, atc := [], reqs := [], invals := [], held := [] })

/-- Partition resets of every partition a port owns (11 R254). -/
def State.resetOwned (s : State) (p : Nat) : State :=
  s.each (s.cfg.dev.parts.filter (fun e => e.2.owner == p)) (fun s e => (s.orderPartReset e.1 false).1)

/-- An event of R254 at a port. -/
def State.portEvent (s : State) (p : Nat) : State := (s.resetOwned p).resetPort p

def stepPerst (port : Fin 4) (s : State) : State :=
  let p := port.val
  let s := if (s.port p).perst then s else s.portEvent p
  let s := s.updPort p (fun q => { q with perst := true, l0 := false, up := false })
  { s with boot := { s.boot with pcieUp := clearBits s.boot.pcieUp (2 ^ p) } }

/-- PERST (11 R254, 16 R387). -/
def execPerst (port : Fin 4) (s : State) : Host.Outcome State Fault Refusal := .next (stepPerst port s)

def stepPerstDeassert (port : Fin 4) (s : State) : State :=
  let p := port.val
  if !(s.port p).perst then s
  else
    let s := s.updPort p (fun q => { q with perst := false })
    if s.boot.done.testBit 1 then s.startStage 2 p else s

/-- PERST_DEASSERT (16 R368): stage 2 starts once stage 1 has ended. -/
def execPerstDeassert (port : Fin 4) (s : State) : Host.Outcome State Fault Refusal := .next (stepPerstDeassert port s)

def stepLinkTrainingComplete (port : Fin 4) (ok : Bool) (s : State) : State :=
  let p := port.val
  if !ok || (s.port p).perst || !s.boot.done.testBit 1 then s
  else
    let s := s.updPort p (fun q => { q with l0 := true, up := true })
    let s := { s with boot := { s.boot with pcieUp := s.boot.pcieUp ||| 2 ^ p } }
    if s.stageOpen 2 p then s.stageReport 2 p 0 0 else s

/-- LINK_TRAINING_COMPLETE (16 R368, 20 R451): a partner without Flit Mode never brings the link to L0. -/
def execLinkTrainingComplete (port : Fin 4) (ok : Bool) (s : State) : Host.Outcome State Fault Refusal :=
  .next (stepLinkTrainingComplete port ok s)

def stepDlDown (port : Fin 4) (s : State) : State :=
  if (s.port port.val).l0 then (s.portEvent port.val).updPort port.val (fun q => { q with l0 := false }) else s

/-- DL_DOWN (11 R254). -/
def execDlDown (port : Fin 4) (s : State) : Host.Outcome State Fault Refusal := .next (stepDlDown port s)

def stepHotReset (port : Fin 4) (s : State) : State := if (s.port port.val).l0 then s.portEvent port.val else s

/-- HOT_RESET (11 R254). -/
def execHotReset (port : Fin 4) (s : State) : Host.Outcome State Fault Refusal := .next (stepHotReset port s)

/-- Is a function of a port there: the PF, or a VF that a partition holds (11 R251)? -/
def State.fnEnabled (s : State) (p f : Nat) : Bool := f == 0 || s.cfg.dev.parts.any (fun e => e.2.owner == p && e.2.vf == f)

/-- The function of a port by its number. -/
def fnOf (port : Fin 4) (f : Fin 17) : Fn := if f.val = 0 then .pf port else .vf port f

def stepFunctionLevelReset (port : Fin 4) (f : Fin 17) (s : State) : State :=
  let p := port.val
  if !(s.port p).l0 || !s.fnEnabled p f.val then s
  else if f.val = 0 then s.portEvent p
  else
    let s := s.each (s.cfg.dev.parts.filter (fun e => e.2.owner == p && e.2.vf == f.val)) (fun s e => (s.orderPartReset e.1 false).1)
    { s with hosts := { s.hosts with msix := s.hosts.msix.filter (fun e => e.1 / 2048 != p * 17 + f.val) } }

/-- FUNCTION_LEVEL_RESET (11 R254): function 0 is the PF. -/
def execFunctionLevelReset (port : Fin 4) (f : Fin 17) (s : State) : Host.Outcome State Fault Refusal :=
  .next (stepFunctionLevelReset port f s)

def stepD3hotEntry (port : Fin 4) (f : Fin 17) (s : State) : State :=
  let p := port.val
  if !(s.port p).l0 || (s.port p).d3.contains f.val || !s.fnEnabled p f.val then s
  else (if f.val = 0 then s.portEvent p else s).updPort p (fun q => { q with d3 := q.d3 ++ [f.val] })

/-- D3HOT_ENTRY (20 R451). -/
def execD3hotEntry (port : Fin 4) (f : Fin 17) (s : State) : Host.Outcome State Fault Refusal := .next (stepD3hotEntry port f s)

/-! Configuration space and MSI-X (16 R370, 20 R451, R453). -/

/-- The function mask of a function, kept as vector 2046. -/
def msixMaskKey (port f : Nat) : Nat := msixKey port f 2046

def stepConfigurationRequest (port : Fin 4) (f : Fin 17) (off : Nat) (write : Bool) (val : Word) (s : State) : State :=
  let p := port.val
  let s := s.unlatch (fnOf port f)
  if !(s.port p).up then s.emit (.retryStatus p)
  else if !s.fnEnabled p f.val then s.emit (.unsupported p)
  else if !write then s.emit (.readData p 4 (Config.cfgSpace f.val off).toNat)
  else if off = Config.msixCap then
    let m := tset s.hosts.msix (msixEnKey p f.val) (val.toNat.testBit 31, false)
    { s with hosts := { s.hosts with msix := tset m (msixMaskKey p f.val) (val.toNat.testBit 30, false) } }
  else s

/-- CONFIGURATION_REQUEST (16 R370): Request Retry Status before the end of stage 2; a VF that no partition holds is not enabled, and a
request to it is unsupported (11 R251). A write reaches MSI-X Enable and Function Mask,
where the capability lies (log entry 43). -/
def execConfigurationRequest (port : Fin 4) (f : Fin 17) (off : Nat) (write : Bool) (val : Word) (s : State) :
    Host.Outcome State Fault Refusal := .next (stepConfigurationRequest port f off write val s)

def stepMsixUnmask (port : Fin 4) (f : Fin 17) (vec : Nat) (s : State) : State :=
  let key := msixKey port.val f.val vec
  let s := s.unlatch (fnOf port f)
  let e := tget s.hosts.msix key (false, false)
  if (if f.val = 0 then 1048 else 65) ≤ vec || !s.fnEnabled port.val f.val then s
  else
    let s := { s with hosts := { s.hosts with msix := tset s.hosts.msix key (false, false) } }
    if e.2 then s.emit (.interrupt port.val f.val vec) else s

/-- MSIX_UNMASK (20 R453): a pending message is sent. -/
def execMsixUnmask (port : Fin 4) (f : Fin 17) (vec : Nat) (s : State) : Host.Outcome State Fault Refusal :=
  .next (stepMsixUnmask port f vec s)

/-! BAR2 (20 R454, R455). -/

def stepBar2WindowBind (port : Fin 4) (w : Fin 16) (val : Dword) (s : State) : State :=
  let p := port.val
  if !s.boot.bundle then s.refuseG (.pf port) (0x300 + 8 * w.val) 3 val.toNat else
  let part := bf val 1 4
  let k := bf val 5 6
  let va := bf val 30 18 * 2 ^ 30
  let res := match s.prec part with
    | some r => if r.owner != p then St.notOwner else if (s.ctx part k).st = 0 then St.contextState
        else if va % s.winSize p != 0 then St.reservedNonzero else St.completed
    | none => St.notOwner
  let x : Window := { valid := res == St.completed, part, ctx := k, result := res, va, gen := (s.ctx part k).gen }
  { s with hosts := { s.hosts with windows := tset s.hosts.windows (16 * p + w.val) x } }

/-- BAR2_WINDOW_BIND (20 R455): one 8-byte write of GLB_BAR2_WIN. -/
def execBar2WindowBind (port : Fin 4) (w : Fin 16) (val : Dword) (s : State) : Host.Outcome State Fault Refusal :=
  .next (stepBar2WindowBind port w val (s.unlatch (.pf port)))

def stepResizableBarChange (port : Fin 4) (size : Nat) (s : State) : State :=
  if size < 30 || 39 < size then s
  else
    let s := s.updPort port.val (fun q => { q with bar2 := size })
    { s with hosts := { s.hosts with windows := tmap s.hosts.windows (fun n w => if n / 16 = port.val then { w with valid := false } else w) } }

/-- RESIZABLE_BAR_CHANGE (20 R455, R451): the size as a power of two, 30 to 39. -/
def execResizableBarChange (port : Fin 4) (size : Nat) (s : State) : Host.Outcome State Fault Refusal :=
  .next (stepResizableBarChange port size s)

def stepBar2Write (port : Fin 4) (addr : Nat) (data : List Byte) (s : State) : State :=
  if (s.port port.val).up then s.bar2Arrive port.val { write := true, addr, len := data.length, data } else s

/-- BAR2_WRITE (20 R454): discarded where unbound, not translated or without a way; a write into a locked region waits (04 R107), and what
arrives after it waits behind it (07 R183); log entry 44. -/
def execBar2Write (port : Fin 4) (addr : Nat) (data : List Byte) (s : State) : Host.Outcome State Fault Refusal :=
  .next (stepBar2Write port addr data (s.unlatch (.pf port)))

def stepBar2Read (port : Fin 4) (addr len : Nat) (s : State) : State :=
  if (s.port port.val).up then s.bar2Arrive port.val { write := false, addr, len, data := [] } else s

/-- BAR2_READ (20 R454, 07 R179, R183): after the requests that arrived before it. -/
def execBar2Read (port : Fin 4) (addr len : Nat) (s : State) : Host.Outcome State Fault Refusal := .next (stepBar2Read port addr len (s.unlatch (.pf port)))

end Sys2Proof.Machine
end

