-- ==== Sys2Proof/Machine/Regs.lean ====
section
/-! DEFINITION. The register map of BAR0 and what each register reads (22 R494-R506, and the register rules of each chapter). -/
namespace Sys2Proof.Machine

/-- A register of BAR0, by its place in the map (22 R499-R506). An alias and its register are one. -/
inductive Reg where
  | glbId | glbStage | glbReady | glbOwnership | glbFpStatus | glbFpHash | glbCheckCfg | glbPwrCap | glbPwrStatus | glbEnvStatus
  | glbFwLoad | glbFwInfo | glbBelfryStatus | glbMonStatus | glbRingId | cfgStage | cfgSecure | glbSerial
  | glbPtnMap (p : Nat) | glbPkey (p : Nat) | glbRingKey (p : Nat) | glbRingPort (i : Nat) | glbRingWave (e : Nat) | glbBar2Win (w : Nat)
  | cfgBankStatus (i : Nat) | glbMemchStatus (i : Nat) | glbFpRec (i : Nat)
  | ptnCtl (p : Nat) | ptnStrict (p : Nat) | ptnXlatInv (p : Nat) | ptnStreamResume (p : Nat) | ptnFrameFree (p : Nat) | ptnPartIrq (p : Nat)
  | ctxCtl (p k : Nat) | ctxState (p k : Nat) | ctxXlat (p k : Nat) | ctxSave (p k : Nat) | ctxCq (p k : Nat) | ctxStep (p k : Nat)
  | ctxSeedLo (p k : Nat) | ctxSeedHi (p k : Nat) | ctxRuncyc (p k : Nat) | ctxCheck (p k : Nat) | ctxIrq (p k : Nat) | ctxQ (p i : Nat)
  | ctxRing (p k : Nat) | ctxFstat (p k : Nat) | ctxFhead (p k : Nat) | partRec (p j : Nat) | replaceCfg (p : Nat)
  | dbTail (p k x : Nat) | dbHead (p k x : Nat) | dbCqTail (p k : Nat) | dbCqHead (p k : Nat) | dbTime (p : Nat)
  | cluAclk (c : Nat) | cluGateCnt (c : Nat) | cluScCount (c : Nat) | cluMsgCtl (c : Nat) | cluMsgSel (c : Nat) | cluMsgDrop (c : Nat)
  | cluCarillon (c : Nat) | cluRtrStatus (c : Nat) | cluCheckStatus (c : Nat) | cluCheckCount (c : Nat) | cluTapStatus (c : Nat)
  | cluTapSel (c : Nat) | cluTapTile (c : Nat) | cluPwrStatus (c : Nat) | cluRingStatus (c : Nat) | cluRtrKeymask (c p : Nat)
  | cluMuffle (c w : Nat) | cluSkip (c j : Nat) | cluSchCnt (c n : Nat) | cluRqCnt (c n : Nat) | cluBatShape (c b : Nat)
  | cluBatStatus (c b : Nat) | cluBatCycle (c b : Nat) | cluVrStatus (c b : Nat) | cluReplace (c b : Nat) | cluSliceStatus (c n : Nat)
  | cluCqCfg (c n q : Nat) | cluCqStatus (c q : Nat) | strDescStatus (c i : Nat) | strDescCount (c i : Nat) | cluBankStatus (c i : Nat)
  | fltEscCfg | fltResetStatus | fltEngRst (c : Nat) | fltIsolate (c : Nat)
  | logStatus | logWsel | logTraceEn (w : Nat) | logWin (w : Nat)
  | cfgWindow (w : Nat) | fwWindow (w : Nat)
  deriving DecidableEq, Repr

/-- The index of slot o in a row of n slots from base on. -/
def rowAt (base n o : Nat) : Option Nat := if base ≤ o && o < base + 8 * n && o % 8 == 0 then some ((o - base) / 8) else none

/-- The row of a list that holds a slot. -/
def findRow (l : List (Nat × Nat × (Nat → Reg))) (o : Nat) : Option Reg :=
  l.findSome? (fun (e : Nat × Nat × (Nat → Reg)) => (rowAt e.1 e.2.1 o).map e.2.2)

/-- The global block (22 R499). -/
def glbAt : Nat → Option Reg := findRow [
  (0x00, 1, fun _ => .glbId), (0x08, 1, fun _ => .glbStage), (0x10, 1, fun _ => .glbReady), (0x18, 1, fun _ => .glbOwnership),
  (0x20, 1, fun _ => .glbFpStatus), (0x28, 1, fun _ => .glbFpHash), (0x30, 1, fun _ => .glbCheckCfg), (0x38, 1, fun _ => .glbPwrCap),
  (0x40, 1, fun _ => .glbPwrStatus), (0x48, 1, fun _ => .glbEnvStatus), (0x50, 1, fun _ => .glbFwLoad), (0x58, 1, fun _ => .glbFwInfo),
  (0x60, 1, fun _ => .glbBelfryStatus), (0x68, 1, fun _ => .glbMonStatus), (0x70, 1, fun _ => .glbRingId), (0x78, 1, fun _ => .cfgStage),
  (0x80, 1, fun _ => .cfgSecure), (0x88, 1, fun _ => .glbSerial), (0x100, 16, .glbPtnMap), (0x180, 16, .glbPkey), (0x200, 16, .glbRingKey),
  (0x280, 4, .glbRingPort), (0x2C0, 8, .glbRingWave), (0x300, 16, .glbBar2Win), (0x380, 17, .cfgBankStatus), (0x800, 224, .glbMemchStatus),
  (0x1000, 296, .glbFpRec)]

/-- A partition block (22 R501). -/
def ptnAt (p : Nat) : Nat → Option Reg := findRow [
  (0x00, 1, fun _ => .ptnCtl p), (0x08, 1, fun _ => .ptnStrict p), (0x10, 1, fun _ => .ptnXlatInv p), (0x18, 1, fun _ => .ptnStreamResume p),
  (0x20, 1, fun _ => .ptnFrameFree p), (0x28, 1, fun _ => .ptnPartIrq p), (0x100, 64, .ctxCtl p), (0x300, 64, .ctxState p),
  (0x500, 64, .ctxXlat p), (0x700, 64, .ctxSave p), (0x900, 64, .ctxCq p), (0xB00, 64, .ctxStep p), (0xD00, 64, .ctxSeedLo p),
  (0xF00, 64, .ctxSeedHi p), (0x1100, 64, .ctxRuncyc p), (0x1300, 64, .ctxCheck p), (0x1500, 64, .ctxIrq p), (0x2000, 256, .ctxQ p),
  (0x3000, 64, .ctxRing p), (0x3200, 64, .ctxFstat p), (0x3400, 64, .ctxFhead p), (0x3800, 32, .partRec p), (0x3900, 1, fun _ => .replaceCfg p)]

/-- A doorbell page (11 R261). -/
def dbAt (p k : Nat) : Nat → Option Reg := findRow [
  (0x00, 4, .dbTail p k), (0x20, 4, .dbHead p k), (0x40, 1, fun _ => .dbCqTail p k), (0x48, 1, fun _ => .dbCqHead p k),
  (0x50, 1, fun _ => .dbTime p)]

/-- A cluster block (22 R503). -/
def cluAt (c : Nat) : Nat → Option Reg := findRow [
  (0x00, 1, fun _ => .cluAclk c), (0x08, 1, fun _ => .cluGateCnt c), (0x10, 1, fun _ => .cluScCount c), (0x18, 1, fun _ => .cluMsgCtl c),
  (0x20, 1, fun _ => .cluMsgSel c), (0x28, 1, fun _ => .cluMsgDrop c), (0x30, 1, fun _ => .cluCarillon c), (0x38, 1, fun _ => .cluRtrStatus c),
  (0x40, 1, fun _ => .cluCheckStatus c), (0x48, 1, fun _ => .cluCheckCount c), (0x50, 1, fun _ => .cluTapStatus c),
  (0x58, 1, fun _ => .cluTapSel c), (0x60, 1, fun _ => .cluTapTile c), (0x68, 1, fun _ => .cluPwrStatus c), (0x70, 1, fun _ => .cluRingStatus c),
  (0x80, 6, .cluRtrKeymask c), (0x100, 9, .cluMuffle c), (0x150, 4, .cluSkip c), (0x200, 16, .cluSchCnt c), (0x280, 16, .cluRqCnt c),
  (0x400, 64, .cluBatShape c), (0x600, 64, .cluBatStatus c), (0x800, 64, .cluBatCycle c), (0xA00, 64, .cluVrStatus c),
  (0xC00, 64, .cluReplace c), (0x1000, 66, .cluSliceStatus c), (0x1400, 32, .cluCqCfg c 0), (0x1500, 32, .cluCqCfg c 1),
  (0x1600, 32, .cluCqCfg c 2), (0x1700, 32, .cluCqStatus c), (0x1800, 64, .strDescStatus c), (0x1A00, 64, .strDescCount c),
  (0x2000, 272, .cluBankStatus c)]

/-- The fault and recovery block (22 R505). -/
def fltAt : Nat → Option Reg := findRow [
  (0x00, 1, fun _ => .fltEscCfg), (0x08, 1, fun _ => .fltResetStatus), (0x100, 16, .replaceCfg), (0x200, 16, .fltEngRst),
  (0x280, 16, .fltIsolate), (0x1000, 512, fun i => .partRec (i / 32) (i % 32)), (0x2000, 1024, fun i => .ctxRing (i / 64) (i % 64)),
  (0x4000, 1024, fun i => .ctxFstat (i / 64) (i % 64)), (0x6000, 1024, fun i => .ctxFhead (i / 64) (i % 64))]

/-- The log and trace block (22 R506). -/
def logAt : Nat → Option Reg := findRow [
  (0x00, 1, fun _ => .logStatus), (0x08, 1, fun _ => .logWsel), (0x100, 32, .logTraceEn), (0x8000, 4096, .logWin)]

/-- The register whose slot begins at an offset of a PF's BAR0 (22 R494). -/
def regAt (o : Nat) : Option Reg :=
  if o < 0x10000 then glbAt o
  else if o < 0x110000 then ptnAt (o / 0x10000 - 1) (o % 0x10000)
  else if 0x200000 ≤ o && o < 0x240000 then dbAt ((o - 0x200000) / 0x4000) (o % 0x4000 / 0x100) (o % 0x100)
  else if 0x400000 ≤ o && o < 0x500000 then cluAt ((o - 0x400000) / 0x10000) (o % 0x10000)
  else if 0x800000 ≤ o && o < 0xC00000 then findRow [(0x800000, 0x80000, .cfgWindow)] o
  else if 0xC00000 ≤ o && o < 0xC10000 then fltAt (o - 0xC00000)
  else if 0xD00000 ≤ o && o < 0xD10000 then logAt (o - 0xD00000)
  else if 0x1000000 ≤ o && o < 0x2000000 then findRow [(0x1000000, 0x200000, .fwWindow)] o
  else none

/-- The partition that is a VF (11 R251). -/
def State.vfPart (s : State) (port v : Nat) : Option Nat :=
  (s.cfg.dev.parts.find? (fun e => e.2.owner == port && e.2.vf == v)).map (·.1)

/-- The offset in the PF's map of an offset of a function's BAR0 (20 R452); none where the function's BAR0 holds no register. -/
def State.mapOff (s : State) (fn : Fn) (o : Nat) : Option Nat :=
  match fn with
  | .vf port v => match s.vfPart port.val v.val with
    | none => none
    | some p =>
      if o < 0x10000 then some (offP p o)
      else if o < 0x14000 then some (offD p 0 (o - 0x10000))
      else if o < 0x14010 then some (if o < 0x14008 then o - 0x14000 else o - 0x14008 + 0x88)
      else none
  | _ => some o

/-- Is a register 64 bits wide (22 R499-R506)? -/
def Reg.wide : Reg → Bool
  | .glbReady | .glbFpStatus | .glbFpHash | .glbPwrStatus | .glbEnvStatus | .glbFwLoad | .glbFwInfo | .glbBelfryStatus | .glbRingId | .cfgStage
  | .glbSerial | .glbRingPort _ | .glbRingWave _ | .glbBar2Win _ | .cfgBankStatus _ | .glbFpRec _ | .ptnXlatInv _ | .ptnFrameFree _
  | .ctxCtl _ _ | .ctxXlat _ _ | .ctxSave _ _ | .ctxCq _ _ | .ctxStep _ _ | .ctxSeedLo _ _ | .ctxSeedHi _ _ | .ctxRuncyc _ _ | .ctxCheck _ _
  | .ctxQ _ _ | .ctxRing _ _ | .ctxFstat _ _ | .ctxFhead _ _ | .partRec _ _ | .dbTail _ _ _ | .dbHead _ _ _ | .dbCqTail _ _ | .dbCqHead _ _
  | .dbTime _ | .cluGateCnt _ | .cluScCount _ | .cluMsgCtl _ | .cluMsgDrop _ | .cluCheckCount _ | .cluTapTile _ | .cluRingStatus _
  | .cluSchCnt _ _ | .cluRqCnt _ _ | .cluCqCfg _ _ _ | .cluCqStatus _ _ | .strDescCount _ _ | .logStatus | .logWin _ | .cfgWindow _
  | .fwWindow _ => true
  | _ => false

/-- Whose a register is (11 R252, 22 R496): a PF's own, the global block's, a partition's, a cluster's. -/
inductive Scope where
  | own | global | part (p : Nat) | cluster (c : Nat)
  deriving DecidableEq, Repr

/-- The scope of a register. -/
def Reg.scope : Reg → Scope
  | .glbFwLoad | .cfgStage | .glbBar2Win _ | .cfgWindow _ | .fwWindow _ => .own
  | .glbPkey p | .glbRingKey p | .ptnCtl p | .ptnStrict p | .ptnXlatInv p | .ptnStreamResume p | .ptnFrameFree p | .ptnPartIrq p
  | .ctxCtl p _ | .ctxState p _ | .ctxXlat p _ | .ctxSave p _ | .ctxCq p _ | .ctxStep p _ | .ctxSeedLo p _ | .ctxSeedHi p _ | .ctxRuncyc p _
  | .ctxCheck p _ | .ctxIrq p _ | .ctxQ p _ | .ctxRing p _ | .ctxFstat p _ | .ctxFhead p _ | .partRec p _ | .replaceCfg p | .dbTail p _ _
  | .dbHead p _ _ | .dbCqTail p _ | .dbCqHead p _ | .dbTime p => .part p
  | .cluAclk c | .cluGateCnt c | .cluScCount c | .cluMsgCtl c | .cluMsgSel c | .cluMsgDrop c | .cluCarillon c | .cluRtrStatus c
  | .cluCheckStatus c | .cluCheckCount c | .cluTapStatus c | .cluTapSel c | .cluTapTile c | .cluPwrStatus c | .cluRingStatus c
  | .cluRtrKeymask c _ | .cluMuffle c _ | .cluSkip c _ | .cluSchCnt c _ | .cluRqCnt c _ | .cluBatShape c _ | .cluBatStatus c _
  | .cluBatCycle c _ | .cluVrStatus c _ | .cluReplace c _ | .cluSliceStatus c _ | .cluCqCfg c _ _ | .cluCqStatus c _ | .strDescStatus c _
  | .strDescCount c _ | .cluBankStatus c _ | .fltEngRst c | .fltIsolate c => .cluster c
  | .cfgBankStatus (c + 1) => .cluster c
  | _ => .global

/-- Does a function own what a register belongs to (11 R252)? -/
def State.ownsReg (s : State) (fn : Fn) : Scope → Bool
  | .own => match fn with
    | .vf _ _ => false
    | _ => true
  | .global => s.ownsG fn
  | .part p => s.ownsP fn p
  | .cluster c => s.ownsC fn c

/-- The registers that a PF's BAR0 shows before the end of stage 3 (16 R372), and the serial number to the belfry (16 R370);
log entry 87. -/
def Reg.early (fn : Fn) : Reg → Bool
  | .glbId | .glbStage | .glbReady | .glbOwnership | .glbFpStatus | .glbFpHash | .glbFpRec _ | .glbFwLoad | .fwWindow _ => true
  | .glbSerial => fn == .net
  | _ => false

/-- Does a function read the register, and not 0 (11 R252, 16 R372, 18 R419, 22 R496)? The registers of the log block are its owner's. -/
def State.shows (s : State) (fn : Fn) (r : Reg) : Bool :=
  (s.boot.bundle || r.early fn) &&
    (match r with
     | .logStatus | .logWsel | .logTraceEn _ | .logWin _ => s.ownsG fn
     | .glbPkey _ | .glbRingKey _ => s.ownsReg fn r.scope
     | .fltEscCfg | .fltResetStatus => true
     | _ => r.scope == .global || s.ownsReg fn r.scope)

/-- The PF whose copy of a per-PF register a function reads (22 R496): the belfry reads the managing port's. -/
def State.ownPort (s : State) : Fn → Option Nat
  | .pf port => some port.val
  | .vf _ _ => none
  | .net => if s.cfg.mgmtValid then some s.cfg.mgmtPort else none

/-! The values. -/

/-- GLB_ID (22 R500). -/
def glbIdVal : Nat := pack [(16, 0xB4), (4, 1), (4, 0)]

/-- GLB_STAGE (16 R389). -/
def State.glbStageVal (s : State) : Nat :=
  let b := s.boot
  pack [(3, b.stage), (8, b.done), (1, b2n b.bundle), (4, b.pcieUp), (8, b.lastStatus), (3, b.cause)]

/-- GLB_READY (16 R389). -/
def State.glbReadyVal (s : State) : Nat :=
  pack [(16, s.boot.readyClusters), (12, s.boot.readyHbm),
    (4, ((List.range 4).filter (fun p => s.portUpRing p)).foldl (fun n p => n + 2 ^ p) 0), (32, s.boot.readyFar)]

/-- GLB_FP_STATUS (16 R389). -/
def State.glbFpStatusVal (s : State) : Nat :=
  let b := s.boot
  pack [(32, b.fpSeq), (16, b.degraded), (1, b2n b.serviceable), (1, b2n b.fpValid), (1, b2n b.fpComplete)]

/-- VIN_10MV (21 R493): the mean of the samples of the last 1 ms; log entry 85. -/
def State.vinMean (s : State) : Nat := s.pwr.vinSamples.foldl (· + ·) 0 / s.pwr.vinSamples.length

/-- GLB_BELFRY_STATUS (20 R471). -/
def State.belfryStatusVal (s : State) : Nat :=
  let b := s.belfry
  pack [(1, b2n b.link0), (1, b2n b.link1), (1, b2n b.coll0.isSome), (1, b2n b.coll1.isSome), (4, 0), (9, b.reports.length), (15, 0),
    (16, b.dropped), (16, b.authFail)]

/-- GLB_RING_PORT (19 R450). -/
def State.ringPortVal (s : State) (p : Nat) : Nat :=
  let r := s.rport p
  pack [(3, r.st), (1, b2n (s.rport (p / 2 * 2)).bypassOpen), (5, min 16 (s.carrying (engineOf p 0)).length),
    (5, min 16 (s.carrying (engineOf p 1)).length), (2, 0), (32, r.retries), (16, r.uncorr)]

/-- GLB_RING_WAVE (19 R450). -/
def State.ringWaveVal (s : State) (e : Nat) : Nat :=
  let ws := fun (f : Wave → Bool) => ((List.range 17).filter (fun w => f (s.wave (17 * e + w)))).foldl (fun n w => n + 2 ^ w) 0
  pack [(17, ws (·.carry)), (15, 0), (17, ws (·.muffled))]

/-- The partition that holds a memory channel (07 R186). -/
def State.chanPart (s : State) (i : Nat) : Option Nat := (s.cfg.dev.parts.find? (fun e => e.2.chans.contains i)).map (·.1)

/-- GLB_MEMCH_STATUS (07 R186): a function reads the counts of its partitions' channels only. -/
def State.memchVal (s : State) (fn : Fn) (i : Nat) : Nat :=
  let x := s.chan i
  let p := s.chanPart i
  let mine : Bool := match p with
    | some p => s.ownsP fn p
    | none => fn == .net
  pack [(2, x.st), (4, p.getD 0), (1, b2n p.isSome), (2, x.refresh), (1, x.lost), (6, 0), (8, if mine then x.mismatch else 0),
    (8, if mine then x.corrected else 0)]

/-- PTN_CTX_STATE (11 R281). -/
def State.ctxStateVal (s : State) (p k : Nat) : Nat :=
  let c := s.ctx p k
  let run := ((List.range 4).filter (fun x => c.st == 1 && (c.queue x).stalled.isNone)).foldl (fun n x => n + 2 ^ x) 0
  pack [(4, c.st), (8, c.gen), (4, run), (8, c.qstop)]

/-- CLU_ACLK_STATUS (01 R41); log entry 26. -/
def State.aclkVal (s : State) (c : Nat) : Nat :=
  let k := s.clock c
  pack [(7, k.code), (1, b2n k.pinned), (1, b2n k.target.isSome), (1, b2n k.tapHold), (6, 0), (16, k.excursions)]

/-- CLU_RTR_STATUS (10 R248). -/
def State.rtrStatusVal (s : State) (c : Nat) : Nat :=
  let r := s.router c
  let e := s.mesh.epoch
  let bank := if e then r.bank1 else r.bank0
  pack [(6, s.portsUp c), (2, 0), (1, b2n e), (1, b2n r.shadowValid), (1, b2n (s.oldBusy c)),
    (1, b2n (rtYx (tget bank 0 0)))]

/-- CLU_TAP_STATUS (14 R341). -/
def State.tapStatusVal (s : State) (c : Nat) : Nat :=
  let x := s.clX c
  let run := (((s.health.slices.filter (fun y => decide (y.kind < 6) && taC y.unit_ == c)).map (·.unit_)).eraseDups).length
  pack [(9, run), (1, b2n x.tapHold), (6, x.tapHoldBat), (9, ((tilesOf c).filter (fun ta => (s.tile ta).test.forced)).length)]

/-- CLU_TAP_TILE (14 R341): the age of the least recent march in whole hours; log entry 31. -/
def State.tapTileVal (s : State) (ta : Nat) : Nat :=
  let t := (s.tile ta).test
  let age := if (List.range 12).all (fun b => thas t.march b) then
      min 0xFFFF ((t.march.foldl (fun m e => max m (s.ledger.opSec - e.2)) 0) / 3600)
    else 0xFFFF
  pack [(32, t.cycleAt), (16, age), (8, t.fails), (6, t.done)]

/-- The tile of a cluster that a select register names (09 R229, 14 R341). -/
def selTile (c sel : Nat) : Nat := taddr c (taX sel) (taY sel)

/-- CLU_BAT_STATUS (04 R119), with WAIT_SLOTS. -/
def Battery.statusVal (x : Battery) (slots : Bool) : Nat :=
  let st := match x.st with
    | .empty => 0 | .loading => 1 | .loaded => 2 | .arm => 3 | .run => 4 | .commit => 5 | .abort => 6
  pack [(3, st), (1, b2n x.rsv.isSome), (6, x.ctx), (1, b2n x.waitLock), (1, b2n slots), (1, b2n x.waitSwap), (2, x.replays),
    (1, b2n x.waitPin), (8, x.lastStatus)]

/-- CLU_SLICE_STATUS (07 R186). -/
def Slice.statusVal (x : Slice) : Nat :=
  pack [(7, x.logical), (2, x.mode), (1, b2n x.mirror), (6, x.partner), (3, x.st), (1, b2n x.lost), (12, x.corrected)]

/-- CLU_CQ_STATUS (09 R229). -/
def CombQueue.statusVal (x : CombQueue) : Nat :=
  pack [(2, x.st), (1, b2n x.strict), (6, (x.ctx.map (·.ctx)).getD 0), (16, x.count), (1, b2n x.pending), (6, 0), (8, x.gen), (24, x.rounds)]

/-- STR_DESC_STATUS (06 R163). -/
def State.descStatusVal (s : State) (key : Nat) : Nat :=
  let d := tget s.descs key Desc.reset
  let st := match d.st with
    | .free => 0 | .active => 1 | .stopped => 2 | .parked => 3 | .done => 4
  pack [(3, st), (1, bf d.image 2 1), (1, b2n d.isPartial), (1, b2n (d.image != 0 && descSlot d.image)), (6, d.ctx), (8, d.lastStatus),
    (4, if descSlot d.image then min 8 (d.delivered - d.taken) else 0), (1, b2n d.hoWait), (1, b2n (tget s.descx key DescX.reset).engWait)]

/-- CLU_BANK_STATUS (02 R70). -/
def State.bankStatusVal (s : State) (ta : Nat) : Nat :=
  let t := s.tile ta
  pack [(12, t.ctl.wide.toNat), (12, t.ctl.resValid.toNat), (1, b2n t.ctl.running), (1, b2n t.ctl.conflict), (1, b2n t.ctl.resFault),
    (1, b2n (s.fillHeld ta)), (1, b2n (t.test.capture.isSome || t.test.duty.isSome))]

/-- The entry at a ring index (18 R417): the entry with sequence number n stands at index n mod 32,768. -/
def State.logAt (s : State) (idx : Nat) : LogEntry :=
  s.log.ring.getD ((s.log.nextSeq + 2 * 32768 - 1 - idx) % 32768) 0

/-- A word of the log window (18 R419, R427). -/
def State.logWord (s : State) (w : Nat) : Nat := bf (s.logAt (1024 * s.log.page + w / 4)) (64 * (w % 4)) 64

/-- REMAIN (20 R471): whole or begun seconds of the token's lifetime. -/
def State.monRemain (s : State) : Nat := if s.mon.level = 0 then 0 else min 0xFFFF ((s.mon.expires - s.now + 999999999) / 1000000000)

/-- The value of a global register. -/
def State.glbVal (s : State) (fn : Fn) : Reg → Nat
  | .glbId => glbIdVal
  | .glbStage => s.glbStageVal
  | .glbReady => s.glbReadyVal
  | .glbOwnership => pack [(2, s.cfg.mgmtPort), (1, b2n s.cfg.mgmtValid)]
  | .glbFpStatus => s.glbFpStatusVal
  | .glbFpHash => s.boot.fpHash
  | .glbCheckCfg => pack [(4, s.health.rateLog2), (1, b2n s.health.autoRate)]
  | .glbPwrCap => s.pwr.capW
  | .glbPwrStatus => pack [(12, s.pwr.inputW / 1000), (12, s.pwr.uncoreW / 1000), (12, s.pwr.clusterW / 1000), (1, b2n s.pwr.capUnmet)]
  | .glbEnvStatus => pack [(16, s.vinMean), (8, s.pwr.inlet), (8, s.pwr.outlet), (1, b2n s.pwr.inputEvt), (1, b2n s.pwr.coolantEvt),
      (1, b2n s.pwr.railEvt), (6, s.pwr.rail)]
  | .glbFwInfo => pack [(32, s.fw.version), (16, s.fw.restarts), (1, b2n s.fw.failed)]
  | .glbBelfryStatus => s.belfryStatusVal
  | .glbMonStatus => pack [(2, s.mon.level), (1, b2n s.mon.backoff), (5, 0), (16, s.monRemain), (8, s.mon.fails)]
  | .glbRingId =>
      let a := tget s.ring.census 0 (0, false)
      let b := tget s.ring.census 1 (0, false)
      pack [(6, s.ring.index), (6, s.ring.size1), (1, b2n s.ring.valid), (3, 0), (7, a.1), (1, b2n a.2), (7, b.1), (1, b2n b.2)]
  | .cfgSecure => b2n s.cfg.secure
  | .glbSerial => Config.serial.toNat
  | .glbPtnMap p => match s.prec p with
      | some r => pack [(16, r.clusters), (2, r.owner), (5, r.vf), (1, 1)]
      | none => 0
  | .glbPkey p =>
      let k := tget s.mesh.pkeys p (0, false, 0)
      pack [(12, k.1.toNat), (1, b2n k.2.1), (3, 0), (12, k.2.2.toNat)]
  | .glbRingKey p =>
      let k := tget s.ring.keys p (0, false)
      pack [(16, k.1), (1, b2n k.2)]
  | .glbRingPort i => s.ringPortVal i
  | .glbRingWave e => s.ringWaveVal e
  | .cfgBankStatus i =>
      let b := s.bank (if i = 0 then devTarget else i - 1)
      pack [(2, b.shadow), (1, b2n b.pending), (1, b2n b.byBelfry), (4, 0), (8, b.lastStatus), (16, 0), (32, b.activeId)]
  | .glbMemchStatus i => s.memchVal fn i
  | .glbFpRec i => bf s.boot.fpRec (64 * i) 64
  | .fltEscCfg => s.health.escLimit
  | .fltResetStatus => pack [(3, s.health.level), (1, b2n s.health.auto), (4, 0), (8, s.health.chipGen)]
  | .logStatus => pack [(32, s.log.nextSeq), (16, s.log.traceDrop)]
  | .logWsel => s.log.page
  | .logTraceEn w => (tget s.log.traceEn w 0).toNat
  | .logWin w => s.logWord w
  | _ => 0

/-- The value of a PF's own register (22 R496). -/
def State.ownVal (s : State) (port : Nat) : Reg → Nat
  | .glbFwLoad =>
      let x := s.loader port
      pack [(1, b2n x.go), (7, 0), (8, x.result), (16, 0), (25, x.len)]
  | .cfgStage =>
      let x := s.stager port
      pack [(1, b2n x.go), (1, x.target), (4, x.cluster), (2, 0), (8, x.result), (16, 0), (23, x.len)]
  | .glbBar2Win w =>
      let x := s.window port w
      pack [(1, b2n x.valid), (4, x.part), (6, x.ctx), (5, 0), (8, x.result), (6, 0), (18, x.va / 2 ^ 30)]
  | .cfgWindow w => mread (s.stager port).buf (8 * w) 8
  | .fwWindow w => mread (s.loader port).buf (8 * w) 8
  | _ => 0

/-- The value of a partition's register. -/
def State.ptnVal (s : State) : Reg → Nat
  | .ptnCtl p => pack [(1, b2n (s.part p).resetGo), (7, 0), (8, (s.part p).result)]
  | .ptnStrict p => pack [(1, b2n (s.part p).strict), (1, b2n (s.part p).strictBusy), (6, 0), (8, (s.part p).strictResult)]
  | .ptnXlatInv p =>
      let x := s.part p
      pack [(1, b2n x.invGo), (6, x.invCtx), (2, x.invSize), (7, 0), (32, x.invVa / 65536)]
  | .ptnStreamResume p =>
      let x := s.part p
      pack [(4, x.strCluster), (2, x.strEngine), (4, x.strDesc), (6, 0), (1, b2n x.strGo), (7, 0), (8, x.strResult)]
  | .ptnFrameFree p => b2n (s.part p).frameBusy
  | .ptnPartIrq p => (s.part p).irq
  | .ctxCtl p k =>
      let c := s.ctx p k
      pack [(1, b2n c.go), (3, c.op), (1, b2n c.banks), (1, b2n c.frames), (10, 0), (16, c.clusters), (8, c.result)]
  | .ctxState p k => s.ctxStateVal p k
  | .ctxXlat p k =>
      let x := (s.ctx p k).xlat
      pack [(1, b2n x.enable), (1, b2n x.faulted), (19, 0), (22, x.root), (1, b2n x.pasidEn), (20, x.pasid)]
  | .ctxSave p k => (s.ctx p k).saveVa
  | .ctxCq p k => (s.ctx p k).cqSize + (s.ctx p k).cqBase
  | .ctxStep p k => (s.ctxX p k).step
  | .ctxSeedLo p k => (s.ctxX p k).seedLo.toNat
  | .ctxSeedHi p k => (s.ctxX p k).seedHi.toNat
  | .ctxRuncyc p k => (s.ctxX p k).runcyc
  | .ctxCheck p k =>
      let x := s.ctxX p k
      pack [(4, x.needLog2), (1, b2n x.goalMet), (1, b2n x.shortfall), (1, b2n x.limited), (9, 0), (32, x.minChecks)]
  | .ctxIrq p k => pack [(1, (s.ctxX p k).irqCq), (1, (s.ctxX p k).irqFault)]
  | .ctxQ p i =>
      let q := (s.ctx p (i / 4)).queue (i % 4)
      q.size + q.base
  | .ctxRing p k =>
      let x := s.ctxX p k
      pack [(1, b2n x.ringEnable), (4, x.ringSize), (3, 0), (40, x.ringBase / 256)]
  | .ctxFstat p k =>
      let x := s.ctxX p k
      pack [(32, x.tail), (16, x.overrun), (1, b2n x.ringFault)]
  | .ctxFhead p k => (s.ctxX p k).head
  | .partRec p j => bf (s.part p).lastRec (64 * j) 64
  | .replaceCfg p => pack [(1, b2n (s.part p).autoSkip), (1, b2n (s.part p).autoRelocate)]
  | .dbTail p k x => ((s.ctx p k).queue x).tail
  | .dbHead p k x => ((s.ctx p k).queue x).head
  | .dbCqTail p k => (s.ctx p k).cqTail
  | .dbCqHead p k => (s.ctx p k).cqHead
  | .dbTime _ => s.now
  | _ => 0

/-- The value of a cluster's register. -/
def State.cluVal (s : State) : Reg → Nat
  | .cluAclk c => s.aclkVal c
  | .cluGateCnt c => (s.cl c).gated
  | .cluScCount c => pack [(32, (s.cl c).hits), (32, (s.cl c).misses)]
  | .cluMsgCtl c => (s.clX c).msgCtl.toNat
  | .cluMsgSel c => (s.clX c).msgSel
  | .cluMsgDrop c => pack [(16, (s.clX c).gone), (16, (s.clX c).flushItems), (16, (s.clX c).cqReturns)]
  | .cluCarillon c =>
      let x := s.clX c
      pack [(2, x.carState), (1, b2n x.bySched), (1, b2n x.carForced), (12, 0), (16, x.peals)]
  | .cluRtrStatus c => s.rtrStatusVal c
  | .cluCheckStatus c =>
      let x := s.clX c
      pack [(4, x.wLog2), (4, x.capLog2), (9, x.checkers), (1, b2n x.limited)]
  | .cluCheckCount c => pack [(32, (s.clX c).checked), (16, (s.clX c).deferredCnt), (16, (s.clX c).lostCnt)]
  | .cluTapStatus c => s.tapStatusVal c
  | .cluTapSel c => (s.clX c).tapSel
  | .cluTapTile c => s.tapTileVal (selTile c (s.clX c).tapSel)
  | .cluPwrStatus c =>
      let y := s.clY c
      pack [(8, y.allot / 1000), (8, y.draw / 1000), (8, y.temp), (1, b2n y.idle)]
  | .cluRingStatus c =>
      let y := s.clY c
      pack [(3, (s.ring.jobs.filter (fun j => j.cluster == c)).length), (5, 0), (8, y.ringLast), (16, 0), (32, y.ringWait)]
  | .cluRtrKeymask c p => field (s.router c).keymask (16 * p) 16
  | .cluMuffle c w => ((s.clY c).muffled.filter (fun i => i / 32 == w)).foldl (fun n i => n ||| 2 ^ (i % 32)) 0
  | .cluSkip c j => pack ((List.range 4).map (fun i => (5, s.skip c (4 * j + i))))
  | .cluSchCnt c n => let x := s.channel (selTile c (s.clX c).msgSel) n; pack [(32, x.sent), (32, x.stall)]
  | .cluRqCnt c n => let x := s.rxq (selTile c (s.clX c).msgSel) n; pack [(32, x.received), (32, x.empty)]
  | .cluBatShape c b => s.shape c b
  | .cluBatStatus c b => (s.bat c b).statusVal (s.waitSlots c b)
  | .cluBatCycle c b => (s.bat c b).cycle % 2 ^ 26
  | .cluVrStatus c b => let x := s.batX c b; pack [(24, x.drops), (4, x.lastSeg), (1, b2n x.ovf)]
  | .cluReplace c b => let x := s.batX c b; pack [(1, b2n x.replValid), (6, x.replTarget), (2, x.replLast)]
  | .cluSliceStatus c n => (s.slice c n).statusVal
  | .cluCqCfg c n q => bf (s.comb c q).cfg (64 * n) 64
  | .cluCqStatus c q => (s.comb c q).statusVal
  | .strDescStatus c i => s.descStatusVal (64 * c + i)
  | .strDescCount c i => let d := tget s.descs (64 * c + i) Desc.reset; pack [(24, d.sinceStart), (24, d.taken), (16, d.lag)]
  | .cluBankStatus c i => s.bankStatusVal (taddr c (i % 16) (i / 16))
  | .fltEngRst c =>
      let y := s.clY c
      pack [(1, 0), (2, y.engKind), (2, y.engIndex), (1, b2n y.engHang), (2, 0), (8, y.engResult)]
  | .fltIsolate c =>
      let y := s.clY c
      pack [(1, b2n y.isoActive), (2, y.isoEngine), (2, y.isoIndex), (6, y.isoAdmitted), (7, y.isoLeft.length)]
  | _ => 0

/-- What a function reads in the slot of a register (22 R495): 64 bits. -/
def State.regView (s : State) (fn : Fn) (r : Reg) : Nat :=
  if !s.shows fn r then 0
  else match r.scope with
  | .own => (match s.ownPort fn with
    | some port => s.ownVal port r
    | none => 0)
  | .part _ => (match r with
    | .glbPkey _ | .glbRingKey _ => s.glbVal fn r
    | _ => s.ptnVal r)
  | .cluster _ => (match r with
    | .cfgBankStatus _ => s.glbVal fn r
    | _ => s.cluVal r)
  | .global => s.glbVal fn r

/-- What a function reads in the 8-byte slot at an offset of its BAR0; 0 where there is no register (22 R494). -/
def State.slotVal (s : State) (fn : Fn) (o : Nat) : Nat :=
  match (s.mapOff fn (o / 8 * 8)).bind regAt with
  | some r => s.regView fn r
  | none => 0

end Sys2Proof.Machine
end

