-- ==== Sys2Proof/Machine/RegWrite.lean ====
section
/-! DEFINITION. Writes of registers, and reads in halves: REGISTER_WRITE, BAR0_IRREGULAR_ACCESS, LOW_HALF_READ (00 R10-R14, 11 R252,
16 R372, 22 R495-R507). -/
namespace Sys2Proof.Machine

/-- A write of a slot: the value in its place, and the half it covers: 0 both, 1 the low, 2 the high (22 R495). -/
structure SlotWrite where
  half : Nat
  val : Nat
  deriving DecidableEq, Repr

/-- The new value of the fields, from the old one: the other half is left unchanged (22 R495). -/
def SlotWrite.merged (w : SlotWrite) (old : Nat) : Nat :=
  if w.half = 0 then w.val else if w.half = 1 then w.val % 2 ^ 32 + old / 2 ^ 32 * 2 ^ 32 else old % 2 ^ 32 + w.val / 2 ^ 32 * 2 ^ 32

/-- The new value as a doubleword. -/
def SlotWrite.dword (w : SlotWrite) (old : Nat) : Dword := BitVec.ofNat 64 (w.merged old)

/-- May a context's rings be set (11 R281)? -/
def State.ringsFree (s : State) (p k : Nat) : Bool := let st := (s.ctx p k).st; st == 0 || st == 3 || st == 5

/-- A write that is a configuration change of severity 8 (11 R277), under a state rule. -/
def State.configWrite (s : State) (fn : Fn) (p off val : Nat) (t : Target) (ok : Bool) (act : State → State) : State :=
  if !ok || s.arbitrate 8 t != .proceed then s.refuseP fn p off 3 val else act s

/-- A write of a register of a partition block or of its entries (22 R501, R505): off is its offset in the PF's map. -/
def State.writePtn (s : State) (fn : Fn) (off : Nat) (w : SlotWrite) (r : Reg) : State :=
  let p := match r.scope with
    | .part p => p
    | _ => 0
  let fp := Fin.ofNat 16 p
  let v := w.dword (s.ptnVal r)
  let gate := fun (act : State → State) => s.gateP fn p off w.val act
  match r with
  | .ptnCtl _ => if w.val.testBit 0 then stepPartitionReset (.fn fn) fp s else gate id
  | .ptnStrict _ => stepStrictWrite fn fp v s
  | .ptnXlatInv _ => stepXlatInvalidate fn fp v s
  | .ptnStreamResume _ => stepStreamResume fn fp v s
  | .ptnFrameFree _ => stepFrameFree fn fp (w.dword (s.part p).frame) s
  | .ptnPartIrq _ => gate (fun s => if w.val.testBit 0 then s.updPart p (fun x => { x with irq := 0 }) else s)
  | .ctxCtl _ k => s.ctxWrite fn p k v
  | .ctxXlat _ k => gate (fun s => s.updCtx p k (fun c => { c with
      xlat := { c.xlat with enable := v.toNat.testBit 0, root := bf v 21 22, pasidEn := v.toNat.testBit 43, pasid := bf v 44 20 } }))
  | .ctxSave _ k => gate (fun s => s.configWrite fn p off w.val (.ctx p k) true (fun s =>
      s.updCtx p k (fun c => { c with saveVa := bf v 16 32 * 65536 })))
  | .ctxCq _ k => gate (fun s => s.configWrite fn p off w.val (.ctx p k) (s.ringsFree p k) (fun s =>
      s.updCtx p k (fun c => { c with cqSize := bf v 0 5, cqBase := bf v 6 42 * 64 })))
  | .ctxQ _ i => gate (fun s => s.configWrite fn p off w.val (.ctx p (i / 4)) (s.ringsFree p (i / 4)) (fun s =>
      s.updQueue p (i / 4) (i % 4) (fun q => { q with size := bf v 0 5, base := bf v 6 42 * 64 })))
  | .ctxStep _ k => s.writeStill fn p k (0xB00 + 8 * k) v (fun x => { x with step := v.toNat })
  | .ctxSeedLo _ k => s.writeStill fn p k (0xD00 + 8 * k) v (fun x => { x with seedLo := v })
  | .ctxSeedHi _ k => s.writeStill fn p k (0xF00 + 8 * k) v (fun x => { x with seedHi := v })
  | .ctxCheck _ k => gate (fun s => if w.val.testBit 5 then s.updCtxX p k (fun x => { x with shortfall := false }) else s)
  | .ctxIrq _ k => gate (fun s => s.updCtxX p k (fun x => { x with
      irqCq := if w.val.testBit 0 then 0 else x.irqCq, irqFault := if w.val.testBit 1 then 0 else x.irqFault }))
  | .ctxRing _ k => gate (fun s => if !s.ringsFree p k then s.refuseP fn p off 3 w.val
      else s.updCtxX p k (fun x => { x with ringEnable := v.toNat.testBit 0, ringSize := bf v 1 4, ringBase := bf v 8 40 * 256 }))
  | .ctxFstat _ k => gate (fun s => if w.val.testBit 48 then s.updCtxX p k (fun x => { x with ringFault := false }) else s)
  | .ctxFhead _ k => gate (fun s => s.updCtxX p k (fun x => { x with head := bf v 0 32 }))
  | .replaceCfg _ => gate (fun s => s.configWrite fn p off w.val (.part p) true (fun s =>
      s.updPart p (fun x => { x with autoSkip := v.toNat.testBit 0, autoRelocate := v.toNat.testBit 1 })))
  | .dbTail _ k x => if w.half = 2 then s else stepDoorbell fn fp (Fin.ofNat 64 k) (Fin.ofNat 4 x) (BitVec.ofNat 32 w.val) s
  | .dbCqHead _ k => if w.half = 2 then s else stepCqHeadWrite fn fp (Fin.ofNat 64 k) (BitVec.ofNat 32 w.val) s
  | _ => s

/-- A write of a register of a cluster block, or of its entries (22 R503, R505); log entry 80. -/
def State.writeClu (s : State) (fn : Fn) (off : Nat) (w : SlotWrite) (r : Reg) : State :=
  let c := match r.scope with
    | .cluster c => c
    | _ => 0
  let v := w.dword (s.cluVal r)
  let gate := fun (act : State → State) => s.gateC fn c off w.val act
  let chip := fun (act : State → State) => if s.ownsC fn c then act s else s.refuseC fn c off 2 w.val
  match r with
  | .cluMsgCtl _ => s.msgWrite fn c v
  | .cluMsgSel _ => gate (fun s => if taC (bf v 0 13) != c then s.refuseC fn c off 6 w.val
      else s.updClX c (fun x => { x with msgSel := bf v 0 13 }))
  | .cluTapSel _ => chip (fun s => if taC (bf v 0 13) != c then s.refuseC fn c off 6 w.val
      else s.updClX c (fun x => { x with tapSel := bf v 0 13 }))
  | .cluCqCfg _ n q =>
      let bits := if n = 0 then 49 else if n = 1 then 52 else 60
      gate (fun s => s.updComb c q (fun g => { g with cfg := BitVec.ofNat 192 (setField g.cfg.toNat (64 * n) 64 (bf v 0 bits)) }))
  | .cluVrStatus _ b => gate (fun s => if w.val.testBit 28 then s.updBatX c b (fun x => { x with ovf := false }) else s)
  | .cluSliceStatus _ n => chip (fun s => if w.val.testBit 19 then s.updSlice c n (fun x => { x with lost := false }) else s)
  | .cluBankStatus _ i => gate (fun s => s.updTile (taddr c (i % 16) (i / 16)) (fun t => t.updCtl (fun x => { x with
      conflict := x.conflict && !w.val.testBit 25, resFault := x.resFault && !w.val.testBit 26 })))
  | .fltEngRst _ =>
      if bf v 1 2 = 3 then gate (fun s => s.refuseC fn c off 6 w.val)
      else if v.toNat.testBit 0 then s.engineOrder fn c (bf v 1 2) (bf v 3 2) (v.toNat.testBit 5)
      else gate (fun s => s.updClY c (fun y => { y with engKind := bf v 1 2, engIndex := bf v 3 2, engHang := v.toNat.testBit 5 }))
  | _ => s

/-- A write of a register that the owner of the global block makes, or a PF in its own copy (22 R496, R499, R505, R506). -/
def State.writeGlb (s : State) (fn : Fn) (off : Nat) (w : SlotWrite) (r : Reg) : State :=
  let v := w.dword (s.glbVal fn r)
  let gate := fun (act : State → State) => s.gateG fn off w.val act
  match r with
  | .glbCheckCfg => gate (fun s => if bf v 0 4 < 4 || 10 < bf v 0 4 then s.refuseG fn off 6 w.val
      else { s with health := { s.health with rateLog2 := bf v 0 4, autoRate := v.toNat.testBit 4 } })
  | .glbPwrCap => gate (fun s => if bf v 0 12 < 800 || 2000 < bf v 0 12 then s.refuseG fn off 6 w.val
      else
        let s := { s with pwr := { s.pwr with capW := bf v 0 12 } }
        { s with pwr := { s.pwr with ilim := s.iLimit } })
  | .glbPwrStatus => gate (fun s => if w.val.testBit 36 then { s with pwr := { s.pwr with capUnmet := false } } else s)
  | .glbEnvStatus => gate (fun s => { s with pwr := { s.pwr with
      inputEvt := s.pwr.inputEvt && !w.val.testBit 32, coolantEvt := s.pwr.coolantEvt && !w.val.testBit 33
      railEvt := s.pwr.railEvt && !w.val.testBit 34 } })
  | .glbMemchStatus i => gate (fun s => if w.val.testBit 9 then s.updChan i (fun x => { x with lost := 0 }) else s)
  | .glbRingId => stepRingIdWrite fn v s
  | .glbRingKey p => stepRingKeyWrite fn (Fin.ofNat 16 p) v s
  | .cfgSecure => stepSecure fn (BitVec.ofNat 64 w.val) s
  | .fltEscCfg => gate (fun s => if 5 < bf v 0 3 then s.refuseG fn off 6 w.val
      else { s with health := { s.health with escLimit := bf v 0 3 } })
  | .logWsel => gate (fun s => { s with log := { s.log with page := bf v 0 5 } })
  | .logTraceEn n => gate (fun s => { s with log := { s.log with traceEn := tset s.log.traceEn n (BitVec.ofNat 64 (bf v 0 32)) } })
  | .glbFwLoad => stepFwLoad fn (BitVec.ofNat 64 w.val) s
  | .cfgStage => stepCfgStage fn (BitVec.ofNat 64 w.val) s
  | .glbBar2Win n => (match fn with
    | .pf port => stepBar2WindowBind port (Fin.ofNat 16 n) (BitVec.ofNat 64 w.val) s
    | _ => s)
  | .cfgWindow n => stepStagingWindowWrite fn false (8 * n + (if w.half = 2 then 4 else 0))
      (if w.half = 2 then leBytes 4 (w.val / 2 ^ 32) else leBytes (if w.half = 1 then 4 else 8) w.val) s
  | .fwWindow n => stepStagingWindowWrite fn true (8 * n + (if w.half = 2 then 4 else 0))
      (if w.half = 2 then leBytes 4 (w.val / 2 ^ 32) else leBytes (if w.half = 1 then 4 else 8) w.val) s
  | _ => s

/-- Is a register written with one 8-byte write only (22 R495)? -/
def Reg.eightByte : Reg → Bool
  | .ptnXlatInv _ | .ctxCtl _ _ | .cluMsgCtl _ | .cfgStage | .glbFwLoad | .glbBar2Win _ => true
  | _ => false

/-- A write of a register that the function's BAR0 maps (22 R495). -/
def State.writeReg (s : State) (fn : Fn) (off : Nat) (w : SlotWrite) (r : Reg) : State :=
  if !s.boot.bundle && fn != .net && !r.early fn then s.refuseG fn off 3 w.val
  else match r with
  | .logWin _ => s.refuseG fn off 2 w.val
  | _ =>
    if r.eightByte && w.half != 0 then s.logAccess fn off 0x7F 1 w.val
    else if !r.wide && w.half = 2 then s
    else match r.scope with
    | .part _ => (match r with
      | .glbPkey _ => s
      | .glbRingKey _ => s.writeGlb fn off w r
      | _ => s.writePtn fn off w r)
    | .cluster _ => s.writeClu fn off w r
    | _ => s.writeGlb fn off w r

/-- A write of 4 or 8 bytes at an aligned offset of a function's BAR0; without a register it has no effect (22 R494, R495). -/
def State.writeSlot (s : State) (fn : Fn) (off bytes : Nat) (val : Nat) : State :=
  let w : SlotWrite := if bytes = 8 then { half := 0, val } else if off % 8 = 0 then { half := 1, val := val % 2 ^ 32 }
    else { half := 2, val := val % 2 ^ 32 * 2 ^ 32 }
  match (s.mapOff fn off).map (· / 8 * 8) with
  | none => s
  | some o => match regAt o with
    | some r => s.writeReg fn o w r
    | none => if !s.boot.bundle && fn != .net then s.refuseG fn off 3 val else s

/-- Is an access naturally aligned and of 4 or 8 bytes (00 R10)? -/
def regular (off bytes : Nat) : Bool := (bytes == 4 || bytes == 8) && off % bytes == 0

/-- An access that R10 does not allow: the event names the offset in the function's own BAR0, and no owner, for none is stated (log entry
13). -/
def State.irregular (s : State) (fn : Fn) (off val : Nat) : State := s.withAccess off val (fun s => s.logAccess fn off 0x7F 1 val)

/-- A write of n bytes of BAR0 (00 R10, R11): what is not 4 or 8 aligned bytes is discarded and logged. -/
def State.writeBar0 (s : State) (fn : Fn) (off n val : Nat) : State :=
  let s := s.unlatch fn
  let v := val % 2 ^ (8 * n)
  if regular off n then s.withAccess off v (fun s => s.writeSlot fn off n v) else s.irregular fn off v

def stepRegisterWrite (fn : Fn) (off : Nat) (size : Size) (val : Dword) (s : State) : State :=
  s.writeBar0 fn off (sizeBytes size) val.toNat

/-- REGISTER_WRITE (00 R12-R14, 22 R495): a write of BAR0; a register with a row of its own acts as that row says. -/
def execRegisterWrite (fn : Fn) (off : Nat) (size : Size) (val : Dword) (s : State) : Host.Outcome State Fault Refusal :=
  .next (stepRegisterWrite fn off size val s)

/-- Data returned to a function. -/
def State.readBack (s : State) (fn : Fn) (len data : Nat) : State :=
  match fn with
  | .pf port => s.emit (.readData port.val len data)
  | .vf port _ => s.emit (.readData port.val len data)
  | .net => s

/-- Does an offset of a function's BAR0 lie in the block or a doorbell page of a partition that the function does not own, or is the function
a VF that no partition holds (11 R251, R252)? -/
def State.unowned (s : State) (fn : Fn) (off : Nat) : Bool :=
  s.boot.bundle && (match s.mapOff fn off with
    | some o =>
      if 0x10000 ≤ o && o < 0x110000 then !s.ownsP fn (o / 0x10000 - 1)
      else if 0x200000 ≤ o && o < 0x240000 then !s.ownsP fn ((o - 0x200000) / 0x4000)
      else false
    | none => match fn with
      | .vf port v => (s.vfPart port.val v.val).isNone
      | _ => false)

/-- A read that addresses no owned partition completes as an Unsupported Request (11 R253). -/
def State.refuseRead (s : State) (fn : Fn) : State :=
  match fn with
  | .pf port => s.emit (.unsupported port.val)
  | .vf port _ => s.emit (.unsupported port.val)
  | .net => s

/-- A read of 4 or 8 aligned bytes of BAR0 (00 R11): 8 bytes give one consistent value; 4 bytes of a low half latch the high half of a 64-bit
register, and 4 bytes of a high half give what is latched, or the value. Every access releases the latch. -/
def State.readBar0 (s : State) (fn : Fn) (off n : Nat) : State :=
  let v := s.slotVal fn off
  let latched := s.hosts.latch.find? (fun e => e.1 == fnCode fn && off % 8 == 4 && s.mapOff fn (off - 4) == some e.2.1)
  let s := s.unlatch fn
  if s.unowned fn off then s.refuseRead fn
  else if n = 8 then s.readBack fn 8 v
  else if off % 8 = 4 then match latched with
    | some e => s.readBack fn 4 e.2.2
    | none => s.readBack fn 4 (v / 2 ^ 32)
  else
    let s := s.readBack fn 4 (v % 2 ^ 32)
    match fn, s.mapOff fn off with
    | .net, _ => s
    | _, none => s
    | f, some o => if ((regAt o).map (·.wide)).getD false then
        { s with hosts := { s.hosts with latch := tset s.hosts.latch (fnCode f) (o, v / 2 ^ 32) } }
      else s

/-- BAR0_IRREGULAR_ACCESS (00 R10, R11): an access of any length. What is not 4 or 8 aligned bytes is discarded or read as all ones, and
logged; 4 or 8 aligned bytes are written, or read: 8 of them as one value. -/
def stepBar0IrregularAccess (fn : Fn) (off len : Nat) (write : Bool) (val : Dword) (s : State) : State :=
  if write then s.writeBar0 fn off len val.toNat
  else if regular off len then s.readBar0 fn off len
  else ((s.unlatch fn).irregular fn off 0).readBack fn len (2 ^ (8 * len) - 1)

/-- BAR0_IRREGULAR_ACCESS (00 R10). -/
def execBar0IrregularAccess (fn : Fn) (off len : Nat) (write : Bool) (val : Dword) (s : State) : Host.Outcome State Fault Refusal :=
  .next (stepBar0IrregularAccess fn off len write val s)

def stepLowHalfRead (fn : Fn) (off : Nat) (s : State) : State :=
  if off % 4 != 0 then ((s.unlatch fn).irregular fn off 0).readBack fn 4 0xFFFFFFFF else s.readBar0 fn off 4

/-- LOW_HALF_READ (00 R11): a 4-byte read; of the low half of a 64-bit register it latches the high half, of the high half it
returns what is latched. -/
def execLowHalfRead (fn : Fn) (off : Nat) (s : State) : Host.Outcome State Fault Refusal := .next (stepLowHalfRead fn off s)

end Sys2Proof.Machine
end

