-- ==== Sys2Proof/Machine/Belfry.lean ====
section
/-! DEFINITION. The belfry: requests of managers and their responses, reports, the management ports (20 R456-R462). -/
namespace Sys2Proof.Machine

/-! Acceptance (20 R457, R458, 16 R370). -/

/-- Does the belfry take messages on a port: link, power, and its component of the security core running (18 R409)? -/
def State.bfUp (s : State) (port : Nat) : Bool := s.boot.powerGood && s.bfLink port && !s.compDown 2

/-- A message with a wrong tag is dropped and counted (20 R457). -/
def State.badTag (s : State) : State := { s with belfry := { s.belfry with authFail := satAdd 16 s.belfry.authFail 1 } }

/-- The tag a manager's message must carry: header and payload under the management key (20 R457). -/
def State.tagOf (s : State) (typ port seq ref : Nat) (payload : List Byte) : BitVec 128 :=
  bfTag s.belfry.key (bfHeader typ false false false port seq ref payload.length 0 ++ payload)

/-- A request is accepted (20 R458): H, and its copy in the NOR at every 4,096th. -/
def State.accept (s : State) (seq : Nat) : State :=
  let n := s.belfry.accepted + 1
  { s with belfry := { s.belfry with
    high := seq, accepted := n, storedHigh := if n % 4096 = 0 then seq else s.belfry.storedHigh } }

/-- A request arrives (20 R457, R458): performed once; the response of one of the 64 kept is sent again; `ready` is the condition of
16 R370, and a request it does not admit completes with NOT_READY. -/
def State.bfRequest (s : State) (typ : Nat) (port : Fin 2) (seq : Nat) (mac : BitVec 128) (payload : List Byte) (ready : Bool)
    (act : State → State) : State :=
  if !s.bfUp port.val then s
  else if mac != s.tagOf typ port.val seq 0 payload then s.badTag
  else if seq ≤ s.belfry.high then match s.belfry.kept.find? (fun e => e.1 == seq) with
    | some e => s.emit (.belfry port.val 0 e.2)
    | none => s
  else
    let s := s.accept seq
    if ready then act s else s.respond port.val typ seq 0xD0 []

/-- An order whose response waits for its completion (20 R461). -/
def State.bfOrdered (s : State) (typ : Nat) (port : Fin 2) (seq key : Nat) (act : State → State × Nat) : State :=
  let w := (key, port.val, typ, seq)
  match act { s with belfry := { s.belfry with waits := s.belfry.waits ++ [w] } } with
  | (s1, 0) => s1
  | (s1, st) => ({ s1 with belfry := { s1.belfry with waits := s1.belfry.waits.filter (fun v => v != w) } }).respond port.val typ seq st []

/-- A request with nothing to wait for: its status, and the bytes of its response. -/
def State.bfDone (s : State) (typ : Nat) (port : Fin 2) (seq st : Nat) : State := s.respond port.val typ seq st []

/-- A payload of a stated size whose reserved bits are 0 (00 R15): `mask` holds the bits that fields cover; log entry 82. -/
def bfFits (payload : List Byte) (n mask : Nat) : Bool := payload.length == n && leNat payload == leNat payload &&& mask

/-- A mask of w bits from bit lo on. -/
def bitMask (l : List (Nat × Nat)) : Nat := l.foldl (fun (m : Nat) (f : Nat × Nat) => m ||| (2 ^ f.2 - 1) * 2 ^ f.1) 0

/-- A request whose payload breaks 00 R15 completes with RESERVED_NONZERO. -/
def State.bfChecked (s : State) (typ : Nat) (port : Fin 2) (seq : Nat) (ok : Bool) (act : State → State) : State :=
  if ok then act s else s.bfDone typ port seq St.reservedNonzero

/-! Messages that read or set the belfry's own state. -/

def stepHello (s : State) : State :=
  if !s.boot.powerGood || s.compDown 2 then s
  else
    let p := leBytes 48 (pack [(32, glbIdVal), (32, s.glbStageVal), (64, s.glbReadyVal), (64, s.glbFpStatusVal), (32, s.ledger.opSec), (32, 0),
      (64, Config.serial.toNat), (64, 0)])
    ({ s with belfry := { s.belfry with seq := wrapAdd 32 s.belfry.seq 1 } }).bfSend 0x01 false false s.belfry.seq 0 p

/-- HELLO (20 R459): the event of each second. -/
def execHello (s : State) : Host.Outcome State Fault Refusal := .next (stepHello s)

def stepReportResend (s : State) : State :=
  if s.compDown 2 then s
  else s.each s.belfry.reports (fun s r => s.bfSend r.2.1 false true r.1 0 (leBytes (reportLen r.2.1) r.2.2.1))

/-- REPORT_RESEND (20 R462): the event of each 250 ms. -/
def execReportResend (s : State) : Host.Outcome State Fault Refusal := .next (stepReportResend s)

def stepSubscribe (port : Fin 2) (seq : Nat) (mac src : BitVec 128) (payload : List Byte) (s : State) : State :=
  s.bfRequest 0x20 port seq mac payload true (fun s =>
    s.bfChecked 0x20 port seq (bfFits payload 8 (bitMask [(0, 16)])) (fun s =>
      let d := some (src.toNat * 65536 + leNat payload)
      let b := s.belfry
      ({ s with belfry := if port.val = 0 then { b with coll0 := d } else { b with coll1 := d } }).bfDone 0x20 port seq St.completed))

/-- SUBSCRIBE (20 R459, R462): taken from stage 0 on (log entry 45). -/
def execSubscribe (port : Fin 2) (seq : Nat) (mac src : BitVec 128) (payload : List Byte) (s : State) : Host.Outcome State Fault Refusal :=
  .next (stepSubscribe port seq mac src payload s)

def stepAck (port : Fin 2) (seq ref : Nat) (mac : BitVec 128) (payload : List Byte) (s : State) : State :=
  if !s.bfUp port.val then s
  else if mac != s.tagOf 0x21 port.val seq ref payload then s.badTag
  else { s with belfry := { s.belfry with reports := s.belfry.reports.filter (fun r => r.1 != ref) } }

/-- ACK (20 R458, R462): its REF names the report; its own SEQ is not compared with H. -/
def execAck (port : Fin 2) (no : SeqRef) (mac : BitVec 128) (payload : List Byte) (s : State) : Host.Outcome State Fault Refusal :=
  .next (stepAck port no.seq no.ref mac payload s)

/-! READ (20 R459). -/

/-- A byte of a ledger copy (13 R318): an entry never written is the factory's blank one. -/
def ledgerByte (copy : Tbl LedgerEntry) (i : Nat) : Byte :=
  let n := i / 64
  let blank := if n = 0 then sealEntry (pack [(8, 0), (16, 1)]) 0 else sealEntry (blankEntry (unitOfNo n).1 (unitOfNo n).2).toNat 0
  if n = 0 || (64 ≤ n && n < 18648) then BitVec.ofNat 8 (bf (tget copy n blank) (8 * (i % 64)) 8) else Config.norByte i

/-- The size of an object of READ: the floor plan, a ledger copy, the log ring. -/
def objectSize (obj : Nat) : Nat := if obj = 0 then 2368 else if obj = 3 then 1048576 else 2097152

/-- A byte of an object. -/
def State.objectByte (s : State) (obj i : Nat) : Byte :=
  if obj = 0 then BitVec.ofNat 8 (bf s.boot.fpRec (8 * i) 8)
  else if obj = 1 then ledgerByte s.ledger.copyA i
  else if obj = 2 then ledgerByte s.ledger.copyB i
  else BitVec.ofNat 8 (bf (s.logAt (i / 32)) (8 * (i % 32)) 8)

/-- May an object be read now (16 R370)? -/
def State.readReady (s : State) (obj off : Nat) : Bool :=
  s.boot.bundle ||
    (if obj = 4 then off == 0 || off == 8 || off == 0x10 || off == 0x88 ||
        (s.boot.done.testBit 1 && (off == 0x20 || off == 0x28 || (decide (0x1000 ≤ off) && decide (off < 0x1940))))
     else s.boot.done.testBit 1)

def stepRead (port : Fin 2) (seq : Nat) (mac : BitVec 128) (payload : List Byte) (s : State) : State :=
  let v := leNat payload
  let obj := field v 0 4
  let off := field v 32 32
  let len := field v 64 16
  s.bfRequest 0x22 port seq mac payload (s.readReady obj off) (fun s =>
    s.bfChecked 0x22 port seq (bfFits payload 10 (bitMask [(0, 4), (32, 48)]) && decide (obj ≤ 4)) (fun s =>
      if obj = 4 then
        if len != 8 || off % 8 != 0 || 0x2000000 ≤ off then s.bfDone 0x22 port seq 0xD6
        else s.respond port.val 0x22 seq St.completed (leBytes 8 (s.slotVal .net off))
      else if len = 0 || 1024 < len || objectSize obj < off + len then s.bfDone 0x22 port seq 0xD6
      else s.respond port.val 0x22 seq St.completed ((List.range len).map (fun i => s.objectByte obj (off + i)))))

/-- READ (20 R459, 16 R370). -/
def execRead (port : Fin 2) (seq : Nat) (mac : BitVec 128) (payload : List Byte) (s : State) : Host.Outcome State Fault Refusal :=
  .next (stepRead port seq mac payload s)

/-! WRITE_REG (20 R460). -/

/-- The registers that WRITE_REG accepts. -/
def writable (off : Nat) : Bool :=
  match regAt off with
  | some .glbCheckCfg | some .fltEscCfg | some .glbPwrCap | some (.logTraceEn _) | some .cfgSecure | some .glbRingId
  | some (.glbRingKey _) => true
  | _ => false

def stepWriteReg (port : Fin 2) (seq : Nat) (mac : BitVec 128) (payload : List Byte) (s : State) : State :=
  let v := leNat payload
  s.bfRequest 0x23 port seq mac payload s.boot.bundle (fun s =>
    s.bfChecked 0x23 port seq (bfFits payload 16 (bitMask [(0, 32), (64, 64)])) (fun s =>
      if writable (field v 0 32) then (s.writeSlot .net (field v 0 32) 8 (field v 64 64)).bfDone 0x23 port seq St.completed
      else s.bfDone 0x23 port seq 0xD5))

/-- WRITE_REG (20 R460); log entry 81. -/
def execWriteReg (port : Fin 2) (seq : Nat) (mac : BitVec 128) (payload : List Byte) (s : State) : Host.Outcome State Fault Refusal :=
  .next (stepWriteReg port seq mac payload s)

/-! ORDER (20 R461). -/

/-- The payload of an ORDER: its ORDER field is the row's. -/
def orderBytes (n : Nat) (payload : List Byte) : List Byte := leBytes payload.length (setField (leNat payload) 0 4 n)

/-- An ORDER arrives. -/
def State.bfOrder (s : State) (n : Nat) (port : Fin 2) (seq : Nat) (mac : BitVec 128) (payload : List Byte) (ready ok : Bool)
    (act : Nat → State → State) : State :=
  let p := orderBytes n payload
  s.bfRequest 0x24 port seq mac p ready (fun s => s.bfChecked 0x24 port seq (bfFits p 8 (bitMask [(0, 42)]) && ok) (act (leNat p)))

/-- ORDER_CHIP_RESET (20 R461, 15 R357): taken from stage 0 on (log entry 45). -/
def execOrderChipReset (port : Fin 2) (seq : Nat) (mac : BitVec 128) (payload : List Byte) (s : State) : Host.Outcome State Fault Refusal :=
  .next (s.bfOrder 1 port seq mac payload true true (fun _ s => s.bfOrdered 0x24 port seq waitModule (fun s => s.orderChipReset false)))

/-- ORDER_PARTITION_RESET (20 R461, 15 R360). -/
def execOrderPartitionReset (port : Fin 2) (seq : Nat) (mac : BitVec 128) (payload : List Byte) (s : State) :
    Host.Outcome State Fault Refusal :=
  .next (s.bfOrder 2 port seq mac payload s.boot.bundle true (fun v s =>
    s.bfOrdered 0x24 port seq (waitPart (field v 4 4)) (fun s => s.orderPartReset (field v 4 4) false)))

/-- ORDER_ENGINE_RESET (20 R461, 15 R359). -/
def execOrderEngineReset (port : Fin 2) (seq : Nat) (mac : BitVec 128) (payload : List Byte) (s : State) :
    Host.Outcome State Fault Refusal :=
  .next (s.bfOrder 3 port seq mac payload s.boot.bundle (field (leNat payload) 18 2 != 3) (fun v s =>
    let s := s.engineReset (field v 14 4) (field v 18 2) (field v 20 2) false
    s.bfDone 0x24 port seq (s.clY (field v 14 4)).engResult))

/-- ORDER_CONTEXT_RESET (20 R461, 15 R358). -/
def execOrderContextReset (port : Fin 2) (seq : Nat) (mac : BitVec 128) (payload : List Byte) (s : State) :
    Host.Outcome State Fault Refusal :=
  .next (s.bfOrder 4 port seq mac payload s.boot.bundle true (fun v s =>
    s.bfOrdered 0x24 port seq (waitCtx (field v 4 4) (field v 8 6)) (fun s => s.resetContext (field v 4 4) (field v 8 6))))

/-- ORDER_MUFFLE (20 R461, 15 R345): also a confirmed error with SOURCE 6. -/
def execOrderMuffle (port : Fin 2) (seq : Nat) (mac : BitVec 128) (payload : List Byte) (s : State) : Host.Outcome State Fault Refusal :=
  .next (s.bfOrder 5 port seq mac payload s.boot.bundle (unitExists (field (leNat payload) 22 4) (field (leNat payload) 26 16)) (fun v s =>
    match s.fence true (field v 22 4) (field v 26 16) with
    | (s1, 0) => s1.bfDone 0x24 port seq St.completed
    | (s1, st) => s1.bfDone 0x24 port seq st))

/-- An order of the belfry on a context (11 R255, R279): GO of PTN_CTX_CTL is not its trigger; log entry 70. -/
def State.bfCtxOp (s : State) (p k op : Nat) : State × Nat :=
  match s.arbitrate (opSev op) (.ctx p k) with
  | .superseded => (s, St.superseded)
  | .join => (s, 0)
  | .proceed =>
    if !opAllowed op (s.ctx p k).st || s.noCluster p op then (s, St.contextState)
    else ((s.ctxOp p k op).updCtx p k (fun c => { c with go := if c.st = (s.ctx p k).st then c.go else (s.ctx p k).go }), 0)

/-- ORDER_PREEMPT (20 R461, 11 R269). -/
def execOrderPreempt (port : Fin 2) (seq : Nat) (mac : BitVec 128) (payload : List Byte) (s : State) : Host.Outcome State Fault Refusal :=
  .next (s.bfOrder 6 port seq mac payload s.boot.bundle true (fun v s =>
    s.bfOrdered 0x24 port seq (waitCtx (field v 4 4) (field v 8 6)) (fun s => s.bfCtxOp (field v 4 4) (field v 8 6) 1)))

/-- ORDER_RESUME (20 R461, 11 R271). -/
def execOrderResume (port : Fin 2) (seq : Nat) (mac : BitVec 128) (payload : List Byte) (s : State) : Host.Outcome State Fault Refusal :=
  .next (s.bfOrder 7 port seq mac payload s.boot.bundle true (fun v s =>
    s.bfOrdered 0x24 port seq (waitCtx (field v 4 4) (field v 8 6)) (fun s => s.bfCtxOp (field v 4 4) (field v 8 6) 2)))

/-- Does a unit's re-admission still run: its retest, or its way back by the next flip? -/
def State.readmitting (s : State) (kind idx : Nat) : Bool :=
  (s.retestOf kind idx).isSome || s.mesh.installing.contains (unitCode kind idx)

/-- ORDER_RE_ADMIT (20 R461, 14 R337, 10 R246). -/
def execOrderReAdmit (port : Fin 2) (seq : Nat) (mac : BitVec 128) (payload : List Byte) (s : State) : Host.Outcome State Fault Refusal :=
  .next (s.bfOrder 8 port seq mac payload s.boot.bundle (unitExists (field (leNat payload) 22 4) (field (leNat payload) 26 16)) (fun v s =>
    let kind := field v 22 4
    let idx := field v 26 16
    s.bfOrdered 0x24 port seq (waitUnit kind idx) (fun s => match s.unfence kind idx with
      | (s1, 0) => (s1, if s1.readmitting kind idx then 0 else St.completed)
      | r => r)))

/-! Staging and swaps (17 R402, 20 R459). -/

def stepStageData (port : Fin 2) (seq : Nat) (mac : BitVec 128) (payload : List Byte) (s : State) : State :=
  let v := leNat (payload.take 8)
  let data := payload.drop 8
  s.bfRequest 0x25 port seq mac payload s.boot.bundle (fun s =>
    s.bfChecked 0x25 port seq (bfFits (payload.take 8) 8 (bitMask [(0, 32)])) (fun s =>
      if 1024 < data.length || 4194304 < field v 0 32 + data.length then s.bfDone 0x25 port seq 0xD6
      else if (s.stager 4).go then s.bfDone 0x25 port seq 0x50
      else (s.updStager 4 (fun x => { x with buf := mwriteBytes x.buf (field v 0 32) data })).bfDone 0x25 port seq St.completed))

/-- STAGE_DATA (20 R459); log entry 83. -/
def execStageData (port : Fin 2) (seq : Nat) (mac : BitVec 128) (payload : List Byte) (s : State) : Host.Outcome State Fault Refusal :=
  .next (stepStageData port seq mac payload s)

def stepStageGo (port : Fin 2) (seq : Nat) (mac : BitVec 128) (payload : List Byte) (s : State) : State :=
  let v := leNat payload
  let t := if v.testBit 0 then field v 1 4 else devTarget
  s.bfRequest 0x26 port seq mac payload s.boot.bundle (fun s =>
    s.bfChecked 0x26 port seq (bfFits payload 8 (bitMask [(0, 5), (32, 23)])) (fun s =>
      if (s.stager 4).go then s.bfDone 0x26 port seq 0x50
      else if 4194304 < field v 32 23 then s.bfDone 0x26 port seq 0xD6
      else s.bfOrdered 0x26 port seq waitStage (fun s => s.stageGo 4 t (field v 32 23))))

/-- STAGE_GO (20 R459, 17 R402). -/
def execStageGo (port : Fin 2) (seq : Nat) (mac : BitVec 128) (payload : List Byte) (s : State) : Host.Outcome State Fault Refusal :=
  .next (stepStageGo port seq mac payload s)

def stepSwap (port : Fin 2) (seq : Nat) (mac : BitVec 128) (payload : List Byte) (s : State) : State :=
  let v := leNat payload
  let t := if v.testBit 0 then field v 1 4 else devTarget
  s.bfRequest 0x27 port seq mac payload s.boot.bundle (fun s =>
    s.bfChecked 0x27 port seq (bfFits payload 8 (bitMask [(0, 5)])) (fun s =>
      s.bfOrdered 0x27 port seq (waitSwap t) (fun s => s.orderSwap t none true seq)))

/-- SWAP (20 R459, 17 R404, R405). -/
def execSwap (port : Fin 2) (seq : Nat) (mac : BitVec 128) (payload : List Byte) (s : State) : Host.Outcome State Fault Refusal :=
  .next (stepSwap port seq mac payload s)

/-! OWNER, SVN_RAISE, KEY_SET (16 R373, 18 R412, 20 R459). -/

def stepOwner (port : Fin 2) (seq : Nat) (mac : BitVec 128) (payload : List Byte) (s : State) : State :=
  s.bfRequest 0x28 port seq mac payload true (fun s =>
    s.bfChecked 0x28 port seq (bfFits payload 8 3) (fun s =>
      if s.boot.bundle then s.bfDone 0x28 port seq St.contextState
      else ({ s with cfg := { s.cfg with mgmtPort := field (leNat payload) 0 2, mgmtValid := true } }).bfDone 0x28 port seq St.completed))

/-- OWNER (16 R373, 20 R459): refused once stage 3 has ended. -/
def execOwner (port : Fin 2) (seq : Nat) (mac : BitVec 128) (payload : List Byte) (s : State) : Host.Outcome State Fault Refusal :=
  .next (stepOwner port seq mac payload s)

def stepSvnRaise (port : Fin 2) (seq : Nat) (mac : BitVec 128) (payload : List Byte) (s : State) : State :=
  s.bfRequest 0x29 port seq mac payload s.boot.bundle (fun s =>
    s.bfChecked 0x29 port seq payload.isEmpty (fun s =>
      ({ s with fw := { s.fw with svnFloor := max s.fw.svnFloor s.fw.svn } }).bfDone 0x29 port seq St.completed))

/-- SVN_RAISE (18 R412). -/
def execSvnRaise (port : Fin 2) (seq : Nat) (mac : BitVec 128) (payload : List Byte) (s : State) : Host.Outcome State Fault Refusal :=
  .next (stepSvnRaise port seq mac payload s)

def stepKeySet (port : Fin 2) (seq : Nat) (mac : BitVec 128) (payload : List Byte) (s : State) : State :=
  s.bfRequest 0x2A port seq mac payload s.boot.bundle (fun s =>
    s.bfChecked 0x2A port seq (payload.length == 40) (fun s =>
      match Config.aesUnwrap s.belfry.key (BitVec.ofNat 320 (leNat payload)) with
      | some key => ({ s with belfry := { s.belfry with key } }).bfDone 0x2A port seq St.completed
      | none => s.bfDone 0x2A port seq 0x47))

/-- KEY_SET (20 R457, R459): the response is sent under the new key; a wrapping that fails changes nothing (log entry 46). -/
def execKeySet (port : Fin 2) (seq : Nat) (mac : BitVec 128) (payload : List Byte) (s : State) : Host.Outcome State Fault Refusal :=
  .next (stepKeySet port seq mac payload s)

/-- Is a TYPE one that a manager may send (20 R459)? -/
def managerType (typ : Nat) : Bool := decide (0x20 ≤ typ) && decide (typ ≤ 0x2A)

def stepBelfryReservedType (port : Fin 2) (typ : Byte) (seq : Nat) (mac : BitVec 128) (payload : List Byte) (s : State) : State :=
  if managerType typ.toNat then s
  else s.bfRequest typ.toNat port seq mac payload s.boot.bundle (fun s => s.bfDone typ.toNat port seq 0xD5)

/-- BELFRY_RESERVED_TYPE (20 R459, R470). A type that is assigned is none. -/
def execBelfryReservedType (port : Fin 2) (typ : Byte) (seq : Nat) (mac : BitVec 128) (payload : List Byte) (s : State) :
    Host.Outcome State Fault Refusal := .next (stepBelfryReservedType port typ seq mac payload s)

/-! The management ports (20 R456). -/

/-- The link-local address of a port: fe80::/64 and the modified EUI-64 of its MAC address. -/
def linkLocal (port : Nat) : Nat :=
  let m := (Config.mac port).toNat
  let top := m / 2 ^ 24 ^^^ 0x020000
  0xFE80 * 2 ^ 112 + top * 2 ^ 40 + 0xFFFE * 2 ^ 24 + m % 2 ^ 24

def stepManagementPortLink (port : Fin 2) (up : Bool) (s : State) : State :=
  if !s.boot.powerGood || s.bfLink port.val == up then s
  else
    let s := { s with belfry := if port.val = 0 then { s.belfry with link0 := up } else { s.belfry with link1 := up } }
    if up then s.emit (.network port.val 0 (linkLocal port.val)) else s

/-- MANAGEMENT_PORT_LINK (20 R456, R471): on link-up the probe of duplicate address detection goes out; log entry 86. -/
def execManagementPortLink (port : Fin 2) (up : Bool) (s : State) : Host.Outcome State Fault Refusal :=
  .next (stepManagementPortLink port up s)

def stepNeighborSolicitation (port : Fin 2) (target : Nat) (s : State) : State :=
  if s.bfUp port.val && target == linkLocal port.val then s.emit (.network port.val 1 target) else s

/-- NEIGHBOR_SOLICITATION (20 R456): answered for the port's own address. -/
def execNeighborSolicitation (port : Fin 2) (target : Nat) (s : State) : Host.Outcome State Fault Refusal :=
  .next (stepNeighborSolicitation port target s)

def stepEchoRequest (port : Fin 2) (data : List Byte) (s : State) : State :=
  if s.bfUp port.val then s.emit (.network port.val 2 (leNat data)) else s

/-- ECHO_REQUEST (20 R456). -/
def execEchoRequest (port : Fin 2) (data : List Byte) (s : State) : Host.Outcome State Fault Refusal := .next (stepEchoRequest port data s)

end Sys2Proof.Machine
end

