-- ==== Sys2Proof/Machine/Monitor.lean ====
section
/-! DEFINITION. The SMBus interface and the Rilmal monitor (20 R463-R468). -/
namespace Sys2Proof.Machine

/-! SMBus (20 R463, R464): it answers while power is good. -/

/-- A little-endian answer of n bytes. -/
def State.smbusSay (s : State) (n v : Nat) : State := if s.boot.powerGood then s.emit (.smbus ((leBytes n v).map (·.toNat))) else s

/-- SMBUS_STATUS_READ (20 R463): command 0x00. -/
def execSmbusStatusRead (s : State) : Host.Outcome State Fault Refusal :=
  .next (s.smbusSay 2 (pack [(3, s.boot.stage), (8, s.boot.done), (1, b2n s.boot.serviceable)]))

def stepAlertCauses (write : Bool) (val : Byte) (s : State) : State :=
  if !s.boot.powerGood then s
  else if !write then s.smbusSay 1 s.smbus.causes
  else
    let n := clearBits s.smbus.causes val.toNat
    let t := { s with smbus := { s.smbus with causes := n } }
    if n = 0 && s.smbus.causes != 0 then t.emit (.alert false) else t

/-- ALERT_CAUSES (20 R463, R464): command 0x01; a write of 1 clears, and ALERT# is released with the last cause. -/
def execAlertCauses (write : Bool) (val : Byte) (s : State) : Host.Outcome State Fault Refusal := .next (stepAlertCauses write val s)

/-- SMBUS_INPUT_VOLTAGE_READ (20 R463): command 0x02, in units of 10 mV. -/
def execSmbusInputVoltageRead (s : State) : Host.Outcome State Fault Refusal := .next (s.smbusSay 2 s.vinMean)

/-- SMBUS_INPUT_CURRENT_READ (20 R463): command 0x03, in units of 10 mA. -/
def execSmbusInputCurrentRead (s : State) : Host.Outcome State Fault Refusal := .next (s.smbusSay 2 (s.pwr.inputMa / 10))

/-- SMBUS_INPUT_POWER_READ (20 R463): command 0x04, in W. -/
def execSmbusInputPowerRead (s : State) : Host.Outcome State Fault Refusal := .next (s.smbusSay 2 s.smbus.powerW)

/-- SMBUS_JUNCTION_READ (20 R463): command 0x05. -/
def execSmbusJunctionRead (s : State) : Host.Outcome State Fault Refusal := .next (s.smbusSay 1 s.smbus.junction)

/-- SMBUS_COOLANT_READ (20 R463): commands 0x06 and 0x07. -/
def execSmbusCoolantRead (outlet : Bool) (s : State) : Host.Outcome State Fault Refusal :=
  .next (s.smbusSay 1 (if outlet then s.pwr.outlet else s.pwr.inlet))

/-- SMBUS_READY_READ (20 R463): command 0x08. -/
def execSmbusReadyRead (s : State) : Host.Outcome State Fault Refusal := .next (s.smbusSay 2 s.boot.readyClusters)

/-- SMBUS_IDENTITY_READ (20 R463): command 0x20, 12 bytes: GLB_ID, then the serial number (log entry 47). -/
def execSmbusIdentityRead (s : State) : Host.Outcome State Fault Refusal :=
  .next (s.smbusSay 12 (pack [(32, glbIdVal), (64, Config.serial.toNat)]))

def stepFruEepromRead (addr len : Nat) (s : State) : State :=
  if s.boot.powerGood then s.emit (.smbus ((List.range len).map (fun i => (Config.fru ((addr + i) % 8192)).toNat))) else s

/-- FRU_EEPROM_READ (20 R463): 8 KiB, written only at the factory. -/
def execFruEepromRead (addr len : Nat) (s : State) : Host.Outcome State Fault Refusal := .next (stepFruEepromRead addr len s)

/-- ALERT_RESPONSE (20 R464): answered while ALERT# is asserted. -/
def execAlertResponse (s : State) : Host.Outcome State Fault Refusal :=
  .next (if s.smbus.causes = 0 then s else s.smbusSay 1 0x5A)

/-! The monitor (20 R467, R468). What it prints is given as its content: the manual gives no layout of the lines (log entry 47). -/

/-- Does the monitor answer: the boot ROM, and from the end of stage 3 its component (18 R409, R410)? -/
def State.monUp (s : State) : Bool := s.boot.powerGood && !s.compDown 4

/-- The answer of the monitor. -/
def State.say (s : State) (l : List Nat) : State := s.emit (.serial l)

/-- A line was received. -/
def State.monInput (s : State) : State := { s with mon := { s.mon with lastInput := s.now } }

/-- A command of a level after stage 3 (20 R467): one above the current level is answered MON_LOCKED. -/
def State.monCmd (s : State) (level : Nat) (act : State → State) : State :=
  if !s.monUp || !s.boot.bundle then s
  else if s.mon.level < level then s.monInput.say [0xD8]
  else act s.monInput

def stepMonitorVer (s : State) : State :=
  if s.monUp then s.monInput.say [glbIdVal, Config.serial.toNat, s.fw.version] else s

/-- MONITOR_VER (20 R467). -/
def execMonitorVer (s : State) : Host.Outcome State Fault Refusal := .next (stepMonitorVer s)

def stepMonitorStage (s : State) : State :=
  if s.monUp then s.monInput.say ([s.glbStageVal, s.glbReadyVal] ++ s.boot.reports.map (fun e => e.2.toNat)) else s

/-- MONITOR_STAGE (20 R467). -/
def execMonitorStage (s : State) : Host.Outcome State Fault Refusal := .next (stepMonitorStage s)

def stepMonitorChallenge (s : State) : State :=
  s.monCmd 0 (fun s =>
    let n := s.freeVal 128
    ({ s.drew 1 with mon := { s.mon with nonce := some n } }).say [n.toNat])

/-- MONITOR_CHALLENGE (20 R467): the nonce is a free value (log entry 4). -/
def execMonitorChallenge (s : State) : Host.Outcome State Fault Refusal := .next (stepMonitorChallenge s)

/-- Is an unlock token good (20 R468)? -/
def State.tokenOk (s : State) (token : List Byte) : Bool :=
  let v := leNat token
  token.length == 224 && field v 0 16 == 1 && field v 16 16 == 0xB4 && field v 32 64 == Config.serial.toNat &&
    s.mon.nonce == some (BitVec.ofNat 128 (field v 96 128)) && (field v 224 2 == 1 || field v 224 2 == 2) && field v 226 30 == 0 &&
    decide (1 ≤ field v 256 32) && decide (field v 256 32 ≤ 86400) && field v 288 736 == 0 &&
    Config.ecdsaOk s.cfgKey (Config.sha384 (token.take 128)) (BitVec.ofNat 768 (field v 1024 768))

def stepMonitorUnlock (token : List Byte) (s : State) : State :=
  s.monCmd 0 (fun s =>
    let m := s.mon
    let v := leNat token
    if m.backoff then s
    else if s.tokenOk token then
      { s with mon := { m with
        level := field v 224 2, expires := s.now + field v 256 32 * 1000000000, consecutive := 0, nonce := none } }
    else
      let five := decide (5 ≤ m.consecutive + 1)
      ({ s with mon := { m with
        nonce := none, fails := satAdd 8 m.fails 1, consecutive := if five then 0 else m.consecutive + 1, backoff := five
        backoffAt := if five then s.now else m.backoffAt } }).say [0xD9])

/-- MONITOR_UNLOCK (20 R468): each nonce serves one attempt; five failures in a row start the refusal (log entry 48). -/
def execMonitorUnlock (token : List Byte) (s : State) : Host.Outcome State Fault Refusal := .next (stepMonitorUnlock token s)

/-- The monitor locks. -/
def State.monLock (s : State) : State := { s with mon := { s.mon with level := 0, expires := 0 } }

/-- MONITOR_LOCK (20 R467). -/
def execMonitorLock (s : State) : Host.Outcome State Fault Refusal := .next (s.monCmd 0 (fun s => s.monLock))

def stepMonitorLog (n : Nat) (s : State) : State :=
  s.monCmd 1 (fun s => if 1 ≤ n && n ≤ 32768 then s.say ((s.log.ring.take n).reverse.map (·.toNat)) else s)

/-- MONITOR_LOG (20 R467): the last n entries, oldest first. -/
def execMonitorLog (n : Nat) (s : State) : Host.Outcome State Fault Refusal := .next (stepMonitorLog n s)

def stepMonitorFp (s : State) : State :=
  s.monCmd 1 (fun s => s.say ((List.range 16).map (fun c => bf s.boot.fpRec (512 + 1024 * c) 1024) ++ [bf s.boot.fpRec 16896 2048]))

/-- MONITOR_FP (20 R467): the 16 cluster records and the module record. -/
def execMonitorFp (s : State) : Host.Outcome State Fault Refusal := .next (stepMonitorFp s)

def stepMonitorLedger (i : Nat) (s : State) : State :=
  s.monCmd 1 (fun s =>
    if 64 ≤ i && i < 18648 then s.say [((s.ledger.current i).getD (sealEntry (blankEntry (unitOfNo i).1 (unitOfNo i).2).toNat 0)).toNat]
    else if i = 0 then s.say [((s.ledger.current 0).getD (sealEntry (pack [(8, 0), (16, 1)]) 0)).toNat]
    else s)

/-- MONITOR_LEDGER (20 R467, 13 R318): i is the ledger entry number. -/
def execMonitorLedger (i : Nat) (s : State) : Host.Outcome State Fault Refusal := .next (stepMonitorLedger i s)

def stepMonitorPeek (off : Nat) (s : State) : State := s.monCmd 1 (fun s => s.say [s.slotVal .net off])

/-- MONITOR_PEEK (20 R467); log entry 84. -/
def execMonitorPeek (off : Nat) (s : State) : Host.Outcome State Fault Refusal := .next (stepMonitorPeek off s)

/-- The owner function of a register, as an access event names it (18 R418). -/
def State.ownerReg (s : State) : Scope → Nat
  | .own => 0x7F
  | .global => s.ownerG
  | .part p => s.ownerP p
  | .cluster c => s.ownerC c

def stepMonitorPoke (off : Nat) (val : Dword) (s : State) : State :=
  s.monCmd 2 (fun s =>
    let owner := ((regAt (off / 8 * 8)).map (fun r => s.ownerReg r.scope)).getD 0x7F
    let s := s.logAccess .net off owner 0 val.toNat
    if off % 8 = 0 then s.writeSlot .net off 8 val.toNat else s)

/-- MONITOR_POKE (20 R467): logged with bit 39 set, and no reason of 18 R418. -/
def execMonitorPoke (off : Nat) (val : Dword) (s : State) : Host.Outcome State Fault Refusal := .next (stepMonitorPoke off val s)

def stepMonitorTap (t : TileId) (kind : Nat) (s : State) : State :=
  s.monCmd 2 (fun s =>
    if kind < 6 then stepTapSchedule kind (tileKey t) { s with mon := { s.mon with tapWait := some (kind, tileKey t) } } else s)

/-- MONITOR_TAP (20 R467, 14 R329, R330): the slice starts once the tile meets the conditions; its record is printed at its end. -/
def execMonitorTap (t : TileId) (kind : Nat) (s : State) : Host.Outcome State Fault Refusal := .next (stepMonitorTap t kind s)

def stepMonitorRelock (s : State) : State :=
  let m := s.mon
  if m.level != 0 && (decide (m.expires ≤ s.now) || decide (m.lastInput + 600000000000 ≤ s.now)) then s.monLock else s

/-- MONITOR_RELOCK (20 R468): the lifetime has ended, or 600 s have passed without input. -/
def execMonitorRelock (s : State) : Host.Outcome State Fault Refusal := .next (stepMonitorRelock s)

def stepUnlockBackoffEnd (s : State) : State :=
  if s.mon.backoff && decide (s.mon.backoffAt + 60000000000 ≤ s.now) then { s with mon := { s.mon with backoff := false } } else s

/-- UNLOCK_BACKOFF_END (20 R468): 60 s after the fifth failure. -/
def execUnlockBackoffEnd (s : State) : Host.Outcome State Fault Refusal := .next (stepUnlockBackoffEnd s)

end Sys2Proof.Machine
end

