-- ==== Sys2Proof/Machine/Dispatch.lean ====
section
/-! DEFINITION. One arm per command: a direct call of its meaning. -/
namespace Sys2Proof.Machine

/-- The effect of a command on everything but the queue; log entry 2. -/
def exec (i : Instr) (s : State) : Host.Outcome State Fault Refusal :=
  match i with
  | .registerWrite fn off size val => Sys2Proof.Machine.execRegisterWrite fn off size val s
  | .bar0IrregularAccess fn off len write val => Sys2Proof.Machine.execBar0IrregularAccess fn off len write val s
  | .lowHalfRead fn off => Sys2Proof.Machine.execLowHalfRead fn off s
  | .aclkStep c up => Sys2Proof.Machine.execAclkStep c up s
  | .integerAlu t th op rd rs src => Sys2Proof.Machine.execIntegerAlu t th op rd rs src s
  | .branch t th op rs1 rs2 target => Sys2Proof.Machine.execBranch t th op rs1 rs2 target s
  | .multiply t th op rd rs1 rs2 => Sys2Proof.Machine.execMultiply t th op rd rs1 rs2 s
  | .divide t th op rd rs1 rs2 => Sys2Proof.Machine.execDivide t th op rd rs1 rs2 s
  | .narrowLoad t th size signed rd rs off ecc => Sys2Proof.Machine.execNarrowLoad t th size signed rd rs off ecc s
  | .narrowStore t th size rs rb off => Sys2Proof.Machine.execNarrowStore t th size rs rb off s
  | .staticNetPort t th acc => Sys2Proof.Machine.execStaticNetPort t th acc s
  | .vectorIssue t th vi => Sys2Proof.Machine.execVectorIssue t th vi s
  | .vectorInstruction v => Sys2Proof.Machine.execVectorInstruction v s
  | .specialFunction v => Sys2Proof.Machine.execSpecialFunction v s
  | .clusterMemoryLoad t th landing size va => Sys2Proof.Machine.execClusterMemoryLoad t th landing size va s
  | .landingRegisterFill t th landing => Sys2Proof.Machine.execLandingRegisterFill t th landing s
  | .useInstruction t th landing rd => Sys2Proof.Machine.execUseInstruction t th landing rd s
  | .clusterMemoryStore t th size va rs => Sys2Proof.Machine.execClusterMemoryStore t th size va rs s
  | .fenceSc t th => Sys2Proof.Machine.execFenceSc t th s
  | .send t th chan sB => Sys2Proof.Machine.execSend t th chan sB s
  | .recv t th q sB => Sys2Proof.Machine.execRecv t th q sB s
  | .qcount t th q sD => Sys2Proof.Machine.execQcount t th q sD s
  | .cpop t th sB => Sys2Proof.Machine.execCpop t th sB s
  | .cqarm t th q => Sys2Proof.Machine.execCqarm t th q s
  | .waitc t th sN => Sys2Proof.Machine.execWaitc t th sN s
  | .waitcComplete t th => Sys2Proof.Machine.execWaitcComplete t th s
  | .vrand t => Sys2Proof.Machine.execVrand t s
  | .srand t th sD sN => Sys2Proof.Machine.execSrand t th sD sN s
  | .landingFill t => Sys2Proof.Machine.execLandingFill t s
  | .landingEntryArrival t c e d => Sys2Proof.Machine.execLandingEntryArrival t c e d s
  | .tileClearComplete t => Sys2Proof.Machine.execTileClearComplete t s
  | .switchEntryEnd t => Sys2Proof.Machine.execSwitchEntryEnd t s
  | .paddingEnd t => Sys2Proof.Machine.execPaddingEnd t s
  | .secLoad p k => Sys2Proof.Machine.execSecLoad p k s
  | .loaded c b => Sys2Proof.Machine.execLoaded c b s
  | .secRun p k => Sys2Proof.Machine.execSecRun p k s
  | .lockGrant c b => Sys2Proof.Machine.execLockGrant c b s
  | .runStart c b => Sys2Proof.Machine.execRunStart c b s
  | .take c b binding => Sys2Proof.Machine.execTake c b binding s
  | .runEnd c b => Sys2Proof.Machine.execRunEnd c b s
  | .commit c b => Sys2Proof.Machine.execCommit c b s
  | .secChain p k => Sys2Proof.Machine.execSecChain p k s
  | .handoverAllocate c b => Sys2Proof.Machine.execHandoverAllocate c b s
  | .hoRelease c e d => Sys2Proof.Machine.execHoRelease c e d s
  | .dvfsPeriod c draw waitShare => Sys2Proof.Machine.execDvfsPeriod c draw waitShare s
  | .stream p k => Sys2Proof.Machine.execStream p k s
  | .streamRearm p k => Sys2Proof.Machine.execStreamRearm p k s
  | .engineSlotGrant c e => Sys2Proof.Machine.execEngineSlotGrant c e s
  | .elementTranslated c e d turn => Sys2Proof.Machine.execElementTranslated c e d turn s
  | .elementComplete c e d turn => Sys2Proof.Machine.execElementComplete c e d turn s
  | .rewindResume c e d => Sys2Proof.Machine.execRewindResume c e d s
  | .sliceAccess who n ecc rivals => Sys2Proof.Machine.execSliceAccess who n ecc rivals s
  | .streamCacheFill c dpa ecc => Sys2Proof.Machine.execStreamCacheFill c dpa ecc s
  | .zeroFill c walk => Sys2Proof.Machine.execZeroFill c walk s
  | .frameFree fn p val => Sys2Proof.Machine.execFrameFree fn p val s
  | .frameRelease p => Sys2Proof.Machine.execFrameRelease p s
  | .checkByteMismatch c read => Sys2Proof.Machine.execCheckByteMismatch c read s
  | .checkByteRetry c dpa got => Sys2Proof.Machine.execCheckByteRetry c dpa got s
  | .sliceFailure c phys => Sys2Proof.Machine.execSliceFailure c phys s
  | .mirrorRebuildComplete c phys => Sys2Proof.Machine.execMirrorRebuildComplete c phys s
  | .residentLostWalk p k => Sys2Proof.Machine.execResidentLostWalk p k s
  | .translationRequest c agent p k va write => Sys2Proof.Machine.execTranslationRequest c agent p k va write s
  | .tableRead c walk => Sys2Proof.Machine.execTableRead c walk s
  | .xlatInvalidate fn p val => Sys2Proof.Machine.execXlatInvalidate fn p val s
  | .xlatInvalidateComplete p => Sys2Proof.Machine.execXlatInvalidateComplete p s
  | .atsTranslationCompletion port idx res => Sys2Proof.Machine.execAtsTranslationCompletion port idx res s
  | .prgIndexGrant port => Sys2Proof.Machine.execPrgIndexGrant port s
  | .prgResponse port idx answer => Sys2Proof.Machine.execPrgResponse port idx answer s
  | .prgTimeout port idx => Sys2Proof.Machine.execPrgTimeout port idx s
  | .atsInvalidateRequest port pasid va len => Sys2Proof.Machine.execAtsInvalidateRequest port pasid va len s
  | .atsInvalidateCompletion port idx => Sys2Proof.Machine.execAtsInvalidateCompletion port idx s
  | .resumeRecordWrite c e d => Sys2Proof.Machine.execResumeRecordWrite c e d s
  | .streamResume fn p val => Sys2Proof.Machine.execStreamResume fn p val s
  | .descriptorArrival id => Sys2Proof.Machine.execDescriptorArrival id s
  | .putPerformed id => Sys2Proof.Machine.execPutPerformed id s
  | .acknowledgement id => Sys2Proof.Machine.execAcknowledgement id s
  | .openQueue fn c val => Sys2Proof.Machine.execOpenQueue fn c val s
  | .closeQueue fn c val => Sys2Proof.Machine.execCloseQueue fn c val s
  | .flushQueue fn c val => Sys2Proof.Machine.execFlushQueue fn c val s
  | .openChannel fn c val => Sys2Proof.Machine.execOpenChannel fn c val s
  | .closeChannel fn c val => Sys2Proof.Machine.execCloseChannel fn c val s
  | .openCombiningQueue fn c val => Sys2Proof.Machine.execOpenCombiningQueue fn c val s
  | .closeCombiningQueue fn c val => Sys2Proof.Machine.execCloseCombiningQueue fn c val s
  | .armCombiningQueue fn c val => Sys2Proof.Machine.execArmCombiningQueue fn c val s
  | .combine id => Sys2Proof.Machine.execCombine id s
  | .strictSummationDone c q => Sys2Proof.Machine.execStrictSummationDone c q s
  | .carillonEntry c bySched forced => Sys2Proof.Machine.execCarillonEntry c bySched forced s
  | .carillonEntered c => Sys2Proof.Machine.execCarillonEntered c s
  | .carillonTimeout c => Sys2Proof.Machine.execCarillonTimeout c s
  | .carillonExit c bySched => Sys2Proof.Machine.execCarillonExit c bySched s
  | .peal c bySched targets kind toff dpa len => Sys2Proof.Machine.execPeal c bySched targets kind toff dpa len s
  | .pealCompletion id => Sys2Proof.Machine.execPealCompletion id s
  | .packetRoute id inj => Sys2Proof.Machine.execPacketRoute id inj s
  | .creditReturn node port cls chan => Sys2Proof.Machine.execCreditReturn node port cls chan s
  | .flitResend node port link => Sys2Proof.Machine.execFlitResend node port link s
  | .routeInstall c => Sys2Proof.Machine.execRouteInstall c s
  | .epochFlip => Sys2Proof.Machine.execEpochFlip s
  | .doorbell fn p k x tail => Sys2Proof.Machine.execDoorbell fn p k x tail s
  | .cqHeadWrite fn p k head => Sys2Proof.Machine.execCqHeadWrite fn p k head s
  | .recordFetch p k x => Sys2Proof.Machine.execRecordFetch p k x s
  | .completionEntryWrite p k => Sys2Proof.Machine.execCompletionEntryWrite p k s
  | .nop p k x => Sys2Proof.Machine.execNop p k x s
  | .barrier p k x => Sys2Proof.Machine.execBarrier p k x s
  | .chime p k x => Sys2Proof.Machine.execChime p k x s
  | .wait p k x => Sys2Proof.Machine.execWait p k x s
  | .waitComplete p k x => Sys2Proof.Machine.execWaitComplete p k x s
  | .stepCommand p k => Sys2Proof.Machine.execStepCommand p k s
  | .ringOp p k => Sys2Proof.Machine.execRingOp p k s
  | .deviceCfgSwap p k => Sys2Proof.Machine.execDeviceCfgSwap p k s
  | .clusterCfgSwap p k => Sys2Proof.Machine.execClusterCfgSwap p k s
  | .clusterSwapInstall c => Sys2Proof.Machine.execClusterSwapInstall c s
  | .create fn p k => Sys2Proof.Machine.execCreate fn p k s
  | .preempt fn p k => Sys2Proof.Machine.execPreempt fn p k s
  | .preempted p k => Sys2Proof.Machine.execPreempted p k s
  | .resume fn p k => Sys2Proof.Machine.execResume fn p k s
  | .save fn p k val => Sys2Proof.Machine.execSave fn p k val s
  | .saveComplete p k => Sys2Proof.Machine.execSaveComplete p k s
  | .restore fn p k => Sys2Proof.Machine.execRestore fn p k s
  | .restoreComplete p k => Sys2Proof.Machine.execRestoreComplete p k s
  | .contextReset who p k => Sys2Proof.Machine.execContextReset who p k s
  | .destroy fn p k => Sys2Proof.Machine.execDestroy fn p k s
  | .partitionReset who p => Sys2Proof.Machine.execPartitionReset who p s
  | .partitionResetComplete p => Sys2Proof.Machine.execPartitionResetComplete p s
  | .perst port => Sys2Proof.Machine.execPerst port s
  | .perstDeassert port => Sys2Proof.Machine.execPerstDeassert port s
  | .linkTrainingComplete port ok => Sys2Proof.Machine.execLinkTrainingComplete port ok s
  | .dlDown port => Sys2Proof.Machine.execDlDown port s
  | .hotReset port => Sys2Proof.Machine.execHotReset port s
  | .functionLevelReset port f => Sys2Proof.Machine.execFunctionLevelReset port f s
  | .d3hotEntry port f => Sys2Proof.Machine.execD3hotEntry port f s
  | .resizableBarChange port size => Sys2Proof.Machine.execResizableBarChange port size s
  | .msixUnmask port f vec => Sys2Proof.Machine.execMsixUnmask port f vec s
  | .strictWrite fn p val => Sys2Proof.Machine.execStrictWrite fn p val s
  | .pinned p => Sys2Proof.Machine.execPinned p s
  | .flush fn p => Sys2Proof.Machine.execFlush fn p s
  | .stepCounterWrite fn p k val => Sys2Proof.Machine.execStepCounterWrite fn p k val s
  | .seedWrite fn p k hi val => Sys2Proof.Machine.execSeedWrite fn p k hi val s
  | .passEnd t => Sys2Proof.Machine.execPassEnd t s
  | .check t checker => Sys2Proof.Machine.execCheck t checker s
  | .checkResult t signature => Sys2Proof.Machine.execCheckResult t signature s
  | .secondCheckResult t signature => Sys2Proof.Machine.execSecondCheckResult t signature s
  | .secondCheckTimeout t => Sys2Proof.Machine.execSecondCheckTimeout t s
  | .checkLost t => Sys2Proof.Machine.execCheckLost t s
  | .ledgerWrite u => Sys2Proof.Machine.execLedgerWrite u s
  | .ledgerHeaderRewrite => Sys2Proof.Machine.execLedgerHeaderRewrite s
  | .retestStart u => Sys2Proof.Machine.execRetestStart u s
  | .retestTimeout u => Sys2Proof.Machine.execRetestTimeout u s
  | .retestRetry u => Sys2Proof.Machine.execRetestRetry u s
  | .tapSchedule kind unit => Sys2Proof.Machine.execTapSchedule kind unit s
  | .tapSliceEnd kind unit golden sig errors lanes => Sys2Proof.Machine.execTapSliceEnd kind unit golden sig errors lanes s
  | .railSample kind unit mv => Sys2Proof.Machine.execRailSample kind unit mv s
  | .tapForced t => Sys2Proof.Machine.execTapForced t s
  | .forcedHold c b => Sys2Proof.Machine.execForcedHold c b s
  | .tapOverdue t => Sys2Proof.Machine.execTapOverdue t s
  | .muffle who u => Sys2Proof.Machine.execMuffle who u s
  | .reAdmission who u => Sys2Proof.Machine.execReAdmission who u s
  | .replacement c b => Sys2Proof.Machine.execReplacement c b s
  | .skipSwap c x => Sys2Proof.Machine.execSkipSwap c x s
  | .relocation c b => Sys2Proof.Machine.execRelocation c b s
  | .batteryEngineReset fn c => Sys2Proof.Machine.execBatteryEngineReset fn c s
  | .streamEngineReset fn c e hang => Sys2Proof.Machine.execStreamEngineReset fn c e hang s
  | .ringEngineReset fn c hang => Sys2Proof.Machine.execRingEngineReset fn c hang s
  | .isolationAdmit c => Sys2Proof.Machine.execIsolationAdmit c s
  | .escalate trigger => Sys2Proof.Machine.execEscalate trigger s
  | .chipReset who => Sys2Proof.Machine.execChipReset who s
  | .powerGood => Sys2Proof.Machine.execPowerGood s
  | .bootLedgerRead => Sys2Proof.Machine.execBootLedgerRead s
  | .stageBound stage idx => Sys2Proof.Machine.execStageBound stage idx s
  | .carillonBroadcast => Sys2Proof.Machine.execCarillonBroadcast s
  | .clusterSelfTest c pass => Sys2Proof.Machine.execClusterSelfTest c pass s
  | .memoryTraining chan pass => Sys2Proof.Machine.execMemoryTraining chan pass s
  | .ringPortTraining port pass => Sys2Proof.Machine.execRingPortTraining port pass s
  | .floorplanChange => Sys2Proof.Machine.execFloorplanChange s
  | .cfgStage fn val => Sys2Proof.Machine.execCfgStage fn val s
  | .validationComplete who => Sys2Proof.Machine.execValidationComplete who s
  | .secure fn val => Sys2Proof.Machine.execSecure fn val s
  | .fwLoad fn val => Sys2Proof.Machine.execFwLoad fn val s
  | .fwVerified => Sys2Proof.Machine.execFwVerified s
  | .componentTrap comp cause pc addr trace => Sys2Proof.Machine.execComponentTrap comp cause pc addr trace s
  | .componentRestart comp => Sys2Proof.Machine.execComponentRestart comp s
  | .thread3Fault t cause pc addr => Sys2Proof.Machine.execThread3Fault t cause pc addr s
  | .currentLimitPeriod ma draws rails => Sys2Proof.Machine.execCurrentLimitPeriod ma draws rails s
  | .thermalPeriod temps chips => Sys2Proof.Machine.execThermalPeriod temps chips s
  | .capPeriod inputW draws => Sys2Proof.Machine.execCapPeriod inputW draws s
  | .thermalTrip temp => Sys2Proof.Machine.execThermalTrip temp s
  | .wavelengthMuffle port wave => Sys2Proof.Machine.execWavelengthMuffle port wave s
  | .frameReceive port wave frame => Sys2Proof.Machine.execFrameReceive port wave frame s
  | .lossOfLock port wave => Sys2Proof.Machine.execLossOfLock port wave s
  | .symbolErrorAverage port wave ppb => Sys2Proof.Machine.execSymbolErrorAverage port wave ppb s
  | .portReady port pass => Sys2Proof.Machine.execPortReady port pass s
  | .portLinked port carry => Sys2Proof.Machine.execPortLinked port carry s
  | .lossOfLink port => Sys2Proof.Machine.execLossOfLink port s
  | .bypassClose ring => Sys2Proof.Machine.execBypassClose ring s
  | .census ring returned mods => Sys2Proof.Machine.execCensus ring returned mods s
  | .ringIdWrite fn val => Sys2Proof.Machine.execRingIdWrite fn val s
  | .ringKeyWrite fn p val => Sys2Proof.Machine.execRingKeyWrite fn p val s
  | .ringPacket port packet agree => Sys2Proof.Machine.execRingPacket port packet agree s
  | .ringDone p k => Sys2Proof.Machine.execRingDone p k s
  | .ringOpPreemptLimit p k => Sys2Proof.Machine.execRingOpPreemptLimit p k s
  | .wavelengthRetest port wave pass => Sys2Proof.Machine.execWavelengthRetest port wave pass s
  | .bar2Write port addr data => Sys2Proof.Machine.execBar2Write port addr data s
  | .bar2Read port addr len => Sys2Proof.Machine.execBar2Read port addr len s
  | .bar2WindowBind port w val => Sys2Proof.Machine.execBar2WindowBind port w val s
  | .hello => Sys2Proof.Machine.execHello s
  | .reportResend => Sys2Proof.Machine.execReportResend s
  | .subscribe port seq mac src payload => Sys2Proof.Machine.execSubscribe port seq mac src payload s
  | .ack port no mac payload => Sys2Proof.Machine.execAck port no mac payload s
  | .read port seq mac payload => Sys2Proof.Machine.execRead port seq mac payload s
  | .writeReg port seq mac payload => Sys2Proof.Machine.execWriteReg port seq mac payload s
  | .orderChipReset port seq mac payload => Sys2Proof.Machine.execOrderChipReset port seq mac payload s
  | .orderPartitionReset port seq mac payload => Sys2Proof.Machine.execOrderPartitionReset port seq mac payload s
  | .orderEngineReset port seq mac payload => Sys2Proof.Machine.execOrderEngineReset port seq mac payload s
  | .orderContextReset port seq mac payload => Sys2Proof.Machine.execOrderContextReset port seq mac payload s
  | .orderMuffle port seq mac payload => Sys2Proof.Machine.execOrderMuffle port seq mac payload s
  | .orderPreempt port seq mac payload => Sys2Proof.Machine.execOrderPreempt port seq mac payload s
  | .orderResume port seq mac payload => Sys2Proof.Machine.execOrderResume port seq mac payload s
  | .orderReAdmit port seq mac payload => Sys2Proof.Machine.execOrderReAdmit port seq mac payload s
  | .stageData port seq mac payload => Sys2Proof.Machine.execStageData port seq mac payload s
  | .stageGo port seq mac payload => Sys2Proof.Machine.execStageGo port seq mac payload s
  | .swap port seq mac payload => Sys2Proof.Machine.execSwap port seq mac payload s
  | .owner port seq mac payload => Sys2Proof.Machine.execOwner port seq mac payload s
  | .svnRaise port seq mac payload => Sys2Proof.Machine.execSvnRaise port seq mac payload s
  | .keySet port seq mac payload => Sys2Proof.Machine.execKeySet port seq mac payload s
  | .smbusStatusRead => Sys2Proof.Machine.execSmbusStatusRead s
  | .alertCauses write val => Sys2Proof.Machine.execAlertCauses write val s
  | .smbusInputVoltageRead => Sys2Proof.Machine.execSmbusInputVoltageRead s
  | .smbusInputCurrentRead => Sys2Proof.Machine.execSmbusInputCurrentRead s
  | .smbusInputPowerRead => Sys2Proof.Machine.execSmbusInputPowerRead s
  | .smbusJunctionRead => Sys2Proof.Machine.execSmbusJunctionRead s
  | .smbusCoolantRead outlet => Sys2Proof.Machine.execSmbusCoolantRead outlet s
  | .smbusReadyRead => Sys2Proof.Machine.execSmbusReadyRead s
  | .smbusIdentityRead => Sys2Proof.Machine.execSmbusIdentityRead s
  | .fruEepromRead addr len => Sys2Proof.Machine.execFruEepromRead addr len s
  | .alertResponse => Sys2Proof.Machine.execAlertResponse s
  | .modRstLow ns => Sys2Proof.Machine.execModRstLow ns s
  | .modRstRise => Sys2Proof.Machine.execModRstRise s
  | .pwrEnRise => Sys2Proof.Machine.execPwrEnRise s
  | .pwrEnFall => Sys2Proof.Machine.execPwrEnFall s
  | .powerOffHoldEnd => Sys2Proof.Machine.execPowerOffHoldEnd s
  | .vinSample mv10 => Sys2Proof.Machine.execVinSample mv10 s
  | .railFault rail ns => Sys2Proof.Machine.execRailFault rail ns s
  | .coolantRange inlet outlet => Sys2Proof.Machine.execCoolantRange inlet outlet s
  | .monitorVer => Sys2Proof.Machine.execMonitorVer s
  | .monitorStage => Sys2Proof.Machine.execMonitorStage s
  | .monitorChallenge => Sys2Proof.Machine.execMonitorChallenge s
  | .monitorUnlock token => Sys2Proof.Machine.execMonitorUnlock token s
  | .monitorLock => Sys2Proof.Machine.execMonitorLock s
  | .monitorLog n => Sys2Proof.Machine.execMonitorLog n s
  | .monitorFp => Sys2Proof.Machine.execMonitorFp s
  | .monitorLedger idx => Sys2Proof.Machine.execMonitorLedger idx s
  | .monitorPeek off => Sys2Proof.Machine.execMonitorPeek off s
  | .monitorPoke off val => Sys2Proof.Machine.execMonitorPoke off val s
  | .monitorTap t kind => Sys2Proof.Machine.execMonitorTap t kind s
  | .monitorRelock => Sys2Proof.Machine.execMonitorRelock s
  | .unlockBackoffEnd => Sys2Proof.Machine.execUnlockBackoffEnd s
  | .runCycle c b acts => Sys2Proof.Machine.execRunCycle c b acts s
  | .refresh chan => Sys2Proof.Machine.execRefresh chan s
  | .translationCompletionTimeout port idx => Sys2Proof.Machine.execTranslationCompletionTimeout port idx s
  | .managementPortLink port up => Sys2Proof.Machine.execManagementPortLink port up s
  | .neighborSolicitation port target => Sys2Proof.Machine.execNeighborSolicitation port target s
  | .echoRequest port data => Sys2Proof.Machine.execEchoRequest port data s
  | .belfryReservedType port typ seq mac payload => Sys2Proof.Machine.execBelfryReservedType port typ seq mac payload s
  | .configurationRequest port f off write val => Sys2Proof.Machine.execConfigurationRequest port f off write val s
  | .stagingWindowWrite fn firmware off data => Sys2Proof.Machine.execStagingWindowWrite fn firmware off data s
  | .powerGoodLoss => Sys2Proof.Machine.execPowerGoodLoss s
  | .scrubSlice u last pass => Sys2Proof.Machine.execScrubSlice u last pass s

end Sys2Proof.Machine
end

