-- ==== Sys2Proof/WellFormed.lean ====
section
/-! DEFINITION. Which commands are well formed: operands within the ranges the manual gives them. The meanings are total, and hold for
ill-formed commands too. -/
namespace Sys2Proof

/-- Is a number of at most w bits? -/
def below (w n : Nat) : Bool := decide (n < 2 ^ w)

/-- At most n bytes. -/
def bytesOk (n : Nat) (l : List Byte) : Bool := decide (l.length ≤ n)

/-- VFs are numbered 1 to 16 (11 R251). -/
def fnOk : Fn → Bool
  | .vf _ v => v.val != 0
  | _ => true

/-- An order's issuer (11 R277). -/
def issuerOk : Issuer → Bool
  | .fn f => fnOk f
  | _ => true

/-- A unit of the ledger: kinds 1 to 8 (13 R318). -/
def unitOk (u : UnitId) : Bool := decide (1 ≤ u.kind) && decide (u.kind ≤ 8) && below 16 u.index

/-- A packet of one of the three classes with at most 2 KiB of data (10 R234). -/
def injectOk (x : Inject) : Bool := decide (x.cls < 3) && decide (x.bytes ≤ 2048)

/-- Is a command well formed? -/
def Instr.wellFormed (i : Instr) : Bool :=
  match i with
  | .registerWrite fn off _ _ => fnOk fn && below 25 off
  | .bar0IrregularAccess fn off len _ _ => fnOk fn && below 25 off && decide (0 < len)
  | .lowHalfRead fn off => fnOk fn && below 25 off
  | .aclkStep _ _ => true
  | .integerAlu _ _ _ _ _ _ => true
  | .branch _ _ _ _ _ _ => true
  | .multiply _ _ _ _ _ _ => true
  | .divide _ _ _ _ _ _ => true
  | .narrowLoad _ _ _ _ _ _ _ _ => true
  | .narrowStore _ _ _ _ _ _ => true
  | .staticNetPort _ _ _ => true
  | .vectorIssue _ _ _ => true
  | .vectorInstruction _ => true
  | .specialFunction _ => true
  | .clusterMemoryLoad _ _ _ _ va => below 48 va
  | .landingRegisterFill _ _ _ => true
  | .useInstruction _ _ _ _ => true
  | .clusterMemoryStore _ _ _ va _ => below 48 va
  | .fenceSc _ _ => true
  | .send _ _ _ _ => true
  | .recv _ _ _ _ => true
  | .qcount _ _ _ _ => true
  | .cpop _ _ _ => true
  | .cqarm _ _ _ => true
  | .waitc _ _ _ => true
  | .waitcComplete _ _ => true
  | .vrand _ => true
  | .srand _ _ _ _ => true
  | .landingFill _ => true
  | .landingEntryArrival _ _ _ _ => true
  | .tileClearComplete _ => true
  | .switchEntryEnd _ => true
  | .paddingEnd _ => true
  | .secLoad _ _ => true
  | .loaded _ _ => true
  | .secRun _ _ => true
  | .lockGrant _ _ => true
  | .runStart _ _ => true
  | .take _ _ _ => true
  | .runEnd _ _ => true
  | .commit _ _ => true
  | .secChain _ _ => true
  | .handoverAllocate _ _ => true
  | .hoRelease _ _ _ => true
  | .dvfsPeriod _ _ waitShare => decide (waitShare ≤ 1000)
  | .stream _ _ => true
  | .streamRearm _ _ => true
  | .engineSlotGrant _ _ => true
  | .elementTranslated _ _ _ _ => true
  | .elementComplete _ _ _ _ => true
  | .rewindResume _ _ _ => true
  | .sliceAccess who n _ _ => who.isSome || below 43 n
  | .streamCacheFill _ dpa _ => below 43 dpa
  | .zeroFill _ _ => true
  | .frameFree fn _ _ => fnOk fn
  | .frameRelease _ => true
  | .checkByteMismatch _ x => below 43 x.dpa
  | .checkByteRetry _ dpa _ => below 43 dpa
  | .sliceFailure _ phys => decide (phys < 66)
  | .mirrorRebuildComplete _ phys => decide (phys < 66)
  | .residentLostWalk _ _ => true
  | .translationRequest _ _ _ _ va _ => below 48 va
  | .tableRead _ _ => true
  | .xlatInvalidate fn _ _ => fnOk fn
  | .xlatInvalidateComplete _ => true
  | .atsTranslationCompletion _ _ _ => true
  | .prgIndexGrant _ => true
  | .prgResponse _ _ x => x.pasid.all (below 20)
  | .prgTimeout _ _ => true
  | .atsInvalidateRequest _ pasid va _ => pasid.all (below 20) && below 64 va
  | .atsInvalidateCompletion _ _ => true
  | .resumeRecordWrite _ _ _ => true
  | .streamResume fn _ _ => fnOk fn
  | .descriptorArrival _ => true
  | .putPerformed _ => true
  | .acknowledgement _ => true
  | .openQueue fn _ _ => fnOk fn
  | .closeQueue fn _ _ => fnOk fn
  | .flushQueue fn _ _ => fnOk fn
  | .openChannel fn _ _ => fnOk fn
  | .closeChannel fn _ _ => fnOk fn
  | .openCombiningQueue fn _ _ => fnOk fn
  | .closeCombiningQueue fn _ _ => fnOk fn
  | .armCombiningQueue fn _ _ => fnOk fn
  | .combine _ => true
  | .strictSummationDone _ _ => true
  | .carillonEntry _ _ _ => true
  | .carillonEntered _ => true
  | .carillonTimeout _ => true
  | .carillonExit _ _ => true
  | .peal _ _ targets kind _ dpa _ => below 49 targets && decide (kind < 3) && below 43 dpa
  | .pealCompletion _ => true
  | .packetRoute _ x => x.all injectOk
  | .creditReturn _ _ cls _ => decide (cls < 4)
  | .flitResend _ _ _ => true
  | .routeInstall _ => true
  | .epochFlip => true
  | .doorbell fn _ _ _ _ => fnOk fn
  | .cqHeadWrite fn _ _ _ => fnOk fn
  | .recordFetch _ _ _ => true
  | .completionEntryWrite _ _ => true
  | .nop _ _ _ => true
  | .barrier _ _ _ => true
  | .chime _ _ _ => true
  | .wait _ _ _ => true
  | .waitComplete _ _ _ => true
  | .stepCommand _ _ => true
  | .ringOp _ _ => true
  | .deviceCfgSwap _ _ => true
  | .clusterCfgSwap _ _ => true
  | .clusterSwapInstall _ => true
  | .create fn _ _ => fnOk fn
  | .preempt fn _ _ => fnOk fn
  | .preempted _ _ => true
  | .resume fn _ _ => fnOk fn
  | .save fn _ _ _ => fnOk fn
  | .saveComplete _ _ => true
  | .restore fn _ _ => fnOk fn
  | .restoreComplete _ _ => true
  | .contextReset who _ _ => issuerOk who
  | .destroy fn _ _ => fnOk fn
  | .partitionReset who _ => issuerOk who
  | .partitionResetComplete _ => true
  | .perst _ => true
  | .perstDeassert _ => true
  | .linkTrainingComplete _ _ => true
  | .dlDown _ => true
  | .hotReset _ => true
  | .functionLevelReset _ _ => true
  | .d3hotEntry _ _ => true
  | .resizableBarChange _ size => decide (30 ≤ size) && decide (size ≤ 39)
  | .msixUnmask _ _ vec => decide (vec < 2046)
  | .strictWrite fn _ _ => fnOk fn
  | .pinned _ => true
  | .flush fn _ => fnOk fn
  | .stepCounterWrite fn _ _ _ => fnOk fn
  | .seedWrite fn _ _ _ _ => fnOk fn
  | .passEnd _ => true
  | .check _ _ => true
  | .checkResult _ _ => true
  | .secondCheckResult _ _ => true
  | .secondCheckTimeout _ => true
  | .checkLost _ => true
  | .ledgerWrite u => unitOk u
  | .ledgerHeaderRewrite => true
  | .retestStart u => unitOk u
  | .retestTimeout u => unitOk u
  | .retestRetry u => unitOk u
  | .tapSchedule kind _ => decide (kind < 8)
  | .tapSliceEnd kind _ _ _ _ _ => decide (kind < 8)
  | .railSample kind _ _ => decide (kind < 8)
  | .tapForced _ => true
  | .forcedHold _ _ => true
  | .tapOverdue _ => true
  | .muffle who u => issuerOk who && unitOk u
  | .reAdmission who u => issuerOk who && unitOk u
  | .replacement _ _ => true
  | .skipSwap _ _ => true
  | .relocation _ _ => true
  | .batteryEngineReset fn _ => fnOk fn
  | .streamEngineReset fn _ _ _ => fnOk fn
  | .ringEngineReset fn _ _ => fnOk fn
  | .isolationAdmit _ => true
  | .escalate _ => true
  | .chipReset who => issuerOk who
  | .powerGood => true
  | .bootLedgerRead => true
  | .stageBound stage idx => decide (stage < 8) && decide (idx < 48)
  | .carillonBroadcast => true
  | .clusterSelfTest _ _ => true
  | .memoryTraining chan _ => decide (chan < 224)
  | .ringPortTraining _ _ => true
  | .floorplanChange => true
  | .cfgStage fn _ => fnOk fn
  | .validationComplete who => decide (who < 5)
  | .secure fn _ => fnOk fn
  | .fwLoad fn _ => fnOk fn
  | .fwVerified => true
  | .componentTrap comp cause _ _ _ => decide (comp < 304) && decide (1 ≤ cause) && decide (cause ≤ 4)
  | .componentRestart comp => decide (comp < 304)
  | .thread3Fault _ cause _ _ => decide (1 ≤ cause) && decide (cause ≤ 5)
  | .currentLimitPeriod _ draws rails => decide (draws.length ≤ 16) && decide (rails.length ≤ 16)
  | .thermalPeriod temps chips => decide (temps.length ≤ 16) && decide (chips.length ≤ 44)
  | .capPeriod _ draws => decide (draws.length ≤ 16)
  | .thermalTrip _ => true
  | .wavelengthMuffle _ wave => decide (wave < 34)
  | .frameReceive _ wave _ => decide (wave < 34)
  | .lossOfLock _ wave => decide (wave < 34)
  | .symbolErrorAverage _ wave _ => decide (wave < 34)
  | .portReady _ _ => true
  | .portLinked _ carry => below 34 carry
  | .lossOfLink _ => true
  | .bypassClose _ => true
  | .census _ _ mods => decide (mods.length < 64)
  | .ringIdWrite fn _ => fnOk fn
  | .ringKeyWrite fn _ _ => fnOk fn
  | .ringPacket _ _ _ => true
  | .ringDone _ _ => true
  | .ringOpPreemptLimit _ _ => true
  | .wavelengthRetest _ wave _ => decide (wave < 34)
  | .bar2Write _ addr data => below 39 addr && bytesOk 4096 data
  | .bar2Read _ addr len => below 39 addr && decide (0 < len) && decide (len ≤ 4096)
  | .bar2WindowBind _ _ _ => true
  | .hello => true
  | .reportResend => true
  | .subscribe _ seq _ _ payload => below 32 seq && bytesOk 1184 payload
  | .ack _ x _ payload => below 32 x.seq && below 32 x.ref && bytesOk 1184 payload
  | .read _ seq _ payload => below 32 seq && bytesOk 1184 payload
  | .writeReg _ seq _ payload => below 32 seq && bytesOk 1184 payload
  | .orderChipReset _ seq _ payload => below 32 seq && bytesOk 1184 payload
  | .orderPartitionReset _ seq _ payload => below 32 seq && bytesOk 1184 payload
  | .orderEngineReset _ seq _ payload => below 32 seq && bytesOk 1184 payload
  | .orderContextReset _ seq _ payload => below 32 seq && bytesOk 1184 payload
  | .orderMuffle _ seq _ payload => below 32 seq && bytesOk 1184 payload
  | .orderPreempt _ seq _ payload => below 32 seq && bytesOk 1184 payload
  | .orderResume _ seq _ payload => below 32 seq && bytesOk 1184 payload
  | .orderReAdmit _ seq _ payload => below 32 seq && bytesOk 1184 payload
  | .stageData _ seq _ payload => below 32 seq && bytesOk 1184 payload
  | .stageGo _ seq _ payload => below 32 seq && bytesOk 1184 payload
  | .swap _ seq _ payload => below 32 seq && bytesOk 1184 payload
  | .owner _ seq _ payload => below 32 seq && bytesOk 1184 payload
  | .svnRaise _ seq _ payload => below 32 seq && bytesOk 1184 payload
  | .keySet _ seq _ payload => below 32 seq && bytesOk 1184 payload
  | .smbusStatusRead => true
  | .alertCauses _ _ => true
  | .smbusInputVoltageRead => true
  | .smbusInputCurrentRead => true
  | .smbusInputPowerRead => true
  | .smbusJunctionRead => true
  | .smbusCoolantRead _ => true
  | .smbusReadyRead => true
  | .smbusIdentityRead => true
  | .fruEepromRead addr _ => decide (addr < 8192)
  | .alertResponse => true
  | .modRstLow _ => true
  | .modRstRise => true
  | .pwrEnRise => true
  | .pwrEnFall => true
  | .powerOffHoldEnd => true
  | .vinSample mv10 => below 16 mv10
  | .railFault rail _ => decide (rail < 64)
  | .coolantRange _ _ => true
  | .monitorVer => true
  | .monitorStage => true
  | .monitorChallenge => true
  | .monitorUnlock token => bytesOk 224 token
  | .monitorLock => true
  | .monitorLog n => decide (1 ≤ n) && decide (n ≤ 32768)
  | .monitorFp => true
  | .monitorLedger _ => true
  | .monitorPeek off => below 25 off
  | .monitorPoke off _ => below 25 off
  | .monitorTap _ kind => decide (kind < 6)
  | .monitorRelock => true
  | .unlockBackoffEnd => true
  | .runCycle _ _ _ => true
  | .refresh chan => decide (chan < 224)
  | .translationCompletionTimeout _ _ => true
  | .managementPortLink _ _ => true
  | .neighborSolicitation _ target => below 128 target
  | .echoRequest _ data => bytesOk 1452 data
  | .belfryReservedType _ _ seq _ payload => below 32 seq && bytesOk 1184 payload
  | .configurationRequest _ _ off _ _ => decide (off < 4096)
  | .stagingWindowWrite fn _ off data => fnOk fn && below 24 off && bytesOk 8 data
  | .powerGoodLoss => true
  | .scrubSlice u _ _ => unitOk u

end Sys2Proof
end

