-- ==== Sys2Proof/Safety.lean ====
section
/-! DEFINITION. What counts as a safe run: the invariant of the state, and how one state may follow another within a command. -/
namespace Sys2Proof.Machine

/-- A legal code of an array clock: 32 to 64, that is 0.800 GHz to 1.600 GHz (01 R36). -/
abbrev legalCode (n : Nat) : Prop := 32 ≤ n ∧ n ≤ 64

/-- A legal array clock: its code, the code it is stepped to, the step kept for the end of a hold, and the code the DVFS loop last set
(01 R36, R40). -/
structure Clock.legal (k : Clock) : Prop where
  code : legalCode k.code
  target : ∀ t, k.target = some t → legalCode t
  held : ∀ t, k.heldStep = some t → legalCode t
  dvfs : legalCode k.dvfs

/-- Every array clock of the module is legal. -/
def State.clocksLegal (s : State) : Prop := ∀ c, (s.clock c).legal

/-- The invariant: device memory has its canonical form (07 R176), and every array clock is legal (01 R36). -/
structure State.inv (s : State) : Prop where
  mem : Memory.wf s.mem.bytes = true
  clocks : s.clocksLegal

/-- How a state may follow another within one command: the invariant is kept, the queue of waiting commands is not touched, no free value is
drawn twice, and nothing driven outward is taken back. -/
structure Keeps (a b : State) : Prop where
  inv : a.inv → b.inv
  pending : b.pending = a.pending
  free : a.freeCtr ≤ b.freeCtr
  out : a.out <:+ b.out

/-- A run is safe if it stops at no fault and no refusal, and every state it passes meets the invariant. -/
def State.safeFor : Nat → State → Prop
  | 0, s => s.inv
  | n + 1, s => s.inv ∧ ∃ t, step s = .next t ∧ t.safeFor n

end Sys2Proof.Machine
end

