-- ==== Sys2Proof/Certificates/Slice0/Obligations.lean ====
section
/-! DEFINITION. The statements about the block: one Prop each, family by family, then those about every command and every step. -/
open Sys2Proof Sys2Proof.Machine

/-- The issue slot of a scalar instruction is used by exactly that instruction: ALU, multiply, divide and branch (02 R44, R47). The results of
R47 that the text gives: wrap-around arithmetic, the product's halves, division by 0, a result in the next slot. The slot of thread 3
outside RUN is the model's choice (log entry 49), and the loop's order that of log entry 10. -/
def Obligations.ScalarInstructions : Prop :=
  (∀ (s : State) (t : TileId) (th : Fin 4) (cy : Nat), s.slotOf (tileKey t) th.val = some cy →
      (∀ (op : AluOp) (rd rs : Fin 32) (src : Src), exec (.integerAlu t th op rd rs src) s =
        .next ((s.issueReg (tileKey t) th.val cy rd.val (alu op (s.regVal (tileKey t) th.val rs.val cy 0)
          (s.srcVal (tileKey t) th.val cy src) (Config.free 32 (s.freeCtr + 2)))).drew 1)) ∧
      (∀ (op : MulOp) (rd a b : Fin 32), exec (.multiply t th op rd a b) s =
        .next (s.issueReg (tileKey t) th.val cy rd.val
          (mulVal op (s.regVal (tileKey t) th.val a.val cy 0) (s.regVal (tileKey t) th.val b.val cy 1)))) ∧
      (∀ (op : DivOp) (rd a b : Fin 32), ∃ u, exec (.divide t th op rd a b) s = .next u ∧
        (rd.val ≠ 0 →
          tget ((u.tile (tileKey t)).thread th.val).regs rd.val 0 =
            divVal op (s.regVal (tileKey t) th.val a.val cy 0) (s.regVal (tileKey t) th.val b.val cy 1) (Config.free 32 (s.freeCtr + 2)) ∧
          tget ((u.tile (tileKey t)).thread th.val).notReady rd.val 0 = cy + 36) ∧
        ((u.tile (tileKey t)).thread th.val).pc = ((s.tile (tileKey t)).thread th.val).pc + 1) ∧
      (∀ (op : BrOp) (a b : Fin 32) (target : Nat), ∃ u, exec (.branch t th op a b target) s = .next u ∧
        ((u.tile (tileKey t)).thread th.val).pc =
          (if branchTaken op (s.regVal (tileKey t) th.val a.val cy 0) (s.regVal (tileKey t) th.val b.val cy 1)
              ((s.tile (tileKey t)).thread th.val).accept then target
            else ((s.tile (tileKey t)).thread th.val).pc + 1) ∧
        ((u.tile (tileKey t)).thread th.val).lastIssue = some cy)) ∧
  ((∀ a b f : Word, alu .add a b f = a + b ∧ alu .sub a b f = a - b ∧ alu .and a b f = a &&& b ∧ alu .or a b f = a ||| b ∧
      alu .xor a b f = a ^^^ b ∧ alu .mov a b f = b ∧
      alu .slt a b f = (if a.toInt < b.toInt then 1 else 0) ∧ alu .sltu a b f = (if a.toNat < b.toNat then 1 else 0) ∧
      (b.toNat < 32 → alu .sll a b f = BitVec.ofNat 32 (a.toNat * 2 ^ b.toNat) ∧ alu .srl a b f = BitVec.ofNat 32 (a.toNat / 2 ^ b.toNat))) ∧
    (∀ a b : Word, (mulVal .highU a b).toNat * 2 ^ 32 + (mulVal .low a b).toNat = a.toNat * b.toNat) ∧
    (∀ a f : Word, divVal .divU a 0 f = 0xFFFFFFFF ∧ divVal .divS a 0 f = 0xFFFFFFFF ∧ divVal .remU a 0 f = a ∧ divVal .remS a 0 f = a) ∧
    (∀ a b f : Word, b ≠ 0 → (divVal .divU a b f).toNat = a.toNat / b.toNat ∧ (divVal .remU a b f).toNat = a.toNat % b.toNat) ∧
    (∀ (s : State) (ta th cy rd : Nat) (v : Word), rd ≠ 0 →
      (s.issueReg ta th cy rd v).regVal ta th rd (cy + 4) 0 = v ∧
      (∀ r, r ≠ rd → tget (((s.issueReg ta th cy rd v).tile ta).thread th).regs r 0 = tget ((s.tile ta).thread th).regs r 0)) ∧
    (∀ (s : State) (ta th cy : Nat) (v : Word) (r n k : Nat), (s.issueReg ta th cy 0 v).regVal ta th 0 n k = 0 ∧
      tget (((s.issueReg ta th cy 0 v).tile ta).thread th).regs r 0 = tget ((s.tile ta).thread th).regs r 0))

/-- A narrow access that meets no condition of R50 completes: a load writes the bytes of the scratchpad to its register, a store writes them and
nothing else of the scratchpad (02 R50, R59). -/
def Obligations.NarrowAccesses : Prop :=
  ∀ (s : State) (t : TileId) (th : Fin 4) (b cy : Nat) (size : Size) (n a : Nat),
    th.val ≠ 3 → s.canIssue (tileKey t) th.val = some (b, cy) → narrowSize size = some n →
    (∀ (signed : Bool) (rd rs : Fin 32) (off : Word) (ecc : Ecc), ecc ≠ .uncorrectable →
      (s.regVal (tileKey t) th.val rs.val cy 0 + off).toNat = a → narrowFaults (s.tile (tileKey t)).ctl a n false = [] →
      exec (.narrowLoad t th size signed rd rs off ecc) s = .next (s.issueReg (tileKey t) th.val cy rd.val
        (extend n signed (mread (s.tile (tileKey t)).core.pad a n)))) ∧
    (∀ (rs rb : Fin 32) (off : Word),
      (s.regVal (tileKey t) th.val rb.val cy 0 + off).toNat = a → narrowFaults (s.tile (tileKey t)).ctl a n true = [] →
      ∃ u, exec (.narrowStore t th size rs rb off) s = .next u ∧
        (u.tile (tileKey t)).core.pad = mwrite (s.tile (tileKey t)).core.pad a n (s.regVal (tileKey t) th.val rs.val cy 1).toNat ∧
        (∀ x, Memory.wf (s.tile (tileKey t)).core.pad = true → (x < a ∨ a + n ≤ x) →
          mget (u.tile (tileKey t)).core.pad x = mget (s.tile (tileKey t)).core.pad x) ∧
        (u.tile (tileKey t)).net = (s.tile (tileKey t)).net ∧
        (∀ k, k ≠ tileKey t → u.tile k = s.tile k) ∧ u.mem = s.mem)

/-- Cluster-memory accesses are split-phase: a load marks its landing register as waiting and queues at the crossbar port, a fill frees the
register with the value read, a use moves the value on and empties the register, a store and a fence are queued (02 R48, 04 R107). -/
def Obligations.ClusterMemoryAccesses : Prop :=
  ∀ (s : State) (t : TileId) (th : Fin 4),
    (∀ (b cy : Nat), s.canIssue (tileKey t) th.val = some (b, cy) →
      (∀ (landing : Fin 8) (size : Size) (n va : Nat), narrowSize size = some n →
        memFaults (s.bat (taC (tileKey t)) b).regions va n false = [] →
        ∃ u, exec (.clusterMemoryLoad t th landing size va) s = .next u ∧
          tget ((u.tile (tileKey t)).thread th.val).landing landing.val Landing.reset = { waiting := true, val := none } ∧
          (u.tile (tileKey t)).ctl.portQ.length = (s.tile (tileKey t)).ctl.portQ.length + 1 ∧ u.mem = s.mem) ∧
      (∀ (landing : Fin 8) (rd : Fin 32) (v : Word), rd.val ≠ 0 →
        (tget ((s.tile (tileKey t)).thread th.val).landing landing.val Landing.reset).val = some v →
        ∃ u, exec (.useInstruction t th landing rd) s = .next u ∧
          tget ((u.tile (tileKey t)).thread th.val).regs rd.val 0 = v ∧
          tget ((u.tile (tileKey t)).thread th.val).landing landing.val Landing.reset = Landing.reset ∧ u.mem = s.mem) ∧
      (∀ (size : Size) (n va : Nat) (rs : Fin 32), narrowSize size = some n →
        memFaults (s.bat (taC (tileKey t)) b).regions va n true = [] →
        ∃ u o, exec (.clusterMemoryStore t th size va rs) s = .next u ∧
          (u.tile (tileKey t)).ctl.portQ = (s.tile (tileKey t)).ctl.portQ ++ [o] ∧
          o.kind = .store th.val (s.regVal (tileKey t) th.val rs.val cy 0).toNat ∧ o.va = va ∧ o.bytes = n ∧ u.mem = s.mem) ∧
      (∃ u o, exec (.fenceSc t th) s = .next u ∧
        (u.tile (tileKey t)).ctl.portQ = (s.tile (tileKey t)).ctl.portQ ++ [o] ∧ o.kind = .fence ∧ u.mem = s.mem)) ∧
    (∀ (landing : Fin 8) (o : PortOp) (v : Nat),
      (s.tile (tileKey t)).ctl.portQ.find? (fun o => o.kind == .load th.val landing.val && o.done.isSome) = some o → o.done = some v →
      ∃ u, exec (.landingRegisterFill t th landing) s = .next u ∧
        tget ((u.tile (tileKey t)).thread th.val).landing landing.val Landing.reset =
          { waiting := false, val := some (BitVec.ofNat 32 v) } ∧
        (u.tile (tileKey t)).ctl.portQ = (s.tile (tileKey t)).ctl.portQ.erase o)

/-- The static net ports of a thread in its slot (02 R47, 04 R99, R102): a read of a valid scalar link gives its word, a read of a control link
its token; a write puts the register's value, or its low 8 bits as a token, in the output register of its port, uses the slot and changes no
other tile and no memory; a read of a scalar link that is not valid, and a write of a reserved token (0xF0 and above), use the slot and add
SCHEDULE_VIOLATION to the faults of the battery's cycle, with the tile and the thread. -/
def Obligations.StaticNetPorts : Prop :=
  ∀ (s : State) (t : TileId) (th : Fin 4) (b cy : Nat), s.canIssue (tileKey t) th.val = some (b, cy) →
    (∀ (d : Dir) (rd : Fin 32) (v : Word), (s.tile (tileKey t)).net.inS.find? (fun e => e.1 == dirIx d) = some (dirIx d, v) →
      exec (.staticNetPort t th (.readScalar d rd)) s = .next (s.issueReg (tileKey t) th.val cy rd.val v)) ∧
    (∀ (d : Dir) (rd : Fin 32), exec (.staticNetPort t th (.readControl d rd)) s =
      .next (s.issueReg (tileKey t) th.val cy rd.val (BitVec.ofNat 32 (tget (s.tile (tileKey t)).net.inC (dirIx d) 0).toNat))) ∧
    (∀ (d : Dir) (rs : Fin 32), ∃ u, exec (.staticNetPort t th (.writeScalar d rs)) s = .next u ∧
      tget (u.tile (tileKey t)).net.wrS (dirIx d) 0 = s.regVal (tileKey t) th.val rs.val cy 0 ∧
      ((u.tile (tileKey t)).thread th.val).lastIssue = some cy ∧ ((u.tile (tileKey t)).thread th.val).pc =
        ((s.tile (tileKey t)).thread th.val).pc + 1 ∧ (∀ k, k ≠ tileKey t → u.tile k = s.tile k) ∧
      (u.tile (tileKey t)).core.pad = (s.tile (tileKey t)).core.pad ∧ u.mem = s.mem) ∧
    (∀ (d : Dir) (rs : Fin 32), (s.regVal (tileKey t) th.val rs.val cy 0).toNat % 256 < 0xF0 →
      ∃ u, exec (.staticNetPort t th (.writeControl d rs)) s = .next u ∧
        tget (u.tile (tileKey t)).net.wrC (dirIx d) 0 = BitVec.ofNat 8 (s.regVal (tileKey t) th.val rs.val cy 0).toNat ∧
        ((u.tile (tileKey t)).thread th.val).lastIssue = some cy ∧ (∀ k, k ≠ tileKey t → u.tile k = s.tile k) ∧
        (u.tile (tileKey t)).core.pad = (s.tile (tileKey t)).core.pad ∧ u.mem = s.mem) ∧
    (∀ (acc : PortAccess), (∃ d rd, acc = .readScalar d rd ∧ (s.tile (tileKey t)).net.inS.find? (fun e => e.1 == dirIx d) = none) ∨
        (∃ d rs, acc = .writeControl d rs ∧ 0xF0 ≤ (s.regVal (tileKey t) th.val rs.val cy 0).toNat % 256) →
      ∃ u, exec (.staticNetPort t th acc) s = .next u ∧
        (u.bat (taC (tileKey t)) b).faults = (s.bat (taC (tileKey t)) b).faults ++
          [{ status := St.scheduleViolation, ta := tileKey t, detail := tileDetail th.val 0 0 0, va := 0 }] ∧
        ((u.tile (tileKey t)).thread th.val).lastIssue = some cy ∧ (u.tile (tileKey t)).net = (s.tile (tileKey t)).net ∧ u.mem = s.mem)

/-- The vector unit (02 R51, R52, R54, 12 R291-R293): an instruction that can be one (a repeat count of 1 to 64, at most one wide row to read in a
cycle) joins a queue that holds fewer than four; a repeat of the head that is due and meets no condition of R50 gives its result to the
vector register, wide row or port it names, and no other tile and no memory changes: a repeat of VRAND 64 draws; SRAND gives the draw of its
number, ready two slots later. That an instruction may read one wide row a cycle, and what stands for a port another unit owns, are the
model's readings (log entry 98), as is the cycle in which an instruction starts (log entry 59). -/
def Obligations.VectorInstructions : Prop :=
  ∀ (s : State) (t : TileId),
    (∀ (th : Fin 4) (b cy : Nat) (vi : VInstr), s.canIssue (tileKey t) th.val = some (b, cy) → 0 < vi.rep → vi.rep ≤ 64 →
      (vecReads vi 0).length ≤ 1 → (s.tile (tileKey t)).core.vq.length < 4 → vi.op ≠ .vrand →
      ∃ u, exec (.vectorIssue t th vi) s = .next u ∧
        (u.tile (tileKey t)).core.vq = (s.tile (tileKey t)).core.vq ++ [{ instr := vi, thread := th.val }] ∧
        ((u.tile (tileKey t)).thread th.val).lastIssue = some cy ∧ (∀ k, k ≠ tileKey t → u.tile k = s.tile k) ∧ u.mem = s.mem) ∧
    (∀ (b : Nat) (ti : TileImg) (vi : VInstr) (bank : Fin 12) (row : Fin 128), s.inRun (tileKey t) = some (b, ti) →
      (s.tile (tileKey t)).vecDue = some vi →
      (vecFaults (s.tile (tileKey t)).ctl ((s.tile (tileKey t)).vecIn ti (128 * bank.val + row.val)) vi (s.tile (tileKey t)).core.vrep = [] →
        ∀ e : Instr, (e = .vectorInstruction ⟨t, bank, row, .clean⟩ ∧ isSpecial vi.op = false ∧ vi.op ≠ .vrand) ∨
            (e = .specialFunction ⟨t, bank, row, .clean⟩ ∧ isSpecial vi.op = true) →
          ∃ u, exec e s = .next u ∧ (u.tile (tileKey t)).core =
            (vecRepeat vi s.freeCtr ((s.tile (tileKey t)).vecIn ti (128 * bank.val + row.val)) (s.tile (tileKey t)).core
              (s.tile (tileKey t)).core.vrep).repeated
              (if swRdPort ((s.tile (tileKey t)).net.inForce ti) == 4 then some (128 * bank.val + row.val) else none) ∧
            (u.tile (tileKey t)).net = (s.tile (tileKey t)).net ∧ (∀ k, k ≠ tileKey t → u.tile k = s.tile k) ∧ u.mem = s.mem) ∧
      (∀ b' pos : Nat, vi.op = .vrand → s.batOf (tileKey t) = some (b', pos) →
        vecFaults (s.tile (tileKey t)).ctl ((s.tile (tileKey t)).vecIn ti 0) vi (s.tile (tileKey t)).core.vrep = [] →
        ∃ u, exec (.vrand t) s = .next u ∧ (u.tile (tileKey t)).core =
            (putRow (s.tile (tileKey t)).core ((s.tile (tileKey t)).vecIn ti 0) (s.tile (tileKey t)).core.vrep vi.regStride vi.rowStride
              (rowOf (fun l => randLane vi.fmt (s.drawOf (tileKey t) b' pos l (vi.stream.toNat + (s.tile (tileKey t)).core.vrep)))) vi.dst).repeated
              none ∧
            (∀ k, k ≠ tileKey t → u.tile k = s.tile k) ∧ u.mem = s.mem)) ∧
    (∀ (th : Fin 4) (b cy b' pos : Nat) (sD sN : Fin 32), s.canIssue (tileKey t) th.val = some (b, cy) →
      s.batOf (tileKey t) = some (b', pos) → sD.val ≠ 0 →
      ∃ u, exec (.srand t th sD sN) s = .next u ∧
        tget ((u.tile (tileKey t)).thread th.val).regs sD.val 0 =
          s.drawOf (tileKey t) b pos (64 + th.val) (s.regVal (tileKey t) th.val sN.val cy 0).toNat ∧
        tget ((u.tile (tileKey t)).thread th.val).notReady sD.val 0 = cy + 8 ∧ (∀ k, k ≠ tileKey t → u.tile k = s.tile k))

/-- Waits and the switch unit (02 R62, R65, 04 R101, 05 R121, R124): WAITC skips its slots until the named cycle; an entry of the switch
schedule ends when its hold has run out; padding ends at JOIN; the landing buffer takes an entry while it holds fewer than eight and writes
its head in a fill cycle; clearing gives the tile its new context. -/
def Obligations.TileWaitsAndFills : Prop :=
  ∀ (s : State) (t : TileId),
    (∀ (th : Fin 4) (b cy : Nat) (sN : Fin 32), s.canIssue (tileKey t) th.val = some (b, cy) →
      cy < (s.regVal (tileKey t) th.val sN.val cy 0).toNat → (s.regVal (tileKey t) th.val sN.val cy 0).toNat % 4 = th.val →
      ∃ u, exec (.waitc t th sN) s = .next u ∧
        ((u.tile (tileKey t)).thread th.val).waitc = some (s.regVal (tileKey t) th.val sN.val cy 0).toNat ∧ u.mem = s.mem) ∧
    (∀ (th : Fin 4) (b pos n : Nat), s.batOf (tileKey t) = some (b, pos) → (s.bat (taC (tileKey t)) b).st = .run →
      (s.bat (taC (tileKey t)) b).cycle = n → ((s.tile (tileKey t)).thread th.val).waitc = some n →
      ∃ u, exec (.waitcComplete t th) s = .next u ∧ ((u.tile (tileKey t)).thread th.val).waitc = none ∧
        ((u.tile (tileKey t)).thread th.val).pc = ((s.tile (tileKey t)).thread th.val).pc + 1 ∧ u.mem = s.mem) ∧
    (∀ (b : Nat) (ti : TileImg) (y : TileNet), s.inRun (tileKey t) = some (b, ti) → (s.tile (tileKey t)).net.ended = false →
      (s.tile (tileKey t)).net.inPad = false → (s.tile (tileKey t)).net.hold = 0 → (s.tile (tileKey t)).net.nextEntry ti = some y →
      exec (.switchEntryEnd t) s = .next (s.updTile (tileKey t) (fun t => t.updNet (fun _ => y)))) ∧
    (∀ (b : Nat) (ti : TileImg), s.inRun (tileKey t) = some (b, ti) → (s.tile (tileKey t)).net.inPad = true →
      (s.tile (tileKey t)).net.padding = 0 → ∃ u, exec (.paddingEnd t) s = .next u ∧
        (u.tile (tileKey t)).net.entry = (s.tile (tileKey t)).net.joinAt ∧ (u.tile (tileKey t)).net.inPad = false ∧ u.mem = s.mem) ∧
    (∀ (h : LandEntry) (rest : List LandEntry), s.fillHeld (tileKey t) = false → s.fillCycle (tileKey t) = true →
      s.muffledTile (tileKey t) = false → (s.tile (tileKey t)).ctl.landing = h :: rest →
      ∃ u, exec (.landingFill t) s = .next u ∧ (u.tile (tileKey t)).ctl.landing = rest ∧
        (u.tile (tileKey t)).core.pad = mwriteMasked (s.tile (tileKey t)).core.pad (256 * h.row)
          (maskedBytes h.mask (if s.slotClash (tileKey t) h then s.freeVal 2048 else h.data)) ∧
        (∀ k, k ≠ tileKey t → u.tile k = s.tile k) ∧ u.mem = s.mem) ∧
    (∀ (c : Fin 16) (e : Fin 4) (d : Fin 16) (r : Transit) (i : CtxId),
      (s.descX c.val e.val d.val).transit.find? (fun r => r.ta == tileKey t) = some r → (s.desc c.val e.val d.val).owner = some i →
      s.muffledTile (tileKey t) = false → (s.tile (tileKey t)).ctl.landing.length < 8 →
      ∃ u l, exec (.landingEntryArrival t c e d) s = .next u ∧
        (u.tile (tileKey t)).ctl.landing = (s.tile (tileKey t)).ctl.landing ++ [l] ∧ l.row = r.row ∧ l.data = r.data ∧ l.mask = r.mask ∧
        l.ctx = i ∧ (u.descX c.val e.val d.val).transit = (s.descX c.val e.val d.val).transit.erase r ∧ u.mem = s.mem) ∧
    (∀ (i : CtxId), (s.tile (tileKey t)).ctl.clearing = some i → s.batOf (tileKey t) = none →
      ∃ u, exec (.tileClearComplete t) s = .next u ∧ (u.tile (tileKey t)).ctl.cur = some i ∧ (u.tile (tileKey t)).ctl.clearing = none)

/-- The section commands of a queue start and reach their battery, where a cluster that is not ready ends a load with NOT_READY (04 R94, R105;
06 R159; 16 R378). -/
def Obligations.SectionCommandsStart : Prop :=
  ∀ (s : State) (p : Fin 16) (k : Fin 64) (r : CmdRef),
    (s.fetchedCmd p.val k.val 0 0x01 = some r →
      ((s.clY (bf r.bits 64 4)).ready = true → exec (.secLoad p k) s =
        .next ((s.startCmd r).reach (bf r.bits 64 4) (s.redirect (bf r.bits 64 4) (bf r.bits 68 6)) r)) ∧
      ((s.clY (bf r.bits 64 4)).ready = false → exec (.secLoad p k) s = .next ((s.startCmd r).complete r 0xD0 0))) ∧
    (s.fetchedCmd p.val k.val 0 0x02 = some r → exec (.secRun p k) s =
      .next ((s.startCmd r).reach (bf r.bits 64 4) (s.redirect (bf r.bits 64 4) (bf r.bits 68 6)) r)) ∧
    (s.fetchedCmd p.val k.val 0 0x03 = some r → (s.clY (bf r.bits 64 4)).ready = true →
      ∃ h : Chain, h.cmd = r ∧ h.n = bf r.bits 68 2 + 2 ∧ h.pos = 0 ∧ h.vas.length = h.n ∧ exec (.secChain p k) s =
        .next (((s.startCmd r).updCl (bf r.bits 64 4) (fun x => { x with chains := x.chains ++ [h] })).reach
          (bf r.bits 64 4) (h.bats.getD 0 0) r))

/-- The life of a section in its battery: LOADED fills the shadow, the locks are granted all at once, RUN starts at cycle 0, a take consumes the
lowest stream tile, RUN ends in COMMIT where no tile and no binding disagrees, COMMIT makes the RES_OUT banks resident, writes its
chimes, or waits while one lies in a region another section has locked, and completes the section (04 R103-R110, 06 R149, R159). Where a
hand-over buffer lies in the pool is the model's choice (log entry 12). -/
def Obligations.SectionLifecycle : Prop :=
  ∀ (s : State) (c : Fin 16) (b : Fin 64),
    (∀ (img : SecImage) (r : CmdRef) (u : State), (s.bat c.val b.val).loadImg = some img → (s.bat c.val b.val).loadCmd = some r →
      s.updBat c.val b.val (fun x => { x with
        shadow := some img, loadImg := none, loadCmd := none, st := if x.st == .loading then .loaded else x.st }) = u →
      (r.op ≠ 3 → exec (.loaded c b) s = .next (((u.updBat c.val b.val (fun x => { x with lastStatus := St.completed })).complete r
        St.completed 0).pumpBat c.val b.val)) ∧
      (r.op = 3 → exec (.loaded c b) s = .next ((u.updBat c.val b.val (fun x =>
        { x with waiting := { r with op := chainRun } :: x.waiting })).pumpBat c.val b.val))) ∧
    ((s.bat c.val b.val).st = .arm → (s.bat c.val b.val).armOk = true → (s.bat c.val b.val).waitLock = true →
      s.lockFree c.val b.val = true →
      exec (.lockGrant c b) s = .next (s.updBat c.val b.val (fun x => { x with locks := true, waitLock := false }))) ∧
    (∀ img : SecImage, (s.bat c.val b.val).active = some img → (s.bat c.val b.val).st = .arm → (s.bat c.val b.val).armOk = true →
      (s.bat c.val b.val).locks = true → (s.bat c.val b.val).waitLock = false → (∀ bd ∈ img.bindings, s.slotReady c.val bd = true) →
      ∃ u, exec (.runStart c b) s = .next u ∧ (u.bat c.val b.val).st = .run ∧ (u.bat c.val b.val).cycle = 0 ∧
        (u.bat c.val b.val).endPending = false ∧ (u.clY c.val).ran = true ∧ u.mem = s.mem ∧ u.ctxs = s.ctxs ∧
        (∀ e ∈ s.batTiles c.val b.val, (u.tile e.2).ctl.running = true ∧ (u.tile e.2).net.entry = 0 ∧ (u.tile e.2).net.ended = false)) ∧
    (∀ (img : SecImage) (bd : Binding) (n : Fin 8), (s.bat c.val b.val).active = some img →
      img.bindings.find? (fun bd => bd.index == n.val) = some bd → (s.bat c.val b.val).st = .run →
      (s.bat c.val b.val).endPending = false →
      bd.takeCycles[(takesOf (s.bat c.val b.val).takes bd.index).taken]? = some (s.bat c.val b.val).cycle →
      (s.desc c.val bd.engine bd.desc).taken < (s.desc c.val bd.engine bd.desc).delivered →
      ∃ u, exec (.take c b n) s = .next u ∧
        (u.desc c.val bd.engine bd.desc).taken = (s.desc c.val bd.engine bd.desc).taken + 1 ∧
        (takesOf (u.bat c.val b.val).takes bd.index).taken =
          (takesOf (s.bat c.val b.val).takes bd.index).taken + 1 ∧ u.mem = s.mem) ∧
    (∀ img : SecImage, (s.bat c.val b.val).active = some img → (s.bat c.val b.val).st = .run → (s.bat c.val b.val).endPending = true →
      (s.bat c.val b.val).faults = [] →
      (∀ e ∈ s.batTiles c.val b.val, (s.bat c.val b.val).passDue img (s.tile e.2).test.passIdx = false ∧
        (s.tile e.2).endsWell (img.tileAt e.1) = true) →
      (∀ bd ∈ img.bindings, s.takesAgree c.val (s.bat c.val b.val).takes bd = true) →
      ∃ u, exec (.runEnd c b) s = .next u ∧ (u.bat c.val b.val).st = .commit ∧ u.mem = s.mem ∧ u.ctxs = s.ctxs) ∧
    (∀ (img : SecImage) (i : CtxId), (s.bat c.val b.val).active = some img → (s.bat c.val b.val).owner = some i →
      (s.bat c.val b.val).st = .commit → s.storesPending c.val b.val = false → ∀ (u w : State) (st : Nat),
      (s.each (s.batTiles c.val b.val) (fun s e => s.updTile e.2 (fun t => t.updCtl (fun y =>
        { y with resValid := y.resValid ||| y.resOut })))).updBat c.val b.val (fun y => { y with locks := false, regions := [] }) = u →
      (img.chimes.any (fun r => u.chimeLocked i (chVa r) true) = true → exec (.commit c b) s = .next u) ∧
      (img.chimes.any (fun r => u.chimeLocked i (chVa r) true) = false → u.writeChimes i (chSort img.chimes) = (w, st) →
        exec (.commit c b) s = .next (((((((w.freeBuffer c.val b.val img).endBattery c.val b.val (if st = 0 then St.committed else st)).finishSection
          c.val (if st = 0 then St.committed else st) (s.bat c.val b.val).cmd).muffleWaiting c.val b.val).pumpBat c.val b.val).resetIfDue
          i.part i.ctx)))) ∧
    (∀ (img : SecImage) (i : CtxId) (h : Chain) (base : Nat), (s.bat c.val b.val).active = some img →
      (s.bat c.val b.val).owner = some i → s.chainOf c.val b.val = some h → (s.bat c.val b.val).st = .arm →
      (s.bat c.val b.val).armOk = false → (s.bat c.val b.val).waitLock = true → s.needsBuffer c.val b.val img = true →
      s.poolRoom c.val (((img.regions.filter (fun r => regKind r == 2 && regHo r == h.pos)).map regLen).foldl max 0) = some base →
      ∃ u v, exec (.handoverAllocate c b) s = .next u ∧ u = (v.armChecks c.val b.val).pumpBat c.val b.val ∧
        v = (((s.takeBuffer base (((img.regions.filter (fun r => regKind r == 2 && regHo r == h.pos)).map regLen).foldl max 0) i).setChain
          c.val { h with hoffs := tset h.hoffs h.pos (base,
            ((img.regions.filter (fun r => regKind r == 2 && regHo r == h.pos)).map regLen).foldl max 0) }).updBat c.val b.val
          (fun y => { y with waitLock := false })))

/-- One step of an array clock (01 R36, R37, R40, R41): the code goes one step toward the frequency asked for, every other clock, the tiles and
memory stay; without such a frequency, and while a self-test slice holds the clock, nothing changes; with the loops component down only the current limit moves it (18 R414). Strict mode (12 R285, R286): an owner's
write of STRICT is superseded, completes at once where nothing changes, is refused where a context is in another state than FREE, PREEMPTED,
SAVED or FAULTED, and else sets STRICT and asks 1.350 GHz of every cluster of the partition, or clears it; a strict partition pins its
clusters that stand at 1.350 GHz. FLUSH (12 R300) drops the cached lines of the partition's clusters and the translations of its contexts
and changes no memory. Another function's write, and one during a reset, is refused. Toward what a step goes is log entry 24. -/
def Obligations.ClockStepsAndStrictMode : Prop :=
  (∀ (s : State) (c : Fin 16) (up : Bool),
      (∀ n, (s.compDown 17 = true → (s.clock c.val).lowered = true) → s.sliceHolds c.val = false → (up = true → 40 ≤ (s.clock c.val).code → s.mayRise c.val = true) → (s.clock c.val).next up = some n →
        exec (.aclkStep c up) s = .next (s.setCode c.val n) ∧
        ((s.clock c.val).pinned = false → ∃ u, exec (.aclkStep c up) s = .next u ∧ (u.clock c.val).code = n ∧
          (n = (s.clock c.val).code + 1 ∨ n + 1 = (s.clock c.val).code) ∧ (∀ d, d ≠ c.val → u.clock d = s.clock d) ∧ u.tiles = s.tiles ∧
          u.mem = s.mem ∧ u.ctxs = s.ctxs)) ∧
      (s.sliceHolds c.val = true ∨ (s.clock c.val).target = none ∨ (s.compDown 17 = true ∧ (s.clock c.val).lowered = false) → exec (.aclkStep c up) s = .next s) ∧
      (∀ n, (s.clock c.val).next up = some n ↔ ∃ t, (s.clock c.val).target = some t ∧
        ((up = true ∧ (s.clock c.val).code < t ∧ n = (s.clock c.val).code + 1) ∨
          (up = false ∧ t < (s.clock c.val).code ∧ n = (s.clock c.val).code - 1)))) ∧
  (∀ (s : State) (fn : Fn) (p : Fin 16), s.ownsP fn p.val = true → s.resetting p.val = false →
      (∀ val : Dword, exec (.strictWrite fn p val) s = .next (if val.toNat.testBit 2 then
        ((s.unlatch fn).writeStrict p.val (val.toNat.testBit 0)).flushPart p.val else (s.unlatch fn).writeStrict p.val (val.toNat.testBit 0))) ∧
      (∀ val : Dword, s.arbitrate 8 (.part p.val) = .proceed → (s.part p.val).strict = false → s.strictFree p.val = true →
        val.toNat.testBit 0 = true → val.toNat.testBit 2 = false →
        ∃ u, exec (.strictWrite fn p val) s = .next u ∧ (u.part p.val).strict = true ∧ (u.part p.val).strictResult = St.completed ∧
          (u.part p.val).strictBusy = !(s.clustersOf p.val).isEmpty ∧ (∀ c ∈ s.clustersOf p.val, (u.clock c).target =
            (if (s.clock c).code = 54 then none else some 54)) ∧ u.tiles = s.tiles ∧ u.mem = s.mem) ∧
      (∀ on : Bool,
        (s.arbitrate 8 (.part p.val) ≠ .proceed → s.writeStrict p.val on = s.updPart p.val (fun x => { x with strictResult := St.superseded })) ∧
        (s.arbitrate 8 (.part p.val) = .proceed →
          (on = (s.part p.val).strict → s.writeStrict p.val on = s.updPart p.val (fun x => { x with strictResult := St.completed })) ∧
          (on ≠ (s.part p.val).strict → s.strictFree p.val = false →
            s.writeStrict p.val on = s.updPart p.val (fun x => { x with strictResult := St.contextState })) ∧
          (on ≠ (s.part p.val).strict → s.strictFree p.val = true →
            s.writeStrict p.val on = (s.setStrict p.val on).updPart p.val (fun x => { x with strictResult := St.completed })))) ∧
      ((s.part p.val).strict = true → (s.part p.val).strictBusy = false → (∀ e ∈ s.bats, e.2.st ≠ .arm) →
        ∃ u, exec (.pinned p) s = .next u ∧ (∀ c ∈ s.clustersOf p.val, (s.clock c).code = 54 → (u.clock c).pinned = true) ∧
          (∀ c ∈ s.clustersOf p.val, (s.clock c).code ≠ 54 → u.clock c = s.clock c) ∧ u.bats = s.bats ∧ u.tiles = s.tiles ∧ u.mem = s.mem) ∧
      (∀ c : Nat, (s.part p.val).strict = true → s.clustersOf p.val = [c] → (s.clock c).code = 54 → (s.clock c).pinned = false →
        (∀ e ∈ s.bats, e.2.st ≠ .arm) → (s.part p.val).strictBusy = true → exec (.pinned p) s = .next (((s.updClock c (fun k =>
          { k with pinned := true, lowest := 54, target := none, lowered := false })).updPart p.val (fun x =>
          { x with strictBusy := false })).runWaiting p.val)) ∧
      ∃ u, exec (.flush fn p) s = .next u ∧ u.mem = s.mem ∧ u.tiles = s.tiles ∧ (∀ c : Nat, s.owns p.val c = true → (u.cl c).cache = []) ∧
        (∀ c : Nat, ∀ e ∈ (u.cl c).tlb, e.ctx.part ≠ p.val) ∧ (∀ c : Nat, s.owns p.val c = false → (u.cl c).cache = (s.cl c).cache)) ∧
  (∀ (s : State) (fn : Fn) (p : Fin 16) (val : Dword) (r : Nat), (s.ownsP fn p.val = false ∧ r = 2) ∨
      (s.ownsP fn p.val = true ∧ s.resetting p.val = true ∧ r = 3) →
      exec (.strictWrite fn p val) s = .next ((s.unlatch fn).refuseP fn p.val (offP p.val 8) r val.toNat) ∧
      exec (.flush fn p) s = .next ((s.unlatch fn).refuseP fn p.val (offP p.val 8) r 4))

/-- The step counter and the seed are written by the owner of the partition while the context is FREE, PREEMPTED, SAVED or FAULTED and no reset
runs (12 R288, R290); another function, or another state, is refused with reason 2 or 3. STEP
(12 R288): once every earlier command has completed, the step counter of the context goes on by one, modulo 2^64, and the command
completes; until then it waits. The windows that it sets again (13 R305) are part of stepCtx and not stated here. -/
def Obligations.StepAndSeed : Prop :=
  (∀ (s : State) (fn : Fn) (p : Fin 16) (k : Fin 64) (val : Dword),
      (s.ownsP fn p.val = true → s.resetting p.val = false → s.stepFree p.val k.val = true →
        (∃ u, exec (.stepCounterWrite fn p k val) s = .next u ∧ (u.ctxX p.val k.val).step = val.toNat ∧ u.ctxs = s.ctxs ∧ u.mem = s.mem ∧
          u.tiles = s.tiles) ∧
        (∃ u, exec (.seedWrite fn p k false val) s = .next u ∧ (u.ctxX p.val k.val).seedLo = val ∧
          (u.ctxX p.val k.val).seedHi = (s.ctxX p.val k.val).seedHi ∧ u.ctxs = s.ctxs ∧ u.mem = s.mem) ∧
        (∃ u, exec (.seedWrite fn p k true val) s = .next u ∧ (u.ctxX p.val k.val).seedHi = val ∧
          (u.ctxX p.val k.val).seedLo = (s.ctxX p.val k.val).seedLo ∧ u.ctxs = s.ctxs ∧ u.mem = s.mem)) ∧
      (∀ r, (s.ownsP fn p.val = false ∧ r = 2) ∨ (s.ownsP fn p.val = true ∧ (s.resetting p.val = true ∨ s.stepFree p.val k.val = false) ∧ r = 3) →
        exec (.stepCounterWrite fn p k val) s =
            .next ((s.unlatch fn).refuseP fn p.val (offP p.val (0xB00 + 8 * k.val)) r val.toNat) ∧
        ∀ hi, exec (.seedWrite fn p k hi val) s =
            .next ((s.unlatch fn).refuseP fn p.val (offP p.val ((if hi then 0xF00 else 0xD00) + 8 * k.val)) r val.toNat))) ∧
  (∀ (s : State) (p : Fin 16) (k : Fin 64),
      (∀ r : CmdRef, s.fetchedCmd p.val k.val 0 0x33 = some r → s.allEarlier r = true →
        exec (.stepCommand p k) s = .next (((s.startCmd r).stepCtx p.val k.val).complete r St.completed 0)) ∧
      (∀ r : CmdRef, s.fetchedCmd p.val k.val 0 0x33 = some r → s.allEarlier r = false → exec (.stepCommand p k) s = .next s) ∧
      (∀ s : State, ((s.stepCtx p.val k.val).ctxX p.val k.val).step = ((s.ctxX p.val k.val).step + 1) % 2 ^ 64))

/-- A pass of a tile ends (13 R301, R304): the pass is counted, a capture under way is finished and queued for a check, and the next pass
begins while the section has one. The double-stroke checks (13 R306-R309, 02 R69): a waiting capture goes to the checker the rule picks, whose
stroke buffer takes it; agreement ends the check, which is counted; a disagreement asks for a second checker; the second result names the
one who erred; without one the worker is taken to err; a lost check is counted, abandoned, and its worker's third in a row is marked. What
errs means for the ledger is confirm and workerErrs (13 R317; O60). -/
def Obligations.PassEndsAndChecks : Prop :=
  (∀ (s : State) (t : TileId) (b pos : Nat) (img : SecImage) (i : CtxId), s.batOf (tileKey t) = some (b, pos) →
      (s.bat t.c.val b).active = some img → (s.bat t.c.val b).owner = some i → (s.bat t.c.val b).st = .run →
      (s.bat t.c.val b).passDue img (s.tile (tileKey t)).test.passIdx = true →
      ((∀ k, (s.tile (tileKey t)).test.capture = some k → k.complete = true) → ∃ u v : State, exec (.passEnd t) s = .next u ∧
        (u.tile (tileKey t)).test.passes = wrapAdd 48 (s.tile (tileKey t)).test.passes 1 ∧
        (u.tile (tileKey t)).test.passIdx = (s.tile (tileKey t)).test.passIdx + 1 ∧
        (u.tile (tileKey t)).core = (s.tile (tileKey t)).core ∧ (∀ k, k ≠ tileKey t → u.tile k = s.tile k) ∧ u.mem = s.mem ∧
        v.clx = s.clx ∧ (v.tile (tileKey t)).test.passIdx = (s.tile (tileKey t)).test.passIdx + 1 ∧
        (img.cycles ≤ 64 * ((s.tile (tileKey t)).test.passIdx + 1) → u = v) ∧
        (64 * ((s.tile (tileKey t)).test.passIdx + 1) < img.cycles → u = v.beginPass t.c.val b pos (tileKey t))) ∧
      (∀ k : Capture, (s.tile (tileKey t)).test.capture = some k → k.complete = false → ∃ u, exec (.passEnd t) s = .next u ∧
        (u.tile (tileKey t)).test.capture = some k.finish ∧ tileKey t ∈ (u.clX t.c.val).capWait ∧ u.mem = s.mem)) ∧
  (∀ (s : State) (t : TileId),
      (∀ (h : TileId) (cap : Capture), (s.clX t.c.val).checks.find? (fun k => k.needsSecond (tileKey t)) = none →
        (s.tile (tileKey t)).test.capture = some cap → cap.complete = true → tileKey t ∈ (s.clX t.c.val).capWait →
        (∀ u ∈ (s.clX t.c.val).capWait.takeWhile (· != tileKey t), s.servable u = false) →
        s.pickChecker (tileKey t) [] (s.priority (tileKey t)) = some (tileKey h) →
        ∃ u, exec (.check t h) s = .next u ∧ (u.tile (tileKey t)).test.capture = none ∧
          (u.clX t.c.val).capWait = (s.clX t.c.val).capWait.erase (tileKey t) ∧ (u.clX t.c.val).checks = (s.clX t.c.val).checks ++
            [{ worker := tileKey t, capture := cap, checker := some (tileKey h), first := none, dead := false }] ∧
          (u.tile (tileKey h)).test.duty = some cap ∧ u.mem = s.mem) ∧
      (∀ (h : TileId) (k : Check) (f : Nat) (sig : Word), (s.clX t.c.val).checks.find? (fun k => k.needsSecond (tileKey t)) = some k →
        k.first = some (f, sig) → s.pickChecker (tileKey t) [f] false = some (tileKey h) →
        ∃ u, exec (.check t h) s = .next u ∧ (u.clX t.c.val).checks =
          (s.clX t.c.val).checks.map (fun j => if j == k then { j with checker := some (tileKey h) } else j) ∧
          (u.tile (tileKey h)).test.duty = some k.capture ∧ u.mem = s.mem) ∧
      (∀ (k : Check) (sig : Word),
        (s.clX t.c.val).checks.find? (fun k => k.worker == tileKey t && k.first.isNone && k.checker.isSome) = some k →
        (sig = k.capture.signature → exec (.checkResult t sig) s = .next (s.checkDone k true)) ∧
        (sig ≠ k.capture.signature → ∃ u, exec (.checkResult t sig) s = .next u ∧ u.tiles = s.tiles ∧ u.log = s.log ∧
          (∀ j ∈ (s.clX t.c.val).checks, j = k →
            { j with checker := none, first := j.checker.map (fun h => (h, sig)) } ∈ (u.clX t.c.val).checks))) ∧
      (∀ (k : Check) (f h : Nat) (sig1 sig : Word),
        (s.clX t.c.val).checks.find? (fun k => k.worker == tileKey t && k.first.isSome && k.checker.isSome) = some k →
        k.first = some (f, sig1) → k.checker = some h →
        (sig = k.capture.signature → exec (.secondCheckResult t sig) s =
          .next (((s.raise { s.findingRec k 0xB1 false h sig.toNat with part := none }).checkDone k false).confirm 2 f 1 0xB1)) ∧
        (sig ≠ k.capture.signature → sig = sig1 → exec (.secondCheckResult t sig) s =
          .next ((s.checkDone k false).workerErrs k false h sig.toNat)) ∧
        (sig ≠ k.capture.signature → sig ≠ sig1 → exec (.secondCheckResult t sig) s =
          .next (((s.checkDone k false).workerErrs k true h sig.toNat).suspect f 0xB0))) ∧
      (∀ k : Check, (s.clX t.c.val).checks.find? (fun k => k.worker == tileKey t && k.first.isSome) = some k →
        exec (.secondCheckTimeout t) s = .next ((s.checkDone k false).workerErrs k true 0 0)) ∧
      (∀ k : Check, (s.clX t.c.val).checks.find? (fun k => k.worker == tileKey t && k.first.isNone) = some k →
        exec (.checkLost t) s = .next (s.loseCheck k))) ∧
  (∀ (s : State) (k : Check),
      (∀ good : Bool, ((s.checkDone k good).clX (taC k.worker)).checks = ((s.clX (taC k.worker)).checks).erase k ∧
        ((s.checkDone k good).clX (taC k.worker)).checked = wrapAdd 32 (s.clX (taC k.worker)).checked 1 ∧
        ((s.checkDone k good).tile k.worker).test.lostRun = 0) ∧
      ((s.tile k.worker).test.lostRun + 1 < 3 → ((s.loseCheck k).clX (taC k.worker)).checks = ((s.clX (taC k.worker)).checks).erase k ∧
        ((s.loseCheck k).clX (taC k.worker)).lostCnt = satAdd 16 (s.clX (taC k.worker)).lostCnt 1 ∧
        ((s.loseCheck k).tile k.worker).test.lostRun = (s.tile k.worker).test.lostRun + 1) ∧
      (2 ≤ (s.tile k.worker).test.lostRun → (s.tile k.worker).test.limitedSent = false →
        ∃ v : State, s.loseCheck k = v.checkLimited (taC k.worker) k.worker ∧ (v.tile k.worker).test.limitedSent = true))

/-- Self-test slices (14 R326-R339): a scheduled slice of the kind its tile misses first starts on a tile that meets the conditions, in its turn or
under a hold, and one of a link or lane group is the next of its die; a slice that starts is in progress, and one of a tile holds the array
clock. A rail outside its window skips the slice. The end of a slice returns the unit, records the outcome, counts a failure against the
tile, and passes it on: a kind passed, a failure of an opportunistic slice, or the outcome of a retest; a hold whose work is done is
released. A tile 72,000 s without a full cycle is forced, a forced one at 86,400 s overdue; a hold blocks ARM on its battery and steps the
clock of its cluster. The order among tiles is log entry 63. -/
def Obligations.SelfTestSlices : Prop :=
  ∀ (s : State) (t : TileId),
    (∀ kind u : Nat, s.boot.bundle = true → s.compDown 35 = false → s.compDown 19 = false →
      (kind < 6 → s.tileReady kind u false = true → s.atTest (taC u) = true → s.nextKind u = some kind →
        (s.underHold u = true ∨ s.tapTurn u = true) → exec (.tapSchedule kind u) s = .next (s.startSlice kind u false (s.underHold u))) ∧
      (6 ≤ kind → unitDie kind u < 4 → s.nextOnDie (unitDie kind u) = some (kind, u) → s.health.slices = [] →
        ∃ u', exec (.tapSchedule kind u) s = .next u' ∧ u'.health.slices.map (fun x => (x.kind, x.unit_)) = [(kind, u)] ∧
          u'.clusters = s.clusters ∧ u'.mem = s.mem)) ∧
    (∀ (kind u : Nat) (retest forced : Bool),
      (s.startSlice kind u retest forced).health.slices.map (fun x => (x.kind, x.unit_, x.retest, x.forced)) =
        s.health.slices.map (fun x => (x.kind, x.unit_, x.retest, x.forced)) ++ [(kind, u, retest, forced)] ∧
      (kind < 6 → ((s.startSlice kind u retest forced).clock (taC u)).tapHold = true ∧
        ((s.startSlice kind u retest forced).tile u).test.buf = some ((s.tile u).core.vregs, (s.tile u).core.consts))) ∧
    (∀ (kind u mv : Nat) (x : TapSlice), s.health.slices.find? (fun x => x.kind == kind && x.unit_ == u) = some x →
      exec (.railSample kind u mv) s = .next (if 100 * mv < 98 * Config.testPoint s.fw.version kind x.fast ∨
        102 * Config.testPoint s.fw.version kind x.fast < 100 * mv then s.skipSlice x 2 else s)) ∧
    (∀ (kind u e : Nat) (golden pass : Bool) (sig : Dword) (errors lanes : Nat) (x : TapSlice) (v w y : State),
      s.health.slices.find? (fun x => x.kind == kind && x.unit_ == u) = some x → (if 2 ≤ kind ∧ kind ≠ 5 then errors else 0) = e →
      (golden && e == 0) = pass → ((s.returnTile x).marched x).tapRecord x (if pass then 0 else 1) (min e 255)
        (if kind = 7 then lanes % 16 else 0) sig.toNat = v →
      (pass = true → (if kind < 6 then v.kindPassed u kind else v) = w) →
      (pass = false → ∀ f : State, (if kind < 6 then v.updTile u (fun t => t.updTest (fun y => { y with fails := satAdd 8 y.fails 1 })) else v) = f →
        (if 0 < e then f.scrubLost x lanes else f) = w) →
      (if x.retest then w.retestEnd x pass else if pass then w else w.tapFail x lanes) = y →
      exec (.tapSliceEnd kind u golden sig errors lanes) s =
        .next (if kind < 6 ∧ x.forced = true ∧ y.holdDone (taC u) = true then y.releaseHold (taC u) else y)) ∧
    (∀ (kind u lanes : Nat) (sig : Dword) (x : TapSlice), s.health.slices.find? (fun x => x.kind == kind && x.unit_ == u) = some x →
      x.retest = false → x.forced = false → kind < 6 → ∃ u', exec (.tapSliceEnd kind u true sig 0 lanes) s = .next u' ∧
        u'.health.slices = s.health.slices.erase x ∧ (u'.tile u).core.plane0 = 0 ∧ (u'.tile u).core.plane1 = 0 ∧
        (u'.tile u).test.done = (if (s.tile u).test.done ||| 2 ^ kind = 63 then 0 else (s.tile u).test.done ||| 2 ^ kind) ∧
        (∀ n, n ≠ u → u'.tile n = s.tile n) ∧ u'.mem = s.mem) ∧
    (s.muffledTile (tileKey t) = false → s.tapAge (tileKey t) 72000 = true →
      ∃ u, exec (.tapForced t) s = .next u ∧ (u.tile (tileKey t)).test.forced = true ∧ (u.tile (tileKey t)).core = (s.tile (tileKey t)).core ∧
        (∀ k, k ≠ tileKey t → u.tile k = s.tile k) ∧ u.mem = s.mem) ∧
    (s.muffledTile (tileKey t) = false → s.tapAge (tileKey t) 86400 = true → (s.tile (tileKey t)).test.forced = true →
      (s.tile (tileKey t)).test.overdue = false → exec (.tapOverdue t) s = .next ((s.updTile (tileKey t) (fun t => t.updTest (fun x =>
        { x with overdue := true }))).raise (unitRec 0xB7 1 (tileKey t)))) ∧
    (∀ (c : Fin 16) (b : Fin 64), s.compDown 35 = false → (s.clX c.val).tapHold = false → (s.bat c.val b.val).st ≠ .arm →
      (s.bat c.val b.val).st ≠ .run → (s.bat c.val b.val).st ≠ .commit → (s.bat c.val b.val).st ≠ .abort →
      (∃ e ∈ s.batTiles c.val b.val, (s.tile e.2).test.forced = true) → ∃ u, exec (.forcedHold c b) s = .next u ∧
        (u.clX c.val).tapHold = true ∧ (u.clX c.val).tapHoldBat = b.val ∧ (u.clock c.val).tapHold = true ∧
        (u.clock c.val).target = (if (s.clock c.val).code = testCode (s.clock c.val).code then none else some (testCode (s.clock c.val).code)) ∧
        u.mem = s.mem ∧ u.tiles = s.tiles)

/-- Retests (13 R321, R322, 14 R337): a retest in progress starts its next slice, or steps its cluster's clock to the
frequency that slice needs; it runs out of time, begins again after that, and a scrub slice of a memory unit passes or fails it, or it
goes on; one that passes leaves a transient-suspect unit clean. The ledger in the NOR (13 R319, R320): a write goes to the copy that does not hold the current version of the entry,
with the next sequence number, and leaves the other copy; the header holds the operating second. -/
def Obligations.RetestsAndLedger : Prop :=
  (∀ (s : State) (u : UnitId) (n : Nat), s.retestOf u.kind u.index = some n →
      (s.boot.bundle = true → s.compDown 35 = false → n ≠ 1000 → exec (.retestStart u) s =
        .next ((s.setRetest u.kind u.index (some (max n 1))).retestGo u.kind u.index (max n 1))) ∧
      (u.kind ≠ 1 → u.kind ≠ 2 → exec (.retestTimeout u) s = .next ((s.abandonSlices 2 (fun x => x.retest && s.retestUnit x ==
        s.ledger.retests.find? (fun r => r.1 == u.kind && r.2.1 == u.index))).setRetest u.kind u.index (some 1000))) ∧
      (u.kind = 1 ∨ u.kind = 2 → ∃ v, exec (.retestTimeout u) s = .next v ∧ v.retestOf u.kind u.index = some 1000) ∧
      (n = 1000 → exec (.retestRetry u) s = .next ((s.setRetest u.kind u.index (some 1)).retestGo u.kind u.index 1)) ∧
      (u.kind = 3 ∨ u.kind = 6 ∨ u.kind = 7 → n ≠ 0 → n ≠ 1000 →
        (∀ last, exec (.scrubSlice u last false) s = .next (s.retestFail u.kind u.index)) ∧
        exec (.scrubSlice u true true) s = .next (s.retestPass u.kind u.index) ∧ exec (.scrubSlice u false true) s = .next s)) ∧
  (∀ (s : State) (kind idx n k u : Nat), (∀ x ∈ s.health.slices, ¬ (x.kind = k ∧ x.unit_ = u)) →
      (retestSlice kind idx (n - 1) = some (k, u, none) → (∀ x ∈ s.health.slices, x.kind < 6 ∨ unitDie x.kind x.unit_ ≠ unitDie k u) →
        s.retestGo kind idx n = s.startSlice k u true false) ∧
      (∀ f, retestSlice kind idx (n - 1) = some (k, u, some f) →
        ((s.clock (taC u)).code = f → s.atTest (taC u) = true → s.tileReady k u true = true → s.retestGo kind idx n = s.startSlice k u true false) ∧
        ((s.clock (taC u)).code ≠ f → s.retestGo kind idx n = s.updClock (taC u) (fun x => { x with tapHold := true, target := some f })))) ∧
  (∀ (s : State) (kind idx : Nat), ledState (s.ledgerOf kind idx) = 1 → ledState ((s.retestPass kind idx).ledgerOf kind idx) = 0) ∧
  (∀ s : State, s.compDown 1 = false →
      (∀ u : UnitId, ledgerNo u.kind u.index ∈ s.ledger.dirty → ∃ v, exec (.ledgerWrite u) s = .next v ∧
        v.ledger.seq = s.ledger.seq + 1 ∧ v.ledger.dirty = s.ledger.dirty.erase (ledgerNo u.kind u.index) ∧ v.mem = s.mem ∧ v.tiles = s.tiles ∧
        (if s.ledger.inA (ledgerNo u.kind u.index) then v.ledger.copyA = s.ledger.copyA ∧
            tget v.ledger.copyB (ledgerNo u.kind u.index) 0 = sealEntry (s.ledgerOf u.kind u.index).toNat (s.ledger.seq + 1)
          else v.ledger.copyB = s.ledger.copyB ∧
            tget v.ledger.copyA (ledgerNo u.kind u.index) 0 = sealEntry (s.ledgerOf u.kind u.index).toNat (s.ledger.seq + 1))) ∧
      (∃ v, exec .ledgerHeaderRewrite s = .next v ∧ v.ledger.headerSec = s.ledger.opSec ∧ v.ledger.seq = s.ledger.seq + 1 ∧
        v.ledger.work = s.ledger.work ∧ v.mem = s.mem ∧ v.tiles = s.tiles))

/-- The stream commands of queue 1 (06 R137-R143, R157; 16 R378): STREAM starts a FREE descriptor whose image passes the checks, STREAM_REARM a
PARKED one or a STOPPED one whose rewound run is to start afresh; each waits while its engine has eight ACTIVE descriptors; a busy descriptor ends them with STREAM_BUSY. STREAM_RESUME (08 R201,
R205): the owner's write names a descriptor; with GO a STOPPED one with a replayable status and its record goes on; another ends with
STREAM_BUSY. How an engine learns a varying-rate binding is the model's choice (log entry 14). -/
def Obligations.StreamsStartAndResume : Prop :=
  (∀ (s : State) (p : Fin 16) (k : Fin 64) (r : CmdRef) (c e d : Nat), bf r.bits 64 4 = c → bf r.bits 68 2 = e → bf r.bits 70 4 = d →
      s.isolated c 1 e k.val = false →
      (s.fetchedCmd p.val k.val 1 0x10 = some r →
        ((s.clY c).ready = false → exec (.stream p k) s = .next ((s.startCmd r).complete r 0xD0 0)) ∧
        ((s.clY c).ready = true → (s.desc c e d).st ≠ .free → exec (.stream p k) s = .next ((s.startCmd r).complete r St.streamBusy 0)) ∧
        ((s.clY c).ready = true → (s.desc c e d).st = .free → (s.descX c e d).engWait = false → ∀ m, ((s.ctx p.val k.val).queue 1).image = m →
          ((s.ctx p.val k.val).queue 1).record = none →
          exec (.stream p k) s = .next (if checkDesc m (s.shape c (bf m 12 6)) = 0 then (s.startCmd r).enterActive c e d 0 (some r) m none
            else (s.startCmd r).complete r (checkDesc m (s.shape c (bf m 12 6))) 0))) ∧
      (s.fetchedCmd p.val k.val 1 0x11 = some r → r.part = p.val → r.ctx = k.val → (s.desc c e d).owner = some (s.identOf r) → (s.descX c e d).engWait = false →
        (((s.desc c e d).st = .parked ∨ ((s.desc c e d).st = .stopped ∧ (s.desc c e d).rewound = true)) → bf r.bits 128 48 % 32 = 0 → bf r.bits 192 48 = 0 →
          exec (.streamRearm p k) s = .next ((s.startCmd r).enterActive c e d 1 (some r) 0 none)) ∧
        ((s.desc c e d).st = .active → exec (.streamRearm p k) s = .next ((s.startCmd r).complete r St.streamBusy 0))) ∧
      (∀ (s : State) (m : BitVec 1536), s.activeCount c e < 8 → (s.cl c).engWait = [] →
        s.enterActive c e d 0 (some r) m none = s.activate c e d r m none ∧ s.enterActive c e d 1 (some r) m none = s.rearm c e d r) ∧
      (∀ (s : State) (m : BitVec 1536), 8 ≤ s.activeCount c e →
        ((s.enterActive c e d 0 (some r) m none).cl c).engWait = (s.cl c).engWait ++
          [{ engine := e, desc := d, cmd := some r, kind := 0, image := m, record := none }])) ∧
  (∀ (s : State) (fn : Fn) (p : Fin 16) (val : Dword) (c e d : Nat), bf val 0 4 = c → bf val 4 2 = e → bf val 6 4 = d →
      s.ownsP fn p.val = true → s.resetting p.val = false → val.toNat.testBit 16 = true →
      (∀ i : CtxId, (s.desc c e d).owner = some i → i.part = p.val → (s.desc c e d).replayable = true → (s.descX c e d).engWait = false →
        (s.descX c e d).record ≠ none → exec (.streamResume fn p val) s = .next ((((s.unlatch fn).updPart p.val (fun y =>
          { y with strCluster := c, strEngine := e, strDesc := d })).updPart p.val (fun y =>
          { y with strGo := false, strResult := 0 })).enterActive c e d 2 none 0 none)) ∧
      ((s.desc c e d).st ≠ .stopped → exec (.streamResume fn p val) s = .next (((s.unlatch fn).updPart p.val (fun y =>
          { y with strCluster := c, strEngine := e, strDesc := d })).updPart p.val (fun y =>
          { y with strGo := false, strResult := St.streamBusy }))))

/-- What a stream engine does on its own (06 R138, R144-R160, 08 R198-R201): a waiting command gets a slot, a hand-over buffer lets its
descriptor begin, a further element is issued on its descriptor's turn (round robin, one element a turn), an element completes, a drained rewind goes on, a stopped descriptor leaves its record. -/
def Obligations.StreamEngineEvents : Prop :=
  ∀ (s : State) (c : Fin 16) (e : Fin 4) (d : Fin 16),
    (∀ (w : EngWait) (r : CmdRef), s.activeCount c.val e.val < 8 → (s.cl c.val).engWait.find? (fun w => w.engine == e.val) = some w →
      w.cmd = some r →
      (w.kind = 0 → exec (.engineSlotGrant c e) s = .next (((s.updCl c.val (fun x => { x with engWait := x.engWait.erase w })).updDescX
        c.val e.val w.desc (fun x => { x with engWait := false })).activate c.val e.val w.desc r w.image w.record)) ∧
      (w.kind = 1 → exec (.engineSlotGrant c e) s = .next (((s.updCl c.val (fun x => { x with engWait := x.engWait.erase w })).updDescX
        c.val e.val w.desc (fun x => { x with engWait := false })).rearm c.val e.val w.desc r))) ∧
    (∀ base len : Nat, (s.desc c.val e.val d.val).st = .active → (s.desc c.val e.val d.val).hoWait = true →
      s.hoBuffer c.val e.val d.val = some (base, len) → ∃ u, exec (.hoRelease c e d) s = .next u ∧
        (u.desc c.val e.val d.val).hoWait = false ∧ (u.desc c.val e.val d.val).dst = base + 2 ^ 48 * len ∧ u.mem = s.mem ∧ u.tiles = s.tiles) ∧
    (∀ (i : CtxId) (elem n : Nat) (rivals : List (Fin 64 × Fin 276)), (s.desc c.val e.val d.val).owner = some i → (s.desc c.val e.val d.val).st = .active →
      (s.desc c.val e.val d.val).hoWait = false → (s.descX c.val e.val d.val).draining = false →
      (s.descX c.val e.val d.val).recordDue = false → (s.desc c.val e.val d.val).inWindow elem = true →
      (s.desc c.val e.val d.val).slotFree = true → s.live i = true → s.carQuiet c.val = false →
      (s.desc c.val e.val d.val).progElem elem = some n → (elem = (s.desc c.val e.val d.val).next → s.turnOf c.val e.val = some d.val) →
      ∀ (x : Desc) (v : Tbl Nat) (info : ElemInfo) (q : State), s.desc c.val e.val d.val = x → (vectorAt (levelsOf x.image) n).1 = v →
      elemInfo x.image x.base v = info → 
        (if elem = x.next then (s.updDesc c.val e.val d.val (fun x => { x with next := elem + 1 })).updCl c.val (fun y =>
          { y with turns := tset y.turns e.val d.val }) else s) = q →
      (info.hi = 0 → exec (.elementTranslated c e d ⟨elem, rivals⟩) s = .next (q.deliver c.val e.val d.val i x elem info (some v) [] rivals)) ∧
      (∀ (s1 : State) (l : List Piece), info.hi ≠ 0 → 0 ≤ info.addr + info.lo → info.addr + info.hi ≤ (2 ^ 48 : Nat) →
        (baseHo x.image).1 = false → q.pieces c.val i (.engine e d) elem (descSlot x.image) false
          (cut4k 6 (info.addr + info.lo).toNat (info.hi - info.lo)) = (s1, .ok l) →
        exec (.elementTranslated c e d ⟨elem, rivals⟩) s = .next (s1.deliver c.val e.val d.val i x elem info (some v) l rivals)) ∧
      (info.hi ≠ 0 → 0 ≤ info.addr + info.lo → info.addr + info.hi ≤ (x.dst / 2 ^ 48 : Nat) → info.addr + info.hi ≤ (2 ^ 48 : Nat) →
        (baseHo x.image).1 = true → exec (.elementTranslated c e d ⟨elem, rivals⟩) s = .next (q.deliver c.val e.val d.val i x elem info (some v)
          [{ host := false, addr := x.dst % 2 ^ 48 + (info.addr + info.lo).toNat, len := info.hi - info.lo, cache := false, va := 0, hua := 0 }] rivals))) ∧
    (∀ (i : CtxId) (elem : Nat) (parts : List (Bool × Nat × List Byte)) (own : List (Nat × Nat)) (rivals : List (Fin 64 × Fin 276)) (s1 : State), (s.desc c.val e.val d.val).owner = some i →
      elem ∈ (s.desc c.val e.val d.val).issued → s.rowsLeft c.val e.val d.val elem = false →
      ((s.descX c.val e.val d.val).writes.filter (fun w => w.elem == elem)).flatMap (·.parts) = parts →
      (parts.filter (fun q => !q.1)).map (fun q => (q.2.1, q.2.2.length)) = own →
      (∀ q ∈ own, s.locked q.1 q.2 true none = false ∧ s1.partPoison q.1 q.2 = false) → s.engineWins c.val e.val own rivals = true →
      s.reachElem c.val e.val d.val i (parts.any (·.1)) (own.map (·.1)) = (s1, 0) →
      (s.descX c.val e.val d.val).draining = false → (s.desc c.val e.val d.val).st = .active →
      exec (.elementComplete c e d ⟨elem, rivals⟩) s = .next ((((s1.updDescX c.val e.val d.val (fun y => { y with
        transit := y.transit.filter (fun t => t.elem != elem), writes := y.writes.filter (fun w => w.elem != elem)
        uses := y.uses.filter (fun u => u.elem != elem) })).engineWon c.val e.val own).performParts i parts).elemDone c.val e.val d.val elem)) ∧
    ((s.descX c.val e.val d.val).draining = true → (s.desc c.val e.val d.val).issued = [] →
      ∃ u, exec (.rewindResume c e d) s = .next u ∧ (u.descX c.val e.val d.val).draining = false ∧
        (u.desc c.val e.val d.val).next = (s.desc c.val e.val d.val).runTile * (s.desc c.val e.val d.val).te ∧ u.mem = s.mem ∧
        u.tiles = s.tiles) ∧
    (∀ i : CtxId, (s.desc c.val e.val d.val).owner = some i → (s.descX c.val e.val d.val).recordDue = true →
      (s.desc c.val e.val d.val).st = .active → (s.desc c.val e.val d.val).issued = [] →
      (s.descX c.val e.val d.val).stopStatus = St.preempted → ∃ u, exec (.resumeRecordWrite c e d) s = .next u ∧
        (u.desc c.val e.val d.val).st = .stopped ∧ (u.desc c.val e.val d.val).lastStatus = St.preempted ∧
        (u.descX c.val e.val d.val).recordDue = false ∧ u.tiles = s.tiles) ∧
    (∀ (s : State) (elem : Nat) (x : Desc), s.desc c.val e.val d.val = x → descSlot x.image = false →
      (List.range x.te).all (fun k => (x.doneEl ++ [elem]).contains (x.runTile * x.te + k)) = true → x.runTile + 1 ≠ x.tiles →
      ((s.elemDone c.val e.val d.val elem).desc c.val e.val d.val).delivered = x.delivered + 1 ∧
      ((s.elemDone c.val e.val d.val elem).desc c.val e.val d.val).doneEl = [])

/-- An entry of a tile's crossbar port at its slice (07 R169, R178-R182, 04 R107): a load takes the bytes its thread sees, a store writes its
bytes and no others, a fence leaves the queue; an access that may not pass, or that loses the slice to a requester nearer after the last
winner, waits. What ECC finds when another agent reads a line is counted, or repaired from the mirror, or the line is lost (07 R173, R178). Frames (07 R176, R186): the owner frees a tagged frame of its partition, at once or when the lock over it ends; a frame of
another partition is refused; a waiting zero-fill takes the frame and completes its translation. -/
def Obligations.SlicesAndFrames : Prop :=
  (∀ (s : State) (t : TileId) (idx : Nat) (o : PortOp), (s.tile (tileKey t)).ctl.portQ[idx]? = some o →
      (mayPerform ((s.tile (tileKey t)).ctl.portQ.take idx) o = false → ∀ ecc rivals, exec (.sliceAccess (some t) idx ecc rivals) s = .next s) ∧
      (∀ (ecc : Ecc) (rivals : List (Fin 276)), o.kind ≠ .fence → xbarWins (s.xbarLast o.dpa) (xbarIndex (tileKey t)) rivals = false →
        exec (.sliceAccess (some t) idx ecc rivals) s = .next s) ∧
      (mayPerform ((s.tile (tileKey t)).ctl.portQ.take idx) o = true → ∀ rivals : List (Fin 276),
        (o.kind = .fence → ∀ ecc, ∃ u, exec (.sliceAccess (some t) idx ecc rivals) s = .next u ∧
          (u.tile (tileKey t)).ctl.portQ = (s.tile (tileKey t)).ctl.portQ.eraseIdx idx ∧ u.mem = s.mem ∧ u.bats = s.bats) ∧
        (xbarWins (s.xbarLast o.dpa) (xbarIndex (tileKey t)) rivals = true → s.portRefuses (taC (tileKey t)) o = none → ∀ th v : Nat, o.kind = .store th v → s.locked o.dpa o.bytes true (some (bKey (taC (tileKey t)) o.bat)) = false →
          s.partPoison o.dpa o.bytes = false → ∃ u, exec (.sliceAccess (some t) idx .clean rivals) s = .next u ∧
            (u.tile (tileKey t)).ctl.portQ = (s.tile (tileKey t)).ctl.portQ.eraseIdx idx ∧
            u.mem.bytes = mwriteBytes s.mem.bytes o.dpa (leBytes o.bytes v) ∧
            (∀ c sl, home o.dpa = .cm c sl → u.xbarLast o.dpa = xbarIndex (tileKey t)) ∧
            (∀ a, Memory.wf s.mem.bytes = true → a < o.dpa ∨ o.dpa + o.bytes ≤ a → mget u.mem.bytes a = mget s.mem.bytes a)) ∧
        (xbarWins (s.xbarLast o.dpa) (xbarIndex (tileKey t)) rivals = true → s.portRefuses (taC (tileKey t)) o = none → ∀ th ln : Nat, o.kind = .load th ln → s.locked o.dpa o.bytes false (some (bKey (taC (tileKey t)) o.bat)) = false →
          s.poisoned o.dpa o.bytes = false → ∃ u, exec (.sliceAccess (some t) idx .clean rivals) s = .next u ∧
            (u.tile (tileKey t)).ctl.portQ = (s.tile (tileKey t)).ctl.portQ.set idx
              { o with done := some (s.loadSees ((s.tile (tileKey t)).ctl.portQ.take idx) o) } ∧ u.mem = s.mem ∧
            (∀ c sl, home o.dpa = .cm c sl → u.xbarLast o.dpa = xbarIndex (tileKey t)) ∧
            (∀ k, k ≠ tileKey t → u.tile k = s.tile k)))) ∧
  (∀ (s : State) (dpa kind ix : Nat) (rivals : List (Fin 276)), exec (.sliceAccess none dpa .clean rivals) s = .next s ∧
      (s.unitAt dpa = some (kind, ix) → ∀ w, hourWindow s.ledger.opSec (tget s.mem.sbe (4096 * kind + ix) []) = w → w.2 = false →
        (kind ≠ 3 → exec (.sliceAccess none dpa .single rivals) s =
          .next ((fun q : State => { q with mem := { q.mem with sbe := tset q.mem.sbe (4096 * kind + ix) w.1 } })
            (s.updChan (if kind = 6 then ix else 192 + ix) (fun x => { x with corrected := satAdd 8 x.corrected 1 })))) ∧
        (kind = 3 → exec (.sliceAccess none dpa .single rivals) s =
          .next ((fun q : State => { q with mem := { q.mem with sbe := tset q.mem.sbe (4096 * kind + ix) w.1 } })
            (s.updSlice (ix / 66) (ix % 66) (fun x => { x with corrected := satAdd 12 x.corrected 1 }))))) ∧
      (s.unitAt dpa = some (kind, ix) → exec (.sliceAccess none dpa .uncorrectable rivals) s = .next
        (if s.mirrored dpa = true then s.confirm kind ix 2 0xBA else (s.declareLost (dpa / 64 * 64) 64).confirm kind ix 2 0x70))) ∧
  (∀ (s : State) (fn : Fn) (p : Fin 16) (val : Dword) (dpa : Nat), bf val 16 27 * 0x10000 = dpa →
      (s.ownsP fn p.val = true → s.resetting p.val = false → (s.part p.val).frameBusy = false → ∀ i : CtxId, s.tag dpa = some i →
        (i.part = p.val → s.frameLocked dpa = false → exec (.frameFree fn p val) s =
          .next (((s.unlatch fn).updPart p.val (fun x => { x with frame := dpa })).untag dpa)) ∧
        (i.part = p.val → s.frameLocked dpa = true → exec (.frameFree fn p val) s =
          .next (((s.unlatch fn).updPart p.val (fun x => { x with frame := dpa })).updPart p.val (fun x => { x with frameBusy := true }))) ∧
        (i.part ≠ p.val → exec (.frameFree fn p val) s = .next (((s.unlatch fn).updPart p.val (fun x =>
          { x with frame := dpa })).refuseP fn p.val (offP p.val 0x20) 3 val.toNat))) ∧
      (∀ i : CtxId, (s.part p.val).frameBusy = true → s.frameLocked (s.part p.val).frame = false → s.tag (s.part p.val).frame = some i →
        i.part = p.val → ∃ u, exec (.frameRelease p) s = .next u ∧ (u.part p.val).frameBusy = false ∧
          u.tag (s.part p.val).frame = none ∧ u.mem.bytes = s.mem.bytes ∧ u.tiles = s.tiles) ∧
      (∀ (c : Fin 16) (w : Walk) (a leaf : Nat), (s.cl c.val).walks.find? (fun x => x.id == w.id) = some w → w.frame = some a →
        w.result = some leaf → s.live w.ctx = true → (s.ctx w.ctx.part w.ctx.ctx).xlat.enable = true → s.tagCheck a w.ctx = .fill →
        exec (.zeroFill c w.id) s = .next (((s.takeFrame a w.ctx).endWalk c.val w.id).tlbAdd c.val w.ctx w.va w.level leaf)))

/-- Errors of memory (07 R167, R171, R174, R177, R178, 15 R364): a fill installs a sector that is not lost; check bytes that are not the
CRC of data and address make a granule's read retry, and the retry matches and is counted, or the granule is lost and its channel has a
confirmed error; a failed slice is muffled, and by its role and the spares left the cache lines of its logical slice go, its mirror copy is
rebuilt, its partner serves alone or its data is lost; a rebuilt mirror is whole; the walk for lost data reports it; a refresh changes no
data. -/
def Obligations.MemoryEvents : Prop :=
  ∀ (s : State) (c : Fin 16) (dpa : Nat),
    (dpa ∈ (s.cl c.val).fills → s.cacheSlices c.val ≠ [] → s.poisoned dpa 32 = false → ∃ u, exec (.streamCacheFill c dpa .clean) s = .next u ∧
      (u.cl c.val).fills = (s.cl c.val).fills.erase dpa ∧ (u.cl c.val).misses = wrapAdd 32 (s.cl c.val).misses 1 ∧
      (u.cl c.val).cache = install (s.cacheSlices c.val) (s.cl c.val).cacheStamp dpa (s.cl c.val).cache ∧ u.mem = s.mem ∧ u.tiles = s.tiles) ∧
    (dpa ∈ (s.cl c.val).fills → s.poisoned dpa 32 = true → ∃ u, exec (.streamCacheFill c dpa .clean) s = .next u ∧
      (u.cl c.val).fills = (s.cl c.val).fills.erase dpa ∧ (u.cl c.val).cache = (s.cl c.val).cache) ∧
    (∀ (data : BitVec 256) (chk : BitVec 16), hasCheck (dpa / 32 * 32) = true →
      chk ≠ crc16 (leBytes 32 data.toNat ++ leBytes 5 (field (dpa / 32 * 32) 5 38)) → 16 * (dpa / 32 * 32) + c.val ∉ s.mem.mismatch →
      ∃ u, exec (.checkByteMismatch c ⟨dpa, data, chk⟩) s = .next u ∧
        u.mem.mismatch = s.mem.mismatch ++ [16 * (dpa / 32 * 32) + c.val] ∧ u.mem.bytes = s.mem.bytes ∧ u.tiles = s.tiles) ∧
    (∀ (kind ix : Nat) (data : BitVec 256) (chk : BitVec 16), 16 * (dpa / 32 * 32) + c.val ∈ s.mem.mismatch →
      s.unitAt (dpa / 32 * 32) = some (kind, ix) →
      (chk = crc16 (leBytes 32 data.toNat ++ leBytes 5 (field (dpa / 32 * 32) 5 38)) →
        exec (.checkByteRetry c dpa ⟨data, chk⟩) s = .next ({ s with mem := { s.mem with
          mismatch := s.mem.mismatch.erase (16 * (dpa / 32 * 32) + c.val) } }.updChan
          (if kind = 6 then ix else 192 + ix) (fun x => { x with mismatch := satAdd 8 x.mismatch 1 }))) ∧
      (chk ≠ crc16 (leBytes 32 data.toNat ++ leBytes 5 (field (dpa / 32 * 32) 5 38)) →
        exec (.checkByteRetry c dpa ⟨data, chk⟩) s = .next (({ s with mem := { s.mem with
          mismatch := s.mem.mismatch.erase (16 * (dpa / 32 * 32) + c.val) } }.declareLost (dpa / 32 * 32) 32).confirm kind ix 2 0x70))) ∧
    (∀ (phys : Nat) (x : Slice) (gone : State → State) (spare : Nat → Nat → State → State), phys < 66 → s.slice c.val phys = x →
      (∀ s, gone s = s.updSlice c.val phys (fun y => { y with st := 3, logical := 0x7F, mirror := false, secondary := false })) →
      (∀ sp st s, spare sp st s = (gone s).updSlice c.val sp (fun y => { y with
        logical := x.logical, mode := x.mode, mirror := x.mirror, partner := x.partner, secondary := x.secondary, st })) →
      (x.st = 1 → exec (.sliceFailure c phys) s = .next (gone s)) ∧
      (x.st ≠ 1 → x.st ≠ 3 → x.mode = 1 → ∃ u, exec (.sliceFailure c phys) s = .next u ∧ (u.slice c.val phys).st = 3 ∧
        (u.cl c.val).cache = (s.cl c.val).cache.filter (fun l => l.set / 256 != x.logical) ∧ u.mem = s.mem ∧
        (∀ sp, s.spareOf c.val = some sp → (u.slice c.val sp).st = 0 ∧ (u.slice c.val sp).logical = x.logical ∧ (u.slice c.val sp).mode = 1)) ∧
      (x.st ≠ 1 → x.st ≠ 3 → x.mode ≠ 1 → x.mirror = true →
        (∀ ph, (List.range 66).find? (fun ph => (s.slice c.val ph).logical == x.partner && (s.slice c.val ph).mirror && (s.slice c.val ph).st != 3) =
          some ph → (s.slice c.val ph).st ≠ 2 →
          (∀ sp, s.spareOf c.val = some sp → exec (.sliceFailure c phys) s =
            .next ((spare sp 2 s).updCl c.val (fun y => { y with mirrorBusy := y.mirrorBusy ++ [sp] }))) ∧
          (s.spareOf c.val = none → exec (.sliceFailure c phys) s = .next (gone (s.updSlice c.val ph (fun y => { y with
            mirror := false, secondary := false, logical := if y.secondary then x.logical else y.logical }))))) ∧
        (∀ ph, (List.range 66).find? (fun ph => (s.slice c.val ph).logical == x.partner && (s.slice c.val ph).mirror && (s.slice c.val ph).st != 3) =
          some ph → (s.slice c.val ph).st = 2 → exec (.sliceFailure c phys) s = .next (gone (s.declareLost
            (0x40000000000 + c.val * 0x8000000 + (if x.secondary then x.partner else x.logical) * 0x100000) 0x100000)))) ∧
      (∀ q, x.st ≠ 1 → x.st ≠ 3 → x.mode ≠ 1 → x.mirror = false →
        s.declareLost (0x40000000000 + c.val * 0x8000000 + x.logical * 0x100000) 0x100000 = q → exec (.sliceFailure c phys) s =
          .next (match q.spareOf c.val with
            | some sp => spare sp 0 q
            | none => gone q))) ∧
    (∀ phys : Nat, phys ∈ (s.cl c.val).mirrorBusy → (s.slice c.val phys).st = 2 → ∃ u, exec (.mirrorRebuildComplete c phys) s = .next u ∧
      (u.slice c.val phys).st = 0 ∧ (u.cl c.val).mirrorBusy = (s.cl c.val).mirrorBusy.erase phys ∧ u.mem.bytes = s.mem.bytes) ∧
    (∀ (p : Fin 16) (k : Fin 64) (n a len : Nat) (w : Nat × Nat), s.mem.frameWait.find? (fun e => e.1 == kKey p.val k.val) = some w → w.2 = n → s.mem.lostDpas[n]? = some (a, len) →
      ∀ (q : State) (l : List (Nat × Nat × Nat)), { s with mem := { s.mem with frameWait := s.mem.frameWait.erase w } } = q →
      q.leavesTo p.val a len 3 1 ((s.ctx p.val k.val).xlat.root * 2 ^ 21) 0 = l →
      s.compDown 37 = false → exec (.residentLostWalk p k) s = .next (if l = [] then q.lostRecords (s.ident p.val k.val) true 1 [(a, 0, len)]
        else q.lostRecords (s.ident p.val k.val) false l.length l)) ∧
    exec (.refresh dpa) s = .next s

/-- Translations of agents (08 R187-R192, R203): a request begins a walk from the context's root, or is served from the cache; each read of the
walk goes on to the next table, to the leaf, or fails; with the context's translation disabled it fails; a walk an invalidation dropped begins
again once that is done; the leaf is cached, or its frame awaits its zero-fill. Invalidation (08 R191, R203, R205): the
owner's write names a range of a context and makes the walks in it begin again, or, while GO is 1, sets the fields only; once no lock and no element uses the range, the cached
translations in it are gone and GO is 0. The agents of queues use the cache of the lowest cluster by choice of the model (log entry 22). -/
def Obligations.TranslationWalksAndInvalidation : Prop :=
  (∀ (s : State) (c : Fin 16) (p : Fin 16) (k : Fin 64) (agent : XAgent) (va : Nat) (write : Bool),
      ((s.ctx p.val k.val).st ≠ 0 → (s.ctx p.val k.val).xlat.faulted = false → va < 2 ^ 48 → (s.ctx p.val k.val).xlat.enable = true →
        ∀ w : Walk, w = { id := (s.cl c.val).nextWalk, agent, ctx := s.ident p.val k.val, va, write, level := 1
                          table := (s.ctx p.val k.val).xlat.root * 2 ^ 21, dropped := false, frame := none, result := none } →
        (s.tlbLook c.val (s.ident p.val k.val) va = none → exec (.translationRequest c agent p k va write) s = .next (s.updCl c.val (fun y =>
          { y with nextWalk := y.nextWalk + 1, walks := y.walks ++ [w] }))) ∧
        (∀ t : TlbEntry, s.tlbLook c.val (s.ident p.val k.val) va = some t → exec (.translationRequest c agent p k va write) s =
          .next ((s.updCl c.val (fun y => { y with nextWalk := y.nextWalk + 1, walks := y.walks ++ [w] })).leafFound c.val
            { w with level := levelOf t.size } t.leaf.toNat))) ∧
      (∀ w : Walk, (s.cl c.val).walks.find? (fun x => x.id == w.id) = some w → w.frame = none → s.live w.ctx = true →
        ((s.ctx w.ctx.part w.ctx.ctx).xlat.enable = false →
          exec (.tableRead c w.id) s = .next ((s.endWalk c.val w.id).xFail c.val w.agent w.ctx 0x65 w.va)) ∧
        ((s.ctx w.ctx.part w.ctx.ctx).xlat.enable = true →
        (w.dropped = true → s.invalidating w = false → exec (.tableRead c w.id) s = .next (s.updWalk c.val w.id (fun y =>
          { y with dropped := false, level := 1, table := (s.ctx w.ctx.part w.ctx.ctx).xlat.root * 2 ^ 21 }))) ∧
        (w.dropped = false → s.tableOk w.ctx.part w.table = false →
          exec (.tableRead c w.id) s = .next ((s.endWalk c.val w.id).xFail c.val w.agent w.ctx 0x65 w.va)) ∧
        (∀ e : Nat, w.dropped = false → s.tableOk w.ctx.part w.table = true → s.poisoned (w.table + 8 * levelIndex w.level w.va) 8 = false →
          s.load (w.table + 8 * levelIndex w.level w.va) 8 = e →
          (e.testBit 0 = true → e.testBit 1 = true → exec (.tableRead c w.id) s = .next (s.leafFound c.val w e)) ∧
          (e.testBit 0 = false → exec (.tableRead c w.id) s = .next ((s.endWalk c.val w.id).xFail c.val w.agent w.ctx 0x65 w.va)) ∧
          (e.testBit 0 = true → e.testBit 1 = false → w.level ≠ 3 → field e 2 6 = 0 → e / 2 ^ 43 = 0 →
            (w.level = 1 → field e 8 4 = 0) → exec (.tableRead c w.id) s =
            .next (s.updWalk c.val w.id (fun y => { y with level := y.level + 1, table := e / 256 * 256 }))))) ∧
        (∀ leaf dpa : Nat, ∀ cache : Bool, leafCheck leaf w.level w.va w.write = .dev dpa cache → s.dpaStatus w.ctx.part dpa = none →
          (s.tagCheck dpa w.ctx = .admits → s.leafFound c.val w leaf = (s.endWalk c.val w.id).tlbAdd c.val w.ctx w.va w.level leaf) ∧
          (s.tagCheck dpa w.ctx = .fill → s.leafFound c.val w leaf = s.updWalk c.val w.id (fun y => { y with frame := some dpa, result := some leaf })) ∧
          (s.tagCheck dpa w.ctx = .owned → s.leafFound c.val w leaf = (s.endWalk c.val w.id).xFail c.val w.agent w.ctx 0x71 w.va)) ∧
        (∀ leaf hua bits : Nat, ∀ wr : Bool, leafCheck leaf w.level w.va w.write = .host hua wr bits →
          s.leafFound c.val w leaf = (s.endWalk c.val w.id).tlbAdd c.val w.ctx w.va w.level leaf))) ∧
  (∀ (s : State) (fn : Fn) (p : Fin 16) (val : Dword),
      (s.ownsP fn p.val = true → s.resetting p.val = false → (s.part p.val).invGo = false →
        ∃ u, exec (.xlatInvalidate fn p val) s = .next u ∧ (u.part p.val).invGo = val.toNat.testBit 0 ∧ (u.part p.val).invCtx = bf val 1 6 ∧
          (val.toNat.testBit 0 = true → (u.part p.val).invNow = (bf val 1 6, invRange (bf val 7 2) (bf val 16 32 * 65536))) ∧ (u.part p.val).invSize = bf val 7 2 ∧ (u.part p.val).invVa = bf val 16 32 * 65536 ∧ u.mem = s.mem ∧ u.tiles = s.tiles ∧
          (val.toNat.testBit 0 = true → ∀ (c : Nat) (w : Walk), w ∈ (u.cl c).walks → w.ctx.part = p.val → w.ctx.ctx = bf val 1 6 →
            overlaps w.va 1 (invRange (bf val 7 2) (bf val 16 32 * 65536)).1 (invRange (bf val 7 2) (bf val 16 32 * 65536)).2 = true →
            w.dropped = true)) ∧
      (s.ownsP fn p.val = true → s.resetting p.val = false → (s.part p.val).invGo = true → exec (.xlatInvalidate fn p val) s = .next
        ((s.unlatch fn).updPart p.val (fun x => { x with invCtx := bf val 1 6, invSize := bf val 7 2, invVa := bf val 16 32 * 65536 }))) ∧
      (∀ k a n : Nat, (s.part p.val).invNow = (k, a, n) → (s.part p.val).invGo = true →
        s.regionHeld p.val k a n = false → s.elemsUse p.val k a n = false →
        ∃ u, exec (.xlatInvalidateComplete p) s = .next u ∧ (u.part p.val).invGo = false ∧ u.mem = s.mem ∧ u.tiles = s.tiles ∧
          ∀ (c : Nat) (t : TlbEntry), t ∈ (u.cl c).tlb → t.ctx.part = p.val → t.ctx.ctx = k →
            overlaps t.va (2 ^ t.size) a n = false))

/-- Host pages (08 R194-R198): a Translation Completion installs its page, at the device page's size if it is larger, under the PASID of its
request, or is a host fault: the engine's descriptor is to stop, a queue stalls and asks for the page. A waiting page request takes a free
index and is sent; its response drops the page and resumes its agent, a failure or 2 s without one fail it. An ATS invalidation, of at most
32, is answered once nothing uses its pages. That a response carries the PASID of its request, and that a 33rd invalidation is not taken, is
the model's choice (log entry 105). -/
def Obligations.HostTranslations : Prop :=
  ∀ (s : State) (port : Fin 4) (idx : Nat),
    (∀ r : HostReq, (s.port port.val).reqs.find? (fun r => !r.prg && r.idx == idx) = some r → r.stale = false → s.live r.ctx = true →
      (∀ (hpa k : Nat) (size : Fin 19) (w : Bool), (r.write = true → w = true) → min (12 + size.val) r.page = k →
        ∃ u, exec (.atsTranslationCompletion port idx (.translated hpa size w)) s = .next u ∧
        { ctx := r.ctx, pasid := r.pasid, va := r.hua / 2 ^ k * 2 ^ k, size := k, write := w
          hpa := hpa + (r.hua / 2 ^ k * 2 ^ k - r.hua / 2 ^ (12 + size.val) * 2 ^ (12 + size.val)) } ∈
          (u.port port.val).atc ∧ (u.port port.val).reqs = (s.port port.val).reqs.erase r ∧ u.mem = s.mem) ∧
      exec (.atsTranslationCompletion port idx .fault) s = .next ((s.dropReq port.val r).hostFault r false) ∧
      exec (.translationCompletionTimeout port idx) s = .next ((s.dropReq port.val r).hostFault r true)) ∧
    (∀ (s : State) (r : HostReq) (late : Bool),
      (∀ (e : Fin 4) (d : Fin 16), r.agent = .engine e d → (s.desc r.cluster e.val d.val).owner = some r.ctx →
        (s.desc r.cluster e.val d.val).st = .active → (s.descX r.cluster e.val d.val).stopStatus = 0 →
        s.hostFault r late = s.updDescX r.cluster e.val d.val (fun y => { y with
          faulted := y.faulted ++ [{ elem := r.elem, va := r.va, hua := r.hua, write := r.write, late }], recordDue := true })) ∧
      (∀ x : Fin 4, r.agent = .queue x →
        s.hostFault r true = (s.updQueue r.ctx.part r.ctx.ctx x.val (fun q => { q with stalled := some 0x6B })).updCtx r.ctx.part r.ctx.ctx
          (fun c => { c with qstop := 0x6B }) ∧
        s.hostFault r false = (s.updQueue r.ctx.part r.ctx.ctx x.val (fun q => { q with stalled := some 0x67 })).sendPrg r.ctx r.cluster
          r.agent r.elem r.va r.hua r.write)) ∧
    (∀ (n : Nat) (r : HostReq), (s.port port.val).prgFree = some n → (s.port port.val).reqs.find? (fun r => r.prg && r.waiting) = some r →
      r.stale = false → s.live r.ctx = true → ∃ u, exec (.prgIndexGrant port) s = .next u ∧
        { r with idx := n, waiting := false } ∈ (u.port port.val).reqs ∧
        u.out = .pageRequest port.val n (r.hua / 4096 * 4096) r.pasid (!r.write) r.write true :: s.out ∧ u.mem = s.mem) ∧
    (∀ r : HostReq, (s.port port.val).reqs.find? (fun q => q.prg && !q.waiting && q.idx == idx && q.pasid == r.pasid) = some r →
      r.stale = false → s.live r.ctx = true →
      (∀ x : Fin 4, r.agent = .queue x → exec (.prgResponse port idx ⟨r.pasid, .success⟩) s = .next (((s.dropReq port.val r).atcDrop r.ctx
        r.hua).updQueue r.ctx.part r.ctx.ctx x.val (fun q => { q with stalled := none }))) ∧
      (∀ (e : Fin 4) (d : Fin 16) (page : Nat), r.agent = .engine e d → (s.desc r.cluster e.val d.val).owner = some r.ctx →
        (s.desc r.cluster e.val d.val).st = .stopped → (s.desc r.cluster e.val d.val).lastStatus = 0x67 →
        (s.descX r.cluster e.val d.val).engWait = false → 2 * (r.va / 4096) + b2n r.write = page →
        exec (.prgResponse port idx ⟨r.pasid, .success⟩) s = .next ((((s.dropReq port.val r).atcDrop
          r.ctx r.hua).updDescX r.cluster e.val d.val (fun y => { y with
            triesVa := page, triesN := if y.triesVa == page then y.triesN + 1 else 1 })).enterActive r.cluster e.val d.val 2 none 0 none)) ∧
      (∀ code : PrgCode, code ≠ .success → exec (.prgResponse port idx ⟨r.pasid, code⟩) s = .next ((s.dropReq port.val r).prgFailed r 0x68))) ∧
    (∀ r : HostReq, (s.port port.val).reqs.find? (fun q => q.prg && !q.waiting && q.idx == idx) = some r → r.stale = false → s.live r.ctx = true →
      exec (.prgTimeout port idx) s = .next ((s.dropReq port.val r).prgFailed r 0x6B)) ∧
    (∀ (s : State) (r : HostReq) (status : Nat),
      (∀ (e : Fin 4) (d : Fin 16), r.agent = .engine e d → (s.desc r.cluster e.val d.val).owner = some r.ctx →
        (s.desc r.cluster e.val d.val).st = .stopped → (s.desc r.cluster e.val d.val).lastStatus = 0x67 →
        ((s.prgFailed r status).desc r.cluster e.val d.val).lastStatus = status ∧ (s.prgFailed r status).mem = s.mem) ∧
      (∀ x : Fin 4, r.agent = .queue x → s.prgFailed r status = (s.updQueue r.ctx.part r.ctx.ctx x.val (fun q =>
        { q with stalled := some status })).updCtx r.ctx.part r.ctx.ctx (fun c => { c with qstop := status }))) ∧
    (∀ (pasid : Option Nat) (va len : Nat), (s.port port.val).invals.length < 32 → ∃ u, exec (.atsInvalidateRequest port pasid va len) s = .next u ∧
      (u.port port.val).invals = (s.port port.val).invals ++ [(pasid, va, len)] ∧ u.mem = s.mem ∧ u.tiles = s.tiles) ∧
    (∀ (pasid : Option Nat) (va len : Nat), (s.port port.val).invals[idx]? = some (pasid, va, len) → s.hostPagesUsed port.val pasid va len = false →
      ∃ u, exec (.atsInvalidateCompletion port idx) s = .next u ∧ (u.port port.val).invals = (s.port port.val).invals.eraseIdx idx ∧
        (∀ a ∈ (u.port port.val).atc, a.pasid = pasid → overlaps a.va (2 ^ a.size) va len = false) ∧
        u.out = .atsDone port.val pasid va :: s.out ∧ u.mem = s.mem)

/-- The message instructions of a tile (09 R209-R217, R220): SEND answers whether its channel takes the descriptor, RECV takes the head of its
queue, or, with none, marks LATE_DATA for the section's abort, QCOUNT counts the visible entries, CPOP pops a completion entry or zeros, CQARM arms an idle combining queue. When the data of a SEND
is read is the model's choice (log entry 15). -/
def Obligations.MessageInstructions : Prop :=
  ∀ (s : State) (t : TileId) (th : Fin 4) (b cy : Nat) (i : CtxId), s.canIssue (tileKey t) th.val = some (b, cy) →
    (s.bat (taC (tileKey t)) b).owner = some i →
    (∀ (chan : Fin 16) (sB : Fin 32), 0 < sB.val → sB.val ≤ 24 →
      ((s.channel (tileKey t) chan.val).takes i = false → ∃ u, exec (.send t th chan sB) s = .next u ∧
        ((u.tile (tileKey t)).thread th.val).accept = false ∧ u.msg = s.msg ∧ u.mesh = s.mesh ∧ u.mem = s.mem) ∧
      (∀ p : Nat, (s.channel (tileKey t) chan.val).takes i = true → s.regs8 (tileKey t) th.val sB.val cy = p → dKind p = 0 →
        exec (.send t th chan sB) s = .next ((((s.sendOn (tileKey t) chan.val i p []).updThread (tileKey t) th.val (fun y =>
          { y with accept := true })).issueOnly (tileKey t) th.val cy).drew 6)) ∧
      (∀ (p : Nat) (l : List (Nat × Nat)), (s.channel (tileKey t) chan.val).takes i = true → s.regs8 (tileKey t) th.val sB.val cy = p →
        sendOk p (s.channel (tileKey t) chan.val).destCq = true → dKind p = 1 ∨ dKind p = 2 →
        regionPieces (s.bat (taC (tileKey t)) b).regions 18 (dAddr p) (dLen p) = some l → (∀ q ∈ l, s.poisoned q.1 q.2 = false) →
        exec (.send t th chan sB) s = .next ((((s.sendOn (tileKey t) chan.val i p (l.flatMap (fun q =>
          s.pieceSeen (s.tile (tileKey t)).ctl.portQ q.1 q.2))).updThread (tileKey t) th.val (fun y =>
          { y with accept := true })).issueOnly (tileKey t) th.val cy).drew 6))) ∧
    (∀ (q : Fin 16) (sB : Fin 32) (e : RxEntry) (rest : List RxEntry), sB.val ≤ 24 → (s.rxq (tileKey t) q.val).entries = e :: rest →
      (s.rxq (tileKey t) q.val).ctx = some i → exec (.recv t th q sB) s = .next (((((s.updRxq (tileKey t) q.val (fun z =>
        { z with entries := rest })).returnEntry (tileKey t) (some i) e St.posted).updThread (tileKey t) th.val (fun z =>
        z.setRegs8 sB.val e.data cy)).issueOnly (tileKey t) th.val cy))) ∧
    (∀ (q : Fin 16) (sB : Fin 32), sB.val ≤ 24 → (s.rxq (tileKey t) q.val).entries = [] → exec (.recv t th q sB) s =
      .next ((s.issueOnly (tileKey t) th.val cy).faultOn (tileKey t) b [St.lateData] (tileDetail th.val 0 0 0) 0)) ∧
    (∀ (q : Fin 16) (sD : Fin 32), exec (.qcount t th q sD) s = .next (s.issueReg (tileKey t) th.val cy sD.val (BitVec.ofNat 32
      (if (s.rxq (tileKey t) q.val).ctx = some i then (s.rxq (tileKey t) q.val).entries.length else 0)))) ∧
    (∀ sB : Fin 32, sB.val ≤ 24 →
      (tget s.msg.cqs (tileKey t) [] = [] → exec (.cpop t th sB) s = .next ((s.updThread (tileKey t) th.val (fun z =>
        z.setRegs8 sB.val 0 cy)).issueOnly (tileKey t) th.val cy)) ∧
      (∀ (e : Nat) (rest : List Nat), tget s.msg.cqs (tileKey t) [] = e :: rest → ∃ u, exec (.cpop t th sB) s = .next u ∧
        tget u.msg.cqs (tileKey t) [] = rest ∧ (∀ k, k ≠ tileKey t → tget u.msg.cqs k [] = tget s.msg.cqs k []) ∧ u.mem = s.mem ∧
        ((u.tile (tileKey t)).thread th.val).lastIssue = some cy)) ∧
    (∀ q : Fin 32, (s.comb (taC (tileKey t)) q.val).st = 1 → (s.comb (taC (tileKey t)) q.val).ctx = some i →
      (s.comb (taC (tileKey t)) q.val).pending = false → ∃ u, exec (.cqarm t th q) s = .next u ∧
        (u.comb (taC (tileKey t)) q.val).st = 2 ∧ (u.comb (taC (tileKey t)) q.val).count = 0 ∧ u.mem = s.mem)

/-- The operations of CLU_MSG_CTL (09 R207, R208, R218-R220, R229): an owner's write with GO performs the named operation and shows its RESULT;
each operation needs its queue or channel open, or not open, and shows why it is refused. -/
def Obligations.MessageControl : Prop :=
  (∀ (s s1 : State) (fn : Fn) (c : Fin 16) (val : Dword) (n res : Nat), s.ownsC fn c.val = true → s.resettingC c.val = false → n < 8 →
    (s.unlatch fn).msgPerform c.val (mcWith n val) = (s1, res) →
    ∀ u, u = s1.updClX c.val (fun x => { x with msgCtl := BitVec.ofNat 64 (bf (mcWith n val) 1 51 * 2 + res * 2 ^ 56) }) →
    (n = 0 → exec (.openQueue fn c val) s = .next u) ∧ (n = 1 → exec (.closeQueue fn c val) s = .next u) ∧
    (n = 2 → exec (.flushQueue fn c val) s = .next u) ∧ (n = 3 → exec (.openChannel fn c val) s = .next u) ∧
    (n = 4 → exec (.closeChannel fn c val) s = .next u) ∧ (n = 5 → exec (.openCombiningQueue fn c val) s = .next u) ∧
    (n = 6 → exec (.closeCombiningQueue fn c val) s = .next u) ∧ (n = 7 → exec (.armCombiningQueue fn c val) s = .next u)) ∧
  (∀ (v : Dword) (n : Nat), n < 8 → mcOp (mcWith n v) = n ∧ (mcWith n v).toNat.testBit 0 = true ∧ mcTaddr (mcWith n v) = mcTaddr v ∧
    mcIndex (mcWith n v) = mcIndex v) ∧
  (∀ (s : State) (c p ta n : Nat) (v : Dword), s.partOf c = some p → mcTaddr v = ta → mcIndex v = n →
    s.mcReserved c (s.part p).strict v = false →
    (mcOp v = 0 → s.live (s.ident p (mcContext v)) = true → (s.rxq ta n).opened = false → s.msgPerform c v = (s.updRxq ta n (fun x => { x with
      opened := true, ctx := some (s.ident p (mcContext v)), gen := wrapAdd 8 x.gen 1, entries := [], parts := [], ends := []
      reserved := 0, windows := [], markers := [], received := 0, empty := 0 }), 0)) ∧
    (mcOp v = 0 → s.live (s.ident p (mcContext v)) = true → (s.rxq ta n).opened = true → s.msgPerform c v = (s, St.queueOpen)) ∧
    (mcOp v = 1 → (s.rxq ta n).opened = true → s.msgPerform c v = (s.closeRx ta n, 0)) ∧
    (mcOp v = 2 → (s.rxq ta n).opened = true → s.msgPerform c v = (s.flushRx ta n, 0)) ∧
    (mcOp v = 3 → s.live (s.ident p (mcContext v)) = true → (s.channel ta n).opened = false →
      s.msgPerform c v = s.openChan ta n (s.ident p (mcContext v)) v) ∧
    (mcOp v = 4 → (s.channel ta n).opened = true → s.msgPerform c v = (s.closeChan ta n, 0)) ∧
    (mcOp v = 5 → s.live (s.ident p (mcContext v)) = true → (s.comb c n).st = 0 →
      s.msgPerform c v = s.openComb c n (s.ident p (mcContext v)) (s.part p).strict) ∧
    (mcOp v = 6 → (s.comb c n).st ≠ 0 → s.msgPerform c v = (s.closeComb c n, 0)) ∧
    (mcOp v = 7 → (s.comb c n).st = 1 → (s.comb c n).pending = false → (s.msgPerform c v).2 = 0 ∧
      ((s.msgPerform c v).1.comb c n).st = 2)) ∧
  (∀ (s : State) (c p ta n : Nat) (v : Dword), s.partOf c = some p → mcTaddr v = ta → mcIndex v = n →
    (s.mcReserved c (s.part p).strict v = true → s.msgPerform c v = (s, St.reservedNonzero)) ∧
    (s.mcReserved c (s.part p).strict v = false →
      (mcOp v = 0 ∨ mcOp v = 3 ∨ mcOp v = 5 → s.live (s.ident p (mcContext v)) = false → s.msgPerform c v = (s, St.contextState)) ∧
      (mcOp v = 3 → s.live (s.ident p (mcContext v)) = true → (s.channel ta n).opened = true → s.msgPerform c v = (s, St.queueOpen)) ∧
      (mcOp v = 5 → s.live (s.ident p (mcContext v)) = true → (s.comb c n).st ≠ 0 → s.msgPerform c v = (s, St.queueOpen)) ∧
      (mcOp v = 1 ∨ mcOp v = 2 → (s.rxq ta n).opened = false → s.msgPerform c v = (s, St.readerGone)) ∧
      (mcOp v = 4 → (s.channel ta n).opened = false → s.msgPerform c v = (s, St.readerGone)) ∧
      (mcOp v = 6 ∨ mcOp v = 7 → (s.comb c n).st = 0 → s.msgPerform c v = (s, St.readerGone)))) ∧
  (∀ (s : State) (ta n : Nat) (i : CtxId) (v : Dword), mcDestCq v = false → (s.rxq (mcDest v) (mcDestQ v)).opened = true →
    (s.rxq (mcDest v) (mcDestQ v)).ctx = some i → s.rxTaken (mcDest v) (mcDestQ v) + mcWindow v ≤ 64 → ∃ u, s.openChan ta n i v = (u, 0) ∧
      (u.channel ta n).opened = true ∧ (u.channel ta n).ctx = some i ∧ (u.channel ta n).dest = mcDest v ∧ (u.channel ta n).window = mcWindow v ∧
      (u.channel ta n).seq = 0 ∧ (u.channel ta n).inFlight = [] ∧
      (u.rxq (mcDest v) (mcDestQ v)).reserved = (s.rxq (mcDest v) (mcDestQ v)).reserved + mcWindow v) ∧
  (∀ (s : State) (ta n : Nat), ((s.closeChan ta n).channel ta n).opened = false ∧ ((s.closeChan ta n).channel ta n).inFlight = []) ∧
  (∀ (s : State) (ta q : Nat), ((s.closeRx ta q).rxq ta q).opened = false ∧ ((s.closeRx ta q).rxq ta q).entries = [])

/-- Descriptors at their destination (09 R212-R222, 10 R232): a MSG joins its queue, each packet of a PUT writes its part of the data and the
PUT is placed after all of it, an acknowledgement frees its slot or makes a completion entry, a contribution whose packets are here is staged
or added, strict summation ends the round; a descriptor turned away goes back with its status. -/
def Obligations.DescriptorArrivals : Prop :=
  ∀ (s : State) (id : Nat) (p : Packet) (i : CtxId) (q : CombQueue), s.comb p.node (dDestQ p.payload) = q →
    (s.arrivedDesc id 1 = some p →
      (dKind p.payload ≠ 2 → ∀ st, s.rxRefuses p = some st → exec (.descriptorArrival id) s = .next (s.refuseGroup p st)) ∧
      (dKind p.payload = 0 → s.rxRefuses p = none → p.ctx = some i →
        (dSys p.payload = true → exec (.descriptorArrival id) s = .next ((s.dropPacket id).updRxq (dDest p.payload) (dDestQ p.payload)
          (fun x => { x with entries := x.entries ++ [{ data := descOnly p.payload, inc := p.back, first := true }]
                             received := wrapAdd 32 x.received 1 }))) ∧
        (dSys p.payload = false → exec (.descriptorArrival id) s = .next (((s.dropPacket id).updRxq (dDest p.payload) (dDestQ p.payload)
          (fun x => { x.know (chanKey p.payload p.back) (dSeq p.payload) false (!dMore p.payload) with
            parts := x.parts ++ [{ data := descOnly p.payload, inc := p.back, first := false }] })).settle (dDest p.payload)
          (dDestQ p.payload) (chanKey p.payload p.back)
          ((s.rxq (dDest p.payload) (dDestQ p.payload)).itemLimit (chanKey p.payload p.back))))) ∧
      (dKind p.payload = 1 → s.rxRefuses p = none → p.ctx = some i →
        (∀ (s1 : State) (st : Nat), s.putPieces (taC (dDest p.payload)) i 4 (field (dArg p.payload) 0 48 + p.off) (min 2048 (dLen p.payload - p.off)) =
          (s1, .error st) → st = St.sourceTier → exec (.descriptorArrival id) s =
            .next ((if s1.firstPart p = true then s1.putKnown p else s1).refuseGroup p st)) ∧
        (∀ (s1 : State) (l : List (Nat × Nat)), s.putPieces (taC (dDest p.payload)) i 4 (field (dArg p.payload) 0 48 + p.off)
            (min 2048 (dLen p.payload - p.off)) = (s1, .ok l) →
          ((∃ e ∈ l, s1.locked e.1 e.2 true none = true) → exec (.descriptorArrival id) s = .next s1) ∧
          (∀ s2 s3 : State, (∀ e ∈ l, s1.locked e.1 e.2 true none = false) → s1.reachAll (taC (dDest p.payload)) i 1 (dSrc p.payload) (l.map (·.1)) =
            (s2, 0) → (∀ e ∈ l, s2.partPoison e.1 e.2 = false) → s2.writePieces l (leBytes (min 2048 (dLen p.payload - p.off)) (dData p.payload)) = s3 →
            exec (.descriptorArrival id) s = .next ((if s3.firstPart p = true then s3.putKnown p else s3).setPacket p.id (fun y =>
              { y with kind := 3, fault := 0 }))))) ∧
      (dKind p.payload = 2 →
        (∀ st, s.combRefuses p q = some st → st ≠ St.combineIdle → st ≠ St.combineRange → exec (.combine id) s = .next (s.refuseGroup p st)) ∧
        (∀ st, s.combRefuses p q = some st → st = St.combineIdle ∨ st = St.combineRange → exec (.combine id) s =
          .next ((s.updClX p.node (fun y => { y with cqReturns := satAdd 16 y.cqReturns 1 })).refuseGroup p st)) ∧
        (∀ bits : Nat, s.combRefuses p q = none → s.groupData p = some bits →
          (∀ e ∈ combWrites q p.payload, s.locked e.1 e.2 true none = false ∧ s.partPoison e.1 e.2 = false) →
          (q.strict = false → q.count + 1 < combN q.bits →
            exec (.combine id) s = .next ((((s.dropGroup p.group).sendBack p.node 4 p.payload p.back p.key p.ctx St.posted).updComb p.node
              (dDestQ p.payload) (fun y => { y with count := y.count + 1 })).addElems q.target (combFp q.bits) (field (dArg p.payload) 0 24)
              ((List.range (dLen p.payload / 4)).map (fun j => some (BitVec.ofNat 32 (field bits (32 * j) 32)))))) ∧
          (q.strict = true → ∀ ws, combWrites q p.payload = ws → exec (.combine id) s =
            .next (((((List.range ws.length).zip ws).foldl (fun v e => v.store e.2.1 (leBytes 4 (field bits (32 * e.1) 32)))
              (((s.dropGroup p.group).sendBack p.node 4 p.payload p.back p.key p.ctx St.posted).updComb p.node (dDestQ p.payload) (fun y =>
                { y with count := y.count + 1 })))).updComb p.node (dDestQ p.payload) (fun y => { y with
                  staged := y.staged ++ [{ src := dSrc p.payload, seq := dSeq p.payload, ch := dSrcCh p.payload
                                           elem := field (dArg p.payload) 0 24, slot := q.count, len := dLen p.payload }]
                  st := if q.count + 1 = combN q.bits then 3 else 2 })))))) ∧
    (s.arrivedDesc id 3 = some p → s.rxRefuses p = none → (∀ g ∈ s.groupOf p.group, g.kind = 3 ∧ g.fault = 0) →
      (s.groupOf p.group).length = (dLen p.payload + 2047) / 2048 → exec (.putPerformed id) s = .next ((s.dropGroup p.group).updRxq (dDest p.payload)
      (dDestQ p.payload) (fun x => { x with
        entries := x.entries ++ [{ data := descOnly p.payload, inc := p.back, first := true }], received := wrapAdd 32 x.received 1 }))) ∧
    (s.arrivedDesc id 2 = some p → (s.channel (dSrc p.payload) (dSrcCh p.payload)).opened = true →
      (s.channel (dSrc p.payload) (dSrcCh p.payload)).inc = p.back →
      (dStatus p.payload = St.posted → dCq p.payload = false →
        exec (.acknowledgement id) s = .next ((s.dropPacket id).freeSlot (dSrc p.payload) (dSrcCh p.payload) (dSeq p.payload))) ∧
      (dStatus p.payload ≠ St.posted ∨ dCq p.payload = true → ∃ u, exec (.acknowledgement id) s = .next u ∧
        tget u.msg.cqs (dSrc p.payload) [] = tget s.msg.cqs (dSrc p.payload) [] ++ [descOnly p.payload] ∧ u.msg.chans = s.msg.chans ∧
        u.mem = s.mem ∧ u.tiles = s.tiles)) ∧
    (∀ (c : Fin 16) (n : Fin 32) (x : CombQueue), s.comb c.val n.val = x → x.st = 3 → exec (.strictSummationDone c n) s =
      .next (((contribSort x.staged).foldl (fun v k => v.addElems x.target (combFp x.bits) k.elem (v.stagedData x k)) (s.stagedLost x)).endRound
        c.val n.val)) ∧
    (∀ (n : Nat) (s : State), ((s.endRound p.node n).comb p.node n).st = 1 ∧ ((s.endRound p.node n).comb p.node n).pending = true ∧
      ((s.endRound p.node n).comb p.node n).rounds = wrapAdd 24 (s.comb p.node n).rounds 1)

/-- The carillon (09 R223-R226): entry stops new sections, a forced entry ends those in ARM, a drained cluster is in carillon mode, an ordinary
entry may time out, an exit lets the waiting batteries go on; a peal reaches the tiles it can and its completion is logged; a core is told of an entry that timed out and of
a peal refused. With its channels component down the control core enters and leaves none (18 R414). The status of a timed-out entry is the model's choice (log entry 18). -/
def Obligations.Carillon : Prop :=
  ∀ (s : State) (c : Fin 16),
    (∀ by_ : Bool, (by_ = false → s.compDown (16 * (3 + c.val) + 3) = false) → (s.clX c.val).carState = 0 → ∃ u, exec (.carillonEntry c by_ false) s = .next u ∧ (u.clX c.val).carState = 1 ∧
      (u.clX c.val).bySched = by_ ∧ (u.clX c.val).carForced = false ∧ u.bats = s.bats ∧ u.mem = s.mem ∧ u.tiles = s.tiles) ∧
    (∀ by_ : Bool, (by_ = false → s.compDown (16 * (3 + c.val) + 3) = false) → (s.clX c.val).carState = 0 → ∀ q, s.updClX c.val (fun x => { x with carState := 1, bySched := by_, carForced := true }) = q →
      exec (.carillonEntry c by_ true) s = .next (q.each (q.batsIn c.val .arm) (fun v b => v.failArm c.val b St.armCancelled))) ∧
    ((s.clX c.val).carState = 1 → s.carQuiet c.val = true → s.streamsIdle c.val = true →
      ∃ u, exec (.carillonEntered c) s = .next u ∧ (u.clX c.val).carState = 2 ∧ u.bats = s.bats ∧ u.mem = s.mem ∧ u.tiles = s.tiles) ∧
    ((s.clX c.val).carState = 1 → (s.clX c.val).carForced = false → exec (.carillonTimeout c) s =
      .next ((s.carLeave c.val).tell (if (s.clX c.val).bySched = true then 16 else c.val) 0x8A)) ∧
    (s.compDown (16 * (3 + c.val) + 3) = true → exec (.carillonExit c false) s = .next s ∧ ∀ forced, exec (.carillonEntry c false forced) s = .next s) ∧
    ((s.clX c.val).carState = 2 → ∀ by_, (by_ = false → s.compDown (16 * (3 + c.val) + 3) = false) → exec (.carillonExit c by_) s = .next (s.carLeave c.val)) ∧
    ((∀ b, (s.bat c.val b).waiting = []) → s.carLeave c.val = s.updClX c.val (fun x => { x with carState := 0, bySched := false, carForced := false })) ∧
    (∀ (b : Nat) (r : State → State), b < 64 → (∀ k, k ≠ b → (s.bat c.val k).waiting = []) → (s.bat c.val b).waiting ≠ [] →
      (∀ q, r q = q.updClX c.val (fun x => { x with carState := 0, bySched := false, carForced := false })) → (∀ k, k < 64 → k ≠ b →
        (((r s).pumpBat c.val b).bat c.val k).waiting = []) → s.carLeave c.val = (r s).pumpBat c.val b) ∧
    (∀ (by_ : Bool) (targets kind toff dpa len : Nat), pealOk kind toff len = true → s.pealSource dpa len = true → s.poisoned dpa len = false →
      (by_ = true ∨ (s.clX c.val).carState = 2) → (∀ ta ∈ pealTiles targets, s.pealReason c.val ta ≠ 0) →
      ∃ u x, exec (.peal c by_ targets kind toff dpa len) s = .next u ∧ u.msg.peals = s.msg.peals ++ [x] ∧ x.written = 0 ∧
        x.failed = (pealTiles targets).map (fun ta => (ta, s.pealReason c.val ta)) ∧ u.tiles = s.tiles ∧ u.mem = s.mem) ∧
    (∀ (by_ : Bool) (targets toff dpa len ta : Nat), pealOk 2 toff len = true → s.pealSource dpa len = true → s.poisoned dpa len = false →
      (by_ = true ∨ (s.clX c.val).carState = 2) → pealTiles targets = [ta] → s.pealReason c.val ta = 0 →
      ∃ u, exec (.peal c by_ targets 2 toff dpa len) s = .next u ∧
        (u.tile ta).core.pad = mwriteBytes (s.tile ta).core.pad (toff * 32) (mbytes s.mem.bytes dpa len) ∧
        (∀ k, k ≠ ta → u.tile k = s.tile k) ∧ u.mem = s.mem) ∧
    (∀ (targets kind toff dpa len : Nat), pealOk kind toff len = true → s.pealSource dpa len = true → (s.clX c.val).carState ≠ 2 →
      exec (.peal c false targets kind toff dpa len) s = .next (s.tell c.val 0x89)) ∧
    (∀ x : Peal, s.msg.peals.find? (fun y => y.id == x.id) = some x → ∃ u, exec (.pealCompletion x.id) s = .next u ∧
      u.msg.peals = s.msg.peals.filter (fun y => y.id != x.id) ∧ u.mem = s.mem ∧ u.tiles = s.tiles ∧
      tget u.msg.told x.sender 0 = BitVec.ofNat 512 (x.bits s.now))

/-- The mesh (10 R235-R246): a packet at a router input goes through its key check and its route, and stands at the neighbour's input or
has arrived; an agent injects under its partition's key, and under the system key only memory, checking and firmware do; a flit that left its
buffer gives its credit back; a resend on a link is counted; a drained mesh takes new route tables into the free bank. Which agents the model
takes as the device's own, and that a tail without a credit follows, is the model's choice (log entry 16). -/
def Obligations.MeshRouting : Prop :=
  ∀ (s : State),
    (∀ (p : Packet) (port chan : Nat), s.packet p.id = some p → p.node < 16 → p.arrived = false →
      (s.keyAllowed p.node p.inPort p.key = false → exec (.packetRoute p.id none) s = .next (s.keyDrop p.node p)) ∧
      (s.keyAllowed p.node p.inPort p.key = true → s.heldByCarillon p.node p = false →
        (s.route p.node p = .noRoute → exec (.packetRoute p.id none) s = .next (s.noRoute p.node p)) ∧
        (s.route p.node p = .wait → exec (.packetRoute p.id none) s = .next s) ∧
        (s.route p.node p = .out port chan → exec (.packetRoute p.id none) s = .next (s.sendOut p.node p port chan)))) ∧
    (∀ (p : Packet) (port chan n q : Nat), s.packet p.id = some p → port < 4 → neighbour p.node port = some (n, q) →
      ∃ y, (s.sendOut p.node p port chan).packet p.id = some y ∧ y.node = n ∧ y.inPort = q ∧ y.escape = (p.escape || chan == 1) ∧
        y.arrived = p.arrived ∧ y.key = p.key ∧ y.payload = p.payload) ∧
    (∀ (p : Packet) (port chan : Nat), s.packet p.id = some p → port = 4 ∨ port = 5 → p.kind ≠ 0 →
      ∃ y, (s.sendOut p.node p port chan).packet p.id = some y ∧ y.arrived = true ∧ y.node = p.node ∧ y.payload = p.payload) ∧
    (∀ (id : Nat) (x : Inject),
      ((∀ q ∈ s.mesh.net, q.id ≠ s.mesh.nextId) → (∀ r, x.srcPart = some r → s.hasKey r.val = true) →
        (x.srcPart = none → 5 ≤ x.agent.val) → x.bytes ≤ 2048 →
        ∃ (u : State) (p : Packet), exec (.packetRoute id (some x)) s = .next (u.routePacket p) ∧ u.packet p.id = some p ∧
        (∀ r, x.srcPart = some r → p.key = s.keyOf r.val) ∧ (x.srcPart = none → p.key = 0 ∧ p.cls = 2) ∧ p.dest = x.dest.val ∧
        p.node = x.node.val ∧ p.inPort = (if x.node.val < 16 then 4 else 5) ∧ p.epoch = s.mesh.epoch ∧ p.flits = 1 + (x.bytes + 127) / 128 ∧
        p.arrived = false ∧ u.mem = s.mem ∧ u.tiles = s.tiles) ∧
      ((x.srcPart = none ∧ x.agent.val < 5) ∨ (∃ r, x.srcPart = some r ∧ s.hasKey r.val = false) → exec (.packetRoute id (some x)) s = .next s)) ∧
    (∀ (node : Fin 24) (port : Fin 8) (cls chan : Nat), node.val < 16 → port.val < 6 → cls < 3 → chan < 2 →
      0 < tget (s.router node.val).owed (creditKey port.val cls chan) 0 → ∃ u, exec (.creditReturn node port cls chan) s = .next u ∧ u.mem = s.mem ∧ u.tiles = s.tiles ∧
        (u.router node.val).credit port.val cls chan = min (creditFull chan) ((s.router node.val).credit port.val cls chan + 1) ∧
        tget (u.router node.val).owed (creditKey port.val cls chan) 0 = tget (s.router node.val).owed (creditKey port.val cls chan) 0 - 1) ∧
    (∀ (node : Fin 16) (port : Fin 4) (link : Fin 68) (kind ix : Nat), linkUnit node.val port.val link.val = some (kind, ix) →
      (hourWindow s.ledger.opSec (tget s.mem.sbe (4096 * kind + ix) [])).2 = false →
      ∃ u, exec (.flitResend node port link) s = .next u ∧ u.ledger = s.ledger ∧ u.mem.bytes = s.mem.bytes ∧
        tget u.mem.sbe (4096 * kind + ix) [] = (hourWindow s.ledger.opSec (tget s.mem.sbe (4096 * kind + ix) [])).1) ∧
    (∀ c : Fin 16, s.compDown 36 = false → (∀ n, n < 16 → s.oldBusy n = false) → ∃ u, exec (.routeInstall c) s = .next u ∧ (u.router c.val).shadowValid = true ∧
      (if s.mesh.epoch then (u.router c.val).bank0 else (u.router c.val).bank1) = tget s.newRoutes c.val [] ∧
      (if s.mesh.epoch then (u.router c.val).bank1 = (s.router c.val).bank1 else (u.router c.val).bank0 = (s.router c.val).bank0) ∧
      u.mem = s.mem ∧ u.tiles = s.tiles)

/-- The queue registers and the fetch of a record (11 R257-R262): an owner's doorbell sets TAIL and starts a stopped queue, CQ_HEAD is written,
a fetched record waits to start or completes with the status of its first failing check. -/
def Obligations.QueueRegistersAndFetch : Prop :=
  ∀ (s : State) (fn : Fn) (p : Fin 16) (k : Fin 64) (x : Fin 4), 
    (s.ownsP fn p.val = true → s.resetting p.val = false →
      (∀ tail : Word, x.val ≠ 3 ∨ (∃ g, fn = .pf g) → (s.ctx p.val k.val).st ≠ 0 → (s.ctx p.val k.val).st ≠ 7 →
        ringSizeOk ((s.ctx p.val k.val).queue x.val).size = true →
        (tail.toNat + 2 ^ 32 - ((s.ctx p.val k.val).queue x.val).head) % 2 ^ 32 ≤ 2 ^ ((s.ctx p.val k.val).queue x.val).size →
        ∃ u, exec (.doorbell fn p k x tail) s = .next u ∧ ((u.ctx p.val k.val).queue x.val).tail = tail.toNat ∧
          ((u.ctx p.val k.val).queue x.val).stalled = none ∧
          ((u.ctx p.val k.val).queue x.val).head = ((s.ctx p.val k.val).queue x.val).head ∧ u.mem = s.mem ∧ u.tiles = s.tiles) ∧
      (∀ tail : Word, x.val ≠ 3 ∨ (∃ g, fn = .pf g) → (s.ctx p.val k.val).st ≠ 0 → (s.ctx p.val k.val).st ≠ 7 →
        2 ^ ((s.ctx p.val k.val).queue x.val).size < (tail.toNat + 2 ^ 32 - ((s.ctx p.val k.val).queue x.val).head) % 2 ^ 32 →
        exec (.doorbell fn p k x tail) s = .next ((s.unlatch fn).refuseP fn p.val (offD p.val k.val (8 * x.val)) 5 tail.toNat)) ∧
      (∀ head : Word, ∃ u, exec (.cqHeadWrite fn p k head) s = .next u ∧ (u.ctx p.val k.val).cqHead = head.toNat ∧ u.mem = s.mem ∧
        u.tiles = s.tiles ∧ (∀ i j, kKey i j ≠ kKey p.val k.val → u.ctx i j = s.ctx i j))) ∧
    (∀ (q : CmdQueue) (idx : Nat) (s1 : State) (bs : List Byte) (b : BitVec 512), (s.ctx p.val k.val).queue x.val = q →
      q.nextIdx 64 q.next = idx → (s.ctx p.val k.val).st = 1 → q.fetched = none → q.waitOn = none → q.stalled = none →
      ringSizeOk q.size = true → (idx + 2 ^ 32 - q.head) % 2 ^ 32 < 32 →
      (idx + 2 ^ 32 - q.head) % 2 ^ 32 < (q.tail + 2 ^ 32 - q.head) % 2 ^ 32 →
      s.readQ p.val k.val x.val (q.base + 64 * (idx % 2 ^ q.size)) 64 = (s1, .ok bs) → b = BitVec.ofNat 512 (leNat bs) → bf b 0 8 ≠ 0x10 →
      exec (.recordFetch p k x) s = .next (s1.takeRecord p.val k.val x.val idx b 0 none)) ∧
    (∀ (q : CmdQueue) (idx : Nat) (s1 s2 : State) (bs im : List Byte) (b : BitVec 512), (s.ctx p.val k.val).queue x.val = q →
      q.nextIdx 64 q.next = idx → (s.ctx p.val k.val).st = 1 → q.fetched = none → q.waitOn = none → q.stalled = none →
      ringSizeOk q.size = true → (idx + 2 ^ 32 - q.head) % 2 ^ 32 < 32 →
      (idx + 2 ^ 32 - q.head) % 2 ^ 32 < (q.tail + 2 ^ 32 - q.head) % 2 ^ 32 →
      s.readQ p.val k.val x.val (q.base + 64 * (idx % 2 ^ q.size)) 64 = (s1, .ok bs) → b = BitVec.ofNat 512 (leNat bs) → bf b 0 8 = 0x10 →
      s1.checkRecord p.val x.val b = 0 → s1.readQ p.val k.val x.val (bf b 128 48) 192 = (s2, .ok im) → b.toNat.testBit 74 = false →
      exec (.recordFetch p k x) s = .next (s2.takeRecord p.val k.val x.val idx b (BitVec.ofNat 1536 (leNat im)) none)) ∧
    (∀ (s : State) (idx : Nat) (b : BitVec 512) (m : BitVec 1536), 
      (s.checkRecord p.val x.val b = 0 → s.takeRecord p.val k.val x.val idx b m none =
        s.updQueue p.val k.val x.val (fun q => { q with fetched := some (idx, b), next := idx, image := m, record := none })) ∧
      (∀ st, s.checkRecord p.val x.val b = st → st ≠ 0 → s.takeRecord p.val k.val x.val idx b m none =
        (s.startCmd (refOf p.val k.val x.val idx b)).complete (refOf p.val k.val x.val idx b) st 0))

/-- The completion ring (11 R262): the oldest waiting entry is written at CQ_TAIL while the ring has room, and CQ_TAIL goes on by one. The
commands every queue accepts (11 R259, R264-R267): NOP completes at start, BARRIER and CHIME once every earlier command has completed, CHIME and
WAIT wait for a lock over their word; WAIT completes when its word meets its condition, at once or when the word is looked at again. -/
def Obligations.QueueCommandsAndCompletions : Prop :=
  (∀ (s s1 : State) (p : Fin 16) (k : Fin 64) (e : Nat) (rest : List Nat) (dpa : Nat) (cch : Bool), (s.ctx p.val k.val).comps = e :: rest →
      (s.ctx p.val k.val).st ≠ 0 → cqSizeOk (s.ctx p.val k.val).cqSize = true →
      ((s.ctx p.val k.val).cqTail + 2 ^ 32 - (s.ctx p.val k.val).cqHead) % 2 ^ 32 < 2 ^ (s.ctx p.val k.val).cqSize →
      s.translateC (s.lowCluster p.val) (s.ident p.val k.val)
        ((s.ctx p.val k.val).cqBase + 32 * ((s.ctx p.val k.val).cqTail % 2 ^ (s.ctx p.val k.val).cqSize)) true = (s1, .dev dpa cch) →
      s1.locked dpa 32 true none = false → s1.partPoison dpa 32 = false →
      exec (.completionEntryWrite p k) s = .next ((s1.store dpa (leBytes 32 e)).entryWritten p.val k.val e) ∧
      (s1.store dpa (leBytes 32 e)).mem.bytes = mwriteBytes s1.mem.bytes dpa (leBytes 32 e) ∧
      ((s1.store dpa (leBytes 32 e)).entryWritten p.val k.val e).mem = (s1.store dpa (leBytes 32 e)).mem) ∧
  (∀ (s : State) (p : Fin 16) (k : Fin 64) (x : Fin 4) (r : CmdRef),
      (s.fetchedCmd p.val k.val x.val 0x00 = some r → exec (.nop p k x) s = .next ((s.startCmd r).complete r St.completed 0)) ∧
      (s.fetchedCmd p.val k.val x.val 0x30 = some r →
        (s.allEarlier r = true → exec (.barrier p k x) s = .next ((s.startCmd r).complete r St.completed 0)) ∧
        (s.allEarlier r = false → exec (.barrier p k x) s = .next s)) ∧
      (∀ (s1 : State) (st : Nat), s.fetchedCmd p.val k.val x.val 0x31 = some r → s.allEarlier r = true →
        s.chimeLocked (s.identOf r) (bf r.bits 64 48) true = false →
        (s.startCmd r).chimeStore (s.identOf r) (bf r.bits 64 48) (bf r.bits 128 64) (queueAgent x.val) = (s1, st) →
        exec (.chime p k x) s = .next (s1.complete r (if st = 0 then St.completed else st) 0)) ∧
      (∀ (s1 : State) (dpa : Nat), s.fetchedCmd p.val k.val x.val 0x32 = some r →
        (s.startCmd r).chimeAt (s.identOf r) (bf r.bits 64 48) false (queueAgent x.val) = (s1, .ok dpa) →
        exec (.wait p k x) s = .next ((s1.updQueue p.val k.val x.val (fun q => { q with
          waitOn := some (dpa, r.idx, r.bits.toNat.testBit 112, BitVec.ofNat 64 (bf r.bits 128 64)) })).waitLook r dpa
          (r.bits.toNat.testBit 112) (BitVec.ofNat 64 (bf r.bits 128 64)))) ∧
      (∀ (dpa idx : Nat) (cmp : Bool) (value : Dword), ((s.ctx p.val k.val).queue x.val).waitOn = some (dpa, idx, cmp, value) →
        ((s.ctx p.val k.val).queue x.val).inProg.find? (fun r => r.idx == idx) = some r →
        exec (.waitComplete p k x) s = .next (s.waitLook r dpa cmp value)) ∧
      (∀ (dpa : Nat) (cmp : Bool) (value : Dword), s.locked dpa 8 false none = false → s.poisoned dpa 8 = false →
        (waitMet cmp value (s.load dpa 8) = false → s.waitLook r dpa cmp value = s) ∧
        (waitMet cmp value (s.load dpa 8) = true → s.waitLook r dpa cmp value = (s.updQueue r.part r.ctx r.x (fun q =>
          { q with waitOn := none })).complete r St.completed 0)) ∧
      (∀ (dpa : Nat) (cmp : Bool) (value : Dword), s.locked dpa 8 false none = true → s.waitLook r dpa cmp value = s) ∧
      (∀ (value : Dword) (v : Nat), (waitMet true value v = true ↔ value.toNat ≤ v) ∧ (waitMet false value v = true ↔ v = value.toNat)))

/-- The operations on a context (11 R255, R256, R269, R272, R277-R281; 12 R286): an owner's write sets the fields of PTN_CTX_CTL; with no
operation in progress, one that the arbiter lets proceed and the state permits shows GO and performs its operation, another state, or no
cluster, refuses it with CONTEXT_STATE; while GO is 1 no operation but a context reset starts. That SAVE and RESTORE need a cluster too is the
model's choice (log entry 95). -/
def Obligations.ContextOperations : Prop :=
  ∀ (s v : State) (fn : Fn) (p : Fin 16) (k : Fin 64), s.ownsP fn p.val = true → s.resetting p.val = false →
    (∀ set : Nat → Bool → Bool → Nat → State, s.unlatch fn = v →
      (∀ op banks frames clusters, set op banks frames clusters = v.updCtx p.val k.val (fun c => { c with op, banks, frames, clusters })) →
      ((s.ctx p.val k.val).go = false →
        exec (.create fn p k) s = .next ((set 0 false false 0).ctxOp p.val k.val 0) ∧
        exec (.preempt fn p k) s = .next ((set 1 false false 0).ctxOp p.val k.val 1) ∧
        exec (.resume fn p k) s = .next ((set 2 false false 0).ctxOp p.val k.val 2) ∧
        (∀ val : Dword, exec (.save fn p k val) s =
          .next ((set 3 (val.toNat.testBit 4) (val.toNat.testBit 5) (bf val 16 16)).ctxOp p.val k.val 3)) ∧
        exec (.restore fn p k) s = .next ((set 4 false false 0).ctxOp p.val k.val 4) ∧
        exec (.destroy fn p k) s = .next ((set 6 false false 0).ctxOp p.val k.val 6)) ∧
      exec (.contextReset (.fn fn) p k) s = .next ((set 5 false false 0).ctxOp p.val k.val 5) ∧
      ((s.ctx p.val k.val).go = true →
        exec (.create fn p k) s = .next (set 0 false false 0) ∧ exec (.preempt fn p k) s = .next (set 1 false false 0) ∧
        exec (.resume fn p k) s = .next (set 2 false false 0) ∧ exec (.restore fn p k) s = .next (set 4 false false 0) ∧
        exec (.destroy fn p k) s = .next (set 6 false false 0))) ∧
    (∀ (s : State) (n : Nat), n < 7 → n ≠ 5 → s.arbitrate (opSev n) (.ctx p.val k.val) = .proceed →
      (opAllowed n (s.ctx p.val k.val).st = false ∨ s.noCluster p.val n = true →
        s.ctxOp p.val k.val n = s.updCtx p.val k.val (fun c => { c with result := St.contextState })) ∧
      (opAllowed n (s.ctx p.val k.val).st = true → s.noCluster p.val n = false →
        ∀ u, (s.takeOver (opSev n) (.ctx p.val k.val)).updCtx p.val k.val (fun c => { c with
          go := true, opNow := n, banksNow := c.banks, framesNow := c.frames, clustersNow := c.clusters }) = u →
        (n = 1 → s.ctxOp p.val k.val n = u.preemptCtx p.val k.val) ∧
        (n = 3 → s.ctxOp p.val k.val n = u.updCtx p.val k.val (fun c => { c with st := 4 })) ∧
        (n = 6 → s.ctxOp p.val k.val n = (u.destroyCtx p.val k.val).ctxResult p.val k.val St.completed) ∧
        ((u.part p.val).strictBusy = false →
          (n = 0 → s.ctxOp p.val k.val n = (u.createCtx p.val k.val).ctxResult p.val k.val St.completed) ∧
          (n = 2 → s.ctxOp p.val k.val n = (u.resumeCtx p.val k.val).ctxResult p.val k.val St.completed) ∧
          (n = 4 → s.ctxOp p.val k.val n = u.updCtx p.val k.val (fun c => { c with st := 6 }))))) ∧
    (∀ s : State, ((s.createCtx p.val k.val).ctx p.val k.val).st = 1 ∧
      ((s.createCtx p.val k.val).ctx p.val k.val).gen = ((s.ctx p.val k.val).gen + 1) % 2 ^ 8 ∧
      ((s.createCtx p.val k.val).ctxX p.val k.val).step = 0 ∧ (s.createCtx p.val k.val).mem = s.mem) ∧
    (∀ (st : Nat), (opAllowed 0 st = true ↔ st = 0) ∧ (opAllowed 1 st = true ↔ st = 1) ∧ (opAllowed 2 st = true ↔ st = 3) ∧
      (opAllowed 3 st = true ↔ st = 3) ∧ (opAllowed 4 st = true ↔ st = 5) ∧ (opAllowed 6 st = true ↔ st = 3 ∨ st = 5 ∨ st = 7))

/-- The ends of PREEMPT, SAVE and RESTORE (11 R269, R272, R275): a PREEMPTING context with nothing left at work is PREEMPTED; a save whose area
translates, with no frame lost, is SAVED with the area written, else PREEMPTED again (log entry 107); a restore ends ACTIVE, or SAVED again, or
with a fatal fault (log entry 9). A context reset (11 R255, 15 R358):
RESETTING, and done at once unless a section is in COMMIT; its work ends, its commands complete with SUPERSEDED, its generation goes on by
one and its queues stand at the TAIL published when it was ordered. -/
def Obligations.ContextCompletionsAndReset : Prop :=
  (∀ (s : State) (p : Fin 16) (k : Fin 64) (i : CtxId), s.ident p.val k.val = i →
      ((s.ctx p.val k.val).st = 2 → s.preemptDone i = true → exec (.preempted p k) s =
        .next ((s.updCtx p.val k.val (fun c => { c with st := 3 })).ctxResult p.val k.val St.completed)) ∧
      (∀ area : List Byte, (s.ctx p.val k.val).st = 4 → s.saveArea p.val k.val = area →
        (∀ (s1 : State) (l : List (Nat × Nat)),
          s.devPages i true (area.length / 65536 + 2) (s.ctx p.val k.val).saveVa area.length = (s1, .ok l) →
          ((s.ctx p.val k.val).framesNow = true → ∀ f ∈ s.framesOf i (s.ctx p.val k.val).clustersNow, s.poisoned f.1 65536 = false) →
          exec (.saveComplete p k) s = .next (((((s1.saveFree i).writePieces l area).updCtx p.val k.val (fun c =>
            { c with st := 5 })).ctxResult p.val k.val St.completed).pumpAll)) ∧
        (∀ (s1 : State) (st : Nat),
          s.devPages i true (area.length / 65536 + 2) (s.ctx p.val k.val).saveVa area.length = (s1, .error st) →
          exec (.saveComplete p k) s = .next ((s1.updCtx p.val k.val (fun c => { c with st := 3 })).ctxResult p.val k.val st))) ∧
      (∀ (s1 s2 s3 : State) (hd bs : List Byte) (n : Nat), (s.ctx p.val k.val).st = 6 →
        s.readVa i 4 (s.ctx p.val k.val).saveVa 512 = (s1, .ok hd) → saveLen (leNat hd) = n → field (leNat hd) 800 64 = n →
        s1.readVa i (n / 65536 + 2) (s.ctx p.val k.val).saveVa n = (s2, .ok bs) →
        (s2.restoreFrom i bs = (s3, .ok ()) → exec (.restoreComplete p k) s = .next (((s3.updCtx p.val k.val (fun c =>
          { c with st := 1 })).ctxResult p.val k.val St.completed).resumeDescs i)) ∧
        (∀ x : ReadErr, s2.restoreFrom i bs = (s3, .error x) →
          (x.fatal = false → exec (.restoreComplete p k) s = .next ((s3.updCtx p.val k.val (fun c =>
            { c with st := 5 })).ctxResult p.val k.val x.status)) ∧
          (x.fatal = true → exec (.restoreComplete p k) s = .next (s3.fatalXlat i x.status 3 0 x.va))))) ∧
  (∀ (s : State) (p k : Nat),
      ((s.ctx p k).st = 0 → s.resetContext p k = (s, St.contextState)) ∧
      ((s.ctx p k).st ≠ 0 → s.arbitrate 5 (.ctx p k) = .proceed →
        ∀ u, (s.takeOver 5 (.ctx p k)).updCtx p k (fun c => { c with
          st := 8, queues := tmap c.queues (fun _ q => { q with rtail := q.tail, fetched := none, waitOn := none }) }) = u →
        s.resetContext p k = (if u.committing (u.ident p k) then (u, 0) else (u.finishReset p k, 0))) ∧
      (s.finishReset p k = ((((s.endWork (s.ident p k)).completeAll p k St.superseded (s.endWork (s.ident p k)).chainPos).updCtx p k (fun c => { c with
        st := 1, gen := (c.gen + 1) % 2 ^ 8, qstop := 0, go := false, result := St.completed
        queues := tmap c.queues (fun _ q => q.afterReset), xlat := { c.xlat with faulted := false } })).pumpAll).answer (waitCtx p k) St.completed) ∧
      (∀ s1 : State, (s.clustersOf p).isEmpty = false → s.resetContext p k = (s1, 0) → s.ctxOp p k 5 =
        (if (s1.ctx p k).st = 8 then s1.updCtx p k (fun c => { c with go := true, opNow := 5 }) else s1)) ∧
      ((s.clustersOf p).isEmpty = true → s.ctxOp p k 5 = s.updCtx p k (fun c => { c with result := St.contextState })) ∧
      (∀ (p : Fin 16) (k : Fin 64) (who : Issuer), (∀ f, who ≠ .fn f) → exec (.contextReset who p k) s = .next (s.ctxOp p.val k.val 5)) ∧
      (∀ (q : CmdQueue), q.afterReset.head = q.rtail ∧ q.afterReset.next = q.rtail ∧ q.afterReset.inProg = [] ∧ q.afterReset.fetched = none ∧
        q.afterReset.size = q.size ∧ q.afterReset.base = q.base))

/-- Fences and re-admission (13 R321, 15 R345-R347): an order the arbiter lets proceed muffles the unit, one from the belfry enters a confirmed
error as well; a clean muffled unit is installed at the next epoch flip, a suspect one is retested, a permanent one stays out. Re-placement
(15 R348-R353): a held section of a battery with a muffled tile gets a skip, else a relocation, else its SEC_RUN completes; the skip and the
relocation move the banks, restart the slots and let the section enter ARM again, once no swap, carillon or forced hold blocks it. Each step waits for the component whose duty it is (18 R409, R414). -/
def Obligations.UnitsMuffledAndReplaced : Prop :=
  (∀ (s : State) (u : UnitId), unitExists u.kind u.index = true →
      (u.kind ≠ 1 → u.kind ≠ 2 → u.kind ≠ 3 → (∀ o ∈ s.orders, o.target ≠ 16) →
        exec (.muffle .theldo u) s = .next (s.muffleUnit u.kind u.index) ∧
        exec (.muffle .belfry u) s = .next ((s.muffleUnit u.kind u.index).confirm u.kind u.index 6 0xBB)) ∧
      (∀ t, unitTarget u.kind u.index = some t → s.arbitrate 6 t ≠ .superseded →
        exec (.muffle .theldo u) s = .next ((s.takeOver 6 t).muffleUnit u.kind u.index) ∧
        exec (.muffle .belfry u) s = .next (((s.takeOver 6 t).muffleUnit u.kind u.index).confirm u.kind u.index 6 0xBB)) ∧
      (∀ who : Issuer, who = .belfry ∨ who = .theldo → s.unitVerdict 7 u.kind u.index ≠ .superseded →
        (ledState (s.ledgerOf u.kind u.index) = 0 → exec (.reAdmission who u) s = .next (s.readmit u.kind u.index)) ∧
        (ledState (s.ledgerOf u.kind u.index) = 1 → (s.retestOf u.kind u.index).isSome = true →
          exec (.reAdmission who u) s = .next (s.setRetest u.kind u.index (some 0))) ∧
        (ledState (s.ledgerOf u.kind u.index) = 1 → s.retestOf u.kind u.index = none → exec (.reAdmission who u) s =
          .next ((fun q : State => { q with ledger := { q.ledger with retests := q.ledger.retests ++ [(u.kind, u.index, 0)] } }) s)) ∧
        (2 ≤ ledState (s.ledgerOf u.kind u.index) → exec (.reAdmission who u) s = .next s)) ∧
      (∀ s : State, u.kind = 6 → ((s.muffleUnit u.kind u.index).chan u.index).st = 2) ∧
      (∀ s : State, s.unitMuffled u.kind u.index = true → unitCode u.kind u.index ∉ s.mesh.installing →
        unitCode u.kind u.index ∈ (s.readmit u.kind u.index).mesh.installing ∧
        ∀ c, c < 16 → ((s.readmit u.kind u.index).router c).shadowValid = false)) ∧
  (∀ (s : State) (c : Fin 16) (b : Fin 64) (img : SecImage) (i : CtxId), (s.bat c.val b.val).active = some img →
      (s.bat c.val b.val).owner = some i → (s.batX c.val b.val).held = true →
      ((s.batX c.val b.val).plan = 0 →
        (∀ ta, s.compDown (16 * (3 + c.val) + 2) = false → s.mutedTile c.val b.val = some ta → (s.part i.part).autoSkip = true → s.skipOpen ta = true → s.cfg.swaps = [] →
          ∃ u, exec (.replacement c b) s = .next u ∧ (u.batX c.val b.val).plan = 1 ∧
            (u.clY c.val).skips = (s.clY c.val).skips ++ [(taX ta, taY ta, b.val)] ∧ u.tiles = s.tiles ∧ u.mem = s.mem) ∧
        (∀ b', s.compDown 37 = false → s.mutedTile c.val b.val = none → (s.part i.part).autoRelocate = true → s.relocTarget c.val b.val img = some b' →
          exec (.replacement c b) s = .next (s.updBatX c.val b.val (fun y => { y with plan := 2 }))) ∧
        (s.compDown 37 = true → s.mutedTile c.val b.val = none → exec (.replacement c b) s = .next s) ∧
        (s.compDown 37 = false → s.mutedTile c.val b.val = none → (s.part i.part).autoRelocate = false →
          exec (.replacement c b) s = .next (s.replFail c.val b.val))) ∧
      (∀ b', s.compDown 37 = false → (s.batX c.val b.val).plan = 2 → s.relocTarget c.val b.val img = some b' →
        exec (.relocation c b) s = .next ((((((s.moveBattery c.val b.val b').updBatX c.val b.val (fun y =>
          { y with held := false, plan := 0, replLast := 2 })).restartSlots c.val [b.val] (fun _ => b')).replRecord c.val b.val i 0xC1 2 b' 0 0
          ((s.batTiles c.val b.val).foldl (fun (n : BitVec 12) (e : Nat × Nat) => if s.muffledTile e.2 then n ||| (s.tile e.2).ctl.lostBanks else n)
            0).toNat).reArm c.val b').pumpAll)) ∧
      (s.compDown 37 = false → (s.batX c.val b.val).plan = 2 → s.relocTarget c.val b.val img = none →
        exec (.relocation c b) s = .next (s.replFail c.val b.val)) ∧
      (∀ (x : Fin 16) (y : Nat), s.compDown (16 * (3 + c.val) + 2) = false → (s.batX c.val b.val).plan = 1 → (s.clY c.val).skips.find? (fun e => e.1 == x.val) = some (x.val, y, b.val) →
        (∀ n, n ∈ s.covering c.val x.val → (s.bat c.val n).st = .loaded ∨ (s.bat c.val n).st = .empty) →
        ∀ v, ((((s.updClY c.val (fun z => { z with skips := z.skips.filter (fun e => e.1 != x.val) })).shiftColumn c.val x.val y).setSkip
          c.val x.val y).restartSlots c.val (State.shifted (s.updClY c.val (fun z => { z with skips := z.skips.filter (fun e => e.1 != x.val) }))
          c.val (s.covering c.val x.val) y) id).tilesChanged c.val = v →
        (v.bat c.val b.val).active = some img → (v.bat c.val b.val).owner = some i → (v.batX c.val b.val).held = true → (v.batX c.val b.val).plan = 1 →
        exec (.skipSwap c x) s = .next ((((v.replRecord c.val b.val i 0xC1 1 b.val x.val y
          (s.tile (taddr c.val x.val y)).ctl.lostBanks.toNat).updBatX c.val b.val (fun y => { y with replLast := 1 })).reArm c.val b.val).pumpAll)) ∧
      (∀ s q : State, (s.bat c.val b.val).active = some img → (s.bat c.val b.val).owner = some i →
        s.updBatX c.val b.val (fun y => { y with held := true, replaced := true, plan := 3 }) = q → (q.ctx i.part i.ctx).st = 1 →
        (q.swapBlocks c.val b.val = true → s.reArm c.val b.val = q) ∧
        (q.swapBlocks c.val b.val = false → s.reArm c.val b.val = ((q.updBatX c.val b.val (fun y => { y with held := false, plan := 0 })).updBat
          c.val b.val (fun y => { y with replays := 0 })).enterArm c.val b.val i img)))

/-- Engine resets and isolation (15 R356, R359, 19 R447, 11 R277-R279): an owner's order that no reset and no more severe order stands against
resets the engine it names; an admitted context with nothing left to complete makes room for the next. Partition and chip resets, and the
escalation ladder (11 R254, R277-R281, 15 R357, R360): an order that proceeds resets its target; a chip reset keeps what the always-on
domain holds; an order that meets a section in COMMIT takes effect after it (log entry 108); a level above ESC_LIMIT is only recorded; with the recovery component down the escalation waits (18 R414). At equal severity on a containing target the new order loses (log entry 20). -/
def Obligations.Resets : Prop :=
  (∀ (s : State) (fn : Fn) (c : Fin 16),
      (s.ownsC fn c.val = true → s.resettingC c.val = false →
        exec (.batteryEngineReset fn c) s = .next ((s.unlatch fn).engineReset c.val 0 0 false) ∧
        (∀ (e : Fin 4) (hang : Bool), exec (.streamEngineReset fn c e hang) s = .next ((s.unlatch fn).engineReset c.val 1 e.val hang)) ∧
        (∀ hang : Bool, exec (.ringEngineReset fn c hang) s = .next ((s.unlatch fn).engineReset c.val 2 0 hang))) ∧
      (s.ownsC fn c.val = false → exec (.batteryEngineReset fn c) s = .next ((s.unlatch fn).refuseC fn c.val (offF (0x200 + 8 * c.val)) 2 1)) ∧
      (∀ (s : State) (kind idx : Nat) (hang : Bool), s.arbitrate 4 (.cluster c.val) = .superseded →
        s.engineReset c.val kind idx hang = s.updClY c.val (fun y =>
          { y with engKind := kind, engIndex := idx, engHang := hang, engResult := St.superseded })) ∧
      (∀ (s q : State) (kind idx g : Nat), s.arbitrate 4 (.cluster c.val) ≠ .superseded → kind < 3 → idx < 4 →
        (g = if kind = 0 then 0 else if kind = 1 then 1 + idx else 5) →
        (kind = 0 → (s.takeOver 4 (.cluster c.val)).batteryReset c.val = q) → (kind = 1 → (s.takeOver 4 (.cluster c.val)).streamReset c.val idx = q) →
        (kind = 2 → (s.takeOver 4 (.cluster c.val)).ringReset c.val = q) →
        s.engineReset c.val kind idx false = (((q.updClY c.val (fun y => { y with engGens := tset y.engGens g ((tget y.engGens g 0 + 1) % 2 ^ 8) })).updClY
          c.val (fun y => { y with engKind := kind, engIndex := idx, engHang := false, engResult := St.completed })).pumpAll)) ∧
      ((s.clY c.val).isoActive = true → s.compDown 37 = false → (∀ r ∈ (s.clY c.val).isoCmds, r.ctx ≠ (s.clY c.val).isoAdmitted) →
        exec (.isolationAdmit c) s = .next (s.isoNext c.val)) ∧
      (∀ (s : State) (k : Nat) (rest : List Nat), (s.clY c.val).isoLeft = k :: rest → ((s.isoNext c.val).clY c.val).isoAdmitted = k ∧
        ((s.isoNext c.val).clY c.val).isoLeft = rest ∧ (s.isoNext c.val).bats = s.bats ∧ (s.isoNext c.val).mem = s.mem)) ∧
  (∀ (s : State) (p : Fin 16),
      (∀ f : Fn, s.ownsP f p.val = true → exec (.partitionReset (.fn f) p) s = .next ((s.unlatch f).orderPartReset p.val true).1) ∧
      (exec (.partitionReset .belfry p) s = .next (s.orderPartReset p.val false).1) ∧
      (∀ byReg : Bool, (s.prec p.val).isSome = true → s.arbitrate 3 (.part p.val) = .proceed →
        ∀ (u : State) (put : Bool → State), s.takeOver 3 (.part p.val) = u → (∀ o ∈ u.orders, o.held = false) →
        (∀ held, put held = State.updPart { u with orders := u.orders ++ [{ target := p.val, byReg, at_ := u.now, held, auto := false }] } p.val
          (fun x => { x with resetGo := x.resetGo || byReg })) →
        ((∀ e ∈ u.bats, e.2.st ≠ .commit) → s.orderPartReset p.val byReg = ((put false).partReset p.val byReg, 0)) ∧
        ((∃ e ∈ u.bats, e.2.st = .commit ∧ (put true).owns p.val (e.1 / 64) = true) → s.orderPartReset p.val byReg = (put true, 0))) ∧
      (∀ (s : State) (byReg : Bool) (r : PartRec) (k : Nat), s.prec p.val = some r → (∀ j ∈ s.ring.jobs, j.owner.part ≠ p.val) → k < 64 →
        ((s.partReset p.val byReg).ctx p.val k).st = 0 ∧
        ((s.partReset p.val byReg).ctx p.val k).gen = ((s.ctx p.val k).gen + 1) % 2 ^ 8 ∧ ((s.partReset p.val byReg).ctxX p.val k) = CtxX.reset ∧
        (∀ e ∈ (s.partReset p.val byReg).mem.tags, e.2.part ≠ p.val)) ∧
      (∀ o : Order, s.orders.find? (fun o => o.target == p.val) = some o → o.held = false → s.partReady p.val = true →
        (∀ q ∈ s.mesh.net, q.key ≠ (tget s.mesh.pkeys p.val (0, false, 0)).1 ∧ q.key ≠ (tget s.mesh.pkeys p.val (0, false, 0)).2.2) →
        ∃ u, exec (.partitionResetComplete p) s = .next u ∧ u.orders = s.orders.erase o ∧ u.tiles = s.tiles) ∧
      (s.boot.powerGood = true → s.arbitrate 2 .module = .proceed →
        ∀ q : State, (s.takeOver 2 .module).answer waitStage St.superseded = q →
        ((∀ e ∈ q.bats, e.2.st ≠ .commit) → exec (.chipReset .belfry) s = .next ((q.chipReset false).startOne) ∧
          exec (.chipReset .theldo) s = .next ((q.chipReset true).startOne)) ∧
        ((∃ e ∈ q.bats, e.2.st = .commit) → exec (.chipReset .belfry) s =
          .next ((fun q : State => { q with orders := [{ target := 16, byReg := false, at_ := q.now, held := true, auto := false }] }) q))) ∧
      (∀ auto : Bool, (s.chipReset auto).tiles = [] ∧ (s.chipReset auto).mem = MemSys.reset ∧ (s.chipReset auto).bats = [] ∧
        (s.chipReset auto).now = s.now ∧ (s.chipReset auto).log.ring = s.log.ring ∧ (s.chipReset auto).ledger.copyA = s.ledger.copyA ∧
        (s.chipReset auto).ledger.copyB = s.ledger.copyB ∧ (s.chipReset auto).belfry.key = s.belfry.key ∧
        (s.chipReset auto).health.chipGen = wrapAdd 8 s.health.chipGen 1) ∧
      (∀ k : Fin 64, s.compDown 37 = false → (s.ctx p.val k.val).st = 8 → exec (.escalate (.contextReset p k)) s =
        .next (s.orderLevel 2 0 (some p.val) 0 (fun s => s.resetEnginesOf (s.ident p.val k.val)))) ∧
      (s.compDown 37 = true → ∀ t : EscTrigger, exec (.escalate t) s = .next s) ∧
      (s.compDown 37 = false → exec (.escalate .noRoute) s = .next (s.orderLevel 4 St.noRoute none 0 (fun s => (s.orderChipReset true).1))) ∧
      (s.compDown 37 = false → s.health.level = 4 → exec (.escalate .chipReset) s = .next (s.orderLevel 5 0 none 0 State.powerCycleRequest)) ∧
      (∀ (level trigger : Nat) (part : Option Nat) (cluster : Nat) (go : State → State),
        (s.health.escLimit < level → s.orderLevel level trigger part cluster go = s.escRecord level trigger part cluster) ∧
        (level ≤ s.health.escLimit → s.orderLevel level trigger part cluster go = go (s.escRecord level trigger part cluster))))

/-- Staging and validation (17 R394, R395, R402, R406, R408): a PF's staging window and stager are its own; GO stages into a bank no swap uses
and no staging holds, a write while GO is 1 sets only the fields; a passing image becomes the shadow, a failing one shows its status; SECURE stays on. -/
def Obligations.StagingAndValidation : Prop :=
  ∀ (s : State) (port : Fin 4),
    (∀ (off : Nat) (data : List Byte), off + data.length ≤ 0x400000 → s.boot.bundle = true → (s.stager port.val).go = false →
      ∃ u, exec (.stagingWindowWrite (.pf port) false off data) s = .next u ∧
        (u.stager port.val).buf = mwriteBytes (s.stager port.val).buf off data ∧ u.mem = s.mem ∧ u.tiles = s.tiles ∧
        (∀ n, n ≠ port.val → u.stager n = s.stager n)) ∧
    (∀ (off : Nat) (data : List Byte), off + data.length ≤ 0x1000000 → (tget s.fw.loads port.val FwStager.reset).go = false →
      ∃ u, exec (.stagingWindowWrite (.pf port) true off data) s = .next u ∧
        (tget u.fw.loads port.val FwStager.reset).buf = mwriteBytes (tget s.fw.loads port.val FwStager.reset).buf off data ∧ u.mem = s.mem) ∧
    (∀ (val : Dword) (t : Nat), s.boot.bundle = true → (s.stager port.val).go = false → bf val 32 23 ≤ 4194304 →
      val.toNat.testBit 0 = true → (if val.toNat.testBit 1 then bf val 2 4 else 16) = t →
      (if t = 16 then s.ownsG (.pf port) else s.ownsC (.pf port) t) = true →
      ∀ (v u : State), (s.unlatch (.pf port)).updStager port.val (fun x => { x with
        target := bf val 1 1, cluster := bf val 2 4, len := bf val 32 23 }) = v → v.stageGo port.val t (bf val 32 23) = (u, 0) →
      exec (.cfgStage (.pf port) val) s = .next u) ∧
    (∀ (s : State) (t len : Nat), (t = 16 ∨ s.boot.readyClusters.testBit t = true) → (s.bank t).shadow ≠ 1 →
      (∀ w ∈ s.cfg.swaps, w.target ≠ t) → s.arbitrate 8 (bankTarget t) = .proceed → (s.stageGo port.val t len).2 = 0 ∧
      ((s.stageGo port.val t len).1.stager port.val).go = true ∧ ((s.stageGo port.val t len).1.bank t).shadow = 1) ∧
    (∀ (val : Dword), s.boot.bundle = true → s.ownsG (.pf port) = true → val.toNat.testBit 0 = true →
      ∃ u, exec (.secure (.pf port) val) s = .next u ∧ u.cfg.secure = true ∧ u.mem = s.mem ∧ u.tiles = s.tiles) ∧
    (∀ (t st : Nat) (d : Option DeviceCfg) (g : Option ClusterCfg), (s.stager port.val).go = true →
      (s.stager port.val).bankNow = t → s.validate t (mbytes (s.stager port.val).buf 0 (s.stager port.val).lenNow) = (st, d, g) →
      (st ≠ 0 → exec (.validationComplete port.val) s = .next (((s.updStager port.val (fun x => { x with
        go := false, result := st })).updBank t (fun b => { b with shadow := 3, lastStatus := st })).advanceSwap t)) ∧
      (st = 0 → t = 16 → ∃ u : State, u.cfg.devShadow = d ∧ u.cfg.dev = s.cfg.dev ∧ (u.bank 16).shadow = 2 ∧
        exec (.validationComplete port.val) s = .next (u.advanceSwap 16)) ∧
      (∀ v : ClusterCfg, st = 0 → t < 16 → g = some v → ∃ u : State, tfind u.cfg.clusterShadows t = some v ∧ u.cfg.clusters = s.cfg.clusters ∧
        (u.bank t).shadow = 2 ∧ exec (.validationComplete port.val) s = .next (u.advanceSwap t))) ∧
    (∀ (val : Dword), s.boot.bundle = true → (s.stager port.val).go = true → bf val 32 23 ≤ 4194304 →
      exec (.cfgStage (.pf port) val) s = .next ((s.unlatch (.pf port)).updStager port.val (fun x => { x with
        target := bf val 1 1, cluster := bf val 2 4, len := bf val 32 23 })))

/-- Configuration swaps and the epoch flip (10 R245, R246, 17 R404, R405): a CFG_SWAP command orders the swap of its bank, and is superseded while a skip swap of the cluster is
pending (15 R365); a per-cluster image
takes effect at the common boundary; the flip changes every router's bank at once and brings the installed units up, and with
the routes component down it waits (18 R414). -/
def Obligations.SwapsAndEpochFlip : Prop :=
  ∀ (s : State) (p : Fin 16) (k : Fin 64),
    (∀ r : CmdRef, s.fetchedCmd p.val k.val 3 0x34 = some r →
      (bf r.bits 64 1 = 0 → exec (.deviceCfgSwap p k) s = .next ((s.startCmd r).orderSwap 16 (some r) false 0).1) ∧
      (bf r.bits 64 1 = 1 → exec (.clusterCfgSwap p k) s = .next ((s.startCmd r).orderSwap (bf r.bits 65 4) (some r) false 0).1)) ∧
    (∀ (s : State) (t : Nat) (r : CmdRef), s.skipPending t = true ∨ s.arbitrate 8 (bankTarget t) = .superseded →
      s.orderSwap t (some r) false 0 = (s.complete r St.superseded 0, St.superseded)) ∧
    (∀ (s : State) (t : Nat) (r : CmdRef), s.skipPending t = false → s.arbitrate 8 (bankTarget t) = .proceed → (s.bank t).shadow = 3 →
      s.cfg.swaps = [] → ((s.orderSwap t (some r) false 0).1.bank t).lastStatus = 0x4F ∧ (s.orderSwap t (some r) false 0).1.cfg.swaps = []) ∧
    (∀ (c : Fin 16) (g : ClusterCfg), tfind s.cfg.clusterShadows c.val = some g → (∃ w ∈ s.cfg.swaps, w.target = c.val ∧ w.phase = 1) →
      s.swapBoundary c.val g = true → (∀ n, n < 64 → s.sliceChanges c.val g n = false) →
      ∃ u : State, exec (.clusterSwapInstall c) s = .next (((u.endSwap c.val St.completed).tilesChanged c.val).pumpAll) ∧ u.ccfg c.val = g ∧
        tfind u.cfg.clusterShadows c.val = some (s.ccfg c.val) ∧ (u.bank c.val).activeId = g.id ∧ u.tiles = s.tiles ∧ u.mem = s.mem) ∧
    (∀ (s : State) (t st : Nat), (∀ w ∈ (s.endSwap t st).cfg.swaps, w.target ≠ t) ∧ ((s.endSwap t st).bank t).lastStatus = st ∧
      ((s.endSwap t st).bank t).pending = false) ∧
    (s.compDown 36 = false → (∀ c, c < 16 → (s.router c).shadowValid = true) → s.mesh.installing = [] → s.cfg.swaps = [] →
      ∃ u, exec .epochFlip s = .next u ∧ u.mesh.epoch = !s.mesh.epoch ∧ (∀ c, c < 16 → (u.router c).shadowValid = false ∧
        (u.router c).bank0 = (s.router c).bank0 ∧ (u.router c).bank1 = (s.router c).bank1) ∧ u.mem = s.mem ∧ u.tiles = s.tiles) ∧
    (s.compDown 36 = true ∨ (∃ c, c < 16 ∧ (s.router c).shadowValid = false) → exec .epochFlip s = .next s)

/-- Power-good and stage 1 (16 R368, R371, R382-R386, 21 R480): power-good starts the timestamp at 0 and stage 0; the ledger read makes the boot
map, muffles what is not clean and ends a chip reset under way; a permanent unit changes the floor plan; a stage out of time reports so and ends: what follows its end starts (log entry 126).
Stages 4 to 7 (16 R374-R379): the broadcast puts every cluster in carillon mode and starts stage 5; a cluster that runs is tested at
1.000 GHz once its retests do not hold it, its tiles without the service code failing, and is ready;
a channel that trains is written whole and zero; a ring port that does not pass keeps trying. When stage 0 ends is the model's choice (log
entry 41), as is when a chip reset under way ends (log entry 42). -/
def Obligations.PowerGoodToBringUp : Prop :=
  (∀ s : State,
      (s.pwr.on = true → s.boot.powerGood = false → exec .powerGood s = .next s.powerGood) ∧
      (s.boot.powerGood = true → exec .powerGood s = .next s) ∧
      (s.boot.powerGood = true → s.stageOpen 1 0 = true → s.ledger.copyA = [] → s.ledger.copyB = [] → s.ledger.work = [] →
        s.boot.cause = 1 → (∀ p, p < 4 → (s.port p).perst = true) → ∀ q : State, { s with
          ledger := { s.ledger with retests := [] }, boot := { s.boot with fpValid := true }
          orders := s.orders.filter (fun o => o.target != 16) } = q →
        exec .bootLedgerRead s = .next ((q.refreshFp.stageReport 1 0 0 0).answer waitModule St.completed)) ∧
      (s.boot.powerGood = true → s.stageOpen 1 0 = true → ∃ (u w : State) (hurt : Bool),
        (u.refreshFp.stageReport 1 0 (b2n hurt) (if hurt then 0xD3 else 0)).answer waitModule St.completed = w ∧ exec .bootLedgerRead s =
          .next (w.startAfter 1)) ∧
      (s.boot.powerGood = false → exec .bootLedgerRead s = .next s) ∧
      (s.boot.fpValid = true → s.health.fpStale = true → exec .floorplanChange s = .next s.refreshFp) ∧
      (s.refreshFp.boot.fpSeq = wrapAdd 32 s.boot.fpSeq 1 ∧ s.refreshFp.health.fpStale = false ∧ s.refreshFp.mem = s.mem ∧
        s.refreshFp.tiles = s.tiles) ∧
      (∀ stage idx : Nat, s.stageOpen stage idx = true → idx ∈ stageUnits stage →
        exec (.stageBound stage idx) s = .next ((s.stageReport stage idx 3 0).startAfter stage)) ∧
      (∀ (s : State) (stage u : Nat), stage = 1 ∨ stage = 4 → (if stage = 1 then u < 4 ∧ (s.port u).perst = false else u < 16) →
        thas s.boot.starts (stageKey (stage + 1) u) = false → tget (s.startAfter stage).boot.starts (stageKey (stage + 1) u) 0 = s.now ∧
        (s.startAfter stage).mem = s.mem ∧ (s.startAfter stage).tiles = s.tiles) ∧
      (∀ (s : State) (stage : Nat), stage ≠ 1 → stage ≠ 4 → s.startAfter stage = s) ∧
      (∀ (s : State) (stage idx : Nat), thas (s.stageReport stage idx 3 0).boot.reports (stageKey stage idx) = true ∧
        (s.stageReport stage idx 3 0).boot.finished = s.boot.finished ∧ (s.stageReport stage idx 3 0).mem = s.mem)) ∧
  (∀ s : State,
      (s.boot.bundle = true → s.stageOpen 4 0 = true → s.pealSlices = none → exec .carillonBroadcast s =
        .next (((s.each (List.range 16) (fun s c => s.updClX c (fun x => { x with carState := 2, bySched := true, carForced := false }))).stageReport
          4 0 0 0).startAfter 4)) ∧
      (s.stageOpen 4 0 = false → exec .carillonBroadcast s = .next s) ∧
      (∀ (c : Fin 16) (pass : Bool), (s.clock c.val).code ≠ 40 → exec (.clusterSelfTest c pass) s = .next s) ∧
      (∀ (c : Fin 16) (q : State), s.stageOpen 5 c.val = true → (s.clock c.val).code = 40 → s.failUncoded c.val = q →
        exec (.clusterSelfTest c false) s = .next (s.stageReport 5 c.val 2 St.pealPartial) ∧
        (q.retestsHold c.val = true → exec (.clusterSelfTest c true) s = .next q) ∧
        (q.retestsHold c.val = false → (tilesOf c.val).all (fun ta => q.muffledTile ta) = true →
          exec (.clusterSelfTest c true) s = .next (q.stageReport 5 c.val 2 St.unitMuffled)) ∧
        (q.retestsHold c.val = false → (tilesOf c.val).all (fun ta => q.muffledTile ta) = false → ∃ u v : State, exec (.clusterSelfTest c true) s = .next v.refreshFp ∧
          (u.clY c.val).ready = true ∧ (u.clY c.val).readyTs = q.now ∧ u.boot.readyClusters = q.boot.readyClusters ||| 2 ^ c.val ∧
          v.boot.reports = ((u.stageReport 5 c.val 0 0).tilesChanged c.val).boot.reports)) ∧
      (∀ chan : Nat, chan < 192 → s.boot.bundle = true → (s.chan chan).st = 0 → (∃ n, n < 16 ∧ n ≠ chan % 16 ∧ (s.chan (16 * (chan / 16) + n)).st = 0) →
        ∃ u, exec (.memoryTraining chan true) s = .next u ∧ (u.chan chan).st = 1 ∧ u.mem.bytes = s.mem.bytes.filter (fun e => !inChan chan e.1) ∧
          u.tiles = s.tiles ∧ u.boot = s.boot) ∧
      (∀ port : Fin 4, exec (.ringPortTraining port false) s = .next (s.portReady port.val false)))

/-- Firmware (18 R411-R416, R424): a PF's load takes its staged bytes while none is verified; a failing check shows its status and drops them; a
trap takes its component down and is logged, the third in a minute fails it; an enabled trace point (R420) writes one entry, at most 64 of a
component in a millisecond; a restart brings it up, once its supervisor is up; a tile's thread 3 starts again. -/
def Obligations.FirmwareAndComponents : Prop :=
  ∀ s : State,
    (∀ (port : Fin 4) (val : Dword), s.boot.done.testBit 1 = true → (s.loader port.val).go = false → bf val 32 25 ≤ 16777216 →
      val.toNat.testBit 0 = true →
      (s.boot.bundle = false → s.fw.loadBy = none → s.stageOpen 3 0 = true → ∃ u, exec (.fwLoad (.pf port) val) s = .next u ∧
        (u.loader port.val).go = true ∧ u.fw.loadBy = some port.val ∧ u.fw.storeLen = bf val 32 25 ∧
        u.fw.store = mslice (s.loader port.val).buf 0 (bf val 32 25) 0 ∧ u.mem = s.mem) ∧
      (s.boot.bundle = true → ∃ u, exec (.fwLoad (.pf port) val) s = .next u ∧ (u.loader port.val).result = 0xE4 ∧ u.fw.store = s.fw.store)) ∧
    (∀ p st : Nat, s.fw.loadBy = some p → fwCheck s.fw.store s.fw.storeLen s.fw.svnFloor = st → st ≠ 0 →
      ∃ u, exec .fwVerified s = .next u ∧ (u.loader p).go = false ∧ (u.loader p).result = st ∧ u.fw.store = [] ∧ u.fw.loadBy = none ∧
        u.boot = s.boot ∧ u.mem = s.mem) ∧
    (∀ (comp cause : Nat) (pc : Word) (addr : BitVec 48) (trace : List (Fin 1024 × BitVec 96)) (times : List Nat) (v u : State), comp < 304 →
      s.boot.bundle = true → s.compDown comp = false → s.tracePoints comp trace = v →
      v.now :: (tget v.fw.times comp []).filter (fun t => decide (v.now < t + 60000000000)) = times →
      ((compSet comp).foldl (fun (s : State) n => s.holdComp n) { v with fw := { v.fw with
        times := tset v.fw.times comp times, down := (v.fw.down ++ compSet comp).eraseDups } }).logComp (comp / 16) (comp % 16) 0xE6
        (if comp % 16 = 0 then 4 else cause) pc.toNat addr.toNat times.length = u →
      (times.length < 3 → exec (.componentTrap comp cause pc addr trace) s = .next u) ∧
      (3 ≤ times.length → exec (.componentTrap comp cause pc addr trace) s = .next (u.failComp comp))) ∧
    (∀ (comp n : Nat) (args : BitVec 96),
      (s.pointOn n = false → s.tracePoint comp n args = s) ∧
      (s.pointOn n = true → pointCore n = min (comp / 16) 3 →
        (64 ≤ s.tracedNow comp → (s.tracePoint comp n args).log.traceDrop = satAdd 16 s.log.traceDrop 1 ∧
          (s.tracePoint comp n args).log.ring = s.log.ring) ∧
        (s.tracedNow comp < 64 → (s.tracePoint comp n args).log.ring =
            (logEntry 0x07 (coreCode (comp / 16)) (comp % 16) 0 0 (s.log.nextSeq % 2 ^ 32) s.now
              (pack [(10, n), (22, 0), (96, args.toNat)] % 2 ^ 128) :: s.log.ring).take 32768 ∧
          (s.tracePoint comp n args).tracedNow comp = s.tracedNow comp + 1 ∧ (s.tracePoint comp n args).mem = s.mem ∧
          (s.tracePoint comp n args).tiles = s.tiles))) ∧
    (∀ comp : Nat, s.compDown comp = true → comp ∉ s.fw.dead → comp % 16 ≠ 0 → s.compDown (comp / 16 * 16) = false → comp ≠ 33 → comp ≠ 34 →
      ∃ u, exec (.componentRestart comp) s = .next u ∧ u.compDown comp = false ∧ u.fw.restarts = satAdd 16 s.fw.restarts 1 ∧
        u.mem = s.mem ∧ u.tiles = s.tiles) ∧
    (∀ (t : TileId) (cause : Nat) (pc : Word) (addr : BitVec 48), (s.tile (tileKey t)).test.faults3 = [] → (s.tile (tileKey t)).test.capture = none →
      (s.clX t.c.val).checks = [] → s.health.slices = [] → ∃ u, exec (.thread3Fault t cause pc addr) s = .next u ∧
        (u.tile (tileKey t)).thread 3 = Thread.reset ∧ (u.tile (tileKey t)).test.faults3 = [s.now] ∧
        (u.tile (tileKey t)).core.pad = (s.tile (tileKey t)).core.pad ∧ u.mem = s.mem) ∧
    (∀ temp : Nat, s.boot.powerGood = true → 105 ≤ temp → exec (.thermalTrip temp) s = .next ((({ s with
      smbus := { s.smbus with causes := s.smbus.causes ||| 2, junction := temp % 256 } }.event 0xE9 0).emit (.alert true)).orderChipReset true).1) ∧
    (∀ temp : Nat, temp < 105 → exec (.thermalTrip temp) s = .next s)

/-- The wavelengths of the ring (19 R429-R433): a wavelength order takes it out of use, a lock lost twice in 60 s and a high symbol error
average confirm an error, a frame in sequence is acknowledged, a bad codeword is answered by NAK; the third passed retest readmits. -/
def Obligations.RingWavelengths : Prop :=
  ∀ (s : State) (port : Fin 4) (w : Nat), w < 34 →
    ((s.wave (waveNo port.val w)).muffled = false → exec (.wavelengthMuffle port w) s = .next (s.muffleWave (waveNo port.val w))) ∧
    ((s.wave (waveNo port.val w)).muffled = true → exec (.wavelengthMuffle port w) s = .next s) ∧
    ((s.wave (waveNo port.val w)).carry = false → ∀ n, ((s.muffleWave n).mem = s.mem ∧ (s.muffleWave n).tiles = s.tiles ∧
      (n = waveNo port.val w → ((s.muffleWave n).wave n).muffled = true ∧ ((s.muffleWave n).wave n).replay = []))) ∧
    ((∀ t, (s.wave (waveNo port.val w)).lossAt = some t → t + 60 ≤ s.ledger.opSec) → ∃ u, exec (.lossOfLock port w) s = .next u ∧
      (u.wave (waveNo port.val w)).lossAt = some s.ledger.opSec ∧ (u.wave (waveNo port.val w)).carry = (s.wave (waveNo port.val w)).carry ∧
      u.log = s.log ∧ u.ledger = s.ledger ∧ u.mem = s.mem) ∧
    (∀ ppb : Nat, (240000 < ppb → exec (.symbolErrorAverage port w ppb) s = .next (s.confirm 8 (waveNo port.val w) 5 0xB8)) ∧
      (ppb ≤ 240000 → exec (.symbolErrorAverage port w ppb) s = .next s)) ∧
    (∀ f : Nat, f.testBit 8 = false → field f 17 3 = 0 → field f 0 8 = ((s.wave (waveNo port.val w)).inOrder + 1) % 256 →
      ∃ u, exec (.frameReceive port w (some f)) s = .next u ∧ (u.wave (waveNo port.val w)).inOrder = ((s.wave (waveNo port.val w)).inOrder + 1) % 256 ∧
        (u.wave (waveNo port.val w)).acked = field f 9 8 ∧ u.out = s.out ∧ u.mem = s.mem) ∧
    (∀ f : Nat, f.testBit 8 = true → field f 17 3 = 1 → exec (.frameReceive port w (some f)) s = .next
      ((s.updWave (waveNo port.val w) (fun x => { x with acked := field f 9 8 })).resend port.val (waveNo port.val w) (field f 9 8))) ∧
    ((hourWindow s.ledger.opSec (s.wave (waveNo port.val w)).cwErrs).2 = false → ∃ u, exec (.frameReceive port w none) s = .next u ∧
      (u.rport port.val).uncorr = satAdd 16 (s.rport port.val).uncorr 1 ∧ u.log = s.log ∧ u.mem = s.mem) ∧
    (∀ n : Nat, s.boot.bundle = true → s.compDown 35 = false → (s.rport port.val).st = 2 → s.retestOf 8 (waveNo port.val w) = some n → n ≠ 1000 →
      (max n 1 < 3 → exec (.wavelengthRetest port w true) s = .next (s.setRetest 8 (waveNo port.val w) (some (max n 1 + 1)))) ∧
      (3 ≤ n → exec (.wavelengthRetest port w true) s = .next (s.retestPass 8 (waveNo port.val w))) ∧
      exec (.wavelengthRetest port w false) s = .next (s.retestFail 8 (waveNo port.val w)))

/-- Ring ports and the bypass (19 R436, R437, R439): a port whose transmitters pass is READY and with its partner opens the bypass; a READY port
whose neighbours agree wavelengths is LINKED; a lost link leaves it READY; the bypass closes while a cause holds; the census says which ring
is in service. GLB_RING_ID and GLB_RING_KEY (19 R438, R440, R448): the owner sets them while no operation needs the old value; a key of 0 or
one that another partition holds as valid is refused; another function changes nothing. -/
def Obligations.RingPortsAndRegisters : Prop :=
  (∀ s : State,
      (∀ port : Fin 4, (s.rport port.val).st = 0 → 7 ≤ s.boot.stage → exec (.portReady port true) s =
        .next ((s.updRport port.val (fun q => { q with st := 1 })).openBypass (port.val / 2))) ∧
      (∀ port : Fin 4, (s.rport port.val).st = 1 → ∃ u, exec (.portReady port false) s = .next u ∧ (u.rport port.val).st = 0 ∧
        u.ring.waves = s.ring.waves ∧ u.mem = s.mem ∧ u.tiles = s.tiles) ∧
      (∀ r : Fin 2, s.mayOpen r.val = true → (∀ p, p / 2 = r.val → ((s.openBypass r.val).rport p).bypassOpen = true ∧
        ((s.openBypass r.val).rport p).st = (s.rport p).st) ∧ exec (.bypassClose r) s = .next s) ∧
      (∀ r : Fin 2, s.mayOpen r.val = false → s.openBypass r.val = s ∧ exec (.bypassClose r) s = .next (s.closeBypass r.val)) ∧
      (∀ port : Fin 4, (s.rport port.val).st = 2 → exec (.lossOfLink port) s = .next (s.loseLink port.val) ∧
        ((s.loseLink port.val).rport port.val).st = 1 ∧
        (∀ w, w < 34 → ((s.loseLink port.val).wave (waveNo port.val w)).carry = false) ∧ (s.loseLink port.val).mem = s.mem) ∧
      (∀ port : Fin 4, (s.rport port.val).st ≠ 2 → exec (.lossOfLink port) s = .next s) ∧
      (∀ (port : Fin 4) (carry : Nat), ((s.rport port.val).st ≠ 1 ∨ (s.rport port.val).bypassOpen = false) →
        exec (.portLinked port carry) s = .next s) ∧
      (∀ port : Fin 4, (s.rport port.val).st = 1 → (s.rport port.val).bypassOpen = true → (s.rport port.val).held = [] →
        (∀ n, (s.wave n).muffled = false ∧ (s.wave n).replay = []) → ∃ u, exec (.portLinked port 0xFF) s = .next u ∧ (u.rport port.val).st = 2 ∧
          (∀ w, w < 8 → (u.wave (waveNo port.val w)).carry = true) ∧ (u.wave (waveNo port.val 8)).carry = false ∧ u.mem = s.mem) ∧
      (∀ (r : Fin 2) (returned : Bool) (mods : List (Nat × Nat × Bool)), s.ring.jobs = [] → ∃ u, exec (.census r returned mods) s = .next u ∧
        (u.ringOk r.val = true → returned = true ∧ s.ring.valid = true ∧ mods.length = s.ring.size1) ∧
        (mods.length + 1 = s.ring.size1 + 1 → s.ring.valid = true → returned = true →
          (∀ n, (h : n < mods.length) → mods[n] = ((s.ring.index + 1 + n) % (s.ring.size1 + 1), s.ring.size1, true)) → u.ringOk r.val = true) ∧
        u.ring.ports = s.ring.ports ∧ u.ring.waves = s.ring.waves ∧ u.mem = s.mem)) ∧
  (∀ (s : State) (fn : Fn) (val : Dword), s.boot.bundle = true ∨ fn = .net →
      (s.ownsG fn = true → s.ring.jobs = [] → exec (.ringIdWrite fn val) s = .next ({ s.unlatch fn with
        ring := { s.ring with index := bf val 0 6, size1 := bf val 6 6, valid := val.toNat.testBit 12 } })) ∧
      (s.ownsG fn = true → s.ring.jobs ≠ [] → exec (.ringIdWrite fn val) s = .next ((s.unlatch fn).refuseG fn 0x70 3 val.toNat)) ∧
      (s.ownsG fn = false → exec (.ringIdWrite fn val) s = .next ((s.unlatch fn).refuseG fn 0x70 2 val.toNat)) ∧
      (∀ p : Fin 16, s.ownsG fn = true → s.ring.jobs = [] → (s.unlatch fn).arbitrate 8 (.part p.val) = .proceed →
        (bf val 0 16 ≠ 0 → (∀ e ∈ s.ring.keys, e.1 ≠ p.val → e.2 ≠ (bf val 0 16, true)) → exec (.ringKeyWrite fn p val) s = .next ({ s.unlatch fn with
          ring := { s.ring with keys := tset s.ring.keys p.val (bf val 0 16, val.toNat.testBit 16) } })) ∧
        (bf val 0 16 = 0 ∨ (∃ e ∈ s.ring.keys, e.1 ≠ p.val ∧ e.2 = (bf val 0 16, true)) →
          exec (.ringKeyWrite fn p val) s = .next ((s.unlatch fn).refuseG fn (0x200 + 8 * p.val) 6 val.toNat))) ∧
      (∀ p : Fin 16, s.ownsG fn = false → exec (.ringKeyWrite fn p val) s = .next ((s.unlatch fn).refuseG fn (0x200 + 8 * p.val) 2 val.toNat)))

/-- Ring packets and RING_OP (19 R440-R447): a packet for another module is forwarded, one whose key no partition holds is a key violation, one
whose job disagrees ends it with 0xF3; an inconsistent RING_OP completes with RING_CONFIG, one without a ring with RING_DOWN; a fifth
on a cluster waits; a consistent one whose buffers are reached is in progress; what has sent and received everything writes its destination and completes, unless a region lock holds its buffers or its source
is lost; a preemption abandons what runs on for 50 ms. How a job's parts travel, and what a lost source does, are the model's choice (log
entries 40 and 129). -/
def Obligations.RingOperations : Prop :=
  ∀ s : State,
    (∀ (port : Fin 4) (packet : Nat) (agree : Bool), (s.rport port.val).st = 2 →
      (field (field packet 0 256) 12 6 ≠ s.ring.index → field (field packet 0 256) 0 4 = 0 →
        exec (.ringPacket port packet agree) s = .next (s.sendRing (port.val ^^^ 1) packet (32 + field (field packet 0 256) 96 14))) ∧
      (field (field packet 0 256) 12 6 = s.ring.index → field (field packet 0 256) 0 4 = 0 →
        (s.ringKeyOwner (field (field packet 0 256) 20 16) = none → ∀ q : FaultRec, { FaultRec.of St.keyViolation 4 with detail := keyDetail 4 port.val (BitVec.ofNat 12 (field (field packet 0 256) 20 16)) none 3 0 0 } = q →
          exec (.ringPacket port packet agree) s = .next (s.raise q)) ∧
        (∀ (p : Nat) (j : RingJob), s.ringKeyOwner (field (field packet 0 256) 20 16) = some p →
          s.jobOf p (field (field packet 0 256) 36 16) = some j →
          (agree = false → exec (.ringPacket port packet agree) s = .next (s.endJob j 0xF3)) ∧
          (agree = true → field (field packet 0 256) 52 4 = ringOpc j.cmd.bits → exec (.ringPacket port packet agree) s = .next (s.jobPacket j
            (field packet 0 256) (leBytes (min (field (field packet 0 256) 96 14) 8192) (field packet 256 65536))))))) ∧
    (∀ (p : Fin 16) (k : Fin 64), s.fetchedCmd p.val k.val 2 0x20 = none → exec (.ringOp p k) s = .next s) ∧
    (∀ (p : Fin 16) (k : Fin 64) (r : CmdRef), s.fetchedCmd p.val k.val 2 0x20 = some r →
      (4 ≤ (s.ring.jobs.filter (fun j => j.cluster == bf r.bits 64 4)).length → exec (.ringOp p k) s = .next s) ∧
      ((s.ring.jobs.filter (fun j => j.cluster == bf r.bits 64 4)).length < 4 → s.isolated (bf r.bits 64 4) 2 0 k.val = false →
        ((s.startCmd r).clY (bf r.bits 64 4)).ready = true →
        ((s.startCmd r).ringConsistent p.val r.bits = false → exec (.ringOp p k) s =
          .next (((s.startCmd r).updClY (bf r.bits 64 4) (fun y => { y with ringLast := 0xF1 })).complete r 0xF1 0)) ∧
        ((s.startCmd r).ringConsistent p.val r.bits = true →
          ((ringsOf r.bits).all (fun g => !(s.startCmd r).ringOk g) = true → exec (.ringOp p k) s =
            .next (((s.startCmd r).updClY (bf r.bits 64 4) (fun y => { y with ringLast := 0xF2 })).complete r 0xF2 0)) ∧
          ((ringsOf r.bits).all (fun g => !(s.startCmd r).ringOk g) = false →
            ∀ (a b v : State) (src dst : List (Nat × Nat)),
              (s.startCmd r).ringPages ((s.startCmd r).identOf r) false ((ringSizes r.bits).1 / 65536 + 2) (bf r.bits 128 48) (ringSizes r.bits).1 = (a, .ok src) →
              a.ringPages ((s.startCmd r).identOf r) true ((ringSizes r.bits).2 / 65536 + 2) (bf r.bits 192 48) (ringSizes r.bits).2 = (b, .ok dst) →
              b.reachAll (bf r.bits 64 4) ((s.startCmd r).identOf r) 3 0 ((src ++ dst).map (·.1)) = (v, 0) →
              ∀ j : RingJob,
              { cmd := r, owner := (s.startCmd r).identOf r, cluster := bf r.bits 64 4, src := src, dst := dst
                credits := [], unacked := [], data := [], sent := [], seqOut := [], seqIn := [], preemptAt := none } = j →
              exec (.ringOp p k) s = .next (v.beginJob j))))) ∧
    (∀ (p : Fin 16) (k : Fin 64) (q : State),
      (s.ring.jobs.filter (fun j => j.cmd.part == p.val && j.cmd.ctx == k.val)).foldl (fun s j => s.pushJob j) s = q →
      (q.ring.jobs.find? (fun j => j.cmd.part == p.val && j.cmd.ctx == k.val && q.jobDone j && !q.jobHeld j) = none →
        exec (.ringDone p k) s = .next q) ∧
      (∀ j : RingJob, q.ring.jobs.find? (fun j => j.cmd.part == p.val && j.cmd.ctx == k.val && q.jobDone j && !q.jobHeld j) = some j →
        (q.lostRead (q.ownRanges j) = true → exec (.ringDone p k) s = .next (q.loseJob j (q.ownRanges j))) ∧
        (q.lostRead (q.ownRanges j) = false → exec (.ringDone p k) s =
          .next ((((q.drew (q.jobResult j).2).writePages j.dst (q.jobResult j).1).takeJob j 0xF0).complete j.cmd 0xF0 0)))) ∧
    (∀ (p : Fin 16) (k : Fin 64) (j : RingJob), s.ring.jobs = [j] → j.cmd.part = p.val → j.cmd.ctx = k.val →
      (j.preemptAt = none → exec (.ringOpPreemptLimit p k) s = .next s) ∧
      (∀ t, j.preemptAt = some t →
        (s.now < t + 50000000 → exec (.ringOpPreemptLimit p k) s = .next s) ∧
        (t + 50000000 ≤ s.now → exec (.ringOpPreemptLimit p k) s = .next ((s.dropJob j St.preempted).leaveCmd (some j.cmd)))))

/-- BAR0 (00 R10-R14, 11 R253, 16 R372, 22 R495): an access that is not of 4 or 8 aligned bytes is logged at the offset in the function's own
BAR0 and changes nothing else, and a read of it answers all ones; an aligned access of 4 or 8 bytes is one whatever command carries it; an
offset without a register takes no write; an owner's write sets the fields, clears what it writes 1 to, or is refused by value, and the log
holds the offset and the value written; a 4-byte read of a low half latches the high one, an 8-byte read gives one value, and a read in a
partition's block that its function does not own is an Unsupported Request. The owner that an access event names for an access of R10 is the
model's choice (log entry 13). -/
def Obligations.RegisterAccesses : Prop :=
  ∀ (s : State) (fn : Fn),
    (∀ (off : Nat) (z : Size) (val : Dword), regular off (sizeBytes z) = false →
      exec (.registerWrite fn off z val) s = .next ((s.unlatch fn).irregular fn off (val.toNat % 2 ^ (8 * sizeBytes z)))) ∧
    (∀ (off len : Nat) (val : Dword),
      (regular off len = true → exec (.bar0IrregularAccess fn off len true val) s = .next ((s.unlatch fn).withAccess off (val.toNat % 2 ^ (8 * len))
        (fun t => t.writeSlot fn off len (val.toNat % 2 ^ (8 * len))))) ∧
      (regular off len = false →
        exec (.bar0IrregularAccess fn off len true val) s = .next ((s.unlatch fn).irregular fn off (val.toNat % 2 ^ (8 * len))) ∧
        exec (.bar0IrregularAccess fn off len false val) s =
          .next (((s.unlatch fn).irregular fn off 0).readBack fn len (2 ^ (8 * len) - 1)))) ∧
    (∀ (off v : Nat), (s.irregular fn off v).log = (s.log_ 0x06 3 0 16
        (pack [(32, off), (7, fnCode fn), (1, b2n (fn == .net)), (7, 0x7F), (1, 0), (8, 0), (8, 1), (64, v)])).log ∧
      (s.irregular fn off v).hosts = { s.hosts with acc := none } ∧ (s.irregular fn off v).mem = s.mem ∧ (s.irregular fn off v).out = s.out ∧
      (s.irregular fn off v).ctxs = s.ctxs ∧ (s.irregular fn off v).tiles = s.tiles ∧ (s.irregular fn off v).pwr = s.pwr) ∧
    (∀ (off v reason : Nat), (s.withAccess off v (fun t => t.refuseG fn off reason v)).log = (s.log_ 0x06 3 0 16
        (pack [(32, off), (7, fnCode fn), (1, b2n (fn == .net)), (7, s.ownerG), (1, 0), (8, 0), (8, reason), (64, v)])).log ∧
      (s.withAccess off v (fun t => t.refuseG fn off reason v)).pwr = s.pwr ∧
      (s.withAccess off v (fun t => t.refuseG fn off reason v)).mem = s.mem) ∧
    (∀ (off : Nat) (z : Size) (val : Dword), regular off (sizeBytes z) = true → s.mapOff fn off = none →
      exec (.registerWrite fn off z val) s = .next { s.unlatch fn with hosts := { (s.unlatch fn).hosts with acc := none } }) ∧
    (∀ val : Dword, s.boot.bundle = true → s.ownsG fn = true →
      (800 ≤ bf val 0 12 → bf val 0 12 ≤ 2000 → ∃ u, exec (.registerWrite fn 0x38 .b8 val) s = .next u ∧ u.pwr.capW = bf val 0 12 ∧
        u.log = s.log ∧ u.mem = s.mem ∧ u.tiles = s.tiles) ∧
      (bf val 0 12 < 800 ∨ 2000 < bf val 0 12 →
        exec (.registerWrite fn 0x38 .b8 val) s = .next ((s.unlatch fn).withAccess 0x38 val.toNat (fun t => t.refuseG fn 0x38 6 val.toNat))) ∧
      (∃ u, exec (.registerWrite fn 0x48 .b8 val) s = .next u ∧ u.pwr.inputEvt = (s.pwr.inputEvt && !val.toNat.testBit 32) ∧
        u.pwr.coolantEvt = (s.pwr.coolantEvt && !val.toNat.testBit 33) ∧ u.pwr.railEvt = (s.pwr.railEvt && !val.toNat.testBit 34) ∧
        u.log = s.log ∧ u.mem = s.mem) ∧
      exec (.registerWrite fn 0x00 .b8 val) s = .next { s.unlatch fn with hosts := { (s.unlatch fn).hosts with acc := none } }) ∧
    (∀ (p : Fin 4) (val : Dword), fn = .pf p → s.boot.bundle = true → s.ownsG fn = false →
      exec (.registerWrite fn 0x38 .b8 val) s = .next ((s.unlatch fn).withAccess 0x38 val.toNat (fun t => t.refuseG fn 0x38 2 val.toNat))) ∧
    (∀ (p : Fin 4) (val : Dword), fn = .pf p → s.boot.bundle = false →
      exec (.registerWrite fn 0x38 .b8 val) s = .next ((s.unlatch fn).withAccess 0x38 val.toNat (fun t => t.refuseG fn 0x38 3 val.toNat))) ∧
    (∀ p : Fin 4, fn = .pf p →
      (∀ off : Nat, off % 4 ≠ 0 → exec (.lowHalfRead fn off) s =
        .next (((s.unlatch fn).irregular fn off 0).emit (.readData p.val 4 0xFFFFFFFF))) ∧
      (∀ off : Nat, off % 8 = 4 → s.hosts.latch = [] → s.unowned fn off = false → exec (.lowHalfRead fn off) s =
        .next ((s.unlatch fn).emit (.readData p.val 4 (s.slotVal fn off / 2 ^ 32)))) ∧
      (∀ (off : Nat) (val : Dword), off % 8 = 0 → s.unowned fn off = false → exec (.bar0IrregularAccess fn off 8 false val) s =
        .next ((s.unlatch fn).emit (.readData p.val 8 (s.slotVal fn off)))) ∧
      (∀ (off : Nat) (val : Dword), off % 4 = 0 → s.unowned fn off = true →
        exec (.lowHalfRead fn off) s = .next ((s.unlatch fn).emit (.unsupported p.val)) ∧
        (off % 8 = 0 → exec (.bar0IrregularAccess fn off 8 false val) s = .next ((s.unlatch fn).emit (.unsupported p.val)))) ∧
      (∀ q x : Nat, q < 16 → x < 0x10000 → s.unowned fn (0x10000 * (q + 1) + x) = (s.boot.bundle && !s.ownsP fn q)) ∧
      (∀ q x : Nat, q < 16 → x < 0x4000 → s.unowned fn (0x200000 + 0x4000 * q + x) = (s.boot.bundle && !s.ownsP fn q)) ∧
      (∃ u w : State, exec (.lowHalfRead fn 0x10) s = .next u ∧ u.out = .readData p.val 4 (s.slotVal fn 0x10 % 2 ^ 32) :: s.out ∧
        u.log = s.log ∧ exec (.lowHalfRead fn 0x14) u = .next w ∧
        w.out = .readData p.val 4 (s.slotVal fn 0x10 / 2 ^ 32) :: u.out ∧ w.hosts.latch = tdel s.hosts.latch (fnCode fn)))

/-- The resets of a host port and its link (11 R254, 16 R368, R370, 20 R451, R453): PERST, a hot reset, the loss of the link and a reset of the
PF reset the port's registers and order partition resets of what it owns; a VF's reset resets its own, where a partition holds that VF; D3hot of a PF does the same. -/
def Obligations.HostPortResets : Prop :=
  ∀ (s : State) (port : Fin 4),
    (((s.port port.val).perst = false → ∃ u, exec (.perst port) s = .next u ∧ (u.port port.val).perst = true ∧ (u.port port.val).l0 = false ∧
      (u.port port.val).up = false ∧ u.boot.pcieUp.testBit port.val = false ∧ u.stager port.val = Stager.reset ∧
      u.loader port.val = FwStager.reset ∧ (∀ e ∈ u.hosts.windows, e.1 / 16 ≠ port.val) ∧ (∀ e ∈ u.hosts.msix, e.1 / 34816 ≠ port.val))) ∧
    ((s.port port.val).perst = true → s.boot.done.testBit 1 = false → ∃ u, exec (.perstDeassert port) s = .next u ∧
      (u.port port.val).perst = false ∧ (u.port port.val).up = (s.port port.val).up ∧ u.boot = s.boot ∧ u.mem = s.mem) ∧
    ((s.port port.val).perst = true → s.boot.done.testBit 1 = true →
      exec (.perstDeassert port) s = .next ((s.updPort port.val (fun q => { q with perst := false })).startStage 2 port.val)) ∧
    ((s.port port.val).perst = false → s.boot.done.testBit 1 = true → s.stageOpen 2 port.val = false →
      ∃ u, exec (.linkTrainingComplete port true) s = .next u ∧ (u.port port.val).l0 = true ∧ (u.port port.val).up = true ∧
        u.boot.pcieUp = s.boot.pcieUp ||| 2 ^ port.val ∧ u.mem = s.mem) ∧
    (exec (.linkTrainingComplete port false) s = .next s) ∧
    ((s.port port.val).l0 = true →
      exec (.dlDown port) s = .next ((s.portEvent port.val).updPort port.val (fun q => { q with l0 := false })) ∧
      exec (.hotReset port) s = .next (s.portEvent port.val) ∧
      exec (.functionLevelReset port 0) s = .next (s.portEvent port.val) ∧
      (∀ f : Fin 17, f.val ≠ 0 →
        (s.fnEnabled port.val f.val = true → ∀ q : State, (s.cfg.dev.parts.filter (fun e => e.2.owner == port.val && e.2.vf == f.val)).foldl
          (fun v e => (v.orderPartReset e.1 false).1) s = q → exec (.functionLevelReset port f) s =
            .next ((fun q : State => { q with hosts := { q.hosts with
              msix := q.hosts.msix.filter (fun e => e.1 / 2048 != port.val * 17 + f.val) } }) q)) ∧
        (s.fnEnabled port.val f.val = false → exec (.functionLevelReset port f) s = .next s)) ∧
      ((s.port port.val).d3 = [] → (∀ f : Fin 17, f.val ≠ 0 → s.fnEnabled port.val f.val = true →
        exec (.d3hotEntry port f) s = .next (s.updPort port.val (fun q => { q with d3 := q.d3 ++ [f.val] }))) ∧
        exec (.d3hotEntry port 0) s = .next ((s.portEvent port.val).updPort port.val (fun q => { q with d3 := q.d3 ++ [0] })))) ∧
    ((s.port port.val).l0 = false → exec (.hotReset port) s = .next s ∧ exec (.dlDown port) s = .next s)

/-- Configuration requests, MSI-X and BAR2 (16 R370, 20 R451-R455, 07 R179): Request Retry Status before the link is up; a function
that is not enabled answers Unsupported Request (log entry 43); an unmasked vector sends its pending message; a window binds only to a context
of a partition the port owns, at a multiple of its size; a BAR2 access without binding, translation or way is discarded, a read answered
Unsupported Request, one into a locked region waits at its port; poison is returned as poisoned. The layout of configuration space is free
(log entry 43). -/
def Obligations.HostPortAccesses : Prop :=
  ∀ (s : State) (port : Fin 4),
    (∀ (f : Fin 17) (off : Nat) (write : Bool) (val : Word), (s.port port.val).up = false →
      exec (.configurationRequest port f off write val) s =
      .next ((s.unlatch (fnOf port f)).emit (.retryStatus port.val))) ∧
    (∀ (f : Fin 17) (off : Nat) (val : Word), (s.port port.val).up = true →
      (s.fnEnabled port.val f.val = true → exec (.configurationRequest port f off false val) s =
        .next ((s.unlatch (fnOf port f)).emit (.readData port.val 4 (Config.cfgSpace f.val off).toNat))) ∧
      (∀ write, s.fnEnabled port.val f.val = false → exec (.configurationRequest port f off write val) s =
        .next ((s.unlatch (fnOf port f)).emit (.unsupported port.val)))) ∧
    (∀ (f : Fin 17) (vec : Nat), vec < (if f.val = 0 then 1048 else 65) → s.fnEnabled port.val f.val = true → ∃ u, exec (.msixUnmask port f vec) s = .next u ∧
      tget u.hosts.msix (msixKey port.val f.val vec) (true, true) = (false, false) ∧ u.mem = s.mem ∧
      u.out = if (tget s.hosts.msix (msixKey port.val f.val vec) (false, false)).2 then .interrupt port.val f.val vec :: s.out else s.out) ∧
    (∀ (w : Fin 16) (val : Dword), s.boot.bundle = true → ∃ u, exec (.bar2WindowBind port w val) s = .next u ∧ u.mem = s.mem ∧ u.ctxs = s.ctxs ∧
      (u.window port.val w.val).part = bf val 1 4 ∧ (u.window port.val w.val).ctx = bf val 5 6 ∧
      (u.window port.val w.val).va = bf val 30 18 * 2 ^ 30 ∧
      ((u.window port.val w.val).valid = true ↔ (∃ r, s.prec (bf val 1 4) = some r ∧ r.owner = port.val) ∧
        (s.ctx (bf val 1 4) (bf val 5 6)).st ≠ 0 ∧ bf val 30 18 * 2 ^ 30 % s.winSize port.val = 0)) ∧
    (∀ size : Nat, 30 ≤ size → size ≤ 39 → ∃ u, exec (.resizableBarChange port size) s = .next u ∧ (u.port port.val).bar2 = size ∧
      (∀ e ∈ u.hosts.windows, e.1 / 16 = port.val → e.2.valid = false) ∧ u.mem = s.mem) ∧
    (∀ (x : Bar2Op) (t q : State) (l : List (Nat × Nat)), (s.port port.val).up = true → (s.port port.val).held = [] →
      (s.unlatch (.pf port)).updPort port.val (fun y => { y with held := [x] }) = q →
      (x = { write := false, addr := x.addr, len := x.len, data := [] } →
        (q.bar2Look port.val x = (t, .fails) → exec (.bar2Read port x.addr x.len) s =
          .next ((t.updPort port.val (fun y => { y with held := [] })).emit (.unsupported port.val))) ∧
        (q.bar2Look port.val x = (t, .waits) → exec (.bar2Read port x.addr x.len) s = .next t) ∧
        (q.bar2Look port.val x = (t, .pages l) →
          (l.any (fun g => t.poisoned g.1 g.2) = true → exec (.bar2Read port x.addr x.len) s =
            .next ((t.updPort port.val (fun y => { y with held := [] })).emit (.readPoisoned port.val x.len))) ∧
          (l.any (fun g => t.poisoned g.1 g.2) = false → exec (.bar2Read port x.addr x.len) s =
            .next ((t.updPort port.val (fun y => { y with held := [] })).emit (.readData port.val x.len (leNat (t.readPages l 0 x.len))))))) ∧
      (x = { write := true, addr := x.addr, len := x.data.length, data := x.data } →
        (q.bar2Look port.val x = (t, .fails) → exec (.bar2Write port x.addr x.data) s =
          .next (t.updPort port.val (fun y => { y with held := [] }))) ∧
        (q.bar2Look port.val x = (t, .waits) → exec (.bar2Write port x.addr x.data) s = .next t) ∧
        (q.bar2Look port.val x = (t, .pages l) → exec (.bar2Write port x.addr x.data) s =
          .next ((t.updPort port.val (fun y => { y with held := [] })).bar2Store l x.data)))) ∧
    (∀ (x : Bar2Op) (q t v : State) (i : CtxId) (va n : Nat) (l : List (Nat × Nat)), n = (if x.write then x.data.length else x.len) →
      (q.bar2Va port.val x.addr n = none → q.bar2Look port.val x = (q, .fails)) ∧
      (q.bar2Va port.val x.addr n = some (i, va) →
        (∀ st, q.devPages i x.write (n / 65536 + 2) va n = (t, .error st) → q.bar2Look port.val x = (t, .fails)) ∧
        (q.devPages i x.write (n / 65536 + 2) va n = (t, .ok l) →
          ((∃ g ∈ l, t.locked g.1 g.2 x.write none = true) → q.bar2Look port.val x = (t, .waits)) ∧
          ((∀ g ∈ l, t.locked g.1 g.2 x.write none = false) →
            (t.reachAll (portNode port.val) i 4 0 (l.map (·.1)) = (v, 0) → q.bar2Look port.val x = (v, .pages l)) ∧
            (∀ st, st ≠ 0 → t.reachAll (portNode port.val) i 4 0 (l.map (·.1)) = (v, st) → q.bar2Look port.val x = (v, .fails))))))

/-- Requests of managers (20 R457, R458): while the port is down nothing happens; a wrong tag is dropped and counted; a sequence number not
above the highest is not performed again, its kept response is sent again. -/
def Obligations.BelfryRequests : Prop :=
  ∀ (s : State) (port : Fin 2) (seq : Nat) (mac src : BitVec 128) (payload : List Byte) (typ : Byte) (e : Instr × Nat × List Byte),
    managerType typ.toNat = false → e ∈ [
      (Instr.subscribe port seq mac src payload, 0x20, payload), (Instr.read port seq mac payload, 0x22, payload),
      (Instr.writeReg port seq mac payload, 0x23, payload), (Instr.orderChipReset port seq mac payload, 0x24, orderBytes 1 payload),
      (Instr.orderPartitionReset port seq mac payload, 0x24, orderBytes 2 payload),
      (Instr.orderEngineReset port seq mac payload, 0x24, orderBytes 3 payload),
      (Instr.orderContextReset port seq mac payload, 0x24, orderBytes 4 payload), (Instr.orderMuffle port seq mac payload, 0x24, orderBytes 5 payload),
      (Instr.orderPreempt port seq mac payload, 0x24, orderBytes 6 payload), (Instr.orderResume port seq mac payload, 0x24, orderBytes 7 payload),
      (Instr.orderReAdmit port seq mac payload, 0x24, orderBytes 8 payload), (Instr.stageData port seq mac payload, 0x25, payload),
      (Instr.stageGo port seq mac payload, 0x26, payload), (Instr.swap port seq mac payload, 0x27, payload),
      (Instr.owner port seq mac payload, 0x28, payload), (Instr.svnRaise port seq mac payload, 0x29, payload),
      (Instr.keySet port seq mac payload, 0x2A, payload), (Instr.belfryReservedType port typ seq mac payload, typ.toNat, payload)] →
    (s.bfUp port.val = false → exec e.1 s = .next s) ∧
    (s.bfUp port.val = true → mac ≠ s.tagOf e.2.1 port.val seq 0 e.2.2 → exec e.1 s =
      .next { s with belfry := { s.belfry with authFail := satAdd 16 s.belfry.authFail 1 } }) ∧
    (s.bfUp port.val = true → mac = s.tagOf e.2.1 port.val seq 0 e.2.2 → seq ≤ s.belfry.high →
      (s.belfry.kept.find? (fun k => k.1 == seq) = none → exec e.1 s = .next s) ∧
      (∀ k, s.belfry.kept.find? (fun k => k.1 == seq) = some k → exec e.1 s = .next (s.emit (.belfry port.val 0 k.2))))

/-- Accepted requests (16 R370, R373, 18 R412, 20 R457-R460): each sets what it names and answers COMPLETED, or answers why not, under the state
of bring-up in which it is taken; a reserved TYPE is refused. That SUBSCRIBE and OWNER are taken before stage 3 is the model's choice (log
entry 45), as is what KEY_SET answers (log entry 46). -/
def Obligations.BelfryResponses : Prop :=
  ∀ (s a : State) (port : Fin 2) (seq : Nat) (mac src : BitVec 128) (payload : List Byte), s.bfUp port.val = true → s.belfry.high < seq →
    s.accept seq = a →
    (mac = s.tagOf 0x20 port.val seq 0 payload → bfFits payload 8 (bitMask [(0, 16)]) = true → ∃ u : State, exec (.subscribe port seq mac src payload) s =
      .next (u.respond port.val 0x20 seq St.completed []) ∧ u.belfry.high = seq ∧ u.mem = s.mem ∧
      (if port.val = 0 then u.belfry.coll0 = some (src.toNat * 65536 + leNat payload) ∧ u.belfry.coll1 = s.belfry.coll1
        else u.belfry.coll1 = some (src.toNat * 65536 + leNat payload) ∧ u.belfry.coll0 = s.belfry.coll0)) ∧
    (mac = s.tagOf 0x22 port.val seq 0 payload →
      (s.readReady (field (leNat payload) 0 4) (field (leNat payload) 32 32) = false →
        exec (.read port seq mac payload) s = .next (a.respond port.val 0x22 seq 0xD0 [])) ∧
      (s.boot.bundle = true → bfFits payload 10 (bitMask [(0, 4), (32, 48)]) = true →
        (field (leNat payload) 0 4 < 4 → 0 < field (leNat payload) 64 16 → field (leNat payload) 64 16 ≤ 1024 →
          field (leNat payload) 32 32 + field (leNat payload) 64 16 ≤ objectSize (field (leNat payload) 0 4) →
          exec (.read port seq mac payload) s = .next (a.respond port.val 0x22 seq St.completed
            ((List.range (field (leNat payload) 64 16)).map (fun i => a.objectByte (field (leNat payload) 0 4) (field (leNat payload) 32 32 + i))))) ∧
        (field (leNat payload) 0 4 = 4 → field (leNat payload) 64 16 = 8 → field (leNat payload) 32 32 % 8 = 0 → field (leNat payload) 32 32 < 0x2000000 →
          exec (.read port seq mac payload) s =
            .next (a.respond port.val 0x22 seq St.completed (leBytes 8 (a.slotVal .net (field (leNat payload) 32 32))))))) ∧
    (mac = s.tagOf 0x23 port.val seq 0 payload → s.boot.bundle = true → bfFits payload 16 (bitMask [(0, 32), (64, 64)]) = true →
      (writable (field (leNat payload) 0 32) = true → exec (.writeReg port seq mac payload) s =
        .next ((a.writeSlot .net (field (leNat payload) 0 32) 8 (field (leNat payload) 64 64)).respond port.val 0x23 seq St.completed [])) ∧
      (writable (field (leNat payload) 0 32) = false → exec (.writeReg port seq mac payload) s = .next (a.respond port.val 0x23 seq 0xD5 []))) ∧
    (mac = s.tagOf 0x28 port.val seq 0 payload → bfFits payload 8 3 = true →
      (s.boot.bundle = true → exec (.owner port seq mac payload) s = .next (a.respond port.val 0x28 seq St.contextState [])) ∧
      (s.boot.bundle = false → ∃ u : State, exec (.owner port seq mac payload) s = .next (u.respond port.val 0x28 seq St.completed []) ∧
        u.cfg.mgmtPort = field (leNat payload) 0 2 ∧ u.cfg.mgmtValid = true ∧ u.belfry = a.belfry ∧ u.mem = s.mem)) ∧
    (mac = s.tagOf 0x29 port.val seq 0 payload → s.boot.bundle = true → payload = [] →
      ∃ u : State, exec (.svnRaise port seq mac payload) s = .next (u.respond port.val 0x29 seq St.completed []) ∧
        u.fw.svnFloor = max s.fw.svnFloor s.fw.svn ∧ u.fw.svn = s.fw.svn ∧ u.belfry = a.belfry ∧ u.mem = s.mem) ∧
    (mac = s.tagOf 0x2A port.val seq 0 payload → s.boot.bundle = true → payload.length = 40 →
      (∀ key, Config.aesUnwrap s.belfry.key (BitVec.ofNat 320 (leNat payload)) = some key → ∃ u : State,
        exec (.keySet port seq mac payload) s = .next (u.respond port.val 0x2A seq St.completed []) ∧ u.belfry.key = key ∧ u.mem = s.mem) ∧
      (Config.aesUnwrap s.belfry.key (BitVec.ofNat 320 (leNat payload)) = none →
        exec (.keySet port seq mac payload) s = .next (a.respond port.val 0x2A seq 0x47 []))) ∧
    (∀ typ : Byte, mac = s.tagOf typ.toNat port.val seq 0 payload → managerType typ.toNat = false → s.boot.bundle = true →
      exec (.belfryReservedType port typ seq mac payload) s = .next (a.respond port.val typ.toNat seq 0xD5 []))

/-- The ORDERs of the belfry (20 R461): each is the order of its chapter; its response gives the status at once, or is sent when the order
completes, for which the request waits. Staging and swaps by the belfry (17 R402, R404, 20 R459): bytes are staged while no validation of
the belfry runs; a GO and a SWAP are answered when they complete. That ORDER 1 is taken before stage 3 is the model's choice (log entry 45). -/
def Obligations.BelfryOrdersAndStaging : Prop :=
  (∀ (s a : State) (port : Fin 2) (seq n : Nat) (mac : BitVec 128) (payload : List Byte) (v : Nat), s.bfUp port.val = true →
      s.belfry.high < seq → s.boot.bundle = true → mac = s.tagOf 0x24 port.val seq 0 (orderBytes n payload) → s.accept seq = a →
      bfFits (orderBytes n payload) 8 (bitMask [(0, 42)]) = true → leNat (orderBytes n payload) = v →
      (n = 1 → exec (.orderChipReset port seq mac payload) s = .next (a.bfOrdered 0x24 port seq waitModule (fun s => s.orderChipReset false))) ∧
      (n = 2 → exec (.orderPartitionReset port seq mac payload) s =
        .next (a.bfOrdered 0x24 port seq (waitPart (field v 4 4)) (fun s => s.orderPartReset (field v 4 4) false))) ∧
      (n = 4 → exec (.orderContextReset port seq mac payload) s =
        .next (a.bfOrdered 0x24 port seq (waitCtx (field v 4 4) (field v 8 6)) (fun s => s.resetContext (field v 4 4) (field v 8 6)))) ∧
      (n = 6 → exec (.orderPreempt port seq mac payload) s =
        .next (a.bfOrdered 0x24 port seq (waitCtx (field v 4 4) (field v 8 6)) (fun s => s.bfCtxOp (field v 4 4) (field v 8 6) 1))) ∧
      (n = 7 → exec (.orderResume port seq mac payload) s =
        .next (a.bfOrdered 0x24 port seq (waitCtx (field v 4 4) (field v 8 6)) (fun s => s.bfCtxOp (field v 4 4) (field v 8 6) 2))) ∧
      (n = 3 → field (leNat payload) 18 2 ≠ 3 → ∀ u : State, a.engineReset (field v 14 4) (field v 18 2) (field v 20 2) false = u →
        exec (.orderEngineReset port seq mac payload) s = .next (u.respond port.val 0x24 seq (u.clY (field v 14 4)).engResult [])) ∧
      (n = 5 → unitExists (field (leNat payload) 22 4) (field (leNat payload) 26 16) = true → ∀ (u : State) (st : Nat),
        a.fence true (field v 22 4) (field v 26 16) = (u, st) → exec (.orderMuffle port seq mac payload) s =
          .next (u.respond port.val 0x24 seq (if st = 0 then St.completed else st) [])) ∧
      (n = 8 → unitExists (field (leNat payload) 22 4) (field (leNat payload) 26 16) = true → ∀ act : State → State × Nat,
        (∀ x y : State, ∀ st : Nat, x.unfence (field v 22 4) (field v 26 16) = (y, st) →
          act x = (y, if st = 0 then (if y.readmitting (field v 22 4) (field v 26 16) then 0 else St.completed) else st)) →
        exec (.orderReAdmit port seq mac payload) s = .next (a.bfOrdered 0x24 port seq (waitUnit (field v 22 4) (field v 26 16)) act)) ∧
      (∀ (b : State) (key st : Nat) (act : State → State × Nat), st ≠ 0 → b.belfry.waits = [] →
        act { b with belfry := { b.belfry with waits := [(key, port.val, 0x24, seq)] } } =
          ({ b with belfry := { b.belfry with waits := [(key, port.val, 0x24, seq)] } }, st) →
        b.bfOrdered 0x24 port seq key act = b.respond port.val 0x24 seq st [])) ∧
  (∀ (s a : State) (port : Fin 2) (seq : Nat) (mac : BitVec 128) (payload : List Byte) (v : Nat), s.bfUp port.val = true →
      s.belfry.high < seq → s.boot.bundle = true → s.accept seq = a → leNat payload = v →
      (mac = s.tagOf 0x25 port.val seq 0 payload → bfFits (payload.take 8) 8 (bitMask [(0, 32)]) = true → (payload.drop 8).length ≤ 1024 →
        field (leNat (payload.take 8)) 0 32 + (payload.drop 8).length ≤ 4194304 →
        ((s.stager 4).go = false → ∃ u : State, exec (.stageData port seq mac payload) s = .next (u.respond port.val 0x25 seq St.completed []) ∧
          (u.stager 4).buf = mwriteBytes (s.stager 4).buf (field (leNat (payload.take 8)) 0 32) (payload.drop 8) ∧ u.mem = s.mem ∧
          u.belfry = a.belfry) ∧
        ((s.stager 4).go = true → exec (.stageData port seq mac payload) s = .next (a.respond port.val 0x25 seq 0x50 []))) ∧
      (mac = s.tagOf 0x26 port.val seq 0 payload → bfFits payload 8 (bitMask [(0, 5), (32, 23)]) = true →
        ((s.stager 4).go = true → exec (.stageGo port seq mac payload) s = .next (a.respond port.val 0x26 seq 0x50 [])) ∧
        ((s.stager 4).go = false → field v 32 23 ≤ 4194304 → exec (.stageGo port seq mac payload) s = .next (a.bfOrdered 0x26 port seq waitStage
          (fun s => s.stageGo 4 (if v.testBit 0 then field v 1 4 else devTarget) (field v 32 23))))) ∧
      (mac = s.tagOf 0x27 port.val seq 0 payload → bfFits payload 8 (bitMask [(0, 5)]) = true →
        exec (.swap port seq mac payload) s = .next (a.bfOrdered 0x27 port seq (waitSwap (if v.testBit 0 then field v 1 4 else devTarget))
          (fun s => s.orderSwap (if v.testBit 0 then field v 1 4 else devTarget) none true seq))))

/-- Reports and the management ports (20 R456, R459, R462): HELLO goes out each second, a report until its ACK; a port that comes up probes its
address, and answers for it and to echo requests while it is up. SMBus (20 R463, R464): while power is good each command answers its value
in little-endian bytes; a cause is cleared by writing 1, and ALERT# is released with the last; the alert response answers while a cause is
set. The layout of the identity is the model's choice (log entry 47). -/
def Obligations.ManagementPortsAndSmbus : Prop :=
  (∀ s : State,
      (s.boot.powerGood = true → s.compDown 2 = false → ∃ u : State, exec .hello s = .next u ∧ u.belfry.seq = wrapAdd 32 s.belfry.seq 1 ∧
        u.belfry.reports = s.belfry.reports ∧ u.mem = s.mem ∧ u.tiles = s.tiles ∧
        u.out.length = s.out.length + b2n (s.bfLink 0) + b2n (s.bfLink 1)) ∧
      (s.boot.powerGood = false → exec .hello s = .next s) ∧
      (s.compDown 2 = false → exec .reportResend s =
        .next (s.each s.belfry.reports (fun s r => s.bfSend r.2.1 false true r.1 0 (leBytes (reportLen r.2.1) r.2.2.1)))) ∧
      (s.compDown 2 = true → exec .reportResend s = .next s) ∧
      (∀ (port : Fin 2) (seq ref : Nat) (mac : BitVec 128) (payload : List Byte), s.bfUp port.val = true →
        (mac = s.tagOf 0x21 port.val seq ref payload → exec (.ack port ⟨seq, ref⟩ mac payload) s = .next { s with
          belfry := { s.belfry with reports := s.belfry.reports.filter (fun r => r.1 != ref) } }) ∧
        (mac ≠ s.tagOf 0x21 port.val seq ref payload → exec (.ack port ⟨seq, ref⟩ mac payload) s = .next { s with
          belfry := { s.belfry with authFail := satAdd 16 s.belfry.authFail 1 } })) ∧
      (∀ (port : Fin 2) (target : Nat) (data : List Byte),
        (s.bfUp port.val = true → exec (.echoRequest port data) s = .next (s.emit (.network port.val 2 (leNat data))) ∧
          exec (.neighborSolicitation port (linkLocal port.val)) s = .next (s.emit (.network port.val 1 (linkLocal port.val)))) ∧
        (target ≠ linkLocal port.val → exec (.neighborSolicitation port target) s = .next s) ∧
        (s.bfUp port.val = false → exec (.echoRequest port data) s = .next s)) ∧
      (∀ port : Fin 2, s.boot.powerGood = true →
        (s.bfLink port.val = false → ∃ u : State, exec (.managementPortLink port true) s = .next u ∧ u.bfLink port.val = true ∧
          u.bfLink (1 - port.val) = s.bfLink (1 - port.val) ∧ u.out = .network port.val 0 (linkLocal port.val) :: s.out ∧ u.mem = s.mem) ∧
        (s.bfLink port.val = true → ∃ u : State, exec (.managementPortLink port false) s = .next u ∧ u.bfLink port.val = false ∧ u.out = s.out ∧
          u.mem = s.mem))) ∧
  (∀ s : State, s.boot.powerGood = true →
      (∀ e : Instr × Nat × Nat, e ∈ [
          (Instr.smbusStatusRead, 2, pack [(3, s.boot.stage), (8, s.boot.done), (1, b2n s.boot.serviceable)]),
          (Instr.smbusInputVoltageRead, 2, s.vinMean), (Instr.smbusInputCurrentRead, 2, s.pwr.inputMa / 10),
          (Instr.smbusInputPowerRead, 2, s.smbus.powerW), (Instr.smbusJunctionRead, 1, s.smbus.junction),
          (Instr.smbusCoolantRead true, 1, s.pwr.outlet), (Instr.smbusCoolantRead false, 1, s.pwr.inlet),
          (Instr.smbusReadyRead, 2, s.boot.readyClusters), (Instr.smbusIdentityRead, 12, pack [(32, glbIdVal), (64, Config.serial.toNat)])] →
        exec e.1 s = .next (s.emit (.smbus ((leBytes e.2.1 e.2.2).map (·.toNat))))) ∧
      (∀ val : Byte, exec (.alertCauses false val) s = .next (s.emit (.smbus ((leBytes 1 s.smbus.causes).map (·.toNat)))) ∧
        ∃ u, exec (.alertCauses true val) s = .next u ∧ u.smbus.causes = clearBits s.smbus.causes val.toNat ∧ u.smbus.powerW = s.smbus.powerW ∧
          u.mem = s.mem ∧ u.out = if clearBits s.smbus.causes val.toNat = 0 ∧ s.smbus.causes ≠ 0 then .alert false :: s.out else s.out) ∧
      (∀ addr len : Nat, exec (.fruEepromRead addr len) s =
        .next (s.emit (.smbus ((List.range len).map (fun i => (Config.fru ((addr + i) % 8192)).toNat))))) ∧
      (s.smbus.causes = 0 → exec .alertResponse s = .next s) ∧
      (s.smbus.causes ≠ 0 → exec .alertResponse s = .next (s.emit (.smbus ((leBytes 1 0x5A).map (·.toNat))))))

/-- The monitor (20 R467): VER and STAGE answer from stage 1; the other commands after stage 3, each at its level, below which the answer is
MON_LOCKED; every line counts as input. Unlocking the monitor (20 R468): a good token gives its level for its lifetime; each nonce serves
one attempt; the fifth failure in a row starts the refusal for 60 s; the level falls back when its lifetime ends or 600 s pass without
input. The lines are given by their content (log entry 47); that five failures in a row start the refusal is read as in log entry 48. -/
def Obligations.MonitorCommandsAndUnlocking : Prop :=
  (∀ (s m : State), s.monUp = true → { s with mon := { s.mon with lastInput := s.now } } = m →
      (exec .monitorVer s = .next (m.say [glbIdVal, Config.serial.toNat, s.fw.version])) ∧
      (exec .monitorStage s = .next (m.say ([m.glbStageVal, m.glbReadyVal] ++ m.boot.reports.map (fun e => e.2.toNat)))) ∧
      (∀ e : Instr, e ∈ [Instr.monitorChallenge, Instr.monitorLock, Instr.monitorFp] → s.boot.bundle = false → exec e s = .next s) ∧
      (s.boot.bundle = true → s.mon.level = 0 → ∀ (n off kind : Nat) (val : Dword) (t : TileId) (e : Instr),
        e ∈ [Instr.monitorLog n, Instr.monitorFp, Instr.monitorLedger n, Instr.monitorPeek off, Instr.monitorPoke off val, Instr.monitorTap t kind] →
        exec e s = .next (m.say [0xD8])) ∧
      (s.boot.bundle = true → s.mon.level = 1 → ∀ (off kind : Nat) (val : Dword) (t : TileId) (e : Instr),
        e ∈ [Instr.monitorPoke off val, Instr.monitorTap t kind] → exec e s = .next (m.say [0xD8])) ∧
      (s.boot.bundle = true → ∃ u, exec .monitorChallenge s = .next u ∧ u.mon.nonce = some (s.freeVal 128) ∧ u.freeCtr = s.freeCtr + 1 ∧
        u.out = .serial [(s.freeVal 128).toNat] :: s.out ∧ u.mon.level = s.mon.level ∧ u.mem = s.mem) ∧
      (s.boot.bundle = true → ∃ u, exec .monitorLock s = .next u ∧ u.mon.level = 0 ∧ u.mon.nonce = s.mon.nonce ∧ u.out = s.out ∧ u.mem = s.mem) ∧
      (s.boot.bundle = true → 1 ≤ s.mon.level →
        (∀ n : Nat, 1 ≤ n → n ≤ 32768 → exec (.monitorLog n) s = .next (m.say ((s.log.ring.take n).reverse.map (·.toNat)))) ∧
        (exec .monitorFp s = .next (m.say ((List.range 16).map (fun c => bf s.boot.fpRec (512 + 1024 * c) 1024) ++ [bf s.boot.fpRec 16896 2048]))) ∧
        (∀ i : Nat, 64 ≤ i → i < 18648 → exec (.monitorLedger i) s =
          .next (m.say [((s.ledger.current i).getD (sealEntry (blankEntry (unitOfNo i).1 (unitOfNo i).2).toNat 0)).toNat])) ∧
        (∀ off : Nat, exec (.monitorPeek off) s = .next (m.say [m.slotVal .net off]))) ∧
      (s.boot.bundle = true → s.mon.level = 2 →
        (∀ (off : Nat) (val : Dword) (r : Reg), regAt off = some r → off % 8 = 0 → exec (.monitorPoke off val) s =
          .next ((m.logAccess .net off (m.ownerReg r.scope) 0 val.toNat).writeSlot .net off 8 val.toNat)) ∧
        (∀ (t : TileId) (kind : Nat), kind < 6 → ∀ u : State, { m with mon := { m.mon with tapWait := some (kind, tileKey t) } } = u →
          exec (.monitorTap t kind) s = .next (stepTapSchedule kind (tileKey t) u)) ∧
        (∀ (t : TileId) (kind : Nat), 6 ≤ kind → exec (.monitorTap t kind) s = .next m))) ∧
  (∀ (s m : State), s.monUp = true → s.boot.bundle = true → { s with mon := { s.mon with lastInput := s.now } } = m →
      (∀ token : List Byte,
        (s.mon.backoff = true → exec (.monitorUnlock token) s = .next m) ∧
        (s.mon.backoff = false → m.tokenOk token = true → exec (.monitorUnlock token) s = .next { m with mon := { m.mon with
          level := field (leNat token) 224 2, expires := s.now + field (leNat token) 256 32 * 1000000000, consecutive := 0, nonce := none } }) ∧
        (s.mon.backoff = false → m.tokenOk token = false → ∃ u, exec (.monitorUnlock token) s = .next u ∧ u.mon.nonce = none ∧
          u.mon.level = s.mon.level ∧ u.mon.fails = satAdd 8 s.mon.fails 1 ∧ u.mon.backoff = decide (5 ≤ s.mon.consecutive + 1) ∧
          u.out = .serial [0xD9] :: s.out ∧ u.mem = s.mem)) ∧
      (s.mon.backoff = true → s.mon.backoffAt + 60000000000 ≤ s.now →
        exec .unlockBackoffEnd s = .next { s with mon := { s.mon with backoff := false } }) ∧
      (s.mon.backoff = false ∨ s.now < s.mon.backoffAt + 60000000000 → exec .unlockBackoffEnd s = .next s) ∧
      (s.mon.level ≠ 0 → (s.mon.expires ≤ s.now ∨ s.mon.lastInput + 600000000000 ≤ s.now) →
        exec .monitorRelock s = .next { s with mon := { s.mon with level := 0, expires := 0 } }) ∧
      (s.mon.level = 0 ∨ (s.now < s.mon.expires ∧ s.now < s.mon.lastInput + 600000000000) → exec .monitorRelock s = .next s))

/-- The hard signals and the power input (20 R465, 21 R472-R483): MOD_RST# held low for 10 µs resets the module, which starts when it rises;
PWR_EN drives the power sequence; VIN outside its bands is reported or ends power; a rail out of regulation resets the module; inlet or
outlet coolant out of range is reported once each. -/
def Obligations.PhysicalSignals : Prop :=
  ∀ s : State,
    (∀ ns : Nat, (ns < 10000 ∨ s.boot.powerGood = false → exec (.modRstLow ns) s = .next s) ∧
      (10000 ≤ ns → s.boot.powerGood = true → ∀ u : State, ({ s with pwr := { s.pwr with modRst := true } }.orderChipReset false).1 = u →
        u.stageOpen 1 0 = false → exec (.modRstLow ns) s = .next u)) ∧
    (s.pwr.modRst = true → exec .modRstRise s = .next ({ s with pwr := { s.pwr with modRst := false } }.startOne)) ∧
    (s.pwr.modRst = false → exec .modRstRise s = .next s) ∧
    (s.pwr.on = false → s.pwr.offAt = none → 4400 ≤ s.pwr.vin → s.pwr.vin ≤ 5600 →
      s.pwr.vinShut = false ∨ (s.pwr.vinBand = 0 ∧ 10000000 ≤ s.pwr.vinNs) → ∃ u, exec .pwrEnRise s = .next u ∧ u.pwr.on = true ∧
      u.pwr.pwrEn = true ∧ u.out = .pin 0 true :: s.out ∧ u.boot = s.boot ∧ u.mem = s.mem) ∧
    (s.pwr.on = false → s.pwr.vin < 4400 ∨ 5600 < s.pwr.vin → ∃ u, exec .pwrEnRise s = .next u ∧ u.pwr.on = false ∧ u.pwr.pwrEn = true ∧
      u.out = s.out) ∧
    (∃ u, exec .pwrEnFall s = .next u ∧ u.pwr.pwrEn = false ∧ u.pwr.on = false ∧ (s.pwr.on = true → u.boot.powerGood = false ∧
      u.pwr.offAt = some s.now ∧ u.mon = Monitor.reset)) ∧
    (s.pwr.offAt ≠ none → ∃ u, exec .powerOffHoldEnd s = .next u ∧ u.pwr.offAt = none ∧
      (u.pwr.on = true ↔ s.pwr.on = true ∨ (s.pwr.pwrEn = true ∧ 4400 ≤ s.pwr.vin ∧ s.pwr.vin ≤ 5600 ∧
        (s.pwr.vinShut = false ∨ (s.pwr.vinBand = 0 ∧ 10000000 ≤ s.pwr.vinNs))))) ∧
    (∀ mv10 : Nat, mv10 < 65536 → ∃ u : State, exec (.vinSample mv10) s = .next (u.vinActs (vinBandOf mv10) (s.vinHeld mv10) s.pwr.vinNs) ∧
      u.pwr.vin = mv10 ∧ u.pwr.vinBand = vinBandOf mv10 ∧ u.pwr.vinNs = s.vinHeld mv10 ∧ u.pwr.on = s.pwr.on ∧ u.mem = s.mem) ∧
    (∀ b n was : Nat, (b = 0 → n < 10000000 → s.vinActs b n was = s) ∧ (b = 1 → n < 1000000 → s.vinActs b n was = s) ∧
      (b = 2 → n < 100000 → s.vinActs b n was = s) ∧ (b = 2 → 100000 ≤ n → s.pwr.on = true → ∃ u, s.vinActs b n was = u ∧ u.pwr.on = false ∧
        u.pwr.vinShut = true ∧ u.pwr.offAt = some s.now ∧ u.boot.powerGood = false)) ∧
    (∀ rail ns : Nat, 2 ≤ rail → rail ≤ 54 → s.boot.powerGood = true →
      (ns < 100000 → exec (.railFault rail ns) s = .next s) ∧
      (100000 ≤ ns → exec (.railFault rail ns) s = .next (((({ s with pwr := { s.pwr with railEvt := true, rail := rail } }.event 0xDC rail).logPower
        0 true 0 0 0xDC 0).orderChipReset true).1))) ∧
    (∀ inlet outlet : Nat, 15 ≤ inlet → inlet ≤ 42 → outlet ≤ 65 → ∃ u, exec (.coolantRange inlet outlet) s = .next u ∧ u.pwr.inlet = inlet % 256 ∧
      u.pwr.outlet = outlet % 256 ∧ u.pwr.coolantEvt = s.pwr.coolantEvt ∧ u.log = s.log ∧ u.mem = s.mem) ∧
    (∀ (inlet outlet : Nat) (u : State), s.boot.powerGood = true →
      (inlet < 15 ∨ 42 < inlet) ∧ 15 ≤ s.pwr.inlet ∧ s.pwr.inlet ≤ 42 ∧ (outlet ≤ 65 ∨ 65 < s.pwr.outlet) ∨
        65 < outlet ∧ s.pwr.outlet ≤ 65 ∧ (15 ≤ inlet ∧ inlet ≤ 42 ∨ s.pwr.inlet ≠ 0 ∧ (s.pwr.inlet < 15 ∨ 42 < s.pwr.inlet)) →
      { s with pwr := { s.pwr with inlet := inlet % 256, outlet := outlet % 256, coolantEvt := true } } = u →
      exec (.coolantRange inlet outlet) s = .next ((u.event 0xDB 0).logPower 0 true 0 0 0xDB 0)) ∧
    (s.boot.powerGood = true → ∃ u, exec .powerGoodLoss s = .next u ∧ u.boot.powerGood = false ∧ u.pwr.on = true ∧ u.pwr.offAt = none ∧
      u.mon = Monitor.reset) ∧
    (s.boot.powerGood = false → exec .powerGoodLoss s = .next s)

/-- The power and thermal loops (05 R133, R134, 07 R167, 18 R421-R424): the DVFS loop takes at most one step a period, none for a pinned
cluster, one of strict mode or one whose last step is pending: down at a wait share above 10 % (to no less than 1.000 GHz, and no raise until
a period below 2 %) or a draw above the allotment, up where the draw of the next step fits, and in a hold of its clock later (01 R40). The
current limit lowers, in a period with the input current above its limit, the clusters above their allotment, or all, and those that are too
hot or whose rail is over its limit, and from 100 µs without on raises each lowered one by a step. The hottest sensors set headroom, refresh
and, from 95 to 102 °C, the allotment; the cap gives each cluster its allotment, and one that cannot be met is an event. That a loop whose
component is down does nothing, and the 95 °C rule's exact numbers between two thresholds, are the model's reading (log entry 33). -/
def Obligations.PowerLoops : Prop :=
  ∀ s : State,
    (∀ (c : Fin 16) (draw wait : Nat), s.boot.bundle = true → s.compDown 17 = false → ∃ u, exec (.dvfsPeriod c draw wait) s = .next u ∧
      (u.clY c.val).draw = draw ∧ u.mem = s.mem ∧ u.tiles = s.tiles ∧ (u.clock c.val).code = (s.clock c.val).code ∧
      ((s.clock c.val).target ≠ none → (u.clock c.val).target = (s.clock c.val).target) ∧
      ((s.clock c.val).pinned = true ∨ s.strictCl c.val = true ∨ (s.clY c.val).ready = false → ∀ n, u.clock n = s.clock n)) ∧
    (∀ (c : Fin 16) (draw wait : Nat), s.boot.bundle = true → s.compDown 17 = false → (s.clY c.val).ready = true → (s.clock c.val).pinned = false →
      s.strictCl c.val = false → ∃ u, exec (.dvfsPeriod c draw wait) s = .next u ∧
        (wait < 20 → (u.clock c.val).inhibit = false) ∧
        ((s.clock c.val).target = none → (s.clock c.val).tapHold = false →
          (100 < wait ∧ 40 < (s.clock c.val).code → (u.clock c.val).target = some ((s.clock c.val).code - 1) ∧ (u.clock c.val).inhibit = true) ∧
          ((wait ≤ 100 ∨ (s.clock c.val).code ≤ 40) → (s.clY c.val).allot < draw → 32 < (s.clock c.val).code →
            (u.clock c.val).target = some ((s.clock c.val).code - 1)) ∧
          ((wait ≤ 100 ∨ (s.clock c.val).code ≤ 40) → (s.clY c.val).allot < draw → (s.clock c.val).code ≤ 32 → (u.clock c.val).target = none) ∧
          (wait ≤ 100 → draw ≤ (s.clY c.val).allot → (s.clock c.val).inhibit = false → (s.clY c.val).headroom = true →
            (s.clock c.val).code < 64 → (s.clock c.val).code * draw + 3 * draw ≤ (s.clY c.val).allot * (s.clock c.val).code →
            (u.clock c.val).target = some ((s.clock c.val).code + 1)) ∧
          (wait ≤ 100 → draw ≤ (s.clY c.val).allot → (s.clock c.val).inhibit = true ∨ (s.clY c.val).headroom = false ∨
            64 ≤ (s.clock c.val).code ∨ (s.clY c.val).allot * (s.clock c.val).code < (s.clock c.val).code * draw + 3 * draw →
            (u.clock c.val).target = none)) ∧
        ((s.clock c.val).target = none → (s.clock c.val).tapHold = true → 100 < wait → 40 < (s.clock c.val).code →
          (u.clock c.val).target = none ∧ (u.clock c.val).heldStep = some ((s.clock c.val).code - 1))) ∧
    (∀ (ma : Nat) (draws rails : List Nat) (ov all : List Nat),
      (List.range 16).filter (fun c => decide ((s.clY c).allot < draws.getD c 0)) = ov →
      (List.range 16).filter (fun c => (decide (s.pwr.ilim < ma) && (ov.isEmpty || ov.contains c)) || decide (103 ≤ (s.clY c).temp) ||
        decide (140000 < rails.getD c 0)) = all →
      ((s.pwr.ilim < ma ∨ all ≠ []) → ∃ u v : State, { s with pwr := { s.pwr with inputMa := ma } } = v ∧
        v.each all (fun s c => s.limitLower (decide (s.pwr.ilim < ma) && ov.isEmpty) c) = u ∧
        exec (.currentLimitPeriod ma draws rails) s = .next { u with pwr := { u.pwr with noExcessUs := 0 } }) ∧
      (ma ≤ s.pwr.ilim → all = [] → ∃ v : State,
        { s with pwr := { s.pwr with inputMa := ma, noExcessUs := min 1000 (s.pwr.noExcessUs + 10) } } = v ∧
        exec (.currentLimitPeriod ma draws rails) s =
          .next (if s.pwr.noExcessUs + 10 < 100 then v else v.each (List.range 16) (fun s c => s.limitRaise c)))) ∧
    (∀ (wide : Bool) (c : Nat), ((s.clock c).code ≤ 32 → s.limitLower wide c = s) ∧ (32 < (s.clock c).code →
      ((s.limitLower wide c).clock c).target = some ((s.clock c).code - 1) ∧ ((s.limitLower wide c).clock c).lowered = true ∧
      ∀ x ∈ (s.limitLower wide c).health.slices, ¬ (x.kind < 6 ∧ taC x.unit_ = c))) ∧
    (∀ c : Nat, ((s.clock c).lowered = false → s.limitRaise c = s.updClock c id) ∧
      ((s.clock c).lowered = true → (s.clock c).code < (if (s.clock c).pinned then 54 else (s.clock c).dvfs) →
        ((s.limitRaise c).clock c).target = some ((s.clock c).code + 1)) ∧
      ((s.clock c).lowered = true → (if (s.clock c).pinned then 54 else (s.clock c).dvfs) ≤ (s.clock c).code →
        (s.limitRaise c).clock c = { s.clock c with lowered := false })) ∧
    (∀ temps chips : List Nat, s.boot.bundle = true → ∃ u, exec (.thermalPeriod temps chips) s = .next u ∧
      u.smbus.junction = (temps ++ chips).foldl max 0 % 256 ∧ u.mem.bytes = s.mem.bytes ∧
      (s.compDown 17 = true → u.cly = s.cly) ∧ (s.compDown 18 = true → u.mem = s.mem) ∧
      (∀ c t : Nat, s.compDown 17 = false → c < 16 → temps[c]? = some t →
        (u.clY c).temp = t ∧ (u.clY c).headroom = decide (t < 95) ∧ (t < 95 ∨ 102 < t → (u.clY c).allot = (s.clY c).allot) ∧
        (95 ≤ t → t ≤ 102 → (u.clY c).allot =
          min (s.clY c).allot (max ((s.clY c).allot * 95 / 100) ((s.clY c).draw * 40 / (s.clock c).code)))) ∧
      (∀ i t : Nat, s.compDown 18 = false → (i < 192 ∧ chips[i / 16]? = some t) ∨ (192 ≤ i ∧ i < 224 ∧ chips[i - 180]? = some t) →
        (u.chan i).refresh = refreshRate (s.chan i).refresh t)) ∧
    (∀ old t : Nat, old ≤ 2 → (95 ≤ t → refreshRate old t = 2) ∧ (93 < t → t < 95 → refreshRate old t = max 1 old) ∧
      (85 ≤ t → t ≤ 93 → refreshRate old t = 1) ∧ (83 < t → t < 85 → refreshRate old t = min 1 old) ∧ (t ≤ 83 → refreshRate old t = 0)) ∧
    (∀ (inputW sum budget fixed : Nat) (draws idle pinned rest : List Nat), s.boot.bundle = true → s.compDown 17 = false →
      (List.range 16).foldl (fun n c => n + draws.getD c 0) 0 = sum → s.pwr.capW * 1000 - (inputW - sum) - 40000 = budget →
      (List.range 16).filter (fun c => s.idleCl c) = idle →
      (List.range 16).filter (fun c => !s.idleCl c && s.pinnedCl c) = pinned →
      (List.range 16).filter (fun c => !s.idleCl c && !s.pinnedCl c) = rest →
      idle.foldl (fun n c => n + draws.getD c 0 + 2000) 0 + pinned.foldl (fun n c => n + draws.getD c 0) 0 = fixed →
      ∃ u, exec (.capPeriod inputW draws) s = .next u ∧ u.pwr.inputW = inputW ∧ u.pwr.clusterW = sum ∧ u.pwr.uncoreW = inputW - sum ∧
        u.smbus.powerW = inputW / 1000 ∧ u.mem = s.mem ∧
        (∀ c, c ∈ idle → (u.clY c).allot = draws.getD c 0 + 2000 ∧ (u.clY c).idle = true) ∧
        (∀ c, c ∈ pinned → (u.clY c).allot = draws.getD c 0 ∧ (u.clY c).idle = false) ∧
        (∀ c, c ∈ rest → (u.clY c).allot = min 110000 ((budget - fixed) / rest.length) ∧ (u.clY c).idle = false) ∧
        (budget < fixed → u.pwr.capUnmet = true) ∧
        (fixed ≤ budget → u.pwr.capUnmet = s.pwr.capUnmet ∧ u.log = s.log ∧ u.belfry = s.belfry))

/-- One ACLK of RUN (04 R97, R100, R108, R116, 05 R121): every tile of the battery makes its cycle at once on its neighbours' words of the
cycle before, the run counter and the gated row groups count, and the cycle count goes on or, in the last, the end is pending; where the cycle
has faults the section aborts on the one of the lowest code, then of the lowest tile address, but for those of the last cycle, which RUN_END
judges. A battery out of RUN makes none, nor, by the model's order of a cycle's events (log entry 27), one in which a take, an end of a schedule
entry, padding or pass, or a vector repeat of the cycle has not been made. A tile without an entry in force drives nothing and writes nothing.
The wide-port rows are operands of the command (log entry 7). -/
def Obligations.RunCycles : Prop :=
  ∀ (s : State) (c : Fin 16) (b : Fin 64) (acts : List TileAct),
    ((s.bat c.val b.val).active = none ∨ (s.bat c.val b.val).st ≠ .run ∨ (s.bat c.val b.val).endPending = true →
      exec (.runCycle c b acts) s = .next s) ∧
    (∀ (img : SecImage) (e : Nat × Nat), (s.bat c.val b.val).active = some img → (s.bat c.val b.val).takeDue img = true ∨
      (e ∈ s.batTiles c.val b.val ∧ ((s.tile e.2).net.due = true ∨ (s.bat c.val b.val).passDue img (s.tile e.2).test.passIdx = true ∨
        (s.tile e.2).vecDue ≠ none)) → exec (.runCycle c b acts) s = .next s) ∧
    (∀ (img : SecImage) (i : CtxId) (outs : Tbl TileOut), (s.bat c.val b.val).active = some img → (s.bat c.val b.val).owner = some i →
      (s.bat c.val b.val).st = .run → (s.bat c.val b.val).endPending = false → (s.bat c.val b.val).takeDue img = false →
      (∀ e ∈ s.batTiles c.val b.val, s.tileDue (s.bat c.val b.val) img e.2 = false) →
      ((s.batTiles c.val b.val).map (·.1)).Nodup → ((s.batTiles c.val b.val).map (·.2)).Nodup →
      (s.batTiles c.val b.val).map (fun e =>
        (e.1, tileCycle (s.tile e.2) (img.tileAt e.1) (e.1 / 16 + 1 == img.h) (actOf acts e.1))) = outs →
      ∃ (u v : State) (bad : List SecFault), (∀ f : SecFault, f ∈ bad ↔ f.va = 0 ∧ ∃ e ∈ s.batTiles c.val b.val, f.ta = e.2 ∧
          (f.status, f.detail) ∈ (tileCycle (s.tile e.2) (img.tileAt e.1) (e.1 / 16 + 1 == img.h) (actOf acts e.1)).faults) ∧
        u.mem = s.mem ∧ u.log = s.log ∧ u.bats = s.bats ∧ (u.ctxX i.part i.ctx).runcyc = wrapAdd 64 (s.ctxX i.part i.ctx).runcyc 1 ∧
        (u.cl c.val).gated = wrapAdd 48 (s.cl c.val).gated (outs.foldl (fun n o => n + o.2.gated) 0) ∧
        (∀ e ∈ s.batTiles c.val b.val, ∀ o, (e.1, o) ∈ outs → (u.tile e.2).core = o.core ∧ (u.tile e.2).test.capture = o.capture ∧
          (u.tile e.2).net = tokenIn img (s.bat c.val b.val).takes e.1 (linkIn outs o.net (e.1 % 16) (e.1 / 16)) ∧
          (u.tile e.2).ctl.cycle = (s.tile e.2).ctl.cycle + 1) ∧
        (∀ n, (∀ e ∈ s.batTiles c.val b.val, e.2 ≠ n) → u.tile n = s.tile n) ∧
        ((u.each (bad.filter (fun f => f.status == 0x73)) (fun s f => s.scratchLost f.ta (field f.detail 3 4))).fault c.val b.val bad = v) ∧
        ((s.bat c.val b.val).cycle + 1 = img.cycles →
          exec (.runCycle c b acts) s = .next (v.updBat c.val b.val (fun y => { y with endPending := true }))) ∧
        ((s.bat c.val b.val).cycle + 1 ≠ img.cycles → (v.bat c.val b.val).faults = [] →
          exec (.runCycle c b acts) s = .next (v.updBat c.val b.val (fun y => { y with cycle := y.cycle + 1 }))) ∧
        ((s.bat c.val b.val).cycle + 1 ≠ img.cycles → (v.bat c.val b.val).faults ≠ [] → ∃ f ∈ (v.bat c.val b.val).faults,
          (∀ g ∈ (v.bat c.val b.val).faults, f.status < g.status ∨ (f.status = g.status ∧ f.ta ≤ g.ta)) ∧
          exec (.runCycle c b acts) s = .next (v.abort c.val b.val f ((v.bat c.val b.val).faults.length - 1)))) ∧
    (∀ l : List SecFault, s.fault c.val b.val l = (s.each l (fun s f => s.flagTile f.ta [f.status])).updBat c.val b.val (fun x =>
      { x with faults := x.faults ++ l })) ∧
    (∀ (t : Tile) (ti : TileImg) (bottom : Bool) (a : TileAct), t.net.ended = true ∨ t.net.inPad = true →
      (tileCycle t ti bottom a).east = none ∧ (tileCycle t ti bottom a).south = none ∧ (tileCycle t ti bottom a).faults = [] ∧
      (tileCycle t ti bottom a).core.pad = t.core.pad ∧ (tileCycle t ti bottom a).net.entry = t.net.entry)

/-- One step: the command at the front of the queue runs on the state with the queue's rest; on an empty queue a nanosecond passes, which is the
model's choice (log entry 1), and while power is good the timestamp counts it (00 R6); nothing is driven
outward but the alert of a belfry report unacknowledged for 10 s (20 R464). -/
def Obligations.StepTakesFrontCommand : Prop :=
  (∀ (c : Instr) (rest : List Instr) (s : State), step { s with pending := c :: rest } = exec c { s with pending := rest }) ∧
  (∀ s : State, s.pending = [] → ∃ u, step s = .next u ∧ u.pending = [] ∧ u.mem = s.mem ∧ u.tiles = s.tiles ∧
    u.out = (if s.boot.powerGood && s.now % 1000 == 999 && s.belfry.reports.any (fun r => decide (r.2.2.2 + 10000000000 < s.now)) &&
      !s.smbus.causes.testBit 2 then .alert true :: s.out else s.out) ∧
    u.now = (if s.boot.powerGood then (s.now + 1) % 2 ^ 64 else s.now))

/-- No command stops the machine: every command answers a next state in every state. A command whose enabling condition does not hold leaves the
state as it is (log entry 2). -/
def Obligations.EveryCommandCompletes : Prop :=
  ∀ (c : Instr) (s : State), ∃ u, exec c s = .next u

/-- A command does not touch the queue of waiting commands, draws no free value twice, and takes back nothing driven outward (the last two are
the model's own, log entries 4 and 5). -/
def Obligations.CommandsKeepQueueAndOutput : Prop :=
  ∀ (c : Instr) (s u : State), exec c s = .next u → u.pending = s.pending ∧ s.freeCtr ≤ u.freeCtr ∧ ∃ l, u.out = l ++ s.out

/-- Reset: every array clock at n = 40 (01 R41), the module's cap of 2,000 W (18 R427), no context, no partition and no image in force, memory
that reads zero (07 R176), the checking rate and escalation limit of their registers, no power and no stage, an empty queue. The escalation
limit's reset value and the BAR2 size are those of their registers. -/
def Obligations.ResetValues : Prop :=
  (∀ c : Nat, (State.reset.clock c).code = 40 ∧ (State.reset.clock c).pinned = false) ∧ State.reset.pwr.capW = 2000 ∧
  (∀ p k : Nat, (State.reset.ctx p k).st = 0 ∧ State.reset.prec p = none) ∧
  (∀ c b : Nat, (State.reset.bat c b).st = .empty ∧ (State.reset.bat c b).active = none) ∧
  (∀ a : Nat, mget State.reset.mem.bytes a = 0) ∧ State.reset.pending = [] ∧ State.reset.boot.powerGood = false ∧
  State.reset.boot.stage = 0 ∧ State.reset.health.escLimit = 5 ∧ (∀ p : Nat, (State.reset.rport p).st = 0 ∧ (State.reset.rport p).bypassOpen = false) ∧
  State.reset.mon.level = 0 ∧ (∀ p : Nat, (State.reset.port p).bar2 = 36 ∧ (State.reset.port p).up = false)

/-- The invariant holds at reset. -/
def Obligations.ResetInvariant : Prop :=
  State.reset.inv

/-- Every step keeps the invariant: device memory keeps its canonical form, so that what was never written reads zero (07 R176), and every array
clock is at n = 32 to 64, as is every code it is stepped to (01 R36). -/
def Obligations.StepsKeepInvariant : Prop :=
  ∀ s u : State, s.inv → step s = .next u → u.inv

/-- The frame of the scalar instructions (02 R44, R47): they change their own tile only, of it no memory, no net state and no other thread, and
of their thread no register but the destination. -/
def Obligations.ScalarFrame : Prop :=
  ∀ (s u : State) (t : TileId) (th : Fin 4) (rd a b : Fin 32) (aop : AluOp) (src : Src) (mop : MulOp) (dop : DivOp) (bop : BrOp) (target : Nat)
    (e : Instr × Nat), e ∈ [(Instr.integerAlu t th aop rd a src, rd.val), (Instr.multiply t th mop rd a b, rd.val),
      (Instr.divide t th dop rd a b, rd.val), (Instr.branch t th bop a b target, 0)] → exec e.1 s = .next u →
    u = { s with tiles := u.tiles, freeCtr := u.freeCtr } ∧ (∀ n, n ≠ tileKey t → u.tile n = s.tile n) ∧
    (u.tile (tileKey t)).core.pad = (s.tile (tileKey t)).core.pad ∧ (u.tile (tileKey t)).net = (s.tile (tileKey t)).net ∧
    (u.tile (tileKey t)).test = (s.tile (tileKey t)).test ∧ (u.tile (tileKey t)).core.vregs = (s.tile (tileKey t)).core.vregs ∧
    (∀ i, i ≠ th.val → (u.tile (tileKey t)).thread i = (s.tile (tileKey t)).thread i) ∧
    (∀ r, r ≠ e.2 → tget ((u.tile (tileKey t)).thread th.val).regs r 0 = tget ((s.tile (tileKey t)).thread th.val).regs r 0)

/-- The frame of commands that store nothing: all of memory, the tiles, the batteries and the contexts are as before. -/
def Obligations.NonStoringFrame : Prop :=
  ∀ (s u : State) (port : Fin 4) (f : Fin 17) (w : Fin 16) (net : Fin 2) (n len : Nat) (flag : Bool) (val : Dword) (word : Word) (byte : Byte)
    (bytes : List Byte) (mac : BitVec 128) (token : List Byte) (ring : Fin 2) (e : Instr), e ∈ [
      Instr.smbusStatusRead, Instr.alertCauses flag byte, Instr.smbusInputVoltageRead, Instr.smbusInputCurrentRead, Instr.smbusInputPowerRead,
      Instr.smbusJunctionRead, Instr.smbusCoolantRead flag, Instr.smbusReadyRead, Instr.smbusIdentityRead, Instr.fruEepromRead n len,
      Instr.alertResponse, Instr.monitorVer, Instr.monitorStage, Instr.monitorChallenge, Instr.monitorUnlock token, Instr.monitorLock,
      Instr.monitorLog n, Instr.monitorFp, Instr.monitorLedger n, Instr.monitorPeek n, Instr.monitorRelock, Instr.unlockBackoffEnd,
      Instr.configurationRequest port f n flag word, Instr.msixUnmask port f n, Instr.bar2WindowBind port w val, Instr.resizableBarChange port n,
      Instr.managementPortLink net flag, Instr.neighborSolicitation net n, Instr.echoRequest net bytes, Instr.ack net ⟨n, len⟩ mac bytes,
      Instr.lossOfLink port, Instr.bypassClose ring, Instr.portReady port flag, Instr.hello, Instr.reportResend, Instr.pwrEnRise,
      Instr.powerOffHoldEnd] → exec e s = .next u →
    (∀ a, mget u.mem.bytes a = mget s.mem.bytes a) ∧ u.tiles = s.tiles ∧ u.bats = s.bats ∧ u.ctxs = s.ctxs ∧ u.descs = s.descs

/-- The frame of a store to device memory (07 R172, R179, R180), as every storing command performs it: the bytes stored read back, every other
byte reads as before, a line that is wholly written is poisoned no more; a BAR2 write stores to the page its address translates to. Extents
whose data the manual leaves unspecified (04 R111, 09 R227, 19 R447) change, and nothing outside them, and no stream cache holds a line of them. -/
def Obligations.StoreFrame : Prop :=
  (∀ (s : State) (dpa x : Nat) (bs : List Byte), (x < dpa ∨ dpa + bs.length ≤ x) →
    mget (s.store dpa bs).mem.bytes x = mget s.mem.bytes x) ∧
  (∀ (s : State) (dpa n : Nat) (bs : List Byte) (v : Byte), s.inv → bs[n]? = some v → mget (s.store dpa bs).mem.bytes (dpa + n) = v) ∧
  (∀ (s : State) (dpa l : Nat) (bs : List Byte), l ∈ (s.store dpa bs).mem.poison ↔
    l ∈ s.mem.poison ∧ ¬ (dpa ≤ l * 64 ∧ l * 64 + 64 ≤ dpa + bs.length)) ∧
  (∀ (s : State) (dpa : Nat) (bs : List Byte), (s.store dpa bs).tiles = s.tiles ∧ (s.store dpa bs).ctxs = s.ctxs ∧ (s.store dpa bs).log = s.log ∧
    (s.store dpa bs).mem.tags = s.mem.tags) ∧
  (∀ (s : State) (l : List (Nat × Nat)), s.blur l = { s with mem := { s.mem with bytes := (s.blur l).mem.bytes }, clusters := (s.blur l).clusters, freeCtr := s.freeCtr + l.length } ∧
    (∀ c, ∀ g ∈ ((s.blur l).cl c).cache, g ∈ (s.cl c).cache ∧ ∀ e ∈ l, overlaps (g.line * 256) 256 e.1 e.2 = false) ∧
    ∀ x, (∀ e ∈ l, x < e.1 ∨ e.1 + e.2 ≤ x) → mget (s.blur l).mem.bytes x = mget s.mem.bytes x) ∧
  (∀ (s q t : State) (port : Fin 4) (addr dpa : Nat) (data : List Byte) (r : Bar2Op), (s.port port.val).up = true →
    (s.port port.val).held = [] → r = { write := true, addr, len := data.length, data } →
    (s.unlatch (.pf port)).updPort port.val (fun y => { y with held := [r] }) = q →
    q.bar2Look port.val r = (t, .pages [(dpa, data.length)]) → t.partPoison dpa data.length = false →
    ∃ u, exec (.bar2Write port addr data) s = .next u ∧ (u.port port.val).held = [] ∧
      (∀ x, (x < dpa ∨ dpa + data.length ≤ x) → mget u.mem.bytes x = mget t.mem.bytes x) ∧
      ∀ (n : Nat) (v : Byte), t.inv → data[n]? = some v → mget u.mem.bytes (dpa + n) = v)

/-- The bit numbering of records and of their fields (00 R9). -/
def Obligations.RecordBits : Prop :=
  (∀ len v n : Nat, n < 8 * len → ((leBytes len v).getD (n / 8) 0).getLsbD (n % 8) = v.testBit n) ∧
  (∀ v hi lo n : Nat, lo ≤ hi → (field v lo (hi + 1 - lo)).testBit n = (decide (n < hi + 1 - lo) && v.testBit (lo + n)))

/-- The seventeenth row (01 R25): with no skip in use, logical row i of each column is physical row i, and no battery of at most 16 rows holds a
tile of row 16. -/
def Obligations.SeventeenthRow : Prop :=
  ∀ (s : State) (c : Fin 16), (∀ x, s.skip c.val x = 31) →
    (∀ x i : Nat, i < 16 → physRow (s.skip c.val x) i = i) ∧
    (∀ b, shapeY0 (s.shape c.val b) + shapeH (s.shape c.val b) ≤ 16 → shapeX0 (s.shape c.val b) + shapeW (s.shape c.val b) ≤ 16 →
      ∀ e ∈ s.batTiles c.val b, taY e.2 ≠ 16 ∧ taC e.2 = c.val ∧ taY e.2 = shapeY0 (s.shape c.val b) + e.1 / 16)

/-- Confirmed errors against one unit count once (13 R317): one that arrives within 10 s of the last, while the unit's retest has not begun
(pending, or never to come, the unit being permanent), changes nothing. One that is not merged counts, as is stated here for the units and
states in which it muffles nothing: permanent ones, and a first error of a memory slice, an HBM channel or a far-tier channel. -/
def Obligations.ConfirmedErrorsCountOnce : Prop :=
  ∀ (s : State) (kind idx source cause : Nat),
    (ledLast (s.ledgerOf kind idx) ≠ 0xFFFFFFFF → s.ledger.opSec ≤ ledLast (s.ledgerOf kind idx) + 10 →
      ((kind, idx, 0) ∈ s.ledger.retests ∨ 2 ≤ ledState (s.ledgerOf kind idx)) → s.confirm kind idx source cause = s) ∧
    ((ledLast (s.ledgerOf kind idx) = 0xFFFFFFFF ∨ ledLast (s.ledgerOf kind idx) + 10 < s.ledger.opSec ∨
        ((kind, idx, 0) ∉ s.ledger.retests ∧ ledState (s.ledgerOf kind idx) < 2)) →
      (2 ≤ ledState (s.ledgerOf kind idx) ∨ ((kind = 3 ∨ kind = 6 ∨ kind = 7) ∧ ledState (s.ledgerOf kind idx) = 0 ∧
        (ledLast (s.ledgerOf kind idx) = 0xFFFFFFFF ∨ ledLast (s.ledgerOf kind idx) + 2592000 < s.ledger.opSec))) →
      field (s.ledgerOf kind idx).toNat 160 16 < 65535 →
      field ((s.confirm kind idx source cause).ledgerOf kind idx).toNat 160 16 = field (s.ledgerOf kind idx).toNat 160 16 + 1)
end

