-- ==== Sys2Proof/Laws/Table.lean ====
section
/-! SUPPORT. Laws of sparse tables and of memory: a read after a write, and the canonical form that every operation keeps. -/
namespace Sys2Proof.Machine

/-! Tables. -/

@[simp] theorem tget_nil {α : Type} (k : Nat) (d : α) : tget ([] : Tbl α) k d = d := rfl

/-- A key just written reads as the value written. -/
@[simp] theorem tget_tset_same {α : Type} (t : Tbl α) (k : Nat) (v d : α) : tget (tset t k v) k d = v := by
  induction t with
  | nil => simp [tset, tget]
  | cons e r ih =>
    obtain ⟨k', w⟩ := e
    simp only [tset]
    split
    · simp [tget]
    · split
      · simp [tget]
      · rename_i h
        simp [tget, h, ih]

/-- Every other key reads as before. -/
theorem tget_tset_ne {α : Type} (t : Tbl α) {k j : Nat} (v d : α) (h : j ≠ k) : tget (tset t k v) j d = tget t j d := by
  induction t with
  | nil => simp [tset, tget, h]
  | cons e r ih =>
    obtain ⟨k', w⟩ := e
    simp only [tset]
    split
    · simp [tget, h]
    · split
      · rename_i hk
        subst hk
        simp [tget, h]
      · simp only [tget]
        split
        · rfl
        · exact ih

/-- A read after a write, at any key. -/
theorem tget_tset {α : Type} (t : Tbl α) (k j : Nat) (v d : α) : tget (tset t k v) j d = if j = k then v else tget t j d := by
  by_cases h : j = k
  · subst h
    simp
  · simp [h, tget_tset_ne t v d h]

/-- A map over the values of a table is a map of what is read, where the default is a fixed point. -/
theorem tget_tmap {α : Type} (t : Tbl α) (f : Nat → α → α) (k : Nat) (d : α) (h : f k d = d) :
    tget (tmap t f) k d = f k (tget t k d) := by
  induction t with
  | nil => simp [tmap, tget, h]
  | cons e r ih =>
    obtain ⟨k', w⟩ := e
    simp only [tmap, List.map_cons, tget] at ih ⊢
    split
    · rename_i hk
      subst hk
      rfl
    · exact ih

/-! The canonical form of memory. -/

theorem Mem.wfFrom_le {lo hi : Nat} (h : lo ≤ hi) {m : Mem} (w : Mem.wfFrom hi m = true) : Mem.wfFrom lo m = true := by
  cases m with
  | nil => rfl
  | cons c r =>
    obtain ⟨a, b⟩ := c
    simp only [Mem.wfFrom, Bool.and_eq_true, decide_eq_true_eq] at w ⊢
    exact ⟨⟨Nat.le_trans h w.1.1, w.1.2⟩, w.2⟩

theorem mset_wfFrom {lo a : Nat} (hl : lo ≤ a) (b : Byte) {m : Mem} (w : Mem.wfFrom lo m = true) : Mem.wfFrom lo (mset m a b) = true := by
  induction m generalizing lo with
  | nil =>
    simp only [mset]
    split
    · rfl
    · simp_all [Mem.wfFrom]
  | cons c r ih =>
    obtain ⟨a', b'⟩ := c
    simp only [Mem.wfFrom, Bool.and_eq_true, decide_eq_true_eq] at w
    simp only [mset]
    split
    · rename_i hlt
      split
      · simp only [Mem.wfFrom, Bool.and_eq_true, decide_eq_true_eq]
        exact w
      · rename_i hb
        simp only [Mem.wfFrom, Bool.and_eq_true, decide_eq_true_eq]
        exact ⟨⟨hl, hb⟩, ⟨hlt, w.1.2⟩, w.2⟩
    · split
      · rename_i ha
        subst ha
        split
        · exact Mem.wfFrom_le (Nat.le_succ_of_le hl) w.2
        · rename_i hb
          simp only [Mem.wfFrom, Bool.and_eq_true, decide_eq_true_eq]
          exact ⟨⟨hl, hb⟩, w.2⟩
      · simp only [Mem.wfFrom, Bool.and_eq_true, decide_eq_true_eq]
        exact ⟨w.1, ih (by omega) w.2⟩

/-- Writing a byte keeps the canonical form. -/
@[simp] theorem mset_wf {m : Mem} (w : Memory.wf m = true) (a : Nat) (b : Byte) : Memory.wf (mset m a b) = true :=
  mset_wfFrom (Nat.zero_le a) b w

/-- Writing a number keeps the canonical form. -/
@[simp] theorem mwrite_wf {m : Mem} (w : Memory.wf m = true) (a n v : Nat) : Memory.wf (mwrite m a n v) = true := by
  induction n generalizing m a v with
  | zero => exact w
  | succ n ih => exact ih (mset_wf w a _) _ _

/-- Writing a list of bytes keeps the canonical form. -/
@[simp] theorem mwriteBytes_wf {m : Mem} (w : Memory.wf m = true) (a : Nat) (l : List Byte) : Memory.wf (mwriteBytes m a l) = true := by
  induction l generalizing m a with
  | nil => exact w
  | cons b r ih => exact ih (mset_wf w a b) _

/-- Writing under a mask keeps the canonical form. -/
@[simp] theorem mwriteMasked_wf {m : Mem} (w : Memory.wf m = true) (a : Nat) (l : List (Bool × Byte)) :
    Memory.wf (mwriteMasked m a l) = true := by
  induction l generalizing m a with
  | nil => exact w
  | cons e r ih =>
    obtain ⟨e, b⟩ := e
    refine ih ?_ _
    split
    · exact mset_wf w a b
    · exact w

theorem filter_wfFrom (p : Host.Cell → Bool) {lo : Nat} {m : Mem} (w : Mem.wfFrom lo m = true) : Mem.wfFrom lo (m.filter p) = true := by
  induction m generalizing lo with
  | nil => rfl
  | cons c r ih =>
    obtain ⟨a, b⟩ := c
    simp only [Mem.wfFrom, Bool.and_eq_true, decide_eq_true_eq] at w
    simp only [List.filter_cons]
    split
    · simp only [Mem.wfFrom, Bool.and_eq_true, decide_eq_true_eq]
      exact ⟨w.1, ih w.2⟩
    · exact ih (Mem.wfFrom_le (Nat.le_succ_of_le w.1.1) w.2)

/-- Zeroing a range keeps the canonical form. -/
@[simp] theorem mclear_wf {m : Mem} (w : Memory.wf m = true) (a len : Nat) : Memory.wf (mclear m a len) = true := filter_wfFrom _ w

/-- Writing listed bytes over a memory keeps the canonical form. -/
@[simp] theorem mpaste_wf {m : Mem} (w : Memory.wf m = true) (l : Mem) : Memory.wf (mpaste m l) = true := by
  induction l generalizing m with
  | nil => exact w
  | cons c r ih => exact ih (mset_wf w c.1 c.2)

/-- Copying keeps the canonical form. -/
@[simp] theorem mcopy_wf (src : Mem) (a len : Nat) {dst : Mem} (w : Memory.wf dst = true) (b : Nat) :
    Memory.wf (mcopy src a len dst b) = true := mpaste_wf (mclear_wf w b len) _

@[simp] theorem nil_wf : Memory.wf [] = true := rfl

/-! Reads after writes, in canonical memories. -/

theorem mget_below {lo a : Nat} {m : Mem} (w : Mem.wfFrom lo m = true) (h : a < lo) : mget m a = 0 := by
  induction m generalizing lo with
  | nil => rfl
  | cons c r ih =>
    obtain ⟨a', b'⟩ := c
    simp only [Mem.wfFrom, Bool.and_eq_true, decide_eq_true_eq] at w
    have hne : a ≠ a' := by omega
    simp only [mget, hne, if_false]
    exact ih w.2 (by omega)

theorem mget_mset_from {lo : Nat} {m : Mem} (w : Mem.wfFrom lo m = true) (a j : Nat) (b : Byte) :
    mget (mset m a b) j = if j = a then b else mget m j := by
  induction m generalizing lo with
  | nil =>
    simp only [mset]
    split
    · rename_i hb
      subst hb
      simp [mget]
    · simp only [mget]
  | cons c r ih =>
    obtain ⟨a', b'⟩ := c
    simp only [Mem.wfFrom, Bool.and_eq_true, decide_eq_true_eq] at w
    simp only [mset]
    split
    · rename_i hlt
      split
      · rename_i hb
        subst hb
        split
        · rename_i hj
          subst hj
          have hne : j ≠ a' := by omega
          simp only [mget, hne, if_false]
          exact mget_below w.2 (by omega)
        · rfl
      · simp only [mget]
    · split
      · rename_i ha
        subst ha
        split
        · rename_i hb
          subst hb
          split
          · rename_i hj
            subst hj
            exact mget_below w.2 (by omega)
          · rename_i hj
            simp only [mget, hj, if_false]
        · rename_i hb
          simp only [mget]
          split <;> simp_all
      · rename_i h1 h2
        simp only [mget]
        split
        · rename_i hj
          subst hj
          have : ¬ j = a := fun h => h2 h.symm
          simp [this]
        · rw [ih w.2]

/-- A read after a write: the byte written, every other byte as before. -/
theorem mget_mset {m : Mem} (w : Memory.wf m = true) (a j : Nat) (b : Byte) : mget (mset m a b) j = if j = a then b else mget m j :=
  mget_mset_from w a j b

/-- A number written leaves every byte outside it alone. -/
theorem mget_mwrite_outside {m : Mem} (w : Memory.wf m = true) (a n v j : Nat) (h : j < a ∨ a + n ≤ j) :
    mget (mwrite m a n v) j = mget m j := by
  induction n generalizing m a v with
  | zero => rfl
  | succ n ih =>
    simp only [mwrite]
    rw [ih (mset_wf w a _) _ _ (by omega), mget_mset w]
    have : j ≠ a := by omega
    simp [this]

/-- A list of bytes written leaves every byte outside it alone. -/
theorem mget_mwriteBytes_outside {m : Mem} (w : Memory.wf m = true) (a j : Nat) (l : List Byte) (h : j < a ∨ a + l.length ≤ j) :
    mget (mwriteBytes m a l) j = mget m j := by
  induction l generalizing m a with
  | nil => rfl
  | cons b r ih =>
    simp only [mwriteBytes]
    simp only [List.length_cons] at h
    rw [ih (mset_wf w a b) _ (by omega), mget_mset w]
    have : j ≠ a := by omega
    simp [this]

/-- A number just written reads back, cut to its width. -/
theorem mread_mwrite {m : Mem} (w : Memory.wf m = true) (a n v : Nat) : mread (mwrite m a n v) a n = v % 256 ^ n := by
  induction n generalizing m a v with
  | zero => simp [mread, Nat.mod_one]
  | succ n ih =>
    simp only [mwrite, mread]
    rw [mget_mwrite_outside (mset_wf w a _) _ _ _ _ (by omega), mget_mset w, ih (mset_wf w a _)]
    simp only [if_true, BitVec.toNat_ofNat]
    have e : 256 ^ (n + 1) = 256 * 256 ^ n := by rw [Nat.pow_succ, Nat.mul_comm]
    rw [e, Nat.mod_mul]

/-- Bytes written read back. -/
theorem mbytes_mwriteBytes {m : Mem} (w : Memory.wf m = true) (a : Nat) (l : List Byte) : mbytes (mwriteBytes m a l) a l.length = l := by
  induction l generalizing m a with
  | nil => rfl
  | cons b r ih =>
    have e : mget (mwriteBytes (mset m a b) (a + 1) r) a = b := by
      rw [mget_mwriteBytes_outside (mset_wf w a b) _ _ _ (.inl (Nat.lt_succ_self a)), mget_mset w, if_pos rfl]
    simp only [mwriteBytes, List.length_cons, mbytes, e, ih (mset_wf w a b)]

end Sys2Proof.Machine
end

