-- ==== Sys2Proof/Laws/State.lean ====
section
/-! SUPPORT. What each named update of a part of the state leaves of the other parts, and what it makes of its own. -/
namespace Sys2Proof.Machine
variable (s : State)

/-! setTile writes tiles alone. -/

@[simp] theorem State.setTile_pending (ta : Nat) (t : Tile) : (s.setTile ta t).pending = s.pending := rfl
@[simp] theorem State.setTile_freeCtr (ta : Nat) (t : Tile) : (s.setTile ta t).freeCtr = s.freeCtr := rfl
@[simp] theorem State.setTile_out (ta : Nat) (t : Tile) : (s.setTile ta t).out = s.out := rfl
@[simp] theorem State.setTile_now (ta : Nat) (t : Tile) : (s.setTile ta t).now = s.now := rfl
@[simp] theorem State.setTile_bats (ta : Nat) (t : Tile) : (s.setTile ta t).bats = s.bats := rfl
@[simp] theorem State.setTile_batx (ta : Nat) (t : Tile) : (s.setTile ta t).batx = s.batx := rfl
@[simp] theorem State.setTile_descs (ta : Nat) (t : Tile) : (s.setTile ta t).descs = s.descs := rfl
@[simp] theorem State.setTile_descx (ta : Nat) (t : Tile) : (s.setTile ta t).descx = s.descx := rfl
@[simp] theorem State.setTile_clusters (ta : Nat) (t : Tile) : (s.setTile ta t).clusters = s.clusters := rfl
@[simp] theorem State.setTile_clx (ta : Nat) (t : Tile) : (s.setTile ta t).clx = s.clx := rfl
@[simp] theorem State.setTile_cly (ta : Nat) (t : Tile) : (s.setTile ta t).cly = s.cly := rfl
@[simp] theorem State.setTile_mem (ta : Nat) (t : Tile) : (s.setTile ta t).mem = s.mem := rfl
@[simp] theorem State.setTile_ctxs (ta : Nat) (t : Tile) : (s.setTile ta t).ctxs = s.ctxs := rfl
@[simp] theorem State.setTile_ctxx (ta : Nat) (t : Tile) : (s.setTile ta t).ctxx = s.ctxx := rfl
@[simp] theorem State.setTile_parts (ta : Nat) (t : Tile) : (s.setTile ta t).parts = s.parts := rfl
@[simp] theorem State.setTile_orders (ta : Nat) (t : Tile) : (s.setTile ta t).orders = s.orders := rfl
@[simp] theorem State.setTile_msg (ta : Nat) (t : Tile) : (s.setTile ta t).msg = s.msg := rfl
@[simp] theorem State.setTile_mesh (ta : Nat) (t : Tile) : (s.setTile ta t).mesh = s.mesh := rfl
@[simp] theorem State.setTile_hosts (ta : Nat) (t : Tile) : (s.setTile ta t).hosts = s.hosts := rfl
@[simp] theorem State.setTile_log (ta : Nat) (t : Tile) : (s.setTile ta t).log = s.log := rfl
@[simp] theorem State.setTile_ledger (ta : Nat) (t : Tile) : (s.setTile ta t).ledger = s.ledger := rfl
@[simp] theorem State.setTile_boot (ta : Nat) (t : Tile) : (s.setTile ta t).boot = s.boot := rfl
@[simp] theorem State.setTile_cfg (ta : Nat) (t : Tile) : (s.setTile ta t).cfg = s.cfg := rfl
@[simp] theorem State.setTile_fw (ta : Nat) (t : Tile) : (s.setTile ta t).fw = s.fw := rfl
@[simp] theorem State.setTile_pwr (ta : Nat) (t : Tile) : (s.setTile ta t).pwr = s.pwr := rfl
@[simp] theorem State.setTile_ring (ta : Nat) (t : Tile) : (s.setTile ta t).ring = s.ring := rfl
@[simp] theorem State.setTile_belfry (ta : Nat) (t : Tile) : (s.setTile ta t).belfry = s.belfry := rfl
@[simp] theorem State.setTile_smbus (ta : Nat) (t : Tile) : (s.setTile ta t).smbus = s.smbus := rfl
@[simp] theorem State.setTile_mon (ta : Nat) (t : Tile) : (s.setTile ta t).mon = s.mon := rfl
@[simp] theorem State.setTile_health (ta : Nat) (t : Tile) : (s.setTile ta t).health = s.health := rfl

/-- Reading the part that setTile writes. -/
theorem State.setTile_tile (ta : Nat) (t : Tile) (n : Nat) :
    (s.setTile ta t).tile n = if n = ta then t else s.tile n := tget_tset _ _ _ _ _

/-! updTile writes tiles alone. -/

@[simp] theorem State.updTile_pending (ta : Nat) (f : Tile → Tile) : (s.updTile ta f).pending = s.pending := rfl
@[simp] theorem State.updTile_freeCtr (ta : Nat) (f : Tile → Tile) : (s.updTile ta f).freeCtr = s.freeCtr := rfl
@[simp] theorem State.updTile_out (ta : Nat) (f : Tile → Tile) : (s.updTile ta f).out = s.out := rfl
@[simp] theorem State.updTile_now (ta : Nat) (f : Tile → Tile) : (s.updTile ta f).now = s.now := rfl
@[simp] theorem State.updTile_bats (ta : Nat) (f : Tile → Tile) : (s.updTile ta f).bats = s.bats := rfl
@[simp] theorem State.updTile_batx (ta : Nat) (f : Tile → Tile) : (s.updTile ta f).batx = s.batx := rfl
@[simp] theorem State.updTile_descs (ta : Nat) (f : Tile → Tile) : (s.updTile ta f).descs = s.descs := rfl
@[simp] theorem State.updTile_descx (ta : Nat) (f : Tile → Tile) : (s.updTile ta f).descx = s.descx := rfl
@[simp] theorem State.updTile_clusters (ta : Nat) (f : Tile → Tile) : (s.updTile ta f).clusters = s.clusters := rfl
@[simp] theorem State.updTile_clx (ta : Nat) (f : Tile → Tile) : (s.updTile ta f).clx = s.clx := rfl
@[simp] theorem State.updTile_cly (ta : Nat) (f : Tile → Tile) : (s.updTile ta f).cly = s.cly := rfl
@[simp] theorem State.updTile_mem (ta : Nat) (f : Tile → Tile) : (s.updTile ta f).mem = s.mem := rfl
@[simp] theorem State.updTile_ctxs (ta : Nat) (f : Tile → Tile) : (s.updTile ta f).ctxs = s.ctxs := rfl
@[simp] theorem State.updTile_ctxx (ta : Nat) (f : Tile → Tile) : (s.updTile ta f).ctxx = s.ctxx := rfl
@[simp] theorem State.updTile_parts (ta : Nat) (f : Tile → Tile) : (s.updTile ta f).parts = s.parts := rfl
@[simp] theorem State.updTile_orders (ta : Nat) (f : Tile → Tile) : (s.updTile ta f).orders = s.orders := rfl
@[simp] theorem State.updTile_msg (ta : Nat) (f : Tile → Tile) : (s.updTile ta f).msg = s.msg := rfl
@[simp] theorem State.updTile_mesh (ta : Nat) (f : Tile → Tile) : (s.updTile ta f).mesh = s.mesh := rfl
@[simp] theorem State.updTile_hosts (ta : Nat) (f : Tile → Tile) : (s.updTile ta f).hosts = s.hosts := rfl
@[simp] theorem State.updTile_log (ta : Nat) (f : Tile → Tile) : (s.updTile ta f).log = s.log := rfl
@[simp] theorem State.updTile_ledger (ta : Nat) (f : Tile → Tile) : (s.updTile ta f).ledger = s.ledger := rfl
@[simp] theorem State.updTile_boot (ta : Nat) (f : Tile → Tile) : (s.updTile ta f).boot = s.boot := rfl
@[simp] theorem State.updTile_cfg (ta : Nat) (f : Tile → Tile) : (s.updTile ta f).cfg = s.cfg := rfl
@[simp] theorem State.updTile_fw (ta : Nat) (f : Tile → Tile) : (s.updTile ta f).fw = s.fw := rfl
@[simp] theorem State.updTile_pwr (ta : Nat) (f : Tile → Tile) : (s.updTile ta f).pwr = s.pwr := rfl
@[simp] theorem State.updTile_ring (ta : Nat) (f : Tile → Tile) : (s.updTile ta f).ring = s.ring := rfl
@[simp] theorem State.updTile_belfry (ta : Nat) (f : Tile → Tile) : (s.updTile ta f).belfry = s.belfry := rfl
@[simp] theorem State.updTile_smbus (ta : Nat) (f : Tile → Tile) : (s.updTile ta f).smbus = s.smbus := rfl
@[simp] theorem State.updTile_mon (ta : Nat) (f : Tile → Tile) : (s.updTile ta f).mon = s.mon := rfl
@[simp] theorem State.updTile_health (ta : Nat) (f : Tile → Tile) : (s.updTile ta f).health = s.health := rfl

/-- Reading the part that updTile writes. -/
theorem State.updTile_tile (ta : Nat) (f : Tile → Tile) (n : Nat) :
    (s.updTile ta f).tile n = if n = ta then f (s.tile ta) else s.tile n := tget_tset _ _ _ _ _

/-! setBat writes bats alone. -/

@[simp] theorem State.setBat_pending (c b : Nat) (x : Battery) : (s.setBat c b x).pending = s.pending := rfl
@[simp] theorem State.setBat_freeCtr (c b : Nat) (x : Battery) : (s.setBat c b x).freeCtr = s.freeCtr := rfl
@[simp] theorem State.setBat_out (c b : Nat) (x : Battery) : (s.setBat c b x).out = s.out := rfl
@[simp] theorem State.setBat_now (c b : Nat) (x : Battery) : (s.setBat c b x).now = s.now := rfl
@[simp] theorem State.setBat_tiles (c b : Nat) (x : Battery) : (s.setBat c b x).tiles = s.tiles := rfl
@[simp] theorem State.setBat_batx (c b : Nat) (x : Battery) : (s.setBat c b x).batx = s.batx := rfl
@[simp] theorem State.setBat_descs (c b : Nat) (x : Battery) : (s.setBat c b x).descs = s.descs := rfl
@[simp] theorem State.setBat_descx (c b : Nat) (x : Battery) : (s.setBat c b x).descx = s.descx := rfl
@[simp] theorem State.setBat_clusters (c b : Nat) (x : Battery) : (s.setBat c b x).clusters = s.clusters := rfl
@[simp] theorem State.setBat_clx (c b : Nat) (x : Battery) : (s.setBat c b x).clx = s.clx := rfl
@[simp] theorem State.setBat_cly (c b : Nat) (x : Battery) : (s.setBat c b x).cly = s.cly := rfl
@[simp] theorem State.setBat_mem (c b : Nat) (x : Battery) : (s.setBat c b x).mem = s.mem := rfl
@[simp] theorem State.setBat_ctxs (c b : Nat) (x : Battery) : (s.setBat c b x).ctxs = s.ctxs := rfl
@[simp] theorem State.setBat_ctxx (c b : Nat) (x : Battery) : (s.setBat c b x).ctxx = s.ctxx := rfl
@[simp] theorem State.setBat_parts (c b : Nat) (x : Battery) : (s.setBat c b x).parts = s.parts := rfl
@[simp] theorem State.setBat_orders (c b : Nat) (x : Battery) : (s.setBat c b x).orders = s.orders := rfl
@[simp] theorem State.setBat_msg (c b : Nat) (x : Battery) : (s.setBat c b x).msg = s.msg := rfl
@[simp] theorem State.setBat_mesh (c b : Nat) (x : Battery) : (s.setBat c b x).mesh = s.mesh := rfl
@[simp] theorem State.setBat_hosts (c b : Nat) (x : Battery) : (s.setBat c b x).hosts = s.hosts := rfl
@[simp] theorem State.setBat_log (c b : Nat) (x : Battery) : (s.setBat c b x).log = s.log := rfl
@[simp] theorem State.setBat_ledger (c b : Nat) (x : Battery) : (s.setBat c b x).ledger = s.ledger := rfl
@[simp] theorem State.setBat_boot (c b : Nat) (x : Battery) : (s.setBat c b x).boot = s.boot := rfl
@[simp] theorem State.setBat_cfg (c b : Nat) (x : Battery) : (s.setBat c b x).cfg = s.cfg := rfl
@[simp] theorem State.setBat_fw (c b : Nat) (x : Battery) : (s.setBat c b x).fw = s.fw := rfl
@[simp] theorem State.setBat_pwr (c b : Nat) (x : Battery) : (s.setBat c b x).pwr = s.pwr := rfl
@[simp] theorem State.setBat_ring (c b : Nat) (x : Battery) : (s.setBat c b x).ring = s.ring := rfl
@[simp] theorem State.setBat_belfry (c b : Nat) (x : Battery) : (s.setBat c b x).belfry = s.belfry := rfl
@[simp] theorem State.setBat_smbus (c b : Nat) (x : Battery) : (s.setBat c b x).smbus = s.smbus := rfl
@[simp] theorem State.setBat_mon (c b : Nat) (x : Battery) : (s.setBat c b x).mon = s.mon := rfl
@[simp] theorem State.setBat_health (c b : Nat) (x : Battery) : (s.setBat c b x).health = s.health := rfl

/-- Reading the part that setBat writes. -/
theorem State.setBat_bat (c b : Nat) (x : Battery) (d e : Nat) :
    (s.setBat c b x).bat d e = if bKey d e = bKey c b then x else s.bat d e := tget_tset _ _ _ _ _

/-! updBat writes bats alone. -/

@[simp] theorem State.updBat_pending (c b : Nat) (f : Battery → Battery) : (s.updBat c b f).pending = s.pending := rfl
@[simp] theorem State.updBat_freeCtr (c b : Nat) (f : Battery → Battery) : (s.updBat c b f).freeCtr = s.freeCtr := rfl
@[simp] theorem State.updBat_out (c b : Nat) (f : Battery → Battery) : (s.updBat c b f).out = s.out := rfl
@[simp] theorem State.updBat_now (c b : Nat) (f : Battery → Battery) : (s.updBat c b f).now = s.now := rfl
@[simp] theorem State.updBat_tiles (c b : Nat) (f : Battery → Battery) : (s.updBat c b f).tiles = s.tiles := rfl
@[simp] theorem State.updBat_batx (c b : Nat) (f : Battery → Battery) : (s.updBat c b f).batx = s.batx := rfl
@[simp] theorem State.updBat_descs (c b : Nat) (f : Battery → Battery) : (s.updBat c b f).descs = s.descs := rfl
@[simp] theorem State.updBat_descx (c b : Nat) (f : Battery → Battery) : (s.updBat c b f).descx = s.descx := rfl
@[simp] theorem State.updBat_clusters (c b : Nat) (f : Battery → Battery) : (s.updBat c b f).clusters = s.clusters := rfl
@[simp] theorem State.updBat_clx (c b : Nat) (f : Battery → Battery) : (s.updBat c b f).clx = s.clx := rfl
@[simp] theorem State.updBat_cly (c b : Nat) (f : Battery → Battery) : (s.updBat c b f).cly = s.cly := rfl
@[simp] theorem State.updBat_mem (c b : Nat) (f : Battery → Battery) : (s.updBat c b f).mem = s.mem := rfl
@[simp] theorem State.updBat_ctxs (c b : Nat) (f : Battery → Battery) : (s.updBat c b f).ctxs = s.ctxs := rfl
@[simp] theorem State.updBat_ctxx (c b : Nat) (f : Battery → Battery) : (s.updBat c b f).ctxx = s.ctxx := rfl
@[simp] theorem State.updBat_parts (c b : Nat) (f : Battery → Battery) : (s.updBat c b f).parts = s.parts := rfl
@[simp] theorem State.updBat_orders (c b : Nat) (f : Battery → Battery) : (s.updBat c b f).orders = s.orders := rfl
@[simp] theorem State.updBat_msg (c b : Nat) (f : Battery → Battery) : (s.updBat c b f).msg = s.msg := rfl
@[simp] theorem State.updBat_mesh (c b : Nat) (f : Battery → Battery) : (s.updBat c b f).mesh = s.mesh := rfl
@[simp] theorem State.updBat_hosts (c b : Nat) (f : Battery → Battery) : (s.updBat c b f).hosts = s.hosts := rfl
@[simp] theorem State.updBat_log (c b : Nat) (f : Battery → Battery) : (s.updBat c b f).log = s.log := rfl
@[simp] theorem State.updBat_ledger (c b : Nat) (f : Battery → Battery) : (s.updBat c b f).ledger = s.ledger := rfl
@[simp] theorem State.updBat_boot (c b : Nat) (f : Battery → Battery) : (s.updBat c b f).boot = s.boot := rfl
@[simp] theorem State.updBat_cfg (c b : Nat) (f : Battery → Battery) : (s.updBat c b f).cfg = s.cfg := rfl
@[simp] theorem State.updBat_fw (c b : Nat) (f : Battery → Battery) : (s.updBat c b f).fw = s.fw := rfl
@[simp] theorem State.updBat_pwr (c b : Nat) (f : Battery → Battery) : (s.updBat c b f).pwr = s.pwr := rfl
@[simp] theorem State.updBat_ring (c b : Nat) (f : Battery → Battery) : (s.updBat c b f).ring = s.ring := rfl
@[simp] theorem State.updBat_belfry (c b : Nat) (f : Battery → Battery) : (s.updBat c b f).belfry = s.belfry := rfl
@[simp] theorem State.updBat_smbus (c b : Nat) (f : Battery → Battery) : (s.updBat c b f).smbus = s.smbus := rfl
@[simp] theorem State.updBat_mon (c b : Nat) (f : Battery → Battery) : (s.updBat c b f).mon = s.mon := rfl
@[simp] theorem State.updBat_health (c b : Nat) (f : Battery → Battery) : (s.updBat c b f).health = s.health := rfl

/-- Reading the part that updBat writes. -/
theorem State.updBat_bat (c b : Nat) (f : Battery → Battery) (d e : Nat) :
    (s.updBat c b f).bat d e = if bKey d e = bKey c b then f (s.bat c b) else s.bat d e := tget_tset _ _ _ _ _

/-! updBatX writes batx alone. -/

@[simp] theorem State.updBatX_pending (c b : Nat) (f : BatteryX → BatteryX) : (s.updBatX c b f).pending = s.pending := rfl
@[simp] theorem State.updBatX_freeCtr (c b : Nat) (f : BatteryX → BatteryX) : (s.updBatX c b f).freeCtr = s.freeCtr := rfl
@[simp] theorem State.updBatX_out (c b : Nat) (f : BatteryX → BatteryX) : (s.updBatX c b f).out = s.out := rfl
@[simp] theorem State.updBatX_now (c b : Nat) (f : BatteryX → BatteryX) : (s.updBatX c b f).now = s.now := rfl
@[simp] theorem State.updBatX_tiles (c b : Nat) (f : BatteryX → BatteryX) : (s.updBatX c b f).tiles = s.tiles := rfl
@[simp] theorem State.updBatX_bats (c b : Nat) (f : BatteryX → BatteryX) : (s.updBatX c b f).bats = s.bats := rfl
@[simp] theorem State.updBatX_descs (c b : Nat) (f : BatteryX → BatteryX) : (s.updBatX c b f).descs = s.descs := rfl
@[simp] theorem State.updBatX_descx (c b : Nat) (f : BatteryX → BatteryX) : (s.updBatX c b f).descx = s.descx := rfl
@[simp] theorem State.updBatX_clusters (c b : Nat) (f : BatteryX → BatteryX) : (s.updBatX c b f).clusters = s.clusters := rfl
@[simp] theorem State.updBatX_clx (c b : Nat) (f : BatteryX → BatteryX) : (s.updBatX c b f).clx = s.clx := rfl
@[simp] theorem State.updBatX_cly (c b : Nat) (f : BatteryX → BatteryX) : (s.updBatX c b f).cly = s.cly := rfl
@[simp] theorem State.updBatX_mem (c b : Nat) (f : BatteryX → BatteryX) : (s.updBatX c b f).mem = s.mem := rfl
@[simp] theorem State.updBatX_ctxs (c b : Nat) (f : BatteryX → BatteryX) : (s.updBatX c b f).ctxs = s.ctxs := rfl
@[simp] theorem State.updBatX_ctxx (c b : Nat) (f : BatteryX → BatteryX) : (s.updBatX c b f).ctxx = s.ctxx := rfl
@[simp] theorem State.updBatX_parts (c b : Nat) (f : BatteryX → BatteryX) : (s.updBatX c b f).parts = s.parts := rfl
@[simp] theorem State.updBatX_orders (c b : Nat) (f : BatteryX → BatteryX) : (s.updBatX c b f).orders = s.orders := rfl
@[simp] theorem State.updBatX_msg (c b : Nat) (f : BatteryX → BatteryX) : (s.updBatX c b f).msg = s.msg := rfl
@[simp] theorem State.updBatX_mesh (c b : Nat) (f : BatteryX → BatteryX) : (s.updBatX c b f).mesh = s.mesh := rfl
@[simp] theorem State.updBatX_hosts (c b : Nat) (f : BatteryX → BatteryX) : (s.updBatX c b f).hosts = s.hosts := rfl
@[simp] theorem State.updBatX_log (c b : Nat) (f : BatteryX → BatteryX) : (s.updBatX c b f).log = s.log := rfl
@[simp] theorem State.updBatX_ledger (c b : Nat) (f : BatteryX → BatteryX) : (s.updBatX c b f).ledger = s.ledger := rfl
@[simp] theorem State.updBatX_boot (c b : Nat) (f : BatteryX → BatteryX) : (s.updBatX c b f).boot = s.boot := rfl
@[simp] theorem State.updBatX_cfg (c b : Nat) (f : BatteryX → BatteryX) : (s.updBatX c b f).cfg = s.cfg := rfl
@[simp] theorem State.updBatX_fw (c b : Nat) (f : BatteryX → BatteryX) : (s.updBatX c b f).fw = s.fw := rfl
@[simp] theorem State.updBatX_pwr (c b : Nat) (f : BatteryX → BatteryX) : (s.updBatX c b f).pwr = s.pwr := rfl
@[simp] theorem State.updBatX_ring (c b : Nat) (f : BatteryX → BatteryX) : (s.updBatX c b f).ring = s.ring := rfl
@[simp] theorem State.updBatX_belfry (c b : Nat) (f : BatteryX → BatteryX) : (s.updBatX c b f).belfry = s.belfry := rfl
@[simp] theorem State.updBatX_smbus (c b : Nat) (f : BatteryX → BatteryX) : (s.updBatX c b f).smbus = s.smbus := rfl
@[simp] theorem State.updBatX_mon (c b : Nat) (f : BatteryX → BatteryX) : (s.updBatX c b f).mon = s.mon := rfl
@[simp] theorem State.updBatX_health (c b : Nat) (f : BatteryX → BatteryX) : (s.updBatX c b f).health = s.health := rfl

/-- Reading the part that updBatX writes. -/
theorem State.updBatX_batX (c b : Nat) (f : BatteryX → BatteryX) (d e : Nat) :
    (s.updBatX c b f).batX d e = if bKey d e = bKey c b then f (s.batX c b) else s.batX d e := tget_tset _ _ _ _ _

/-! setDesc writes descs alone. -/

@[simp] theorem State.setDesc_pending (c e d : Nat) (x : Desc) : (s.setDesc c e d x).pending = s.pending := rfl
@[simp] theorem State.setDesc_freeCtr (c e d : Nat) (x : Desc) : (s.setDesc c e d x).freeCtr = s.freeCtr := rfl
@[simp] theorem State.setDesc_out (c e d : Nat) (x : Desc) : (s.setDesc c e d x).out = s.out := rfl
@[simp] theorem State.setDesc_now (c e d : Nat) (x : Desc) : (s.setDesc c e d x).now = s.now := rfl
@[simp] theorem State.setDesc_tiles (c e d : Nat) (x : Desc) : (s.setDesc c e d x).tiles = s.tiles := rfl
@[simp] theorem State.setDesc_bats (c e d : Nat) (x : Desc) : (s.setDesc c e d x).bats = s.bats := rfl
@[simp] theorem State.setDesc_batx (c e d : Nat) (x : Desc) : (s.setDesc c e d x).batx = s.batx := rfl
@[simp] theorem State.setDesc_descx (c e d : Nat) (x : Desc) : (s.setDesc c e d x).descx = s.descx := rfl
@[simp] theorem State.setDesc_clusters (c e d : Nat) (x : Desc) : (s.setDesc c e d x).clusters = s.clusters := rfl
@[simp] theorem State.setDesc_clx (c e d : Nat) (x : Desc) : (s.setDesc c e d x).clx = s.clx := rfl
@[simp] theorem State.setDesc_cly (c e d : Nat) (x : Desc) : (s.setDesc c e d x).cly = s.cly := rfl
@[simp] theorem State.setDesc_mem (c e d : Nat) (x : Desc) : (s.setDesc c e d x).mem = s.mem := rfl
@[simp] theorem State.setDesc_ctxs (c e d : Nat) (x : Desc) : (s.setDesc c e d x).ctxs = s.ctxs := rfl
@[simp] theorem State.setDesc_ctxx (c e d : Nat) (x : Desc) : (s.setDesc c e d x).ctxx = s.ctxx := rfl
@[simp] theorem State.setDesc_parts (c e d : Nat) (x : Desc) : (s.setDesc c e d x).parts = s.parts := rfl
@[simp] theorem State.setDesc_orders (c e d : Nat) (x : Desc) : (s.setDesc c e d x).orders = s.orders := rfl
@[simp] theorem State.setDesc_msg (c e d : Nat) (x : Desc) : (s.setDesc c e d x).msg = s.msg := rfl
@[simp] theorem State.setDesc_mesh (c e d : Nat) (x : Desc) : (s.setDesc c e d x).mesh = s.mesh := rfl
@[simp] theorem State.setDesc_hosts (c e d : Nat) (x : Desc) : (s.setDesc c e d x).hosts = s.hosts := rfl
@[simp] theorem State.setDesc_log (c e d : Nat) (x : Desc) : (s.setDesc c e d x).log = s.log := rfl
@[simp] theorem State.setDesc_ledger (c e d : Nat) (x : Desc) : (s.setDesc c e d x).ledger = s.ledger := rfl
@[simp] theorem State.setDesc_boot (c e d : Nat) (x : Desc) : (s.setDesc c e d x).boot = s.boot := rfl
@[simp] theorem State.setDesc_cfg (c e d : Nat) (x : Desc) : (s.setDesc c e d x).cfg = s.cfg := rfl
@[simp] theorem State.setDesc_fw (c e d : Nat) (x : Desc) : (s.setDesc c e d x).fw = s.fw := rfl
@[simp] theorem State.setDesc_pwr (c e d : Nat) (x : Desc) : (s.setDesc c e d x).pwr = s.pwr := rfl
@[simp] theorem State.setDesc_ring (c e d : Nat) (x : Desc) : (s.setDesc c e d x).ring = s.ring := rfl
@[simp] theorem State.setDesc_belfry (c e d : Nat) (x : Desc) : (s.setDesc c e d x).belfry = s.belfry := rfl
@[simp] theorem State.setDesc_smbus (c e d : Nat) (x : Desc) : (s.setDesc c e d x).smbus = s.smbus := rfl
@[simp] theorem State.setDesc_mon (c e d : Nat) (x : Desc) : (s.setDesc c e d x).mon = s.mon := rfl
@[simp] theorem State.setDesc_health (c e d : Nat) (x : Desc) : (s.setDesc c e d x).health = s.health := rfl

/-- Reading the part that setDesc writes. -/
theorem State.setDesc_desc (c e d : Nat) (x : Desc) (i j k : Nat) :
    (s.setDesc c e d x).desc i j k = if dKey i j k = dKey c e d then x else s.desc i j k := tget_tset _ _ _ _ _

/-! updDesc writes descs alone. -/

@[simp] theorem State.updDesc_pending (c e d : Nat) (f : Desc → Desc) : (s.updDesc c e d f).pending = s.pending := rfl
@[simp] theorem State.updDesc_freeCtr (c e d : Nat) (f : Desc → Desc) : (s.updDesc c e d f).freeCtr = s.freeCtr := rfl
@[simp] theorem State.updDesc_out (c e d : Nat) (f : Desc → Desc) : (s.updDesc c e d f).out = s.out := rfl
@[simp] theorem State.updDesc_now (c e d : Nat) (f : Desc → Desc) : (s.updDesc c e d f).now = s.now := rfl
@[simp] theorem State.updDesc_tiles (c e d : Nat) (f : Desc → Desc) : (s.updDesc c e d f).tiles = s.tiles := rfl
@[simp] theorem State.updDesc_bats (c e d : Nat) (f : Desc → Desc) : (s.updDesc c e d f).bats = s.bats := rfl
@[simp] theorem State.updDesc_batx (c e d : Nat) (f : Desc → Desc) : (s.updDesc c e d f).batx = s.batx := rfl
@[simp] theorem State.updDesc_descx (c e d : Nat) (f : Desc → Desc) : (s.updDesc c e d f).descx = s.descx := rfl
@[simp] theorem State.updDesc_clusters (c e d : Nat) (f : Desc → Desc) : (s.updDesc c e d f).clusters = s.clusters := rfl
@[simp] theorem State.updDesc_clx (c e d : Nat) (f : Desc → Desc) : (s.updDesc c e d f).clx = s.clx := rfl
@[simp] theorem State.updDesc_cly (c e d : Nat) (f : Desc → Desc) : (s.updDesc c e d f).cly = s.cly := rfl
@[simp] theorem State.updDesc_mem (c e d : Nat) (f : Desc → Desc) : (s.updDesc c e d f).mem = s.mem := rfl
@[simp] theorem State.updDesc_ctxs (c e d : Nat) (f : Desc → Desc) : (s.updDesc c e d f).ctxs = s.ctxs := rfl
@[simp] theorem State.updDesc_ctxx (c e d : Nat) (f : Desc → Desc) : (s.updDesc c e d f).ctxx = s.ctxx := rfl
@[simp] theorem State.updDesc_parts (c e d : Nat) (f : Desc → Desc) : (s.updDesc c e d f).parts = s.parts := rfl
@[simp] theorem State.updDesc_orders (c e d : Nat) (f : Desc → Desc) : (s.updDesc c e d f).orders = s.orders := rfl
@[simp] theorem State.updDesc_msg (c e d : Nat) (f : Desc → Desc) : (s.updDesc c e d f).msg = s.msg := rfl
@[simp] theorem State.updDesc_mesh (c e d : Nat) (f : Desc → Desc) : (s.updDesc c e d f).mesh = s.mesh := rfl
@[simp] theorem State.updDesc_hosts (c e d : Nat) (f : Desc → Desc) : (s.updDesc c e d f).hosts = s.hosts := rfl
@[simp] theorem State.updDesc_log (c e d : Nat) (f : Desc → Desc) : (s.updDesc c e d f).log = s.log := rfl
@[simp] theorem State.updDesc_ledger (c e d : Nat) (f : Desc → Desc) : (s.updDesc c e d f).ledger = s.ledger := rfl
@[simp] theorem State.updDesc_boot (c e d : Nat) (f : Desc → Desc) : (s.updDesc c e d f).boot = s.boot := rfl
@[simp] theorem State.updDesc_cfg (c e d : Nat) (f : Desc → Desc) : (s.updDesc c e d f).cfg = s.cfg := rfl
@[simp] theorem State.updDesc_fw (c e d : Nat) (f : Desc → Desc) : (s.updDesc c e d f).fw = s.fw := rfl
@[simp] theorem State.updDesc_pwr (c e d : Nat) (f : Desc → Desc) : (s.updDesc c e d f).pwr = s.pwr := rfl
@[simp] theorem State.updDesc_ring (c e d : Nat) (f : Desc → Desc) : (s.updDesc c e d f).ring = s.ring := rfl
@[simp] theorem State.updDesc_belfry (c e d : Nat) (f : Desc → Desc) : (s.updDesc c e d f).belfry = s.belfry := rfl
@[simp] theorem State.updDesc_smbus (c e d : Nat) (f : Desc → Desc) : (s.updDesc c e d f).smbus = s.smbus := rfl
@[simp] theorem State.updDesc_mon (c e d : Nat) (f : Desc → Desc) : (s.updDesc c e d f).mon = s.mon := rfl
@[simp] theorem State.updDesc_health (c e d : Nat) (f : Desc → Desc) : (s.updDesc c e d f).health = s.health := rfl

/-- Reading the part that updDesc writes. -/
theorem State.updDesc_desc (c e d : Nat) (f : Desc → Desc) (i j k : Nat) :
    (s.updDesc c e d f).desc i j k = if dKey i j k = dKey c e d then f (s.desc c e d) else s.desc i j k := tget_tset _ _ _ _ _

/-! updDescX writes descx alone. -/

@[simp] theorem State.updDescX_pending (c e d : Nat) (f : DescX → DescX) : (s.updDescX c e d f).pending = s.pending := rfl
@[simp] theorem State.updDescX_freeCtr (c e d : Nat) (f : DescX → DescX) : (s.updDescX c e d f).freeCtr = s.freeCtr := rfl
@[simp] theorem State.updDescX_out (c e d : Nat) (f : DescX → DescX) : (s.updDescX c e d f).out = s.out := rfl
@[simp] theorem State.updDescX_now (c e d : Nat) (f : DescX → DescX) : (s.updDescX c e d f).now = s.now := rfl
@[simp] theorem State.updDescX_tiles (c e d : Nat) (f : DescX → DescX) : (s.updDescX c e d f).tiles = s.tiles := rfl
@[simp] theorem State.updDescX_bats (c e d : Nat) (f : DescX → DescX) : (s.updDescX c e d f).bats = s.bats := rfl
@[simp] theorem State.updDescX_batx (c e d : Nat) (f : DescX → DescX) : (s.updDescX c e d f).batx = s.batx := rfl
@[simp] theorem State.updDescX_descs (c e d : Nat) (f : DescX → DescX) : (s.updDescX c e d f).descs = s.descs := rfl
@[simp] theorem State.updDescX_clusters (c e d : Nat) (f : DescX → DescX) : (s.updDescX c e d f).clusters = s.clusters := rfl
@[simp] theorem State.updDescX_clx (c e d : Nat) (f : DescX → DescX) : (s.updDescX c e d f).clx = s.clx := rfl
@[simp] theorem State.updDescX_cly (c e d : Nat) (f : DescX → DescX) : (s.updDescX c e d f).cly = s.cly := rfl
@[simp] theorem State.updDescX_mem (c e d : Nat) (f : DescX → DescX) : (s.updDescX c e d f).mem = s.mem := rfl
@[simp] theorem State.updDescX_ctxs (c e d : Nat) (f : DescX → DescX) : (s.updDescX c e d f).ctxs = s.ctxs := rfl
@[simp] theorem State.updDescX_ctxx (c e d : Nat) (f : DescX → DescX) : (s.updDescX c e d f).ctxx = s.ctxx := rfl
@[simp] theorem State.updDescX_parts (c e d : Nat) (f : DescX → DescX) : (s.updDescX c e d f).parts = s.parts := rfl
@[simp] theorem State.updDescX_orders (c e d : Nat) (f : DescX → DescX) : (s.updDescX c e d f).orders = s.orders := rfl
@[simp] theorem State.updDescX_msg (c e d : Nat) (f : DescX → DescX) : (s.updDescX c e d f).msg = s.msg := rfl
@[simp] theorem State.updDescX_mesh (c e d : Nat) (f : DescX → DescX) : (s.updDescX c e d f).mesh = s.mesh := rfl
@[simp] theorem State.updDescX_hosts (c e d : Nat) (f : DescX → DescX) : (s.updDescX c e d f).hosts = s.hosts := rfl
@[simp] theorem State.updDescX_log (c e d : Nat) (f : DescX → DescX) : (s.updDescX c e d f).log = s.log := rfl
@[simp] theorem State.updDescX_ledger (c e d : Nat) (f : DescX → DescX) : (s.updDescX c e d f).ledger = s.ledger := rfl
@[simp] theorem State.updDescX_boot (c e d : Nat) (f : DescX → DescX) : (s.updDescX c e d f).boot = s.boot := rfl
@[simp] theorem State.updDescX_cfg (c e d : Nat) (f : DescX → DescX) : (s.updDescX c e d f).cfg = s.cfg := rfl
@[simp] theorem State.updDescX_fw (c e d : Nat) (f : DescX → DescX) : (s.updDescX c e d f).fw = s.fw := rfl
@[simp] theorem State.updDescX_pwr (c e d : Nat) (f : DescX → DescX) : (s.updDescX c e d f).pwr = s.pwr := rfl
@[simp] theorem State.updDescX_ring (c e d : Nat) (f : DescX → DescX) : (s.updDescX c e d f).ring = s.ring := rfl
@[simp] theorem State.updDescX_belfry (c e d : Nat) (f : DescX → DescX) : (s.updDescX c e d f).belfry = s.belfry := rfl
@[simp] theorem State.updDescX_smbus (c e d : Nat) (f : DescX → DescX) : (s.updDescX c e d f).smbus = s.smbus := rfl
@[simp] theorem State.updDescX_mon (c e d : Nat) (f : DescX → DescX) : (s.updDescX c e d f).mon = s.mon := rfl
@[simp] theorem State.updDescX_health (c e d : Nat) (f : DescX → DescX) : (s.updDescX c e d f).health = s.health := rfl

/-- Reading the part that updDescX writes. -/
theorem State.updDescX_descX (c e d : Nat) (f : DescX → DescX) (i j k : Nat) :
    (s.updDescX c e d f).descX i j k = if dKey i j k = dKey c e d then f (s.descX c e d) else s.descX i j k := tget_tset _ _ _ _ _

/-! updCl writes clusters alone. -/

@[simp] theorem State.updCl_pending (c : Nat) (f : Cluster → Cluster) : (s.updCl c f).pending = s.pending := rfl
@[simp] theorem State.updCl_freeCtr (c : Nat) (f : Cluster → Cluster) : (s.updCl c f).freeCtr = s.freeCtr := rfl
@[simp] theorem State.updCl_out (c : Nat) (f : Cluster → Cluster) : (s.updCl c f).out = s.out := rfl
@[simp] theorem State.updCl_now (c : Nat) (f : Cluster → Cluster) : (s.updCl c f).now = s.now := rfl
@[simp] theorem State.updCl_tiles (c : Nat) (f : Cluster → Cluster) : (s.updCl c f).tiles = s.tiles := rfl
@[simp] theorem State.updCl_bats (c : Nat) (f : Cluster → Cluster) : (s.updCl c f).bats = s.bats := rfl
@[simp] theorem State.updCl_batx (c : Nat) (f : Cluster → Cluster) : (s.updCl c f).batx = s.batx := rfl
@[simp] theorem State.updCl_descs (c : Nat) (f : Cluster → Cluster) : (s.updCl c f).descs = s.descs := rfl
@[simp] theorem State.updCl_descx (c : Nat) (f : Cluster → Cluster) : (s.updCl c f).descx = s.descx := rfl
@[simp] theorem State.updCl_clx (c : Nat) (f : Cluster → Cluster) : (s.updCl c f).clx = s.clx := rfl
@[simp] theorem State.updCl_cly (c : Nat) (f : Cluster → Cluster) : (s.updCl c f).cly = s.cly := rfl
@[simp] theorem State.updCl_mem (c : Nat) (f : Cluster → Cluster) : (s.updCl c f).mem = s.mem := rfl
@[simp] theorem State.updCl_ctxs (c : Nat) (f : Cluster → Cluster) : (s.updCl c f).ctxs = s.ctxs := rfl
@[simp] theorem State.updCl_ctxx (c : Nat) (f : Cluster → Cluster) : (s.updCl c f).ctxx = s.ctxx := rfl
@[simp] theorem State.updCl_parts (c : Nat) (f : Cluster → Cluster) : (s.updCl c f).parts = s.parts := rfl
@[simp] theorem State.updCl_orders (c : Nat) (f : Cluster → Cluster) : (s.updCl c f).orders = s.orders := rfl
@[simp] theorem State.updCl_msg (c : Nat) (f : Cluster → Cluster) : (s.updCl c f).msg = s.msg := rfl
@[simp] theorem State.updCl_mesh (c : Nat) (f : Cluster → Cluster) : (s.updCl c f).mesh = s.mesh := rfl
@[simp] theorem State.updCl_hosts (c : Nat) (f : Cluster → Cluster) : (s.updCl c f).hosts = s.hosts := rfl
@[simp] theorem State.updCl_log (c : Nat) (f : Cluster → Cluster) : (s.updCl c f).log = s.log := rfl
@[simp] theorem State.updCl_ledger (c : Nat) (f : Cluster → Cluster) : (s.updCl c f).ledger = s.ledger := rfl
@[simp] theorem State.updCl_boot (c : Nat) (f : Cluster → Cluster) : (s.updCl c f).boot = s.boot := rfl
@[simp] theorem State.updCl_cfg (c : Nat) (f : Cluster → Cluster) : (s.updCl c f).cfg = s.cfg := rfl
@[simp] theorem State.updCl_fw (c : Nat) (f : Cluster → Cluster) : (s.updCl c f).fw = s.fw := rfl
@[simp] theorem State.updCl_pwr (c : Nat) (f : Cluster → Cluster) : (s.updCl c f).pwr = s.pwr := rfl
@[simp] theorem State.updCl_ring (c : Nat) (f : Cluster → Cluster) : (s.updCl c f).ring = s.ring := rfl
@[simp] theorem State.updCl_belfry (c : Nat) (f : Cluster → Cluster) : (s.updCl c f).belfry = s.belfry := rfl
@[simp] theorem State.updCl_smbus (c : Nat) (f : Cluster → Cluster) : (s.updCl c f).smbus = s.smbus := rfl
@[simp] theorem State.updCl_mon (c : Nat) (f : Cluster → Cluster) : (s.updCl c f).mon = s.mon := rfl
@[simp] theorem State.updCl_health (c : Nat) (f : Cluster → Cluster) : (s.updCl c f).health = s.health := rfl

/-- Reading the part that updCl writes. -/
theorem State.updCl_cl (c : Nat) (f : Cluster → Cluster) (n : Nat) :
    (s.updCl c f).cl n = if n = c then f (s.cl c) else s.cl n := tget_tset _ _ _ _ _

/-! updClX writes clx alone. -/

@[simp] theorem State.updClX_pending (c : Nat) (f : ClusterX → ClusterX) : (s.updClX c f).pending = s.pending := rfl
@[simp] theorem State.updClX_freeCtr (c : Nat) (f : ClusterX → ClusterX) : (s.updClX c f).freeCtr = s.freeCtr := rfl
@[simp] theorem State.updClX_out (c : Nat) (f : ClusterX → ClusterX) : (s.updClX c f).out = s.out := rfl
@[simp] theorem State.updClX_now (c : Nat) (f : ClusterX → ClusterX) : (s.updClX c f).now = s.now := rfl
@[simp] theorem State.updClX_tiles (c : Nat) (f : ClusterX → ClusterX) : (s.updClX c f).tiles = s.tiles := rfl
@[simp] theorem State.updClX_bats (c : Nat) (f : ClusterX → ClusterX) : (s.updClX c f).bats = s.bats := rfl
@[simp] theorem State.updClX_batx (c : Nat) (f : ClusterX → ClusterX) : (s.updClX c f).batx = s.batx := rfl
@[simp] theorem State.updClX_descs (c : Nat) (f : ClusterX → ClusterX) : (s.updClX c f).descs = s.descs := rfl
@[simp] theorem State.updClX_descx (c : Nat) (f : ClusterX → ClusterX) : (s.updClX c f).descx = s.descx := rfl
@[simp] theorem State.updClX_clusters (c : Nat) (f : ClusterX → ClusterX) : (s.updClX c f).clusters = s.clusters := rfl
@[simp] theorem State.updClX_cly (c : Nat) (f : ClusterX → ClusterX) : (s.updClX c f).cly = s.cly := rfl
@[simp] theorem State.updClX_mem (c : Nat) (f : ClusterX → ClusterX) : (s.updClX c f).mem = s.mem := rfl
@[simp] theorem State.updClX_ctxs (c : Nat) (f : ClusterX → ClusterX) : (s.updClX c f).ctxs = s.ctxs := rfl
@[simp] theorem State.updClX_ctxx (c : Nat) (f : ClusterX → ClusterX) : (s.updClX c f).ctxx = s.ctxx := rfl
@[simp] theorem State.updClX_parts (c : Nat) (f : ClusterX → ClusterX) : (s.updClX c f).parts = s.parts := rfl
@[simp] theorem State.updClX_orders (c : Nat) (f : ClusterX → ClusterX) : (s.updClX c f).orders = s.orders := rfl
@[simp] theorem State.updClX_msg (c : Nat) (f : ClusterX → ClusterX) : (s.updClX c f).msg = s.msg := rfl
@[simp] theorem State.updClX_mesh (c : Nat) (f : ClusterX → ClusterX) : (s.updClX c f).mesh = s.mesh := rfl
@[simp] theorem State.updClX_hosts (c : Nat) (f : ClusterX → ClusterX) : (s.updClX c f).hosts = s.hosts := rfl
@[simp] theorem State.updClX_log (c : Nat) (f : ClusterX → ClusterX) : (s.updClX c f).log = s.log := rfl
@[simp] theorem State.updClX_ledger (c : Nat) (f : ClusterX → ClusterX) : (s.updClX c f).ledger = s.ledger := rfl
@[simp] theorem State.updClX_boot (c : Nat) (f : ClusterX → ClusterX) : (s.updClX c f).boot = s.boot := rfl
@[simp] theorem State.updClX_cfg (c : Nat) (f : ClusterX → ClusterX) : (s.updClX c f).cfg = s.cfg := rfl
@[simp] theorem State.updClX_fw (c : Nat) (f : ClusterX → ClusterX) : (s.updClX c f).fw = s.fw := rfl
@[simp] theorem State.updClX_pwr (c : Nat) (f : ClusterX → ClusterX) : (s.updClX c f).pwr = s.pwr := rfl
@[simp] theorem State.updClX_ring (c : Nat) (f : ClusterX → ClusterX) : (s.updClX c f).ring = s.ring := rfl
@[simp] theorem State.updClX_belfry (c : Nat) (f : ClusterX → ClusterX) : (s.updClX c f).belfry = s.belfry := rfl
@[simp] theorem State.updClX_smbus (c : Nat) (f : ClusterX → ClusterX) : (s.updClX c f).smbus = s.smbus := rfl
@[simp] theorem State.updClX_mon (c : Nat) (f : ClusterX → ClusterX) : (s.updClX c f).mon = s.mon := rfl
@[simp] theorem State.updClX_health (c : Nat) (f : ClusterX → ClusterX) : (s.updClX c f).health = s.health := rfl

/-- Reading the part that updClX writes. -/
theorem State.updClX_clX (c : Nat) (f : ClusterX → ClusterX) (n : Nat) :
    (s.updClX c f).clX n = if n = c then f (s.clX c) else s.clX n := tget_tset _ _ _ _ _

/-! updClY writes cly alone. -/

@[simp] theorem State.updClY_pending (c : Nat) (f : ClusterY → ClusterY) : (s.updClY c f).pending = s.pending := rfl
@[simp] theorem State.updClY_freeCtr (c : Nat) (f : ClusterY → ClusterY) : (s.updClY c f).freeCtr = s.freeCtr := rfl
@[simp] theorem State.updClY_out (c : Nat) (f : ClusterY → ClusterY) : (s.updClY c f).out = s.out := rfl
@[simp] theorem State.updClY_now (c : Nat) (f : ClusterY → ClusterY) : (s.updClY c f).now = s.now := rfl
@[simp] theorem State.updClY_tiles (c : Nat) (f : ClusterY → ClusterY) : (s.updClY c f).tiles = s.tiles := rfl
@[simp] theorem State.updClY_bats (c : Nat) (f : ClusterY → ClusterY) : (s.updClY c f).bats = s.bats := rfl
@[simp] theorem State.updClY_batx (c : Nat) (f : ClusterY → ClusterY) : (s.updClY c f).batx = s.batx := rfl
@[simp] theorem State.updClY_descs (c : Nat) (f : ClusterY → ClusterY) : (s.updClY c f).descs = s.descs := rfl
@[simp] theorem State.updClY_descx (c : Nat) (f : ClusterY → ClusterY) : (s.updClY c f).descx = s.descx := rfl
@[simp] theorem State.updClY_clusters (c : Nat) (f : ClusterY → ClusterY) : (s.updClY c f).clusters = s.clusters := rfl
@[simp] theorem State.updClY_clx (c : Nat) (f : ClusterY → ClusterY) : (s.updClY c f).clx = s.clx := rfl
@[simp] theorem State.updClY_mem (c : Nat) (f : ClusterY → ClusterY) : (s.updClY c f).mem = s.mem := rfl
@[simp] theorem State.updClY_ctxs (c : Nat) (f : ClusterY → ClusterY) : (s.updClY c f).ctxs = s.ctxs := rfl
@[simp] theorem State.updClY_ctxx (c : Nat) (f : ClusterY → ClusterY) : (s.updClY c f).ctxx = s.ctxx := rfl
@[simp] theorem State.updClY_parts (c : Nat) (f : ClusterY → ClusterY) : (s.updClY c f).parts = s.parts := rfl
@[simp] theorem State.updClY_orders (c : Nat) (f : ClusterY → ClusterY) : (s.updClY c f).orders = s.orders := rfl
@[simp] theorem State.updClY_msg (c : Nat) (f : ClusterY → ClusterY) : (s.updClY c f).msg = s.msg := rfl
@[simp] theorem State.updClY_mesh (c : Nat) (f : ClusterY → ClusterY) : (s.updClY c f).mesh = s.mesh := rfl
@[simp] theorem State.updClY_hosts (c : Nat) (f : ClusterY → ClusterY) : (s.updClY c f).hosts = s.hosts := rfl
@[simp] theorem State.updClY_log (c : Nat) (f : ClusterY → ClusterY) : (s.updClY c f).log = s.log := rfl
@[simp] theorem State.updClY_ledger (c : Nat) (f : ClusterY → ClusterY) : (s.updClY c f).ledger = s.ledger := rfl
@[simp] theorem State.updClY_boot (c : Nat) (f : ClusterY → ClusterY) : (s.updClY c f).boot = s.boot := rfl
@[simp] theorem State.updClY_cfg (c : Nat) (f : ClusterY → ClusterY) : (s.updClY c f).cfg = s.cfg := rfl
@[simp] theorem State.updClY_fw (c : Nat) (f : ClusterY → ClusterY) : (s.updClY c f).fw = s.fw := rfl
@[simp] theorem State.updClY_pwr (c : Nat) (f : ClusterY → ClusterY) : (s.updClY c f).pwr = s.pwr := rfl
@[simp] theorem State.updClY_ring (c : Nat) (f : ClusterY → ClusterY) : (s.updClY c f).ring = s.ring := rfl
@[simp] theorem State.updClY_belfry (c : Nat) (f : ClusterY → ClusterY) : (s.updClY c f).belfry = s.belfry := rfl
@[simp] theorem State.updClY_smbus (c : Nat) (f : ClusterY → ClusterY) : (s.updClY c f).smbus = s.smbus := rfl
@[simp] theorem State.updClY_mon (c : Nat) (f : ClusterY → ClusterY) : (s.updClY c f).mon = s.mon := rfl
@[simp] theorem State.updClY_health (c : Nat) (f : ClusterY → ClusterY) : (s.updClY c f).health = s.health := rfl

/-- Reading the part that updClY writes. -/
theorem State.updClY_clY (c : Nat) (f : ClusterY → ClusterY) (n : Nat) :
    (s.updClY c f).clY n = if n = c then f (s.clY c) else s.clY n := tget_tset _ _ _ _ _

/-! updClock writes clusters alone. -/

@[simp] theorem State.updClock_pending (c : Nat) (f : Clock → Clock) : (s.updClock c f).pending = s.pending := rfl
@[simp] theorem State.updClock_freeCtr (c : Nat) (f : Clock → Clock) : (s.updClock c f).freeCtr = s.freeCtr := rfl
@[simp] theorem State.updClock_out (c : Nat) (f : Clock → Clock) : (s.updClock c f).out = s.out := rfl
@[simp] theorem State.updClock_now (c : Nat) (f : Clock → Clock) : (s.updClock c f).now = s.now := rfl
@[simp] theorem State.updClock_tiles (c : Nat) (f : Clock → Clock) : (s.updClock c f).tiles = s.tiles := rfl
@[simp] theorem State.updClock_bats (c : Nat) (f : Clock → Clock) : (s.updClock c f).bats = s.bats := rfl
@[simp] theorem State.updClock_batx (c : Nat) (f : Clock → Clock) : (s.updClock c f).batx = s.batx := rfl
@[simp] theorem State.updClock_descs (c : Nat) (f : Clock → Clock) : (s.updClock c f).descs = s.descs := rfl
@[simp] theorem State.updClock_descx (c : Nat) (f : Clock → Clock) : (s.updClock c f).descx = s.descx := rfl
@[simp] theorem State.updClock_clx (c : Nat) (f : Clock → Clock) : (s.updClock c f).clx = s.clx := rfl
@[simp] theorem State.updClock_cly (c : Nat) (f : Clock → Clock) : (s.updClock c f).cly = s.cly := rfl
@[simp] theorem State.updClock_mem (c : Nat) (f : Clock → Clock) : (s.updClock c f).mem = s.mem := rfl
@[simp] theorem State.updClock_ctxs (c : Nat) (f : Clock → Clock) : (s.updClock c f).ctxs = s.ctxs := rfl
@[simp] theorem State.updClock_ctxx (c : Nat) (f : Clock → Clock) : (s.updClock c f).ctxx = s.ctxx := rfl
@[simp] theorem State.updClock_parts (c : Nat) (f : Clock → Clock) : (s.updClock c f).parts = s.parts := rfl
@[simp] theorem State.updClock_orders (c : Nat) (f : Clock → Clock) : (s.updClock c f).orders = s.orders := rfl
@[simp] theorem State.updClock_msg (c : Nat) (f : Clock → Clock) : (s.updClock c f).msg = s.msg := rfl
@[simp] theorem State.updClock_mesh (c : Nat) (f : Clock → Clock) : (s.updClock c f).mesh = s.mesh := rfl
@[simp] theorem State.updClock_hosts (c : Nat) (f : Clock → Clock) : (s.updClock c f).hosts = s.hosts := rfl
@[simp] theorem State.updClock_log (c : Nat) (f : Clock → Clock) : (s.updClock c f).log = s.log := rfl
@[simp] theorem State.updClock_ledger (c : Nat) (f : Clock → Clock) : (s.updClock c f).ledger = s.ledger := rfl
@[simp] theorem State.updClock_boot (c : Nat) (f : Clock → Clock) : (s.updClock c f).boot = s.boot := rfl
@[simp] theorem State.updClock_cfg (c : Nat) (f : Clock → Clock) : (s.updClock c f).cfg = s.cfg := rfl
@[simp] theorem State.updClock_fw (c : Nat) (f : Clock → Clock) : (s.updClock c f).fw = s.fw := rfl
@[simp] theorem State.updClock_pwr (c : Nat) (f : Clock → Clock) : (s.updClock c f).pwr = s.pwr := rfl
@[simp] theorem State.updClock_ring (c : Nat) (f : Clock → Clock) : (s.updClock c f).ring = s.ring := rfl
@[simp] theorem State.updClock_belfry (c : Nat) (f : Clock → Clock) : (s.updClock c f).belfry = s.belfry := rfl
@[simp] theorem State.updClock_smbus (c : Nat) (f : Clock → Clock) : (s.updClock c f).smbus = s.smbus := rfl
@[simp] theorem State.updClock_mon (c : Nat) (f : Clock → Clock) : (s.updClock c f).mon = s.mon := rfl
@[simp] theorem State.updClock_health (c : Nat) (f : Clock → Clock) : (s.updClock c f).health = s.health := rfl

/-! updCtx writes ctxs alone. -/

@[simp] theorem State.updCtx_pending (p k : Nat) (f : Ctx → Ctx) : (s.updCtx p k f).pending = s.pending := rfl
@[simp] theorem State.updCtx_freeCtr (p k : Nat) (f : Ctx → Ctx) : (s.updCtx p k f).freeCtr = s.freeCtr := rfl
@[simp] theorem State.updCtx_out (p k : Nat) (f : Ctx → Ctx) : (s.updCtx p k f).out = s.out := rfl
@[simp] theorem State.updCtx_now (p k : Nat) (f : Ctx → Ctx) : (s.updCtx p k f).now = s.now := rfl
@[simp] theorem State.updCtx_tiles (p k : Nat) (f : Ctx → Ctx) : (s.updCtx p k f).tiles = s.tiles := rfl
@[simp] theorem State.updCtx_bats (p k : Nat) (f : Ctx → Ctx) : (s.updCtx p k f).bats = s.bats := rfl
@[simp] theorem State.updCtx_batx (p k : Nat) (f : Ctx → Ctx) : (s.updCtx p k f).batx = s.batx := rfl
@[simp] theorem State.updCtx_descs (p k : Nat) (f : Ctx → Ctx) : (s.updCtx p k f).descs = s.descs := rfl
@[simp] theorem State.updCtx_descx (p k : Nat) (f : Ctx → Ctx) : (s.updCtx p k f).descx = s.descx := rfl
@[simp] theorem State.updCtx_clusters (p k : Nat) (f : Ctx → Ctx) : (s.updCtx p k f).clusters = s.clusters := rfl
@[simp] theorem State.updCtx_clx (p k : Nat) (f : Ctx → Ctx) : (s.updCtx p k f).clx = s.clx := rfl
@[simp] theorem State.updCtx_cly (p k : Nat) (f : Ctx → Ctx) : (s.updCtx p k f).cly = s.cly := rfl
@[simp] theorem State.updCtx_mem (p k : Nat) (f : Ctx → Ctx) : (s.updCtx p k f).mem = s.mem := rfl
@[simp] theorem State.updCtx_ctxx (p k : Nat) (f : Ctx → Ctx) : (s.updCtx p k f).ctxx = s.ctxx := rfl
@[simp] theorem State.updCtx_parts (p k : Nat) (f : Ctx → Ctx) : (s.updCtx p k f).parts = s.parts := rfl
@[simp] theorem State.updCtx_orders (p k : Nat) (f : Ctx → Ctx) : (s.updCtx p k f).orders = s.orders := rfl
@[simp] theorem State.updCtx_msg (p k : Nat) (f : Ctx → Ctx) : (s.updCtx p k f).msg = s.msg := rfl
@[simp] theorem State.updCtx_mesh (p k : Nat) (f : Ctx → Ctx) : (s.updCtx p k f).mesh = s.mesh := rfl
@[simp] theorem State.updCtx_hosts (p k : Nat) (f : Ctx → Ctx) : (s.updCtx p k f).hosts = s.hosts := rfl
@[simp] theorem State.updCtx_log (p k : Nat) (f : Ctx → Ctx) : (s.updCtx p k f).log = s.log := rfl
@[simp] theorem State.updCtx_ledger (p k : Nat) (f : Ctx → Ctx) : (s.updCtx p k f).ledger = s.ledger := rfl
@[simp] theorem State.updCtx_boot (p k : Nat) (f : Ctx → Ctx) : (s.updCtx p k f).boot = s.boot := rfl
@[simp] theorem State.updCtx_cfg (p k : Nat) (f : Ctx → Ctx) : (s.updCtx p k f).cfg = s.cfg := rfl
@[simp] theorem State.updCtx_fw (p k : Nat) (f : Ctx → Ctx) : (s.updCtx p k f).fw = s.fw := rfl
@[simp] theorem State.updCtx_pwr (p k : Nat) (f : Ctx → Ctx) : (s.updCtx p k f).pwr = s.pwr := rfl
@[simp] theorem State.updCtx_ring (p k : Nat) (f : Ctx → Ctx) : (s.updCtx p k f).ring = s.ring := rfl
@[simp] theorem State.updCtx_belfry (p k : Nat) (f : Ctx → Ctx) : (s.updCtx p k f).belfry = s.belfry := rfl
@[simp] theorem State.updCtx_smbus (p k : Nat) (f : Ctx → Ctx) : (s.updCtx p k f).smbus = s.smbus := rfl
@[simp] theorem State.updCtx_mon (p k : Nat) (f : Ctx → Ctx) : (s.updCtx p k f).mon = s.mon := rfl
@[simp] theorem State.updCtx_health (p k : Nat) (f : Ctx → Ctx) : (s.updCtx p k f).health = s.health := rfl

/-- Reading the part that updCtx writes. -/
theorem State.updCtx_ctx (p k : Nat) (f : Ctx → Ctx) (i j : Nat) :
    (s.updCtx p k f).ctx i j = if kKey i j = kKey p k then f (s.ctx p k) else s.ctx i j := tget_tset _ _ _ _ _

/-! updCtxX writes ctxx alone. -/

@[simp] theorem State.updCtxX_pending (p k : Nat) (f : CtxX → CtxX) : (s.updCtxX p k f).pending = s.pending := rfl
@[simp] theorem State.updCtxX_freeCtr (p k : Nat) (f : CtxX → CtxX) : (s.updCtxX p k f).freeCtr = s.freeCtr := rfl
@[simp] theorem State.updCtxX_out (p k : Nat) (f : CtxX → CtxX) : (s.updCtxX p k f).out = s.out := rfl
@[simp] theorem State.updCtxX_now (p k : Nat) (f : CtxX → CtxX) : (s.updCtxX p k f).now = s.now := rfl
@[simp] theorem State.updCtxX_tiles (p k : Nat) (f : CtxX → CtxX) : (s.updCtxX p k f).tiles = s.tiles := rfl
@[simp] theorem State.updCtxX_bats (p k : Nat) (f : CtxX → CtxX) : (s.updCtxX p k f).bats = s.bats := rfl
@[simp] theorem State.updCtxX_batx (p k : Nat) (f : CtxX → CtxX) : (s.updCtxX p k f).batx = s.batx := rfl
@[simp] theorem State.updCtxX_descs (p k : Nat) (f : CtxX → CtxX) : (s.updCtxX p k f).descs = s.descs := rfl
@[simp] theorem State.updCtxX_descx (p k : Nat) (f : CtxX → CtxX) : (s.updCtxX p k f).descx = s.descx := rfl
@[simp] theorem State.updCtxX_clusters (p k : Nat) (f : CtxX → CtxX) : (s.updCtxX p k f).clusters = s.clusters := rfl
@[simp] theorem State.updCtxX_clx (p k : Nat) (f : CtxX → CtxX) : (s.updCtxX p k f).clx = s.clx := rfl
@[simp] theorem State.updCtxX_cly (p k : Nat) (f : CtxX → CtxX) : (s.updCtxX p k f).cly = s.cly := rfl
@[simp] theorem State.updCtxX_mem (p k : Nat) (f : CtxX → CtxX) : (s.updCtxX p k f).mem = s.mem := rfl
@[simp] theorem State.updCtxX_ctxs (p k : Nat) (f : CtxX → CtxX) : (s.updCtxX p k f).ctxs = s.ctxs := rfl
@[simp] theorem State.updCtxX_parts (p k : Nat) (f : CtxX → CtxX) : (s.updCtxX p k f).parts = s.parts := rfl
@[simp] theorem State.updCtxX_orders (p k : Nat) (f : CtxX → CtxX) : (s.updCtxX p k f).orders = s.orders := rfl
@[simp] theorem State.updCtxX_msg (p k : Nat) (f : CtxX → CtxX) : (s.updCtxX p k f).msg = s.msg := rfl
@[simp] theorem State.updCtxX_mesh (p k : Nat) (f : CtxX → CtxX) : (s.updCtxX p k f).mesh = s.mesh := rfl
@[simp] theorem State.updCtxX_hosts (p k : Nat) (f : CtxX → CtxX) : (s.updCtxX p k f).hosts = s.hosts := rfl
@[simp] theorem State.updCtxX_log (p k : Nat) (f : CtxX → CtxX) : (s.updCtxX p k f).log = s.log := rfl
@[simp] theorem State.updCtxX_ledger (p k : Nat) (f : CtxX → CtxX) : (s.updCtxX p k f).ledger = s.ledger := rfl
@[simp] theorem State.updCtxX_boot (p k : Nat) (f : CtxX → CtxX) : (s.updCtxX p k f).boot = s.boot := rfl
@[simp] theorem State.updCtxX_cfg (p k : Nat) (f : CtxX → CtxX) : (s.updCtxX p k f).cfg = s.cfg := rfl
@[simp] theorem State.updCtxX_fw (p k : Nat) (f : CtxX → CtxX) : (s.updCtxX p k f).fw = s.fw := rfl
@[simp] theorem State.updCtxX_pwr (p k : Nat) (f : CtxX → CtxX) : (s.updCtxX p k f).pwr = s.pwr := rfl
@[simp] theorem State.updCtxX_ring (p k : Nat) (f : CtxX → CtxX) : (s.updCtxX p k f).ring = s.ring := rfl
@[simp] theorem State.updCtxX_belfry (p k : Nat) (f : CtxX → CtxX) : (s.updCtxX p k f).belfry = s.belfry := rfl
@[simp] theorem State.updCtxX_smbus (p k : Nat) (f : CtxX → CtxX) : (s.updCtxX p k f).smbus = s.smbus := rfl
@[simp] theorem State.updCtxX_mon (p k : Nat) (f : CtxX → CtxX) : (s.updCtxX p k f).mon = s.mon := rfl
@[simp] theorem State.updCtxX_health (p k : Nat) (f : CtxX → CtxX) : (s.updCtxX p k f).health = s.health := rfl

/-- Reading the part that updCtxX writes. -/
theorem State.updCtxX_ctxX (p k : Nat) (f : CtxX → CtxX) (i j : Nat) :
    (s.updCtxX p k f).ctxX i j = if kKey i j = kKey p k then f (s.ctxX p k) else s.ctxX i j := tget_tset _ _ _ _ _

/-! updPart writes parts alone. -/

@[simp] theorem State.updPart_pending (p : Nat) (f : Part → Part) : (s.updPart p f).pending = s.pending := rfl
@[simp] theorem State.updPart_freeCtr (p : Nat) (f : Part → Part) : (s.updPart p f).freeCtr = s.freeCtr := rfl
@[simp] theorem State.updPart_out (p : Nat) (f : Part → Part) : (s.updPart p f).out = s.out := rfl
@[simp] theorem State.updPart_now (p : Nat) (f : Part → Part) : (s.updPart p f).now = s.now := rfl
@[simp] theorem State.updPart_tiles (p : Nat) (f : Part → Part) : (s.updPart p f).tiles = s.tiles := rfl
@[simp] theorem State.updPart_bats (p : Nat) (f : Part → Part) : (s.updPart p f).bats = s.bats := rfl
@[simp] theorem State.updPart_batx (p : Nat) (f : Part → Part) : (s.updPart p f).batx = s.batx := rfl
@[simp] theorem State.updPart_descs (p : Nat) (f : Part → Part) : (s.updPart p f).descs = s.descs := rfl
@[simp] theorem State.updPart_descx (p : Nat) (f : Part → Part) : (s.updPart p f).descx = s.descx := rfl
@[simp] theorem State.updPart_clusters (p : Nat) (f : Part → Part) : (s.updPart p f).clusters = s.clusters := rfl
@[simp] theorem State.updPart_clx (p : Nat) (f : Part → Part) : (s.updPart p f).clx = s.clx := rfl
@[simp] theorem State.updPart_cly (p : Nat) (f : Part → Part) : (s.updPart p f).cly = s.cly := rfl
@[simp] theorem State.updPart_mem (p : Nat) (f : Part → Part) : (s.updPart p f).mem = s.mem := rfl
@[simp] theorem State.updPart_ctxs (p : Nat) (f : Part → Part) : (s.updPart p f).ctxs = s.ctxs := rfl
@[simp] theorem State.updPart_ctxx (p : Nat) (f : Part → Part) : (s.updPart p f).ctxx = s.ctxx := rfl
@[simp] theorem State.updPart_orders (p : Nat) (f : Part → Part) : (s.updPart p f).orders = s.orders := rfl
@[simp] theorem State.updPart_msg (p : Nat) (f : Part → Part) : (s.updPart p f).msg = s.msg := rfl
@[simp] theorem State.updPart_mesh (p : Nat) (f : Part → Part) : (s.updPart p f).mesh = s.mesh := rfl
@[simp] theorem State.updPart_hosts (p : Nat) (f : Part → Part) : (s.updPart p f).hosts = s.hosts := rfl
@[simp] theorem State.updPart_log (p : Nat) (f : Part → Part) : (s.updPart p f).log = s.log := rfl
@[simp] theorem State.updPart_ledger (p : Nat) (f : Part → Part) : (s.updPart p f).ledger = s.ledger := rfl
@[simp] theorem State.updPart_boot (p : Nat) (f : Part → Part) : (s.updPart p f).boot = s.boot := rfl
@[simp] theorem State.updPart_cfg (p : Nat) (f : Part → Part) : (s.updPart p f).cfg = s.cfg := rfl
@[simp] theorem State.updPart_fw (p : Nat) (f : Part → Part) : (s.updPart p f).fw = s.fw := rfl
@[simp] theorem State.updPart_pwr (p : Nat) (f : Part → Part) : (s.updPart p f).pwr = s.pwr := rfl
@[simp] theorem State.updPart_ring (p : Nat) (f : Part → Part) : (s.updPart p f).ring = s.ring := rfl
@[simp] theorem State.updPart_belfry (p : Nat) (f : Part → Part) : (s.updPart p f).belfry = s.belfry := rfl
@[simp] theorem State.updPart_smbus (p : Nat) (f : Part → Part) : (s.updPart p f).smbus = s.smbus := rfl
@[simp] theorem State.updPart_mon (p : Nat) (f : Part → Part) : (s.updPart p f).mon = s.mon := rfl
@[simp] theorem State.updPart_health (p : Nat) (f : Part → Part) : (s.updPart p f).health = s.health := rfl

/-- Reading the part that updPart writes. -/
theorem State.updPart_part (p : Nat) (f : Part → Part) (n : Nat) :
    (s.updPart p f).part n = if n = p then f (s.part p) else s.part n := tget_tset _ _ _ _ _

/-! updQueue writes ctxs alone. -/

@[simp] theorem State.updQueue_pending (p k x : Nat) (f : CmdQueue → CmdQueue) : (s.updQueue p k x f).pending = s.pending := rfl
@[simp] theorem State.updQueue_freeCtr (p k x : Nat) (f : CmdQueue → CmdQueue) : (s.updQueue p k x f).freeCtr = s.freeCtr := rfl
@[simp] theorem State.updQueue_out (p k x : Nat) (f : CmdQueue → CmdQueue) : (s.updQueue p k x f).out = s.out := rfl
@[simp] theorem State.updQueue_now (p k x : Nat) (f : CmdQueue → CmdQueue) : (s.updQueue p k x f).now = s.now := rfl
@[simp] theorem State.updQueue_tiles (p k x : Nat) (f : CmdQueue → CmdQueue) : (s.updQueue p k x f).tiles = s.tiles := rfl
@[simp] theorem State.updQueue_bats (p k x : Nat) (f : CmdQueue → CmdQueue) : (s.updQueue p k x f).bats = s.bats := rfl
@[simp] theorem State.updQueue_batx (p k x : Nat) (f : CmdQueue → CmdQueue) : (s.updQueue p k x f).batx = s.batx := rfl
@[simp] theorem State.updQueue_descs (p k x : Nat) (f : CmdQueue → CmdQueue) : (s.updQueue p k x f).descs = s.descs := rfl
@[simp] theorem State.updQueue_descx (p k x : Nat) (f : CmdQueue → CmdQueue) : (s.updQueue p k x f).descx = s.descx := rfl
@[simp] theorem State.updQueue_clusters (p k x : Nat) (f : CmdQueue → CmdQueue) : (s.updQueue p k x f).clusters = s.clusters := rfl
@[simp] theorem State.updQueue_clx (p k x : Nat) (f : CmdQueue → CmdQueue) : (s.updQueue p k x f).clx = s.clx := rfl
@[simp] theorem State.updQueue_cly (p k x : Nat) (f : CmdQueue → CmdQueue) : (s.updQueue p k x f).cly = s.cly := rfl
@[simp] theorem State.updQueue_mem (p k x : Nat) (f : CmdQueue → CmdQueue) : (s.updQueue p k x f).mem = s.mem := rfl
@[simp] theorem State.updQueue_ctxx (p k x : Nat) (f : CmdQueue → CmdQueue) : (s.updQueue p k x f).ctxx = s.ctxx := rfl
@[simp] theorem State.updQueue_parts (p k x : Nat) (f : CmdQueue → CmdQueue) : (s.updQueue p k x f).parts = s.parts := rfl
@[simp] theorem State.updQueue_orders (p k x : Nat) (f : CmdQueue → CmdQueue) : (s.updQueue p k x f).orders = s.orders := rfl
@[simp] theorem State.updQueue_msg (p k x : Nat) (f : CmdQueue → CmdQueue) : (s.updQueue p k x f).msg = s.msg := rfl
@[simp] theorem State.updQueue_mesh (p k x : Nat) (f : CmdQueue → CmdQueue) : (s.updQueue p k x f).mesh = s.mesh := rfl
@[simp] theorem State.updQueue_hosts (p k x : Nat) (f : CmdQueue → CmdQueue) : (s.updQueue p k x f).hosts = s.hosts := rfl
@[simp] theorem State.updQueue_log (p k x : Nat) (f : CmdQueue → CmdQueue) : (s.updQueue p k x f).log = s.log := rfl
@[simp] theorem State.updQueue_ledger (p k x : Nat) (f : CmdQueue → CmdQueue) : (s.updQueue p k x f).ledger = s.ledger := rfl
@[simp] theorem State.updQueue_boot (p k x : Nat) (f : CmdQueue → CmdQueue) : (s.updQueue p k x f).boot = s.boot := rfl
@[simp] theorem State.updQueue_cfg (p k x : Nat) (f : CmdQueue → CmdQueue) : (s.updQueue p k x f).cfg = s.cfg := rfl
@[simp] theorem State.updQueue_fw (p k x : Nat) (f : CmdQueue → CmdQueue) : (s.updQueue p k x f).fw = s.fw := rfl
@[simp] theorem State.updQueue_pwr (p k x : Nat) (f : CmdQueue → CmdQueue) : (s.updQueue p k x f).pwr = s.pwr := rfl
@[simp] theorem State.updQueue_ring (p k x : Nat) (f : CmdQueue → CmdQueue) : (s.updQueue p k x f).ring = s.ring := rfl
@[simp] theorem State.updQueue_belfry (p k x : Nat) (f : CmdQueue → CmdQueue) : (s.updQueue p k x f).belfry = s.belfry := rfl
@[simp] theorem State.updQueue_smbus (p k x : Nat) (f : CmdQueue → CmdQueue) : (s.updQueue p k x f).smbus = s.smbus := rfl
@[simp] theorem State.updQueue_mon (p k x : Nat) (f : CmdQueue → CmdQueue) : (s.updQueue p k x f).mon = s.mon := rfl
@[simp] theorem State.updQueue_health (p k x : Nat) (f : CmdQueue → CmdQueue) : (s.updQueue p k x f).health = s.health := rfl

/-! updPort writes hosts alone. -/

@[simp] theorem State.updPort_pending (i : Nat) (f : Port → Port) : (s.updPort i f).pending = s.pending := rfl
@[simp] theorem State.updPort_freeCtr (i : Nat) (f : Port → Port) : (s.updPort i f).freeCtr = s.freeCtr := rfl
@[simp] theorem State.updPort_out (i : Nat) (f : Port → Port) : (s.updPort i f).out = s.out := rfl
@[simp] theorem State.updPort_now (i : Nat) (f : Port → Port) : (s.updPort i f).now = s.now := rfl
@[simp] theorem State.updPort_tiles (i : Nat) (f : Port → Port) : (s.updPort i f).tiles = s.tiles := rfl
@[simp] theorem State.updPort_bats (i : Nat) (f : Port → Port) : (s.updPort i f).bats = s.bats := rfl
@[simp] theorem State.updPort_batx (i : Nat) (f : Port → Port) : (s.updPort i f).batx = s.batx := rfl
@[simp] theorem State.updPort_descs (i : Nat) (f : Port → Port) : (s.updPort i f).descs = s.descs := rfl
@[simp] theorem State.updPort_descx (i : Nat) (f : Port → Port) : (s.updPort i f).descx = s.descx := rfl
@[simp] theorem State.updPort_clusters (i : Nat) (f : Port → Port) : (s.updPort i f).clusters = s.clusters := rfl
@[simp] theorem State.updPort_clx (i : Nat) (f : Port → Port) : (s.updPort i f).clx = s.clx := rfl
@[simp] theorem State.updPort_cly (i : Nat) (f : Port → Port) : (s.updPort i f).cly = s.cly := rfl
@[simp] theorem State.updPort_mem (i : Nat) (f : Port → Port) : (s.updPort i f).mem = s.mem := rfl
@[simp] theorem State.updPort_ctxs (i : Nat) (f : Port → Port) : (s.updPort i f).ctxs = s.ctxs := rfl
@[simp] theorem State.updPort_ctxx (i : Nat) (f : Port → Port) : (s.updPort i f).ctxx = s.ctxx := rfl
@[simp] theorem State.updPort_parts (i : Nat) (f : Port → Port) : (s.updPort i f).parts = s.parts := rfl
@[simp] theorem State.updPort_orders (i : Nat) (f : Port → Port) : (s.updPort i f).orders = s.orders := rfl
@[simp] theorem State.updPort_msg (i : Nat) (f : Port → Port) : (s.updPort i f).msg = s.msg := rfl
@[simp] theorem State.updPort_mesh (i : Nat) (f : Port → Port) : (s.updPort i f).mesh = s.mesh := rfl
@[simp] theorem State.updPort_log (i : Nat) (f : Port → Port) : (s.updPort i f).log = s.log := rfl
@[simp] theorem State.updPort_ledger (i : Nat) (f : Port → Port) : (s.updPort i f).ledger = s.ledger := rfl
@[simp] theorem State.updPort_boot (i : Nat) (f : Port → Port) : (s.updPort i f).boot = s.boot := rfl
@[simp] theorem State.updPort_cfg (i : Nat) (f : Port → Port) : (s.updPort i f).cfg = s.cfg := rfl
@[simp] theorem State.updPort_fw (i : Nat) (f : Port → Port) : (s.updPort i f).fw = s.fw := rfl
@[simp] theorem State.updPort_pwr (i : Nat) (f : Port → Port) : (s.updPort i f).pwr = s.pwr := rfl
@[simp] theorem State.updPort_ring (i : Nat) (f : Port → Port) : (s.updPort i f).ring = s.ring := rfl
@[simp] theorem State.updPort_belfry (i : Nat) (f : Port → Port) : (s.updPort i f).belfry = s.belfry := rfl
@[simp] theorem State.updPort_smbus (i : Nat) (f : Port → Port) : (s.updPort i f).smbus = s.smbus := rfl
@[simp] theorem State.updPort_mon (i : Nat) (f : Port → Port) : (s.updPort i f).mon = s.mon := rfl
@[simp] theorem State.updPort_health (i : Nat) (f : Port → Port) : (s.updPort i f).health = s.health := rfl

/-- Reading the part that updPort writes. -/
theorem State.updPort_port (i : Nat) (f : Port → Port) (n : Nat) :
    (s.updPort i f).port n = if n = i then f (s.port i) else s.port n := tget_tset _ _ _ _ _

/-! updSlice writes mem alone. -/

@[simp] theorem State.updSlice_pending (c i : Nat) (f : Slice → Slice) : (s.updSlice c i f).pending = s.pending := rfl
@[simp] theorem State.updSlice_freeCtr (c i : Nat) (f : Slice → Slice) : (s.updSlice c i f).freeCtr = s.freeCtr := rfl
@[simp] theorem State.updSlice_out (c i : Nat) (f : Slice → Slice) : (s.updSlice c i f).out = s.out := rfl
@[simp] theorem State.updSlice_now (c i : Nat) (f : Slice → Slice) : (s.updSlice c i f).now = s.now := rfl
@[simp] theorem State.updSlice_tiles (c i : Nat) (f : Slice → Slice) : (s.updSlice c i f).tiles = s.tiles := rfl
@[simp] theorem State.updSlice_bats (c i : Nat) (f : Slice → Slice) : (s.updSlice c i f).bats = s.bats := rfl
@[simp] theorem State.updSlice_batx (c i : Nat) (f : Slice → Slice) : (s.updSlice c i f).batx = s.batx := rfl
@[simp] theorem State.updSlice_descs (c i : Nat) (f : Slice → Slice) : (s.updSlice c i f).descs = s.descs := rfl
@[simp] theorem State.updSlice_descx (c i : Nat) (f : Slice → Slice) : (s.updSlice c i f).descx = s.descx := rfl
@[simp] theorem State.updSlice_clusters (c i : Nat) (f : Slice → Slice) : (s.updSlice c i f).clusters = s.clusters := rfl
@[simp] theorem State.updSlice_clx (c i : Nat) (f : Slice → Slice) : (s.updSlice c i f).clx = s.clx := rfl
@[simp] theorem State.updSlice_cly (c i : Nat) (f : Slice → Slice) : (s.updSlice c i f).cly = s.cly := rfl
@[simp] theorem State.updSlice_ctxs (c i : Nat) (f : Slice → Slice) : (s.updSlice c i f).ctxs = s.ctxs := rfl
@[simp] theorem State.updSlice_ctxx (c i : Nat) (f : Slice → Slice) : (s.updSlice c i f).ctxx = s.ctxx := rfl
@[simp] theorem State.updSlice_parts (c i : Nat) (f : Slice → Slice) : (s.updSlice c i f).parts = s.parts := rfl
@[simp] theorem State.updSlice_orders (c i : Nat) (f : Slice → Slice) : (s.updSlice c i f).orders = s.orders := rfl
@[simp] theorem State.updSlice_msg (c i : Nat) (f : Slice → Slice) : (s.updSlice c i f).msg = s.msg := rfl
@[simp] theorem State.updSlice_mesh (c i : Nat) (f : Slice → Slice) : (s.updSlice c i f).mesh = s.mesh := rfl
@[simp] theorem State.updSlice_hosts (c i : Nat) (f : Slice → Slice) : (s.updSlice c i f).hosts = s.hosts := rfl
@[simp] theorem State.updSlice_log (c i : Nat) (f : Slice → Slice) : (s.updSlice c i f).log = s.log := rfl
@[simp] theorem State.updSlice_ledger (c i : Nat) (f : Slice → Slice) : (s.updSlice c i f).ledger = s.ledger := rfl
@[simp] theorem State.updSlice_boot (c i : Nat) (f : Slice → Slice) : (s.updSlice c i f).boot = s.boot := rfl
@[simp] theorem State.updSlice_cfg (c i : Nat) (f : Slice → Slice) : (s.updSlice c i f).cfg = s.cfg := rfl
@[simp] theorem State.updSlice_fw (c i : Nat) (f : Slice → Slice) : (s.updSlice c i f).fw = s.fw := rfl
@[simp] theorem State.updSlice_pwr (c i : Nat) (f : Slice → Slice) : (s.updSlice c i f).pwr = s.pwr := rfl
@[simp] theorem State.updSlice_ring (c i : Nat) (f : Slice → Slice) : (s.updSlice c i f).ring = s.ring := rfl
@[simp] theorem State.updSlice_belfry (c i : Nat) (f : Slice → Slice) : (s.updSlice c i f).belfry = s.belfry := rfl
@[simp] theorem State.updSlice_smbus (c i : Nat) (f : Slice → Slice) : (s.updSlice c i f).smbus = s.smbus := rfl
@[simp] theorem State.updSlice_mon (c i : Nat) (f : Slice → Slice) : (s.updSlice c i f).mon = s.mon := rfl
@[simp] theorem State.updSlice_health (c i : Nat) (f : Slice → Slice) : (s.updSlice c i f).health = s.health := rfl

/-! updChan writes mem alone. -/

@[simp] theorem State.updChan_pending (i : Nat) (f : MemCh → MemCh) : (s.updChan i f).pending = s.pending := rfl
@[simp] theorem State.updChan_freeCtr (i : Nat) (f : MemCh → MemCh) : (s.updChan i f).freeCtr = s.freeCtr := rfl
@[simp] theorem State.updChan_out (i : Nat) (f : MemCh → MemCh) : (s.updChan i f).out = s.out := rfl
@[simp] theorem State.updChan_now (i : Nat) (f : MemCh → MemCh) : (s.updChan i f).now = s.now := rfl
@[simp] theorem State.updChan_tiles (i : Nat) (f : MemCh → MemCh) : (s.updChan i f).tiles = s.tiles := rfl
@[simp] theorem State.updChan_bats (i : Nat) (f : MemCh → MemCh) : (s.updChan i f).bats = s.bats := rfl
@[simp] theorem State.updChan_batx (i : Nat) (f : MemCh → MemCh) : (s.updChan i f).batx = s.batx := rfl
@[simp] theorem State.updChan_descs (i : Nat) (f : MemCh → MemCh) : (s.updChan i f).descs = s.descs := rfl
@[simp] theorem State.updChan_descx (i : Nat) (f : MemCh → MemCh) : (s.updChan i f).descx = s.descx := rfl
@[simp] theorem State.updChan_clusters (i : Nat) (f : MemCh → MemCh) : (s.updChan i f).clusters = s.clusters := rfl
@[simp] theorem State.updChan_clx (i : Nat) (f : MemCh → MemCh) : (s.updChan i f).clx = s.clx := rfl
@[simp] theorem State.updChan_cly (i : Nat) (f : MemCh → MemCh) : (s.updChan i f).cly = s.cly := rfl
@[simp] theorem State.updChan_ctxs (i : Nat) (f : MemCh → MemCh) : (s.updChan i f).ctxs = s.ctxs := rfl
@[simp] theorem State.updChan_ctxx (i : Nat) (f : MemCh → MemCh) : (s.updChan i f).ctxx = s.ctxx := rfl
@[simp] theorem State.updChan_parts (i : Nat) (f : MemCh → MemCh) : (s.updChan i f).parts = s.parts := rfl
@[simp] theorem State.updChan_orders (i : Nat) (f : MemCh → MemCh) : (s.updChan i f).orders = s.orders := rfl
@[simp] theorem State.updChan_msg (i : Nat) (f : MemCh → MemCh) : (s.updChan i f).msg = s.msg := rfl
@[simp] theorem State.updChan_mesh (i : Nat) (f : MemCh → MemCh) : (s.updChan i f).mesh = s.mesh := rfl
@[simp] theorem State.updChan_hosts (i : Nat) (f : MemCh → MemCh) : (s.updChan i f).hosts = s.hosts := rfl
@[simp] theorem State.updChan_log (i : Nat) (f : MemCh → MemCh) : (s.updChan i f).log = s.log := rfl
@[simp] theorem State.updChan_ledger (i : Nat) (f : MemCh → MemCh) : (s.updChan i f).ledger = s.ledger := rfl
@[simp] theorem State.updChan_boot (i : Nat) (f : MemCh → MemCh) : (s.updChan i f).boot = s.boot := rfl
@[simp] theorem State.updChan_cfg (i : Nat) (f : MemCh → MemCh) : (s.updChan i f).cfg = s.cfg := rfl
@[simp] theorem State.updChan_fw (i : Nat) (f : MemCh → MemCh) : (s.updChan i f).fw = s.fw := rfl
@[simp] theorem State.updChan_pwr (i : Nat) (f : MemCh → MemCh) : (s.updChan i f).pwr = s.pwr := rfl
@[simp] theorem State.updChan_ring (i : Nat) (f : MemCh → MemCh) : (s.updChan i f).ring = s.ring := rfl
@[simp] theorem State.updChan_belfry (i : Nat) (f : MemCh → MemCh) : (s.updChan i f).belfry = s.belfry := rfl
@[simp] theorem State.updChan_smbus (i : Nat) (f : MemCh → MemCh) : (s.updChan i f).smbus = s.smbus := rfl
@[simp] theorem State.updChan_mon (i : Nat) (f : MemCh → MemCh) : (s.updChan i f).mon = s.mon := rfl
@[simp] theorem State.updChan_health (i : Nat) (f : MemCh → MemCh) : (s.updChan i f).health = s.health := rfl

/-- Reading the part that updChan writes. -/
theorem State.updChan_chan (i : Nat) (f : MemCh → MemCh) (n : Nat) :
    (s.updChan i f).chan n = if n = i then f (s.chan i) else s.chan n := tget_tset _ _ _ _ _

/-! updRouter writes mesh alone. -/

@[simp] theorem State.updRouter_pending (i : Nat) (f : Router → Router) : (s.updRouter i f).pending = s.pending := rfl
@[simp] theorem State.updRouter_freeCtr (i : Nat) (f : Router → Router) : (s.updRouter i f).freeCtr = s.freeCtr := rfl
@[simp] theorem State.updRouter_out (i : Nat) (f : Router → Router) : (s.updRouter i f).out = s.out := rfl
@[simp] theorem State.updRouter_now (i : Nat) (f : Router → Router) : (s.updRouter i f).now = s.now := rfl
@[simp] theorem State.updRouter_tiles (i : Nat) (f : Router → Router) : (s.updRouter i f).tiles = s.tiles := rfl
@[simp] theorem State.updRouter_bats (i : Nat) (f : Router → Router) : (s.updRouter i f).bats = s.bats := rfl
@[simp] theorem State.updRouter_batx (i : Nat) (f : Router → Router) : (s.updRouter i f).batx = s.batx := rfl
@[simp] theorem State.updRouter_descs (i : Nat) (f : Router → Router) : (s.updRouter i f).descs = s.descs := rfl
@[simp] theorem State.updRouter_descx (i : Nat) (f : Router → Router) : (s.updRouter i f).descx = s.descx := rfl
@[simp] theorem State.updRouter_clusters (i : Nat) (f : Router → Router) : (s.updRouter i f).clusters = s.clusters := rfl
@[simp] theorem State.updRouter_clx (i : Nat) (f : Router → Router) : (s.updRouter i f).clx = s.clx := rfl
@[simp] theorem State.updRouter_cly (i : Nat) (f : Router → Router) : (s.updRouter i f).cly = s.cly := rfl
@[simp] theorem State.updRouter_mem (i : Nat) (f : Router → Router) : (s.updRouter i f).mem = s.mem := rfl
@[simp] theorem State.updRouter_ctxs (i : Nat) (f : Router → Router) : (s.updRouter i f).ctxs = s.ctxs := rfl
@[simp] theorem State.updRouter_ctxx (i : Nat) (f : Router → Router) : (s.updRouter i f).ctxx = s.ctxx := rfl
@[simp] theorem State.updRouter_parts (i : Nat) (f : Router → Router) : (s.updRouter i f).parts = s.parts := rfl
@[simp] theorem State.updRouter_orders (i : Nat) (f : Router → Router) : (s.updRouter i f).orders = s.orders := rfl
@[simp] theorem State.updRouter_msg (i : Nat) (f : Router → Router) : (s.updRouter i f).msg = s.msg := rfl
@[simp] theorem State.updRouter_hosts (i : Nat) (f : Router → Router) : (s.updRouter i f).hosts = s.hosts := rfl
@[simp] theorem State.updRouter_log (i : Nat) (f : Router → Router) : (s.updRouter i f).log = s.log := rfl
@[simp] theorem State.updRouter_ledger (i : Nat) (f : Router → Router) : (s.updRouter i f).ledger = s.ledger := rfl
@[simp] theorem State.updRouter_boot (i : Nat) (f : Router → Router) : (s.updRouter i f).boot = s.boot := rfl
@[simp] theorem State.updRouter_cfg (i : Nat) (f : Router → Router) : (s.updRouter i f).cfg = s.cfg := rfl
@[simp] theorem State.updRouter_fw (i : Nat) (f : Router → Router) : (s.updRouter i f).fw = s.fw := rfl
@[simp] theorem State.updRouter_pwr (i : Nat) (f : Router → Router) : (s.updRouter i f).pwr = s.pwr := rfl
@[simp] theorem State.updRouter_ring (i : Nat) (f : Router → Router) : (s.updRouter i f).ring = s.ring := rfl
@[simp] theorem State.updRouter_belfry (i : Nat) (f : Router → Router) : (s.updRouter i f).belfry = s.belfry := rfl
@[simp] theorem State.updRouter_smbus (i : Nat) (f : Router → Router) : (s.updRouter i f).smbus = s.smbus := rfl
@[simp] theorem State.updRouter_mon (i : Nat) (f : Router → Router) : (s.updRouter i f).mon = s.mon := rfl
@[simp] theorem State.updRouter_health (i : Nat) (f : Router → Router) : (s.updRouter i f).health = s.health := rfl

/-- Reading the part that updRouter writes. -/
theorem State.updRouter_router (i : Nat) (f : Router → Router) (n : Nat) :
    (s.updRouter i f).router n = if n = i then f (s.router i) else s.router n := tget_tset _ _ _ _ _

/-! updChannel writes msg alone. -/

@[simp] theorem State.updChannel_pending (ta i : Nat) (f : Channel → Channel) : (s.updChannel ta i f).pending = s.pending := rfl
@[simp] theorem State.updChannel_freeCtr (ta i : Nat) (f : Channel → Channel) : (s.updChannel ta i f).freeCtr = s.freeCtr := rfl
@[simp] theorem State.updChannel_out (ta i : Nat) (f : Channel → Channel) : (s.updChannel ta i f).out = s.out := rfl
@[simp] theorem State.updChannel_now (ta i : Nat) (f : Channel → Channel) : (s.updChannel ta i f).now = s.now := rfl
@[simp] theorem State.updChannel_tiles (ta i : Nat) (f : Channel → Channel) : (s.updChannel ta i f).tiles = s.tiles := rfl
@[simp] theorem State.updChannel_bats (ta i : Nat) (f : Channel → Channel) : (s.updChannel ta i f).bats = s.bats := rfl
@[simp] theorem State.updChannel_batx (ta i : Nat) (f : Channel → Channel) : (s.updChannel ta i f).batx = s.batx := rfl
@[simp] theorem State.updChannel_descs (ta i : Nat) (f : Channel → Channel) : (s.updChannel ta i f).descs = s.descs := rfl
@[simp] theorem State.updChannel_descx (ta i : Nat) (f : Channel → Channel) : (s.updChannel ta i f).descx = s.descx := rfl
@[simp] theorem State.updChannel_clusters (ta i : Nat) (f : Channel → Channel) : (s.updChannel ta i f).clusters = s.clusters := rfl
@[simp] theorem State.updChannel_clx (ta i : Nat) (f : Channel → Channel) : (s.updChannel ta i f).clx = s.clx := rfl
@[simp] theorem State.updChannel_cly (ta i : Nat) (f : Channel → Channel) : (s.updChannel ta i f).cly = s.cly := rfl
@[simp] theorem State.updChannel_mem (ta i : Nat) (f : Channel → Channel) : (s.updChannel ta i f).mem = s.mem := rfl
@[simp] theorem State.updChannel_ctxs (ta i : Nat) (f : Channel → Channel) : (s.updChannel ta i f).ctxs = s.ctxs := rfl
@[simp] theorem State.updChannel_ctxx (ta i : Nat) (f : Channel → Channel) : (s.updChannel ta i f).ctxx = s.ctxx := rfl
@[simp] theorem State.updChannel_parts (ta i : Nat) (f : Channel → Channel) : (s.updChannel ta i f).parts = s.parts := rfl
@[simp] theorem State.updChannel_orders (ta i : Nat) (f : Channel → Channel) : (s.updChannel ta i f).orders = s.orders := rfl
@[simp] theorem State.updChannel_mesh (ta i : Nat) (f : Channel → Channel) : (s.updChannel ta i f).mesh = s.mesh := rfl
@[simp] theorem State.updChannel_hosts (ta i : Nat) (f : Channel → Channel) : (s.updChannel ta i f).hosts = s.hosts := rfl
@[simp] theorem State.updChannel_log (ta i : Nat) (f : Channel → Channel) : (s.updChannel ta i f).log = s.log := rfl
@[simp] theorem State.updChannel_ledger (ta i : Nat) (f : Channel → Channel) : (s.updChannel ta i f).ledger = s.ledger := rfl
@[simp] theorem State.updChannel_boot (ta i : Nat) (f : Channel → Channel) : (s.updChannel ta i f).boot = s.boot := rfl
@[simp] theorem State.updChannel_cfg (ta i : Nat) (f : Channel → Channel) : (s.updChannel ta i f).cfg = s.cfg := rfl
@[simp] theorem State.updChannel_fw (ta i : Nat) (f : Channel → Channel) : (s.updChannel ta i f).fw = s.fw := rfl
@[simp] theorem State.updChannel_pwr (ta i : Nat) (f : Channel → Channel) : (s.updChannel ta i f).pwr = s.pwr := rfl
@[simp] theorem State.updChannel_ring (ta i : Nat) (f : Channel → Channel) : (s.updChannel ta i f).ring = s.ring := rfl
@[simp] theorem State.updChannel_belfry (ta i : Nat) (f : Channel → Channel) : (s.updChannel ta i f).belfry = s.belfry := rfl
@[simp] theorem State.updChannel_smbus (ta i : Nat) (f : Channel → Channel) : (s.updChannel ta i f).smbus = s.smbus := rfl
@[simp] theorem State.updChannel_mon (ta i : Nat) (f : Channel → Channel) : (s.updChannel ta i f).mon = s.mon := rfl
@[simp] theorem State.updChannel_health (ta i : Nat) (f : Channel → Channel) : (s.updChannel ta i f).health = s.health := rfl

/-- Reading the part that updChannel writes. -/
theorem State.updChannel_channel (ta i : Nat) (f : Channel → Channel) (u j : Nat) :
    (s.updChannel ta i f).channel u j = if 16 * u + j = 16 * ta + i then f (s.channel ta i) else s.channel u j := tget_tset _ _ _ _ _

/-! updRxq writes msg alone. -/

@[simp] theorem State.updRxq_pending (ta i : Nat) (f : RxQueue → RxQueue) : (s.updRxq ta i f).pending = s.pending := rfl
@[simp] theorem State.updRxq_freeCtr (ta i : Nat) (f : RxQueue → RxQueue) : (s.updRxq ta i f).freeCtr = s.freeCtr := rfl
@[simp] theorem State.updRxq_out (ta i : Nat) (f : RxQueue → RxQueue) : (s.updRxq ta i f).out = s.out := rfl
@[simp] theorem State.updRxq_now (ta i : Nat) (f : RxQueue → RxQueue) : (s.updRxq ta i f).now = s.now := rfl
@[simp] theorem State.updRxq_tiles (ta i : Nat) (f : RxQueue → RxQueue) : (s.updRxq ta i f).tiles = s.tiles := rfl
@[simp] theorem State.updRxq_bats (ta i : Nat) (f : RxQueue → RxQueue) : (s.updRxq ta i f).bats = s.bats := rfl
@[simp] theorem State.updRxq_batx (ta i : Nat) (f : RxQueue → RxQueue) : (s.updRxq ta i f).batx = s.batx := rfl
@[simp] theorem State.updRxq_descs (ta i : Nat) (f : RxQueue → RxQueue) : (s.updRxq ta i f).descs = s.descs := rfl
@[simp] theorem State.updRxq_descx (ta i : Nat) (f : RxQueue → RxQueue) : (s.updRxq ta i f).descx = s.descx := rfl
@[simp] theorem State.updRxq_clusters (ta i : Nat) (f : RxQueue → RxQueue) : (s.updRxq ta i f).clusters = s.clusters := rfl
@[simp] theorem State.updRxq_clx (ta i : Nat) (f : RxQueue → RxQueue) : (s.updRxq ta i f).clx = s.clx := rfl
@[simp] theorem State.updRxq_cly (ta i : Nat) (f : RxQueue → RxQueue) : (s.updRxq ta i f).cly = s.cly := rfl
@[simp] theorem State.updRxq_mem (ta i : Nat) (f : RxQueue → RxQueue) : (s.updRxq ta i f).mem = s.mem := rfl
@[simp] theorem State.updRxq_ctxs (ta i : Nat) (f : RxQueue → RxQueue) : (s.updRxq ta i f).ctxs = s.ctxs := rfl
@[simp] theorem State.updRxq_ctxx (ta i : Nat) (f : RxQueue → RxQueue) : (s.updRxq ta i f).ctxx = s.ctxx := rfl
@[simp] theorem State.updRxq_parts (ta i : Nat) (f : RxQueue → RxQueue) : (s.updRxq ta i f).parts = s.parts := rfl
@[simp] theorem State.updRxq_orders (ta i : Nat) (f : RxQueue → RxQueue) : (s.updRxq ta i f).orders = s.orders := rfl
@[simp] theorem State.updRxq_mesh (ta i : Nat) (f : RxQueue → RxQueue) : (s.updRxq ta i f).mesh = s.mesh := rfl
@[simp] theorem State.updRxq_hosts (ta i : Nat) (f : RxQueue → RxQueue) : (s.updRxq ta i f).hosts = s.hosts := rfl
@[simp] theorem State.updRxq_log (ta i : Nat) (f : RxQueue → RxQueue) : (s.updRxq ta i f).log = s.log := rfl
@[simp] theorem State.updRxq_ledger (ta i : Nat) (f : RxQueue → RxQueue) : (s.updRxq ta i f).ledger = s.ledger := rfl
@[simp] theorem State.updRxq_boot (ta i : Nat) (f : RxQueue → RxQueue) : (s.updRxq ta i f).boot = s.boot := rfl
@[simp] theorem State.updRxq_cfg (ta i : Nat) (f : RxQueue → RxQueue) : (s.updRxq ta i f).cfg = s.cfg := rfl
@[simp] theorem State.updRxq_fw (ta i : Nat) (f : RxQueue → RxQueue) : (s.updRxq ta i f).fw = s.fw := rfl
@[simp] theorem State.updRxq_pwr (ta i : Nat) (f : RxQueue → RxQueue) : (s.updRxq ta i f).pwr = s.pwr := rfl
@[simp] theorem State.updRxq_ring (ta i : Nat) (f : RxQueue → RxQueue) : (s.updRxq ta i f).ring = s.ring := rfl
@[simp] theorem State.updRxq_belfry (ta i : Nat) (f : RxQueue → RxQueue) : (s.updRxq ta i f).belfry = s.belfry := rfl
@[simp] theorem State.updRxq_smbus (ta i : Nat) (f : RxQueue → RxQueue) : (s.updRxq ta i f).smbus = s.smbus := rfl
@[simp] theorem State.updRxq_mon (ta i : Nat) (f : RxQueue → RxQueue) : (s.updRxq ta i f).mon = s.mon := rfl
@[simp] theorem State.updRxq_health (ta i : Nat) (f : RxQueue → RxQueue) : (s.updRxq ta i f).health = s.health := rfl

/-- Reading the part that updRxq writes. -/
theorem State.updRxq_rxq (ta i : Nat) (f : RxQueue → RxQueue) (u j : Nat) :
    (s.updRxq ta i f).rxq u j = if 16 * u + j = 16 * ta + i then f (s.rxq ta i) else s.rxq u j := tget_tset _ _ _ _ _

/-! updComb writes msg alone. -/

@[simp] theorem State.updComb_pending (c q : Nat) (f : CombQueue → CombQueue) : (s.updComb c q f).pending = s.pending := rfl
@[simp] theorem State.updComb_freeCtr (c q : Nat) (f : CombQueue → CombQueue) : (s.updComb c q f).freeCtr = s.freeCtr := rfl
@[simp] theorem State.updComb_out (c q : Nat) (f : CombQueue → CombQueue) : (s.updComb c q f).out = s.out := rfl
@[simp] theorem State.updComb_now (c q : Nat) (f : CombQueue → CombQueue) : (s.updComb c q f).now = s.now := rfl
@[simp] theorem State.updComb_tiles (c q : Nat) (f : CombQueue → CombQueue) : (s.updComb c q f).tiles = s.tiles := rfl
@[simp] theorem State.updComb_bats (c q : Nat) (f : CombQueue → CombQueue) : (s.updComb c q f).bats = s.bats := rfl
@[simp] theorem State.updComb_batx (c q : Nat) (f : CombQueue → CombQueue) : (s.updComb c q f).batx = s.batx := rfl
@[simp] theorem State.updComb_descs (c q : Nat) (f : CombQueue → CombQueue) : (s.updComb c q f).descs = s.descs := rfl
@[simp] theorem State.updComb_descx (c q : Nat) (f : CombQueue → CombQueue) : (s.updComb c q f).descx = s.descx := rfl
@[simp] theorem State.updComb_clusters (c q : Nat) (f : CombQueue → CombQueue) : (s.updComb c q f).clusters = s.clusters := rfl
@[simp] theorem State.updComb_clx (c q : Nat) (f : CombQueue → CombQueue) : (s.updComb c q f).clx = s.clx := rfl
@[simp] theorem State.updComb_cly (c q : Nat) (f : CombQueue → CombQueue) : (s.updComb c q f).cly = s.cly := rfl
@[simp] theorem State.updComb_mem (c q : Nat) (f : CombQueue → CombQueue) : (s.updComb c q f).mem = s.mem := rfl
@[simp] theorem State.updComb_ctxs (c q : Nat) (f : CombQueue → CombQueue) : (s.updComb c q f).ctxs = s.ctxs := rfl
@[simp] theorem State.updComb_ctxx (c q : Nat) (f : CombQueue → CombQueue) : (s.updComb c q f).ctxx = s.ctxx := rfl
@[simp] theorem State.updComb_parts (c q : Nat) (f : CombQueue → CombQueue) : (s.updComb c q f).parts = s.parts := rfl
@[simp] theorem State.updComb_orders (c q : Nat) (f : CombQueue → CombQueue) : (s.updComb c q f).orders = s.orders := rfl
@[simp] theorem State.updComb_mesh (c q : Nat) (f : CombQueue → CombQueue) : (s.updComb c q f).mesh = s.mesh := rfl
@[simp] theorem State.updComb_hosts (c q : Nat) (f : CombQueue → CombQueue) : (s.updComb c q f).hosts = s.hosts := rfl
@[simp] theorem State.updComb_log (c q : Nat) (f : CombQueue → CombQueue) : (s.updComb c q f).log = s.log := rfl
@[simp] theorem State.updComb_ledger (c q : Nat) (f : CombQueue → CombQueue) : (s.updComb c q f).ledger = s.ledger := rfl
@[simp] theorem State.updComb_boot (c q : Nat) (f : CombQueue → CombQueue) : (s.updComb c q f).boot = s.boot := rfl
@[simp] theorem State.updComb_cfg (c q : Nat) (f : CombQueue → CombQueue) : (s.updComb c q f).cfg = s.cfg := rfl
@[simp] theorem State.updComb_fw (c q : Nat) (f : CombQueue → CombQueue) : (s.updComb c q f).fw = s.fw := rfl
@[simp] theorem State.updComb_pwr (c q : Nat) (f : CombQueue → CombQueue) : (s.updComb c q f).pwr = s.pwr := rfl
@[simp] theorem State.updComb_ring (c q : Nat) (f : CombQueue → CombQueue) : (s.updComb c q f).ring = s.ring := rfl
@[simp] theorem State.updComb_belfry (c q : Nat) (f : CombQueue → CombQueue) : (s.updComb c q f).belfry = s.belfry := rfl
@[simp] theorem State.updComb_smbus (c q : Nat) (f : CombQueue → CombQueue) : (s.updComb c q f).smbus = s.smbus := rfl
@[simp] theorem State.updComb_mon (c q : Nat) (f : CombQueue → CombQueue) : (s.updComb c q f).mon = s.mon := rfl
@[simp] theorem State.updComb_health (c q : Nat) (f : CombQueue → CombQueue) : (s.updComb c q f).health = s.health := rfl

/-- Reading the part that updComb writes. -/
theorem State.updComb_comb (c q : Nat) (f : CombQueue → CombQueue) (d r : Nat) :
    (s.updComb c q f).comb d r = if qKey d r = qKey c q then f (s.comb c q) else s.comb d r := tget_tset _ _ _ _ _

/-! drew writes freeCtr alone. -/

@[simp] theorem State.drew_pending (n : Nat) : (s.drew n).pending = s.pending := rfl
@[simp] theorem State.drew_out (n : Nat) : (s.drew n).out = s.out := rfl
@[simp] theorem State.drew_now (n : Nat) : (s.drew n).now = s.now := rfl
@[simp] theorem State.drew_tiles (n : Nat) : (s.drew n).tiles = s.tiles := rfl
@[simp] theorem State.drew_bats (n : Nat) : (s.drew n).bats = s.bats := rfl
@[simp] theorem State.drew_batx (n : Nat) : (s.drew n).batx = s.batx := rfl
@[simp] theorem State.drew_descs (n : Nat) : (s.drew n).descs = s.descs := rfl
@[simp] theorem State.drew_descx (n : Nat) : (s.drew n).descx = s.descx := rfl
@[simp] theorem State.drew_clusters (n : Nat) : (s.drew n).clusters = s.clusters := rfl
@[simp] theorem State.drew_clx (n : Nat) : (s.drew n).clx = s.clx := rfl
@[simp] theorem State.drew_cly (n : Nat) : (s.drew n).cly = s.cly := rfl
@[simp] theorem State.drew_mem (n : Nat) : (s.drew n).mem = s.mem := rfl
@[simp] theorem State.drew_ctxs (n : Nat) : (s.drew n).ctxs = s.ctxs := rfl
@[simp] theorem State.drew_ctxx (n : Nat) : (s.drew n).ctxx = s.ctxx := rfl
@[simp] theorem State.drew_parts (n : Nat) : (s.drew n).parts = s.parts := rfl
@[simp] theorem State.drew_orders (n : Nat) : (s.drew n).orders = s.orders := rfl
@[simp] theorem State.drew_msg (n : Nat) : (s.drew n).msg = s.msg := rfl
@[simp] theorem State.drew_mesh (n : Nat) : (s.drew n).mesh = s.mesh := rfl
@[simp] theorem State.drew_hosts (n : Nat) : (s.drew n).hosts = s.hosts := rfl
@[simp] theorem State.drew_log (n : Nat) : (s.drew n).log = s.log := rfl
@[simp] theorem State.drew_ledger (n : Nat) : (s.drew n).ledger = s.ledger := rfl
@[simp] theorem State.drew_boot (n : Nat) : (s.drew n).boot = s.boot := rfl
@[simp] theorem State.drew_cfg (n : Nat) : (s.drew n).cfg = s.cfg := rfl
@[simp] theorem State.drew_fw (n : Nat) : (s.drew n).fw = s.fw := rfl
@[simp] theorem State.drew_pwr (n : Nat) : (s.drew n).pwr = s.pwr := rfl
@[simp] theorem State.drew_ring (n : Nat) : (s.drew n).ring = s.ring := rfl
@[simp] theorem State.drew_belfry (n : Nat) : (s.drew n).belfry = s.belfry := rfl
@[simp] theorem State.drew_smbus (n : Nat) : (s.drew n).smbus = s.smbus := rfl
@[simp] theorem State.drew_mon (n : Nat) : (s.drew n).mon = s.mon := rfl
@[simp] theorem State.drew_health (n : Nat) : (s.drew n).health = s.health := rfl

/-! emit writes out alone. -/

@[simp] theorem State.emit_pending (e : OutEvent) : (s.emit e).pending = s.pending := rfl
@[simp] theorem State.emit_freeCtr (e : OutEvent) : (s.emit e).freeCtr = s.freeCtr := rfl
@[simp] theorem State.emit_now (e : OutEvent) : (s.emit e).now = s.now := rfl
@[simp] theorem State.emit_tiles (e : OutEvent) : (s.emit e).tiles = s.tiles := rfl
@[simp] theorem State.emit_bats (e : OutEvent) : (s.emit e).bats = s.bats := rfl
@[simp] theorem State.emit_batx (e : OutEvent) : (s.emit e).batx = s.batx := rfl
@[simp] theorem State.emit_descs (e : OutEvent) : (s.emit e).descs = s.descs := rfl
@[simp] theorem State.emit_descx (e : OutEvent) : (s.emit e).descx = s.descx := rfl
@[simp] theorem State.emit_clusters (e : OutEvent) : (s.emit e).clusters = s.clusters := rfl
@[simp] theorem State.emit_clx (e : OutEvent) : (s.emit e).clx = s.clx := rfl
@[simp] theorem State.emit_cly (e : OutEvent) : (s.emit e).cly = s.cly := rfl
@[simp] theorem State.emit_mem (e : OutEvent) : (s.emit e).mem = s.mem := rfl
@[simp] theorem State.emit_ctxs (e : OutEvent) : (s.emit e).ctxs = s.ctxs := rfl
@[simp] theorem State.emit_ctxx (e : OutEvent) : (s.emit e).ctxx = s.ctxx := rfl
@[simp] theorem State.emit_parts (e : OutEvent) : (s.emit e).parts = s.parts := rfl
@[simp] theorem State.emit_orders (e : OutEvent) : (s.emit e).orders = s.orders := rfl
@[simp] theorem State.emit_msg (e : OutEvent) : (s.emit e).msg = s.msg := rfl
@[simp] theorem State.emit_mesh (e : OutEvent) : (s.emit e).mesh = s.mesh := rfl
@[simp] theorem State.emit_hosts (e : OutEvent) : (s.emit e).hosts = s.hosts := rfl
@[simp] theorem State.emit_log (e : OutEvent) : (s.emit e).log = s.log := rfl
@[simp] theorem State.emit_ledger (e : OutEvent) : (s.emit e).ledger = s.ledger := rfl
@[simp] theorem State.emit_boot (e : OutEvent) : (s.emit e).boot = s.boot := rfl
@[simp] theorem State.emit_cfg (e : OutEvent) : (s.emit e).cfg = s.cfg := rfl
@[simp] theorem State.emit_fw (e : OutEvent) : (s.emit e).fw = s.fw := rfl
@[simp] theorem State.emit_pwr (e : OutEvent) : (s.emit e).pwr = s.pwr := rfl
@[simp] theorem State.emit_ring (e : OutEvent) : (s.emit e).ring = s.ring := rfl
@[simp] theorem State.emit_belfry (e : OutEvent) : (s.emit e).belfry = s.belfry := rfl
@[simp] theorem State.emit_smbus (e : OutEvent) : (s.emit e).smbus = s.smbus := rfl
@[simp] theorem State.emit_mon (e : OutEvent) : (s.emit e).mon = s.mon := rfl
@[simp] theorem State.emit_health (e : OutEvent) : (s.emit e).health = s.health := rfl

/-! updSlice inside mem. -/

@[simp] theorem State.updSlice_mem_bytes (c i : Nat) (f : Slice → Slice) : (s.updSlice c i f).mem.bytes = s.mem.bytes := rfl
@[simp] theorem State.updSlice_mem_poison (c i : Nat) (f : Slice → Slice) : (s.updSlice c i f).mem.poison = s.mem.poison := rfl
@[simp] theorem State.updSlice_mem_tags (c i : Nat) (f : Slice → Slice) : (s.updSlice c i f).mem.tags = s.mem.tags := rfl
@[simp] theorem State.updSlice_mem_chans (c i : Nat) (f : Slice → Slice) : (s.updSlice c i f).mem.chans = s.mem.chans := rfl
@[simp] theorem State.updSlice_mem_sbe (c i : Nat) (f : Slice → Slice) : (s.updSlice c i f).mem.sbe = s.mem.sbe := rfl
@[simp] theorem State.updSlice_mem_mismatch (c i : Nat) (f : Slice → Slice) : (s.updSlice c i f).mem.mismatch = s.mem.mismatch := rfl
@[simp] theorem State.updSlice_mem_lostDpas (c i : Nat) (f : Slice → Slice) : (s.updSlice c i f).mem.lostDpas = s.mem.lostDpas := rfl
@[simp] theorem State.updSlice_mem_frameWait (c i : Nat) (f : Slice → Slice) : (s.updSlice c i f).mem.frameWait = s.mem.frameWait := rfl

/-! updChan inside mem. -/

@[simp] theorem State.updChan_mem_bytes (i : Nat) (f : MemCh → MemCh) : (s.updChan i f).mem.bytes = s.mem.bytes := rfl
@[simp] theorem State.updChan_mem_poison (i : Nat) (f : MemCh → MemCh) : (s.updChan i f).mem.poison = s.mem.poison := rfl
@[simp] theorem State.updChan_mem_tags (i : Nat) (f : MemCh → MemCh) : (s.updChan i f).mem.tags = s.mem.tags := rfl
@[simp] theorem State.updChan_mem_slices (i : Nat) (f : MemCh → MemCh) : (s.updChan i f).mem.slices = s.mem.slices := rfl
@[simp] theorem State.updChan_mem_sbe (i : Nat) (f : MemCh → MemCh) : (s.updChan i f).mem.sbe = s.mem.sbe := rfl
@[simp] theorem State.updChan_mem_mismatch (i : Nat) (f : MemCh → MemCh) : (s.updChan i f).mem.mismatch = s.mem.mismatch := rfl
@[simp] theorem State.updChan_mem_lostDpas (i : Nat) (f : MemCh → MemCh) : (s.updChan i f).mem.lostDpas = s.mem.lostDpas := rfl
@[simp] theorem State.updChan_mem_frameWait (i : Nat) (f : MemCh → MemCh) : (s.updChan i f).mem.frameWait = s.mem.frameWait := rfl

/-- The clock that updClock writes. -/
theorem State.updClock_clock (c : Nat) (f : Clock → Clock) (n : Nat) :
    (s.updClock c f).clock n = if n = c then f (s.clock c) else s.clock n := by
  simp only [State.clock, State.cl, State.updClock, State.updCl, tget_tset]
  split <;> simp_all

theorem State.drew_freeCtr (n : Nat) : (s.drew n).freeCtr = s.freeCtr + n := rfl
theorem State.emit_out (e : OutEvent) : (s.emit e).out = e :: s.out := rfl

end Sys2Proof.Machine
end

