-- ==== Sys2Proof/Laws/Crossbar.lean ====
section
/-! SUPPORT. What winning a memory slice does: it is held as the slice's last winner, and nothing else changes. -/
namespace Sys2Proof.Machine

@[simp] theorem State.xbarWon_mem (s : State) (i dpa : Nat) : (s.xbarWon i dpa).mem = s.mem := by
  unfold State.xbarWon
  split <;> rfl

@[simp] theorem State.xbarWon_tile (s : State) (i dpa n : Nat) : (s.xbarWon i dpa).tile n = s.tile n := by
  unfold State.xbarWon
  split <;> rfl

@[simp] theorem State.xbarWon_bats (s : State) (i dpa : Nat) : (s.xbarWon i dpa).bats = s.bats := by
  unfold State.xbarWon
  split <;> rfl

/-- The winner at a slice of cluster memory is the last winner there. -/
theorem State.xbarWon_xbarLast {s : State} {i dpa c sl : Nat} (h : home dpa = .cm c sl) : (s.xbarWon i dpa).xbarLast dpa = i := by
  have e : ∀ f, (s.updCl c f).physOf c sl = s.physOf c sl := fun _ => rfl
  simp [State.xbarLast, State.xbarWon, h, e, State.updCl_cl]

end Sys2Proof.Machine
end

