-- ==== Sys2Proof/Laws/Keeps.lean ====
section
/-! SUPPORT. The relation that every operation keeps, for the operations on the parts of the state. -/
namespace Sys2Proof.Machine

/-! How relations compose. -/

theorem Keeps.refl (a : State) : Keeps a a := ⟨id, rfl, Nat.le_refl _, List.suffix_refl _⟩

theorem Keeps.trans {a b c : State} (h : Keeps a b) (k : Keeps b c) : Keeps a c :=
  ⟨fun i => k.inv (h.inv i), k.pending.trans h.pending, Nat.le_trans h.free k.free, h.out.trans k.out⟩

/-- An update of other fields. -/
theorem Keeps.of_eq {a s t : State} (h : Keeps a s) (m : t.mem.bytes = s.mem.bytes) (c : t.clusters = s.clusters)
    (p : t.pending = s.pending) (f : t.freeCtr = s.freeCtr) (o : t.out = s.out) : Keeps a t where
  inv i := ⟨by rw [m]; exact (h.inv i).mem, by
    have hc := (h.inv i).clocks
    unfold State.clocksLegal State.clock State.cl at hc ⊢
    rw [c]
    exact hc⟩
  pending := p.trans h.pending
  free := by rw [f]; exact h.free
  out := by rw [o]; exact h.out

theorem keeps_ite {a x y : State} {c : Prop} [Decidable c] (hx : Keeps a x) (hy : Keeps a y) : Keeps a (if c then x else y) := by
  split <;> assumption

theorem keeps_ite_fst {a : State} {α : Type} {x y : State × α} {c : Prop} [Decidable c] (hx : Keeps a x.1) (hy : Keeps a y.1) :
    Keeps a (if c then x else y).1 := by
  split <;> assumption

theorem keeps_of_fst {a t : State} {α : Type} {p : State × α} {r : α} (e : p = (t, r)) (h : Keeps a p.1) : Keeps a t := by
  rw [e] at h
  exact h

theorem keeps_of_eq_var {a t u : State} (e : u = t) (h : Keeps a u) : Keeps a t := e ▸ h

theorem foldl_keeps {a s : State} {α : Type} {l : List α} {f : State → α → State} (h : Keeps a s)
    (hf : ∀ s e, Keeps a s → Keeps a (f s e)) : Keeps a (l.foldl f s) := by
  induction l generalizing s with
  | nil => exact h
  | cons e r ih => exact ih (hf s e h)

theorem State.each_keeps {a s : State} {α : Type} {l : List α} {f : State → α → State} (h : Keeps a s)
    (hf : ∀ s e, Keeps a s → Keeps a (f s e)) : Keeps a (s.each l f) := foldl_keeps h hf

theorem keeps_pair {a s : State} {α : Type} {v : α} (h : Keeps a s) : Keeps a (s, v).1 := h

theorem foldl_fst_keeps {a s : State} {α β : Type} {l : List α} {v : β} {f : State × β → α → State × β} (h : Keeps a s)
    (hf : ∀ p e, Keeps a p.1 → Keeps a (f p e).1) : Keeps a (l.foldl f (s, v)).1 := by
  suffices ∀ p : State × β, Keeps a p.1 → Keeps a (l.foldl f p).1 from this _ h
  induction l with
  | nil => exact fun _ k => k
  | cons e r ih => exact fun p k => ih _ (hf p e k)

/-! The clocks. -/

theorem Clock.reset_legal : Clock.reset.legal := by
  constructor <;> simp [Clock.reset, legalCode]

theorem State.reset_clocksLegal : State.reset.clocksLegal := fun _ => Clock.reset_legal

/-- An update of the clusters that keeps each clock legal, of memory to a canonical one, and of other fields. -/
theorem Keeps.of_parts {a s t : State} (h : Keeps a s) (m : Memory.wf s.mem.bytes = true → Memory.wf t.mem.bytes = true)
    (c : s.clocksLegal → t.clocksLegal) (p : t.pending = s.pending) (f : t.freeCtr = s.freeCtr) (o : t.out = s.out) : Keeps a t where
  inv i := ⟨m (h.inv i).mem, c (h.inv i).clocks⟩
  pending := p.trans h.pending
  free := by rw [f]; exact h.free
  out := by rw [o]; exact h.out

theorem State.updCl_keeps {a s : State} {c : Nat} {f : Cluster → Cluster} (h : Keeps a s)
    (hf : ∀ x, x.clk.legal → (f x).clk.legal) : Keeps a (s.updCl c f) := by
  refine h.of_parts id (fun k d => ?_) rfl rfl rfl
  simp only [State.clock, State.cl, State.updCl, tget_tset]
  split
  · exact hf _ (k c)
  · exact k d

theorem State.updClock_keeps {a s : State} {c : Nat} {f : Clock → Clock} (h : Keeps a s)
    (hf : (s.clock c).legal → (f (s.clock c)).legal) : Keeps a (s.updClock c f) := by
  refine h.of_parts id (fun k d => ?_) rfl rfl rfl
  simp only [State.clock, State.cl, State.updClock, State.updCl, tget_tset]
  split
  · exact hf (k c)
  · exact k d

theorem tget_tmap_or {α : Type} (t : Tbl α) (f : Nat → α → α) (k : Nat) (d : α) :
    tget (tmap t f) k d = f k (tget t k d) ∨ (tget (tmap t f) k d = d ∧ tget t k d = d) := by
  induction t with
  | nil => exact Or.inr ⟨rfl, rfl⟩
  | cons e r ih =>
    obtain ⟨k', w⟩ := e
    simp only [tmap, List.map_cons, tget] at ih ⊢
    split
    · rename_i hk
      subst hk
      exact Or.inl rfl
    · exact ih

theorem Keeps.tmap {a s : State} {f : Nat → Cluster → Cluster} (h : Keeps a s) (hf : ∀ n x, (f n x).clk = x.clk) :
    Keeps a { s with clusters := Sys2Proof.Machine.tmap s.clusters f } := by
  refine h.of_parts id (fun k d => ?_) rfl rfl rfl
  have := k d
  simp only [State.clock, State.cl] at this ⊢
  rcases tget_tmap_or s.clusters f d Cluster.reset with e | ⟨e, e'⟩
  · rw [e, hf]
    exact this
  · rw [e, ← e']
    exact this

/-! Legal codes that a clock is stepped to. -/

theorem no_target : ∀ t : Nat, none = some t → legalCode t := by simp

theorem some_target {n : Nat} (h : legalCode n) : ∀ t, some n = some t → legalCode t := by
  rintro t ⟨⟩
  exact h

theorem ite_target {c : Prop} [Decidable c] {x y : Option Nat} (hx : ∀ t, x = some t → legalCode t) (hy : ∀ t, y = some t → legalCode t) :
    ∀ t, (if c then x else y) = some t → legalCode t := by
  split <;> assumption

theorem legalCode_40 : legalCode 40 := by decide
theorem legalCode_54 : legalCode 54 := by decide

/-! The parts. -/

theorem State.setTile_keeps {a s : State} {ta t} (h : Keeps a s) : Keeps a (s.setTile ta t) := h.of_eq rfl rfl rfl rfl rfl
theorem State.updTile_keeps {a s : State} {ta f} (h : Keeps a s) : Keeps a (s.updTile ta f) := h.of_eq rfl rfl rfl rfl rfl
theorem State.setBat_keeps {a s : State} {c b x} (h : Keeps a s) : Keeps a (s.setBat c b x) := h.of_eq rfl rfl rfl rfl rfl
theorem State.updBat_keeps {a s : State} {c b f} (h : Keeps a s) : Keeps a (s.updBat c b f) := h.of_eq rfl rfl rfl rfl rfl
theorem State.updBatX_keeps {a s : State} {c b f} (h : Keeps a s) : Keeps a (s.updBatX c b f) := h.of_eq rfl rfl rfl rfl rfl
theorem State.setDesc_keeps {a s : State} {c e d x} (h : Keeps a s) : Keeps a (s.setDesc c e d x) := h.of_eq rfl rfl rfl rfl rfl
theorem State.updDesc_keeps {a s : State} {c e d f} (h : Keeps a s) : Keeps a (s.updDesc c e d f) := h.of_eq rfl rfl rfl rfl rfl
theorem State.updDescX_keeps {a s : State} {c e d f} (h : Keeps a s) : Keeps a (s.updDescX c e d f) := h.of_eq rfl rfl rfl rfl rfl
theorem State.updClX_keeps {a s : State} {c f} (h : Keeps a s) : Keeps a (s.updClX c f) := h.of_eq rfl rfl rfl rfl rfl
theorem State.updClY_keeps {a s : State} {c f} (h : Keeps a s) : Keeps a (s.updClY c f) := h.of_eq rfl rfl rfl rfl rfl
theorem State.updCtx_keeps {a s : State} {p k f} (h : Keeps a s) : Keeps a (s.updCtx p k f) := h.of_eq rfl rfl rfl rfl rfl
theorem State.updCtxX_keeps {a s : State} {p k f} (h : Keeps a s) : Keeps a (s.updCtxX p k f) := h.of_eq rfl rfl rfl rfl rfl
theorem State.updPart_keeps {a s : State} {p f} (h : Keeps a s) : Keeps a (s.updPart p f) := h.of_eq rfl rfl rfl rfl rfl
theorem State.updQueue_keeps {a s : State} {p k x f} (h : Keeps a s) : Keeps a (s.updQueue p k x f) := h.of_eq rfl rfl rfl rfl rfl
theorem State.updPort_keeps {a s : State} {i f} (h : Keeps a s) : Keeps a (s.updPort i f) := h.of_eq rfl rfl rfl rfl rfl
theorem State.updSlice_keeps {a s : State} {c p f} (h : Keeps a s) : Keeps a (s.updSlice c p f) := h.of_eq rfl rfl rfl rfl rfl
theorem State.updChan_keeps {a s : State} {i f} (h : Keeps a s) : Keeps a (s.updChan i f) := h.of_eq rfl rfl rfl rfl rfl
theorem State.updRouter_keeps {a s : State} {n f} (h : Keeps a s) : Keeps a (s.updRouter n f) := h.of_eq rfl rfl rfl rfl rfl
theorem State.updChannel_keeps {a s : State} {t i f} (h : Keeps a s) : Keeps a (s.updChannel t i f) := h.of_eq rfl rfl rfl rfl rfl
theorem State.updRxq_keeps {a s : State} {t i f} (h : Keeps a s) : Keeps a (s.updRxq t i f) := h.of_eq rfl rfl rfl rfl rfl
theorem State.updComb_keeps {a s : State} {c q f} (h : Keeps a s) : Keeps a (s.updComb c q f) := h.of_eq rfl rfl rfl rfl rfl

theorem State.drew_keeps {a s : State} {n : Nat} (h : Keeps a s) : Keeps a (s.drew n) :=
  ⟨fun i => ⟨(h.inv i).mem, (h.inv i).clocks⟩, h.pending, Nat.le_trans h.free (Nat.le_add_right _ _), h.out⟩

theorem State.emit_keeps {a s : State} {e : OutEvent} (h : Keeps a s) : Keeps a (s.emit e) :=
  ⟨fun i => ⟨(h.inv i).mem, (h.inv i).clocks⟩, h.pending, h.free, h.out.trans (List.suffix_cons _ _)⟩

end Sys2Proof.Machine
end

