-- ==== Sys2Proof/Laws/KeepsReport.lean ====
section
/-! SUPPORT. What every operation keeps, for the walks, the ring transmitter, the reports and records. -/
namespace Sys2Proof.Machine

/-! Walk. -/

theorem State.dropLines_keeps {a s : State} {dpa len : Nat} (h : Keeps a s) : Keeps a (State.dropLines s dpa len) := by
  unfold State.dropLines
  exact Keeps.tmap (s := s) ‹_› (fun _ _ => rfl)

theorem State.store_keeps {a s : State} {dpa : Nat} {bs : List Byte} (h : Keeps a s) : Keeps a (s.store dpa bs) :=
  Keeps.of_parts (State.dropLines_keeps h) (fun w => mwriteBytes_wf w _ _) id rfl rfl rfl

theorem State.blur_keeps {a s : State} {l : List (Nat × Nat)} (h : Keeps a s) : Keeps a (s.blur l) := by
  induction l generalizing s with
  | nil => exact h
  | cons p rest ih =>
    obtain ⟨b, n⟩ := p
    unfold State.blur
    extract_lets +onlyGivenNames x1
    have hx1 : Keeps a x1 := State.dropLines_keeps h
    clear_value x1
    refine ih ?_
    have k : Keeps a { x1 with mem := { x1.mem with bytes := mwriteBytes x1.mem.bytes b (leBytes n (x1.freeVal (8 * n)).toNat) } } :=
      Keeps.of_parts hx1 (fun w => mwriteBytes_wf w _ _) id rfl rfl rfl
    exact State.drew_keeps (n := 1) k

/-- What a blur can do: it changes bytes of memory, drops the cached lines of each extent and draws one free value for each. -/
theorem State.blur_parts (s : State) (l : List (Nat × Nat)) : (s.blur l).mem.poison = s.mem.poison ∧ (s.blur l).mem.tags = s.mem.tags ∧
    (s.blur l).freeCtr = s.freeCtr + l.length ∧ (s.blur l).tiles = s.tiles ∧ (s.blur l).bats = s.bats ∧ (s.blur l).ctxs = s.ctxs := by
  induction l generalizing s with
  | nil => exact ⟨rfl, rfl, rfl, rfl, rfl, rfl⟩
  | cons p rest ih =>
    obtain ⟨b, n⟩ := p
    unfold State.blur
    extract_lets +onlyGivenNames x1
    obtain ⟨h1, h2, h3, h4, h5, h6⟩ := ih { x1 with
      mem := { x1.mem with bytes := mwriteBytes x1.mem.bytes b (leBytes n (x1.freeVal (8 * n)).toNat) }, freeCtr := x1.freeCtr + 1 }
    exact ⟨h1, h2, h3.trans (by simp [x1, State.dropLines, Nat.add_comm, Nat.add_left_comm]), h4, h5, h6⟩

theorem State.zeroFrame_keeps {a s : State} {dpa : Nat} (h : Keeps a s) : Keeps a (s.zeroFrame dpa) :=
  Keeps.of_parts (State.dropLines_keeps h) (fun w => mclear_wf w _ _) id rfl rfl rfl

theorem State.takeFrame_keeps {a s : State} {dpa : Nat} {i : CtxId} (h : Keeps a s) : Keeps a (State.takeFrame s dpa i) := by
  unfold State.takeFrame
  extract_lets +onlyGivenNames -underBinder x1
  have hx1 : Keeps a x1 := State.zeroFrame_keeps ‹_›
  clear_value x1
  exact Keeps.of_eq (s := x1) ‹_› rfl rfl rfl rfl rfl

theorem State.translate_keeps {a s : State} {i : CtxId} {va : Nat} {write : Bool} (h : Keeps a s) : Keeps a
    (State.translate s i va write).1 := by
  unfold State.translate
  split
  · split
    · exact keeps_pair ‹_›
    · exact keeps_pair (State.takeFrame_keeps ‹_›)
    · exact keeps_pair ‹_›
  · exact keeps_pair ‹_›

theorem State.blurVa_keeps {a s : State} {i : CtxId} {fuel va n : Nat} (h : Keeps a s) : Keeps a (s.blurVa i fuel va n) := by
  induction fuel generalizing s va n with
  | zero => exact h
  | succ k ih =>
    unfold State.blurVa
    refine keeps_ite h (ih ?_)
    split
    · exact State.blur_keeps h
    · exact h

/-! RingTx. -/

theorem State.countRingWait_keeps {a s : State} (h : Keeps a s) : Keeps a (State.countRingWait s) := by
  unfold State.countRingWait
  exact foldl_keeps ‹_› (fun _ _ _ => State.updClY_keeps ‹_›)

theorem State.takeJob_keeps {a s : State} {j : RingJob} {status : Nat} (h : Keeps a s) : Keeps a (State.takeJob s j status) := by
  unfold State.takeJob
  extract_lets +onlyGivenNames -underBinder y2 x1
  have hx1 : Keeps a x1 := Keeps.of_eq (s := s) ‹_› rfl rfl rfl rfl rfl
  clear_value x1 y2
  exact State.updClY_keeps ‹_›

theorem State.updRport_keeps {a s : State} {p : Nat} {f : RingPort → RingPort} (h : Keeps a s) : Keeps a (State.updRport s p f) := by
  unfold State.updRport
  exact Keeps.of_eq (s := s) ‹_› rfl rfl rfl rfl rfl

theorem State.updWave_keeps {a s : State} {i : Nat} {f : Wave → Wave} (h : Keeps a s) : Keeps a (State.updWave s i f) := by
  unfold State.updWave
  exact Keeps.of_eq (s := s) ‹_› rfl rfl rfl rfl rfl

theorem State.wakeWave_keeps {a s : State} {i : Nat} (h : Keeps a s) : Keeps a (State.wakeWave s i) := by
  unfold State.wakeWave
  extract_lets +onlyGivenNames -underBinder x1
  have hx1 : Keeps a x1 := State.updWave_keeps ‹_›
  clear_value x1
  exact keeps_ite ‹_› (State.updRport_keeps ‹_›)

theorem State.checkEngine_keeps {a s : State} {e : Nat} (h : Keeps a s) : Keeps a (State.checkEngine s e) := by
  unfold State.checkEngine
  extract_lets +onlyGivenNames -underBinder x1 x2
  have hx2 : Keeps a x2 := keeps_ite (foldl_keeps ‹_› (fun _ _ _ => State.updWave_keeps ‹_›)) ‹_›
  clear_value x2 x1
  exact keeps_ite (State.updRport_keeps ‹_›) ‹_›

theorem State.muffleWave_keeps {a s : State} {i : Nat} (h : Keeps a s) : Keeps a (State.muffleWave s i) := by
  unfold State.muffleWave
  extract_lets +onlyGivenNames -underBinder x1
  clear_value x1
  extract_lets +onlyGivenNames -underBinder x2
  clear_value x2
  extract_lets +onlyGivenNames -underBinder x3
  have hx3 : Keeps a x3 := State.updWave_keeps ‹_›
  clear_value x3
  refine keeps_ite (State.checkEngine_keeps ‹_›) ?_
  extract_lets +onlyGivenNames -underBinder x4
  have hx4 : Keeps a x4 := by
    unfold x4
    split
    · exact foldl_keeps (State.updRport_keeps (State.updWave_keeps ‹_›)) (fun _ _ _ => State.emit_keeps ‹_›)
    · assumption
  clear_value x4
  exact State.checkEngine_keeps ‹_›

theorem State.sendFrame_keeps {a s : State} {e data : Nat} (h : Keeps a s) : Keeps a (State.sendFrame s e data) := by
  unfold State.sendFrame
  extract_lets +onlyGivenNames -underBinder x1 x2
  clear_value x2 x1
  split
  · assumption
  · extract_lets +onlyGivenNames -underBinder x3 x4 y6 x5
    have hx5 : Keeps a x5 := Keeps.of_eq (s := s) ‹_› rfl rfl rfl rfl rfl
    clear_value x5 y6 x4 x3
    extract_lets +onlyGivenNames -underBinder x7
    have hx7 : Keeps a x7 := State.updWave_keeps ‹_›
    clear_value x7
    exact State.emit_keeps ‹_›

theorem State.sendRing_keeps {a s : State} {p : Nat} {packet : Nat} {n : Nat} (h : Keeps a s) : Keeps a (State.sendRing s p packet n) := by
  unfold State.sendRing
  extract_lets +onlyGivenNames -underBinder x1
  clear_value x1
  refine keeps_ite ?_ (keeps_ite (State.updRport_keeps ‹_›) ‹_›)
  extract_lets +onlyGivenNames -underBinder x2
  clear_value x2
  exact foldl_keeps ‹_› (fun _ _ _ => State.sendFrame_keeps ‹_›)

theorem State.sendJob_keeps {a s : State} {j : RingJob} {typ r dir dst chunk arg : Nat} {data : List Byte} (h : Keeps a s) : Keeps a
    (State.sendJob s j typ r dir dst chunk arg data).1 := by
  unfold State.sendJob
  extract_lets +onlyGivenNames -underBinder x1 x2
  clear_value x2 x1
  exact keeps_pair (State.sendRing_keeps ‹_›)

theorem State.dropJob_keeps {a s : State} {j : RingJob} {status : Nat} (h : Keeps a s) : Keeps a (State.dropJob s j status) := by
  unfold State.dropJob
  extract_lets +onlyGivenNames -underBinder x1
  have hx1 : Keeps a x1 := State.takeJob_keeps (State.blur_keeps ‹_›)
  clear_value x1
  split
  · assumption
  · exact foldl_keeps ‹_› (fun _ _ _ => State.sendJob_keeps ‹_›)

/-! Report. -/

theorem State.bfSend_keeps {a s : State} {typ : Nat} {resp ack : Bool} {seq ref : Nat} {payload : List Byte} (h : Keeps a s) : Keeps a
    (State.bfSend s typ resp ack seq ref payload) := by
  unfold State.bfSend
  exact State.each_keeps ‹_› (fun _ _ _ => keeps_ite (State.emit_keeps ‹_›) ‹_›)

theorem State.log__keeps {a s : State} {typ core comp n data : Nat} (h : Keeps a s) : Keeps a (State.log_ s typ core comp n data) := by
  unfold State.log_
  extract_lets +onlyGivenNames -underBinder x1 x2
  clear_value x2 x1
  exact Keeps.of_eq (s := s) ‹_› rfl rfl rfl rfl rfl

theorem State.markDone_keeps {a s : State} {p k x idx : Nat} (h : Keeps a s) : Keeps a (State.markDone s p k x idx) := by
  unfold State.markDone
  exact State.updQueue_keeps ‹_›

theorem State.msi_keeps {a s : State} {port f vec : Nat} (h : Keeps a s) : Keeps a (State.msi s port f vec) := by
  unfold State.msi
  extract_lets +onlyGivenNames -underBinder x1
  clear_value x1
  exact keeps_ite (Keeps.of_eq (s := s) ‹_› rfl rfl rfl rfl rfl) (State.emit_keeps ‹_›)

theorem State.partMsi_keeps {a s : State} {p k : Nat} (h : Keeps a s) : Keeps a (State.partMsi s p k) := by
  unfold State.partMsi
  split
  · assumption
  · exact keeps_ite (State.msi_keeps ‹_›) (keeps_ite (State.msi_keeps ‹_›) ‹_›)

theorem State.quietTiles_keeps {a s : State} {c b : Nat} (h : Keeps a s) : Keeps a (State.quietTiles s c b) := by
  unfold State.quietTiles
  exact State.each_keeps ‹_› (fun _ _ _ => State.updTile_keeps ‹_›)

theorem State.report_keeps {a s : State} {typ payload : Nat} (h : Keeps a s) : Keeps a (State.report s typ payload) := by
  unfold State.report
  extract_lets +onlyGivenNames -underBinder x1 x2 x3 x4
  have hx4 : Keeps a x4 := Keeps.of_eq (s := s) ‹_› rfl rfl rfl rfl rfl
  clear_value x4 x3 x2 x1
  exact State.bfSend_keeps ‹_›

theorem State.respond_keeps {a s : State} {port typ ref status : Nat} {bytes : List Byte} (h : Keeps a s) : Keeps a
    (State.respond s port typ ref status bytes) := by
  unfold State.respond
  extract_lets +onlyGivenNames -underBinder x1 x2 x3 x4 x5
  have hx5 : Keeps a x5 := Keeps.of_eq (s := s) ‹_› rfl rfl rfl rfl rfl
  clear_value x5 x4 x3 x2 x1
  exact keeps_ite (State.emit_keeps ‹_›) ‹_›

theorem State.setLost_keeps {a s : State} {dpa : Nat} (h : Keeps a s) : Keeps a (State.setLost s dpa) := by
  unfold State.setLost
  split
  · exact State.updChan_keeps ‹_›
  · exact State.updChan_keeps ‹_›
  · split
    · exact State.updSlice_keeps ‹_›
    · assumption
  · assumption

theorem State.answer_keeps {a s : State} {key status : Nat} (h : Keeps a s) : Keeps a (State.answer s key status) := by
  unfold State.answer
  extract_lets +onlyGivenNames -underBinder x1 y3 x2
  have hx2 : Keeps a x2 := Keeps.of_eq (s := s) ‹_› rfl rfl rfl rfl rfl
  clear_value x2 y3 x1
  exact State.each_keeps ‹_› (fun _ _ _ => State.respond_keeps ‹_›)

theorem State.complete_keeps {a s : State} {r : CmdRef} {status pos : Nat} (h : Keeps a s) : Keeps a (State.complete s r status pos) := by
  unfold State.complete
  exact keeps_ite (State.updCtx_keeps ‹_›) (State.markDone_keeps ‹_›)

theorem State.completeOpt_keeps {a s : State} {r : Option CmdRef} {status : Nat} (h : Keeps a s) : Keeps a (State.completeOpt s r status)
    := by
  unfold State.completeOpt
  split
  · exact State.complete_keeps ‹_›
  · assumption

theorem State.declareLost_keeps {a s : State} {dpa len : Nat} (h : Keeps a s) : Keeps a (State.declareLost s dpa len) := by
  unfold State.declareLost
  extract_lets +onlyGivenNames -underBinder x1 y3 x2
  have hx2 : Keeps a x2 := Keeps.of_eq (s := s) ‹_› rfl rfl rfl rfl rfl
  clear_value x2 y3 x1
  exact State.setLost_keeps ‹_›

theorem State.event_keeps {a s : State} {status unit_ : Nat} (h : Keeps a s) : Keeps a (State.event s status unit_) := by
  unfold State.event
  exact State.report_keeps (State.drew_keeps ‹_›)

theorem State.irqCq_keeps {a s : State} {p k : Nat} (h : Keeps a s) : Keeps a (State.irqCq s p k) := by
  unfold State.irqCq
  exact keeps_ite (State.partMsi_keeps (State.updCtxX_keeps ‹_›)) ‹_›

theorem State.irqFault_keeps {a s : State} {p k : Nat} (h : Keeps a s) : Keeps a (State.irqFault s p k) := by
  unfold State.irqFault
  exact keeps_ite (State.partMsi_keeps (State.updCtxX_keeps ‹_›)) ‹_›

theorem State.irqPf_keeps {a s : State} {vec : Nat} (h : Keeps a s) : Keeps a (State.irqPf s vec) := by
  unfold State.irqPf
  exact State.each_keeps ‹_› (fun _ _ _ => keeps_ite (State.msi_keeps ‹_›) ‹_›)

theorem State.logAccess_keeps {a s : State} {fn : Fn} {off owner reason val : Nat} (h : Keeps a s) : Keeps a
    (State.logAccess s fn off owner reason val) := by
  unfold State.logAccess
  exact State.log__keeps ‹_›

theorem State.logPower_keeps {a s : State} {c : Nat} {wide : Bool} {code loop status count : Nat} (h : Keeps a s) : Keeps a
    (State.logPower s c wide code loop status count) := by
  unfold State.logPower
  exact State.log__keeps ‹_›

theorem State.ringRecord_keeps {a s : State} {i : CtxId} {r : FaultRec} (h : Keeps a s) : Keeps a (State.ringRecord s i r) := by
  unfold State.ringRecord
  extract_lets +onlyGivenNames -underBinder x1 x2 x3
  have hx3 : Keeps a x3 := State.updCtxX_keeps ‹_›
  clear_value x3 x2 x1
  refine keeps_ite (State.updCtxX_keeps ‹_›) ?_
  extract_lets +onlyGivenNames -underBinder x4
  have hx4 : Keeps a x4 := State.updCtxX_keeps ‹_›
  clear_value x4
  split
  · split
    · refine State.irqFault_keeps (State.updCtxX_keeps (State.store_keeps ?_))
      refine keeps_of_fst (by assumption) ?_
      exact State.translate_keeps ‹_›
    · assumption
  · assumption

theorem State.stopDesc_keeps {a s : State} {key status : Nat} (h : Keeps a s) : Keeps a (State.stopDesc s key status) := by
  unfold State.stopDesc
  extract_lets +onlyGivenNames -underBinder x1
  clear_value x1
  refine keeps_ite ?_ ?_
  · extract_lets +onlyGivenNames -underBinder x2
    have hx2 : Keeps a x2 := Keeps.of_eq (s := s) ‹_› rfl rfl rfl rfl rfl
    clear_value x2
    exact State.completeOpt_keeps ‹_›
  · refine keeps_ite ?_ ‹_›
    extract_lets +onlyGivenNames -underBinder x3
    have hx3 : Keeps a x3 := Keeps.of_eq (s := s) ‹_› rfl rfl rfl rfl rfl
    clear_value x3
    exact State.completeOpt_keeps ‹_›

theorem State.endChain_keeps {a s : State} {c : Nat} {h' : Chain} {status : Nat} (h : Keeps a s) : Keeps a (State.endChain s c h' status)
    := by
  unfold State.endChain
  extract_lets +onlyGivenNames -underBinder x1
  have hx1 : Keeps a x1 := State.updCl_keeps ‹_› (fun _ hx => hx)
  clear_value x1
  exact State.complete_keeps ‹_›

theorem State.completeAt_keeps {a s : State} {c : ℕ} {r : Option CmdRef} {status : ℕ} (h : Keeps a s) : Keeps a (State.completeAt s c r
    status) := by
  unfold State.completeAt
  split
  · assumption
  · split
    · exact State.endChain_keeps ‹_›
    · exact State.complete_keeps ‹_›

theorem State.endBattery_keeps {a s : State} {c b status : Nat} (h : Keeps a s) : Keeps a (State.endBattery s c b status) := by
  unfold State.endBattery
  exact State.updBat_keeps ‹_›

theorem State.cancelBat_keeps {a s : State} {i : CtxId} {key : ℕ} (h : Keeps a s) : Keeps a (State.cancelBat s i key) := by
  unfold State.cancelBat
  extract_lets +onlyGivenNames -underBinder x1
  clear_value x1
  extract_lets +onlyGivenNames -underBinder x2
  clear_value x2
  extract_lets +onlyGivenNames -underBinder x3
  clear_value x3
  extract_lets +onlyGivenNames -underBinder x4
  clear_value x4
  extract_lets +onlyGivenNames -underBinder x5
  have hx5 : Keeps a x5 := State.updBat_keeps ‹_›
  clear_value x5
  extract_lets +onlyGivenNames -underBinder x6
  have hx6 : Keeps a x6 := keeps_ite (State.completeAt_keeps (State.updBatX_keeps (State.endBattery_keeps (State.quietTiles_keeps ‹_›))))
      ‹_›
  clear_value x6
  extract_lets +onlyGivenNames -underBinder x7
  have hx7 : Keeps a x7 := keeps_ite (State.completeAt_keeps (State.updBat_keeps ‹_›)) ‹_›
  clear_value x7
  exact State.each_keeps ‹_› (fun _ _ _ => State.completeAt_keeps ‹_›)

theorem State.cancelSections_keeps {a s : State} {i : CtxId} (h : Keeps a s) : Keeps a (State.cancelSections s i) := by
  unfold State.cancelSections
  exact State.each_keeps ‹_› (fun _ _ _ => State.cancelBat_keeps ‹_›)

theorem State.raise_keeps {a s : State} {r : FaultRec} (h : Keeps a s) : Keeps a (State.raise s r) := by
  unfold State.raise
  extract_lets +onlyGivenNames -underBinder x1 x2 x3
  have hx3 : Keeps a x3 := State.log__keeps ‹_›
  clear_value x3 x2 x1
  extract_lets +onlyGivenNames -underBinder x4
  have hx4 : Keeps a x4 := keeps_ite (State.report_keeps ‹_›) ‹_›
  clear_value x4
  split
  · exact keeps_ite (State.ringRecord_keeps ‹_›) ‹_›
  · split
    · exact State.partMsi_keeps (State.updPart_keeps ‹_›)
    · assumption

theorem State.ctxResult_keeps {a s : State} {p k result : Nat} (h : Keeps a s) : Keeps a (State.ctxResult s p k result) := by
  unfold State.ctxResult
  exact State.answer_keeps (State.updCtx_keeps ‹_›)

theorem State.enterFaulted_keeps {a s : State} {i : CtxId} {status : ℕ} (h : Keeps a s) : Keeps a (State.enterFaulted s i status) := by
  unfold State.enterFaulted
  extract_lets +onlyGivenNames -underBinder x1
  clear_value x1
  extract_lets +onlyGivenNames -underBinder x2
  have hx2 : Keeps a x2 := State.updCtx_keeps ‹_›
  clear_value x2
  exact keeps_ite ‹_› (keeps_ite (State.ctxResult_keeps ‹_›) ‹_›)

theorem State.dropWaits_keeps {a s : State} {i : CtxId} {f : State → Option CmdRef → State} (h : Keeps a s) (hf : ∀ s e1, Keeps a s →
    Keeps a (f s e1)) : Keeps a (State.dropWaits s i f) := by
  unfold State.dropWaits
  extract_lets +onlyGivenNames -underBinder x1
  clear_value x1
  exact State.each_keeps ‹_› (fun _ _ hz => hf _ _ (State.updDescX_keeps (State.updCl_keeps hz (fun _ hx => hx))))

theorem State.fatal_keeps {a s : State} {i : CtxId} {r : FaultRec} (h : Keeps a s) : Keeps a (State.fatal s i r) := by
  unfold State.fatal
  extract_lets +onlyGivenNames -underBinder x1
  have hx1 : Keeps a x1 := State.raise_keeps ‹_›
  clear_value x1
  refine keeps_ite ‹_› ?_
  extract_lets +onlyGivenNames -underBinder x2
  have hx2 : Keeps a x2 := State.enterFaulted_keeps ‹_›
  clear_value x2
  extract_lets +onlyGivenNames -underBinder x3
  have hx3 : Keeps a x3 := State.dropWaits_keeps ‹_› (fun _ _ _ => State.completeOpt_keeps ‹_›)
  clear_value x3
  extract_lets +onlyGivenNames -underBinder x7
  have hx7 : Keeps a x7 := State.each_keeps ‹_› (fun _ _ _ => State.stopDesc_keeps ‹_›)
  clear_value x7
  extract_lets +onlyGivenNames -underBinder x11
  have hx11 : Keeps a x11 := State.each_keeps ‹_› (fun _ _ _ => State.complete_keeps (State.dropJob_keeps ‹_›))
  clear_value x11
  exact State.cancelSections_keeps ‹_›

theorem State.fatalXlat_keeps {a s : State} {i : CtxId} {status agent cluster va : Nat} (h : Keeps a s) : Keeps a
    (State.fatalXlat s i status agent cluster va) := by
  unfold State.fatalXlat
  exact State.fatal_keeps ‹_›

theorem State.lostNotice_keeps {a s : State} {dpa len : Nat} (h : Keeps a s) : Keeps a (State.lostNotice s dpa len) := by
  unfold State.lostNotice
  exact State.each_keeps ‹_› (fun _ _ _ => State.raise_keeps ‹_›)

/-! Access. -/

theorem State.unlatch_keeps {a s : State} {fn : Fn} (h : Keeps a s) : Keeps a (State.unlatch s fn) := by
  unfold State.unlatch
  split
  · assumption
  · exact Keeps.of_eq (s := s) ‹_› rfl rfl rfl rfl rfl

theorem State.unlatchBy_keeps {a s : State} {v1 : Issuer} (h : Keeps a s) : Keeps a (State.unlatchBy s v1) := by
  unfold State.unlatchBy
  split
  · exact State.unlatch_keeps ‹_›
  · assumption

theorem State.refuseC_keeps {a s : State} {fn : Fn} {c off reason val : Nat} (h : Keeps a s) : Keeps a
    (State.refuseC s fn c off reason val) := by
  unfold State.refuseC
  exact State.logAccess_keeps ‹_›

theorem State.refuseG_keeps {a s : State} {fn : Fn} {off reason val : Nat} (h : Keeps a s) : Keeps a (State.refuseG s fn off reason val)
    := by
  unfold State.refuseG
  exact State.logAccess_keeps ‹_›

theorem State.refuseP_keeps {a s : State} {fn : Fn} {p off reason val : Nat} (h : Keeps a s) : Keeps a
    (State.refuseP s fn p off reason val) := by
  unfold State.refuseP
  exact State.logAccess_keeps ‹_›

theorem State.gateC_keeps {a s : State} {fn : Fn} {c off val : Nat} {act : State → State} (h : Keeps a s)
    (hact : ∀ u0, Keeps a u0 → Keeps a (act u0)) : Keeps a (State.gateC s fn c off val act) := by
  unfold State.gateC
  exact keeps_ite (State.refuseC_keeps ‹_›) (keeps_ite (State.refuseC_keeps ‹_›) (hact _ ‹_›))

theorem State.gateG_keeps {a s : State} {fn : Fn} {off val : Nat} {act : State → State} (h : Keeps a s)
    (hact : ∀ u0, Keeps a u0 → Keeps a (act u0)) : Keeps a (State.gateG s fn off val act) := by
  unfold State.gateG
  exact keeps_ite (State.refuseG_keeps ‹_›) (keeps_ite (State.refuseG_keeps ‹_›) (hact _ ‹_›))

theorem State.gateP_keeps {a s : State} {fn : Fn} {p off val : Nat} {act : State → State} (h : Keeps a s)
    (hact : ∀ u0, Keeps a u0 → Keeps a (act u0)) : Keeps a (State.gateP s fn p off val act) := by
  unfold State.gateP
  exact keeps_ite (State.refuseP_keeps ‹_›) (keeps_ite (State.refuseP_keeps ‹_›) (hact _ ‹_›))

/-! Endpoint. -/

theorem State.countGone_keeps {a s : State} {c n : Nat} (h : Keeps a s) : Keeps a (State.countGone s c n) := by
  unfold State.countGone
  exact State.updClX_keeps ‹_›

theorem State.leaveBuffer_keeps {a s : State} {p : Packet} (h : Keeps a s) : Keeps a (State.leaveBuffer s p) := by
  unfold State.leaveBuffer
  split
  · exact State.updRouter_keeps ‹_›
  · assumption

theorem State.dropWhere_keeps {a s : State} {pick : Packet → Bool} (h : Keeps a s) : Keeps a (State.dropWhere s pick) := by
  unfold State.dropWhere
  extract_lets +onlyGivenNames -underBinder x1
  clear_value x1
  exact State.each_keeps (Keeps.of_eq (s := s) ‹_› rfl rfl rfl rfl rfl) (fun _ _ _ => State.leaveBuffer_keeps ‹_›)

theorem State.dropPacket_keeps {a s : State} {id : Nat} (h : Keeps a s) : Keeps a (State.dropPacket s id) := by
  unfold State.dropPacket
  exact State.dropWhere_keeps ‹_›

theorem State.inject_keeps {a s : State} {p : Packet} (h : Keeps a s) : Keeps a (State.inject s p) := by
  unfold State.inject
  exact Keeps.of_eq (s := s) ‹_› rfl rfl rfl rfl rfl

theorem State.notifyGone_keeps {a s : State} {key : Nat} (h : Keeps a s) : Keeps a (State.notifyGone s key) := by
  unfold State.notifyGone
  exact State.updComb_keeps ‹_›

theorem State.sendBack_keeps {a s : State} {node port payload inc : Nat} {key : BitVec 12} {ctx : Option CtxId} {status : Nat}
    (h : Keeps a s) : Keeps a (State.sendBack s node port payload inc key ctx status) := by
  unfold State.sendBack
  exact keeps_ite (keeps_ite (State.notifyGone_keeps ‹_›) ‹_›) (State.inject_keeps ‹_›)

theorem State.setPacket_keeps {a s : State} {id : Nat} {f : Packet → Packet} (h : Keeps a s) : Keeps a (State.setPacket s id f) := by
  unfold State.setPacket
  exact Keeps.of_eq (s := s) ‹_› rfl rfl rfl rfl rfl

theorem State.unreserve_keeps {a s : State} {ta q gen n : Nat} (h : Keeps a s) : Keeps a (State.unreserve s ta q gen n) := by
  unfold State.unreserve
  extract_lets +onlyGivenNames -underBinder x1
  clear_value x1
  exact keeps_ite (State.updRxq_keeps ‹_›) ‹_›

theorem State.closeChan_keeps {a s : State} {ta n : Nat} (h : Keeps a s) : Keeps a (State.closeChan s ta n) := by
  unfold State.closeChan
  extract_lets +onlyGivenNames -underBinder x1 x2
  have hx2 : Keeps a x2 := keeps_ite ‹_› (State.unreserve_keeps ‹_›)
  clear_value x2 x1
  extract_lets +onlyGivenNames -underBinder x3
  have hx3 : Keeps a x3 := State.updChannel_keeps ‹_›
  clear_value x3
  exact Keeps.of_eq (s := x3) ‹_› rfl rfl rfl rfl rfl

theorem State.closeComb_keeps {a s : State} {c q : Nat} (h : Keeps a s) : Keeps a (State.closeComb s c q) := by
  unfold State.closeComb
  extract_lets +onlyGivenNames -underBinder x1 x2 x3
  have hx2 : Keeps a x2 := keeps_ite (State.blur_keeps ‹_›) ‹_›
  have hx3 : Keeps a x3 := State.unreserve_keeps hx2
  clear_value x3 x2 x1
  exact State.updComb_keeps ‹_›

theorem State.returnEntry_keeps {a s : State} {ta : Nat} {ctx : Option CtxId} {e : RxEntry} {status : Nat} (h : Keeps a s) : Keeps a
    (State.returnEntry s ta ctx e status) := by
  unfold State.returnEntry
  extract_lets +onlyGivenNames -underBinder x1 x2
  have hx2 : Keeps a x2 := keeps_ite (State.countGone_keeps ‹_›) ‹_›
  clear_value x2 x1
  exact State.sendBack_keeps ‹_›

theorem State.closeRx_keeps {a s : State} {ta q : Nat} (h : Keeps a s) : Keeps a (State.closeRx s ta q) := by
  unfold State.closeRx
  extract_lets +onlyGivenNames -underBinder x1 x2
  have hx2 : Keeps a x2 := State.each_keeps ‹_› (fun _ _ _ => State.returnEntry_keeps ‹_›)
  clear_value x2 x1
  exact State.updRxq_keeps ‹_›

theorem State.discardParts_keeps {a s : State} {ta q status : Nat} {muffled : Bool} (h : Keeps a s) : Keeps a
    (State.discardParts s ta q status muffled) := by
  unfold State.discardParts
  extract_lets +onlyGivenNames -underBinder x1 x2
  have hx2 : Keeps a x2 := State.each_keeps ‹_› (fun _ _ _ => State.returnEntry_keeps ‹_›)
  clear_value x2 x1
  exact State.updRxq_keeps ‹_›

theorem State.muffleEndpoint_keeps {a s : State} {ta : Nat} (h : Keeps a s) : Keeps a (State.muffleEndpoint s ta) := by
  unfold State.muffleEndpoint
  exact State.each_keeps ‹_› (fun _ _ _ => keeps_ite ‹_› (State.discardParts_keeps ‹_›))

theorem State.closeContext_keeps {a s : State} {i : CtxId} (h : Keeps a s) : Keeps a (State.closeContext s i) := by
  unfold State.closeContext
  extract_lets +onlyGivenNames -underBinder x1
  have hx1 : Keeps a x1 := State.each_keeps ‹_› (fun _ _ _ => keeps_ite (State.closeChan_keeps ‹_›) ‹_›)
  clear_value x1
  extract_lets +onlyGivenNames -underBinder x4
  have hx4 : Keeps a x4 := State.each_keeps ‹_› (fun _ _ _ => keeps_ite (State.closeRx_keeps ‹_›) ‹_›)
  clear_value x4
  exact State.each_keeps ‹_› (fun _ _ _ => keeps_ite (State.closeComb_keeps ‹_›) ‹_›)

theorem State.closeForeign_keeps {a s : State} {ta : Nat} {i : CtxId} (h : Keeps a s) : Keeps a (State.closeForeign s ta i) := by
  unfold State.closeForeign
  extract_lets +onlyGivenNames -underBinder x1
  have hx1 : Keeps a x1 := State.each_keeps ‹_› (fun _ _ _ => keeps_ite (State.closeChan_keeps ‹_›) ‹_›)
  clear_value x1
  exact State.each_keeps ‹_› (fun _ _ _ => keeps_ite (State.closeRx_keeps ‹_›) ‹_›)

/-! Checks. -/

/-- A clock that is let go stays legal: it is stepped to the step kept for it, to 1.350 GHz, or as before. -/
theorem Clock.release_legal {k : Clock} (h : k.legal) : k.release.legal := by
  refine ⟨h.code, ?_, no_target, ?_⟩
  · intro t e
    simp only [Clock.release] at e
    split at e
    · split at e
      · exact some_target legalCode_54 t e
      · exact h.target t e
    · cases hs : k.heldStep with
      | none => exact h.target t (by simpa [hs] using e)
      | some n => exact h.held t (by simpa [hs] using e)
  · unfold Clock.release
    cases hs : k.heldStep with
    | none => simpa [hs] using h.dvfs
    | some n => simpa [hs] using h.held n hs

/-- The same for a clock whose target is forgotten first. -/
theorem Clock.release_none_legal {k : Clock} (h : k.legal) : (Clock.release { k with target := none }).legal :=
  Clock.release_legal ⟨h.code, no_target, h.held, h.dvfs⟩

theorem State.returnTile_keeps {a s : State} {x : TapSlice} (h : Keeps a s) : Keeps a (State.returnTile s x) := by
  unfold State.returnTile
  extract_lets +onlyGivenNames -underBinder x1
  clear_value x1
  extract_lets +onlyGivenNames -underBinder x2
  have hx2 : Keeps a x2 := Keeps.of_eq (s := s) ‹_› rfl rfl rfl rfl rfl
  clear_value x2
  refine keeps_ite ‹_› ?_
  extract_lets +onlyGivenNames -underBinder x3
  clear_value x3
  extract_lets +onlyGivenNames -underBinder x4
  have hx4 : Keeps a x4 := State.updTile_keeps ‹_›
  clear_value x4
  extract_lets +onlyGivenNames -underBinder x5
  clear_value x5
  exact keeps_ite ‹_› (State.updClock_keeps ‹_› Clock.release_legal)

theorem State.showChecks_keeps {a s : State} {p : Nat} (h : Keeps a s) : Keeps a (State.showChecks s p) := by
  unfold State.showChecks
  extract_lets +onlyGivenNames -underBinder x1
  clear_value x1
  refine State.each_keeps ‹_› ?_
  intro z2 z3 hz2
  extract_lets +onlyGivenNames -underBinder x4
  clear_value x4
  exact State.updCtxX_keeps ‹_›

theorem State.tapRecord_keeps {a s : State} {x : TapSlice} {outcome errors lanes sig : Nat} (h : Keeps a s) : Keeps a
    (State.tapRecord s x outcome errors lanes sig) := by
  unfold State.tapRecord
  extract_lets +onlyGivenNames -underBinder x1 x2
  have hx2 : Keeps a x2 := State.log__keeps ‹_›
  clear_value x2 x1
  extract_lets +onlyGivenNames -underBinder y4 x3
  have hx3 : Keeps a x3 := keeps_ite (State.emit_keeps (Keeps.of_eq (s := x2) ‹_› rfl rfl rfl rfl rfl)) ‹_›
  clear_value x3 y4
  exact keeps_ite (State.report_keeps ‹_›) ‹_›

theorem State.abandonSlices_keeps {a s : State} {outcome : Nat} {pick : TapSlice → Bool} (h : Keeps a s) : Keeps a
    (State.abandonSlices s outcome pick) := by
  unfold State.abandonSlices
  exact State.each_keeps ‹_› (fun _ _ _ => State.tapRecord_keeps (State.returnTile_keeps ‹_›))

theorem State.checkLimited_keeps {a s : State} {c ta : Nat} (h : Keeps a s) : Keeps a (State.checkLimited s c ta) := by
  unfold State.checkLimited
  extract_lets +onlyGivenNames -underBinder y2 x1
  clear_value x1 y2
  split
  · exact State.raise_keeps ‹_›
  · extract_lets +onlyGivenNames -underBinder x3
    have hx3 : Keeps a x3 := State.raise_keeps ‹_›
    clear_value x3
    exact State.each_keeps ‹_› (fun _ _ _ => State.ringRecord_keeps ‹_›)

theorem State.endDuty_keeps {a s : State} {ta : ℕ} (h : Keeps a s) : Keeps a (State.endDuty s ta) := by
  unfold State.endDuty
  exact State.updTile_keeps ‹_›

theorem State.endDutyOf_keeps {a s : State} {k : Check} (h : Keeps a s) : Keeps a (State.endDutyOf s k) := by
  unfold State.endDutyOf
  split
  · exact State.endDuty_keeps ‹_›
  · assumption

theorem State.loseCheck_keeps {a s : State} {k : Check} (h : Keeps a s) : Keeps a (State.loseCheck s k) := by
  unfold State.loseCheck
  extract_lets +onlyGivenNames -underBinder x1
  clear_value x1
  extract_lets +onlyGivenNames -underBinder x2
  clear_value x2
  extract_lets +onlyGivenNames -underBinder x3
  have hx3 : Keeps a x3 := State.updClX_keeps (State.endDutyOf_keeps ‹_›)
  clear_value x3
  extract_lets +onlyGivenNames -underBinder x4
  clear_value x4
  extract_lets +onlyGivenNames -underBinder x5
  have hx5 : Keeps a x5 := State.updTile_keeps ‹_›
  clear_value x5
  exact keeps_ite (State.checkLimited_keeps ‹_›) ‹_›

theorem State.loseChecksOn_keeps {a s : State} {ta : Nat} (h : Keeps a s) : Keeps a (State.loseChecksOn s ta) := by
  unfold State.loseChecksOn
  exact State.each_keeps ‹_› (fun _ _ _ => keeps_ite (State.loseCheck_keeps ‹_›) (State.updClX_keeps (State.endDuty_keeps ‹_›)))

theorem State.recompute_keeps {a s : State} {c : Nat} (h : Keeps a s) : Keeps a (State.recompute s c) := by
  unfold State.recompute
  refine keeps_ite ‹_› ?_
  extract_lets +onlyGivenNames -underBinder x1 x2 x3 x4 x5 x6 x7 x8
  have hx8 : Keeps a x8 := State.updClX_keeps ‹_›
  clear_value x8 x7 x6 x5 x4 x3 x2 x1
  extract_lets +onlyGivenNames -underBinder x9
  have hx9 : Keeps a x9 := keeps_ite (State.report_keeps ‹_›) ‹_›
  clear_value x9
  exact keeps_ite (State.checkLimited_keeps ‹_›) ‹_›

theorem State.tilesChanged_keeps {a s : State} {c : Nat} (h : Keeps a s) : Keeps a (State.tilesChanged s c) := by
  unfold State.tilesChanged
  extract_lets +onlyGivenNames -underBinder x1
  have hx1 : Keeps a x1 := State.recompute_keeps ‹_›
  clear_value x1
  split
  · exact State.showChecks_keeps ‹_›
  · assumption

theorem State.clearTests_keeps {a s : State} {ta : Nat} (h : Keeps a s) : Keeps a (State.clearTests s ta) := by
  unfold State.clearTests
  exact State.abandonSlices_keeps (State.loseChecksOn_keeps ‹_›)

end Sys2Proof.Machine
end

