-- ==== Sys2Proof/Laws/KeepsSection.lean ====
section
/-! SUPPORT. What every operation keeps, for the sections, the ledger, the context resets, the tiles and the fabric. -/
namespace Sys2Proof.Machine

/-! Section. -/

theorem State.leaveCmd_keeps {a s : State} {r : Option CmdRef} (h : Keeps a s) : Keeps a (State.leaveCmd s r) := by
  unfold State.leaveCmd
  split
  · exact State.updQueue_keeps ‹_›
  · assumption

theorem State.masksOn_keeps {a s : State} {c b : Nat} {img : SecImage} (h : Keeps a s) : Keeps a (State.masksOn s c b img) := by
  unfold State.masksOn
  exact State.each_keeps ‹_› (fun _ _ _ => State.updTile_keeps ‹_›)

theorem State.setChain_keeps {a s : State} {c : Nat} {h' : Chain} (h : Keeps a s) : Keeps a (State.setChain s c h') := by
  unfold State.setChain
  exact State.updCl_keeps ‹_› (fun _ hx => hx)

theorem State.startCmd_keeps {a s : State} {r : CmdRef} (h : Keeps a s) : Keeps a (State.startCmd s r) := by
  unfold State.startCmd
  exact State.updQueue_keeps ‹_›

theorem State.stopTiles_keeps {a s : State} {c b : Nat} (h : Keeps a s) : Keeps a (State.stopTiles s c b) := by
  unfold State.stopTiles
  extract_lets +onlyGivenNames -underBinder x1 x2 x3
  have hx2 : Keeps a x2 := State.updClX_keeps ‹_›
  have hx3 : Keeps a x3 := State.blur_keeps hx2
  clear_value x3 x2 x1
  exact State.each_keeps hx3 (fun _ _ _ => State.drew_keeps (State.updTile_keeps ‹_›))

theorem State.finishRun_keeps {a s : State} {c : Nat} {cmd : CmdRef} (h : Keeps a s) : Keeps a (State.finishRun s c cmd) := by
  unfold State.finishRun
  split
  · exact State.endChain_keeps ‹_›
  · exact State.complete_keeps ‹_›

theorem State.mapRegion_keeps {a s : State} {c : Nat} {i : CtxId} {out : Bool} {fuel va n : Nat} (h : Keeps a s) :
    Keeps a (s.mapRegion c i out fuel va n).1 := by
  induction fuel generalizing s va n with
  | zero => exact h
  | succ fuel ih =>
    unfold State.mapRegion
    split
    · exact h
    · extract_lets +onlyGivenNames k
      split <;> rename_i e <;> have h1 := keeps_of_fst e (State.translate_keeps h)
      · split
        · split
          · split
            · rename_i e2
              exact keeps_of_fst e2 (ih h1)
            · exact ih h1
          · exact h1
        · exact h1
      · exact h1
      · exact h1

theorem State.mapRegions_keeps {a s : State} {c b : Nat} {i : CtxId} {l : List (BitVec 128)} (h : Keeps a s) :
    Keeps a (s.mapRegions c b i l).1 := by
  induction l generalizing s with
  | nil => exact h
  | cons r rest ih =>
    unfold State.mapRegions
    extract_lets +onlyGivenNames one
    have h1 : Keeps a one.1 := by
      unfold one
      split
      · split
        · exact h
        · dsimp only
          split
          · split <;> exact h
          · exact h
      · exact State.mapRegion_keeps h
    clear_value one
    split
    · exact h1
    · split
      · rename_i e
        exact keeps_of_fst e (ih h1)
      · exact ih h1

theorem State.readVa_keeps {a s : State} {i : CtxId} {fuel va n : Nat} (h : Keeps a s) : Keeps a (s.readVa i fuel va n).1 := by
  induction fuel generalizing s va n with
  | zero => exact h
  | succ fuel ih =>
    unfold State.readVa
    split
    · exact h
    · extract_lets +onlyGivenNames k
      split <;> rename_i e <;> have h1 := keeps_of_fst e (State.translate_keeps h)
      · split
        · exact h1
        · split
          · rename_i e2
            exact keeps_of_fst e2 (ih h1)
          · exact ih h1
      · exact h1
      · exact h1

theorem State.rejectLoad_keeps {a s : State} {c b : Nat} {r : CmdRef} {status : Nat} (h : Keeps a s) : Keeps a
    (State.rejectLoad s c b r status) := by
  unfold State.rejectLoad
  extract_lets +onlyGivenNames -underBinder x1
  have hx1 : Keeps a x1 := State.updBat_keeps ‹_›
  clear_value x1
  split
  · exact State.endChain_keeps ‹_›
  · exact State.complete_keeps ‹_›

theorem State.rewind_keeps {a s : State} {c : ℕ} {b : ℕ} {img : SecImage} {replay : Bool} {status : ℕ} (h : Keeps a s) : Keeps a
    (State.rewind s c b img replay status) := by
  unfold State.rewind
  extract_lets +onlyGivenNames -underBinder x1
  clear_value x1
  refine State.each_keeps ‹_› ?_
  intro z2 z3 hz4
  extract_lets +onlyGivenNames -underBinder x5
  clear_value x5
  extract_lets +onlyGivenNames -underBinder x6
  clear_value x6
  refine keeps_ite ‹_› ?_
  extract_lets +onlyGivenNames -underBinder x7
  have hx7 : Keeps a x7 := State.updDescX_keeps ‹_›
  clear_value x7
  extract_lets +onlyGivenNames -underBinder x8
  clear_value x8
  refine keeps_ite (State.setDesc_keeps ‹_›) ?_
  extract_lets +onlyGivenNames -underBinder x9
  have hx9 : Keeps a x9 := State.setDesc_keeps ‹_›
  clear_value x9
  exact State.completeOpt_keeps ‹_›

theorem State.clearFor_keeps {a s : State} {ta : Nat} {i : CtxId} (h : Keeps a s) : Keeps a (State.clearFor s ta i) := by
  unfold State.clearFor
  extract_lets +onlyGivenNames -underBinder x1
  clear_value x1
  exact keeps_ite ‹_› (State.setTile_keeps (State.closeForeign_keeps ‹_›))

theorem State.loadFails_keeps {a s : State} {c : ℕ} {b : ℕ} {r : CmdRef} {i : CtxId} {x : ReadErr} (h : Keeps a s) : Keeps a
    (State.loadFails s c b r i x) := by
  unfold State.loadFails
  exact keeps_ite (State.fatalXlat_keeps ‹_›) (State.rejectLoad_keeps ‹_›)

theorem State.takeLoad_keeps {a s : State} {c b va : Nat} {r : CmdRef} (h : Keeps a s) : Keeps a (State.takeLoad s c b va r) := by
  unfold State.takeLoad
  extract_lets +onlyGivenNames -underBinder x1
  clear_value x1
  extract_lets +onlyGivenNames -underBinder x2
  have hx2 : Keeps a x2 := State.updBat_keeps ‹_›
  clear_value x2
  split
  · exact State.loadFails_keeps (keeps_of_fst (by assumption) (State.readVa_keeps ‹_›))
  · extract_lets +onlyGivenNames -underBinder x3
    clear_value x3
    extract_lets +onlyGivenNames -underBinder x4
    clear_value x4
    split
    · exact State.loadFails_keeps (keeps_of_fst (by assumption) (State.readVa_keeps (keeps_of_fst (by assumption) (State.readVa_keeps
        ‹_›))))
    · extract_lets +onlyGivenNames -underBinder x5
      clear_value x5
      extract_lets +onlyGivenNames -underBinder x6
      clear_value x6
      extract_lets +onlyGivenNames -underBinder x7
      clear_value x7
      exact keeps_ite (State.rejectLoad_keeps (keeps_of_fst (by assumption) (State.readVa_keeps (keeps_of_fst (by assumption)
          (State.readVa_keeps ‹_›))))) (keeps_ite (State.rejectLoad_keeps (keeps_of_fst (by assumption) (State.readVa_keeps (keeps_of_fst
          (by assumption) (State.readVa_keeps ‹_›))))) (keeps_ite (State.rejectLoad_keeps (keeps_of_fst (by assumption)
          (State.readVa_keeps (keeps_of_fst (by assumption) (State.readVa_keeps ‹_›))))) (State.updBat_keeps (keeps_of_fst (by
          assumption) (State.readVa_keeps (keeps_of_fst (by assumption) (State.readVa_keeps ‹_›)))))))

theorem State.finishSection_keeps {a s : State} {c status : Nat} {cmd : Option CmdRef} (h : Keeps a s) : Keeps a
    (State.finishSection
    s c status cmd) := by
  unfold State.finishSection
  split
  · exact State.completeOpt_keeps ‹_›
  · refine keeps_ite (State.endChain_keeps ‹_›) (keeps_ite (State.endChain_keeps ‹_›) (keeps_ite (State.leaveCmd_keeps (State.updCl_keeps
      ‹_› (fun _ hx => hx))) ?_))
    extract_lets +onlyGivenNames -underBinder x1
    clear_value x1
    extract_lets +onlyGivenNames -underBinder x2
    have hx2 : Keeps a x2 := State.setChain_keeps ‹_›
    clear_value x2
    extract_lets +onlyGivenNames -underBinder x3
    clear_value x3
    exact keeps_ite (State.takeLoad_keeps ‹_›) (State.updBat_keeps ‹_›)

theorem State.leaveBattery_keeps {a s : State} {c : ℕ} {b : ℕ} (h : Keeps a s) : Keeps a (State.leaveBattery s c b) := by
  unfold State.leaveBattery
  exact State.updBat_keeps ‹_›

theorem State.failArm_keeps {a s : State} {c b status : Nat} (h : Keeps a s) : Keeps a (State.failArm s c b status) := by
  unfold State.failArm
  extract_lets +onlyGivenNames -underBinder x1
  clear_value x1
  extract_lets +onlyGivenNames -underBinder x2
  have hx2 : Keeps a x2 := State.quietTiles_keeps ‹_›
  clear_value x2
  split
  · exact State.finishSection_keeps (State.endBattery_keeps ‹_›)
  · refine keeps_ite ?_ ?_
    · extract_lets +onlyGivenNames -underBinder x3
      have hx3 : Keeps a x3 := State.updBatX_keeps (State.leaveBattery_keeps ‹_›)
      clear_value x3
      exact State.updBat_keeps ‹_›
    · extract_lets +onlyGivenNames -underBinder x4
      have hx4 : Keeps a x4 := State.rewind_keeps ‹_›
      clear_value x4
      exact State.finishSection_keeps (State.endBattery_keeps ‹_›)

theorem State.armChecks_keeps {a s : State} {c b : Nat} (h : Keeps a s) : Keeps a (State.armChecks s c b) := by
  unfold State.armChecks
  extract_lets +onlyGivenNames -underBinder x1
  clear_value x1
  split
  · refine keeps_ite ‹_› (keeps_ite (State.failArm_keeps ‹_›) (keeps_ite (State.updBat_keeps ‹_›) ?_))
    extract_lets +onlyGivenNames -underBinder x2
    have hx2 : Keeps a x2 := State.updBat_keeps ‹_›
    clear_value x2
    refine keeps_ite (State.failArm_keeps ‹_›) (keeps_ite (State.failArm_keeps ‹_›) (keeps_ite (State.updBat_keeps ‹_›) ?_))
    split
    · extract_lets +onlyGivenNames -underBinder x3
      have hx3 : Keeps a x3 := State.failArm_keeps (keeps_of_fst (by assumption) (State.mapRegions_keeps ‹_›))
      clear_value x3
      exact keeps_ite (State.fatalXlat_keeps ‹_›) ‹_›
    · exact keeps_ite (State.failArm_keeps (keeps_of_fst (by assumption) (State.mapRegions_keeps ‹_›))) (keeps_ite (State.failArm_keeps
        (keeps_of_fst (by assumption) (State.mapRegions_keeps ‹_›))) (keeps_ite (State.failArm_keeps (keeps_of_fst (by assumption)
        (State.mapRegions_keeps ‹_›))) (State.updBat_keeps (keeps_of_fst (by assumption) (State.mapRegions_keeps ‹_›)))))
  · assumption

theorem State.enterArm_keeps {a s : State} {c b : Nat} {i : CtxId} {img : SecImage} (h : Keeps a s) : Keeps a
    (State.enterArm s c b i
    img) := by
  unfold State.enterArm
  extract_lets +onlyGivenNames -underBinder x1
  have hx1 : Keeps a x1 := State.each_keeps ‹_› (fun _ _ _ => State.clearFor_keeps (State.clearTests_keeps ‹_›))
  clear_value x1
  extract_lets +onlyGivenNames -underBinder x5
  have hx5 : Keeps a x5 := State.masksOn_keeps ‹_›
  clear_value x5
  extract_lets +onlyGivenNames -underBinder x6
  clear_value x6
  extract_lets +onlyGivenNames -underBinder x7
  have hx7 : Keeps a x7 := State.updCl_keeps ‹_› (fun _ hx => hx)
  clear_value x7
  extract_lets +onlyGivenNames -underBinder x8
  have hx8 : Keeps a x8 := State.updBat_keeps ‹_›
  clear_value x8
  exact State.armChecks_keeps ‹_›

theorem State.takeRun_keeps {a s : State} {c b : Nat} {r : CmdRef} (h : Keeps a s) : Keeps a (State.takeRun s c b r) := by
  unfold State.takeRun
  extract_lets +onlyGivenNames -underBinder x1 x2 x3 x4 x5
  have hx5 : ∀ (y6 : Sys2Proof.Machine.State) (y7 : Sys2Proof.Machine.SecImage), Keeps a y6 → Keeps a (x5 y6 y7) := by
    intro y6 y7 hy6
    unfold x5
    refine State.enterArm_keeps ?_
    refine State.updBat_keeps ?_
    refine State.updBatX_keeps ?_
    assumption
  clear_value x5 x4 x3 x2 x1
  extract_lets +onlyGivenNames -underBinder x8
  clear_value x8
  refine keeps_ite ?_ ?_
  · split
    · exact hx5 _ _ (State.updBat_keeps ‹_›)
    · assumption
  · split
    · exact keeps_ite (hx5 _ _ ‹_›) (State.finishRun_keeps ‹_›)
    · exact State.finishRun_keeps ‹_›

theorem State.abortRecord_keeps {a s : State} {c : ℕ} {b : ℕ} {f : SecFault} {further : ℕ} (h : Keeps a s) : Keeps a (State.abortRecord s
    c b f further) := by
  unfold State.abortRecord
  extract_lets +onlyGivenNames -underBinder x1
  clear_value x1
  split
  · exact State.raise_keeps ‹_›
  · assumption

theorem State.devPages_keeps {a s : State} {i : CtxId} {write : Bool} {fuel va n : Nat} (h : Keeps a s) :
    Keeps a (s.devPages i write fuel va n).1 := by
  induction fuel generalizing s va n with
  | zero => exact h
  | succ fuel ih =>
    unfold State.devPages
    split
    · exact h
    · extract_lets +onlyGivenNames k
      split <;> rename_i e <;> have h1 := keeps_of_fst e (State.translate_keeps h)
      · split
        · rename_i e2
          exact keeps_of_fst e2 (ih h1)
        · exact ih h1
      · exact h1
      · exact h1

theorem State.keyFault_keeps {a s : State} {kind index : Nat} {key : BitVec 12} {ctx : Option CtxId} {agent ta dest : Nat}
    (h : Keeps
    a s) : Keeps a (State.keyFault s kind index key ctx agent ta dest) := by
  unfold State.keyFault
  refine keeps_ite ‹_› ?_
  extract_lets +onlyGivenNames -underBinder x1
  clear_value x1
  extract_lets +onlyGivenNames -underBinder x2
  clear_value x2
  extract_lets +onlyGivenNames -underBinder x3
  clear_value x3
  split
  · exact keeps_ite (State.fatal_keeps ‹_›) (State.raise_keeps ‹_›)
  · exact State.raise_keeps ‹_›

theorem State.reachNode_keeps {a s : State} {src : ℕ} {i : CtxId} {agent : ℕ} {ta : ℕ} {n : ℕ} (h : Keeps a s) : Keeps a (State.reachNode
    s src i agent ta n).1 := by
  unfold State.reachNode
  extract_lets +onlyGivenNames -underBinder x1
  clear_value x1
  split
  · exact keeps_pair (State.raise_keeps ‹_›)
  · exact keeps_pair (State.keyFault_keeps ‹_›)
  · assumption

theorem State.reachMem_keeps {a s : State} {src : ℕ} {i : CtxId} {agent : ℕ} {ta : ℕ} {dpa : ℕ} (h : Keeps a s) : Keeps a (State.reachMem
    s src i agent ta dpa).1 := by
  unfold State.reachMem
  split
  · assumption
  · split
    · split
      · exact keeps_pair (keeps_of_fst (by assumption) (State.reachNode_keeps ‹_›))
      · exact keeps_ite_fst (keeps_pair (State.keyFault_keeps (keeps_of_fst (by assumption) (State.reachNode_keeps ‹_›)))) (keeps_pair
          (keeps_of_fst (by assumption) (State.reachNode_keeps ‹_›)))
    · exact State.reachNode_keeps ‹_›

theorem State.reachAll_keeps {a s : State} {src : ℕ} {i : CtxId} {agent : ℕ} {ta : ℕ} {a1 : List ℕ} (h : Keeps a s) : Keeps a
    (State.reachAll s src i agent ta a1).1 := by
  unfold State.reachAll
  split
  · assumption
  · split
    · exact State.reachAll_keeps (keeps_of_fst (by assumption) (State.reachMem_keeps ‹_›))
    · exact State.reachMem_keeps ‹_›

theorem State.bar2Look_keeps {a s : State} {p : ℕ} {x : Bar2Op} (h : Keeps a s) : Keeps a (State.bar2Look s p x).1 := by
  unfold State.bar2Look
  extract_lets +onlyGivenNames -underBinder x1
  clear_value x1
  split
  · assumption
  · split
    · exact keeps_pair (keeps_of_fst (by assumption) (State.devPages_keeps ‹_›))
    · refine keeps_ite_fst (keeps_pair (keeps_of_fst (by assumption) (State.devPages_keeps ‹_›))) ?_
      split
      · exact keeps_pair (keeps_of_fst (by assumption) (State.reachAll_keeps (keeps_of_fst (by assumption) (State.devPages_keeps ‹_›))))
      · exact keeps_pair (keeps_of_fst (by assumption) (State.reachAll_keeps (keeps_of_fst (by assumption) (State.devPages_keeps ‹_›))))

theorem State.storeLines_keeps {a s : State} {tell : Bool} {a1 : ℕ} {a1' : ℕ} {a1'' : List Byte} (h : Keeps a s) : Keeps a
    (State.storeLines s tell a1 a1' a1'') := by
  unfold State.storeLines
  split
  · assumption
  · refine keeps_ite ‹_› ?_
    extract_lets +onlyGivenNames -underBinder x1
    clear_value x1
    exact State.storeLines_keeps (keeps_ite (keeps_ite (State.lostNotice_keeps ‹_›) ‹_›) (State.store_keeps ‹_›))

theorem State.storeRange_keeps {a s : State} {tell : Bool} {dpa : ℕ} {bs : List Byte} (h : Keeps a s) : Keeps a (State.storeRange s tell
    dpa bs) := by
  unfold State.storeRange
  exact keeps_ite (State.storeLines_keeps ‹_›) (State.store_keeps ‹_›)

theorem State.bar2Store_keeps {a s : State} {a1 : List (ℕ × ℕ)} {a1' : List Byte} (h : Keeps a s) : Keeps a (State.bar2Store s a1 a1') := by
  unfold State.bar2Store
  split
  · assumption
  · exact State.bar2Store_keeps (State.storeRange_keeps ‹_›)

theorem State.bar2Perform_keeps {a s : State} {p : ℕ} {x : Bar2Op} {r : Bar2Res} (h : Keeps a s) : Keeps a (State.bar2Perform s p x r) := by
  unfold State.bar2Perform
  split
  · assumption
  · exact keeps_ite ‹_› (State.emit_keeps ‹_›)
  · exact keeps_ite (State.bar2Store_keeps ‹_›) (keeps_ite (State.emit_keeps ‹_›) (State.emit_keeps ‹_›))

theorem State.bar2Drain_keeps {a s : State} {p : ℕ} {a1 : ℕ} (h : Keeps a s) : Keeps a (State.bar2Drain s p a1) := by
  unfold State.bar2Drain
  split
  · assumption
  · split
    · assumption
    · split
      · exact keeps_of_fst (by assumption) (State.bar2Look_keeps ‹_›)
      · exact State.bar2Drain_keeps (State.bar2Perform_keeps (State.updPort_keeps (keeps_of_fst (by assumption) (State.bar2Look_keeps
          ‹_›))))

theorem State.bar2Go_keeps {a s : State} (h : Keeps a s) : Keeps a (State.bar2Go s) := by
  unfold State.bar2Go
  exact State.each_keeps ‹_› (fun _ _ _ => State.bar2Drain_keeps ‹_›)

theorem State.abortCore_keeps {a s : State} {c : ℕ} {b : ℕ} {f : SecFault} {further : ℕ} (h : Keeps a s) : Keeps a (State.abortCore s c b
    f further) := by
  unfold State.abortCore
  extract_lets +onlyGivenNames -underBinder x1
  clear_value x1
  split
  · extract_lets +onlyGivenNames -underBinder x2
    clear_value x2
    extract_lets +onlyGivenNames -underBinder x3
    have hx3 : Keeps a x3 := State.abortRecord_keeps ‹_›
    clear_value x3
    extract_lets +onlyGivenNames -underBinder x4
    have hx4 : Keeps a x4 := State.quietTiles_keeps (State.stopTiles_keeps ‹_›)
    clear_value x4
    extract_lets +onlyGivenNames -underBinder x5
    clear_value x5
    refine keeps_ite ?_ ?_
    · extract_lets +onlyGivenNames -underBinder x6
      have hx6 : Keeps a x6 := State.rewind_keeps ‹_›
      clear_value x6
      extract_lets +onlyGivenNames -underBinder x7
      have hx7 : Keeps a x7 := State.updBat_keeps ‹_›
      clear_value x7
      exact State.enterArm_keeps (State.bar2Go_keeps ‹_›)
    · refine keeps_ite ?_ ?_
      · extract_lets +onlyGivenNames -underBinder x8
        have hx8 : Keeps a x8 := State.rewind_keeps ‹_›
        clear_value x8
        extract_lets +onlyGivenNames -underBinder x9
        have hx9 : Keeps a x9 := State.updBatX_keeps (State.leaveBattery_keeps ‹_›)
        clear_value x9
        exact State.updBat_keeps ‹_›
      · refine keeps_ite ?_ ?_
        · extract_lets +onlyGivenNames -underBinder x10
          have hx10 : Keeps a x10 := State.rewind_keeps ‹_›
          clear_value x10
          exact State.leaveCmd_keeps (State.leaveBattery_keeps ‹_›)
        · extract_lets +onlyGivenNames -underBinder x11
          have hx11 : Keeps a x11 := State.rewind_keeps ‹_›
          clear_value x11
          exact State.finishSection_keeps (State.endBattery_keeps ‹_›)
  · assumption

theorem State.pump_keeps {a s : State} {c b fuel : Nat} (h : Keeps a s) : Keeps a (s.pump c b fuel) := by
  induction fuel generalizing s with
  | zero => exact h
  | succ fuel ih =>
    unfold State.pump
    split
    · exact State.updBat_keeps h
    · exact ih (keeps_ite (State.takeLoad_keeps (State.updBat_keeps h)) (State.takeRun_keeps (State.updBat_keeps h)))

theorem State.enterHeld_keeps {a s : State} {c : ℕ} {b : ℕ} (h : Keeps a s) : Keeps a (State.enterHeld s c b) := by
  unfold State.enterHeld
  extract_lets +onlyGivenNames -underBinder x1
  clear_value x1
  split
  · refine keeps_ite ‹_› ?_
    extract_lets +onlyGivenNames -underBinder x2
    have hx2 : Keeps a x2 := State.updBatX_keeps ‹_›
    clear_value x2
    exact keeps_ite (State.enterArm_keeps (State.updBat_keeps ‹_›)) (State.leaveCmd_keeps (State.updBat_keeps ‹_›))
  · assumption

theorem State.pumpBat_keeps {a s : State} {c b : Nat} (h : Keeps a s) : Keeps a (State.pumpBat s c b) := by
  unfold State.pumpBat
  exact State.pump_keeps (State.enterHeld_keeps (State.bar2Go_keeps ‹_›))

theorem State.reach_keeps {a s : State} {c b : Nat} {r : CmdRef} (h : Keeps a s) : Keeps a (State.reach s c b r) := by
  unfold State.reach
  exact State.pumpBat_keeps (State.updBat_keeps ‹_›)

/-! Ledger. -/

theorem State.markPartial_keeps {a s : State} {c : Nat} {b : Nat} {pos : Nat} (h : Keeps a s) : Keeps a (State.markPartial s c b pos) := by
  unfold State.markPartial
  exact Keeps.of_eq (s := s) ‹_› rfl rfl rfl rfl rfl

theorem State.setLedger_keeps {a s : State} {kind idx : Nat} {e : LedgerEntry} (h : Keeps a s) : Keeps a (State.setLedger s kind idx e)
    := by
  unfold State.setLedger
  extract_lets +onlyGivenNames -underBinder x1
  clear_value x1
  exact Keeps.of_eq (s := s) ‹_› rfl rfl rfl rfl rfl

theorem State.dropGroup_keeps {a s : State} {group : ℕ} (h : Keeps a s) : Keeps a (State.dropGroup s group) := by
  unfold State.dropGroup
  exact State.dropWhere_keeps ‹_›

theorem State.sendNotice_keeps {a s : State} {node : ℕ} {payload : ℕ} {inc : ℕ} {ctx : Option CtxId} {status : ℕ} (h : Keeps a s) : Keeps
    a (State.sendNotice s node payload inc ctx status) := by
  unfold State.sendNotice
  exact keeps_ite (keeps_ite (State.notifyGone_keeps ‹_›) ‹_›) (State.inject_keeps ‹_›)

theorem State.partialEnds_keeps {a s : State} {c : ℕ} (h : Keeps a s) : Keeps a (State.partialEnds s c) := by
  unfold State.partialEnds
  refine State.each_keeps ‹_› ?_
  intro z1 z2 hz3
  split
  · exact keeps_ite (State.pumpBat_keeps (State.failArm_keeps ‹_›)) ‹_›
  · assumption

theorem State.requestEnds_keeps {a s : State} {p : Packet} {status : ℕ} (h : Keeps a s) : Keeps a (State.requestEnds s p status) := by
  unfold State.requestEnds
  refine keeps_ite ?_ (State.emit_keeps ‹_›)
  extract_lets +onlyGivenNames -underBinder x1
  have hx1 : Keeps a x1 := State.stopDesc_keeps ‹_›
  clear_value x1
  exact State.partialEnds_keeps (Keeps.of_eq (s := x1) ‹_› rfl rfl rfl rfl rfl)

theorem State.packetEnds_keeps {a s : State} {c : ℕ} {p : Packet} {notice : Bool} {status : ℕ} (h : Keeps a s) : Keeps a
    (State.packetEnds s c p notice status) := by
  unfold State.packetEnds
  extract_lets +onlyGivenNames -underBinder x1
  have hx1 : Keeps a x1 := State.dropGroup_keeps ‹_›
  clear_value x1
  exact keeps_ite (keeps_ite (State.sendNotice_keeps ‹_›) (State.sendBack_keeps ‹_›)) (State.requestEnds_keeps ‹_›)

theorem State.cutPackets_keeps {a s : State} {c : ℕ} {port : ℕ} (h : Keeps a s) : Keeps a (State.cutPackets s c port) := by
  unfold State.cutPackets
  exact State.each_keeps ‹_› (fun _ _ _ => keeps_ite (State.packetEnds_keeps ‹_›) ‹_›)

theorem State.linkDown_keeps {a s : State} {c : Nat} {south : Bool} (h : Keeps a s) : Keeps a (State.linkDown s c south) := by
  unfold State.linkDown
  extract_lets +onlyGivenNames -underBinder x1
  clear_value x1
  extract_lets +onlyGivenNames -underBinder x2
  clear_value x2
  extract_lets +onlyGivenNames -underBinder x3
  clear_value x3
  extract_lets +onlyGivenNames -underBinder x4
  have hx4 : Keeps a x4 := State.abandonSlices_keeps ‹_›
  clear_value x4
  extract_lets +onlyGivenNames -underBinder x5
  have hx5 : Keeps a x5 := State.updRouter_keeps (State.updRouter_keeps ‹_›)
  clear_value x5
  exact State.cutPackets_keeps (State.cutPackets_keeps ‹_›)

theorem State.loseSlice_keeps {a s : State} {c sl : Nat} (h : Keeps a s) : Keeps a (State.loseSlice s c sl) := by
  unfold State.loseSlice
  exact State.declareLost_keeps ‹_›

theorem State.failSlice_keeps {a s : State} {c phys : Nat} (h : Keeps a s) : Keeps a (State.failSlice s c phys) := by
  unfold State.failSlice
  extract_lets +onlyGivenNames -underBinder x1
  clear_value x1
  refine keeps_ite ‹_› ?_
  extract_lets +onlyGivenNames -underBinder x2
  have hx2 : ∀ (y3 : Sys2Proof.Machine.State), Keeps a y3 → Keeps a (x2 y3) := by
    intro y3 hy3
    unfold x2
    refine State.updSlice_keeps ?_
    assumption
  clear_value x2
  extract_lets +onlyGivenNames -underBinder x4
  have hx4 : ∀ (y5 : Sys2Proof.Machine.State) (y6 : ℕ) (y7 : ℕ), Keeps a y5 → Keeps a (x4 y5 y6 y7) := by
    intro y5 y6 y7 hy5
    unfold x4
    refine State.updSlice_keeps ?_
    assumption
  clear_value x4
  extract_lets +onlyGivenNames -underBinder x8
  have hx8 : ∀ (y9 : Sys2Proof.Machine.State), Keeps a y9 → Keeps a (x8 y9) := by
    intro y9 hy9
    unfold x8
    refine State.updCl_keeps ?_ ?_
    · assumption
    · exact fun _ hx => hx
  clear_value x8
  refine keeps_ite (hx2 _ ‹_›) ?_
  refine keeps_ite ?_ ?_
  · split
    · exact hx8 _ (hx4 _ _ _ (hx2 _ ‹_›))
    · exact hx8 _ (hx2 _ ‹_›)
  · refine keeps_ite ?_ ?_
    · extract_lets +onlyGivenNames -underBinder x10 x11 x12
      clear_value x12 x11 x10
      refine keeps_ite (hx2 _ (State.loseSlice_keeps ‹_›)) ?_
      split
      · exact State.updCl_keeps (hx4 _ _ _ (hx2 _ ‹_›)) (fun _ hx => hx)
      · extract_lets +onlyGivenNames -underBinder x13
        have hx13 : Keeps a x13 := by
          unfold x13
          split
          · exact State.updSlice_keeps ‹_›
          · assumption
        clear_value x13
        exact hx2 _ ‹_›
    · extract_lets +onlyGivenNames -underBinder x14
      have hx14 : Keeps a x14 := State.loseSlice_keeps ‹_›
      clear_value x14
      split
      · exact hx4 _ _ _ (hx2 _ ‹_›)
      · exact hx2 _ ‹_›

theorem State.flagTile_keeps {a s : State} {ta : Nat} {l : List Nat} (h : Keeps a s) : Keeps a (State.flagTile s ta l) := by
  unfold State.flagTile
  exact State.updTile_keeps ‹_›

theorem State.fault_keeps {a s : State} {c : ℕ} {b : ℕ} {l : List SecFault} (h : Keeps a s) : Keeps a (State.fault s c b l) := by
  unfold State.fault
  exact State.updBat_keeps (State.each_keeps ‹_› (fun _ _ _ => State.flagTile_keeps ‹_›))

theorem State.muffleTile_keeps {a s : State} {ta : Nat} (h : Keeps a s) : Keeps a (State.muffleTile s ta) := by
  unfold State.muffleTile
  extract_lets +onlyGivenNames -underBinder x1
  clear_value x1
  extract_lets +onlyGivenNames -underBinder x2
  clear_value x2
  refine keeps_ite ‹_› ?_
  split
  · exact State.updBatX_keeps ‹_›
  · extract_lets +onlyGivenNames -underBinder x3
    have hx3 : Keeps a x3 := State.updClY_keeps ‹_›
    clear_value x3
    extract_lets +onlyGivenNames -underBinder x4
    have hx4 : Keeps a x4 := State.muffleEndpoint_keeps (State.abandonSlices_keeps (State.loseChecksOn_keeps ‹_›))
    clear_value x4
    extract_lets +onlyGivenNames -underBinder x5
    have hx5 : Keeps a x5 := State.updTile_keeps ‹_›
    clear_value x5
    extract_lets +onlyGivenNames -underBinder x6
    have hx6 : Keeps a x6 := State.tilesChanged_keeps ‹_›
    clear_value x6
    split
    · assumption
    · extract_lets +onlyGivenNames -underBinder x7
      have hx7 : Keeps a x7 := State.partialEnds_keeps (State.markPartial_keeps ‹_›)
      clear_value x7
      extract_lets +onlyGivenNames -underBinder x8
      clear_value x8
      exact keeps_ite (State.fault_keeps ‹_›) (keeps_ite (State.pumpBat_keeps (State.failArm_keeps ‹_›)) ‹_›)

theorem State.chanReady_keeps {a s : State} {n : Nat} (h : Keeps a s) : Keeps a (State.chanReady s n) := by
  unfold State.chanReady
  refine keeps_ite ?_ (keeps_ite (Keeps.of_eq (s := s) ‹_› rfl rfl rfl rfl rfl) ‹_›)
  extract_lets +onlyGivenNames -underBinder l
  exact keeps_ite (Keeps.of_eq (s := s) ‹_› rfl rfl rfl rfl rfl) ‹_›

theorem State.muffleUnit_keeps {a s : State} {kind idx : Nat} (h : Keeps a s) : Keeps a (State.muffleUnit s kind idx) := by
  unfold State.muffleUnit
  extract_lets +onlyGivenNames -underBinder y2 x1
  have hx1 : Keeps a x1 := Keeps.of_eq (s := s) ‹_› rfl rfl rfl rfl rfl
  refine keeps_ite (State.muffleTile_keeps ‹_›) ?_
  refine keeps_ite (State.failSlice_keeps ‹_›) ?_
  refine keeps_ite ?_ ?_
  · extract_lets +onlyGivenNames -underBinder y4 x3
    have hx3 : Keeps a x3 := Keeps.of_eq (s := x1) ‹_› rfl rfl rfl rfl rfl
    extract_lets +onlyGivenNames -underBinder x5
    exact keeps_ite (State.linkDown_keeps ‹_›) ‹_›
  · refine keeps_ite ?_ (keeps_ite (State.chanReady_keeps (State.updChan_keeps ‹_›)) (keeps_ite (State.updChan_keeps ‹_›) (keeps_ite (State.muffleWave_keeps ‹_›)
      ‹_›)))
    extract_lets +onlyGivenNames -underBinder y7 x6
    have hx6 : Keeps a x6 := Keeps.of_eq (s := x1) ‹_› rfl rfl rfl rfl rfl
    extract_lets +onlyGivenNames -underBinder x8
    exact keeps_ite (State.each_keeps ‹_› (fun _ _ _ => State.linkDown_keeps ‹_›)) ‹_›

theorem State.confirm_keeps {a s : State} {kind idx source cause : Nat} (h : Keeps a s) : Keeps a (State.confirm s kind idx source cause)
    := by
  unfold State.confirm
  extract_lets +onlyGivenNames -underBinder x1 x2 x3 x4 x5 x6
  clear_value x6 x5 x4 x3 x2 x1
  refine keeps_ite ‹_› ?_
  extract_lets +onlyGivenNames -underBinder x7 x8 x9 x10 x11 x12 x13 x14 x15
  have hx15 : Keeps a x15 := State.setLedger_keeps ‹_›
  clear_value x15 x14 x13 x12 x11 x10 x9 x8 x7
  refine keeps_ite ?_ ?_
  · extract_lets +onlyGivenNames -underBinder x16
    have hx16 : Keeps a x16 := State.raise_keeps ‹_›
    clear_value x16
    extract_lets +onlyGivenNames -underBinder y18 x17
    have hx17 : Keeps a x17 := Keeps.of_eq (s := x16) ‹_› rfl rfl rfl rfl rfl
    clear_value x17 y18
    exact keeps_ite ‹_› (State.muffleUnit_keeps ‹_›)
  · refine keeps_ite ?_ ‹_›
    extract_lets +onlyGivenNames -underBinder x19
    have hx19 : Keeps a x19 := State.raise_keeps ‹_›
    clear_value x19
    extract_lets +onlyGivenNames -underBinder y21 y22 x20
    have hx20 : Keeps a x20 := Keeps.of_eq (s := x19) ‹_› rfl rfl rfl rfl rfl
    clear_value x20 y22 y21
    exact State.muffleUnit_keeps ‹_›

theorem State.suspect_keeps {a s : State} {ta cause : Nat} (h : Keeps a s) : Keeps a (State.suspect s ta cause) := by
  unfold State.suspect
  extract_lets +onlyGivenNames -underBinder x1 x2 x3
  clear_value x3 x2 x1
  refine keeps_ite (State.confirm_keeps ‹_›) ?_
  extract_lets +onlyGivenNames -underBinder x4
  clear_value x4
  exact State.setLedger_keeps ‹_›

theorem State.abort_keeps {a s : State} {c : ℕ} {b : ℕ} {f : SecFault} {further : ℕ} (h : Keeps a s) : Keeps a (State.abort s c b f further) := by
  unfold State.abort
  extract_lets +onlyGivenNames -underBinder x1
  have hx1 : Keeps a x1 := State.abortCore_keeps ‹_›
  clear_value x1
  exact State.pumpBat_keeps (keeps_ite (State.suspect_keeps ‹_›) ‹_›)

/-! CtxReset. -/

theorem State.resetAbort_keeps {a s : State} {c : ℕ} {b : ℕ} (h : Keeps a s) : Keeps a (State.resetAbort s c b) := by
  unfold State.resetAbort
  exact keeps_ite (State.stopTiles_keeps (State.abortRecord_keeps ‹_›)) ‹_›

theorem State.endSection_keeps {a s : State} {c b status : Nat} (h : Keeps a s) : Keeps a (State.endSection s c b status) := by
  unfold State.endSection
  exact State.endBattery_keeps (State.quietTiles_keeps (State.resetAbort_keeps ‹_›))

theorem State.resetBat_keeps {a s : State} {i : CtxId} {key : Nat} (h : Keeps a s) : Keeps a (State.resetBat s i key) := by
  unfold State.resetBat
  extract_lets +onlyGivenNames -underBinder x1 x2 x3 x4 x5
  have hx5 : Keeps a x5 := keeps_ite (State.endSection_keeps ‹_›) ‹_›
  clear_value x5 x4 x3 x2 x1
  extract_lets +onlyGivenNames -underBinder x6
  have hx6 : Keeps a x6 := keeps_ite (State.updBat_keeps (State.updBatX_keeps ‹_›)) ‹_›
  clear_value x6
  extract_lets +onlyGivenNames -underBinder x7
  have hx7 : Keeps a x7 := keeps_ite (State.updBat_keeps ‹_›) ‹_›
  clear_value x7
  exact State.updBat_keeps ‹_›

theorem State.completeAll_keeps {a s : State} {p : ℕ} {k : ℕ} {status : ℕ} {pos : CmdRef → ℕ} (h : Keeps a s) : Keeps a
    (State.completeAll s p k status pos) := by
  unfold State.completeAll
  exact State.each_keeps ‹_› (fun _ _ _ => State.complete_keeps ‹_›)

theorem State.dropSwap_keeps {a s : State} {w : Swap} (h : Keeps a s) : Keeps a (State.dropSwap s w) := by
  unfold State.dropSwap
  extract_lets +onlyGivenNames -underBinder y2 y3 x1
  have hx1 : Keeps a x1 := Keeps.of_eq (s := s) ‹_› rfl rfl rfl rfl rfl
  clear_value x1 y3 y2
  exact State.answer_keeps (State.completeOpt_keeps ‹_›)

theorem State.blurSave_keeps {a s : State} {p k : Nat} (h : Keeps a s) : Keeps a (State.blurSave s p k) := by
  unfold State.blurSave
  exact keeps_ite (State.blurVa_keeps h) h

theorem State.takeOver_keeps {a s : State} {sev : Nat} {t : Target} (h : Keeps a s) : Keeps a (State.takeOver s sev t) := by
  unfold State.takeOver
  extract_lets +onlyGivenNames -underBinder x1
  have hx1 : Keeps a x1 := by
    unfold x1
    refine State.each_keeps ‹_› ?_
    intro z2 z3 hz2
    extract_lets +onlyGivenNames -underBinder x4 x5 x6
    clear_value x6 x5 x4
    exact keeps_ite (State.ctxResult_keeps (State.blurSave_keeps ‹_›)) ‹_›
  clear_value x1
  extract_lets +onlyGivenNames -underBinder x7
  have hx7 : Keeps a x7 := keeps_ite (State.each_keeps ‹_› (fun _ _ _ => State.answer_keeps ‹_›)) ‹_›
  clear_value x7
  exact keeps_ite (State.each_keeps ‹_› (fun _ _ _ => keeps_ite (State.dropSwap_keeps ‹_›) ‹_›)) ‹_›

theorem State.dropFills_keeps {a s : State} {i : CtxId} (h : Keeps a s) : Keeps a (State.dropFills s i) := by
  unfold State.dropFills
  exact Keeps.of_eq (s := s) ‹_› rfl rfl rfl rfl rfl

theorem State.performParts_keeps {a s : State} {i : CtxId} {l : List (Bool × Nat × List Byte)} (h : Keeps a s) :
    Keeps a (s.performParts i l) := by
  induction l generalizing s with
  | nil => exact h
  | cons p rest ih => exact ih (keeps_ite (State.emit_keeps h) (State.storeRange_keeps h))

theorem State.finishWrites_keeps {a s : State} {i : CtxId} {key : ℕ} (h : Keeps a s) : Keeps a (State.finishWrites s i key) := by
  unfold State.finishWrites
  exact State.each_keeps ‹_› (fun _ _ _ => State.performParts_keeps ‹_›)

theorem State.freeDesc_keeps {a s : State} {i : CtxId} {key : ℕ} (h : Keeps a s) : Keeps a (State.freeDesc s i key) := by
  unfold State.freeDesc
  extract_lets +onlyGivenNames -underBinder x1
  have hx1 : Keeps a x1 := State.finishWrites_keeps ‹_›
  clear_value x1
  exact Keeps.of_eq (s := x1) ‹_› rfl rfl rfl rfl rfl

theorem State.dropWork_keeps {a s : State} {i : CtxId} (h : Keeps a s) : Keeps a (State.dropWork s i) := by
  unfold State.dropWork
  extract_lets +onlyGivenNames -underBinder x1
  have hx1 : Keeps a x1 := State.dropWaits_keeps ‹_› (fun _ _ hz => hz)
  clear_value x1
  extract_lets +onlyGivenNames -underBinder x5
  have hx5 : Keeps a x5 := State.dropFills_keeps (State.each_keeps ‹_› (fun _ _ _ => State.freeDesc_keeps ‹_›))
  clear_value x5
  extract_lets +onlyGivenNames -underBinder x9
  have hx9 : Keeps a x9 := State.each_keeps ‹_› (fun _ _ _ => State.dropJob_keeps ‹_›)
  clear_value x9
  extract_lets +onlyGivenNames -underBinder x13
  have hx13 : Keeps a x13 := Keeps.tmap (s := x9) ‹_› (fun _ _ => rfl)
  clear_value x13
  extract_lets +onlyGivenNames -underBinder x14
  clear_value x14
  extract_lets +onlyGivenNames -underBinder x15
  have hx15 : Keeps a x15 := Keeps.of_eq (s := x13) ‹_› rfl rfl rfl rfl rfl
  clear_value x15
  exact State.closeContext_keeps ‹_›

theorem State.endWork_keeps {a s : State} {i : CtxId} (h : Keeps a s) : Keeps a (State.endWork s i) := by
  unfold State.endWork
  exact State.dropWork_keeps (State.each_keeps ‹_› (fun _ _ _ => State.resetBat_keeps ‹_›))

theorem State.pumpAll_keeps {a s : State} (h : Keeps a s) : Keeps a (State.pumpAll s) := by
  unfold State.pumpAll
  exact State.each_keeps ‹_› (fun _ _ _ => keeps_ite ‹_› (State.pumpBat_keeps ‹_›))

theorem State.finishReset_keeps {a s : State} {p k : Nat} (h : Keeps a s) : Keeps a (State.finishReset s p k) := by
  unfold State.finishReset
  extract_lets +onlyGivenNames -underBinder x1
  clear_value x1
  extract_lets +onlyGivenNames -underBinder x2
  have hx2 : Keeps a x2 := State.completeAll_keeps (State.endWork_keeps ‹_›)
  clear_value x2
  extract_lets +onlyGivenNames -underBinder x3
  have hx3 : Keeps a x3 := State.updCtx_keeps ‹_›
  clear_value x3
  exact State.answer_keeps (State.pumpAll_keeps ‹_›)

theorem State.resetIfDue_keeps {a s : State} {p k : Nat} (h : Keeps a s) : Keeps a (State.resetIfDue s p k) := by
  unfold State.resetIfDue
  exact keeps_ite (State.finishReset_keeps ‹_›) ‹_›

theorem State.resetContext_keeps {a s : State} {p k : Nat} (h : Keeps a s) : Keeps a (State.resetContext s p k).1 := by
  unfold State.resetContext
  refine keeps_ite_fst (keeps_pair ‹_›) ?_
  split
  · exact keeps_pair ‹_›
  · exact keeps_pair ‹_›
  · extract_lets +onlyGivenNames -underBinder x1
    have hx1 : Keeps a x1 := State.takeOver_keeps ‹_›
    clear_value x1
    extract_lets +onlyGivenNames -underBinder x2
    have hx2 : Keeps a x2 := State.updCtx_keeps ‹_›
    clear_value x2
    exact keeps_pair (State.resetIfDue_keeps ‹_›)

/-! Tile. -/

theorem State.issueOnly_keeps {a s : State} {ta th cycle : Nat} (h : Keeps a s) : Keeps a (State.issueOnly s ta th cycle) := by
  unfold State.issueOnly
  exact State.drew_keeps (State.updTile_keeps ‹_›)

theorem State.issueReg_keeps {a s : State} {ta th cycle rd : Nat} {v : Word} (h : Keeps a s) : Keeps a
    (State.issueReg s ta th cycle rd v) := by
  unfold State.issueReg
  exact State.drew_keeps (State.updTile_keeps ‹_›)

theorem State.narrowStore3_keeps {a s : State} {ta cy n a' : Nat} {v : Word} (h : Keeps a s) : Keeps a
    (State.narrowStore3 s ta cy n a' v) := by
  unfold State.narrowStore3
  exact keeps_ite (State.issueOnly_keeps (State.updTile_keeps ‹_›)) (State.issueOnly_keeps ‹_›)

theorem State.pushPort_keeps {a s : State} {ta b va dpa n : Nat} {kind : PortKind} {i : CtxId} (h : Keeps a s) : Keeps a
    (State.pushPort s ta b va dpa n kind i) := by
  unfold State.pushPort
  exact State.updTile_keeps ‹_›

theorem State.updThread_keeps {a s : State} {ta th : Nat} {f : Thread → Thread} (h : Keeps a s) : Keeps a (State.updThread s ta th f) := by
  unfold State.updThread
  exact State.updTile_keeps ‹_›

theorem stepBranch_keeps {a : State} {t : TileId} {th : Fin 4} {op : BrOp} {rs1 rs2 : Fin 32} {target : Nat} {s : State} (h : Keeps a s)
    : Keeps a (stepBranch t th op rs1 rs2 target s) := by
  unfold stepBranch
  extract_lets +onlyGivenNames -underBinder x1
  clear_value x1
  split
  · assumption
  · extract_lets +onlyGivenNames -underBinder x2 x3 x4
    clear_value x4 x3 x2
    exact State.drew_keeps (State.updTile_keeps ‹_›)

theorem stepDivide_keeps {a : State} {t : TileId} {th : Fin 4} {op : DivOp} {rd rs1 rs2 : Fin 32} {s : State} (h : Keeps a s) : Keeps a
    (stepDivide t th op rd rs1 rs2 s) := by
  unfold stepDivide
  extract_lets +onlyGivenNames -underBinder x1
  clear_value x1
  split
  · assumption
  · extract_lets +onlyGivenNames -underBinder x2
    clear_value x2
    exact State.drew_keeps (State.updTile_keeps ‹_›)

theorem stepFenceSc_keeps {a : State} {t : TileId} {th : Fin 4} {s : State} (h : Keeps a s) : Keeps a (stepFenceSc t th s) := by
  unfold stepFenceSc
  extract_lets +onlyGivenNames -underBinder x1
  clear_value x1
  split
  · assumption
  · exact State.issueOnly_keeps (State.pushPort_keeps ‹_›)

theorem stepIntegerAlu_keeps {a : State} {t : TileId} {th : Fin 4} {op : AluOp} {rd rs : Fin 32} {src : Src} {s : State} (h : Keeps a s)
    : Keeps a (stepIntegerAlu t th op rd rs src s) := by
  unfold stepIntegerAlu
  extract_lets +onlyGivenNames -underBinder x1
  clear_value x1
  split
  · assumption
  · extract_lets +onlyGivenNames -underBinder x2
    clear_value x2
    exact State.drew_keeps (State.issueReg_keeps ‹_›)

theorem stepLandingRegisterFill_keeps {a : State} {t : TileId} {th : Fin 4} {landing : Fin 8} {s : State} (h : Keeps a s) : Keeps a
    (stepLandingRegisterFill t th landing s) := by
  unfold stepLandingRegisterFill
  extract_lets +onlyGivenNames -underBinder x1 x2 x3
  clear_value x3 x2 x1
  split
  · assumption
  · exact State.updTile_keeps ‹_›

theorem stepMultiply_keeps {a : State} {t : TileId} {th : Fin 4} {op : MulOp} {rd rs1 rs2 : Fin 32} {s : State} (h : Keeps a s) : Keeps a
    (stepMultiply t th op rd rs1 rs2 s) := by
  unfold stepMultiply
  extract_lets +onlyGivenNames -underBinder x1
  clear_value x1
  split
  · assumption
  · exact State.issueReg_keeps ‹_›

theorem stepWaitcComplete_keeps {a : State} {t : TileId} {th : Fin 4} {s : State} (h : Keeps a s) : Keeps a (stepWaitcComplete t th s) := by
  unfold stepWaitcComplete
  extract_lets +onlyGivenNames -underBinder x1
  clear_value x1
  split
  · assumption
  · extract_lets +onlyGivenNames -underBinder x2
    clear_value x2
    exact keeps_ite (State.updThread_keeps ‹_›) ‹_›

theorem State.narrowLoad3_keeps {a s : State} {ta cy rd n : Nat} {signed : Bool} {a' : Nat} {ecc : Ecc} (h : Keeps a s) : Keeps a
    (State.narrowLoad3 s ta cy rd n signed a' ecc) := by
  unfold State.narrowLoad3
  exact keeps_ite (State.issueOnly_keeps ‹_›) (keeps_ite (State.confirm_keeps (State.updTile_keeps (State.issueOnly_keeps ‹_›)))
      (State.issueReg_keeps ‹_›))

theorem State.faultOn_keeps {a s : State} {ta : ℕ} {b : ℕ} {l : List ℕ} {detail : ℕ} {va : ℕ} (h : Keeps a s) : Keeps a (State.faultOn s
    ta b l detail va) := by
  unfold State.faultOn
  exact State.fault_keeps ‹_›

theorem stepClusterMemoryLoad_keeps {a : State} {t : TileId} {th : Fin 4} {landing : Fin 8} {size : Size} {va : Nat} {s : State}
    (h :
    Keeps a s) : Keeps a (stepClusterMemoryLoad t th landing size va s) := by
  unfold stepClusterMemoryLoad
  extract_lets +onlyGivenNames -underBinder x1
  clear_value x1
  split
  · assumption
  · extract_lets +onlyGivenNames -underBinder x2
    clear_value x2
    split
    · exact State.faultOn_keeps (State.issueOnly_keeps ‹_›)
    · extract_lets +onlyGivenNames -underBinder x3
      clear_value x3
      refine keeps_ite ?_ (State.faultOn_keeps (State.issueOnly_keeps ‹_›))
      extract_lets +onlyGivenNames -underBinder x4
      have hx4 : Keeps a x4 := State.pushPort_keeps ‹_›
      clear_value x4
      exact State.issueOnly_keeps (State.updThread_keeps ‹_›)

theorem stepClusterMemoryStore_keeps {a : State} {t : TileId} {th : Fin 4} {size : Size} {va : Nat} {rs : Fin 32} {s : State}
    (h :
    Keeps a s) : Keeps a (stepClusterMemoryStore t th size va rs s) := by
  unfold stepClusterMemoryStore
  extract_lets +onlyGivenNames -underBinder x1
  clear_value x1
  split
  · assumption
  · extract_lets +onlyGivenNames -underBinder x2
    clear_value x2
    split
    · exact State.faultOn_keeps (State.issueOnly_keeps ‹_›)
    · extract_lets +onlyGivenNames -underBinder x3
      clear_value x3
      exact keeps_ite (State.issueOnly_keeps (State.pushPort_keeps ‹_›)) (State.faultOn_keeps (State.issueOnly_keeps ‹_›))

theorem State.scratchLost_keeps {a s : State} {ta : ℕ} {bank : ℕ} (h : Keeps a s) : Keeps a (State.scratchLost s ta bank) := by
  unfold State.scratchLost
  exact State.confirm_keeps (State.updTile_keeps ‹_›)

theorem stepNarrowLoad_keeps {a : State} {t : TileId} {th : Fin 4} {size : Size} {signed : Bool} {rd rs : Fin 32} {off : Word}
    {ecc :
    Ecc} {s : State} (h : Keeps a s) : Keeps a (stepNarrowLoad t th size signed rd rs off ecc s) := by
  unfold stepNarrowLoad
  extract_lets +onlyGivenNames -underBinder x1
  clear_value x1
  split
  · exact State.narrowLoad3_keeps ‹_›
  · split
    · assumption
    · split
      · exact State.faultOn_keeps (State.issueOnly_keeps ‹_›)
      · extract_lets +onlyGivenNames -underBinder x2
        clear_value x2
        extract_lets +onlyGivenNames -underBinder x3
        clear_value x3
        refine keeps_ite (State.issueReg_keeps ‹_›) ?_
        extract_lets +onlyGivenNames -underBinder x4
        have hx4 : Keeps a x4 := State.faultOn_keeps (State.issueOnly_keeps ‹_›)
        clear_value x4
        exact keeps_ite (State.scratchLost_keeps ‹_›) ‹_›

theorem stepNarrowStore_keeps {a : State} {t : TileId} {th : Fin 4} {size : Size} {rs rb : Fin 32} {off : Word} {s : State}
    (h :
    Keeps a s) : Keeps a (stepNarrowStore t th size rs rb off s) := by
  unfold stepNarrowStore
  extract_lets +onlyGivenNames -underBinder x1
  clear_value x1
  split
  · exact State.narrowStore3_keeps ‹_›
  · split
    · assumption
    · split
      · exact State.faultOn_keeps (State.issueOnly_keeps ‹_›)
      · extract_lets +onlyGivenNames -underBinder x2
        clear_value x2
        extract_lets +onlyGivenNames -underBinder x3
        clear_value x3
        exact keeps_ite (State.issueOnly_keeps (State.updTile_keeps ‹_›)) (State.faultOn_keeps (State.issueOnly_keeps ‹_›))

theorem stepStaticNetPort_keeps {a : State} {t : TileId} {th : Fin 4} {acc : PortAccess} {s : State} (h : Keeps a s) :
    Keeps a (stepStaticNetPort t th acc s) := by
  unfold stepStaticNetPort
  extract_lets +onlyGivenNames -underBinder x1
  clear_value x1
  split
  · assumption
  · extract_lets +onlyGivenNames -underBinder x2
    clear_value x2
    split
    · split
      · exact State.issueReg_keeps ‹_›
      · exact State.faultOn_keeps (State.issueOnly_keeps ‹_›)
    · exact State.issueOnly_keeps (State.updTile_keeps ‹_›)
    · exact State.issueReg_keeps ‹_›
    · extract_lets +onlyGivenNames -underBinder x3
      clear_value x3
      exact keeps_ite (State.faultOn_keeps (State.issueOnly_keeps ‹_›)) (State.issueOnly_keeps (State.updTile_keeps ‹_›))

theorem stepUseInstruction_keeps {a : State} {t : TileId} {th : Fin 4} {landing : Fin 8} {rd : Fin 32} {s : State} (h : Keeps a s) :
    Keeps a (stepUseInstruction t th landing rd s) := by
  unfold stepUseInstruction
  extract_lets +onlyGivenNames -underBinder x1
  clear_value x1
  split
  · assumption
  · split
    · exact State.issueReg_keeps (State.updThread_keeps ‹_›)
    · exact State.faultOn_keeps (State.issueOnly_keeps ‹_›)

theorem stepWaitc_keeps {a : State} {t : TileId} {th : Fin 4} {sN : Fin 32} {s : State} (h : Keeps a s) : Keeps a (stepWaitc t th sN s)
    := by
  unfold stepWaitc
  extract_lets +onlyGivenNames -underBinder x1
  clear_value x1
  split
  · assumption
  · extract_lets +onlyGivenNames -underBinder x2
    clear_value x2
    exact keeps_ite (State.faultOn_keeps (State.issueOnly_keeps ‹_›)) (keeps_ite (State.issueOnly_keeps ‹_›) (State.drew_keeps
        (State.updThread_keeps ‹_›)))

/-! Vector. -/

theorem stepSrand_keeps {a : State} {t : TileId} {th : Fin 4} {sD sN : Fin 32} {s : State} (h : Keeps a s) : Keeps a
    (stepSrand t th sD sN s) := by
  unfold stepSrand
  extract_lets +onlyGivenNames -underBinder x1
  clear_value x1
  split
  · extract_lets +onlyGivenNames -underBinder x2
    clear_value x2
    exact State.drew_keeps (State.updThread_keeps ‹_›)
  · assumption

theorem State.runVector_keeps {a s : State} {ta : ℕ} {feed : Option ℕ} {ecc : Ecc} {mine : VOp → Bool} {rep : VInstr → ℕ → VecIn → TileCore → ℕ
    → TileCore} (h : Keeps a s) : Keeps a (State.runVector s ta feed ecc mine rep) := by
  unfold State.runVector
  extract_lets +onlyGivenNames -underBinder x1
  clear_value x1
  split
  · refine keeps_ite ‹_› ?_
    extract_lets +onlyGivenNames -underBinder x2
    clear_value x2
    extract_lets +onlyGivenNames -underBinder x3
    clear_value x3
    extract_lets +onlyGivenNames -underBinder x4
    clear_value x4
    split
    · exact State.drew_keeps (State.updTile_keeps ‹_›)
    · exact State.fault_keeps (State.updTile_keeps (State.each_keeps ‹_› (fun _ _ _ => State.scratchLost_keeps ‹_›)))
  · assumption

theorem stepVectorIssue_keeps {a : State} {t : TileId} {th : Fin 4} {vi : VInstr} {s : State} (h : Keeps a s) :
    Keeps a (stepVectorIssue t th vi s) := by
  unfold stepVectorIssue
  extract_lets +onlyGivenNames -underBinder x1
  clear_value x1
  split
  · assumption
  · extract_lets +onlyGivenNames -underBinder x2
    clear_value x2
    extract_lets +onlyGivenNames -underBinder x3
    clear_value x3
    exact keeps_ite (State.faultOn_keeps (State.issueOnly_keeps ‹_›)) (keeps_ite ‹_› (State.issueOnly_keeps (State.updTile_keeps ‹_›)))

/-! Pass. -/

theorem State.beginPass_keeps {a s : State} {c b pos ta : Nat} (h : Keeps a s) : Keeps a (State.beginPass s c b pos ta) := by
  unfold State.beginPass
  extract_lets +onlyGivenNames -underBinder x1 x2 x3 x4 x5
  have hx5 : Keeps a x5 := State.updTile_keeps ‹_›
  clear_value x5 x4 x3 x2 x1
  extract_lets +onlyGivenNames -underBinder x6
  clear_value x6
  exact keeps_ite (State.updTile_keeps ‹_›) (keeps_ite (State.updClX_keeps (State.updTile_keeps ‹_›)) ‹_›)

theorem stepPassEnd_keeps {a : State} {t : TileId} {s : State} (h : Keeps a s) : Keeps a (stepPassEnd t s) := by
  unfold stepPassEnd
  extract_lets +onlyGivenNames -underBinder x1
  clear_value x1
  split
  · assumption
  · extract_lets +onlyGivenNames -underBinder x2 x3
    clear_value x3 x2
    split
    · extract_lets +onlyGivenNames -underBinder x4
      clear_value x4
      refine keeps_ite ‹_› ?_
      extract_lets +onlyGivenNames -underBinder x5 x6
      have hx6 : Keeps a x6 := State.updTile_keeps ‹_›
      clear_value x6 x5
      extract_lets +onlyGivenNames -underBinder x7
      have hx7 : Keeps a x7 := keeps_ite (State.updClX_keeps ‹_›) ‹_›
      clear_value x7
      exact keeps_ite (State.beginPass_keeps ‹_›) ‹_›
    · assumption

/-! Fabric. -/

theorem State.countTraffic_keeps {a s : State} {n : ℕ → ℕ} (h : Keeps a s) : Keeps a (State.countTraffic s n) := by
  unfold State.countTraffic
  exact Keeps.of_eq (s := s) ‹_› rfl rfl rfl rfl rfl

theorem stepLandingEntryArrival_keeps {a : State} {t : TileId} {c : Fin 16} {e : Fin 4} {d : Fin 16} {s : State} (h : Keeps a s) : Keeps
    a (stepLandingEntryArrival t c e d s) := by
  unfold stepLandingEntryArrival
  extract_lets +onlyGivenNames -underBinder x1 x2
  clear_value x2 x1
  split
  · extract_lets +onlyGivenNames -underBinder x3
    have hx3 : Keeps a x3 := State.updDescX_keeps ‹_›
    clear_value x3
    exact keeps_ite ‹_› (keeps_ite ‹_› (State.updTile_keeps ‹_›))
  · assumption

theorem stepLandingFill_keeps {a : State} {t : TileId} {s : State} (h : Keeps a s) : Keeps a (stepLandingFill t s) := by
  unfold stepLandingFill
  extract_lets +onlyGivenNames -underBinder x1
  clear_value x1
  refine keeps_ite ‹_› ?_
  split
  · assumption
  · exact State.drew_keeps (State.updTile_keeps ‹_›)

theorem stepPaddingEnd_keeps {a : State} {t : TileId} {s : State} (h : Keeps a s) : Keeps a (stepPaddingEnd t s) := by
  unfold stepPaddingEnd
  extract_lets +onlyGivenNames -underBinder x1
  clear_value x1
  split
  · assumption
  · extract_lets +onlyGivenNames -underBinder x2
    clear_value x2
    exact keeps_ite (State.updTile_keeps ‹_›) ‹_›

theorem stepTileClearComplete_keeps {a : State} {t : TileId} {s : State} (h : Keeps a s) : Keeps a (stepTileClearComplete t s) := by
  unfold stepTileClearComplete
  extract_lets +onlyGivenNames -underBinder x1
  clear_value x1
  split
  · assumption
  · extract_lets +onlyGivenNames -underBinder x2
    have hx2 : Keeps a x2 := State.updTile_keeps ‹_›
    clear_value x2
    split
    · exact State.pumpBat_keeps (State.armChecks_keeps ‹_›)
    · assumption

theorem State.abortDue_keeps {a s : State} {c : ℕ} {b : ℕ} (h : Keeps a s) : Keeps a (State.abortDue s c b) := by
  unfold State.abortDue
  extract_lets +onlyGivenNames -underBinder x1
  clear_value x1
  split
  · exact State.abort_keeps ‹_›
  · assumption

theorem State.runCycle_keeps {a s : State} {c b : Nat} {acts : List TileAct} (h : Keeps a s) : Keeps a (State.runCycle s c b acts) := by
  unfold State.runCycle
  extract_lets +onlyGivenNames -underBinder x1
  clear_value x1
  split
  · assumption
  · extract_lets +onlyGivenNames -underBinder x2
    clear_value x2
    refine keeps_ite ‹_› ?_
    extract_lets +onlyGivenNames -underBinder x3
    clear_value x3
    extract_lets +onlyGivenNames -underBinder x4
    clear_value x4
    extract_lets +onlyGivenNames -underBinder x5
    have hx5 : Keeps a x5 := by
      unfold x5
      refine State.each_keeps ‹_› ?_
      intro z6 z7 hz8
      split
      · exact State.updTile_keeps ‹_›
      · assumption
    clear_value x5
    extract_lets +onlyGivenNames -underBinder x9
    have hx9 : Keeps a x9 := by
      unfold x9
      split
      · exact State.updCtxX_keeps ‹_›
      · assumption
    clear_value x9
    extract_lets +onlyGivenNames -underBinder x10
    have hx10 : Keeps a x10 := State.updCl_keeps ‹_› (fun _ hx => hx)
    clear_value x10
    extract_lets +onlyGivenNames -underBinder x11
    have hx11 : Keeps a x11 := State.countTraffic_keeps ‹_›
    clear_value x11
    extract_lets +onlyGivenNames -underBinder x12
    have hx12 : Keeps a x12 := State.each_keeps ‹_› (fun _ _ _ => State.scratchLost_keeps ‹_›)
    clear_value x12
    extract_lets +onlyGivenNames -underBinder x16
    have hx16 : Keeps a x16 := State.fault_keeps ‹_›
    clear_value x16
    exact keeps_ite (State.updBat_keeps ‹_›) (keeps_ite (State.updBat_keeps ‹_›) (State.abortDue_keeps ‹_›))

theorem stepSwitchEntryEnd_keeps {a : State} {t : TileId} {s : State} (h : Keeps a s) : Keeps a (stepSwitchEntryEnd t s) := by
  unfold stepSwitchEntryEnd
  extract_lets +onlyGivenNames -underBinder x1
  clear_value x1
  split
  · assumption
  · extract_lets +onlyGivenNames -underBinder x2
    clear_value x2
    refine keeps_ite ‹_› ?_
    split
    · exact State.updTile_keeps ‹_›
    · assumption

/-! Sect. -/

theorem State.freeBuffer_keeps {a s : State} {c : ℕ} {b : ℕ} {img : SecImage} (h : Keeps a s) : Keeps a (State.freeBuffer s c b img) := by
  unfold State.freeBuffer
  split
  · exact keeps_ite ‹_› (State.each_keeps (State.setChain_keeps ‹_›) (fun _ _ _ => State.updDesc_keeps ‹_›))
  · assumption

theorem stepLockGrant_keeps {a : State} {c : Fin 16} {b : Fin 64} {s : State} (h : Keeps a s) : Keeps a (stepLockGrant c b s) := by
  unfold stepLockGrant
  extract_lets +onlyGivenNames -underBinder x1
  clear_value x1
  exact keeps_ite (State.updBat_keeps ‹_›) ‹_›

theorem stepRunStart_keeps {a : State} {c : Fin 16} {b : Fin 64} {s : State} (h : Keeps a s) : Keeps a (stepRunStart c b s) := by
  unfold stepRunStart
  extract_lets +onlyGivenNames -underBinder x1
  clear_value x1
  split
  · assumption
  · refine keeps_ite ?_ ‹_›
    extract_lets +onlyGivenNames -underBinder x2
    have hx2 : Keeps a x2 := State.updBat_keeps ‹_›
    clear_value x2
    extract_lets +onlyGivenNames -underBinder x3
    have hx3 : Keeps a x3 := State.updClY_keeps ‹_›
    clear_value x3
    extract_lets +onlyGivenNames -underBinder x4
    clear_value x4
    extract_lets +onlyGivenNames -underBinder x5
    have hx5 : Keeps a x5 := State.updBat_keeps ‹_›
    clear_value x5
    extract_lets +onlyGivenNames -underBinder x6
    have hx6 : Keeps a x6 := State.each_keeps ‹_› (fun _ _ _ => State.updDesc_keeps ‹_›)
    clear_value x6
    exact State.each_keeps ‹_› (fun _ _ _ => State.beginPass_keeps (State.updTile_keeps ‹_›))

theorem State.takeBuffer_keeps {a s : State} {base len : Nat} {i : CtxId} (h : Keeps a s) : Keeps a (State.takeBuffer s base len i) := by
  unfold State.takeBuffer
  refine State.each_keeps ‹_› ?_
  intro z1 z2 hz1
  extract_lets +onlyGivenNames -underBinder x3
  clear_value x3
  exact keeps_ite ‹_› (State.takeFrame_keeps ‹_›)

theorem State.chimeAt_keeps {a s : State} {i : CtxId} {va : Nat} {write : Bool} {agent : Nat} (h : Keeps a s) :
    Keeps a (State.chimeAt s i va write agent).1 := by
  unfold State.chimeAt
  split
  · split
    · exact keeps_pair (keeps_of_fst (by assumption) (State.translate_keeps ‹_›))
    · split
      · exact keeps_pair (keeps_of_fst (by assumption) (State.reachMem_keeps (keeps_of_fst (by assumption) (State.translate_keeps ‹_›))))
      · exact keeps_pair (keeps_of_fst (by assumption) (State.reachMem_keeps (keeps_of_fst (by assumption) (State.translate_keeps ‹_›))))
  · exact keeps_pair (keeps_of_fst (by assumption) (State.translate_keeps ‹_›))
  · exact keeps_pair (State.fatalXlat_keeps (keeps_of_fst (by assumption) (State.translate_keeps ‹_›)))

theorem State.chimeStore_keeps {a s : State} {i : CtxId} {va value agent : Nat} (h : Keeps a s) : Keeps a
    (State.chimeStore s i va value agent).1 := by
  unfold State.chimeStore
  split
  · refine keeps_ite_fst ?_ ?_
    · refine keeps_pair (State.lostNotice_keeps ?_)
      refine keeps_of_fst (by assumption) ?_
      exact State.chimeAt_keeps ‹_›
    · refine keeps_pair (State.store_keeps ?_)
      refine keeps_of_fst (by assumption) ?_
      exact State.chimeAt_keeps ‹_›
  · refine keeps_pair ?_
    refine keeps_of_fst (by assumption) ?_
    exact State.chimeAt_keeps ‹_›

theorem State.writeChimes_keeps {a s : State} {i : CtxId} {l : List (BitVec 192)} (h : Keeps a s) : Keeps a (s.writeChimes i l).1 := by
  induction l generalizing s with
  | nil => exact h
  | cons r rest ih => exact ih (State.chimeStore_keeps h)

theorem stepHandoverAllocate_keeps {a : State} {c : Fin 16} {b : Fin 64} {s : State} (h : Keeps a s) : Keeps a
    (stepHandoverAllocate c b s) := by
  unfold stepHandoverAllocate
  extract_lets +onlyGivenNames -underBinder x1
  clear_value x1
  split
  · refine keeps_ite ?_ ‹_›
    extract_lets +onlyGivenNames -underBinder x2
    clear_value x2
    split
    · assumption
    · extract_lets +onlyGivenNames -underBinder x3
      have hx3 : Keeps a x3 := State.takeBuffer_keeps ‹_›
      clear_value x3
      extract_lets +onlyGivenNames -underBinder x4
      have hx4 : Keeps a x4 := State.setChain_keeps ‹_›
      clear_value x4
      extract_lets +onlyGivenNames -underBinder x5
      have hx5 : Keeps a x5 := State.updBat_keeps ‹_›
      clear_value x5
      exact State.pumpBat_keeps (State.armChecks_keeps ‹_›)
  · assumption

theorem stepLoaded_keeps {a : State} {c : Fin 16} {b : Fin 64} {s : State} (h : Keeps a s) : Keeps a (stepLoaded c b s) := by
  unfold stepLoaded
  extract_lets +onlyGivenNames -underBinder x1
  clear_value x1
  split
  · extract_lets +onlyGivenNames -underBinder x2
    have hx2 : Keeps a x2 := State.updBat_keeps ‹_›
    clear_value x2
    refine keeps_ite (State.pumpBat_keeps (State.updBat_keeps ‹_›)) ?_
    extract_lets +onlyGivenNames -underBinder x3
    have hx3 : Keeps a x3 := State.updBat_keeps ‹_›
    clear_value x3
    exact State.pumpBat_keeps (State.complete_keeps ‹_›)
  · assumption

theorem stepSecChain_keeps {a : State} {p : Fin 16} {k : Fin 64} {s : State} (h : Keeps a s) : Keeps a (stepSecChain p k s) := by
  unfold stepSecChain
  split
  · assumption
  · extract_lets +onlyGivenNames -underBinder x1
    have hx1 : Keeps a x1 := State.startCmd_keeps ‹_›
    clear_value x1
    extract_lets +onlyGivenNames -underBinder x2 x3 x4 x5
    clear_value x5 x4 x3 x2
    refine keeps_ite (State.complete_keeps ‹_›) ?_
    extract_lets +onlyGivenNames -underBinder x6 x7
    have hx7 : Keeps a x7 := State.updCl_keeps ‹_› (fun _ hx => hx)
    clear_value x7 x6
    exact State.reach_keeps ‹_›

theorem stepSecLoad_keeps {a : State} {p : Fin 16} {k : Fin 64} {s : State} (h : Keeps a s) : Keeps a (stepSecLoad p k s) := by
  unfold stepSecLoad
  split
  · assumption
  · extract_lets +onlyGivenNames -underBinder x1
    have hx1 : Keeps a x1 := State.startCmd_keeps ‹_›
    clear_value x1
    extract_lets +onlyGivenNames -underBinder x2
    clear_value x2
    exact keeps_ite (State.complete_keeps ‹_›) (State.reach_keeps ‹_›)

theorem stepSecRun_keeps {a : State} {p : Fin 16} {k : Fin 64} {s : State} (h : Keeps a s) : Keeps a (stepSecRun p k s) := by
  unfold stepSecRun
  split
  · assumption
  · extract_lets +onlyGivenNames -underBinder x1
    clear_value x1
    exact State.reach_keeps (State.startCmd_keeps ‹_›)

theorem State.startStage_keeps {a s : State} {stage unit_ : Nat} (h : Keeps a s) : Keeps a (State.startStage s stage unit_) := by
  unfold State.startStage
  exact Keeps.of_eq (s := s) ‹_› rfl rfl rfl rfl rfl

theorem State.startOne_keeps {a s : State} (h : Keeps a s) : Keeps a (State.startOne s) := by
  unfold State.startOne
  exact keeps_ite ‹_› (State.startStage_keeps ‹_›)

theorem State.chipReset_keeps {a s : State} {auto : Bool} (h : Keeps a s) : Keeps a (s.chipReset auto) :=
  Keeps.of_parts h (fun _ => nil_wf) (fun _ => State.reset_clocksLegal) rfl rfl rfl

theorem State.resetClu_keeps {a s : State} {c : Nat} (h : Keeps a s) : Keeps a (State.resetClu s c) := by
  unfold State.resetClu
  extract_lets +onlyGivenNames -underBinder x1
  have hx1 : Keeps a x1 := State.abandonSlices_keeps ‹_›
  clear_value x1
  extract_lets +onlyGivenNames -underBinder x2 x3 y5 y6 x4
  have hx4 : Keeps a x4 := Keeps.of_eq (s := x1) ‹_› rfl rfl rfl rfl rfl
  clear_value x4 y6 y5 x3 x2
  extract_lets +onlyGivenNames -underBinder x7
  have hx7 : Keeps a x7 := State.each_keeps ‹_› (fun _ _ _ => State.updComb_keeps ‹_›)
  clear_value x7
  extract_lets +onlyGivenNames -underBinder x10
  have hx10 : Keeps a x10 := State.updCl_keeps ‹_› (fun _ hx => ⟨hx.code, ite_target no_target (some_target legalCode_40), no_target,
      legalCode_40⟩)
  clear_value x10
  extract_lets +onlyGivenNames -underBinder x11
  have hx11 : Keeps a x11 := State.updClX_keeps ‹_›
  clear_value x11
  exact State.updClY_keeps ‹_›

theorem State.partReset_keeps {a s : State} {p : Nat} {byReg : Bool} (h : Keeps a s) : Keeps a (State.partReset s p byReg) := by
  unfold State.partReset
  split
  · assumption
  · extract_lets +onlyGivenNames -underBinder x1
    clear_value x1
    extract_lets +onlyGivenNames -underBinder x2
    have hx2 : Keeps a x2 := State.each_keeps ‹_› (fun _ _ _ => State.dropJob_keeps ‹_›)
    clear_value x2
    extract_lets +onlyGivenNames -underBinder x6
    have hx6 : Keeps a x6 := State.each_keeps ‹_› (fun _ _ _ => State.updCtxX_keeps (State.updCtx_keeps ‹_›))
    clear_value x6
    extract_lets +onlyGivenNames -underBinder x10
    have hx10 : Keeps a x10 := State.each_keeps ‹_› (fun _ _ _ => State.resetClu_keeps ‹_›)
    clear_value x10
    extract_lets +onlyGivenNames -underBinder x14
    have hx14 : Keeps a x14 := State.updPart_keeps ‹_›
    clear_value x14
    extract_lets +onlyGivenNames -underBinder x15
    clear_value x15
    extract_lets +onlyGivenNames -underBinder x16
    clear_value x16
    extract_lets +onlyGivenNames -underBinder x17
    have hx17 : Keeps a x17 := State.each_keeps ‹_› (fun _ _ _ => State.each_keeps ‹_› (fun _ _ _ => State.linkDown_keeps ‹_›))
    clear_value x17
    extract_lets +onlyGivenNames -underBinder x24
    have hx24 : Keeps a x24 := State.each_keeps ‹_› (fun _ _ _ => keeps_ite ‹_› (State.updChan_keeps ‹_›))
    clear_value x24
    extract_lets +onlyGivenNames -underBinder x28
    have hx28 : Keeps a x28 := State.each_keeps ‹_› (fun _ _ _ => State.startStage_keeps ‹_›)
    clear_value x28
    extract_lets +onlyGivenNames -underBinder x32
    have hx32 : Keeps a x32 := State.each_keeps ‹_› (fun _ _ _ => State.startStage_keeps ‹_›)
    clear_value x32
    exact Keeps.of_eq (s := x32) ‹_› rfl rfl rfl rfl rfl

theorem State.releaseOrder_keeps {a s : State} {o : Order} (h : Keeps a s) : Keeps a (State.releaseOrder s o) := by
  unfold State.releaseOrder
  exact keeps_ite ‹_› (keeps_ite (State.startOne_keeps (State.chipReset_keeps ‹_›)) (State.partReset_keeps (Keeps.of_eq (s := s) ‹_› rfl
      rfl rfl rfl rfl)))

theorem State.releaseOrders_keeps {a s : State} (h : Keeps a s) : Keeps a (State.releaseOrders s) := by
  unfold State.releaseOrders
  exact State.each_keeps ‹_› (fun _ _ _ => State.releaseOrder_keeps ‹_›)

theorem State.muffleWaiting_keeps {a s : State} {c : ℕ} {b : ℕ} (h : Keeps a s) : Keeps a (State.muffleWaiting s c b) := by
  unfold State.muffleWaiting
  exact State.each_keeps (State.updBatX_keeps ‹_›) (fun _ _ _ => State.muffleTile_keeps ‹_›)

theorem State.commitBat_keeps {a s : State} {c : Fin 16} {b : Fin 64} (h : Keeps a s) : Keeps a (State.commitBat s c b) := by
  unfold State.commitBat
  extract_lets +onlyGivenNames -underBinder x1
  clear_value x1
  split
  · refine keeps_ite ‹_› ?_
    extract_lets +onlyGivenNames -underBinder x2
    have hx2 : Keeps a x2 := State.each_keeps ‹_› (fun _ _ _ => State.updTile_keeps ‹_›)
    clear_value x2
    extract_lets +onlyGivenNames -underBinder x6
    have hx6 : Keeps a x6 := State.updBat_keeps ‹_›
    clear_value x6
    refine keeps_ite (State.bar2Go_keeps ‹_›) ?_
    split
    · extract_lets +onlyGivenNames -underBinder x7
      clear_value x7
      extract_lets +onlyGivenNames -underBinder x8
      have hx8 : Keeps a x8 := State.freeBuffer_keeps (keeps_of_fst (by assumption) (State.writeChimes_keeps ‹_›))
      clear_value x8
      extract_lets +onlyGivenNames -underBinder x9
      have hx9 : Keeps a x9 := State.finishSection_keeps (State.endBattery_keeps ‹_›)
      clear_value x9
      exact State.resetIfDue_keeps (State.pumpBat_keeps (State.muffleWaiting_keeps ‹_›))
  · assumption

theorem stepCommit_keeps {a : State} {c : Fin 16} {b : Fin 64} {s : State} (h : Keeps a s) : Keeps a (stepCommit c b s) := by
  unfold stepCommit
  exact State.releaseOrders_keeps (State.commitBat_keeps ‹_›)

theorem stepRunEnd_keeps {a : State} {c : Fin 16} {b : Fin 64} {s : State} (h : Keeps a s) : Keeps a (stepRunEnd c b s) := by
  unfold stepRunEnd
  extract_lets +onlyGivenNames -underBinder x1
  clear_value x1
  split
  · assumption
  · refine keeps_ite ‹_› ?_
    extract_lets +onlyGivenNames -underBinder x2
    clear_value x2
    extract_lets +onlyGivenNames -underBinder x3
    clear_value x3
    extract_lets +onlyGivenNames -underBinder x4
    clear_value x4
    extract_lets +onlyGivenNames -underBinder x5
    have hx5 : Keeps a x5 := State.fault_keeps ‹_›
    clear_value x5
    refine keeps_ite (State.abortDue_keeps ‹_›) ?_
    extract_lets +onlyGivenNames -underBinder x6
    have hx6 : Keeps a x6 := State.quietTiles_keeps (State.updBat_keeps ‹_›)
    clear_value x6
    exact State.each_keeps ‹_› (fun _ _ _ => State.updDesc_keeps ‹_›)

theorem stepTake_keeps {a : State} {c : Fin 16} {b : Fin 64} {binding : Fin 8} {s : State} (h : Keeps a s) : Keeps a
    (stepTake c b
    binding s) := by
  unfold stepTake
  extract_lets +onlyGivenNames -underBinder x1
  clear_value x1
  split
  · assumption
  · split
    · assumption
    · extract_lets +onlyGivenNames -underBinder x2
      clear_value x2
      refine keeps_ite ‹_› ?_
      extract_lets +onlyGivenNames -underBinder x3
      clear_value x3
      refine keeps_ite (State.faultOn_keeps (State.updBat_keeps ‹_›)) ?_
      extract_lets +onlyGivenNames -underBinder x4
      clear_value x4
      extract_lets +onlyGivenNames -underBinder x5
      clear_value x5
      extract_lets +onlyGivenNames -underBinder x6
      clear_value x6
      extract_lets +onlyGivenNames -underBinder x7
      clear_value x7
      extract_lets +onlyGivenNames -underBinder x8
      have hx8 : Keeps a x8 := State.setDesc_keeps ‹_›
      clear_value x8
      extract_lets +onlyGivenNames -underBinder x9
      have hx9 : Keeps a x9 := State.updBat_keeps ‹_›
      clear_value x9
      extract_lets +onlyGivenNames -underBinder x10
      have hx10 : Keeps a x10 := keeps_ite (State.updTile_keeps ‹_›) ‹_›
      clear_value x10
      exact State.drew_keeps ‹_›

end Sys2Proof.Machine
end

