-- ==== Sys2Proof/Laws/KeepsMemory.lean ====
section
/-! SUPPORT. What every operation keeps, for memory, the host address space, the stream engines and translation. -/
namespace Sys2Proof.Machine

/-! Memory. -/

theorem State.cacheRead_keeps {a s : State} {c : Nat} {addrs : List Nat} (h : Keeps a s) : Keeps a (State.cacheRead s c addrs) := by
  unfold State.cacheRead
  exact keeps_ite ‹_› (State.each_keeps ‹_› (fun _ _ _ => keeps_ite (State.updCl_keeps ‹_› (fun _ hx => hx)) (State.updCl_keeps ‹_› (fun
      _ hx => hx))))

theorem State.untag_keeps {a s : State} {dpa : Nat} (h : Keeps a s) : Keeps a (State.untag s dpa) := by
  unfold State.untag
  exact Keeps.of_eq (s := s) ‹_› rfl rfl rfl rfl rfl

theorem stepCheckByteMismatch_keeps {a s : State} {c : Fin 16} {dpa : ℕ} {data : BitVec 256} {chk : BitVec 16} (h : Keeps a s) : Keeps a
    (stepCheckByteMismatch c dpa data chk s) := by
  unfold stepCheckByteMismatch
  extract_lets +onlyGivenNames -underBinder x1
  clear_value x1
  exact keeps_ite (Keeps.of_eq (s := s) ‹_› rfl rfl rfl rfl rfl) ‹_›

theorem stepFrameRelease_keeps {a : State} {p : Fin 16} {s : State} (h : Keeps a s) : Keeps a (stepFrameRelease p s) := by
  unfold stepFrameRelease
  extract_lets +onlyGivenNames -underBinder x1
  clear_value x1
  refine keeps_ite ?_ ‹_›
  extract_lets +onlyGivenNames -underBinder x2
  have hx2 : Keeps a x2 := State.updPart_keeps ‹_›
  clear_value x2
  split
  · exact keeps_ite (State.untag_keeps ‹_›) ‹_›
  · assumption

theorem stepMirrorRebuildComplete_keeps {a : State} {c : Fin 16} {phys : Nat} {s : State} (h : Keeps a s) : Keeps a
    (stepMirrorRebuildComplete c phys s) := by
  unfold stepMirrorRebuildComplete
  exact keeps_ite (State.updSlice_keeps (State.updCl_keeps ‹_› (fun _ hx => hx))) ‹_›

theorem stepRefresh_keeps {a : State} {_chan : Nat} {s : State} (h : Keeps a s) : Keeps a (stepRefresh _chan s) := by
  unfold stepRefresh
  assumption

theorem stepFrameFree_keeps {a : State} {fn : Fn} {p : Fin 16} {val : Dword} {s : State} (h : Keeps a s) : Keeps a
    (stepFrameFree fn p val s) := by
  unfold stepFrameFree
  extract_lets +onlyGivenNames -underBinder x1 x2
  clear_value x2 x1
  refine keeps_ite (State.refuseP_keeps ‹_›) ?_
  refine keeps_ite (State.refuseP_keeps ‹_›) ?_
  extract_lets +onlyGivenNames -underBinder x3
  have hx3 : Keeps a x3 := State.updPart_keeps ‹_›
  clear_value x3
  split
  · assumption
  · exact keeps_ite (State.refuseP_keeps ‹_›) (keeps_ite (State.updPart_keeps ‹_›) (State.untag_keeps ‹_›))

theorem State.lostRecords_keeps {a s : State} {i : CtxId} {noVa : Bool} {fuel : Nat} {l : List (Nat × Nat × Nat)} (h : Keeps a s) :
    Keeps a (s.lostRecords i noVa fuel l) := by
  induction fuel generalizing s l with
  | zero => exact h
  | succ fuel ih => exact keeps_ite h (ih (State.raise_keeps h))

theorem stepResidentLostWalk_keeps {a : State} {p : Fin 16} {k : Fin 64} {s : State} (h : Keeps a s) : Keeps a
    (stepResidentLostWalk p k s) := by
  unfold stepResidentLostWalk
  extract_lets +onlyGivenNames -underBinder x1
  clear_value x1
  refine keeps_ite ‹_› ?_
  split
  · assumption
  · extract_lets +onlyGivenNames -underBinder y3 x2
    have hx2 : Keeps a x2 := Keeps.of_eq (s := s) ‹_› rfl rfl rfl rfl rfl
    clear_value x2 y3
    split
    · assumption
    · extract_lets +onlyGivenNames -underBinder x4 x5
      clear_value x5 x4
      exact keeps_ite (State.lostRecords_keeps ‹_›) (State.lostRecords_keeps ‹_›)

theorem stepSliceFailure_keeps {a : State} {c : Fin 16} {phys : Nat} {s : State} (h : Keeps a s) : Keeps a (stepSliceFailure c phys s) := by
  unfold stepSliceFailure
  exact keeps_ite (State.failSlice_keeps ‹_›) ‹_›

theorem State.corrected_keeps {a s : State} {dpa : Nat} (h : Keeps a s) : Keeps a (State.corrected s dpa) := by
  unfold State.corrected
  split
  · assumption
  · extract_lets +onlyGivenNames -underBinder x1
    have hx1 : Keeps a x1 := keeps_ite (State.updSlice_keeps ‹_›) (State.updChan_keeps ‹_›)
    clear_value x1
    extract_lets +onlyGivenNames -underBinder x2 y4 x3
    have hx3 : Keeps a x3 := Keeps.of_eq (s := x1) ‹_› rfl rfl rfl rfl rfl
    clear_value x3 y4 x2
    exact keeps_ite (State.confirm_keeps ‹_›) ‹_›

theorem State.uncorrectable_keeps {a s : State} {dpa : Nat} (h : Keeps a s) : Keeps a (State.uncorrectable s dpa) := by
  unfold State.uncorrectable
  extract_lets +onlyGivenNames -underBinder x1 x2 x3
  have hx3 : Keeps a x3 := keeps_ite ‹_› (State.declareLost_keeps ‹_›)
  clear_value x3 x2 x1
  split
  · exact State.confirm_keeps ‹_›
  · assumption

theorem stepCheckByteRetry_keeps {a s : State} {c : Fin 16} {dpa : ℕ} {data : BitVec 256} {chk : BitVec 16} (h : Keeps a s) : Keeps a
    (stepCheckByteRetry c dpa data chk s) := by
  unfold stepCheckByteRetry
  extract_lets +onlyGivenNames -underBinder x1
  clear_value x1
  refine keeps_ite ‹_› ?_
  extract_lets +onlyGivenNames -underBinder x2
  extract_lets +onlyGivenNames -underBinder x3
  have hx3 : Keeps a x3 := Keeps.of_eq (s := s) ‹_› rfl rfl rfl rfl rfl
  clear_value x3 x2
  split
  · assumption
  · exact keeps_ite (State.updChan_keeps ‹_›) (State.confirm_keeps (State.declareLost_keeps ‹_›))

theorem State.eccEvent_keeps {a s : State} {dpa : Nat} {e : Ecc} (h : Keeps a s) : Keeps a (s.eccEvent dpa e) := by
  cases e
  · exact h
  · exact State.corrected_keeps h
  · exact State.uncorrectable_keeps h

theorem State.lostAccess_keeps {a s : State} {ta : Nat} {o : PortOp} (h : Keeps a s) : Keeps a (State.lostAccess s ta o) := by
  unfold State.lostAccess
  extract_lets +onlyGivenNames -underBinder x1
  clear_value x1
  exact keeps_ite (State.faultOn_keeps ‹_›) (State.lostNotice_keeps ‹_›)

theorem State.xbarWon_keeps {a s : State} {i dpa : Nat} (h : Keeps a s) : Keeps a (State.xbarWon s i dpa) := by
  unfold State.xbarWon
  split
  · exact State.updCl_keeps ‹_› (fun _ hx => hx)
  · assumption

theorem State.engineWon_keeps {a s : State} {c e : Nat} {l : List (Nat × Nat)} (h : Keeps a s) : Keeps a (State.engineWon s c e l) := by
  unfold State.engineWon
  exact foldl_keeps ‹_› (fun _ _ _ => State.xbarWon_keeps ‹_›)

theorem State.portAccess_keeps {a s : State} {t : TileId} {idx : ℕ} {ecc : Ecc} {rivals : List (Fin 276)} (h : Keeps a s) : Keeps a
    (State.portAccess t idx ecc rivals s) := by
  unfold State.portAccess
  extract_lets +onlyGivenNames -underBinder x1
  clear_value x1
  extract_lets +onlyGivenNames -underBinder x2
  clear_value x2
  split
  · assumption
  · extract_lets +onlyGivenNames -underBinder x3
    refine keeps_ite ‹_› (keeps_ite (State.updTile_keeps ‹_›) (keeps_ite ‹_› (keeps_ite ‹_› ?_)))
    split
    · exact State.keyFault_keeps (State.updTile_keeps ‹_›)
    · extract_lets +onlyGivenNames -underBinder x4
      have hx4 : Keeps a x4 := State.eccEvent_keeps (State.xbarWon_keeps ‹_›)
      clear_value x4
      split
      · exact keeps_ite (State.lostAccess_keeps (State.updTile_keeps ‹_›)) (State.store_keeps (State.updTile_keeps ‹_›))
      · refine keeps_ite (State.lostAccess_keeps (State.updTile_keeps ‹_›)) ?_
        extract_lets +onlyGivenNames -underBinder x5
        clear_value x5
        exact State.updTile_keeps ‹_›

theorem stepSliceAccess_keeps {a s : State} {who : Option TileId} {n : Nat} {ecc : Ecc} {rivals : List (Fin 276)} (h : Keeps a s) : Keeps a
    (stepSliceAccess who n ecc rivals s) := by
  unfold stepSliceAccess
  split
  · exact State.portAccess_keeps ‹_›
  · exact State.eccEvent_keeps ‹_›

theorem stepStreamCacheFill_keeps {a : State} {c : Fin 16} {dpa : Nat} {ecc : Ecc} {s : State} (h : Keeps a s) : Keeps a
    (stepStreamCacheFill c dpa ecc s) := by
  unfold stepStreamCacheFill
  extract_lets +onlyGivenNames -underBinder x1
  clear_value x1
  refine keeps_ite ‹_› ?_
  extract_lets +onlyGivenNames -underBinder x2
  have hx2 : Keeps a x2 := State.eccEvent_keeps ‹_›
  clear_value x2
  extract_lets +onlyGivenNames -underBinder x3
  have hx3 : Keeps a x3 := State.updCl_keeps ‹_› (fun _ hx => hx)
  clear_value x3
  exact keeps_ite ‹_› (State.updCl_keeps ‹_› (fun _ hx => hx))

/-! HostX. -/

theorem State.atcDrop_keeps {a s : State} {i : CtxId} {hua : Nat} (h : Keeps a s) : Keeps a (State.atcDrop s i hua) := by
  unfold State.atcDrop
  exact State.updPort_keeps ‹_›

theorem State.hostPage_keeps {a s : State} {i : CtxId} {c : ℕ} {agent : XAgent} {elem : ℕ} {va : ℕ} {hua : ℕ} {page : ℕ} {write : Bool}
    (h : Keeps a s) : Keeps a (State.hostPage s i c agent elem va hua page write).1 := by
  unfold State.hostPage
  extract_lets +onlyGivenNames -underBinder x1
  clear_value x1
  extract_lets +onlyGivenNames -underBinder x2
  clear_value x2
  extract_lets +onlyGivenNames -underBinder x3
  clear_value x3
  extract_lets +onlyGivenNames -underBinder x4
  have hx4 : Keeps a x4 := keeps_ite ‹_› (State.emit_keeps (State.updPort_keeps ‹_›))
  clear_value x4
  split
  · exact keeps_ite_fst ‹_› ‹_›
  · assumption

theorem State.sendPrg_keeps {a s : State} {i : CtxId} {c : Nat} {agent : XAgent} {elem va hua : Nat} {write : Bool} (h : Keeps a s) :
    Keeps a (State.sendPrg s i c agent elem va hua write) := by
  unfold State.sendPrg
  extract_lets +onlyGivenNames -underBinder x1
  clear_value x1
  extract_lets +onlyGivenNames -underBinder x2
  clear_value x2
  extract_lets +onlyGivenNames -underBinder x3
  clear_value x3
  split
  · exact State.emit_keeps (State.updPort_keeps ‹_›)
  · exact State.updPort_keeps ‹_›

theorem State.byLeaf_keeps {a s : State} {i : CtxId} {r : XRes} (h : Keeps a s) : Keeps a (State.byLeaf s i r).1 := by
  unfold State.byLeaf
  split
  · split
    · exact keeps_pair ‹_›
    · split
      · exact keeps_pair ‹_›
      · exact keeps_pair (State.takeFrame_keeps ‹_›)
      · exact keeps_pair ‹_›
  · exact keeps_pair ‹_›

theorem State.translateC_keeps {a s : State} {c : Nat} {i : CtxId} {va : Nat} {write : Bool} (h : Keeps a s) : Keeps a
    (State.translateC s c i va write).1 := by
  unfold State.translateC
  split
  · exact keeps_ite_fst (State.byLeaf_keeps (State.drew_keeps ‹_›)) (State.translate_keeps (State.drew_keeps ‹_›))
  · exact State.translate_keeps ‹_›

/-! Stream. -/

theorem State.fetch_keeps {a s : State} {l : List Piece} (h : Keeps a s) : Keeps a (s.fetch l).1 := by
  induction l generalizing s with
  | nil => exact h
  | cons p rest ih => exact ih (keeps_ite (State.drew_keeps h) h)

theorem State.issueElem_keeps {a s : State} {c : ℕ} {e : ℕ} {d : ℕ} {i : CtxId} {elem : ℕ} {uses : List Piece} {tr : List Transit} {wr :
    List MemWrite} (h : Keeps a s) : Keeps a (State.issueElem s c e d i elem uses tr wr) := by
  unfold State.issueElem
  extract_lets +onlyGivenNames -underBinder x1
  clear_value x1
  extract_lets +onlyGivenNames -underBinder x2
  have hx2 : Keeps a x2 := State.updDesc_keeps ‹_›
  clear_value x2
  exact State.updDescX_keeps ‹_›

theorem State.resumeDesc_keeps {a s : State} {c e d : Nat} (h : Keeps a s) : Keeps a (State.resumeDesc s c e d) := by
  unfold State.resumeDesc
  extract_lets +onlyGivenNames -underBinder x1
  have hx1 : Keeps a x1 := State.updDesc_keeps ‹_›
  clear_value x1
  exact State.updDescX_keeps ‹_›

theorem stepHoRelease_keeps {a : State} {c : Fin 16} {e : Fin 4} {d : Fin 16} {s : State} (h : Keeps a s) : Keeps a
    (stepHoRelease c e d s) := by
  unfold stepHoRelease
  extract_lets +onlyGivenNames -underBinder x1
  clear_value x1
  refine keeps_ite ?_ ‹_›
  split
  · exact State.setDesc_keeps ‹_›
  · assumption

theorem stepRewindResume_keeps {a : State} {c : Fin 16} {e : Fin 4} {d : Fin 16} {s : State} (h : Keeps a s) : Keeps a
    (stepRewindResume c e d s) := by
  unfold stepRewindResume
  extract_lets +onlyGivenNames -underBinder x1 x2
  clear_value x2 x1
  refine keeps_ite ?_ ‹_›
  extract_lets +onlyGivenNames -underBinder x3
  have hx3 : Keeps a x3 := State.updDesc_keeps ‹_›
  clear_value x3
  exact State.updDescX_keeps ‹_›

theorem State.pieces_keeps {a s : State} {c : Nat} {i : CtxId} {agent : XAgent} {elem : Nat} {slot write : Bool} {l : List (Nat × Nat)}
    (h : Keeps a s) : Keeps a (s.pieces c i agent elem slot write l).1 := by
  induction l generalizing s with
  | nil => exact h
  | cons p rest ih =>
    unfold State.pieces
    refine ih ?_
    split <;> rename_i e <;> have h1 := keeps_of_fst e (State.translateC_keeps h)
    · exact h1
    · split
      · split <;> exact h1
      · exact h1
    · split
      · exact h1
      · split <;> rename_i e2 <;> exact keeps_of_fst e2 (State.hostPage_keeps h1)

theorem State.runEnded_keeps {a s : State} {c e d : Nat} (h : Keeps a s) : Keeps a (State.runEnded s c e d) := by
  unfold State.runEnded
  extract_lets +onlyGivenNames -underBinder x1 x2 x3 x4
  have hx4 : Keeps a x4 := State.setDesc_keeps ‹_›
  clear_value x4 x3 x2 x1
  exact State.completeOpt_keeps ‹_›

theorem State.elemDone_keeps {a s : State} {c e d elem : Nat} (h : Keeps a s) : Keeps a (State.elemDone s c e d elem) := by
  unfold State.elemDone
  extract_lets +onlyGivenNames -underBinder x1
  clear_value x1
  extract_lets +onlyGivenNames -underBinder x2
  clear_value x2
  extract_lets +onlyGivenNames -underBinder x3
  clear_value x3
  refine keeps_ite ?_ (State.setDesc_keeps ‹_›)
  extract_lets +onlyGivenNames -underBinder x4
  clear_value x4
  extract_lets +onlyGivenNames -underBinder x5
  clear_value x5
  extract_lets +onlyGivenNames -underBinder x6
  have hx6 : Keeps a x6 := State.setDesc_keeps ‹_›
  clear_value x6
  exact keeps_ite (keeps_ite (State.runEnded_keeps ‹_›) (State.updDesc_keeps ‹_›)) ‹_›

theorem State.reachElem_keeps {a s : State} {c : ℕ} {e : ℕ} {d : ℕ} {i : CtxId} {host : Bool} {dpas : List ℕ} (h : Keeps a s) : Keeps a
    (State.reachElem s c e d i host dpas).1 := by
  unfold State.reachElem
  split
  · exact State.reachAll_keeps (keeps_of_fst (by assumption) (keeps_ite_fst (State.reachNode_keeps ‹_›) ‹_›))
  · exact keeps_ite_fst (State.reachNode_keeps ‹_›) ‹_›

theorem State.unreached_keeps {a s : State} {c : ℕ} {e : ℕ} {d : ℕ} {st : ℕ} (h : Keeps a s) : Keeps a (State.unreached s c e d st) := by
  unfold State.unreached
  exact State.partialEnds_keeps (State.stopDesc_keeps (State.updDesc_keeps ‹_›))

theorem stepElementComplete_keeps {a s : State} {c : Fin 16} {e : Fin 4} {d : Fin 16} {elem : ℕ} {rivals : List (Fin 64 × Fin 276)} (h :
    Keeps a s) : Keeps a (stepElementComplete c e d elem rivals s) := by
  unfold stepElementComplete
  extract_lets +onlyGivenNames -underBinder x1
  clear_value x1
  extract_lets +onlyGivenNames -underBinder x2
  clear_value x2
  split
  · assumption
  · extract_lets +onlyGivenNames -underBinder x3
    clear_value x3
    extract_lets +onlyGivenNames -underBinder x4
    clear_value x4
    refine keeps_ite ‹_› (keeps_ite ‹_› (keeps_ite ‹_› ?_))
    split
    · extract_lets +onlyGivenNames -underBinder x5
      clear_value x5
      extract_lets +onlyGivenNames -underBinder x6
      have hx6 : Keeps a x6 := State.updDescX_keeps (keeps_of_fst (by assumption) (State.reachElem_keeps ‹_›))
      clear_value x6
      extract_lets +onlyGivenNames -underBinder x7
      extract_lets +onlyGivenNames -underBinder x8
      have hx8 : Keeps a x8 := State.performParts_keeps (State.engineWon_keeps ‹_›)
      clear_value x8
      exact keeps_ite (State.stopDesc_keeps (State.updDesc_keeps ‹_›)) (keeps_ite (State.updDesc_keeps ‹_›) (State.elemDone_keeps ‹_›))
    · extract_lets +onlyGivenNames -underBinder x9
      have hx9 : Keeps a x9 := State.updDescX_keeps (keeps_of_fst (by assumption) (State.reachElem_keeps ‹_›))
      clear_value x9
      extract_lets +onlyGivenNames -underBinder x10
      have hx10 : Keeps a x10 := State.updDesc_keeps ‹_›
      clear_value x10
      exact keeps_ite ‹_› (State.unreached_keeps ‹_›)

theorem stepResumeRecordWrite_keeps {a : State} {c : Fin 16} {e : Fin 4} {d : Fin 16} {s : State} (h : Keeps a s) : Keeps a
    (stepResumeRecordWrite c e d s) := by
  unfold stepResumeRecordWrite
  extract_lets +onlyGivenNames -underBinder x1 x2
  clear_value x2 x1
  split
  · assumption
  · refine keeps_ite ‹_› ?_
    extract_lets +onlyGivenNames -underBinder x3 x4
    clear_value x4 x3
    refine keeps_ite ‹_› ?_
    extract_lets +onlyGivenNames -underBinder x5 x6 x7 x8 x9 x10 x11 x12 x13 x14 x15 x16
    have hx16 : Keeps a x16 := State.setDesc_keeps ‹_›
    clear_value x16 x15 x14 x13 x12 x11 x10 x9 x8 x7 x6 x5
    extract_lets +onlyGivenNames -underBinder x17
    have hx17 : Keeps a x17 := State.updDescX_keeps ‹_›
    clear_value x17
    extract_lets +onlyGivenNames -underBinder y19 x18
    have hx18 : Keeps a x18 := State.raise_keeps ‹_›
    clear_value x18 y19
    exact keeps_ite (State.sendPrg_keeps ‹_›) ‹_›

theorem State.failElem_keeps {a s : State} {c e d : Nat} {i : CtxId} {x : Desc} {elem : Nat} {p : Pieces} (h : Keeps a s) :
    Keeps a (State.failElem s c e d i x elem p) := by
  unfold State.failElem
  refine keeps_ite ‹_› ?_
  split
  · exact State.fatalXlat_keeps ‹_›
  · exact State.partialEnds_keeps (State.stopDesc_keeps (State.updDesc_keeps ‹_›))
  · assumption

theorem State.readCounts_keeps {a s : State} {c : ℕ} {e : ℕ} {d : ℕ} {i : CtxId} {count : Bool} (h : Keeps a s) : Keeps a
    (State.readCounts s c e d i count) := by
  unfold State.readCounts
  extract_lets +onlyGivenNames -underBinder x1
  clear_value x1
  split
  · assumption
  · refine keeps_ite (State.partialEnds_keeps (State.stopDesc_keeps (State.updDesc_keeps ‹_›))) ?_
    split
    · exact keeps_ite (State.fatalXlat_keeps (keeps_of_fst (by assumption) (State.readVa_keeps ‹_›))) (keeps_ite (State.partialEnds_keeps
        (State.stopDesc_keeps (State.updDesc_keeps (keeps_of_fst (by assumption) (State.readVa_keeps ‹_›))))) (State.stopDesc_keeps
        (keeps_of_fst (by assumption) (State.readVa_keeps ‹_›))))
    · extract_lets +onlyGivenNames -underBinder x2
      clear_value x2
      extract_lets +onlyGivenNames -underBinder x3
      have hx3 : Keeps a x3 := State.updDesc_keeps (keeps_of_fst (by assumption) (State.readVa_keeps ‹_›))
      clear_value x3
      extract_lets +onlyGivenNames -underBinder x4
      clear_value x4
      exact keeps_ite ‹_› (State.updBatX_keeps ‹_›)

theorem State.rearm_keeps {a s : State} {c e d : Nat} {r : CmdRef} (h : Keeps a s) : Keeps a (State.rearm s c e d r) := by
  unfold State.rearm
  extract_lets +onlyGivenNames -underBinder x1
  clear_value x1
  extract_lets +onlyGivenNames -underBinder x2
  have hx2 : Keeps a x2 := State.updDesc_keeps ‹_›
  clear_value x2
  extract_lets +onlyGivenNames -underBinder x3
  have hx3 : Keeps a x3 := State.updDescX_keeps ‹_›
  clear_value x3
  exact State.readCounts_keeps ‹_›

theorem State.activate_keeps {a s : State} {c e d : Nat} {r : CmdRef} {m : BitVec 1536} {rec_ : Option (BitVec 1024)} (h : Keeps a s) :
    Keeps a (State.activate s c e d r m rec_) := by
  unfold State.activate
  extract_lets +onlyGivenNames -underBinder x1
  clear_value x1
  extract_lets +onlyGivenNames -underBinder x2
  clear_value x2
  extract_lets +onlyGivenNames -underBinder x3
  clear_value x3
  extract_lets +onlyGivenNames -underBinder x4
  clear_value x4
  extract_lets +onlyGivenNames -underBinder x5
  clear_value x5
  extract_lets +onlyGivenNames -underBinder x6
  clear_value x6
  extract_lets +onlyGivenNames -underBinder x7
  clear_value x7
  extract_lets +onlyGivenNames -underBinder x8
  clear_value x8
  extract_lets +onlyGivenNames -underBinder x9
  have hx9 : Keeps a x9 := State.setDesc_keeps ‹_›
  clear_value x9
  extract_lets +onlyGivenNames -underBinder x10
  have hx10 : Keeps a x10 := State.updDescX_keeps ‹_›
  clear_value x10
  exact State.readCounts_keeps ‹_›

theorem State.lostElem_keeps {a s : State} {c : ℕ} {e : ℕ} {d : ℕ} {x : Desc} {elem : ℕ} (h : Keeps a s) : Keeps a (State.lostElem s c e
    d x elem) := by
  unfold State.lostElem
  exact keeps_ite (State.stopDesc_keeps ‹_›) ‹_›

theorem State.deliver_keeps {a s : State} {c : ℕ} {e : ℕ} {d : ℕ} {i : CtxId} {x : Desc} {elem : ℕ} {info : ElemInfo} {v : Option (Tbl
    ℕ)} {src : List Piece} {rivals : List (Fin 64 × Fin 276)} (h : Keeps a s) : Keeps a (State.deliver s c e d i x elem info v src
    rivals) := by
  unfold State.deliver
  extract_lets +onlyGivenNames -underBinder x1
  clear_value x1
  refine keeps_ite (State.lostElem_keeps ‹_›) (keeps_ite ‹_› ?_)
  split
  · extract_lets +onlyGivenNames -underBinder x2
    refine keeps_ite ?_ ?_
    · unfold x2
      split
      · extract_lets +onlyGivenNames -underBinder x3
        clear_value x3
        split
        · exact State.issueElem_keeps (keeps_of_fst (by assumption) (State.fetch_keeps (State.cacheRead_keeps (State.engineWon_keeps
            (keeps_of_fst (by assumption) (State.reachElem_keeps ‹_›))))))
        · extract_lets +onlyGivenNames -underBinder x4
          clear_value x4
          exact State.issueElem_keeps (keeps_of_fst (by assumption) (State.fetch_keeps (State.cacheRead_keeps (State.engineWon_keeps
              (keeps_of_fst (by assumption) (State.reachElem_keeps ‹_›))))))
    · extract_lets +onlyGivenNames -underBinder x5
      clear_value x5
      refine keeps_ite (State.failElem_keeps (keeps_of_fst (by assumption) (State.reachElem_keeps ‹_›))) ?_
      split
      · refine keeps_ite (keeps_of_fst (by assumption) (State.pieces_keeps (keeps_of_fst (by assumption) (State.reachElem_keeps ‹_›)))) ?_
        unfold x2
        split
        · extract_lets +onlyGivenNames -underBinder x6
          clear_value x6
          split
          · exact State.issueElem_keeps (keeps_of_fst (by assumption) (State.fetch_keeps (State.cacheRead_keeps (State.engineWon_keeps
              (keeps_of_fst (by assumption) (State.pieces_keeps (keeps_of_fst (by assumption) (State.reachElem_keeps ‹_›))))))))
          · extract_lets +onlyGivenNames -underBinder x7
            clear_value x7
            exact State.issueElem_keeps (keeps_of_fst (by assumption) (State.fetch_keeps (State.cacheRead_keeps (State.engineWon_keeps
                (keeps_of_fst (by assumption) (State.pieces_keeps (keeps_of_fst (by assumption) (State.reachElem_keeps ‹_›))))))))
      · exact keeps_of_fst (by assumption) (State.pieces_keeps (keeps_of_fst (by assumption) (State.reachElem_keeps ‹_›)))
      · exact State.failElem_keeps (keeps_of_fst (by assumption) (State.pieces_keeps (keeps_of_fst (by assumption) (State.reachElem_keeps
          ‹_›))))
  · exact State.unreached_keeps (keeps_of_fst (by assumption) (State.reachElem_keeps ‹_›))

theorem State.enterActive_keeps {a s : State} {c e d kind : Nat} {r : Option CmdRef} {m : BitVec 1536} {rec_ : Option (BitVec 1024)}
    (h : Keeps a s) : Keeps a (State.enterActive s c e d kind r m rec_) := by
  unfold State.enterActive
  refine keeps_ite ?_ ?_
  · split
    · exact State.activate_keeps ‹_›
    · exact State.rearm_keeps ‹_›
    · exact State.resumeDesc_keeps ‹_›
  · extract_lets +onlyGivenNames -underBinder x1
    have hx1 : Keeps a x1 := State.updDescX_keeps ‹_›
    clear_value x1
    exact State.updCl_keeps ‹_› (fun _ hx => hx)

theorem stepElementTranslated_keeps {a s : State} {c : Fin 16} {e : Fin 4} {d : Fin 16} {elem : ℕ} {rivals : List (Fin 64 × Fin 276)} (h
    : Keeps a s) : Keeps a (stepElementTranslated c e d elem rivals s) := by
  unfold stepElementTranslated
  extract_lets +onlyGivenNames -underBinder x1
  clear_value x1
  split
  · assumption
  · refine keeps_ite ‹_› ?_
    extract_lets +onlyGivenNames -underBinder x2
    have hx2 : Keeps a x2 := keeps_ite (State.updCl_keeps (State.updDesc_keeps ‹_›) (fun _ hx => hx)) ‹_›
    clear_value x2
    split
    · exact State.deliver_keeps ‹_›
    · extract_lets +onlyGivenNames -underBinder x3
      clear_value x3
      extract_lets +onlyGivenNames -underBinder x4
      clear_value x4
      refine keeps_ite (State.deliver_keeps ‹_›) ?_
      extract_lets +onlyGivenNames -underBinder x5
      clear_value x5
      extract_lets +onlyGivenNames -underBinder x6
      clear_value x6
      refine keeps_ite (State.failElem_keeps ‹_›) (keeps_ite ?_ ?_)
      · extract_lets +onlyGivenNames -underBinder x7
        clear_value x7
        extract_lets +onlyGivenNames -underBinder x8
        clear_value x8
        exact keeps_ite (State.failElem_keeps ‹_›) (State.deliver_keeps ‹_›)
      · split
        · exact State.deliver_keeps (keeps_of_fst (by assumption) (State.pieces_keeps ‹_›))
        · exact keeps_of_fst (by assumption) (State.pieces_keeps ‹_›)
        · exact State.failElem_keeps (keeps_of_fst (by assumption) (State.pieces_keeps ‹_›))

theorem stepEngineSlotGrant_keeps {a : State} {c : Fin 16} {e : Fin 4} {s : State} (h : Keeps a s) : Keeps a (stepEngineSlotGrant c e s)
    := by
  unfold stepEngineSlotGrant
  refine keeps_ite ‹_› ?_
  split
  · assumption
  · extract_lets +onlyGivenNames -underBinder x1
    have hx1 : Keeps a x1 := State.updCl_keeps ‹_› (fun _ hx => hx)
    clear_value x1
    extract_lets +onlyGivenNames -underBinder x2
    have hx2 : Keeps a x2 := State.updDescX_keeps ‹_›
    clear_value x2
    split
    · exact State.activate_keeps ‹_›
    · exact State.rearm_keeps ‹_›
    · exact State.resumeDesc_keeps ‹_›

theorem stepStream_keeps {a : State} {p : Fin 16} {k : Fin 64} {s : State} (h : Keeps a s) : Keeps a (stepStream p k s) := by
  unfold stepStream
  split
  · assumption
  · extract_lets +onlyGivenNames -underBinder x1 x2 x3 x4
    clear_value x4 x3 x2 x1
    refine keeps_ite ‹_› ?_
    extract_lets +onlyGivenNames -underBinder x5
    have hx5 : Keeps a x5 := State.startCmd_keeps ‹_›
    clear_value x5
    refine keeps_ite (State.complete_keeps ‹_›) ?_
    refine keeps_ite (State.complete_keeps ‹_›) ?_
    extract_lets +onlyGivenNames -underBinder x6
    clear_value x6
    exact keeps_ite (State.complete_keeps ‹_›) (keeps_ite (State.complete_keeps ‹_›) (State.enterActive_keeps ‹_›))

theorem stepStreamRearm_keeps {a : State} {p : Fin 16} {k : Fin 64} {s : State} (h : Keeps a s) : Keeps a (stepStreamRearm p k s) := by
  unfold stepStreamRearm
  split
  · assumption
  · extract_lets +onlyGivenNames -underBinder x1 x2 x3
    clear_value x3 x2 x1
    refine keeps_ite ‹_› ?_
    extract_lets +onlyGivenNames -underBinder x4
    have hx4 : Keeps a x4 := State.startCmd_keeps ‹_›
    clear_value x4
    extract_lets +onlyGivenNames -underBinder x5 x6
    clear_value x6 x5
    exact keeps_ite (State.complete_keeps ‹_›) (keeps_ite (State.complete_keeps ‹_›) (keeps_ite (State.complete_keeps ‹_›)
        (State.enterActive_keeps ‹_›)))

theorem stepStreamResume_keeps {a : State} {fn : Fn} {p : Fin 16} {val : Dword} {s : State} (h : Keeps a s) :
    Keeps a (stepStreamResume fn p val s) := by
  unfold stepStreamResume
  refine State.gateP_keeps ‹_› ?_
  intro z1 hz2
  extract_lets +onlyGivenNames -underBinder x3
  clear_value x3
  extract_lets +onlyGivenNames -underBinder x4
  clear_value x4
  extract_lets +onlyGivenNames -underBinder x5
  clear_value x5
  extract_lets +onlyGivenNames -underBinder x6
  have hx6 : Keeps a x6 := State.updPart_keeps ‹_›
  clear_value x6
  refine keeps_ite ‹_› ?_
  extract_lets +onlyGivenNames -underBinder x7
  clear_value x7
  extract_lets +onlyGivenNames -underBinder x8
  clear_value x8
  extract_lets +onlyGivenNames -underBinder x9
  clear_value x9
  extract_lets +onlyGivenNames -underBinder x10
  have hx10 : Keeps a x10 := State.updPart_keeps ‹_›
  clear_value x10
  exact keeps_ite (State.enterActive_keeps ‹_›) ‹_›

/-! Xlat. -/

theorem State.dropReq_keeps {a s : State} {port : Nat} {r : HostReq} (h : Keeps a s) : Keeps a (State.dropReq s port r) := by
  unfold State.dropReq
  exact State.updPort_keeps ‹_›

theorem State.endWalk_keeps {a s : State} {c id : Nat} (h : Keeps a s) : Keeps a (State.endWalk s c id) := by
  unfold State.endWalk
  exact State.updCl_keeps ‹_› (fun _ hx => hx)

theorem State.hostFault_keeps {a s : State} {r : HostReq} {late : Bool} (h : Keeps a s) : Keeps a (State.hostFault s r late) := by
  unfold State.hostFault
  split
  · extract_lets +onlyGivenNames -underBinder x1
    clear_value x1
    exact keeps_ite (State.updDescX_keeps ‹_›) ‹_›
  · exact keeps_ite (State.updCtx_keeps (State.updQueue_keeps ‹_›)) (State.sendPrg_keeps (State.updQueue_keeps ‹_›))
  · assumption

theorem State.prgFailed_keeps {a s : State} {r : HostReq} {status : Nat} (h : Keeps a s) : Keeps a (State.prgFailed s r status) := by
  unfold State.prgFailed
  split
  · extract_lets +onlyGivenNames -underBinder x1
    clear_value x1
    exact keeps_ite (State.updDescX_keeps (State.updDesc_keeps ‹_›)) ‹_›
  · exact State.updCtx_keeps (State.updQueue_keeps ‹_›)
  · assumption

theorem State.tlbAdd_keeps {a s : State} {c : Nat} {i : CtxId} {va level leaf : Nat} (h : Keeps a s) : Keeps a
    (State.tlbAdd s c i va level leaf) := by
  unfold State.tlbAdd
  extract_lets +onlyGivenNames -underBinder x1 x2
  clear_value x2 x1
  exact State.updCl_keeps ‹_› (fun _ hx => hx)

theorem State.updWalk_keeps {a s : State} {c id : Nat} {f : Walk → Walk} (h : Keeps a s) : Keeps a (State.updWalk s c id f) := by
  unfold State.updWalk
  exact State.updCl_keeps ‹_› (fun _ hx => hx)

theorem stepAtsInvalidateCompletion_keeps {a : State} {port : Fin 4} {idx : Nat} {s : State} (h : Keeps a s) : Keeps a
    (stepAtsInvalidateCompletion port idx s) := by
  unfold stepAtsInvalidateCompletion
  split
  · assumption
  · exact keeps_ite ‹_› (State.emit_keeps (State.updPort_keeps ‹_›))

theorem stepAtsInvalidateRequest_keeps {a : State} {port : Fin 4} {pasid va len : Nat} {s : State} (h : Keeps a s) :
    Keeps a (stepAtsInvalidateRequest port pasid va len s) := by
  unfold stepAtsInvalidateRequest
  exact keeps_ite ‹_› (State.updPort_keeps ‹_›)

theorem stepAtsTranslationCompletion_keeps {a : State} {port : Fin 4} {idx : Nat} {res : AtsResult} {s : State} (h : Keeps a s) : Keeps a
    (stepAtsTranslationCompletion port idx res s) := by
  unfold stepAtsTranslationCompletion
  split
  · assumption
  · extract_lets +onlyGivenNames -underBinder x1
    have hx1 : Keeps a x1 := State.dropReq_keeps ‹_›
    clear_value x1
    refine keeps_ite ‹_› ?_
    split
    · refine keeps_ite (State.hostFault_keeps ‹_›) ?_
      extract_lets +onlyGivenNames -underBinder x2
      clear_value x2
      exact State.updPort_keeps ‹_›
    · exact State.hostFault_keeps ‹_›

theorem stepPrgIndexGrant_keeps {a : State} {port : Fin 4} {s : State} (h : Keeps a s) : Keeps a (stepPrgIndexGrant port s) := by
  unfold stepPrgIndexGrant
  extract_lets +onlyGivenNames -underBinder x1
  clear_value x1
  split
  · exact keeps_ite (State.dropReq_keeps ‹_›) (State.emit_keeps (State.updPort_keeps ‹_›))
  · assumption

theorem stepPrgTimeout_keeps {a : State} {port : Fin 4} {idx : Nat} {s : State} (h : Keeps a s) : Keeps a (stepPrgTimeout port idx s) := by
  unfold stepPrgTimeout
  split
  · assumption
  · extract_lets +onlyGivenNames -underBinder x1
    have hx1 : Keeps a x1 := State.dropReq_keeps ‹_›
    clear_value x1
    exact keeps_ite ‹_› (State.prgFailed_keeps ‹_›)

theorem stepTranslationCompletionTimeout_keeps {a : State} {port : Fin 4} {idx : Nat} {s : State} (h : Keeps a s) : Keeps a
    (stepTranslationCompletionTimeout port idx s) := by
  unfold stepTranslationCompletionTimeout
  split
  · assumption
  · extract_lets +onlyGivenNames -underBinder x1
    have hx1 : Keeps a x1 := State.dropReq_keeps ‹_›
    clear_value x1
    exact keeps_ite ‹_› (State.hostFault_keeps ‹_›)

theorem stepXlatInvalidateComplete_keeps {a : State} {p : Fin 16} {s : State} (h : Keeps a s) : Keeps a (stepXlatInvalidateComplete p s)
    := by
  unfold stepXlatInvalidateComplete
  extract_lets +onlyGivenNames -underBinder x1
  clear_value x1
  split
  · refine keeps_ite ‹_› ?_
    extract_lets +onlyGivenNames -underBinder x2
    have hx2 : Keeps a x2 := State.updPart_keeps ‹_›
    clear_value x2
    exact Keeps.tmap ‹_› (fun _ _ => rfl)

theorem stepXlatInvalidate_keeps {a : State} {fn : Fn} {p : Fin 16} {val : Dword} {s : State} (h : Keeps a s) : Keeps a 
    (stepXlatInvalidate fn p val s) := by
  unfold stepXlatInvalidate
  refine State.gateP_keeps ‹_› ?_
  intro z1 hz2
  extract_lets +onlyGivenNames -underBinder x3
  clear_value x3
  extract_lets +onlyGivenNames -underBinder x4
  have hx4 : Keeps a x4 := State.updPart_keeps ‹_›
  clear_value x4
  refine keeps_ite ‹_› ?_
  extract_lets +onlyGivenNames -underBinder x5
  clear_value x5
  extract_lets +onlyGivenNames -underBinder x6
  have hx6 : Keeps a x6 := State.updPart_keeps ‹_›
  clear_value x6
  exact Keeps.tmap ‹_› (fun _ _ => rfl)

theorem stepPrgResponse_keeps {a s : State} {port : Fin 4} {idx : ℕ} {pasid : Option ℕ} {code : PrgCode} (h : Keeps a s) : Keeps a
    (stepPrgResponse port idx pasid code s) := by
  unfold stepPrgResponse
  split
  · assumption
  · extract_lets +onlyGivenNames -underBinder x1
    have hx1 : Keeps a x1 := State.dropReq_keeps ‹_›
    clear_value x1
    refine keeps_ite ‹_› ?_
    split
    · extract_lets +onlyGivenNames -underBinder x2
      have hx2 : Keeps a x2 := State.atcDrop_keeps ‹_›
      clear_value x2
      split
      · extract_lets +onlyGivenNames -underBinder x3
        clear_value x3
        extract_lets +onlyGivenNames -underBinder x4
        clear_value x4
        refine keeps_ite ?_ ‹_›
        extract_lets +onlyGivenNames -underBinder x5
        clear_value x5
        extract_lets +onlyGivenNames -underBinder x6
        have hx6 : Keeps a x6 := State.updDescX_keeps ‹_›
        clear_value x6
        exact State.enterActive_keeps ‹_›
      · exact State.updQueue_keeps ‹_›
      · assumption
    · exact State.prgFailed_keeps ‹_›

theorem State.xFail_keeps {a s : State} {c : Nat} {agent : XAgent} {i : CtxId} {status va : Nat} (h : Keeps a s) :
    Keeps a (State.xFail s c agent i status va) := by
  unfold State.xFail
  extract_lets +onlyGivenNames -underBinder x1
  clear_value x1
  split
  · exact State.fatalXlat_keeps ‹_›
  · extract_lets +onlyGivenNames -underBinder x2
    have hx2 : Keeps a x2 := keeps_ite (State.pumpBat_keeps (State.failArm_keeps ‹_›)) ‹_›
    clear_value x2
    exact keeps_ite (State.fatalXlat_keeps ‹_›) ‹_›
  · exact State.fatalXlat_keeps ‹_›
  · exact State.fatalXlat_keeps ‹_›
  · exact State.fatalXlat_keeps ‹_›
  · assumption
  · assumption

theorem stepZeroFill_keeps {a : State} {c : Fin 16} {walk : Nat} {s : State} (h : Keeps a s) : Keeps a (stepZeroFill c walk s) := by
  unfold stepZeroFill
  split
  · assumption
  · split
    · refine keeps_ite (State.endWalk_keeps ‹_›) (keeps_ite (State.xFail_keeps (State.endWalk_keeps ‹_›)) ?_)
      split
      · exact State.tlbAdd_keeps (State.endWalk_keeps (State.takeFrame_keeps ‹_›))
      · exact State.tlbAdd_keeps (State.endWalk_keeps ‹_›)
      · exact State.xFail_keeps (State.endWalk_keeps ‹_›)
    · assumption

theorem State.leafFound_keeps {a s : State} {c : Nat} {w : Walk} {leaf : Nat} (h : Keeps a s) : Keeps a (State.leafFound s c w leaf) := by
  unfold State.leafFound
  split
  · exact State.xFail_keeps (State.endWalk_keeps ‹_›)
  · exact State.tlbAdd_keeps (State.endWalk_keeps ‹_›)
  · split
    · exact State.xFail_keeps (State.endWalk_keeps ‹_›)
    · split
      · exact State.tlbAdd_keeps (State.endWalk_keeps ‹_›)
      · exact State.updWalk_keeps ‹_›
      · exact State.xFail_keeps (State.endWalk_keeps ‹_›)

theorem stepTableRead_keeps {a : State} {c : Fin 16} {walk : Nat} {s : State} (h : Keeps a s) : Keeps a (stepTableRead c walk s) := by
  unfold stepTableRead
  split
  · assumption
  · extract_lets +onlyGivenNames -underBinder x1
    clear_value x1
    refine keeps_ite ‹_› (keeps_ite (State.endWalk_keeps ‹_›) (keeps_ite (State.xFail_keeps (State.endWalk_keeps ‹_›)) (keeps_ite
        (keeps_ite ‹_› (State.updWalk_keeps ‹_›)) (keeps_ite (State.xFail_keeps (State.endWalk_keeps ‹_›)) ?_))))
    extract_lets +onlyGivenNames -underBinder x2
    clear_value x2
    refine keeps_ite (State.xFail_keeps (State.endWalk_keeps ‹_›)) ?_
    extract_lets +onlyGivenNames -underBinder x3
    clear_value x3
    exact keeps_ite (State.leafFound_keeps ‹_›) (keeps_ite (State.xFail_keeps (State.endWalk_keeps ‹_›)) (State.updWalk_keeps ‹_›))

theorem stepTranslationRequest_keeps {a : State} {c : Fin 16} {agent : XAgent} {p : Fin 16} {k : Fin 64} {va : Nat} {write : Bool}
    {s : State} (h : Keeps a s) : Keeps a (stepTranslationRequest c agent p k va write s) := by
  unfold stepTranslationRequest
  extract_lets +onlyGivenNames -underBinder x1 x2
  clear_value x2 x1
  refine keeps_ite ‹_› ?_
  refine keeps_ite (State.xFail_keeps ‹_›) ?_
  refine keeps_ite (State.xFail_keeps ‹_›) ?_
  extract_lets +onlyGivenNames -underBinder x3 x4
  have hx4 : Keeps a x4 := State.updCl_keeps ‹_› (fun _ hx => hx)
  clear_value x4 x3
  split
  · exact State.leafFound_keeps ‹_›
  · assumption

end Sys2Proof.Machine
end

