-- ==== Sys2Proof/Laws/KeepsMsg.lean ====
section
/-! SUPPORT. What every operation keeps, for the channels, the mesh, the carillon and the command queues. -/
namespace Sys2Proof.Machine

/-! Msg. -/

theorem State.addElems_keeps {a s : State} {tgt : List (ℕ × ℕ)} {fp : Bool} {first : ℕ} {data : List (Option Word)} (h : Keeps a s) :
    Keeps a (State.addElems s tgt fp first data) := by
  unfold State.addElems
  refine State.each_keeps ‹_› ?_
  intro z1 z2 hz3
  split
  · refine keeps_ite (State.lostNotice_keeps ‹_›) ?_
    extract_lets +onlyGivenNames -underBinder x4
    clear_value x4
    exact State.store_keeps ‹_›
  · assumption

theorem State.armComb_keeps {a s : State} {c q : Nat} {i : Option CtxId} (h : Keeps a s) : Keeps a (State.armComb s c q i).1 := by
  unfold State.armComb
  extract_lets +onlyGivenNames -underBinder x1
  clear_value x1
  exact keeps_ite_fst (keeps_pair ‹_›) (keeps_ite_fst (keeps_pair ‹_›) (keeps_pair (State.updComb_keeps ‹_›)))

theorem State.endRound_keeps {a s : State} {c q : Nat} (h : Keeps a s) : Keeps a (State.endRound s c q) := by
  unfold State.endRound
  extract_lets +onlyGivenNames -underBinder x1 x2 x3 x4 x5 x6
  have hx6 : Keeps a x6 := State.updComb_keeps ‹_›
  clear_value x6 x5 x4 x3 x2 x1
  exact State.inject_keeps ‹_›

theorem State.freeSlot_keeps {a s : State} {ta n mark : Nat} (h : Keeps a s) : Keeps a (State.freeSlot s ta n mark) := by
  unfold State.freeSlot
  exact State.updChannel_keeps ‹_›

theorem State.openChan_keeps {a s : State} {ta n : Nat} {i : CtxId} {v : Dword} (h : Keeps a s) : Keeps a (State.openChan s ta n i v).1
    := by
  unfold State.openChan
  extract_lets +onlyGivenNames -underBinder x1 x2 x3 x4
  have hx4 : ∀ (y5 : Sys2Proof.Machine.State) (y6 : ℕ), Keeps a y5 → Keeps a (x4 y5 y6) := by
    intro y5 y6 hy5
    unfold x4
    refine State.updChannel_keeps ?_
    assumption
  clear_value x4 x3 x2 x1
  refine keeps_ite_fst ?_ ?_
  · extract_lets +onlyGivenNames -underBinder x7
    clear_value x7
    exact keeps_ite_fst (keeps_pair ‹_›) (keeps_pair (hx4 _ _ ‹_›))
  · extract_lets +onlyGivenNames -underBinder x8
    clear_value x8
    exact keeps_ite_fst (keeps_pair ‹_›) (keeps_ite_fst (keeps_pair ‹_›) (keeps_pair (hx4 _ _ (State.updRxq_keeps ‹_›))))

theorem State.refusePacket_keeps {a s : State} {p : Packet} {status : Nat} (h : Keeps a s) : Keeps a (State.refusePacket s p status) := by
  unfold State.refusePacket
  extract_lets +onlyGivenNames -underBinder x1
  have hx1 : Keeps a x1 := State.dropPacket_keeps ‹_›
  clear_value x1
  extract_lets +onlyGivenNames -underBinder x2
  have hx2 : Keeps a x2 := keeps_ite (State.countGone_keeps ‹_›) ‹_›
  clear_value x2
  exact State.sendBack_keeps ‹_›

theorem State.injectPart_keeps {a s : State} {group : ℕ} {p : Packet} (h : Keeps a s) : Keeps a (State.injectPart s group p) := by
  unfold State.injectPart
  exact Keeps.of_eq (s := s) ‹_› rfl rfl rfl rfl rfl

theorem State.injectAll_keeps {a s : State} {p : Packet} {d : ℕ} {data : List Byte} (h : Keeps a s) : Keeps a (State.injectAll s p d
    data) := by
  unfold State.injectAll
  extract_lets +onlyGivenNames -underBinder x1
  clear_value x1
  refine State.each_keeps ‹_› ?_
  intro z2 z3 hz4
  extract_lets +onlyGivenNames -underBinder x5
  clear_value x5
  exact State.injectPart_keeps ‹_›

theorem State.sendOn_keeps {a s : State} {ta n : Nat} {i : CtxId} {p : Nat} {data : List Byte} (h : Keeps a s) :
    Keeps a (State.sendOn s ta n i p data) := by
  unfold State.sendOn
  extract_lets +onlyGivenNames -underBinder x1
  clear_value x1
  extract_lets +onlyGivenNames -underBinder x2
  clear_value x2
  extract_lets +onlyGivenNames -underBinder x3
  have hx3 : Keeps a x3 := State.updChannel_keeps ‹_›
  clear_value x3
  refine keeps_ite ?_ ?_
  · extract_lets +onlyGivenNames -underBinder x4
    clear_value x4
    extract_lets +onlyGivenNames -underBinder x5
    have hx5 : Keeps a x5 := State.updChannel_keeps (State.drew_keeps ‹_›)
    clear_value x5
    exact Keeps.of_eq (s := x5) ‹_› rfl rfl rfl rfl rfl
  · extract_lets +onlyGivenNames -underBinder x6
    clear_value x6
    extract_lets +onlyGivenNames -underBinder x7
    have hx7 : Keeps a x7 := State.updChannel_keeps ‹_›
    clear_value x7
    extract_lets +onlyGivenNames -underBinder x8
    clear_value x8
    extract_lets +onlyGivenNames -underBinder x9
    clear_value x9
    exact keeps_ite (State.inject_keeps ‹_›) (State.injectAll_keeps ‹_›)

theorem State.writePieces_keeps {a s : State} {l : List (Nat × Nat)} {bs : List Byte} (h : Keeps a s) : Keeps a (s.writePieces l bs) := by
  induction l generalizing s bs with
  | nil => exact h
  | cons p rest ih => exact ih (State.storeRange_keeps h)

theorem stepAcknowledgement_keeps {a : State} {id : Nat} {s : State} (h : Keeps a s) : Keeps a (stepAcknowledgement id s) := by
  unfold stepAcknowledgement
  split
  · assumption
  · extract_lets +onlyGivenNames -underBinder x1 x2 x3 x4
    have hx4 : Keeps a x4 := State.dropPacket_keeps ‹_›
    clear_value x4 x3 x2 x1
    exact keeps_ite ‹_› (keeps_ite (State.freeSlot_keeps ‹_›) (Keeps.of_eq (s := x4) ‹_› rfl rfl rfl rfl rfl))

theorem State.refuseGroup_keeps {a s : State} {p : Packet} {status : ℕ} (h : Keeps a s) : Keeps a (State.refuseGroup s p status) := by
  unfold State.refuseGroup
  exact State.refusePacket_keeps (State.dropGroup_keeps ‹_›)

theorem stepPutPerformed_keeps {a : State} {id : Nat} {s : State} (h : Keeps a s) : Keeps a (stepPutPerformed id s) := by
  unfold stepPutPerformed
  split
  · assumption
  · extract_lets +onlyGivenNames -underBinder x1
    clear_value x1
    extract_lets +onlyGivenNames -underBinder x2
    clear_value x2
    split
    · exact State.refuseGroup_keeps ‹_›
    · refine keeps_ite ‹_› ?_
      split
      · exact State.refuseGroup_keeps ‹_›
      · exact State.updRxq_keeps (State.dropGroup_keeps ‹_›)

theorem stepQcount_keeps {a : State} {t : TileId} {th : Fin 4} {q : Fin 16} {sD : Fin 32} {s : State} (h : Keeps a s) : Keeps a
    (stepQcount t th q sD s) := by
  unfold stepQcount
  extract_lets +onlyGivenNames -underBinder x1
  clear_value x1
  split
  · assumption
  · extract_lets +onlyGivenNames -underBinder x2 x3
    clear_value x3 x2
    exact State.issueReg_keeps ‹_›

theorem State.stagedLost_keeps {a s : State} {x : CombQueue} (h : Keeps a s) : Keeps a (State.stagedLost s x) := by
  unfold State.stagedLost
  exact State.each_keeps ‹_› (fun _ _ _ => State.lostNotice_keeps ‹_›)

theorem stepStrictSummationDone_keeps {a : State} {c : Fin 16} {q : Fin 32} {s : State} (h : Keeps a s) :
    Keeps a (stepStrictSummationDone c q s) := by
  unfold stepStrictSummationDone
  extract_lets +onlyGivenNames -underBinder x1
  clear_value x1
  exact keeps_ite ‹_› (State.endRound_keeps (State.each_keeps (State.stagedLost_keeps ‹_›) (fun _ _ _ => State.addElems_keeps ‹_›)))

theorem State.mapScratch_keeps {a s : State} {c : Nat} {i : CtxId} {fuel va n : Nat} (h : Keeps a s) :
    Keeps a (s.mapScratch c i fuel va n).1 := by
  induction fuel generalizing s va n with
  | zero => exact h
  | succ fuel ih =>
    unfold State.mapScratch
    split
    · exact h
    · extract_lets +onlyGivenNames k
      split <;> rename_i e <;> have h1 := keeps_of_fst e (State.translate_keeps h)
      · split
        · split
          · split
            · rename_i e2
              exact keeps_of_fst e2 (ih h1)
            · exact ih h1
          · exact h1
        · exact h1
      · exact h1
      · exact h1

theorem State.openComb_keeps {a s : State} {c q : Nat} {i : CtxId} {strict : Bool} (h : Keeps a s) : Keeps a
    (State.openComb s c q i strict).1 := by
  unfold State.openComb
  extract_lets +onlyGivenNames -underBinder x1
  clear_value x1
  split
  · refine keeps_pair ?_
    refine keeps_of_fst (by assumption) ?_
    exact State.mapScratch_keeps ‹_›
  · split
    · refine keeps_pair ?_
      refine keeps_of_fst (by assumption) ?_
      refine keeps_ite_fst ?_ ?_
      · refine State.mapScratch_keeps ?_
        refine keeps_of_fst (by assumption) ?_
        exact State.mapScratch_keeps ‹_›
      · refine keeps_pair ?_
        refine keeps_of_fst (by assumption) ?_
        exact State.mapScratch_keeps ‹_›
    · split
      · extract_lets +onlyGivenNames -underBinder x2
        clear_value x2
        refine keeps_ite_fst ?_ ?_
        · refine keeps_pair ?_
          refine keeps_of_fst (by assumption) ?_
          refine keeps_ite_fst ?_ ?_
          · refine State.mapScratch_keeps ?_
            refine keeps_of_fst (by assumption) ?_
            exact State.mapScratch_keeps ‹_›
          · refine keeps_pair ?_
            refine keeps_of_fst (by assumption) ?_
            exact State.mapScratch_keeps ‹_›
        · extract_lets +onlyGivenNames -underBinder x3
          have hx3 : Keeps a x3 := by
            unfold x3
            refine State.updRxq_keeps ?_
            refine keeps_of_fst (by assumption) ?_
            refine keeps_ite_fst ?_ ?_
            · refine State.mapScratch_keeps ?_
              refine keeps_of_fst (by assumption) ?_
              exact State.mapScratch_keeps ‹_›
            · refine keeps_pair ?_
              refine keeps_of_fst (by assumption) ?_
              exact State.mapScratch_keeps ‹_›
          clear_value x3
          exact keeps_pair (State.updComb_keeps ‹_›)

theorem State.putPieces_keeps {a s : State} {c : Nat} {i : CtxId} {fuel va n : Nat} (h : Keeps a s) :
    Keeps a (s.putPieces c i fuel va n).1 := by
  induction fuel generalizing s va n with
  | zero => exact h
  | succ fuel ih =>
    unfold State.putPieces
    split
    · exact h
    · extract_lets +onlyGivenNames k
      split <;> rename_i e <;> have h1 := keeps_of_fst e (State.translateC_keeps h)
      · split
        · rename_i e2
          exact keeps_of_fst e2 (ih h1)
        · exact ih h1
      · exact h1
      · exact h1

theorem State.countItem_keeps {a s : State} {c : ℕ} {new : Bool} (h : Keeps a s) : Keeps a (State.countItem s c new) := by
  unfold State.countItem
  exact keeps_ite (State.updClX_keeps ‹_›) ‹_›

theorem State.settleAt_keeps {a s : State} {ta q key lim b : Nat} (h : Keeps a s) : Keeps a (State.settleAt s ta q key lim b) := by
  unfold State.settleAt
  extract_lets +onlyGivenNames -underBinder x1
  clear_value x1
  extract_lets +onlyGivenNames -underBinder x2
  clear_value x2
  extract_lets +onlyGivenNames -underBinder x3
  clear_value x3
  extract_lets +onlyGivenNames -underBinder x4
  clear_value x4
  extract_lets +onlyGivenNames -underBinder x5
  clear_value x5
  extract_lets +onlyGivenNames -underBinder x6
  clear_value x6
  extract_lets +onlyGivenNames -underBinder x7
  clear_value x7
  extract_lets +onlyGivenNames -underBinder x8
  clear_value x8
  extract_lets +onlyGivenNames -underBinder x9
  clear_value x9
  extract_lets +onlyGivenNames -underBinder x10
  clear_value x10
  refine keeps_ite ?_ ?_
  · refine keeps_ite ‹_› ?_
    extract_lets +onlyGivenNames -underBinder x11
    clear_value x11
    exact State.updRxq_keeps ‹_›
  · extract_lets +onlyGivenNames -underBinder x12
    clear_value x12
    extract_lets +onlyGivenNames -underBinder x13
    have hx13 : Keeps a x13 := State.each_keeps ‹_› (fun _ _ _ => State.returnEntry_keeps ‹_›)
    clear_value x13
    exact State.countItem_keeps (State.updRxq_keeps ‹_›)

theorem State.flushRx_keeps {a s : State} {ta q : Nat} (h : Keeps a s) : Keeps a (State.flushRx s ta q) := by
  unfold State.flushRx
  extract_lets +onlyGivenNames -underBinder x1 x2 x3
  have hx3 : Keeps a x3 := State.each_keeps ‹_› (fun _ _ _ => State.returnEntry_keeps ‹_›)
  clear_value x3 x2 x1
  extract_lets +onlyGivenNames -underBinder x6
  have hx6 : Keeps a x6 := State.discardParts_keeps (State.updRxq_keeps ‹_›)
  clear_value x6
  exact State.updClX_keeps ‹_›

theorem State.msgPerform_keeps {a s : State} {c : Nat} {v : Dword} (h : Keeps a s) : Keeps a (State.msgPerform s c v).1 := by
  unfold State.msgPerform
  extract_lets +onlyGivenNames -underBinder x1 x2 x3 x4 x5 x6 x7
  clear_value x7 x6 x5 x4 x3 x2 x1
  refine keeps_ite_fst (keeps_pair ‹_›) ?_
  refine keeps_ite_fst (keeps_pair ‹_›) ?_
  split
  · exact keeps_ite_fst (keeps_pair ‹_›) (keeps_pair (State.updRxq_keeps ‹_›))
  · exact keeps_ite_fst (keeps_pair (State.closeRx_keeps ‹_›)) (keeps_pair ‹_›)
  · exact keeps_ite_fst (keeps_pair (State.flushRx_keeps ‹_›)) (keeps_pair ‹_›)
  · exact keeps_ite_fst (keeps_pair ‹_›) (State.openChan_keeps ‹_›)
  · exact keeps_ite_fst (keeps_pair (State.closeChan_keeps ‹_›)) (keeps_pair ‹_›)
  · exact keeps_ite_fst (keeps_pair ‹_›) (State.openComb_keeps ‹_›)
  · exact keeps_ite_fst (keeps_pair (State.closeComb_keeps ‹_›)) (keeps_pair ‹_›)
  · exact State.armComb_keeps ‹_›

theorem State.msgWrite_keeps {a s : State} {fn : Fn} {c : Nat} {v : Dword} (h : Keeps a s) : Keeps a (State.msgWrite s fn c v) := by
  unfold State.msgWrite
  refine State.gateC_keeps ‹_› ?_
  intro z1 hz2
  extract_lets +onlyGivenNames -underBinder x3
  clear_value x3
  extract_lets +onlyGivenNames -underBinder x4
  clear_value x4
  refine keeps_ite (State.updClX_keeps ‹_›) ?_
  split
  · exact State.updClX_keeps (keeps_of_fst (by assumption) (State.msgPerform_keeps ‹_›))

theorem State.settle_keeps {a s : State} {ta q key lim : Nat} (h : Keeps a s) : Keeps a (State.settle s ta q key lim) := by
  unfold State.settle
  exact State.each_keeps ‹_› (fun _ _ _ => State.each_keeps ‹_› (fun _ _ _ => State.settleAt_keeps ‹_›))

theorem State.putKnown_keeps {a s : State} {p : Packet} (h : Keeps a s) : Keeps a (State.putKnown s p) := by
  unfold State.putKnown
  extract_lets +onlyGivenNames -underBinder x1
  clear_value x1
  extract_lets +onlyGivenNames -underBinder x2
  clear_value x2
  extract_lets +onlyGivenNames -underBinder x3
  clear_value x3
  exact State.settle_keeps (State.updRxq_keeps ‹_›)

theorem State.putArrives_keeps {a s : State} {p : Packet} {i : CtxId} (h : Keeps a s) : Keeps a (State.putArrives s p i) := by
  unfold State.putArrives
  extract_lets +onlyGivenNames -underBinder x1
  clear_value x1
  extract_lets +onlyGivenNames -underBinder x2
  clear_value x2
  extract_lets +onlyGivenNames -underBinder x3
  clear_value x3
  extract_lets +onlyGivenNames -underBinder x4
  split
  · extract_lets +onlyGivenNames -underBinder x5
    clear_value x5
    extract_lets +onlyGivenNames -underBinder x6
    have hx6 : Keeps a x6 := keeps_ite (keeps_of_fst (by assumption) (State.putPieces_keeps ‹_›)) (State.fatal_keeps (keeps_of_fst (by
        assumption) (State.putPieces_keeps ‹_›)))
    clear_value x6
    exact State.refuseGroup_keeps (keeps_ite (State.putKnown_keeps ‹_›) ‹_›)
  · refine keeps_ite (keeps_of_fst (by assumption) (State.putPieces_keeps ‹_›)) ?_
    split
    · extract_lets +onlyGivenNames -underBinder x7
      clear_value x7
      exact State.setPacket_keeps (keeps_ite (State.putKnown_keeps (State.writePieces_keeps (keeps_of_fst (by assumption)
          (State.reachAll_keeps (keeps_of_fst (by assumption) (State.putPieces_keeps ‹_›)))))) (State.writePieces_keeps (keeps_of_fst (by
          assumption) (State.reachAll_keeps (keeps_of_fst (by assumption) (State.putPieces_keeps ‹_›))))))
    · exact State.refuseGroup_keeps (keeps_ite (State.putKnown_keeps (keeps_of_fst (by assumption) (State.reachAll_keeps (keeps_of_fst
        (by assumption) (State.putPieces_keeps ‹_›))))) (keeps_of_fst (by assumption) (State.reachAll_keeps (keeps_of_fst (by assumption)
        (State.putPieces_keeps ‹_›)))))

theorem stepCombine_keeps {a : State} {id : Nat} {s : State} (h : Keeps a s) : Keeps a (stepCombine id s) := by
  unfold stepCombine
  split
  · assumption
  · extract_lets +onlyGivenNames -underBinder x1
    clear_value x1
    refine keeps_ite ‹_› ?_
    extract_lets +onlyGivenNames -underBinder x2
    clear_value x2
    extract_lets +onlyGivenNames -underBinder x3
    clear_value x3
    extract_lets +onlyGivenNames -underBinder x4
    clear_value x4
    split
    · extract_lets +onlyGivenNames -underBinder x5
      have hx5 : Keeps a x5 := keeps_ite (State.updClX_keeps ‹_›) ‹_›
      clear_value x5
      exact State.refuseGroup_keeps ‹_›
    · split
      · assumption
      · extract_lets +onlyGivenNames -underBinder x6
        clear_value x6
        refine keeps_ite ‹_› (keeps_ite (State.refuseGroup_keeps (State.each_keeps ‹_› (fun _ _ _ => State.lostNotice_keeps ‹_›))) ?_)
        extract_lets +onlyGivenNames -underBinder x10
        have hx10 : Keeps a x10 := State.sendBack_keeps (State.dropGroup_keeps ‹_›)
        clear_value x10
        extract_lets +onlyGivenNames -underBinder x11
        have hx11 : Keeps a x11 := State.updComb_keeps ‹_›
        clear_value x11
        extract_lets +onlyGivenNames -underBinder x12
        clear_value x12
        refine keeps_ite ?_ ?_
        · extract_lets +onlyGivenNames -underBinder x13
          have hx13 : Keeps a x13 := State.each_keeps ‹_› (fun _ _ _ => State.store_keeps ‹_›)
          clear_value x13
          exact State.updComb_keeps ‹_›
        · extract_lets +onlyGivenNames -underBinder x17
          have hx17 : Keeps a x17 := State.addElems_keeps ‹_›
          clear_value x17
          exact keeps_ite (State.endRound_keeps ‹_›) ‹_›

theorem stepDescriptorArrival_keeps {a : State} {id : Nat} {s : State} (h : Keeps a s) : Keeps a (stepDescriptorArrival id s) := by
  unfold stepDescriptorArrival
  split
  · assumption
  · extract_lets +onlyGivenNames -underBinder x1
    clear_value x1
    refine keeps_ite ‹_› ?_
    split
    · exact State.refuseGroup_keeps ‹_›
    · extract_lets +onlyGivenNames -underBinder x2
      clear_value x2
      extract_lets +onlyGivenNames -underBinder x3
      clear_value x3
      split
      · assumption
      · refine keeps_ite (State.putArrives_keeps ‹_›) (keeps_ite (State.updRxq_keeps (State.dropPacket_keeps ‹_›)) ?_)
        extract_lets +onlyGivenNames -underBinder x4
        clear_value x4
        exact State.settle_keeps (State.updRxq_keeps (State.dropPacket_keeps ‹_›))

theorem stepCpop_keeps {a : State} {t : TileId} {th : Fin 4} {sB : Fin 32} {s : State} (h : Keeps a s) : Keeps a (stepCpop t th sB s) := by
  unfold stepCpop
  extract_lets +onlyGivenNames -underBinder x1
  clear_value x1
  split
  · assumption
  · refine keeps_ite (State.faultOn_keeps (State.issueOnly_keeps ‹_›)) ?_
    split
    · exact State.issueOnly_keeps (State.updThread_keeps ‹_›)
    · extract_lets +onlyGivenNames -underBinder x2
      clear_value x2
      extract_lets +onlyGivenNames -underBinder x3
      have hx3 : Keeps a x3 := Keeps.of_eq (s := s) ‹_› rfl rfl rfl rfl rfl
      clear_value x3
      extract_lets +onlyGivenNames -underBinder x4
      have hx4 : Keeps a x4 := State.freeSlot_keeps ‹_›
      clear_value x4
      exact State.issueOnly_keeps (State.updThread_keeps ‹_›)

theorem stepCqarm_keeps {a : State} {t : TileId} {th : Fin 4} {q : Fin 32} {s : State} (h : Keeps a s) : Keeps a (stepCqarm t th q s) := by
  unfold stepCqarm
  extract_lets +onlyGivenNames -underBinder x1
  clear_value x1
  split
  · assumption
  · split
    · extract_lets +onlyGivenNames -underBinder x2
      have hx2 : Keeps a x2 := State.issueOnly_keeps (keeps_of_fst (by assumption) (State.armComb_keeps ‹_›))
      clear_value x2
      exact keeps_ite ‹_› (State.faultOn_keeps ‹_›)

theorem stepRecv_keeps {a : State} {t : TileId} {th : Fin 4} {q : Fin 16} {sB : Fin 32} {s : State} (h : Keeps a s) :
    Keeps a (stepRecv t th q sB s) := by
  unfold stepRecv
  extract_lets +onlyGivenNames -underBinder x1
  clear_value x1
  split
  · assumption
  · extract_lets +onlyGivenNames -underBinder x2
    clear_value x2
    extract_lets +onlyGivenNames -underBinder x3
    clear_value x3
    refine keeps_ite (State.faultOn_keeps (State.issueOnly_keeps ‹_›)) ?_
    split
    · refine keeps_ite (State.faultOn_keeps (State.issueOnly_keeps ‹_›)) ?_
      extract_lets +onlyGivenNames -underBinder x4
      have hx4 : Keeps a x4 := State.updRxq_keeps ‹_›
      clear_value x4
      extract_lets +onlyGivenNames -underBinder x5
      have hx5 : Keeps a x5 := State.returnEntry_keeps ‹_›
      clear_value x5
      exact State.issueOnly_keeps (State.updThread_keeps ‹_›)
    · exact State.faultOn_keeps (State.issueOnly_keeps ‹_›)

theorem stepSend_keeps {a : State} {t : TileId} {th : Fin 4} {chan : Fin 16} {sB : Fin 32} {s : State} (h : Keeps a s) :
    Keeps a (stepSend t th chan sB s) := by
  unfold stepSend
  extract_lets +onlyGivenNames -underBinder x1
  clear_value x1
  split
  · assumption
  · extract_lets +onlyGivenNames -underBinder x2
    clear_value x2
    extract_lets +onlyGivenNames -underBinder x3
    clear_value x3
    refine keeps_ite (State.faultOn_keeps (State.issueOnly_keeps ‹_›)) ?_
    extract_lets +onlyGivenNames -underBinder x4
    clear_value x4
    extract_lets +onlyGivenNames -underBinder x5
    extract_lets +onlyGivenNames -underBinder x6
    clear_value x6
    split
    · assumption
    · refine keeps_ite (State.drew_keeps (State.issueOnly_keeps (State.updThread_keeps ‹_›))) (keeps_ite ?_ (State.drew_keeps
        (State.issueOnly_keeps (State.updThread_keeps (State.sendOn_keeps ‹_›)))))
      split
      · exact State.faultOn_keeps (State.drew_keeps (State.issueOnly_keeps (State.updThread_keeps ‹_›)))
      · refine keeps_ite (State.faultOn_keeps (State.drew_keeps (State.issueOnly_keeps (State.updThread_keeps ‹_›)))) ?_
        extract_lets +onlyGivenNames -underBinder x7
        clear_value x7
        exact State.drew_keeps (State.issueOnly_keeps (State.updThread_keeps (State.sendOn_keeps ‹_›)))

/-! Mesh. -/

theorem State.keyRefused_keeps {a s : State} {c : ℕ} {kind : ℕ} {index : ℕ} {p : Packet} (h : Keeps a s) : Keeps a (State.keyRefused s c
    kind index p) := by
  unfold State.keyRefused
  exact keeps_ite (State.dropGroup_keeps ‹_›) (State.packetEnds_keeps (State.keyFault_keeps ‹_›))

theorem State.requestArrives_keeps {a s : State} {c : ℕ} {p : Packet} (h : Keeps a s) : Keeps a (State.requestArrives s c p) := by
  unfold State.requestArrives
  split
  · exact State.dropPacket_keeps ‹_›
  · exact keeps_ite (State.packetEnds_keeps ‹_›) (keeps_ite (State.keyRefused_keeps ‹_›) (State.dropPacket_keeps ‹_›))

theorem State.sendOut_keeps {a s : State} {c : Nat} {p : Packet} {port chan : Nat} (h : Keeps a s) : Keeps a
    (State.sendOut s c p
    port chan) := by
  unfold State.sendOut
  extract_lets +onlyGivenNames -underBinder x1
  have hx1 : Keeps a x1 := State.leaveBuffer_keeps ‹_›
  clear_value x1
  extract_lets +onlyGivenNames -underBinder x2
  clear_value x2
  extract_lets +onlyGivenNames -underBinder x3
  have hx3 : Keeps a x3 := State.updRouter_keeps ‹_›
  clear_value x3
  extract_lets +onlyGivenNames -underBinder x4
  clear_value x4
  refine keeps_ite ?_ ?_
  · extract_lets +onlyGivenNames -underBinder x5
    have hx5 : Keeps a x5 := State.setPacket_keeps ‹_›
    clear_value x5
    exact keeps_ite (State.requestArrives_keeps ‹_›) ‹_›
  · split
    · assumption
    · exact State.setPacket_keeps ‹_›

theorem stepCreditReturn_keeps {a : State} {node : Fin 24} {port : Fin 8} {cls chan : Nat} {s : State} (h : Keeps a s) : Keeps a
    (stepCreditReturn node port cls chan s) := by
  unfold stepCreditReturn
  exact keeps_ite (State.updRouter_keeps ‹_›) ‹_›

theorem stepRouteInstall_keeps {a : State} {c : Fin 16} {s : State} (h : Keeps a s) : Keeps a (stepRouteInstall c s) := by
  unfold stepRouteInstall
  refine keeps_ite ‹_› ?_
  extract_lets +onlyGivenNames -underBinder x1
  clear_value x1
  exact State.updRouter_keeps ‹_›

theorem State.noRoute_keeps {a s : State} {c : Nat} {p : Packet} (h : Keeps a s) : Keeps a (State.noRoute s c p) := by
  unfold State.noRoute
  exact State.packetEnds_keeps (State.raise_keeps ‹_›)

theorem State.keyDrop_keeps {a s : State} {c : Nat} {p : Packet} (h : Keeps a s) : Keeps a (State.keyDrop s c p) := by
  unfold State.keyDrop
  exact State.keyRefused_keeps ‹_›

theorem State.routePacket_keeps {a s : State} {p : Packet} (h : Keeps a s) : Keeps a (State.routePacket s p) := by
  unfold State.routePacket
  extract_lets +onlyGivenNames -underBinder x1 x2
  clear_value x2 x1
  refine keeps_ite ‹_› ?_
  refine keeps_ite (State.keyDrop_keeps ‹_›) ?_
  refine keeps_ite ‹_› ?_
  split
  · exact State.noRoute_keeps ‹_›
  · assumption
  · exact State.sendOut_keeps ‹_›

theorem stepPacketRoute_keeps {a : State} {id : Nat} {inj : Option Inject} {s : State} (h : Keeps a s) : Keeps a
    (stepPacketRoute id
    inj s) := by
  unfold stepPacketRoute
  split
  · split
    · exact State.routePacket_keeps ‹_›
    · assumption
  · split
    · assumption
    · extract_lets +onlyGivenNames -underBinder x1
      have hx1 : Keeps a x1 := State.inject_keeps ‹_›
      clear_value x1
      split
      · exact State.routePacket_keeps ‹_›
      · assumption

theorem stepFlitResend_keeps {a : State} {node : Fin 16} {port : Fin 4} {link : Fin 68} {s : State} (h : Keeps a s) : Keeps a
    (stepFlitResend node port link s) := by
  unfold stepFlitResend
  split
  · assumption
  · extract_lets +onlyGivenNames -underBinder x1 y3 x2
    have hx2 : Keeps a x2 := Keeps.of_eq (s := s) ‹_› rfl rfl rfl rfl rfl
    clear_value x2 y3 x1
    exact keeps_ite (State.confirm_keeps ‹_›) ‹_›

/-! Carillon. -/

theorem State.pealWrite_keeps {a s : State} {ta targets kind toff dpa len : Nat} (h : Keeps a s) : Keeps a
    (State.pealWrite s ta targets kind toff dpa len) := by
  unfold State.pealWrite
  extract_lets +onlyGivenNames -underBinder x1
  clear_value x1
  refine keeps_ite ?_ (keeps_ite (State.updTile_keeps ‹_›) (State.updTile_keeps ‹_›))
  extract_lets +onlyGivenNames -underBinder x2
  clear_value x2
  refine keeps_ite ‹_› ?_
  extract_lets +onlyGivenNames -underBinder x3
  clear_value x3
  exact State.updRxq_keeps ‹_›

theorem stepCarillonEntered_keeps {a : State} {c : Fin 16} {s : State} (h : Keeps a s) : Keeps a (stepCarillonEntered c s) := by
  unfold stepCarillonEntered
  exact keeps_ite (State.updClX_keeps ‹_›) ‹_›

theorem State.tell_keeps {a s : State} {core v : Nat} (h : Keeps a s) : Keeps a (s.tell core v) :=
  Keeps.of_eq (s := s) h rfl rfl rfl rfl rfl

theorem stepPeal_keeps {a : State} {c : Fin 16} {bySched : Bool} {targets kind toff dpa len : Nat} {s : State} (h : Keeps a s) : Keeps a

       (stepPeal c bySched targets kind toff dpa len s) := by
  unfold stepPeal
  refine keeps_ite (State.tell_keeps ‹_›) (keeps_ite (State.tell_keeps ‹_›) (keeps_ite (State.tell_keeps ‹_›) ?_))
  extract_lets +onlyGivenNames -underBinder x1
  clear_value x1
  extract_lets +onlyGivenNames -underBinder x2
  clear_value x2
  extract_lets +onlyGivenNames -underBinder x3
  clear_value x3
  extract_lets +onlyGivenNames -underBinder x4
  have hx4 : Keeps a x4 := State.each_keeps ‹_› (fun _ _ _ => State.pealWrite_keeps ‹_›)
  clear_value x4
  extract_lets +onlyGivenNames -underBinder x8
  have hx8 : Keeps a x8 := State.each_keeps ‹_› (fun _ _ _ => State.updClX_keeps ‹_›)
  clear_value x8
  extract_lets +onlyGivenNames -underBinder x12
  clear_value x12
  exact Keeps.of_eq (s := x8) ‹_› rfl rfl rfl rfl rfl

theorem stepPealCompletion_keeps {a : State} {id : Nat} {s : State} (h : Keeps a s) : Keeps a (stepPealCompletion id s) := by
  unfold stepPealCompletion
  split
  · assumption
  · extract_lets +onlyGivenNames -underBinder x1
    have hx1 : Keeps a x1 := State.tell_keeps (State.log__keeps ‹_›)
    clear_value x1
    exact Keeps.of_eq (s := x1) ‹_› rfl rfl rfl rfl rfl

theorem State.carStart_keeps {a s : State} {c : Nat} {bySched forced : Bool} (h : Keeps a s) : Keeps a
    (State.carStart s c bySched forced) := by
  unfold State.carStart
  extract_lets +onlyGivenNames -underBinder x1
  have hx1 : Keeps a x1 := State.updClX_keeps ‹_›
  clear_value x1
  exact keeps_ite (State.each_keeps ‹_› (fun _ _ _ => State.failArm_keeps ‹_›)) ‹_›

theorem stepCarillonEntry_keeps {a : State} {c : Fin 16} {bySched forced : Bool} {s : State} (h : Keeps a s) : Keeps a
    (stepCarillonEntry c bySched forced s) := by
  unfold stepCarillonEntry
  extract_lets +onlyGivenNames -underBinder x1
  clear_value x1
  exact keeps_ite ‹_› (keeps_ite (State.carStart_keeps ‹_›) ‹_›)

theorem State.carLeave_keeps {a s : State} {c : Nat} (h : Keeps a s) : Keeps a (State.carLeave s c) := by
  unfold State.carLeave
  extract_lets +onlyGivenNames -underBinder x1
  have hx1 : Keeps a x1 := State.updClX_keeps ‹_›
  clear_value x1
  exact State.each_keeps ‹_› (fun _ _ _ => keeps_ite ‹_› (State.pumpBat_keeps ‹_›))

theorem stepCarillonExit_keeps {a : State} {c : Fin 16} {bySched : Bool} {s : State} (h : Keeps a s) :
    Keeps a (stepCarillonExit c bySched s) := by
  unfold stepCarillonExit
  refine keeps_ite ‹_› ?_
  exact keeps_ite (State.carLeave_keeps ‹_›) ‹_›

theorem stepCarillonTimeout_keeps {a : State} {c : Fin 16} {s : State} (h : Keeps a s) : Keeps a (stepCarillonTimeout c s) := by
  unfold stepCarillonTimeout
  extract_lets +onlyGivenNames -underBinder x1
  clear_value x1
  exact keeps_ite (State.tell_keeps (State.carLeave_keeps ‹_›)) ‹_›

/-! Queue. -/

theorem State.entryWritten_keeps {a s : State} {p k e : Nat} (h : Keeps a s) : Keeps a (State.entryWritten s p k e) := by
  unfold State.entryWritten
  extract_lets +onlyGivenNames -underBinder x1
  have hx1 : Keeps a x1 := State.updCtx_keeps ‹_›
  clear_value x1
  extract_lets +onlyGivenNames -underBinder x2 x3 x4
  have hx4 : Keeps a x4 := keeps_ite (State.markDone_keeps ‹_›) ‹_›
  clear_value x4 x3 x2
  exact keeps_ite (State.irqCq_keeps ‹_›) ‹_›

theorem State.readQ_keeps {a s : State} {p k x va n : Nat} (h : Keeps a s) : Keeps a (State.readQ s p k x va n).1 := by
  unfold State.readQ
  extract_lets +onlyGivenNames -underBinder x1
  clear_value x1
  split
  · refine keeps_ite_fst ?_ ?_
    · refine keeps_pair ?_
      refine keeps_of_fst (by assumption) ?_
      exact State.pieces_keeps ‹_›
    · split
      · refine keeps_pair ?_
        refine keeps_of_fst (by assumption) ?_
        refine State.fetch_keeps ?_
        refine keeps_of_fst (by assumption) ?_
        exact State.pieces_keeps ‹_›
  · refine keeps_pair ?_
    refine keeps_of_fst (by assumption) ?_
    exact State.pieces_keeps ‹_›
  · refine keeps_pair ?_
    refine keeps_of_fst (by assumption) ?_
    exact State.pieces_keeps ‹_›
  · refine keeps_pair ?_
    refine keeps_of_fst (by assumption) ?_
    exact State.pieces_keeps ‹_›

theorem State.takeRecord_keeps {a s : State} {p k x idx : Nat} {b : BitVec 512} {img : BitVec 1536} {rec_ : Option (BitVec 1024)}
    (h : Keeps a s) : Keeps a (State.takeRecord s p k x idx b img rec_) := by
  unfold State.takeRecord
  extract_lets +onlyGivenNames -underBinder x1
  clear_value x1
  refine keeps_ite (State.updQueue_keeps ‹_›) ?_
  extract_lets +onlyGivenNames -underBinder x2
  clear_value x2
  exact State.complete_keeps (State.startCmd_keeps ‹_›)

theorem stepBarrier_keeps {a : State} {p : Fin 16} {k : Fin 64} {x : Fin 4} {s : State} (h : Keeps a s) : Keeps a (stepBarrier p k x s)
    := by
  unfold stepBarrier
  split
  · assumption
  · exact keeps_ite (State.complete_keeps (State.startCmd_keeps ‹_›)) ‹_›

theorem stepDoorbell_keeps {a : State} {fn : Fn} {p : Fin 16} {k : Fin 64} {x : Fin 4} {tail : Word} {s : State} (h : Keeps a s) : Keeps
    a (stepDoorbell fn p k x tail s) := by
  unfold stepDoorbell
  extract_lets +onlyGivenNames -underBinder x1 x2 x3 x4
  clear_value x4 x3 x2 x1
  exact keeps_ite (State.refuseP_keeps ‹_›) (keeps_ite (State.refuseP_keeps ‹_›) (keeps_ite (State.refuseP_keeps ‹_›) (keeps_ite ‹_›
      (keeps_ite (State.refuseP_keeps ‹_›) (State.updQueue_keeps ‹_›)))))

theorem stepNop_keeps {a : State} {p : Fin 16} {k : Fin 64} {x : Fin 4} {s : State} (h : Keeps a s) : Keeps a (stepNop p k x s) := by
  unfold stepNop
  split
  · assumption
  · exact State.complete_keeps (State.startCmd_keeps ‹_›)

theorem stepCqHeadWrite_keeps {a : State} {fn : Fn} {p : Fin 16} {k : Fin 64} {head : Word} {s : State} (h : Keeps a s) : Keeps a
    (stepCqHeadWrite fn p k head s) := by
  unfold stepCqHeadWrite
  exact State.gateP_keeps ‹_› (fun _ _ => State.updCtx_keeps ‹_›)

theorem State.waitLook_keeps {a s : State} {r : CmdRef} {dpa : Nat} {cmp : Bool} {value : Dword} (h : Keeps a s) :
    Keeps a (State.waitLook s r dpa cmp value) := by
  unfold State.waitLook
  extract_lets +onlyGivenNames -underBinder x1
  exact keeps_ite ‹_› (keeps_ite (State.complete_keeps (State.updQueue_keeps (State.lostNotice_keeps ‹_›))) (keeps_ite
      (State.complete_keeps (State.updQueue_keeps ‹_›)) ‹_›))

theorem stepChime_keeps {a : State} {p : Fin 16} {k : Fin 64} {x : Fin 4} {s : State} (h : Keeps a s) : Keeps a (stepChime p k x s) := by
  unfold stepChime
  split
  · assumption
  · refine keeps_ite ‹_› ?_
    split
    · refine State.complete_keeps ?_
      refine keeps_of_fst (by assumption) ?_
      exact State.chimeStore_keeps (State.startCmd_keeps ‹_›)

theorem stepCompletionEntryWrite_keeps {a : State} {p : Fin 16} {k : Fin 64} {s : State} (h : Keeps a s) : Keeps a
    (stepCompletionEntryWrite p k s) := by
  unfold stepCompletionEntryWrite
  extract_lets +onlyGivenNames -underBinder x1
  clear_value x1
  split
  · assumption
  · refine keeps_ite (State.updCtx_keeps ‹_›) ?_
    refine keeps_ite ‹_› ?_
    extract_lets +onlyGivenNames -underBinder x2 x3
    clear_value x3 x2
    split
    · refine keeps_ite ?_ ?_
      · refine keeps_of_fst (by assumption) ?_
        exact State.translateC_keeps ‹_›
      · refine keeps_ite ?_ ?_
        · refine State.entryWritten_keeps (State.lostNotice_keeps ?_)
          refine keeps_of_fst (by assumption) ?_
          exact State.translateC_keeps ‹_›
        · refine State.entryWritten_keeps (State.store_keeps ?_)
          refine keeps_of_fst (by assumption) ?_
          exact State.translateC_keeps ‹_›
    · split
      · refine State.entryWritten_keeps (State.emit_keeps ?_)
        refine keeps_of_fst (by assumption) ?_
        refine State.hostPage_keeps ?_
        refine keeps_of_fst (by assumption) ?_
        exact State.translateC_keeps ‹_›
      · refine keeps_of_fst (by assumption) ?_
        refine State.hostPage_keeps ?_
        refine keeps_of_fst (by assumption) ?_
        exact State.translateC_keeps ‹_›
    · refine State.entryWritten_keeps (State.fatalXlat_keeps ?_)
      refine keeps_of_fst (by assumption) ?_
      exact State.translateC_keeps ‹_›

theorem stepRecordFetch_keeps {a : State} {p : Fin 16} {k : Fin 64} {x : Fin 4} {s : State} (h : Keeps a s) : Keeps a
    (stepRecordFetch p k x s) := by
  unfold stepRecordFetch
  extract_lets +onlyGivenNames -underBinder x1 x2 x3 x4 x5 x6
  have hx6 : ∀ (y7 : Sys2Proof.Machine.State) (y8 : ℕ) (y9 : ℕ), Keeps a y7 → Keeps a (x6 y7 y8 y9) := by
    intro y7 y8 y9 hy7
    unfold x6
    refine State.fatalXlat_keeps ?_
    assumption
  clear_value x6 x5 x4 x3 x2 x1
  refine keeps_ite ‹_› ?_
  split
  · refine keeps_of_fst (by assumption) ?_
    exact State.readQ_keeps ‹_›
  · refine hx6 _ _ _ ?_
    refine keeps_of_fst (by assumption) ?_
    exact State.readQ_keeps ‹_›
  · extract_lets +onlyGivenNames -underBinder x10
    clear_value x10
    refine keeps_ite ?_ ?_
    · refine State.takeRecord_keeps ?_
      refine keeps_of_fst (by assumption) ?_
      exact State.readQ_keeps ‹_›
    · split
      · refine keeps_of_fst (by assumption) ?_
        refine State.readQ_keeps ?_
        refine keeps_of_fst (by assumption) ?_
        exact State.readQ_keeps ‹_›
      · refine hx6 _ _ _ ?_
        refine keeps_of_fst (by assumption) ?_
        refine State.readQ_keeps ?_
        refine keeps_of_fst (by assumption) ?_
        exact State.readQ_keeps ‹_›
      · extract_lets +onlyGivenNames -underBinder x11
        clear_value x11
        refine keeps_ite ?_ ?_
        · refine State.takeRecord_keeps ?_
          refine keeps_of_fst (by assumption) ?_
          refine State.readQ_keeps ?_
          refine keeps_of_fst (by assumption) ?_
          exact State.readQ_keeps ‹_›
        · split
          · refine keeps_of_fst (by assumption) ?_
            refine State.readQ_keeps ?_
            refine keeps_of_fst (by assumption) ?_
            refine State.readQ_keeps ?_
            refine keeps_of_fst (by assumption) ?_
            exact State.readQ_keeps ‹_›
          · refine hx6 _ _ _ ?_
            refine keeps_of_fst (by assumption) ?_
            refine State.readQ_keeps ?_
            refine keeps_of_fst (by assumption) ?_
            refine State.readQ_keeps ?_
            refine keeps_of_fst (by assumption) ?_
            exact State.readQ_keeps ‹_›
          · refine State.takeRecord_keeps ?_
            refine keeps_of_fst (by assumption) ?_
            refine State.readQ_keeps ?_
            refine keeps_of_fst (by assumption) ?_
            refine State.readQ_keeps ?_
            refine keeps_of_fst (by assumption) ?_
            exact State.readQ_keeps ‹_›

theorem stepWait_keeps {a : State} {p : Fin 16} {k : Fin 64} {x : Fin 4} {s : State} (h : Keeps a s) : Keeps a (stepWait p k x s) := by
  unfold stepWait
  split
  · assumption
  · split
    · refine State.complete_keeps ?_
      refine keeps_of_fst (by assumption) ?_
      exact State.chimeAt_keeps (State.startCmd_keeps ‹_›)
    · extract_lets +onlyGivenNames -underBinder x1 x2
      clear_value x2 x1
      refine State.waitLook_keeps (State.updQueue_keeps ?_)
      refine keeps_of_fst (by assumption) ?_
      exact State.chimeAt_keeps (State.startCmd_keeps ‹_›)

theorem stepWaitComplete_keeps {a : State} {p : Fin 16} {k : Fin 64} {x : Fin 4} {s : State} (h : Keeps a s) : Keeps a
    (stepWaitComplete p k x s) := by
  unfold stepWaitComplete
  extract_lets +onlyGivenNames -underBinder x1
  clear_value x1
  split
  · assumption
  · split
    · assumption
    · exact State.waitLook_keeps ‹_›

end Sys2Proof.Machine
end

