-- ==== Sys2Proof/Laws/KeepsContext.lean ====
section
/-! SUPPORT. What every operation keeps, for the contexts, the checks, the clocks, the taps and the power loops. -/
namespace Sys2Proof.Machine

/-! Context. -/

theorem State.createCtx_keeps {a s : State} {p k : Nat} (h : Keeps a s) : Keeps a (State.createCtx s p k) := by
  unfold State.createCtx
  extract_lets +onlyGivenNames -underBinder x1
  have hx1 : Keeps a x1 := State.updCtx_keeps ‹_›
  clear_value x1
  exact State.updCtxX_keeps ‹_›

theorem State.ctxRefuse_keeps {a s : State} {p k result : Nat} (h : Keeps a s) : Keeps a (State.ctxRefuse s p k result) := by
  unfold State.ctxRefuse
  exact State.updCtx_keeps ‹_›

theorem State.installDesc_keeps {a s : State} {a' : SaveArea} {i : CtxId} {d : Nat} (h : Keeps a s) : Keeps a
    (State.installDesc s a'
    i d) := by
  unfold State.installDesc
  extract_lets +onlyGivenNames -underBinder x1
  clear_value x1
  extract_lets +onlyGivenNames -underBinder x2
  clear_value x2
  extract_lets +onlyGivenNames -underBinder x3
  clear_value x3
  extract_lets +onlyGivenNames -underBinder x4
  clear_value x4
  extract_lets +onlyGivenNames -underBinder x5
  clear_value x5
  extract_lets +onlyGivenNames -underBinder x6
  clear_value x6
  extract_lets +onlyGivenNames -underBinder x7
  clear_value x7
  extract_lets +onlyGivenNames -underBinder x8
  clear_value x8
  extract_lets +onlyGivenNames -underBinder x9
  clear_value x9
  extract_lets +onlyGivenNames -underBinder x10
  clear_value x10
  extract_lets +onlyGivenNames -underBinder x11
  clear_value x11
  extract_lets +onlyGivenNames -underBinder x12
  clear_value x12
  extract_lets +onlyGivenNames -underBinder x13
  clear_value x13
  extract_lets +onlyGivenNames -underBinder x14
  clear_value x14
  extract_lets +onlyGivenNames -underBinder x15
  clear_value x15
  extract_lets +onlyGivenNames -underBinder x16
  clear_value x16
  extract_lets +onlyGivenNames -underBinder x17
  clear_value x17
  extract_lets +onlyGivenNames -underBinder x18
  clear_value x18
  extract_lets +onlyGivenNames -underBinder x19
  have hx19 : Keeps a x19 := State.setDesc_keeps (State.drew_keeps ‹_›)
  clear_value x19
  extract_lets +onlyGivenNames -underBinder x20
  have hx20 : Keeps a x20 := State.updDescX_keeps ‹_›
  clear_value x20
  exact keeps_ite (State.readCounts_keeps ‹_›) ‹_›

theorem State.preemptBat_keeps {a s : State} {i : CtxId} {key : Nat} (h : Keeps a s) : Keeps a (State.preemptBat s i key) := by
  unfold State.preemptBat
  extract_lets +onlyGivenNames -underBinder x1 x2 x3 x4 x5 x6 y8 x7
  have hy8 : Keeps a y8 := State.updBat_keeps (State.quietTiles_keeps ‹_›)
  have hx7 : Keeps a x7 := keeps_ite (State.leaveCmd_keeps (State.updBatX_keeps ‹_›)) ‹_›
  clear_value x7 y8 x6 x5 x4 x3 x2 x1
  extract_lets +onlyGivenNames -underBinder x9 x10
  have hx10 : Keeps a x10 := State.updBat_keeps ‹_›
  clear_value x10 x9
  exact State.each_keeps ‹_› (fun _ _ _ => State.leaveCmd_keeps ‹_›)

theorem State.preemptDesc_keeps {a s : State} {key : Nat} (h : Keeps a s) : Keeps a (State.preemptDesc s key) := by
  unfold State.preemptDesc
  extract_lets +onlyGivenNames -underBinder x1 x2
  clear_value x2 x1
  exact keeps_ite ‹_› (keeps_ite (Keeps.of_eq (s := s) ‹_› rfl rfl rfl rfl rfl) (Keeps.of_eq (s := s) ‹_› rfl rfl rfl rfl rfl))

theorem State.imageAt_keeps {a s : State} {i : CtxId} {va : Nat} (h : Keeps a s) : Keeps a (State.imageAt s i va).1 := by
  unfold State.imageAt
  split
  · refine keeps_pair ?_
    refine keeps_of_fst (by assumption) ?_
    exact State.readVa_keeps ‹_›
  · extract_lets +onlyGivenNames -underBinder x1
    clear_value x1
    refine keeps_ite_fst ?_ ?_
    · split
      · refine keeps_pair ?_
        refine keeps_of_fst (by assumption) ?_
        refine State.readVa_keeps ?_
        refine keeps_of_fst (by assumption) ?_
        exact State.readVa_keeps ‹_›
      · refine keeps_pair ?_
        refine keeps_of_fst (by assumption) ?_
        refine State.readVa_keeps ?_
        refine keeps_of_fst (by assumption) ?_
        exact State.readVa_keeps ‹_›
    · refine keeps_pair ?_
      refine keeps_of_fst (by assumption) ?_
      exact State.readVa_keeps ‹_›

theorem State.mapImage_keeps {a s : State} {i : CtxId} {sh va : Nat} (h : Keeps a s) : Keeps a (s.mapImage i sh va).1 := by
  unfold State.mapImage
  refine keeps_ite_fst h ?_
  split <;> rename_i e <;> exact keeps_of_fst e (State.imageAt_keeps h)

theorem State.loadMaps_keeps {a s : State} {i : CtxId} {l : List Nat} (h : Keeps a s) : Keeps a (s.loadMaps i l).1 := by
  induction l generalizing s with
  | nil => exact h
  | cons m rest ih =>
    unfold State.loadMaps
    extract_lets +onlyGivenNames c b sh
    refine keeps_ite_fst h ?_
    split <;> rename_i e <;> have h2 := keeps_of_fst e (State.mapImage_keeps h)
    · exact h2
    · refine keeps_ite_fst h2 ?_
      split <;> rename_i e2 <;> have h3 := keeps_of_fst e2 (State.mapImage_keeps h2)
      · exact h3
      · split <;> rename_i e3 <;> exact keeps_of_fst e3 (ih h3)

theorem State.restoreFrames_keeps {a s : State} {i : CtxId} {l : List (Nat × List Byte)} (h : Keeps a s) :
    Keeps a (s.restoreFrames i l).1 := by
  induction l generalizing s with
  | nil => exact h
  | cons f rest ih =>
    unfold State.restoreFrames
    split <;> rename_i e <;> have h1 := keeps_of_fst e (State.translate_keeps h)
    · exact ih (State.store_keeps h1)
    · exact h1
    · exact h1

theorem stepPreempted_keeps {a : State} {p : Fin 16} {k : Fin 64} {s : State} (h : Keeps a s) : Keeps a (stepPreempted p k s) := by
  unfold stepPreempted
  exact keeps_ite (State.ctxResult_keeps (State.updCtx_keeps ‹_›)) ‹_›

theorem State.restoreBats_keeps {a s : State} {a' : SaveArea} {i : CtxId} {l : List (Nat × Nat × Option SecImage × Option SecImage)} (h :
    Keeps a s) : Keeps a (State.restoreBats s a' i l) := by
  unfold State.restoreBats
  extract_lets +onlyGivenNames -underBinder x1
  have hx1 : Keeps a x1 := State.each_keeps ‹_› (fun _ _ _ => State.updBat_keeps ‹_›)
  clear_value x1
  refine State.each_keeps ‹_› ?_
  intro z5 z6 hz7
  split
  · assumption
  · extract_lets +onlyGivenNames -underBinder x8
    clear_value x8
    extract_lets +onlyGivenNames -underBinder x9
    clear_value x9
    extract_lets +onlyGivenNames -underBinder x10
    clear_value x10
    refine keeps_ite ‹_› ?_
    extract_lets +onlyGivenNames -underBinder x11
    clear_value x11
    extract_lets +onlyGivenNames -underBinder x12
    clear_value x12
    extract_lets +onlyGivenNames -underBinder x13
    have hx13 : Keeps a x13 := keeps_ite ‹_› (State.setTile_keeps (State.closeForeign_keeps ‹_›))
    clear_value x13
    exact State.updTile_keeps ‹_›

theorem State.restoreFrom_keeps {a s : State} {i : CtxId} {bs : List Byte} (h : Keeps a s) : Keeps a (State.restoreFrom s i bs).1 := by
  unfold State.restoreFrom
  extract_lets +onlyGivenNames -underBinder x1
  clear_value x1
  refine keeps_ite_fst ‹_› ?_
  split
  · exact keeps_pair (keeps_of_fst (by assumption) (State.loadMaps_keeps ‹_›))
  · refine keeps_ite_fst (keeps_pair (keeps_of_fst (by assumption) (State.loadMaps_keeps ‹_›))) ?_
    split
    · extract_lets +onlyGivenNames -underBinder x2
      have hx2 : Keeps a x2 := State.each_keeps (keeps_of_fst (by assumption) (State.restoreFrames_keeps (State.restoreBats_keeps
          (keeps_of_fst (by assumption) (State.loadMaps_keeps ‹_›))))) (fun _ _ _ => State.installDesc_keeps ‹_›)
      clear_value x2
      extract_lets +onlyGivenNames -underBinder x6
      have hx6 : Keeps a x6 := State.updCtx_keeps ‹_›
      clear_value x6
      exact keeps_pair (State.updCtxX_keeps ‹_›)
    · exact keeps_pair (keeps_of_fst (by assumption) (State.loadMaps_keeps ‹_›))

theorem State.staleReqs_keeps {a s : State} {i : CtxId} (h : Keeps a s) : Keeps a (State.staleReqs s i) := by
  unfold State.staleReqs
  exact State.each_keeps ‹_› (fun _ _ _ => State.updPort_keeps ‹_›)

theorem State.saveFree_keeps {a s : State} {i : CtxId} (h : Keeps a s) : Keeps a (State.saveFree s i) := by
  unfold State.saveFree
  extract_lets +onlyGivenNames -underBinder x1
  clear_value x1
  extract_lets +onlyGivenNames -underBinder x2
  clear_value x2
  extract_lets +onlyGivenNames -underBinder x3
  have hx3 : Keeps a x3 := State.each_keeps ‹_› (fun _ _ _ => keeps_ite (State.updBat_keeps ‹_›) ‹_›)
  clear_value x3
  extract_lets +onlyGivenNames -underBinder x7
  have hx7 : Keeps a x7 := State.each_keeps ‹_› (fun _ _ _ => State.freeDesc_keeps ‹_›)
  clear_value x7
  extract_lets +onlyGivenNames -underBinder x11
  have hx11 : Keeps a x11 := State.staleReqs_keeps (State.closeContext_keeps ‹_›)
  clear_value x11
  extract_lets +onlyGivenNames -underBinder x12
  have hx12 : Keeps a x12 := Keeps.of_eq (s := x11) ‹_› rfl rfl rfl rfl rfl
  clear_value x12
  exact State.each_keeps ‹_› (fun _ _ _ => State.untag_keeps ‹_›)

theorem State.resumeDescs_keeps {a s : State} {i : CtxId} (h : Keeps a s) : Keeps a (State.resumeDescs s i) := by
  unfold State.resumeDescs
  refine State.each_keeps ‹_› ?_
  intro z1 z2 hz1
  extract_lets +onlyGivenNames -underBinder x3
  clear_value x3
  exact keeps_ite (State.enterActive_keeps ‹_›) ‹_›

theorem State.restoreFault_keeps {a s : State} {i : CtxId} {x : ReadErr} (h : Keeps a s) : Keeps a (State.restoreFault s i x) := by
  unfold State.restoreFault
  exact keeps_ite (State.fatalXlat_keeps ‹_›) (State.ctxResult_keeps (State.updCtx_keeps ‹_›))

theorem stepRestoreComplete_keeps {a : State} {p : Fin 16} {k : Fin 64} {s : State} (h : Keeps a s) : Keeps a (stepRestoreComplete p k s)
    := by
  unfold stepRestoreComplete
  extract_lets +onlyGivenNames -underBinder x1
  clear_value x1
  extract_lets +onlyGivenNames -underBinder x2
  clear_value x2
  refine keeps_ite ‹_› ?_
  split
  · exact State.restoreFault_keeps (keeps_of_fst (by assumption) (State.readVa_keeps ‹_›))
  · extract_lets +onlyGivenNames -underBinder x3
    clear_value x3
    refine keeps_ite (State.restoreFault_keeps (keeps_of_fst (by assumption) (State.readVa_keeps ‹_›))) ?_
    split
    · exact State.restoreFault_keeps (keeps_of_fst (by assumption) (State.readVa_keeps (keeps_of_fst (by assumption) (State.readVa_keeps
        ‹_›))))
    · split
      · exact State.resumeDescs_keeps (State.ctxResult_keeps (State.updCtx_keeps (keeps_of_fst (by assumption) (State.restoreFrom_keeps
          (keeps_of_fst (by assumption) (State.readVa_keeps (keeps_of_fst (by assumption) (State.readVa_keeps ‹_›))))))))
      · exact State.restoreFault_keeps (keeps_of_fst (by assumption) (State.restoreFrom_keeps (keeps_of_fst (by assumption)
          (State.readVa_keeps (keeps_of_fst (by assumption) (State.readVa_keeps ‹_›))))))

theorem State.resumeCtx_keeps {a s : State} {p k : Nat} (h : Keeps a s) : Keeps a (State.resumeCtx s p k) := by
  unfold State.resumeCtx
  extract_lets +onlyGivenNames -underBinder x1
  have hx1 : Keeps a x1 := State.updCtx_keeps ‹_›
  clear_value x1
  exact State.resumeDescs_keeps ‹_›

theorem State.ctxPerform_keeps {a s : State} {p k op : Nat} (h : Keeps a s) : Keeps a (State.ctxPerform s p k op) := by
  unfold State.ctxPerform
  split
  · exact State.ctxResult_keeps (State.createCtx_keeps ‹_›)
  · exact State.ctxResult_keeps (State.resumeCtx_keeps ‹_›)
  · exact State.updCtx_keeps ‹_›
  · assumption

theorem State.destroyCtx_keeps {a s : State} {p k : Nat} (h : Keeps a s) : Keeps a (State.destroyCtx s p k) := by
  unfold State.destroyCtx
  extract_lets +onlyGivenNames -underBinder x1
  have hx1 : Keeps a x1 := State.endWork_keeps ‹_›
  clear_value x1
  extract_lets +onlyGivenNames -underBinder x2
  have hx2 : Keeps a x2 := State.updCtx_keeps ‹_›
  clear_value x2
  exact State.pumpAll_keeps (State.updCtxX_keeps ‹_›)

theorem State.preemptCtx_keeps {a s : State} {p k : Nat} (h : Keeps a s) : Keeps a (State.preemptCtx s p k) := by
  unfold State.preemptCtx
  extract_lets +onlyGivenNames -underBinder x1
  clear_value x1
  extract_lets +onlyGivenNames -underBinder x2
  have hx2 : Keeps a x2 := State.updCtx_keeps ‹_›
  clear_value x2
  extract_lets +onlyGivenNames -underBinder x3
  have hx3 : Keeps a x3 := Keeps.tmap ‹_› (fun _ _ => rfl)
  clear_value x3
  extract_lets +onlyGivenNames -underBinder x4
  have hx4 : Keeps a x4 := State.each_keeps ‹_› (fun _ _ _ => State.preemptBat_keeps ‹_›)
  clear_value x4
  extract_lets +onlyGivenNames -underBinder x8
  have hx8 : Keeps a x8 := State.dropWaits_keeps ‹_› (fun _ _ _ => State.leaveCmd_keeps ‹_›)
  clear_value x8
  extract_lets +onlyGivenNames -underBinder x12
  have hx12 : Keeps a x12 := State.each_keeps ‹_› (fun _ _ _ => State.preemptDesc_keeps ‹_›)
  clear_value x12
  extract_lets +onlyGivenNames -underBinder x16
  have hx16 : Keeps a x16 := Keeps.tmap ‹_› (fun _ _ => rfl)
  clear_value x16
  extract_lets +onlyGivenNames -underBinder x17
  clear_value x17
  extract_lets +onlyGivenNames -underBinder x18
  have hx18 : Keeps a x18 := Keeps.of_eq (s := x16) ‹_› rfl rfl rfl rfl rfl
  clear_value x18
  exact State.pumpAll_keeps ‹_›

theorem stepSaveComplete_keeps {a : State} {p : Fin 16} {k : Fin 64} {s : State} (h : Keeps a s) : Keeps a (stepSaveComplete p k s) := by
  unfold stepSaveComplete
  extract_lets +onlyGivenNames -underBinder x1
  clear_value x1
  refine keeps_ite ‹_› ?_
  extract_lets +onlyGivenNames -underBinder x2
  clear_value x2
  extract_lets +onlyGivenNames -underBinder x3
  clear_value x3
  extract_lets +onlyGivenNames -underBinder x4
  extract_lets +onlyGivenNames -underBinder x5
  clear_value x5
  split
  · exact State.ctxResult_keeps (State.updCtx_keeps (keeps_of_fst (by assumption) (State.devPages_keeps ‹_›)))
  · refine keeps_ite (State.ctxResult_keeps (State.updCtx_keeps (State.each_keeps (keeps_of_fst (by assumption) (State.devPages_keeps
      ‹_›)) (fun _ _ _ => State.lostNotice_keeps ‹_›)))) ?_
    extract_lets +onlyGivenNames -underBinder x9
    have hx9 : Keeps a x9 := State.writePieces_keeps (State.saveFree_keeps (keeps_of_fst (by assumption) (State.devPages_keeps ‹_›)))
    clear_value x9
    exact State.pumpAll_keeps (State.ctxResult_keeps (State.updCtx_keeps ‹_›))

theorem State.ctxOp_keeps {a s : State} {p k op : Nat} (h : Keeps a s) : Keeps a (State.ctxOp s p k op) := by
  unfold State.ctxOp
  extract_lets +onlyGivenNames -underBinder x1
  clear_value x1
  refine keeps_ite (State.ctxRefuse_keeps ‹_›) (keeps_ite (State.ctxRefuse_keeps ‹_›) (keeps_ite ?_ ?_))
  · split
    · exact keeps_ite (State.updCtx_keeps (keeps_of_fst (by assumption) (State.resetContext_keeps ‹_›))) (keeps_of_fst (by assumption)
        (State.resetContext_keeps ‹_›))
    · exact State.ctxRefuse_keeps (keeps_of_fst (by assumption) (State.resetContext_keeps ‹_›))
  · split
    · exact State.ctxRefuse_keeps ‹_›
    · assumption
    · refine keeps_ite (State.ctxRefuse_keeps ‹_›) ?_
      extract_lets +onlyGivenNames -underBinder x2
      have hx2 : Keeps a x2 := State.updCtx_keeps (State.takeOver_keeps ‹_›)
      clear_value x2
      exact keeps_ite (State.preemptCtx_keeps ‹_›) (keeps_ite (State.updCtx_keeps ‹_›) (keeps_ite (State.ctxResult_keeps
          (State.destroyCtx_keeps ‹_›)) (keeps_ite ‹_› (State.ctxPerform_keeps ‹_›))))

theorem State.ctxFields_keeps {a s : State} {p : ℕ} {k : ℕ} {v : Dword} (h : Keeps a s) : Keeps a (State.ctxFields s p k v) := by
  unfold State.ctxFields
  exact State.updCtx_keeps ‹_›

theorem State.ctxWrite_keeps {a s : State} {fn : Fn} {p : ℕ} {k : ℕ} {v : Dword} (h : Keeps a s) : Keeps a (State.ctxWrite s fn p k v) := by
  unfold State.ctxWrite
  refine State.gateP_keeps ‹_› ?_
  intro z1 hz2
  extract_lets +onlyGivenNames -underBinder x3
  clear_value x3
  extract_lets +onlyGivenNames -underBinder x4
  have hx4 : Keeps a x4 := State.ctxFields_keeps ‹_›
  clear_value x4
  exact keeps_ite (State.ctxOp_keeps ‹_›) ‹_›

theorem stepContextReset_keeps {a : State} {who : Issuer} {p : Fin 16} {k : Fin 64} {s : State} (h : Keeps a s) :
    Keeps a (stepContextReset who p k s) := by
  unfold stepContextReset
  split
  · exact State.ctxWrite_keeps ‹_›
  · exact State.ctxOp_keeps ‹_›

/-! Check. -/

theorem State.endFirst_keeps {a s : State} {k : Check} (h : Keeps a s) : Keeps a (State.endFirst s k) := by
  unfold State.endFirst
  split
  · exact keeps_ite (State.endDuty_keeps ‹_›) ‹_›
  · assumption

theorem State.checkDone_keeps {a s : State} {k : Check} {good : Bool} (h : Keeps a s) : Keeps a (State.checkDone s k good) := by
  unfold State.checkDone
  extract_lets +onlyGivenNames -underBinder x1
  have hx1 : Keeps a x1 := State.updClX_keeps (State.endFirst_keeps (State.endDutyOf_keeps ‹_›))
  clear_value x1
  exact State.updTile_keeps ‹_›

theorem stepCheck_keeps {a : State} {t checker : TileId} {s : State} (h : Keeps a s) : Keeps a (stepCheck t checker s) := by
  unfold stepCheck
  extract_lets +onlyGivenNames -underBinder x1 x2 x3 x4 x5
  have hx5 : ∀ (cap : Capture) (s : State), Keeps a s → Keeps a (x5 cap s) := fun _ s hs =>
    State.updTile_keeps (Keeps.of_eq (s := s) hs rfl rfl rfl rfl rfl)
  clear_value x5 x4
  split
  · extract_lets +onlyGivenNames -underBinder x6
    exact keeps_ite (hx5 _ _ (State.updClX_keeps (State.endDuty_keeps h))) h
  · split
    · exact h
    · exact keeps_ite h (keeps_ite h (hx5 _ _ (State.updClX_keeps (State.updTile_keeps h))))

theorem stepCheckResult_keeps {a : State} {t : TileId} {signature : Word} {s : State} (h : Keeps a s) : Keeps a
    (stepCheckResult t signature s) := by
  unfold stepCheckResult
  extract_lets +onlyGivenNames -underBinder x1
  clear_value x1
  split
  · assumption
  · exact keeps_ite (State.checkDone_keeps ‹_›) (State.updClX_keeps ‹_›)

theorem State.stepCtx_keeps {a s : State} {p k : Nat} (h : Keeps a s) : Keeps a (State.stepCtx s p k) := by
  unfold State.stepCtx
  extract_lets +onlyGivenNames -underBinder x1 x2
  have hx2 : Keeps a x2 := State.updCtxX_keeps ‹_›
  clear_value x2 x1
  extract_lets +onlyGivenNames -underBinder x3
  have hx3 : Keeps a x3 := Keeps.of_eq (s := x2) ‹_› rfl rfl rfl rfl rfl
  clear_value x3
  extract_lets +onlyGivenNames -underBinder x4
  have hx4 : Keeps a x4 := State.updCtxX_keeps ‹_›
  clear_value x4
  exact State.showChecks_keeps (State.each_keeps ‹_› (fun _ _ _ => State.recompute_keeps ‹_›))

theorem stepCheckLost_keeps {a : State} {t : TileId} {s : State} (h : Keeps a s) : Keeps a (stepCheckLost t s) := by
  unfold stepCheckLost
  split
  · assumption
  · exact State.loseCheck_keeps ‹_›

theorem stepStepCommand_keeps {a : State} {p : Fin 16} {k : Fin 64} {s : State} (h : Keeps a s) : Keeps a (stepStepCommand p k s) := by
  unfold stepStepCommand
  split
  · assumption
  · exact keeps_ite (State.complete_keeps (State.stepCtx_keeps (State.startCmd_keeps ‹_›))) ‹_›

theorem State.workerErrs_keeps {a s : State} {k : Check} {unresolved : Bool} {second sig2 : Nat} (h : Keeps a s) : Keeps a
    (State.workerErrs s k unresolved second sig2) := by
  unfold State.workerErrs
  extract_lets +onlyGivenNames -underBinder x1 x2
  have hx2 : Keeps a x2 := State.raise_keeps ‹_›
  clear_value x2 x1
  exact State.confirm_keeps ‹_›

theorem stepSecondCheckResult_keeps {a : State} {t : TileId} {signature : Word} {s : State} (h : Keeps a s) : Keeps a
    (stepSecondCheckResult t signature s) := by
  unfold stepSecondCheckResult
  extract_lets +onlyGivenNames -underBinder x1
  clear_value x1
  split
  · assumption
  · split
    · refine keeps_ite ?_ (keeps_ite (State.workerErrs_keeps (State.checkDone_keeps ‹_›)) (State.suspect_keeps (State.workerErrs_keeps
        (State.checkDone_keeps ‹_›))))
      extract_lets +onlyGivenNames -underBinder y3 x2
      have hx2 : Keeps a x2 := State.raise_keeps ‹_›
      clear_value x2 y3
      exact State.confirm_keeps (State.checkDone_keeps ‹_›)
    · assumption

theorem stepSecondCheckTimeout_keeps {a : State} {t : TileId} {s : State} (h : Keeps a s) : Keeps a (stepSecondCheckTimeout t s) := by
  unfold stepSecondCheckTimeout
  split
  · assumption
  · exact State.workerErrs_keeps (State.checkDone_keeps ‹_›)

/-! Clock. -/

theorem State.checkQueue_keeps {a s : State} (h : Keeps a s) : Keeps a (State.checkQueue s) := by
  unfold State.checkQueue
  exact keeps_ite (State.emit_keeps (Keeps.of_eq (s := s) ‹_› rfl rfl rfl rfl rfl)) ‹_›

theorem State.flushPart_keeps {a s : State} {p : Nat} (h : Keeps a s) : Keeps a (State.flushPart s p) := by
  unfold State.flushPart
  exact Keeps.tmap (s := s) ‹_› (fun _ _ => rfl)

theorem State.countIdle_keeps {a s : State} (h : Keeps a s) : Keeps a (State.countIdle s) := by
  unfold State.countIdle
  extract_lets +onlyGivenNames -underBinder x1
  have hx1 : Keeps a x1 := State.countTraffic_keeps ‹_›
  clear_value x1
  exact State.each_keeps ‹_› (fun _ _ _ => State.updClock_keeps ‹_› (fun hx => ⟨hx.code, hx.target, hx.held, hx.dvfs⟩))

theorem State.tick_keeps {a s : State} (h : Keeps a s) : Keeps a (State.tick s) := by
  unfold State.tick
  refine keeps_ite ‹_› ?_
  extract_lets +onlyGivenNames -underBinder x1
  clear_value x1
  extract_lets +onlyGivenNames -underBinder x2
  have hx2 : Keeps a x2 := State.countIdle_keeps (keeps_ite (State.checkQueue_keeps (State.countRingWait_keeps ‹_›)) ‹_›)
  clear_value x2
  exact Keeps.of_eq (s := x2) ‹_› rfl rfl rfl rfl rfl

theorem State.writeStill_keeps {a s : State} {fn : Fn} {p k off : Nat} {val : Dword} {f : CtxX → CtxX} (h : Keeps a s) : Keeps a
    (State.writeStill s fn p k off val f) := by
  unfold State.writeStill
  exact keeps_ite (State.refuseP_keeps ‹_›) (keeps_ite (State.refuseP_keeps ‹_›) (State.updCtxX_keeps ‹_›))

theorem stepFlush_keeps {a : State} {fn : Fn} {p : Fin 16} {s : State} (h : Keeps a s) : Keeps a (stepFlush fn p s) := by
  unfold stepFlush
  exact keeps_ite (State.refuseP_keeps ‹_›) (keeps_ite (State.refuseP_keeps ‹_›) (State.flushPart_keeps ‹_›))

theorem State.endExcursion_keeps {a s : State} {c : Nat} (h : Keeps a s) : Keeps a (State.endExcursion s c) := by
  unfold State.endExcursion
  extract_lets +onlyGivenNames -underBinder x1 x2
  have hx2 : Keeps a x2 := State.updClock_keeps ‹_› (fun hx => ⟨hx.code, hx.target, hx.held, hx.dvfs⟩)
  clear_value x2 x1
  extract_lets +onlyGivenNames -underBinder y4 x3 x5
  have hx5 : Keeps a x5 := State.raise_keeps ‹_›
  clear_value x5 x3 y4
  split
  · assumption
  · exact State.each_keeps ‹_› (fun _ _ _ => State.ringRecord_keeps ‹_›)

theorem State.setCode_keeps {a s : State} {c n : Nat} (h : Keeps a s) (hn : (s.clock c).legal → legalCode n) : Keeps a (s.setCode c n) := by
  unfold State.setCode
  extract_lets +onlyGivenNames k s1
  have h1 : Keeps a s1 := State.updClock_keeps h fun hx => ⟨hn hx, ite_target no_target hx.target, hx.held, hx.dvfs⟩
  clear_value s1
  exact keeps_ite (State.endExcursion_keeps h1) h1

theorem Clock.next_legal {k : Clock} {up : Bool} {n : Nat} (h : k.legal) (e : k.next up = some n) : legalCode n := by
  have hc := h.code
  unfold Clock.next at e
  split at e
  · rename_i t ht
    have := h.target t ht
    repeat' split at e
    all_goals simp at e
    all_goals omega
  · simp at e

theorem stepAclkStep_keeps {a s : State} {c : Fin 16} {up : Bool} (h : Keeps a s) : Keeps a (stepAclkStep c up s) := by
  unfold stepAclkStep
  refine keeps_ite h ?_
  split
  · rename_i e
    exact State.setCode_keeps h fun k => Clock.next_legal k e
  · exact h

theorem State.runWaiting_keeps {a s : State} {p : Nat} (h : Keeps a s) : Keeps a (State.runWaiting s p) := by
  unfold State.runWaiting
  refine State.each_keeps ‹_› ?_
  intro z1 z2 hz1
  extract_lets +onlyGivenNames -underBinder x3
  clear_value x3
  exact keeps_ite (State.ctxPerform_keeps ‹_›) ‹_›

theorem State.unpinWaits_keeps {a s : State} {c : Nat} (h : Keeps a s) : Keeps a (State.unpinWaits s c) := by
  unfold State.unpinWaits
  exact State.each_keeps ‹_› (fun _ _ _ => State.armChecks_keeps ‹_›)

theorem stepPinned_keeps {a : State} {p : Fin 16} {s : State} (h : Keeps a s) : Keeps a (stepPinned p s) := by
  unfold stepPinned
  extract_lets +onlyGivenNames -underBinder x1
  clear_value x1
  refine keeps_ite ‹_› ?_
  extract_lets +onlyGivenNames -underBinder x2 x3
  have hx3 : Keeps a x3 := State.each_keeps ‹_› (fun _ _ _ => State.unpinWaits_keeps (State.updClock_keeps ‹_› (fun hx => ⟨hx.code,
      no_target, hx.held, hx.dvfs⟩)))
  clear_value x3 x2
  exact keeps_ite (State.runWaiting_keeps (State.updPart_keeps ‹_›)) ‹_›

theorem State.setStrict_keeps {a s : State} {p : ℕ} {on : Bool} (h : Keeps a s) : Keeps a (State.setStrict s p on) := by
  unfold State.setStrict
  extract_lets +onlyGivenNames -underBinder x1
  clear_value x1
  refine keeps_ite ?_ ?_
  · extract_lets +onlyGivenNames -underBinder x2
    have hx2 : Keeps a x2 := State.each_keeps ‹_› (fun _ _ _ => State.updClock_keeps ‹_› (fun hx =>
      ⟨hx.code, ite_target no_target (some_target legalCode_54), hx.held, hx.dvfs⟩))
    clear_value x2
    extract_lets +onlyGivenNames -underBinder x7
    have hx7 : Keeps a x7 := State.each_keeps ‹_› (fun _ _ _ => State.logPower_keeps ‹_›)
    clear_value x7
    exact State.updPart_keeps ‹_›
  · extract_lets +onlyGivenNames -underBinder x11
    have hx11 : Keeps a x11 := State.each_keeps ‹_› (fun _ _ _ => State.endExcursion_keeps ‹_›)
    clear_value x11
    extract_lets +onlyGivenNames -underBinder x15
    have hx15 : Keeps a x15 := State.each_keeps ‹_› (fun _ _ _ => State.updClock_keeps ‹_› (fun hx =>
      ⟨hx.code, no_target, no_target, hx.code⟩))
    clear_value x15
    extract_lets +onlyGivenNames -underBinder x20
    have hx20 : Keeps a x20 := State.updPart_keeps ‹_›
    clear_value x20
    exact State.runWaiting_keeps (State.each_keeps ‹_› (fun _ _ _ => State.unpinWaits_keeps ‹_›))

theorem State.writeStrict_keeps {a s : State} {p : Nat} {on : Bool} (h : Keeps a s) : Keeps a (State.writeStrict s p on) := by
  unfold State.writeStrict
  extract_lets +onlyGivenNames -underBinder x1
  have hx1 : ∀ (y2 : Sys2Proof.Machine.State) (y3 : ℕ), Keeps a y2 → Keeps a (x1 y2 y3) := by
    intro y2 y3 hy2
    unfold x1
    refine State.updPart_keeps ?_
    assumption
  clear_value x1
  exact keeps_ite (hx1 _ _ ‹_›) (keeps_ite (hx1 _ _ ‹_›) (keeps_ite (hx1 _ _ ‹_›) (hx1 _ _ (State.setStrict_keeps ‹_›))))

theorem stepStrictWrite_keeps {a : State} {fn : Fn} {p : Fin 16} {val : Dword} {s : State} (h : Keeps a s) : Keeps a
    (stepStrictWrite
    fn p val s) := by
  unfold stepStrictWrite
  refine keeps_ite (State.refuseP_keeps ‹_›) (keeps_ite (State.refuseP_keeps ‹_›) ?_)
  extract_lets +onlyGivenNames -underBinder x1
  have hx1 : Keeps a x1 := State.writeStrict_keeps ‹_›
  clear_value x1
  exact keeps_ite (State.flushPart_keeps ‹_›) ‹_›

/-! Tap. -/

theorem State.kindPassed_keeps {a s : State} {ta kind : Nat} (h : Keeps a s) : Keeps a (State.kindPassed s ta kind) := by
  unfold State.kindPassed
  extract_lets +onlyGivenNames -underBinder x1
  clear_value x1
  exact State.updTile_keeps ‹_›

theorem State.marched_keeps {a s : State} {x : TapSlice} (h : Keeps a s) : Keeps a (State.marched s x) := by
  unfold State.marched
  refine keeps_ite ‹_› ?_
  refine State.each_keeps ‹_› ?_
  intro z1 z2 hz1
  extract_lets +onlyGivenNames -underBinder x3
  clear_value x3
  exact State.updTile_keeps ‹_›

theorem State.readmit_keeps {a s : State} {kind idx : Nat} (h : Keeps a s) : Keeps a (State.readmit s kind idx) := by
  unfold State.readmit
  refine keeps_ite ?_ ‹_›
  extract_lets +onlyGivenNames -underBinder y2 x1
  have hx1 : Keeps a x1 := Keeps.of_eq (s := s) ‹_› rfl rfl rfl rfl rfl
  clear_value x1 y2
  exact State.each_keeps ‹_› (fun _ _ _ => State.updRouter_keeps ‹_›)

theorem State.setRetest_keeps {a s : State} {kind idx : Nat} {n : Option Nat} (h : Keeps a s) : Keeps a (State.setRetest s kind idx n) := by
  unfold State.setRetest
  exact Keeps.of_eq (s := s) ‹_› rfl rfl rfl rfl rfl

theorem State.startSlice_keeps {a s : State} {kind u : Nat} {retest forced : Bool} (h : Keeps a s) :
    Keeps a (State.startSlice s kind u retest forced) := by
  unfold State.startSlice
  extract_lets +onlyGivenNames -underBinder x1
  clear_value x1
  extract_lets +onlyGivenNames -underBinder x2
  clear_value x2
  extract_lets +onlyGivenNames -underBinder x3
  have hx3 : Keeps a x3 := Keeps.of_eq (s := s) ‹_› rfl rfl rfl rfl rfl
  clear_value x3
  exact keeps_ite (State.updClock_keeps (State.updTile_keeps ‹_›) (fun hx => ⟨hx.code, hx.target, hx.held, hx.dvfs⟩)) ‹_›

theorem State.writeLedger_keeps {a s : State} {n v : Nat} (h : Keeps a s) : Keeps a (State.writeLedger s n v) := by
  unfold State.writeLedger
  extract_lets +onlyGivenNames -underBinder x1 x2
  clear_value x2 x1
  exact Keeps.of_eq (s := s) ‹_› rfl rfl rfl rfl rfl

theorem stepLedgerHeaderRewrite_keeps {a s : State} (h : Keeps a s) : Keeps a (stepLedgerHeaderRewrite s) := by
  unfold stepLedgerHeaderRewrite
  refine keeps_ite ‹_› ?_
  extract_lets +onlyGivenNames -underBinder x1
  have hx1 : Keeps a x1 := State.writeLedger_keeps ‹_›
  clear_value x1
  exact Keeps.of_eq (s := x1) ‹_› rfl rfl rfl rfl rfl

theorem stepLedgerWrite_keeps {a : State} {u : UnitId} {s : State} (h : Keeps a s) : Keeps a (stepLedgerWrite u s) := by
  unfold stepLedgerWrite
  extract_lets +onlyGivenNames -underBinder x1
  clear_value x1
  refine keeps_ite ‹_› ?_
  extract_lets +onlyGivenNames -underBinder x2
  have hx2 : Keeps a x2 := State.writeLedger_keeps ‹_›
  clear_value x2
  extract_lets +onlyGivenNames -underBinder x3
  clear_value x3
  exact Keeps.of_eq (s := x2) ‹_› rfl rfl rfl rfl rfl

theorem stepTapForced_keeps {a : State} {t : TileId} {s : State} (h : Keeps a s) : Keeps a (stepTapForced t s) := by
  unfold stepTapForced
  extract_lets +onlyGivenNames -underBinder x1
  clear_value x1
  exact keeps_ite (State.updTile_keeps ‹_›) ‹_›

theorem stepTapSchedule_keeps {a : State} {kind u : Nat} {s : State} (h : Keeps a s) : Keeps a (stepTapSchedule kind u s) := by
  unfold stepTapSchedule
  refine keeps_ite ‹_› ?_
  refine keeps_ite (keeps_ite (State.startSlice_keeps ‹_›) ‹_›) ?_
  extract_lets +onlyGivenNames -underBinder x1
  clear_value x1
  refine keeps_ite ?_ ‹_›
  extract_lets +onlyGivenNames -underBinder x2 x3
  clear_value x3 x2
  exact State.startSlice_keeps (Keeps.of_eq (s := s) ‹_› rfl rfl rfl rfl rfl)

theorem retestSlice_legal {kind idx n k u f : Nat} (h : retestSlice kind idx n = some (k, u, some f)) : legalCode f := by
  unfold retestSlice at h
  repeat' split at h
  all_goals simp at h
  all_goals omega

theorem State.retestGo_keeps {a s : State} {kind idx n : Nat} (h : Keeps a s) : Keeps a (s.retestGo kind idx n) := by
  unfold State.retestGo
  split
  · exact h
  · rename_i k u code e
    refine keeps_ite h ?_
    split
    · exact keeps_ite h (State.startSlice_keeps h)
    · exact keeps_ite (keeps_ite (State.startSlice_keeps h) h)
        (State.updClock_keeps h fun hx => ⟨hx.code, some_target (retestSlice_legal e), hx.held, hx.dvfs⟩)

theorem testCode_legal (n : Nat) : legalCode (testCode n) := by
  unfold testCode
  split <;> [decide; (split <;> decide)]

theorem stepForcedHold_keeps {a : State} {c : Fin 16} {b : Fin 64} {s : State} (h : Keeps a s) : Keeps a (stepForcedHold c b s) := by
  unfold stepForcedHold
  extract_lets +onlyGivenNames -underBinder x1
  clear_value x1
  refine keeps_ite ‹_› ?_
  extract_lets +onlyGivenNames -underBinder x2
  have hx2 : Keeps a x2 := State.updClX_keeps ‹_›
  clear_value x2
  extract_lets +onlyGivenNames -underBinder x3
  have hx3 : Keeps a x3 := State.updClock_keeps ‹_› (fun hx => ⟨hx.code, ite_target no_target (some_target (testCode_legal _)), hx.held,
      hx.dvfs⟩)
  clear_value x3
  exact keeps_ite (State.logPower_keeps ‹_›) ‹_›

theorem stepRetestRetry_keeps {a : State} {u : UnitId} {s : State} (h : Keeps a s) : Keeps a (stepRetestRetry u s) := by
  unfold stepRetestRetry
  split
  · exact State.retestGo_keeps (State.setRetest_keeps ‹_›)
  · assumption

theorem stepRetestStart_keeps {a : State} {u : UnitId} {s : State} (h : Keeps a s) : Keeps a (stepRetestStart u s) := by
  unfold stepRetestStart
  split
  · assumption
  · exact keeps_ite ‹_› (State.retestGo_keeps (State.setRetest_keeps ‹_›))

theorem stepRetestTimeout_keeps {a : State} {u : UnitId} {s : State} (h : Keeps a s) : Keeps a (stepRetestTimeout u s) := by
  unfold stepRetestTimeout
  split
  · assumption
  · extract_lets +onlyGivenNames -underBinder x1
    have hx1 : Keeps a x1 := State.abandonSlices_keeps ‹_›
    clear_value x1
    extract_lets +onlyGivenNames -underBinder x2
    have hx2 : Keeps a x2 := keeps_ite (State.updClock_keeps ‹_› Clock.release_none_legal) ‹_›
    clear_value x2
    exact State.setRetest_keeps ‹_›

theorem State.retestPass_keeps {a s : State} {kind idx : Nat} (h : Keeps a s) : Keeps a (State.retestPass s kind idx) := by
  unfold State.retestPass
  extract_lets +onlyGivenNames -underBinder x1 x2
  have hx2 : Keeps a x2 := State.setRetest_keeps ‹_›
  clear_value x2 x1
  extract_lets +onlyGivenNames -underBinder y4 x3
  have hx3 : Keeps a x3 := keeps_ite (State.raise_keeps (State.setLedger_keeps ‹_›)) ‹_›
  clear_value x3 y4
  exact keeps_ite (State.readmit_keeps ‹_›) (State.answer_keeps ‹_›)

theorem stepTapOverdue_keeps {a : State} {t : TileId} {s : State} (h : Keeps a s) : Keeps a (stepTapOverdue t s) := by
  unfold stepTapOverdue
  extract_lets +onlyGivenNames -underBinder x1 x2
  clear_value x2 x1
  exact keeps_ite (State.raise_keeps (State.updTile_keeps ‹_›)) ‹_›

theorem State.releaseHold_keeps {a s : State} {c : Nat} (h : Keeps a s) : Keeps a (State.releaseHold s c) := by
  unfold State.releaseHold
  refine keeps_ite ‹_› ?_
  extract_lets +onlyGivenNames -underBinder x1
  clear_value x1
  extract_lets +onlyGivenNames -underBinder x2
  have hx2 : Keeps a x2 := State.updClX_keeps ‹_›
  clear_value x2
  extract_lets +onlyGivenNames -underBinder x3
  clear_value x3
  extract_lets +onlyGivenNames -underBinder x4
  have hx4 : Keeps a x4 := keeps_ite ‹_› (State.updClock_keeps ‹_› Clock.release_none_legal)
  clear_value x4
  exact State.pumpBat_keeps ‹_›

theorem State.retestFail_keeps {a s : State} {kind idx : Nat} (h : Keeps a s) : Keeps a (State.retestFail s kind idx) := by
  unfold State.retestFail
  extract_lets +onlyGivenNames -underBinder x1 x2
  have hx2 : Keeps a x2 := State.answer_keeps (State.setRetest_keeps ‹_›)
  clear_value x2 x1
  refine keeps_ite ?_ ‹_›
  extract_lets +onlyGivenNames -underBinder x3
  have hx3 : Keeps a x3 := State.raise_keeps (State.setLedger_keeps ‹_›)
  clear_value x3
  exact State.muffleUnit_keeps (Keeps.of_eq (s := x3) ‹_› rfl rfl rfl rfl rfl)

theorem State.skipSlice_keeps {a s : State} {x : TapSlice} {outcome : Nat} (h : Keeps a s) : Keeps a (State.skipSlice s x outcome) := by
  unfold State.skipSlice
  extract_lets +onlyGivenNames -underBinder x1 x2
  clear_value x2 x1
  refine keeps_ite (State.releaseHold_keeps (State.tapRecord_keeps (State.returnTile_keeps ‹_›))) ?_
  extract_lets +onlyGivenNames -underBinder x3
  have hx3 : Keeps a x3 := State.tapRecord_keeps (State.returnTile_keeps ‹_›)
  clear_value x3
  exact keeps_ite (State.updClX_keeps ‹_›) ‹_›

theorem State.skipSlices_keeps {a s : State} {c : Nat} (h : Keeps a s) : Keeps a (State.skipSlices s c) := by
  unfold State.skipSlices
  exact State.each_keeps ‹_› (fun _ _ _ => State.skipSlice_keeps ‹_›)

theorem stepRailSample_keeps {a : State} {kind u mv : Nat} {s : State} (h : Keeps a s) : Keeps a (stepRailSample kind u mv s) := by
  unfold stepRailSample
  split
  · assumption
  · extract_lets +onlyGivenNames -underBinder x1
    clear_value x1
    exact keeps_ite (State.skipSlice_keeps ‹_›) ‹_›

theorem stepScrubSlice_keeps {a : State} {u : UnitId} {last pass : Bool} {s : State} (h : Keeps a s) : Keeps a
    (stepScrubSlice u last pass s) := by
  unfold stepScrubSlice
  refine keeps_ite ‹_› ?_
  split
  · assumption
  · exact keeps_ite ‹_› (keeps_ite (State.retestFail_keeps ‹_›) (keeps_ite (State.retestPass_keeps ‹_›) ‹_›))

theorem State.retestEnd_keeps {a s : State} {x : TapSlice} {pass : Bool} (h : Keeps a s) : Keeps a (State.retestEnd s x pass) := by
  unfold State.retestEnd
  split
  · assumption
  · exact keeps_ite (State.retestFail_keeps ‹_›) (keeps_ite (State.retestPass_keeps ‹_›) (State.setRetest_keeps ‹_›))

theorem State.tapFail_keeps {a s : State} {x : TapSlice} {lanes : Nat} (h : Keeps a s) : Keeps a (State.tapFail s x lanes) := by
  unfold State.tapFail
  extract_lets +onlyGivenNames -underBinder x1
  clear_value x1
  extract_lets +onlyGivenNames -underBinder x2
  clear_value x2
  extract_lets +onlyGivenNames -underBinder x3
  have hx3 : Keeps a x3 := State.raise_keeps ‹_›
  clear_value x3
  exact State.each_keeps ‹_› (fun _ _ _ => State.confirm_keeps ‹_›)

theorem State.scrubLost_keeps {a s : State} {x : TapSlice} {banks : ℕ} (h : Keeps a s) : Keeps a (State.scrubLost s x banks) := by
  unfold State.scrubLost
  exact keeps_ite ‹_› (State.each_keeps ‹_› (fun _ _ _ => State.scratchLost_keeps ‹_›))

theorem stepTapSliceEnd_keeps {a : State} {kind u : Nat} {golden : Bool} {sig : Dword} {errors lanes : Nat} {s : State} (h : Keeps a s) :
    Keeps a (stepTapSliceEnd kind u golden sig errors lanes s) := by
  unfold stepTapSliceEnd
  split
  · assumption
  · extract_lets +onlyGivenNames -underBinder x1
    clear_value x1
    extract_lets +onlyGivenNames -underBinder x2
    clear_value x2
    extract_lets +onlyGivenNames -underBinder x3
    have hx3 : Keeps a x3 := State.tapRecord_keeps (State.marched_keeps (State.returnTile_keeps ‹_›))
    clear_value x3
    extract_lets +onlyGivenNames -underBinder x4
    have hx4 : Keeps a x4 := keeps_ite (State.updTile_keeps ‹_›) ‹_›
    clear_value x4
    extract_lets +onlyGivenNames -underBinder x5
    have hx5 : Keeps a x5 := keeps_ite (State.scrubLost_keeps ‹_›) ‹_›
    clear_value x5
    extract_lets +onlyGivenNames -underBinder x6
    have hx6 : Keeps a x6 := keeps_ite (State.kindPassed_keeps ‹_›) ‹_›
    clear_value x6
    extract_lets +onlyGivenNames -underBinder x7
    have hx7 : Keeps a x7 := keeps_ite (State.retestEnd_keeps ‹_›) (keeps_ite ‹_› (State.tapFail_keeps ‹_›))
    clear_value x7
    exact keeps_ite (State.releaseHold_keeps ‹_›) ‹_›

/-! Power. -/

theorem State.limitRaise_keeps {a s : State} {c : Nat} (h : Keeps a s) : Keeps a (s.limitRaise c) := by
  refine State.updClock_keeps h fun k => ?_
  have hd := k.dvfs
  have hc := k.code
  unfold legalCode at hd hc
  dsimp only
  generalize hg : (if (s.clock c).pinned = true then 54 else (s.clock c).dvfs) = g
  have hg' : g ≤ 64 := by
    split at hg <;> omega
  split
  · exact k
  · split
    · refine ⟨k.code, ?_, k.held, k.dvfs⟩
      intro t ht
      cases ht
      unfold legalCode
      omega
    · exact ⟨k.code, k.target, k.held, k.dvfs⟩

theorem stepThermalPeriod_keeps {a : State} {temps chips : List Nat} {s : State} (h : Keeps a s) : Keeps a
    (stepThermalPeriod temps chips s) := by
  unfold stepThermalPeriod
  extract_lets +onlyGivenNames -underBinder y2 x1
  have hx1 : Keeps a x1 := Keeps.of_eq (s := s) ‹_› rfl rfl rfl rfl rfl
  clear_value x1 y2
  refine keeps_ite ‹_› ?_
  extract_lets +onlyGivenNames -underBinder x3
  have hx3 : Keeps a x3 := by
    unfold x3
    refine keeps_ite ‹_› ?_
    refine State.each_keeps ‹_› ?_
    intro z4 z5 hz4
    split
    · exact State.updClY_keeps ‹_›
    · assumption
  clear_value x3
  refine keeps_ite ‹_› ?_
  refine State.each_keeps ‹_› ?_
  intro z6 z7 hz6
  split
  · exact State.updChan_keeps ‹_›
  · assumption

theorem State.logLimit_keeps {a s : State} {c : Nat} {wide : Bool} {code : Nat} (h : Keeps a s) : Keeps a (State.logLimit s c wide code)
    := by
  unfold State.logLimit
  extract_lets +onlyGivenNames -underBinder x1
  clear_value x1
  refine keeps_ite (Keeps.of_eq (s := s) ‹_› rfl rfl rfl rfl rfl) ?_
  extract_lets +onlyGivenNames -underBinder x2
  clear_value x2
  exact State.logPower_keeps (Keeps.of_eq (s := s) ‹_› rfl rfl rfl rfl rfl)

theorem stepCapPeriod_keeps {a : State} {inputW : Nat} {draws : List Nat} {s : State} (h : Keeps a s) : Keeps a
    (stepCapPeriod inputW draws s) := by
  unfold stepCapPeriod
  refine keeps_ite ‹_› ?_
  extract_lets +onlyGivenNames -underBinder x1 x2 x3 x4 x5 x6 x7 x8 x9 x10 x11
  have hx11 : Keeps a x11 := State.each_keeps ‹_› (fun _ _ _ => State.updClY_keeps ‹_›)
  clear_value x11 x10 x9 x8 x7 x6 x5 x4 x3 x2 x1
  extract_lets +onlyGivenNames -underBinder x14 y16 y17 x15
  have hx15 : Keeps a x15 := Keeps.of_eq (s := x11) ‹_› rfl rfl rfl rfl rfl
  clear_value x15 y17 y16 x14
  exact keeps_ite (State.logPower_keeps (State.event_keeps ‹_›)) ‹_›

theorem dvfsAsk_legal {k : Clock} {y : ClusterY} {draw waitShare : Nat} (hc : legalCode k.code) (hn : (dvfsAsk k y draw waitShare).1 ≠ 0) :
    legalCode (if (dvfsAsk k y draw waitShare).1 = 1 then k.code + 1 else k.code - 1) := by
  unfold legalCode dvfsAsk at *
  dsimp only at *
  split_ifs at hn ⊢ <;> simp_all <;> omega

theorem stepDvfsPeriod_keeps {a s : State} {c : Fin 16} {draw waitShare : Nat} (h : Keeps a s) :
    Keeps a (stepDvfsPeriod c draw waitShare s) := by
  unfold stepDvfsPeriod
  refine keeps_ite h ?_
  extract_lets +onlyGivenNames s1 k
  have h1 : Keeps a s1 := State.updClY_keeps h
  refine keeps_ite h1 ?_
  extract_lets +onlyGivenNames x s2 n
  have h2 : Keeps a s2 := State.updClock_keeps h1 fun hx => ⟨hx.code, hx.target, hx.held, hx.dvfs⟩
  split
  · exact h2
  · rename_i hn
    refine State.logPower_keeps (State.updClock_keeps h2 fun hx => ?_)
    have e : (s2.clock c.val).code = k.code := by simp [s2, k, State.clock, State.cl, State.updClock, State.updCl, Clock.inhibited]
    have hk : legalCode k.code := e ▸ hx.code
    have hl : legalCode n := by
      by_cases ht : k.target.isSome
      · simp [x, ht] at hn
      · simp only [n, x, ht, Bool.false_eq_true, if_false] at hn ⊢
        exact dvfsAsk_legal hk hn
    unfold Clock.dvfsTo
    split
    · exact ⟨hx.code, hx.target, some_target hl, hx.dvfs⟩
    · refine ⟨hx.code, some_target hl, hx.held, ?_⟩
      have hd := hx.dvfs
      dsimp only
      split
      · unfold legalCode at *
        omega
      · exact hl

theorem State.limitLower_keeps {a s : State} {wide : Bool} {c : ℕ} (h : Keeps a s) : Keeps a (State.limitLower s wide c) := by
  unfold State.limitLower
  extract_lets +onlyGivenNames -underBinder x1
  clear_value x1
  refine keeps_ite ?_ ?_
  · assumption
  · extract_lets +onlyGivenNames -underBinder x2
    have hx2 : Keeps a x2 := by
      unfold x2
      refine State.updClock_keeps ?_ ?_
      · refine State.skipSlices_keeps ?_
        assumption
      · exact fun hx => ⟨hx.code, some_target (by have := hx.code; omega), hx.held, hx.dvfs⟩
    clear_value x2
    refine State.logLimit_keeps ?_
    assumption

theorem stepCurrentLimitPeriod_keeps {a : State} {ma : Nat} {draws rails : List Nat} {s : State} (h : Keeps a s) : Keeps a
    (stepCurrentLimitPeriod ma draws rails s) := by
  unfold stepCurrentLimitPeriod
  extract_lets +onlyGivenNames -underBinder y2 x1
  have hx1 : Keeps a x1 := Keeps.of_eq (s := s) ‹_› rfl rfl rfl rfl rfl
  extract_lets +onlyGivenNames -underBinder x3
  extract_lets +onlyGivenNames -underBinder x4
  extract_lets +onlyGivenNames -underBinder x5
  extract_lets +onlyGivenNames -underBinder x6
  extract_lets +onlyGivenNames -underBinder x7
  extract_lets +onlyGivenNames -underBinder x8
  refine keeps_ite (Keeps.of_eq (State.each_keeps ‹_› (fun _ _ _ => State.limitLower_keeps ‹_›)) rfl rfl rfl rfl rfl) ?_
  extract_lets +onlyGivenNames -underBinder x13
  extract_lets +onlyGivenNames -underBinder y15 x14
  have hx14 : Keeps a x14 := Keeps.of_eq (s := x1) ‹_› rfl rfl rfl rfl rfl
  exact keeps_ite ‹_› (State.each_keeps ‹_› (fun _ _ _ => State.limitRaise_keeps ‹_›))

end Sys2Proof.Machine
end

