-- ==== Sys2Proof/Laws/KeepsCfg.lean ====
section
/-! SUPPORT. What every operation keeps, for the configuration and the ring. -/
namespace Sys2Proof.Machine

/-! Cfg. -/

theorem State.clearRedirects_keeps {a s : State} {c : Nat} {old new : ClusterCfg} (h : Keeps a s) : Keeps a
    (State.clearRedirects s c old new) := by
  unfold State.clearRedirects
  extract_lets +onlyGivenNames -underBinder x1
  clear_value x1
  refine State.each_keeps ‹_› ?_
  intro z2 z3 hz2
  extract_lets +onlyGivenNames -underBinder x4
  clear_value x4
  exact keeps_ite (State.updBatX_keeps ‹_›) ‹_›

theorem State.linkUp_keeps {a s : State} {c : Nat} {south : Bool} (h : Keeps a s) : Keeps a (State.linkUp s c south) := by
  unfold State.linkUp
  extract_lets +onlyGivenNames -underBinder x1 x2 x3 x4
  clear_value x4 x3 x2 x1
  exact State.updRouter_keeps (State.updRouter_keeps ‹_›)

theorem State.mapSlices_keeps {a s : State} {c : Nat} {g : ClusterCfg} (h : Keeps a s) : Keeps a (State.mapSlices s c g) := by
  unfold State.mapSlices
  refine State.each_keeps ‹_› ?_
  intro z1 z2 hz1
  refine keeps_ite ‹_› ?_
  split
  · exact State.updSlice_keeps ‹_›
  · extract_lets +onlyGivenNames -underBinder x3 x4
    clear_value x4 x3
    exact State.updSlice_keeps ‹_›

theorem State.zeroFree_keeps {a s : State} {c : ℕ} (h : Keeps a s) : Keeps a (State.zeroFree s c) := by
  unfold State.zeroFree
  exact Keeps.of_eq (s := s) ‹_› rfl rfl rfl rfl rfl

theorem State.rejoin_keeps {a s : State} {old : Sys2Proof.Machine.DeviceCfg} (h : Keeps a s) : Keeps a (State.rejoin s old) := by
  unfold State.rejoin
  refine State.each_keeps ‹_› ?_
  intro z1 z2 hz3
  extract_lets +onlyGivenNames -underBinder x4
  clear_value x4
  extract_lets +onlyGivenNames -underBinder x5
  clear_value x5
  refine keeps_ite ‹_› ?_
  extract_lets +onlyGivenNames -underBinder x6
  have hx6 : Keeps a x6 := State.zeroFree_keeps ‹_›
  clear_value x6
  split
  · exact keeps_ite (State.updClock_keeps ‹_› (fun hx => ⟨hx.code, ite_target no_target (some_target legalCode_54), hx.held, hx.dvfs⟩))
      (State.updClock_keeps ‹_› (fun hx => ⟨hx.code, hx.target, hx.held, hx.dvfs⟩))
  · exact State.updClock_keeps ‹_› (fun hx => ⟨hx.code, hx.target, hx.held, hx.dvfs⟩)

theorem State.updBank_keeps {a s : State} {t : Nat} {f : BankStatus → BankStatus} (h : Keeps a s) : Keeps a (State.updBank s t f) := by
  unfold State.updBank
  exact Keeps.of_eq (s := s) ‹_› rfl rfl rfl rfl rfl

theorem State.updStager_keeps {a s : State} {n : Nat} {f : Stager → Stager} (h : Keeps a s) : Keeps a (State.updStager s n f) := by
  unfold State.updStager
  exact Keeps.of_eq (s := s) ‹_› rfl rfl rfl rfl rfl

theorem State.zeroSlice_keeps {a s : State} {c n : Nat} (h : Keeps a s) : Keeps a (s.zeroSlice c n) := by
  have k : Keeps a ((s.dropLines (0x40000000000 + c * 0x8000000 + n * 0x100000) 0x100000).updCl c
      (fun y => { y with cache := y.cache.filter (fun l => l.set / 256 != n) })) :=
    State.updCl_keeps (State.dropLines_keeps h) fun _ hx => hx
  exact Keeps.of_parts k (fun w => mclear_wf w _ _) id rfl rfl rfl

theorem State.endSwap_keeps {a s : State} {t status : Nat} (h : Keeps a s) : Keeps a (State.endSwap s t status) := by
  unfold State.endSwap
  extract_lets +onlyGivenNames -underBinder x1 y3 x2
  have hx2 : Keeps a x2 := Keeps.of_eq (s := s) ‹_› rfl rfl rfl rfl rfl
  clear_value x2 y3 x1
  extract_lets +onlyGivenNames -underBinder x4
  have hx4 : Keeps a x4 := State.updBank_keeps ‹_›
  clear_value x4
  exact State.answer_keeps (State.each_keeps ‹_› (fun _ _ _ => State.completeOpt_keeps ‹_›))

theorem State.installDevice_keeps {a s : State} (h : Keeps a s) : Keeps a (State.installDevice s) := by
  unfold State.installDevice
  split
  · assumption
  · extract_lets +onlyGivenNames -underBinder x1 y3 x2
    have hx2 : Keeps a x2 := Keeps.of_eq (s := s) ‹_› rfl rfl rfl rfl rfl
    clear_value x2 y3 x1
    extract_lets +onlyGivenNames -underBinder y5 x4
    have hx4 : Keeps a x4 := Keeps.of_eq (s := x2) ‹_› rfl rfl rfl rfl rfl
    clear_value x4 y5
    extract_lets +onlyGivenNames -underBinder x6
    have hx6 : Keeps a x6 := State.each_keeps ‹_› (fun _ _ _ => State.updRouter_keeps ‹_›)
    clear_value x6
    extract_lets +onlyGivenNames -underBinder y10 x9
    have hx9 : Keeps a x9 := Keeps.of_eq (s := x6) ‹_› rfl rfl rfl rfl rfl
    clear_value x9 y10
    extract_lets +onlyGivenNames -underBinder x11
    have hx11 : Keeps a x11 := State.rejoin_keeps ‹_›
    clear_value x11
    exact State.endSwap_keeps (State.updBank_keeps ‹_›)

theorem State.stageGo_keeps {a s : State} {n t len : Nat} (h : Keeps a s) : Keeps a (State.stageGo s n t len).1 := by
  unfold State.stageGo
  refine keeps_ite_fst (keeps_pair ‹_›) ?_
  refine keeps_ite_fst (keeps_pair ‹_›) ?_
  refine keeps_ite_fst (keeps_pair ‹_›) ?_
  extract_lets +onlyGivenNames -underBinder x1
  have hx1 : Keeps a x1 := State.updBank_keeps ‹_›
  clear_value x1
  extract_lets +onlyGivenNames -underBinder y3 x2
  have hx2 : Keeps a x2 := keeps_ite (Keeps.of_eq (s := x1) ‹_› rfl rfl rfl rfl rfl) (Keeps.of_eq (s := x1) ‹_› rfl rfl rfl rfl rfl)
  clear_value x2 y3
  exact keeps_pair (State.updStager_keeps ‹_›)

theorem stepCfgStage_keeps {a : State} {fn : Fn} {val : Dword} {s : State} (h : Keeps a s) : Keeps a (stepCfgStage fn val s) := by
  unfold stepCfgStage
  split
  · extract_lets +onlyGivenNames -underBinder x1
    clear_value x1
    extract_lets +onlyGivenNames -underBinder x2
    clear_value x2
    refine keeps_ite (State.refuseG_keeps ‹_›) (keeps_ite (State.refuseG_keeps ‹_›) ?_)
    extract_lets +onlyGivenNames -underBinder x3
    have hx3 : Keeps a x3 := State.updStager_keeps ‹_›
    clear_value x3
    refine keeps_ite ‹_› (keeps_ite (State.updStager_keeps ‹_›) ?_)
    split
    · exact keeps_of_fst (by assumption) (State.stageGo_keeps ‹_›)
    · exact State.updStager_keeps (keeps_of_fst (by assumption) (State.stageGo_keeps ‹_›))
  · assumption

theorem stepStagingWindowWrite_keeps {a : State} {fn : Fn} {firmware : Bool} {off : Nat} {data : List Byte} {s : State} (h : Keeps a s) :
    Keeps a (stepStagingWindowWrite fn firmware off data s) := by
  unfold stepStagingWindowWrite
  split
  · extract_lets +onlyGivenNames -underBinder x1 x2
    clear_value x2 x1
    refine keeps_ite ‹_› ?_
    refine keeps_ite ?_ (keeps_ite (State.refuseG_keeps ‹_›) (keeps_ite (State.refuseG_keeps ‹_›) (State.updStager_keeps ‹_›)))
    extract_lets +onlyGivenNames -underBinder x3
    clear_value x3
    exact keeps_ite (State.refuseG_keeps ‹_›) (Keeps.of_eq (s := s) ‹_› rfl rfl rfl rfl rfl)
  · assumption

theorem State.advanceSwap_keeps {a s : State} {t : Nat} (h : Keeps a s) : Keeps a (State.advanceSwap s t) := by
  unfold State.advanceSwap
  refine keeps_ite ‹_› ?_
  refine keeps_ite (State.endSwap_keeps ‹_›) ?_
  extract_lets +onlyGivenNames -underBinder x1
  clear_value x1
  refine keeps_ite (State.endSwap_keeps ‹_›) ?_
  extract_lets +onlyGivenNames -underBinder y3 x2
  have hx2 : Keeps a x2 := Keeps.of_eq (s := s) ‹_› rfl rfl rfl rfl rfl
  clear_value x2 y3
  exact keeps_ite (State.each_keeps ‹_› (fun _ _ _ => State.updRouter_keeps ‹_›)) ‹_›

theorem State.bringUp_keeps {a s : State} {code : Nat} (h : Keeps a s) : Keeps a (State.bringUp s code) := by
  unfold State.bringUp
  extract_lets +onlyGivenNames -underBinder x1
  extract_lets +onlyGivenNames -underBinder x2
  extract_lets +onlyGivenNames -underBinder x3
  extract_lets +onlyGivenNames -underBinder x4
  extract_lets +onlyGivenNames -underBinder y6 x5
  have hx5 : Keeps a x5 := Keeps.of_eq (s := s) ‹_› rfl rfl rfl rfl rfl
  refine keeps_ite ‹_› (keeps_ite ?_ (keeps_ite (State.updSlice_keeps ‹_›) (keeps_ite ?_ (keeps_ite ?_ (keeps_ite (State.chanReady_keeps (State.updChan_keeps ‹_›))
    (keeps_ite (State.chanReady_keeps (State.updChan_keeps ‹_›)) (keeps_ite (State.wakeWave_keeps ‹_›) ‹_›)))))))
  · extract_lets +onlyGivenNames -underBinder x7
    exact keeps_ite ‹_› (State.tilesChanged_keeps (State.updClY_keeps ‹_›))
  · extract_lets +onlyGivenNames -underBinder y9 x8
    have hx8 : Keeps a x8 := Keeps.of_eq (s := x5) ‹_› rfl rfl rfl rfl rfl
    exact State.linkUp_keeps ‹_›
  · extract_lets +onlyGivenNames -underBinder y11 x10
    have hx10 : Keeps a x10 := Keeps.of_eq (s := x5) ‹_› rfl rfl rfl rfl rfl
    extract_lets +onlyGivenNames -underBinder y12 x11
    have hx11 : Keeps a x11 := Keeps.of_eq (s := x10) ‹_› rfl rfl rfl rfl rfl
    exact keeps_ite (State.each_keeps ‹_› (fun _ _ _ => State.linkUp_keeps ‹_›)) ‹_›

theorem State.orderSwap_keeps {a s : State} {t : Nat} {cmd : Option CmdRef} {byBelfry : Bool} {seq : Nat} (h : Keeps a s) : Keeps a
    (State.orderSwap s t cmd byBelfry seq).1 := by
  unfold State.orderSwap
  split
  · exact keeps_pair (State.completeOpt_keeps ‹_›)
  · exact keeps_pair (Keeps.of_eq (s := s) ‹_› rfl rfl rfl rfl rfl)
  · extract_lets +onlyGivenNames -underBinder y2 x1
    have hx1 : Keeps a x1 := Keeps.of_eq (s := s) ‹_› rfl rfl rfl rfl rfl
    clear_value x1 y2
    exact keeps_pair (State.advanceSwap_keeps (State.updBank_keeps ‹_›))

theorem stepCfgSwap_keeps {a : State} {device : Bool} {p : Fin 16} {k : Fin 64} {s : State} (h : Keeps a s) : Keeps a
    (stepCfgSwap device p k s) := by
  unfold stepCfgSwap
  split
  · assumption
  · exact keeps_ite (State.orderSwap_keeps (State.startCmd_keeps ‹_›)) ‹_›

theorem stepEpochFlip_keeps {a s : State} (h : Keeps a s) : Keeps a (stepEpochFlip s) := by
  unfold stepEpochFlip
  refine keeps_ite ‹_› ?_
  extract_lets +onlyGivenNames -underBinder x1 y3 x2
  have hx2 : Keeps a x2 := Keeps.of_eq (s := s) ‹_› rfl rfl rfl rfl rfl
  clear_value x2 y3 x1
  extract_lets +onlyGivenNames -underBinder x4
  have hx4 : Keeps a x4 := State.each_keeps ‹_› (fun _ _ _ => State.updRouter_keeps ‹_›)
  clear_value x4
  extract_lets +onlyGivenNames -underBinder x7
  have hx7 : Keeps a x7 := State.each_keeps ‹_› (fun _ _ _ => State.answer_keeps (State.bringUp_keeps ‹_›))
  clear_value x7
  exact keeps_ite (State.installDevice_keeps ‹_›) ‹_›

theorem stepSecure_keeps {a : State} {fn : Fn} {val : Dword} {s : State} (h : Keeps a s) : Keeps a (stepSecure fn val s) := by
  unfold stepSecure
  exact State.gateG_keeps ‹_› (fun z1 hz1 => keeps_ite (Keeps.of_eq (s := z1) ‹_› rfl rfl rfl rfl rfl) ‹_›)

theorem stepValidationComplete_keeps {a : State} {who : Nat} {s : State} (h : Keeps a s) : Keeps a (stepValidationComplete who s) := by
  unfold stepValidationComplete
  extract_lets +onlyGivenNames -underBinder x1
  clear_value x1
  refine keeps_ite ‹_› ?_
  extract_lets +onlyGivenNames -underBinder x2 x3 x4 x5
  have hx5 : Keeps a x5 := State.updStager_keeps ‹_›
  clear_value x5 x4 x3 x2
  extract_lets +onlyGivenNames -underBinder x6
  have hx6 : Keeps a x6 := keeps_ite (State.answer_keeps ‹_›) ‹_›
  clear_value x6
  extract_lets +onlyGivenNames -underBinder y8 x7
  have hx7 : Keeps a x7 := by
    unfold x7
    refine keeps_ite ‹_› ?_
    refine keeps_ite (Keeps.of_eq (s := x6) ‹_› rfl rfl rfl rfl rfl) ?_
    split
    · exact Keeps.of_eq (s := x6) ‹_› rfl rfl rfl rfl rfl
    · assumption
  clear_value x7 y8
  exact State.advanceSwap_keeps (State.updBank_keeps ‹_›)

theorem State.swapPartial_keeps {a s : State} {c : ℕ} {bats : List ℕ} (h : Keeps a s) : Keeps a (State.swapPartial s c bats) := by
  unfold State.swapPartial
  exact Keeps.of_eq (s := s) ‹_› rfl rfl rfl rfl rfl

theorem stepClusterSwapInstall_keeps {a : State} {c : Fin 16} {s : State} (h : Keeps a s) : Keeps a (stepClusterSwapInstall c s) := by
  unfold stepClusterSwapInstall
  split
  · assumption
  · refine keeps_ite ‹_› ?_
    extract_lets +onlyGivenNames -underBinder x1
    clear_value x1
    extract_lets +onlyGivenNames -underBinder x2
    clear_value x2
    extract_lets +onlyGivenNames -underBinder x3
    have hx3 : Keeps a x3 := State.swapPartial_keeps ‹_›
    clear_value x3
    extract_lets +onlyGivenNames -underBinder x4
    have hx4 : Keeps a x4 := keeps_ite ‹_› (State.mapSlices_keeps (State.each_keeps ‹_› (fun _ _ _ => State.zeroSlice_keeps ‹_›)))
    clear_value x4
    extract_lets +onlyGivenNames -underBinder x8
    have hx8 : Keeps a x8 := State.clearRedirects_keeps ‹_›
    clear_value x8
    extract_lets +onlyGivenNames -underBinder x9
    clear_value x9
    extract_lets +onlyGivenNames -underBinder x10
    have hx10 : Keeps a x10 := Keeps.of_eq (s := x8) ‹_› rfl rfl rfl rfl rfl
    clear_value x10
    extract_lets +onlyGivenNames -underBinder x11
    have hx11 : Keeps a x11 := State.updBank_keeps ‹_›
    clear_value x11
    exact State.pumpAll_keeps (State.tilesChanged_keeps (State.endSwap_keeps ‹_›))

/-! Ring. -/

theorem State.ackFrame_keeps {a s : State} {port : Nat} {i : Nat} {nak : Bool} (h : Keeps a s) : Keeps a (State.ackFrame s port i nak) := by
  unfold State.ackFrame
  extract_lets +onlyGivenNames -underBinder x1
  clear_value x1
  exact State.emit_keeps ‹_›

theorem State.loseLink_keeps {a s : State} {p : Nat} (h : Keeps a s) : Keeps a (State.loseLink s p) := by
  unfold State.loseLink
  exact keeps_ite (foldl_keeps (State.updRport_keeps ‹_›) (fun _ _ _ => State.updWave_keeps ‹_›)) ‹_›

theorem State.openBypass_keeps {a s : State} {r : Nat} (h : Keeps a s) : Keeps a (State.openBypass s r) := by
  unfold State.openBypass
  exact keeps_ite (foldl_keeps ‹_› (fun _ _ _ => State.updRport_keeps ‹_›)) ‹_›

theorem State.portReady_keeps {a s : State} {p : Nat} {pass : Bool} (h : Keeps a s) : Keeps a (State.portReady s p pass) := by
  unfold State.portReady
  extract_lets +onlyGivenNames -underBinder x1
  clear_value x1
  exact keeps_ite (State.openBypass_keeps (State.updRport_keeps ‹_›)) (keeps_ite (State.updRport_keeps ‹_›) ‹_›)

theorem State.setJob_keeps {a s : State} {j : RingJob} (h : Keeps a s) : Keeps a (State.setJob s j) := by
  unfold State.setJob
  exact Keeps.of_eq (s := s) ‹_› rfl rfl rfl rfl rfl

theorem State.writePages_keeps {a s : State} {l : List (Nat × Nat)} {bs : List Byte} (h : Keeps a s) : Keeps a (s.writePages l bs) := by
  induction l generalizing s bs with
  | nil => exact h
  | cons p rest ih => exact ih (State.storeRange_keeps h)

theorem State.closeBypass_keeps {a s : State} {r : Nat} (h : Keeps a s) : Keeps a (State.closeBypass s r) := by
  unfold State.closeBypass
  exact foldl_keeps ‹_› (fun _ _ _ => State.updRport_keeps (State.loseLink_keeps ‹_›))

theorem State.endJob_keeps {a s : State} {j : RingJob} {status : Nat} (h : Keeps a s) : Keeps a (State.endJob s j status) := by
  unfold State.endJob
  exact State.complete_keeps (State.takeJob_keeps (keeps_ite (State.blur_keeps ‹_›) ‹_›))

theorem State.ringPages_keeps {a s : State} {i : CtxId} {write : Bool} {fuel va n : Nat} (h : Keeps a s) :
    Keeps a (s.ringPages i write fuel va n).1 := by
  induction fuel generalizing s va n with
  | zero => exact h
  | succ fuel ih =>
    unfold State.ringPages
    split
    · exact h
    · extract_lets +onlyGivenNames k
      split <;> rename_i e <;> have h1 := keeps_of_fst e (State.translate_keeps h)
      · split
        · rename_i e2
          exact keeps_of_fst e2 (ih h1)
        · exact ih h1
      · exact h1
      · exact h1

theorem stepBypassClose_keeps {a : State} {ring : Fin 2} {s : State} (h : Keeps a s) : Keeps a (stepBypassClose ring s) := by
  unfold stepBypassClose
  exact keeps_ite ‹_› (State.closeBypass_keeps ‹_›)

theorem State.sendChunk_keeps {a s : State} {j : RingJob} {r : ℕ} {dir : ℕ} {m : ℕ} {n : ℕ} (h : Keeps a s) : Keeps a (State.sendChunk s
    j r dir m n).1 := by
  unfold State.sendChunk
  split
  · extract_lets +onlyGivenNames -underBinder x1
    have hx1 : Keeps a x1.1 := State.sendJob_keeps ‹_›
    clear_value x1
    assumption

theorem State.loseJob_keeps {a s : State} {j : RingJob} {l : List (Nat × Nat)} (h : Keeps a s) : Keeps a (s.loseJob j l) :=
  State.complete_keeps (State.dropJob_keeps (State.each_keeps h (fun _ _ k => State.lostNotice_keeps k)))

theorem State.sendChunks_keeps {a s : State} {j : RingJob} {r dir : Nat} {l : List (Nat × Nat)} (h : Keeps a s) :
    Keeps a (s.sendChunks j r dir l).1 := foldl_fst_keeps h fun _ _ k => State.sendChunk_keeps k

theorem State.moveChunks_keeps {a s : State} {j : RingJob} (h : Keeps a s) : Keeps a (State.moveChunks s j) := by
  unfold State.moveChunks
  split
  · assumption
  · exact keeps_ite h (keeps_ite (State.loseJob_keeps h) (State.setJob_keeps (State.sendChunks_keeps h)))

theorem State.sendDue_keeps {a s : State} {j : RingJob} {m r dir : Nat} (h : Keeps a s) : Keeps a (s.sendDue j m r dir) := by
  have hs := State.setJob_keeps (j := j) h
  exact keeps_ite hs (keeps_ite (State.loseJob_keeps hs) (State.setJob_keeps (State.sendChunks_keeps hs)))

theorem State.pushJob_keeps {a s : State} {j : RingJob} (h : Keeps a s) : Keeps a (s.pushJob j) := by
  unfold State.pushJob
  split
  · exact h
  · refine foldl_keeps (State.moveChunks_keeps h) (fun _ _ _ => ?_)
    split
    · exact State.sendDue_keeps ‹_›
    · assumption

theorem State.finishJob_keeps {a s : State} {p k : Nat} (h : Keeps a s) : Keeps a (s.finishJob p k) := by
  unfold State.finishJob
  split
  · exact h
  · exact keeps_ite (State.loseJob_keeps h) (State.endJob_keeps (State.writePages_keeps (State.drew_keeps h)))

theorem stepCensus_keeps {a : State} {ring : Fin 2} {returned : Bool} {mods : List (Nat × Nat × Bool)} {s : State} (h : Keeps a s) :
    Keeps a (stepCensus ring returned mods s) := by
  unfold stepCensus
  extract_lets +onlyGivenNames -underBinder x1
  clear_value x1
  extract_lets +onlyGivenNames -underBinder x2
  clear_value x2
  extract_lets +onlyGivenNames -underBinder x3
  clear_value x3
  extract_lets +onlyGivenNames -underBinder x4
  clear_value x4
  extract_lets +onlyGivenNames -underBinder x5
  have hx5 : Keeps a x5 := Keeps.of_eq (s := s) ‹_› rfl rfl rfl rfl rfl
  clear_value x5
  extract_lets +onlyGivenNames -underBinder x6
  have hx6 : Keeps a x6 := foldl_keeps ‹_› (fun _ _ _ => State.endJob_keeps ‹_›)
  clear_value x6
  exact foldl_keeps ‹_› (fun _ _ _ => State.moveChunks_keeps ‹_›)

theorem stepRingDone_keeps {a : State} {p : Fin 16} {k : Fin 64} {s : State} (h : Keeps a s) : Keeps a (stepRingDone p k s) :=
  State.finishJob_keeps (foldl_keeps h (fun _ _ q => State.pushJob_keeps q))

theorem stepWavelengthMuffle_keeps {a : State} {port : Fin 4} {w : Nat} {s : State} (h : Keeps a s) : Keeps a
    (stepWavelengthMuffle port w s) := by
  unfold stepWavelengthMuffle
  exact keeps_ite (State.muffleWave_keeps ‹_›) ‹_›

theorem State.grantAll_keeps {a s : State} {j : RingJob} (h : Keeps a s) : Keeps a (s.grantAll j).1 :=
  foldl_fst_keeps h fun _ _ k => State.sendJob_keeps k

theorem State.takeCredit_keeps {a s : State} {j : RingJob} {m : ℕ} {r : ℕ} {dir : ℕ} {chunk : ℕ} {arg : ℕ} (h : Keeps a s) : Keeps a
    (State.takeCredit s j m r dir chunk arg) := State.sendDue_keeps h

theorem stepRingIdWrite_keeps {a : State} {fn : Fn} {val : Dword} {s : State} (h : Keeps a s) : Keeps a (stepRingIdWrite fn val s) := by
  unfold stepRingIdWrite
  exact State.gateG_keeps ‹_› (fun z1 hz1 => keeps_ite (State.refuseG_keeps ‹_›) (Keeps.of_eq (s := z1) ‹_› rfl rfl rfl rfl rfl))

theorem stepRingKeyWrite_keeps {a : State} {fn : Fn} {p : Fin 16} {val : Dword} {s : State} (h : Keeps a s) : Keeps a
    (stepRingKeyWrite fn p val s) := by
  unfold stepRingKeyWrite
  extract_lets +onlyGivenNames -underBinder x1 x2
  clear_value x2 x1
  exact State.gateG_keeps ‹_› (fun z3 hz3 => keeps_ite (State.refuseG_keeps ‹_›) (keeps_ite (State.refuseG_keeps ‹_›) (Keeps.of_eq (s :=
      z3) ‹_› rfl rfl rfl rfl rfl)))

theorem State.jobPacket_keeps {a s : State} {j : RingJob} {h' : Nat} {data : List Byte} (h : Keeps a s) : Keeps a
    (State.jobPacket s
    j h' data) := by
  unfold State.jobPacket
  extract_lets +onlyGivenNames -underBinder x1
  clear_value x1
  extract_lets +onlyGivenNames -underBinder x2
  clear_value x2
  extract_lets +onlyGivenNames -underBinder x3
  clear_value x3
  extract_lets +onlyGivenNames -underBinder x4
  clear_value x4
  extract_lets +onlyGivenNames -underBinder x5
  clear_value x5
  extract_lets +onlyGivenNames -underBinder x6
  clear_value x6
  refine keeps_ite ‹_› ?_
  extract_lets +onlyGivenNames -underBinder x7
  clear_value x7
  extract_lets +onlyGivenNames -underBinder x8
  clear_value x8
  extract_lets +onlyGivenNames -underBinder x9
  clear_value x9
  refine keeps_ite ?_ (keeps_ite (State.takeCredit_keeps ‹_›) (keeps_ite (State.endJob_keeps (State.setJob_keeps ‹_›)) ‹_›))
  extract_lets +onlyGivenNames -underBinder x10
  clear_value x10
  split
  · exact State.setJob_keeps (keeps_of_fst (by assumption) (State.sendJob_keeps (State.setJob_keeps ‹_›)))

theorem stepRingOpPreemptLimit_keeps {a : State} {p : Fin 16} {k : Fin 64} {s : State} (h : Keeps a s) : Keeps a
    (stepRingOpPreemptLimit p k s) := by
  unfold stepRingOpPreemptLimit
  exact foldl_keeps ‹_› (fun _ _ _ => State.leaveCmd_keeps (State.dropJob_keeps ‹_›))

theorem stepRingPacket_keeps {a : State} {port : Fin 4} {packet : Nat} {agree : Bool} {s : State} (h : Keeps a s) :
    Keeps a (stepRingPacket port packet agree s) := by
  unfold stepRingPacket
  extract_lets +onlyGivenNames -underBinder x1
  clear_value x1
  extract_lets +onlyGivenNames -underBinder x2
  clear_value x2
  extract_lets +onlyGivenNames -underBinder x3
  clear_value x3
  refine keeps_ite ‹_› (keeps_ite (State.sendRing_keeps ‹_›) (keeps_ite ‹_› ?_))
  split
  · exact State.raise_keeps ‹_›
  · split
    · exact keeps_ite (Keeps.of_eq (s := s) ‹_› rfl rfl rfl rfl rfl) ‹_›
    · exact keeps_ite (State.endJob_keeps ‹_›) (State.jobPacket_keeps ‹_›)

theorem State.beginJob_keeps {a s : State} {j : RingJob} (h : Keeps a s) : Keeps a (State.beginJob s j) := by
  unfold State.beginJob
  extract_lets +onlyGivenNames -underBinder y2 x1
  have hx1 : Keeps a x1 := Keeps.of_eq (s := s) ‹_› rfl rfl rfl rfl rfl
  clear_value x1 y2
  extract_lets +onlyGivenNames -underBinder x3
  have hx3 : Keeps a x3.1 := State.grantAll_keeps ‹_›
  clear_value x3
  extract_lets +onlyGivenNames -underBinder x4
  have hx4 : Keeps a x4 := State.setJob_keeps ‹_›
  clear_value x4
  extract_lets +onlyGivenNames -underBinder x5 x6 y8 x7
  have hx7 : Keeps a x7 := Keeps.of_eq (s := x4) ‹_› rfl rfl rfl rfl rfl
  clear_value x7 y8 x6 x5
  refine foldl_keeps ‹_› ?_
  intro z9 z10 hz9
  split
  · exact State.jobPacket_keeps ‹_›
  · assumption

theorem stepRingOp_keeps {a : State} {p : Fin 16} {k : Fin 64} {s : State} (h : Keeps a s) : Keeps a (stepRingOp p k s) := by
  unfold stepRingOp
  split
  · assumption
  · extract_lets +onlyGivenNames -underBinder x1
    clear_value x1
    refine keeps_ite ‹_› ?_
    extract_lets +onlyGivenNames -underBinder x2
    have hx2 : Keeps a x2 := State.startCmd_keeps ‹_›
    clear_value x2
    extract_lets +onlyGivenNames -underBinder x3
    clear_value x3
    extract_lets +onlyGivenNames -underBinder x4
    refine keeps_ite (State.complete_keeps ‹_›) (keeps_ite (State.complete_keeps (State.updClY_keeps ‹_›)) (keeps_ite
        (State.complete_keeps (State.updClY_keeps ‹_›)) ?_))
    split
    · extract_lets +onlyGivenNames -underBinder x5
      split
      · exact keeps_ite (State.complete_keeps (State.updClY_keeps (keeps_of_fst (by assumption) (State.ringPages_keeps ‹_›))))
          (State.fatalXlat_keeps (State.complete_keeps (State.updClY_keeps (keeps_of_fst (by assumption) (State.ringPages_keeps ‹_›)))))
      · split
        · exact keeps_ite (State.complete_keeps (State.updClY_keeps (keeps_of_fst (by assumption) (State.ringPages_keeps (keeps_of_fst
            (by assumption) (State.ringPages_keeps ‹_›)))))) (State.fatalXlat_keeps (State.complete_keeps (State.updClY_keeps
            (keeps_of_fst (by assumption) (State.ringPages_keeps (keeps_of_fst (by assumption) (State.ringPages_keeps ‹_›)))))))
        · split
          · exact State.complete_keeps (State.updClY_keeps (keeps_of_fst (by assumption) (State.reachAll_keeps (keeps_of_fst (by
              assumption) (State.ringPages_keeps (keeps_of_fst (by assumption) (State.ringPages_keeps ‹_›)))))))
          · exact State.beginJob_keeps (keeps_of_fst (by assumption) (State.reachAll_keeps (keeps_of_fst (by assumption)
              (State.ringPages_keeps (keeps_of_fst (by assumption) (State.ringPages_keeps ‹_›))))))

theorem stepWavelengthRetest_keeps {a : State} {port : Fin 4} {w : Nat} {pass : Bool} {s : State} (h : Keeps a s) : Keeps a
    (stepWavelengthRetest port w pass s) := by
  unfold stepWavelengthRetest
  extract_lets +onlyGivenNames -underBinder x1
  clear_value x1
  refine keeps_ite ‹_› ?_
  split
  · assumption
  · exact keeps_ite ‹_› (keeps_ite (State.retestFail_keeps ‹_›) (keeps_ite (State.setRetest_keeps ‹_›) (State.retestPass_keeps ‹_›)))

theorem State.confirmWave_keeps {a s : State} {i : Nat} (h : Keeps a s) : Keeps a (State.confirmWave s i) := by
  unfold State.confirmWave
  exact State.confirm_keeps ‹_›

theorem State.loseLock_keeps {a s : State} {i : Nat} (h : Keeps a s) : Keeps a (State.loseLock s i) := by
  unfold State.loseLock
  extract_lets +onlyGivenNames -underBinder x1 x2 x3
  have hx3 : Keeps a x3 := State.updWave_keeps ‹_›
  clear_value x3 x2 x1
  exact keeps_ite (State.confirmWave_keeps ‹_›) ‹_›

theorem State.resend_keeps {a s : State} {port i last : Nat} (h : Keeps a s) : Keeps a (State.resend s port i last) := by
  unfold State.resend
  extract_lets +onlyGivenNames -underBinder x1 x2 x3
  have hx3 : Keeps a x3 := State.updWave_keeps ‹_›
  clear_value x3 x2 x1
  extract_lets +onlyGivenNames -underBinder x4
  have hx4 : Keeps a x4 := State.updRport_keeps ‹_›
  clear_value x4
  extract_lets +onlyGivenNames -underBinder x5
  have hx5 : Keeps a x5 := foldl_keeps ‹_› (fun _ _ _ => State.emit_keeps ‹_›)
  clear_value x5
  exact keeps_ite (State.loseLock_keeps ‹_›) ‹_›

theorem stepFrameReceive_keeps {a : State} {port : Fin 4} {w : Nat} {frame : Option Nat} {s : State} (h : Keeps a s) : Keeps a
    (stepFrameReceive port w frame s) := by
  unfold stepFrameReceive
  refine keeps_ite ‹_› ?_
  extract_lets +onlyGivenNames -underBinder x1 x2
  clear_value x2 x1
  split
  · split
    · extract_lets +onlyGivenNames -underBinder x3
      have hx3 : Keeps a x3 := State.updRport_keeps ‹_›
      clear_value x3
      extract_lets +onlyGivenNames -underBinder x4
      have hx4 : Keeps a x4 := State.ackFrame_keeps (State.updWave_keeps ‹_›)
      clear_value x4
      exact keeps_ite (State.confirmWave_keeps ‹_›) ‹_›
  · extract_lets +onlyGivenNames -underBinder x5
    have hx5 : Keeps a x5 := keeps_ite (State.updWave_keeps ‹_›) ‹_›
    clear_value x5
    extract_lets +onlyGivenNames -underBinder x6
    have hx6 : Keeps a x6 := State.updWave_keeps ‹_›
    clear_value x6
    exact keeps_ite (State.resend_keeps ‹_›) ‹_›

theorem stepLossOfLock_keeps {a : State} {port : Fin 4} {w : Nat} {s : State} (h : Keeps a s) : Keeps a (stepLossOfLock port w s) := by
  unfold stepLossOfLock
  exact keeps_ite (State.loseLock_keeps ‹_›) ‹_›

theorem stepPortLinked_keeps {a : State} {port : Fin 4} {carry : Nat} {s : State} (h : Keeps a s) : Keeps a (stepPortLinked port carry s)
    := by
  unfold stepPortLinked
  extract_lets +onlyGivenNames -underBinder x1 x2 x3
  clear_value x3 x2 x1
  refine keeps_ite ‹_› ?_
  extract_lets +onlyGivenNames -underBinder x4
  have hx4 : Keeps a x4 := foldl_keeps ‹_› (fun _ _ _ => State.updWave_keeps ‹_›)
  clear_value x4
  extract_lets +onlyGivenNames -underBinder x7
  have hx7 : Keeps a x7 := State.updRport_keeps ‹_›
  clear_value x7
  extract_lets +onlyGivenNames -underBinder x8
  have hx8 : Keeps a x8 := State.checkEngine_keeps (State.checkEngine_keeps ‹_›)
  clear_value x8
  extract_lets +onlyGivenNames -underBinder x9
  have hx9 : Keeps a x9 := foldl_keeps ‹_› (fun _ _ _ => State.resend_keeps ‹_›)
  clear_value x9
  exact foldl_keeps ‹_› (fun _ _ _ => State.sendRing_keeps ‹_›)

theorem stepSymbolErrorAverage_keeps {a : State} {port : Fin 4} {w ppb : Nat} {s : State} (h : Keeps a s) : Keeps a
    (stepSymbolErrorAverage port w ppb s) := by
  unfold stepSymbolErrorAverage
  exact keeps_ite (State.confirmWave_keeps ‹_›) ‹_›

end Sys2Proof.Machine
end

