-- ==== Sys2Proof/Laws/KeepsRecover.lean ====
section
/-! SUPPORT. What every operation keeps, for resets, recovery, bring-up, firmware and the physical module. -/
namespace Sys2Proof.Machine

/-! Recover. -/

theorem State.isoNext_keeps {a s : State} {c : Nat} (h : Keeps a s) : Keeps a (State.isoNext s c) := by
  unfold State.isoNext
  exact State.updClY_keeps ‹_›

theorem State.moveBattery_keeps {a s : State} {c b b' : Nat} (h : Keeps a s) : Keeps a (State.moveBattery s c b b') := by
  unfold State.moveBattery
  extract_lets +onlyGivenNames -underBinder x1
  clear_value x1
  extract_lets +onlyGivenNames -underBinder x2
  have hx2 : Keeps a x2 := by
    unfold x2
    refine State.each_keeps ‹_› ?_
    intro z3 z4 hz5
    extract_lets +onlyGivenNames -underBinder x6
    clear_value x6
    exact keeps_ite ‹_› (State.updTile_keeps ‹_›)
  clear_value x2
  extract_lets +onlyGivenNames -underBinder x7
  have hx7 : Keeps a x7 := State.updBat_keeps ‹_›
  clear_value x7
  extract_lets +onlyGivenNames -underBinder x8
  have hx8 : Keeps a x8 := State.updBat_keeps ‹_›
  clear_value x8
  extract_lets +onlyGivenNames -underBinder x9
  have hx9 : Keeps a x9 := State.updBat_keeps ‹_›
  clear_value x9
  extract_lets +onlyGivenNames -underBinder x10
  clear_value x10
  extract_lets +onlyGivenNames -underBinder x11
  have hx11 : Keeps a x11 := State.updBatX_keeps ‹_›
  clear_value x11
  refine State.each_keeps ‹_› ?_
  intro z12 z13 hz14
  extract_lets +onlyGivenNames -underBinder x15
  clear_value x15
  exact keeps_ite (State.updBatX_keeps ‹_›) ‹_›

theorem State.restartCmd_keeps {a s : State} {r : CmdRef} (h : Keeps a s) : Keeps a (State.restartCmd s r) := by
  unfold State.restartCmd
  exact State.updQueue_keeps (State.leaveCmd_keeps ‹_›)

theorem State.restartOpt_keeps {a s : State} {r : Option CmdRef} (h : Keeps a s) : Keeps a (State.restartOpt s r) := by
  unfold State.restartOpt
  split
  · exact State.restartCmd_keeps ‹_›
  · assumption

theorem State.restartSlots_keeps {a s : State} {c : Nat} {bats : List Nat} {dst : Nat → Nat} (h : Keeps a s) :
    Keeps a (State.restartSlots s c bats dst) := by
  unfold State.restartSlots
  refine State.each_keeps ‹_› ?_
  intro z1 z2 hz3
  extract_lets +onlyGivenNames -underBinder x4
  clear_value x4
  extract_lets +onlyGivenNames -underBinder x5
  clear_value x5
  extract_lets +onlyGivenNames -underBinder x6
  clear_value x6
  extract_lets +onlyGivenNames -underBinder x7
  have hx7 : Keeps a x7 := Keeps.of_eq (s := z1) ‹_› rfl rfl rfl rfl rfl
  clear_value x7
  exact keeps_ite (Keeps.of_eq (s := x7) ‹_› rfl rfl rfl rfl rfl) ‹_›

theorem State.setSkip_keeps {a s : State} {c x v : Nat} (h : Keeps a s) : Keeps a (State.setSkip s c x v) := by
  unfold State.setSkip
  extract_lets +onlyGivenNames -underBinder x1
  clear_value x1
  exact Keeps.of_eq (s := s) ‹_› rfl rfl rfl rfl rfl

theorem State.shiftColumn_keeps {a s : State} {c x y : Nat} (h : Keeps a s) : Keeps a (State.shiftColumn s c x y) := by
  unfold State.shiftColumn
  extract_lets +onlyGivenNames -underBinder x1 x2
  have hx2 : Keeps a x2 := State.each_keeps ‹_› (fun _ _ _ => State.updTile_keeps ‹_›)
  clear_value x2 x1
  exact State.updTile_keeps ‹_›

theorem State.unfence_keeps {a s : State} {kind idx : Nat} (h : Keeps a s) : Keeps a (State.unfence s kind idx).1 := by
  unfold State.unfence
  refine keeps_ite_fst (keeps_pair ‹_›) ?_
  extract_lets +onlyGivenNames -underBinder x1
  clear_value x1
  exact keeps_ite_fst (keeps_pair ‹_›) (keeps_ite_fst (keeps_pair (keeps_ite (State.setRetest_keeps ‹_›) (Keeps.of_eq (s := s) ‹_› rfl
      rfl rfl rfl rfl))) (keeps_pair (State.readmit_keeps ‹_›)))

theorem stepIsolationAdmit_keeps {a : State} {c : Fin 16} {s : State} (h : Keeps a s) : Keeps a (stepIsolationAdmit c s) := by
  unfold stepIsolationAdmit
  extract_lets +onlyGivenNames -underBinder x1
  clear_value x1
  exact keeps_ite ‹_› (State.isoNext_keeps ‹_›)

theorem stepReAdmission_keeps {a : State} {who : Issuer} {u : UnitId} {s : State} (h : Keeps a s) : Keeps a (stepReAdmission who u s) := by
  unfold stepReAdmission
  split
  · exact keeps_ite (State.unfence_keeps ‹_›) ‹_›
  · exact keeps_ite (State.unfence_keeps ‹_›) ‹_›
  · assumption

theorem State.powerCycleRequest_keeps {a s : State} (h : Keeps a s) : Keeps a (State.powerCycleRequest s) := by
  unfold State.powerCycleRequest
  exact State.emit_keeps (State.event_keeps (Keeps.of_eq (s := s) ‹_› rfl rfl rfl rfl rfl))

theorem State.blurDest_keeps {a s : State} {x : Desc} (h : Keeps a s) : Keeps a (State.blurDest s x) := by
  unfold State.blurDest
  split
  · exact keeps_ite (State.blurVa_keeps h) h
  · exact h

theorem State.streamDesc_keeps {a s : State} {c e d : Nat} (h : Keeps a s) : Keeps a (State.streamDesc s c e d) := by
  unfold State.streamDesc
  extract_lets +onlyGivenNames -underBinder x1 x2
  have hx2 : Keeps a x2 := State.updDescX_keeps ‹_›
  clear_value x2 x1
  extract_lets +onlyGivenNames -underBinder x3
  clear_value x3
  split
  · assumption
  · assumption
  · exact State.completeOpt_keeps (State.setDesc_keeps ‹_›)
  · exact State.restartOpt_keeps (State.setDesc_keeps (State.blurDest_keeps ‹_›))

theorem State.streamReset_keeps {a s : State} {c e : Nat} (h : Keeps a s) : Keeps a (State.streamReset s c e) := by
  unfold State.streamReset
  extract_lets +onlyGivenNames -underBinder x1 x2
  have hx2 : Keeps a x2 := State.updCl_keeps ‹_› (fun _ hx => hx)
  clear_value x2 x1
  extract_lets +onlyGivenNames -underBinder x3
  have hx3 : Keeps a x3 := State.each_keeps ‹_› (fun _ _ _ => State.restartOpt_keeps ‹_›)
  clear_value x3
  exact State.each_keeps ‹_› (fun _ _ _ => State.streamDesc_keeps ‹_›)

theorem State.escRecord_keeps {a s : State} {level trigger : Nat} {part : Option Nat} {cluster : Nat} (h : Keeps a s) : Keeps a
    (State.escRecord s level trigger part cluster) := by
  unfold State.escRecord
  exact State.raise_keeps ‹_›

theorem State.orderChipReset_keeps {a s : State} {auto : Bool} (h : Keeps a s) : Keeps a (State.orderChipReset s auto).1 := by
  unfold State.orderChipReset
  refine keeps_ite_fst ‹_› ?_
  split
  · assumption
  · assumption
  · extract_lets +onlyGivenNames -underBinder x1
    have hx1 : Keeps a x1 := State.answer_keeps (State.takeOver_keeps ‹_›)
    clear_value x1
    exact keeps_pair (State.releaseOrders_keeps (Keeps.of_eq (s := x1) ‹_› rfl rfl rfl rfl rfl))

theorem State.orderLevel_keeps {a s : State} {level trigger : Nat} {part : Option Nat} {cluster : Nat} {go : State → State}
    (h : Keeps a s) (hgo : ∀ u0, Keeps a u0 → Keeps a (go u0)) : Keeps a (State.orderLevel s level trigger part cluster go) := by
  unfold State.orderLevel
  extract_lets +onlyGivenNames -underBinder x1 x2
  have hx2 : Keeps a x2 := State.escRecord_keeps ‹_›
  clear_value x2 x1
  exact keeps_ite ‹_› (hgo _ ‹_›)

theorem State.replRecord_keeps {a s : State} {c b : Nat} {i : CtxId} {status method newBat col val banks : Nat} (h : Keeps a s) : Keeps a
    (State.replRecord s c b i status method newBat col val banks) := by
  unfold State.replRecord
  exact State.raise_keeps ‹_›

theorem stepChipReset_keeps {a : State} {who : Issuer} {s : State} (h : Keeps a s) : Keeps a (stepChipReset who s) := by
  unfold stepChipReset
  split
  · assumption
  · exact State.orderChipReset_keeps ‹_›
  · exact State.orderChipReset_keeps ‹_›

theorem State.retrainSeam_keeps {a s : State} {seam : ℕ} (h : Keeps a s) : Keeps a (State.retrainSeam s seam) := by
  unfold State.retrainSeam
  exact Keeps.of_eq (s := s) ‹_› rfl rfl rfl rfl rfl

theorem stepPartitionResetComplete_keeps {a : State} {p : Fin 16} {s : State} (h : Keeps a s) : Keeps a (stepPartitionResetComplete p s)
    := by
  unfold stepPartitionResetComplete
  extract_lets +onlyGivenNames -underBinder x1
  clear_value x1
  extract_lets +onlyGivenNames -underBinder x2
  clear_value x2
  split
  · assumption
  · refine keeps_ite ‹_› ?_
    extract_lets +onlyGivenNames -underBinder x3
    have hx3 : Keeps a x3 := State.answer_keeps (Keeps.of_eq (s := s) ‹_› rfl rfl rfl rfl rfl)
    clear_value x3
    extract_lets +onlyGivenNames -underBinder x4
    have hx4 : Keeps a x4 := keeps_ite (State.updPart_keeps ‹_›) ‹_›
    clear_value x4
    extract_lets +onlyGivenNames -underBinder x5
    have hx5 : Keeps a x5 := State.each_keeps ‹_› (fun _ _ _ => State.retrainSeam_keeps ‹_›)
    clear_value x5
    extract_lets +onlyGivenNames -underBinder x9
    have hx9 : Keeps a x9 := State.each_keeps ‹_› (fun _ _ _ => keeps_ite (State.each_keeps ‹_› (fun _ _ _ => State.linkUp_keeps ‹_›))
        ‹_›)
    clear_value x9
    exact State.raise_keeps ‹_›

theorem State.nameHang_keeps {a s : State} {c : Nat} {kind : Nat} {idx : Nat} (h : Keeps a s) : Keeps a (State.nameHang s c kind idx) := by
  unfold State.nameHang
  extract_lets +onlyGivenNames -underBinder x1 x2
  have hx2 : Keeps a x2 := by
    unfold x2
    split
    · extract_lets +onlyGivenNames -underBinder x3
      clear_value x3
      exact keeps_ite (State.fatal_keeps ‹_›) ‹_›
    · assumption
  clear_value x2 x1
  exact State.isoNext_keeps (State.updClY_keeps ‹_›)

theorem State.ringReset_keeps {a s : State} {c : Nat} (h : Keeps a s) : Keeps a (State.ringReset s c) := by
  unfold State.ringReset
  exact State.each_keeps ‹_› (fun _ _ _ => State.complete_keeps (State.dropJob_keeps ‹_›))

theorem State.engineBat_keeps {a s : State} {c b : Nat} (h : Keeps a s) : Keeps a (State.engineBat s c b) := by
  unfold State.engineBat
  extract_lets +onlyGivenNames -underBinder x1
  clear_value x1
  extract_lets +onlyGivenNames -underBinder x2
  clear_value x2
  extract_lets +onlyGivenNames -underBinder x3
  have hx3 : Keeps a x3 := State.quietTiles_keeps (State.resetAbort_keeps ‹_›)
  clear_value x3
  extract_lets +onlyGivenNames -underBinder x4
  clear_value x4
  extract_lets +onlyGivenNames -underBinder x5
  have hx5 : Keeps a x5 := by
    unfold x5
    split
    · exact State.rewind_keeps ‹_›
    · assumption
  clear_value x5
  extract_lets +onlyGivenNames -underBinder x6
  have hx6 : Keeps a x6 := State.updBatX_keeps (State.endBattery_keeps ‹_›)
  clear_value x6
  extract_lets +onlyGivenNames -underBinder x7
  have hx7 : Keeps a x7 := keeps_ite (keeps_ite (State.finishSection_keeps ‹_›) (State.restartOpt_keeps ‹_›)) ‹_›
  clear_value x7
  extract_lets +onlyGivenNames -underBinder x8
  clear_value x8
  extract_lets +onlyGivenNames -underBinder x9
  have hx9 : Keeps a x9 := by
    unfold x9
    split
    · exact State.restartCmd_keeps (State.updBat_keeps ‹_›)
    · assumption
  clear_value x9
  exact State.each_keeps ‹_› (fun _ _ _ => State.restartCmd_keeps (State.updBat_keeps ‹_›))

theorem State.orderPartReset_keeps {a s : State} {p : Nat} {byReg : Bool} (h : Keeps a s) : Keeps a (State.orderPartReset s p byReg).1 := by
  unfold State.orderPartReset
  refine keeps_ite_fst ‹_› ?_
  split
  · exact keeps_pair (keeps_ite (State.updPart_keeps ‹_›) ‹_›)
  · exact keeps_pair (keeps_ite (State.updPart_keeps (Keeps.of_eq (s := s) ‹_› rfl rfl rfl rfl rfl)) ‹_›)
  · extract_lets +onlyGivenNames -underBinder x1
    have hx1 : Keeps a x1 := State.takeOver_keeps ‹_›
    clear_value x1
    extract_lets +onlyGivenNames -underBinder x2
    clear_value x2
    extract_lets +onlyGivenNames -underBinder x3
    have hx3 : Keeps a x3 := Keeps.of_eq (s := x1) ‹_› rfl rfl rfl rfl rfl
    clear_value x3
    exact keeps_pair (State.releaseOrders_keeps (State.updPart_keeps ‹_›))

theorem State.resetHolder_keeps {a s : State} {c trigger : Nat} (h : Keeps a s) : Keeps a (State.resetHolder s c trigger) := by
  unfold State.resetHolder
  split
  · exact State.orderLevel_keeps ‹_› (fun _ _ => State.orderPartReset_keeps ‹_›)
  · exact State.orderLevel_keeps ‹_› (fun _ _ => State.orderChipReset_keeps ‹_›)

theorem stepPartitionReset_keeps {a : State} {who : Issuer} {p : Fin 16} {s : State} (h : Keeps a s) : Keeps a
    (stepPartitionReset who p s) := by
  unfold stepPartitionReset
  split
  · exact keeps_ite (State.refuseP_keeps ‹_›) (State.orderPartReset_keeps ‹_›)
  · exact State.orderPartReset_keeps ‹_›

theorem State.batteryReset_keeps {a s : State} {c : Nat} (h : Keeps a s) : Keeps a (State.batteryReset s c) := by
  unfold State.batteryReset
  extract_lets +onlyGivenNames -underBinder x1
  have hx1 : Keeps a x1 := State.each_keeps ‹_› (fun _ _ _ => State.engineBat_keeps ‹_›)
  clear_value x1
  extract_lets +onlyGivenNames -underBinder x4 x5
  have hx5 : Keeps a x5 := State.updCl_keeps ‹_› (fun _ hx => hx)
  clear_value x5 x4
  exact State.updClY_keeps (State.each_keeps ‹_› (fun _ _ _ => State.restartCmd_keeps ‹_›))

theorem State.reArm_keeps {a s : State} {c : ℕ} {b : ℕ} (h : Keeps a s) : Keeps a (State.reArm s c b) := by
  unfold State.reArm
  exact State.enterHeld_keeps (State.updBatX_keeps ‹_›)

theorem State.engineReset_keeps {a s : State} {c kind idx : Nat} {hang : Bool} (h : Keeps a s) : Keeps a
    (State.engineReset s c kind idx hang) := by
  unfold State.engineReset
  extract_lets +onlyGivenNames -underBinder x1
  have hx1 : ∀ (y2 : Sys2Proof.Machine.State) (y3 : ℕ), Keeps a y2 → Keeps a (x1 y2 y3) := by
    intro y2 y3 hy2
    unfold x1
    refine State.updClY_keeps ?_
    assumption
  clear_value x1
  refine keeps_ite (hx1 _ _ ‹_›) ?_
  extract_lets +onlyGivenNames -underBinder x4
  have hx4 : Keeps a x4 := State.takeOver_keeps ‹_›
  clear_value x4
  split
  · extract_lets +onlyGivenNames -underBinder x5 x6 x7
    have hx7 : Keeps a x7 := keeps_ite (State.batteryReset_keeps ‹_›) (keeps_ite (State.streamReset_keeps ‹_›) (State.ringReset_keeps
        ‹_›))
    clear_value x7 x6 x5
    extract_lets +onlyGivenNames -underBinder x8 x9
    have hx9 : Keeps a x9 := State.updClY_keeps ‹_›
    clear_value x9 x8
    extract_lets +onlyGivenNames -underBinder x10
    have hx10 : Keeps a x10 := keeps_ite ‹_› (keeps_ite (State.nameHang_keeps ‹_›) (keeps_ite ‹_› (State.updClY_keeps ‹_›)))
    clear_value x10
    exact State.pumpAll_keeps (hx1 _ _ ‹_›)

theorem State.replFail_keeps {a s : State} {c b : Nat} (h : Keeps a s) : Keeps a (State.replFail s c b) := by
  unfold State.replFail
  extract_lets +onlyGivenNames -underBinder x1
  clear_value x1
  split
  · extract_lets +onlyGivenNames -underBinder x2
    clear_value x2
    extract_lets +onlyGivenNames -underBinder x3
    have hx3 : Keeps a x3 := State.updBatX_keeps (State.rewind_keeps ‹_›)
    clear_value x3
    extract_lets +onlyGivenNames -underBinder x4
    have hx4 : Keeps a x4 := State.updBat_keeps ‹_›
    clear_value x4
    exact State.pumpBat_keeps (State.replRecord_keeps (State.finishSection_keeps ‹_›))
  · assumption

theorem State.resetEnginesOf_keeps {a s : State} {i : CtxId} (h : Keeps a s) : Keeps a (State.resetEnginesOf s i) := by
  unfold State.resetEnginesOf
  refine State.each_keeps ‹_› ?_
  intro z1 z2 hz1
  extract_lets +onlyGivenNames -underBinder x3
  have hx3 : Keeps a x3 := keeps_ite (State.engineReset_keeps ‹_›) ‹_›
  clear_value x3
  extract_lets +onlyGivenNames -underBinder x4
  have hx4 : Keeps a x4 := State.each_keeps ‹_› (fun _ _ _ => keeps_ite (State.engineReset_keeps ‹_›) ‹_›)
  clear_value x4
  exact keeps_ite (State.engineReset_keeps ‹_›) ‹_›

theorem stepEscalate_keeps {a : State} {t : EscTrigger} {s : State} (h : Keeps a s) : Keeps a (stepEscalate t s) := by
  unfold stepEscalate
  refine keeps_ite ‹_› ?_
  split
  · exact keeps_ite (State.orderLevel_keeps ‹_› (fun _ _ => State.resetEnginesOf_keeps ‹_›)) ‹_›
  · exact keeps_ite (State.resetHolder_keeps ‹_›) ‹_›
  · exact keeps_ite (State.orderLevel_keeps ‹_› (fun _ _ => State.orderChipReset_keeps ‹_›)) ‹_›
  · exact State.orderLevel_keeps ‹_› (fun _ _ => State.orderChipReset_keeps ‹_›)
  · exact keeps_ite (State.orderLevel_keeps ‹_› (fun _ _ => State.powerCycleRequest_keeps ‹_›)) ‹_›
  · exact keeps_ite (State.orderLevel_keeps ‹_› (fun _ _ => State.powerCycleRequest_keeps ‹_›)) ‹_›

theorem stepRelocation_keeps {a : State} {c : Fin 16} {b : Fin 64} {s : State} (h : Keeps a s) : Keeps a (stepRelocation c b s) := by
  unfold stepRelocation
  extract_lets +onlyGivenNames -underBinder x1
  clear_value x1
  extract_lets +onlyGivenNames -underBinder x2
  clear_value x2
  extract_lets +onlyGivenNames -underBinder x3
  clear_value x3
  split
  · refine keeps_ite ‹_› ?_
    split
    · exact State.replFail_keeps ‹_›
    · extract_lets +onlyGivenNames -underBinder x4
      clear_value x4
      extract_lets +onlyGivenNames -underBinder x5
      have hx5 : Keeps a x5 := State.updBatX_keeps (State.moveBattery_keeps ‹_›)
      clear_value x5
      extract_lets +onlyGivenNames -underBinder x6
      have hx6 : Keeps a x6 := State.restartSlots_keeps ‹_›
      clear_value x6
      exact State.pumpAll_keeps (State.reArm_keeps (State.replRecord_keeps ‹_›))
  · assumption

theorem stepReplacement_keeps {a : State} {c : Fin 16} {b : Fin 64} {s : State} (h : Keeps a s) : Keeps a (stepReplacement c b s) := by
  unfold stepReplacement
  extract_lets +onlyGivenNames -underBinder x1 x2 x3
  clear_value x3 x2 x1
  split
  · extract_lets +onlyGivenNames -underBinder x4
    clear_value x4
    refine keeps_ite ‹_› ?_
    split
    · refine keeps_ite (keeps_ite ‹_› ?_) (keeps_ite ‹_› (keeps_ite (State.updBatX_keeps ‹_›) (State.replFail_keeps ‹_›)))
      extract_lets +onlyGivenNames -underBinder x5
      have hx5 : Keeps a x5 := State.each_keeps ‹_› (fun _ _ _ => State.dropSwap_keeps ‹_›)
      clear_value x5
      exact State.updBatX_keeps (State.updClY_keeps ‹_›)
    · exact keeps_ite ‹_› (keeps_ite (State.updBatX_keeps ‹_›) (State.replFail_keeps ‹_›))
  · assumption

theorem stepSkipSwap_keeps {a : State} {c x : Fin 16} {s : State} (h : Keeps a s) : Keeps a (stepSkipSwap c x s) := by
  unfold stepSkipSwap
  extract_lets +onlyGivenNames -underBinder x1
  clear_value x1
  extract_lets +onlyGivenNames -underBinder x2
  clear_value x2
  extract_lets +onlyGivenNames -underBinder x3
  clear_value x3
  extract_lets +onlyGivenNames -underBinder x4
  clear_value x4
  split
  · refine keeps_ite ‹_› ?_
    extract_lets +onlyGivenNames -underBinder x5
    have hx5 : Keeps a x5 := State.updClY_keeps ‹_›
    clear_value x5
    extract_lets +onlyGivenNames -underBinder x6
    clear_value x6
    extract_lets +onlyGivenNames -underBinder x7
    have hx7 : Keeps a x7 := State.tilesChanged_keeps (State.restartSlots_keeps (State.setSkip_keeps (State.shiftColumn_keeps ‹_›)))
    clear_value x7
    extract_lets +onlyGivenNames -underBinder x8
    clear_value x8
    split
    · exact keeps_ite (State.pumpAll_keeps (State.reArm_keeps (State.updBatX_keeps (State.replRecord_keeps ‹_›)))) (State.pumpAll_keeps
        ‹_›)
    · exact State.pumpAll_keeps ‹_›
  · exact keeps_ite (State.tilesChanged_keeps (State.setSkip_keeps (State.each_keeps ‹_› (fun _ _ _ => State.dropSwap_keeps ‹_›)))) ‹_›

theorem State.engineOrder_keeps {a s : State} {fn : Fn} {c kind idx : Nat} {hang : Bool} (h : Keeps a s) : Keeps a
    (State.engineOrder s fn c kind idx hang) := by
  unfold State.engineOrder
  exact State.gateC_keeps ‹_› (fun _ _ => State.engineReset_keeps ‹_›)

theorem State.fence_keeps {a s : State} {belfry : Bool} {kind idx : Nat} (h : Keeps a s) : Keeps a (State.fence s belfry kind idx).1 := by
  unfold State.fence
  refine keeps_ite_fst (keeps_pair ‹_›) ?_
  extract_lets +onlyGivenNames -underBinder x1
  have hx1 : Keeps a x1 := by
    unfold x1
    split
    · exact State.takeOver_keeps ‹_›
    · assumption
  clear_value x1
  extract_lets +onlyGivenNames -underBinder x2
  have hx2 : Keeps a x2 := State.muffleUnit_keeps ‹_›
  clear_value x2
  exact keeps_pair (keeps_ite (State.confirm_keeps ‹_›) ‹_›)

theorem stepMuffle_keeps {a : State} {who : Issuer} {u : UnitId} {s : State} (h : Keeps a s) : Keeps a (stepMuffle who u s) := by
  unfold stepMuffle
  split
  · exact keeps_ite (State.fence_keeps ‹_›) ‹_›
  · exact keeps_ite (State.fence_keeps ‹_›) ‹_›
  · assumption

/-! Boot. -/

theorem State.schedPeal_keeps {a s : State} {c targets kind dpa len : Nat} (h : Keeps a s) : Keeps a
    (State.schedPeal s c targets kind dpa len) := by
  unfold State.schedPeal
  extract_lets +onlyGivenNames -underBinder x1 x2
  have hx2 : Keeps a x2 := stepPeal_keeps ‹_›
  clear_value x2 x1
  extract_lets +onlyGivenNames -underBinder x3 x4
  have hx4 : Keeps a x4 := stepPealCompletion_keeps ‹_›
  clear_value x4 x3
  exact State.each_keeps ‹_› (fun _ _ _ => stepPealCompletion_keeps (stepPeal_keeps ‹_›))

theorem State.testCluster_keeps {a s : State} {c : Nat} (h : Keeps a s) : Keeps a (State.testCluster s c) := by
  unfold State.testCluster
  extract_lets +onlyGivenNames -underBinder x1
  have hx1 : Keeps a x1 := State.each_keeps ‹_› (fun _ _ _ => State.updTile_keeps ‹_›)
  clear_value x1
  exact State.each_keeps ‹_› (fun _ _ _ => State.zeroSlice_keeps ‹_›)

theorem State.zeroChan_keeps {a s : State} {n : Nat} (h : Keeps a s) : Keeps a (s.zeroChan n) :=
  Keeps.of_parts h (fun w => filter_wfFrom _ w) id rfl rfl rfl

theorem State.refreshFp_keeps {a s : State} (h : Keeps a s) : Keeps a (State.refreshFp s) := by
  unfold State.refreshFp
  extract_lets +onlyGivenNames -underBinder x1 x2 x3 x4 x5 x6 x7 x8 y10 y11 x9
  have hx9 : Keeps a x9 := Keeps.of_eq (s := s) ‹_› rfl rfl rfl rfl rfl
  clear_value x9 y11 y10 x8 x7 x6 x5 x4 x3 x2 x1
  extract_lets +onlyGivenNames -underBinder x12
  have hx12 : Keeps a x12 := State.each_keeps ‹_› (fun _ _ _ => State.updClY_keeps ‹_›)
  clear_value x12
  extract_lets +onlyGivenNames -underBinder x15
  have hx15 : Keeps a x15 := State.irqPf_keeps (State.event_keeps ‹_›)
  clear_value x15
  extract_lets +onlyGivenNames -underBinder x16
  have hx16 : Keeps a x16 := State.each_keeps ‹_› (fun _ _ _ => State.event_keeps ‹_›)
  clear_value x16
  exact keeps_ite (State.event_keeps ‹_›) ‹_›

theorem State.stageReport_keeps {a s : State} {stage unit_ result status : Nat} (h : Keeps a s) : Keeps a
    (State.stageReport s stage
    unit_ result status) := by
  unfold State.stageReport
  extract_lets +onlyGivenNames -underBinder x1
  clear_value x1
  extract_lets +onlyGivenNames -underBinder x2
  clear_value x2
  extract_lets +onlyGivenNames -underBinder x3
  clear_value x3
  extract_lets +onlyGivenNames -underBinder x4
  clear_value x4
  extract_lets +onlyGivenNames -underBinder x5
  clear_value x5
  extract_lets +onlyGivenNames -underBinder x6
  clear_value x6
  extract_lets +onlyGivenNames -underBinder x7
  have hx7 : Keeps a x7 := State.log__keeps ‹_›
  clear_value x7
  extract_lets +onlyGivenNames -underBinder x8
  clear_value x8
  extract_lets +onlyGivenNames -underBinder x9
  clear_value x9
  extract_lets +onlyGivenNames -underBinder x10
  clear_value x10
  extract_lets +onlyGivenNames -underBinder x11
  have hx11 : Keeps a x11 := Keeps.of_eq (s := x7) ‹_› rfl rfl rfl rfl rfl
  clear_value x11
  extract_lets +onlyGivenNames -underBinder x12
  clear_value x12
  extract_lets +onlyGivenNames -underBinder x13
  have hx13 : Keeps a x13 := keeps_ite (Keeps.of_eq (s := x11) ‹_› rfl rfl rfl rfl rfl) ‹_›
  clear_value x13
  extract_lets +onlyGivenNames -underBinder x14
  have hx14 : Keeps a x14 := State.irqPf_keeps (State.report_keeps ‹_›)
  clear_value x14
  exact keeps_ite (State.emit_keeps (Keeps.of_eq (s := x14) ‹_› rfl rfl rfl rfl rfl)) ‹_›

theorem State.startAfter_keeps {a s : State} {stage : Nat} (h : Keeps a s) : Keeps a (State.startAfter s stage) := by
  unfold State.startAfter
  extract_lets +onlyGivenNames -underBinder x1
  clear_value x1
  exact State.each_keeps ‹_› (fun _ _ _ => State.startStage_keeps ‹_›)

theorem stepCarillonBroadcast_keeps {a s : State} (h : Keeps a s) : Keeps a (stepCarillonBroadcast s) := by
  unfold stepCarillonBroadcast
  refine keeps_ite ‹_› ?_
  extract_lets +onlyGivenNames -underBinder x1
  have hx1 : Keeps a x1 := State.each_keeps ‹_› (fun _ _ _ => State.updClX_keeps ‹_›)
  clear_value x1
  extract_lets +onlyGivenNames -underBinder x4
  have hx4 : Keeps a x4 := by
    unfold x4
    split
    · assumption
    · extract_lets +onlyGivenNames -underBinder x5 x6 x7
      have hx7 : Keeps a x7 := State.store_keeps (State.store_keeps ‹_›)
      clear_value x7 x6 x5
      exact State.schedPeal_keeps (State.schedPeal_keeps ‹_›)
  clear_value x4
  exact State.startAfter_keeps (State.stageReport_keeps ‹_›)

theorem stepFloorplanChange_keeps {a s : State} (h : Keeps a s) : Keeps a (stepFloorplanChange s) := by
  unfold stepFloorplanChange
  exact keeps_ite (State.refreshFp_keeps ‹_›) ‹_›

theorem stepRingPortTraining_keeps {a : State} {port : Fin 4} {pass : Bool} {s : State} (h : Keeps a s) : Keeps a
    (stepRingPortTraining port pass s) := by
  unfold stepRingPortTraining
  extract_lets +onlyGivenNames -underBinder x1
  have hx1 : Keeps a x1 := State.portReady_keeps ‹_›
  clear_value x1
  exact keeps_ite (State.stageReport_keeps ‹_›) ‹_›

theorem stepStageBound_keeps {a : State} {stage : Nat} {idx : Nat} {s : State} (h : Keeps a s) : Keeps a (stepStageBound stage idx s) := by
  unfold stepStageBound
  exact keeps_ite (State.startAfter_keeps (State.stageReport_keeps ‹_›)) ‹_›

theorem State.powerGood_keeps {a s : State} (h : Keeps a s) : Keeps a s.powerGood :=
  State.startOne_keeps (State.stageReport_keeps (State.startStage_keeps
    (Keeps.of_parts h (fun _ => nil_wf) (fun _ => State.reset_clocksLegal) rfl rfl rfl)))

theorem State.failUncoded_keeps {a s : State} {c : ℕ} (h : Keeps a s) : Keeps a (State.failUncoded s c) := by
  unfold State.failUncoded
  extract_lets +onlyGivenNames -underBinder x1
  clear_value x1
  exact State.each_keeps ‹_› (fun _ _ _ => State.confirm_keeps (State.confirm_keeps (State.raise_keeps ‹_›)))

theorem stepClusterSelfTest_keeps {a : State} {c : Fin 16} {pass : Bool} {s : State} (h : Keeps a s) : Keeps a
    (stepClusterSelfTest c
    pass s) := by
  unfold stepClusterSelfTest
  extract_lets +onlyGivenNames -underBinder x1
  clear_value x1
  refine keeps_ite ‹_› ?_
  extract_lets +onlyGivenNames -underBinder x2
  have hx2 : Keeps a x2 := keeps_ite (State.failUncoded_keeps ‹_›) ‹_›
  clear_value x2
  refine keeps_ite ‹_› ?_
  extract_lets +onlyGivenNames -underBinder x3
  clear_value x3
  refine keeps_ite (State.stageReport_keeps ‹_›) (keeps_ite (State.stageReport_keeps ‹_›) ?_)
  extract_lets +onlyGivenNames -underBinder x4
  have hx4 : Keeps a x4 := State.testCluster_keeps ‹_›
  clear_value x4
  extract_lets +onlyGivenNames -underBinder x5
  clear_value x5
  extract_lets +onlyGivenNames -underBinder x6
  clear_value x6
  extract_lets +onlyGivenNames -underBinder x7
  have hx7 : Keeps a x7 := keeps_ite ‹_› (State.mapSlices_keeps (Keeps.of_eq (s := x4) ‹_› rfl rfl rfl rfl rfl))
  clear_value x7
  extract_lets +onlyGivenNames -underBinder x8
  clear_value x8
  extract_lets +onlyGivenNames -underBinder x9
  have hx9 : Keeps a x9 := Keeps.of_eq (s := x7) ‹_› rfl rfl rfl rfl rfl
  clear_value x9
  extract_lets +onlyGivenNames -underBinder x10
  have hx10 : Keeps a x10 := State.updClX_keeps (State.updClY_keeps ‹_›)
  clear_value x10
  extract_lets +onlyGivenNames -underBinder x11
  have hx11 : Keeps a x11 := State.tilesChanged_keeps (State.stageReport_keeps ‹_›)
  clear_value x11
  extract_lets +onlyGivenNames -underBinder x12
  clear_value x12
  extract_lets +onlyGivenNames -underBinder x13
  have hx13 : Keeps a x13 := Keeps.of_eq (s := x11) ‹_› rfl rfl rfl rfl rfl
  clear_value x13
  exact State.refreshFp_keeps ‹_›

theorem stepPowerGood_keeps {a s : State} (h : Keeps a s) : Keeps a (stepPowerGood s) := by
  unfold stepPowerGood
  exact keeps_ite (State.powerGood_keeps ‹_›) ‹_›

theorem stepBootLedgerRead_keeps {a s : State} (h : Keeps a s) : Keeps a (stepBootLedgerRead s) := by
  unfold stepBootLedgerRead
  refine keeps_ite ‹_› ?_
  extract_lets +onlyGivenNames -underBinder x1 x2 x3 x4 x5 x6 x7 x8 y10 x9
  have hx9 : Keeps a x9 := Keeps.of_eq (s := s) ‹_› rfl rfl rfl rfl rfl
  clear_value x9 y10 x8 x7 x6 x5 x4 x3 x2 x1
  extract_lets +onlyGivenNames -underBinder x11
  have hx11 : Keeps a x11 := by
    unfold x11
    refine State.each_keeps ‹_› ?_
    intro z12 z13 hz12
    extract_lets +onlyGivenNames -underBinder x14 x15 y17 x16
    have hx16 : Keeps a x16 := keeps_ite (Keeps.of_eq (s := z12) ‹_› rfl rfl rfl rfl rfl) ‹_›
    clear_value x16 y17 x15 x14
    exact keeps_ite ‹_› (State.muffleUnit_keeps ‹_›)
  clear_value x11
  extract_lets +onlyGivenNames -underBinder x18 x19
  have hx19 : Keeps a x19 := keeps_ite (State.event_keeps ‹_›) ‹_›
  clear_value x19 x18
  extract_lets +onlyGivenNames -underBinder x20
  have hx20 : Keeps a x20 := State.stageReport_keeps (State.refreshFp_keeps ‹_›)
  clear_value x20
  extract_lets +onlyGivenNames -underBinder x21
  have hx21 : Keeps a x21 := State.answer_keeps ‹_›
  clear_value x21
  exact State.startAfter_keeps ‹_›

theorem stepMemoryTraining_keeps {a : State} {chan : Nat} {pass : Bool} {s : State} (h : Keeps a s) : Keeps a
    (stepMemoryTraining chan pass s) := by
  unfold stepMemoryTraining
  extract_lets +onlyGivenNames -underBinder x1
  clear_value x1
  refine keeps_ite ‹_› ?_
  extract_lets +onlyGivenNames -underBinder y3 y4 y5 x2
  have hx2 : Keeps a x2 := keeps_ite (State.updChan_keeps (State.zeroChan_keeps ‹_›)) (State.muffleUnit_keeps (State.confirm_keeps
      (State.drew_keeps ‹_›)))
  clear_value x2 y5 y4 y3
  extract_lets +onlyGivenNames -underBinder x5
  have hx5 : Keeps a x5 := State.chanReady_keeps ‹_›
  clear_value x5
  refine keeps_ite ?_ (keeps_ite (State.stageReport_keeps ‹_›) ‹_›)
  · extract_lets +onlyGivenNames -underBinder x6
    clear_value x6
    refine keeps_ite ‹_› ?_
    extract_lets +onlyGivenNames -underBinder x7
    clear_value x7
    exact keeps_ite (State.stageReport_keeps ‹_›) ‹_›

/-! Fwx. -/

theorem State.logComp_keeps {a s : State} {core comp status cause pc addr restarts : Nat} (h : Keeps a s) : Keeps a
    (State.logComp s core comp status cause pc addr restarts) := by
  unfold State.logComp
  exact State.log__keeps ‹_›

theorem State.updLoader_keeps {a s : State} {port : Nat} {f : FwStager → FwStager} (h : Keeps a s) : Keeps a (State.updLoader s port f)
    := by
  unfold State.updLoader
  exact Keeps.of_eq (s := s) ‹_› rfl rfl rfl rfl rfl

theorem State.startRouters_keeps {a s : State} (h : Keeps a s) : Keeps a (State.startRouters s) := by
  unfold State.startRouters
  extract_lets +onlyGivenNames -underBinder x1
  have hx1 : Keeps a x1 := State.each_keeps (State.each_keeps ‹_› (fun _ _ _ => State.updRouter_keeps ‹_›)) (fun _ _ _ =>
      State.retrainSeam_keeps ‹_›)
  clear_value x1
  extract_lets +onlyGivenNames -underBinder x8
  have hx8 : Keeps a x8 := State.each_keeps ‹_› (fun _ _ _ => keeps_ite (State.linkDown_keeps ‹_›) ‹_›)
  clear_value x8
  extract_lets +onlyGivenNames -underBinder x12
  have hx12 : Keeps a x12 := State.each_keeps ‹_› (fun _ _ _ => keeps_ite (State.each_keeps ‹_› (fun _ _ _ => State.linkDown_keeps ‹_›))
      ‹_›)
  clear_value x12
  extract_lets +onlyGivenNames -underBinder x19
  clear_value x19
  exact State.each_keeps ‹_› (fun _ _ _ => State.updRouter_keeps ‹_›)

theorem stepFwLoad_keeps {a : State} {fn : Fn} {val : Dword} {s : State} (h : Keeps a s) : Keeps a (stepFwLoad fn val s) := by
  unfold stepFwLoad
  split
  · extract_lets +onlyGivenNames -underBinder x1 x2 x3
    clear_value x3 x2 x1
    refine keeps_ite ‹_› ?_
    refine keeps_ite (State.refuseG_keeps ‹_›) ?_
    extract_lets +onlyGivenNames -underBinder x4
    have hx4 : Keeps a x4 := State.updLoader_keeps ‹_›
    clear_value x4
    refine keeps_ite ‹_› ?_
    refine keeps_ite (State.updLoader_keeps ‹_›) ?_
    refine keeps_ite (State.updLoader_keeps ‹_›) ?_
    extract_lets +onlyGivenNames -underBinder x5
    have hx5 : Keeps a x5 := State.updLoader_keeps ‹_›
    clear_value x5
    extract_lets +onlyGivenNames -underBinder y7 x6
    have hx6 : Keeps a x6 := Keeps.of_eq (s := x5) ‹_› rfl rfl rfl rfl rfl
    clear_value x6 y7
    exact keeps_ite ‹_› (State.startStage_keeps ‹_›)
  · assumption

theorem stepFwVerified_keeps {a s : State} (h : Keeps a s) : Keeps a (stepFwVerified s) := by
  unfold stepFwVerified
  split
  · assumption
  · extract_lets +onlyGivenNames -underBinder x1 y3 x2
    have hx2 : Keeps a x2 := Keeps.of_eq (s := s) ‹_› rfl rfl rfl rfl rfl
    clear_value x2 y3 x1
    refine keeps_ite (State.updLoader_keeps (Keeps.of_eq (s := x2) ‹_› rfl rfl rfl rfl rfl)) ?_
    extract_lets +onlyGivenNames -underBinder x4 y6 y7 y8 x5
    have hx5 : Keeps a x5 := Keeps.of_eq (s := x2) ‹_› rfl rfl rfl rfl rfl
    clear_value x5 y8 y7 y6 x4
    extract_lets +onlyGivenNames -underBinder x9
    have hx9 : Keeps a x9 := State.startRouters_keeps (State.updLoader_keeps ‹_›)
    clear_value x9
    extract_lets +onlyGivenNames -underBinder x10
    have hx10 : Keeps a x10 := State.startStage_keeps (State.stageReport_keeps ‹_›)
    clear_value x10
    extract_lets +onlyGivenNames -underBinder x11
    have hx11 : Keeps a x11 := State.each_keeps ‹_› (fun _ _ _ => State.startStage_keeps ‹_›)
    clear_value x11
    exact State.each_keeps ‹_› (fun _ _ _ => State.startStage_keeps ‹_›)

theorem stepComponentRestart_keeps {a : State} {comp : Nat} {s : State} (h : Keeps a s) : Keeps a (stepComponentRestart comp s) := by
  unfold stepComponentRestart
  extract_lets +onlyGivenNames -underBinder x0
  refine keeps_ite ‹_› ?_
  extract_lets +onlyGivenNames -underBinder y2 x1
  have hx1 : Keeps a x1 := Keeps.of_eq (s := s) ‹_› rfl rfl rfl rfl rfl
  clear_value x1 y2
  exact keeps_ite (State.each_keeps ‹_› (fun _ _ _ => State.tilesChanged_keeps ‹_›)) ‹_›

theorem stepThermalTrip_keeps {a : State} {temp : Nat} {s : State} (h : Keeps a s) : Keeps a (stepThermalTrip temp s) := by
  unfold stepThermalTrip
  refine keeps_ite ‹_› ?_
  extract_lets +onlyGivenNames -underBinder y2 x1
  have hx1 : Keeps a x1 := Keeps.of_eq (s := s) ‹_› rfl rfl rfl rfl rfl
  clear_value x1 y2
  extract_lets +onlyGivenNames -underBinder x3
  have hx3 : Keeps a x3 := State.emit_keeps (State.event_keeps ‹_›)
  clear_value x3
  exact State.orderChipReset_keeps ‹_›

theorem State.failComp_keeps {a s : State} {comp : Nat} (h : Keeps a s) : Keeps a (State.failComp s comp) := by
  unfold State.failComp
  extract_lets +onlyGivenNames -underBinder x1 y3 x2
  have hx2 : Keeps a x2 := Keeps.of_eq (s := s) ‹_› rfl rfl rfl rfl rfl
  clear_value x2 y3 x1
  extract_lets +onlyGivenNames -underBinder x4
  have hx4 : Keeps a x4 := State.event_keeps ‹_›
  clear_value x4
  exact keeps_ite (State.resetHolder_keeps ‹_›) (State.orderLevel_keeps ‹_› (fun _ _ => State.orderChipReset_keeps ‹_›))

theorem State.holdComp_keeps {a s : State} {comp : Nat} (h : Keeps a s) : Keeps a (State.holdComp s comp) := by
  unfold State.holdComp
  extract_lets +onlyGivenNames -underBinder x1
  clear_value x1
  refine keeps_ite (State.each_keeps ‹_› (fun _ _ _ => State.skipSlices_keeps ‹_›)) ?_
  refine keeps_ite (State.each_keeps ‹_› (fun _ _ _ => State.releaseHold_keeps ‹_›)) ?_
  refine keeps_ite (State.each_keeps ‹_› (fun _ _ _ => State.updRouter_keeps ‹_›)) ?_
  refine keeps_ite ?_ (keeps_ite (State.updClX_keeps ‹_›) ‹_›)
  extract_lets +onlyGivenNames -underBinder x8
  have hx8 : Keeps a x8 := State.each_keeps ‹_› (fun _ _ _ => State.updBatX_keeps ‹_›)
  clear_value x8
  exact State.updClY_keeps ‹_›

theorem State.tracePoint_keeps {a s : State} {comp n : Nat} {args : BitVec 96} (h : Keeps a s) :
    Keeps a (State.tracePoint s comp n args) := by
  unfold State.tracePoint
  refine keeps_ite ‹_› (keeps_ite ?_ (State.log__keeps ?_))
  · exact Keeps.of_eq (s := s) ‹_› rfl rfl rfl rfl rfl
  · exact Keeps.of_eq (s := s) ‹_› rfl rfl rfl rfl rfl

theorem State.tracePoints_keeps {a s : State} {comp : Nat} {l : List (Fin 1024 × BitVec 96)} (h : Keeps a s) :
    Keeps a (State.tracePoints s comp l) := by
  unfold State.tracePoints
  exact foldl_keeps ‹_› (fun _ _ _ => State.tracePoint_keeps ‹_›)

theorem stepComponentTrap_keeps {a : State} {comp cause : Nat} {pc : Word} {addr : BitVec 48} {trace : List (Fin 1024 × BitVec 96)} {s : State}
    (h : Keeps a s) : Keeps a (stepComponentTrap comp cause pc addr trace s) := by
  unfold stepComponentTrap
  refine keeps_ite ‹_› ?_
  extract_lets +onlyGivenNames -underBinder x0
  have hx0 : Keeps a x0 := State.tracePoints_keeps ‹_›
  clear_value x0
  extract_lets +onlyGivenNames -underBinder x1 y3 x2
  have hx2 : Keeps a x2 := Keeps.of_eq (s := x0) ‹_› rfl rfl rfl rfl rfl
  clear_value x2 y3 x1
  extract_lets +onlyGivenNames -underBinder x4
  have hx4 : Keeps a x4 := foldl_keeps ‹_› (fun _ _ _ => State.holdComp_keeps ‹_›)
  clear_value x4
  extract_lets +onlyGivenNames -underBinder x7
  have hx7 : Keeps a x7 := State.logComp_keeps ‹_›
  clear_value x7
  exact keeps_ite (State.failComp_keeps ‹_›) ‹_›

theorem stepThread3Fault_keeps {a : State} {t : TileId} {cause : Nat} {pc : Word} {addr : BitVec 48} {s : State} (h : Keeps a s) : Keeps a
    (stepThread3Fault t cause pc addr s) := by
  unfold stepThread3Fault
  extract_lets +onlyGivenNames -underBinder x1 x2 x3 x4
  have hx4 : Keeps a x4 := State.logComp_keeps ‹_›
  clear_value x4 x3 x2 x1
  extract_lets +onlyGivenNames -underBinder x5
  have hx5 : Keeps a x5 := keeps_ite (State.updClX_keeps ‹_›) ‹_›
  clear_value x5
  extract_lets +onlyGivenNames -underBinder x6
  have hx6 : Keeps a x6 := State.updTile_keeps ‹_›
  clear_value x6
  extract_lets +onlyGivenNames -underBinder x7
  have hx7 : Keeps a x7 := State.loseChecksOn_keeps ‹_›
  clear_value x7
  extract_lets +onlyGivenNames -underBinder x8
  have hx8 : Keeps a x8 := State.each_keeps ‹_› (fun _ _ _ => State.skipSlice_keeps ‹_›)
  clear_value x8
  exact keeps_ite (State.updTile_keeps (State.suspect_keeps ‹_›)) ‹_›

/-! Phys. -/

theorem State.powerUp_keeps {a s : State} (h : Keeps a s) : Keeps a (State.powerUp s) := by
  unfold State.powerUp
  exact keeps_ite (State.emit_keeps (Keeps.of_eq (s := s) ‹_› rfl rfl rfl rfl rfl)) ‹_›

theorem stepPowerOffHoldEnd_keeps {a s : State} (h : Keeps a s) : Keeps a (stepPowerOffHoldEnd s) := by
  unfold stepPowerOffHoldEnd
  exact keeps_ite (State.powerUp_keeps (Keeps.of_eq (s := s) ‹_› rfl rfl rfl rfl rfl)) ‹_›

theorem stepPwrEnRise_keeps {a s : State} (h : Keeps a s) : Keeps a (stepPwrEnRise s) := by
  unfold stepPwrEnRise
  exact State.powerUp_keeps (Keeps.of_eq (s := s) ‹_› rfl rfl rfl rfl rfl)

theorem State.powerOff_keeps {a s : State} (h : Keeps a s) : Keeps a (State.powerOff s) := by
  unfold State.powerOff
  extract_lets +onlyGivenNames -underBinder x1
  have hx1 : Keeps a x1 := State.closeBypass_keeps (State.closeBypass_keeps ‹_›)
  clear_value x1
  extract_lets +onlyGivenNames -underBinder y3 y4 x2
  have hx2 : Keeps a x2 := Keeps.of_eq (s := x1) ‹_› rfl rfl rfl rfl rfl
  clear_value x2 y4 y3
  exact State.emit_keeps (State.emit_keeps ‹_›)

theorem State.vinActs_keeps {a s : State} {b n was : Nat} (h : Keeps a s) : Keeps a (State.vinActs s b n was) := by
  unfold State.vinActs
  refine keeps_ite (keeps_ite ?_ ‹_›) (keeps_ite (keeps_ite (State.logPower_keeps (State.event_keeps (Keeps.of_eq (s := s) ‹_› rfl rfl
      rfl rfl rfl))) ‹_›) (keeps_ite (State.powerUp_keeps ‹_›) ‹_›))
  extract_lets +onlyGivenNames -underBinder x1
  have hx1 : Keeps a x1 := State.powerOff_keeps ‹_›
  clear_value x1
  exact Keeps.of_eq (s := x1) ‹_› rfl rfl rfl rfl rfl

theorem State.coolantReport_keeps {a s : State} {on : Bool} (h : Keeps a s) : Keeps a (State.coolantReport s on) := by
  unfold State.coolantReport
  exact keeps_ite (State.logPower_keeps (State.event_keeps (Keeps.of_eq (s := s) ‹_› rfl rfl rfl rfl rfl))) ‹_›

theorem stepCoolantRange_keeps {a : State} {inlet outlet : Nat} {s : State} (h : Keeps a s) : Keeps a (stepCoolantRange inlet outlet s)
    := by
  unfold stepCoolantRange
  extract_lets +onlyGivenNames -underBinder x1
  clear_value x1
  extract_lets +onlyGivenNames -underBinder x2
  clear_value x2
  extract_lets +onlyGivenNames -underBinder x3
  clear_value x3
  extract_lets +onlyGivenNames -underBinder x4
  have hx4 : Keeps a x4 := Keeps.of_eq (s := s) ‹_› rfl rfl rfl rfl rfl
  clear_value x4
  exact State.coolantReport_keeps (State.coolantReport_keeps ‹_›)

theorem stepModRstRise_keeps {a s : State} (h : Keeps a s) : Keeps a (stepModRstRise s) := by
  unfold stepModRstRise
  exact keeps_ite (State.startOne_keeps (Keeps.of_eq (s := s) ‹_› rfl rfl rfl rfl rfl)) ‹_›

theorem stepPowerGoodLoss_keeps {a s : State} (h : Keeps a s) : Keeps a (stepPowerGoodLoss s) := by
  unfold stepPowerGoodLoss
  refine keeps_ite ?_ ‹_›
  extract_lets +onlyGivenNames -underBinder x1
  have hx1 : Keeps a x1 := State.powerOff_keeps ‹_›
  clear_value x1
  exact State.emit_keeps (Keeps.of_eq (s := x1) ‹_› rfl rfl rfl rfl rfl)

theorem stepPwrEnFall_keeps {a s : State} (h : Keeps a s) : Keeps a (stepPwrEnFall s) := by
  unfold stepPwrEnFall
  extract_lets +onlyGivenNames -underBinder y2 x1
  have hx1 : Keeps a x1 := Keeps.of_eq (s := s) ‹_› rfl rfl rfl rfl rfl
  clear_value x1 y2
  exact keeps_ite (State.powerOff_keeps ‹_›) ‹_›

theorem stepVinSample_keeps {a : State} {v : Nat} {s : State} (h : Keeps a s) : Keeps a (stepVinSample v s) := by
  unfold stepVinSample
  extract_lets +onlyGivenNames -underBinder x1
  extract_lets +onlyGivenNames -underBinder x2
  extract_lets +onlyGivenNames -underBinder x3
  extract_lets +onlyGivenNames -underBinder y5 x4
  have hx4 : Keeps a x4 := Keeps.of_eq (s := s) ‹_› rfl rfl rfl rfl rfl
  exact State.vinActs_keeps (keeps_ite ‹_› (Keeps.of_eq (s := x4) ‹_› rfl rfl rfl rfl rfl))

theorem stepModRstLow_keeps {a : State} {ns : Nat} {s : State} (h : Keeps a s) : Keeps a (stepModRstLow ns s) := by
  unfold stepModRstLow
  refine keeps_ite ‹_› ?_
  extract_lets +onlyGivenNames -underBinder y2 x1
  have hx1 : Keeps a x1 := State.orderChipReset_keeps (Keeps.of_eq (s := s) ‹_› rfl rfl rfl rfl rfl)
  clear_value x1 y2
  exact keeps_ite (Keeps.of_eq (s := x1) ‹_› rfl rfl rfl rfl rfl) ‹_›

theorem stepRailFault_keeps {a : State} {rail ns : Nat} {s : State} (h : Keeps a s) : Keeps a (stepRailFault rail ns s) := by
  unfold stepRailFault
  refine keeps_ite ‹_› ?_
  extract_lets +onlyGivenNames -underBinder y2 x1
  have hx1 : Keeps a x1 := Keeps.of_eq (s := s) ‹_› rfl rfl rfl rfl rfl
  clear_value x1 y2
  extract_lets +onlyGivenNames -underBinder x3
  have hx3 : Keeps a x3 := State.logPower_keeps (State.event_keeps ‹_›)
  clear_value x3
  exact State.orderChipReset_keeps ‹_›

end Sys2Proof.Machine
end

