-- ==== Sys2Proof/Laws/KeepsHost.lean ====
section
/-! SUPPORT. What every operation keeps, for the host ports, the register writes, the belfry and the monitor. -/
namespace Sys2Proof.Machine

/-! HostPort. -/

theorem State.resetPort_keeps {a s : State} {p : Nat} (h : Keeps a s) : Keeps a (State.resetPort s p) := by
  unfold State.resetPort
  extract_lets +onlyGivenNames -underBinder x1
  clear_value x1
  extract_lets +onlyGivenNames -underBinder x2
  have hx2 : Keeps a x2 := keeps_ite (State.updBank_keeps ‹_›) ‹_›
  clear_value x2
  extract_lets +onlyGivenNames -underBinder x3
  clear_value x3
  extract_lets +onlyGivenNames -underBinder x4
  clear_value x4
  extract_lets +onlyGivenNames -underBinder x5
  clear_value x5
  extract_lets +onlyGivenNames -underBinder x6
  clear_value x6
  extract_lets +onlyGivenNames -underBinder x7
  have hx7 : Keeps a x7 := Keeps.of_eq (s := x2) ‹_› rfl rfl rfl rfl rfl
  clear_value x7
  exact State.updPort_keeps ‹_›

theorem stepConfigurationRequest_keeps {a : State} {port : Fin 4} {f : Fin 17} {off : Nat} {write : Bool} {val : Word} {s : State}
    (h
    : Keeps a s) : Keeps a (stepConfigurationRequest port f off write val s) := by
  unfold stepConfigurationRequest
  extract_lets +onlyGivenNames -underBinder x1
  clear_value x1
  extract_lets +onlyGivenNames -underBinder x2
  have hx2 : Keeps a x2 := State.unlatch_keeps ‹_›
  clear_value x2
  refine keeps_ite (State.emit_keeps ‹_›) (keeps_ite (State.emit_keeps ‹_›) (keeps_ite (State.emit_keeps ‹_›) (keeps_ite ?_ ‹_›)))
  extract_lets +onlyGivenNames -underBinder x3
  clear_value x3
  exact Keeps.of_eq (s := x2) ‹_› rfl rfl rfl rfl rfl

theorem stepMsixUnmask_keeps {a : State} {port : Fin 4} {f : Fin 17} {vec : Nat} {s : State} (h : Keeps a s) :
    Keeps a (stepMsixUnmask port f vec s) := by
  unfold stepMsixUnmask
  extract_lets +onlyGivenNames -underBinder x1
  clear_value x1
  extract_lets +onlyGivenNames -underBinder x2
  have hx2 : Keeps a x2 := State.unlatch_keeps ‹_›
  clear_value x2
  extract_lets +onlyGivenNames -underBinder x3
  clear_value x3
  refine keeps_ite ‹_› ?_
  extract_lets +onlyGivenNames -underBinder x4
  clear_value x4
  extract_lets +onlyGivenNames -underBinder x5
  have hx5 : Keeps a x5 := Keeps.of_eq (s := x2) ‹_› rfl rfl rfl rfl rfl
  clear_value x5
  exact keeps_ite (State.emit_keeps ‹_›) ‹_›

theorem stepPerstDeassert_keeps {a : State} {port : Fin 4} {s : State} (h : Keeps a s) : Keeps a (stepPerstDeassert port s) := by
  unfold stepPerstDeassert
  extract_lets +onlyGivenNames -underBinder x1
  clear_value x1
  refine keeps_ite ‹_› ?_
  extract_lets +onlyGivenNames -underBinder x2
  have hx2 : Keeps a x2 := State.updPort_keeps ‹_›
  clear_value x2
  exact keeps_ite (State.startStage_keeps ‹_›) ‹_›

theorem stepResizableBarChange_keeps {a : State} {port : Fin 4} {size : Nat} {s : State} (h : Keeps a s) : Keeps a
    (stepResizableBarChange port size s) := by
  unfold stepResizableBarChange
  refine keeps_ite ‹_› ?_
  extract_lets +onlyGivenNames -underBinder x1
  have hx1 : Keeps a x1 := State.updPort_keeps ‹_›
  clear_value x1
  exact Keeps.of_eq (s := x1) ‹_› rfl rfl rfl rfl rfl

theorem State.bar2Arrive_keeps {a s : State} {p : ℕ} {x : Bar2Op} (h : Keeps a s) : Keeps a (State.bar2Arrive s p x) := by
  unfold State.bar2Arrive
  extract_lets +onlyGivenNames -underBinder x1
  have hx1 : Keeps a x1 := State.updPort_keeps ‹_›
  clear_value x1
  exact State.bar2Drain_keeps ‹_›

theorem stepBar2Read_keeps {a : State} {port : Fin 4} {addr len : Nat} {s : State} (h : Keeps a s) : Keeps a
    (stepBar2Read port addr
    len s) := by
  unfold stepBar2Read
  exact keeps_ite (State.bar2Arrive_keeps ‹_›) ‹_›

theorem stepBar2WindowBind_keeps {a : State} {port : Fin 4} {w : Fin 16} {val : Dword} {s : State} (h : Keeps a s) : Keeps a
    (stepBar2WindowBind port w val s) := by
  unfold stepBar2WindowBind
  extract_lets +onlyGivenNames -underBinder x1
  clear_value x1
  refine keeps_ite (State.refuseG_keeps ‹_›) ?_
  extract_lets +onlyGivenNames -underBinder x2 x3 x4 x5 x6
  clear_value x6 x5 x4 x3 x2
  exact Keeps.of_eq (s := s) ‹_› rfl rfl rfl rfl rfl

theorem stepLinkTrainingComplete_keeps {a : State} {port : Fin 4} {ok : Bool} {s : State} (h : Keeps a s) : Keeps a
    (stepLinkTrainingComplete port ok s) := by
  unfold stepLinkTrainingComplete
  extract_lets +onlyGivenNames -underBinder x1
  clear_value x1
  refine keeps_ite ‹_› ?_
  extract_lets +onlyGivenNames -underBinder x2
  have hx2 : Keeps a x2 := State.updPort_keeps ‹_›
  clear_value x2
  extract_lets +onlyGivenNames -underBinder y4 x3
  have hx3 : Keeps a x3 := Keeps.of_eq (s := x2) ‹_› rfl rfl rfl rfl rfl
  clear_value x3 y4
  exact keeps_ite (State.stageReport_keeps ‹_›) ‹_›

theorem stepBar2Write_keeps {a s : State} {port : Fin 4} {addr : Nat} {data : List Byte} (h : Keeps a s) : Keeps a
    (stepBar2Write
    port addr data s) := by
  unfold stepBar2Write
  exact keeps_ite (State.bar2Arrive_keeps ‹_›) ‹_›

theorem State.resetOwned_keeps {a s : State} {p : Nat} (h : Keeps a s) : Keeps a (State.resetOwned s p) := by
  unfold State.resetOwned
  exact State.each_keeps ‹_› (fun _ _ _ => State.orderPartReset_keeps ‹_›)

theorem State.portEvent_keeps {a s : State} {p : Nat} (h : Keeps a s) : Keeps a (State.portEvent s p) := by
  unfold State.portEvent
  exact State.resetPort_keeps (State.resetOwned_keeps ‹_›)

theorem stepD3hotEntry_keeps {a : State} {port : Fin 4} {f : Fin 17} {s : State} (h : Keeps a s) : Keeps a (stepD3hotEntry port f s) := by
  unfold stepD3hotEntry
  extract_lets +onlyGivenNames -underBinder x1
  clear_value x1
  exact keeps_ite ‹_› (State.updPort_keeps (keeps_ite (State.portEvent_keeps ‹_›) ‹_›))

theorem stepDlDown_keeps {a : State} {port : Fin 4} {s : State} (h : Keeps a s) : Keeps a (stepDlDown port s) := by
  unfold stepDlDown
  exact keeps_ite (State.updPort_keeps (State.portEvent_keeps ‹_›)) ‹_›

theorem stepFunctionLevelReset_keeps {a : State} {port : Fin 4} {f : Fin 17} {s : State} (h : Keeps a s) : Keeps a
    (stepFunctionLevelReset port f s) := by
  unfold stepFunctionLevelReset
  extract_lets +onlyGivenNames -underBinder x1
  clear_value x1
  refine keeps_ite ‹_› ?_
  refine keeps_ite (State.portEvent_keeps ‹_›) ?_
  extract_lets +onlyGivenNames -underBinder x2
  have hx2 : Keeps a x2 := State.each_keeps ‹_› (fun _ _ _ => State.orderPartReset_keeps ‹_›)
  clear_value x2
  exact Keeps.of_eq (s := x2) ‹_› rfl rfl rfl rfl rfl

theorem stepHotReset_keeps {a : State} {port : Fin 4} {s : State} (h : Keeps a s) : Keeps a (stepHotReset port s) := by
  unfold stepHotReset
  exact keeps_ite (State.portEvent_keeps ‹_›) ‹_›

theorem stepPerst_keeps {a : State} {port : Fin 4} {s : State} (h : Keeps a s) : Keeps a (stepPerst port s) := by
  unfold stepPerst
  extract_lets +onlyGivenNames -underBinder x1 x2
  have hx2 : Keeps a x2 := keeps_ite ‹_› (State.portEvent_keeps ‹_›)
  clear_value x2 x1
  extract_lets +onlyGivenNames -underBinder x3
  have hx3 : Keeps a x3 := State.updPort_keeps ‹_›
  clear_value x3
  exact Keeps.of_eq (s := x3) ‹_› rfl rfl rfl rfl rfl

/-! RegWrite. -/

theorem State.readBack_keeps {a s : State} {fn : Fn} {len : Nat} {data : Nat} (h : Keeps a s) : Keeps a (State.readBack s fn len data) := by
  unfold State.readBack
  split
  · exact State.emit_keeps ‹_›
  · exact State.emit_keeps ‹_›
  · assumption

theorem State.configWrite_keeps {a s : State} {fn : Fn} {p off val : Nat} {t : Target} {ok : Bool} {act : State → State} (h : Keeps a s)
    (hact : ∀ u0, Keeps a u0 → Keeps a (act u0)) : Keeps a (State.configWrite s fn p off val t ok act) := by
  unfold State.configWrite
  exact keeps_ite (State.refuseP_keeps ‹_›) (hact _ ‹_›)

theorem State.withAccess_keeps {a s : State} {off : ℕ} {val : ℕ} {act : State → State} (h : Keeps a s)
    (hact : ∀ s, Keeps a s → Keeps a (act s)) : Keeps a (State.withAccess s off val act) := by
  unfold State.withAccess
  extract_lets +onlyGivenNames x1 x2 x3
  have hx : Keeps a x2 := hact _ (Keeps.of_eq (s := s) h rfl rfl rfl rfl rfl)
  exact Keeps.of_eq (s := x2) hx rfl rfl rfl rfl rfl

theorem State.irregular_keeps {a s : State} {fn : Fn} {off : Nat} {val : Nat} (h : Keeps a s) : Keeps a (State.irregular s fn off val) := by
  unfold State.irregular
  exact State.withAccess_keeps ‹_› (fun _ _ => State.logAccess_keeps ‹_›)

theorem State.writeGlb_keeps {a s : State} {fn : Fn} {off : Nat} {w : SlotWrite} {r : Reg} (h : Keeps a s) : Keeps a
    (State.writeGlb s fn off w r) := by
  unfold State.writeGlb
  extract_lets +onlyGivenNames -underBinder x1 x2
  have hx2 : ∀ (y3 : Sys2Proof.Machine.State → Sys2Proof.Machine.State), (∀ u, Keeps a u → Keeps a (y3 u)) → Keeps a (x2 y3) := by
    intro y3 hy3
    unfold x2
    refine State.gateG_keeps ?_ ?_
    · assumption
    · intro z4 hz4
      refine hy3 _ ?_
      assumption
  clear_value x2 x1
  split
  · exact hx2 _ (fun z5 hz5 => keeps_ite (State.refuseG_keeps ‹_›) (Keeps.of_eq (s := z5) ‹_› rfl rfl rfl rfl rfl))
  · refine hx2 _ ?_
    intro z6 hz6
    refine keeps_ite (State.refuseG_keeps ‹_›) ?_
    extract_lets +onlyGivenNames -underBinder y8 x7
    have hx7 : Keeps a x7 := Keeps.of_eq (s := z6) ‹_› rfl rfl rfl rfl rfl
    clear_value x7 y8
    exact Keeps.of_eq (s := x7) ‹_› rfl rfl rfl rfl rfl
  · exact hx2 _ (fun z9 hz9 => keeps_ite (Keeps.of_eq (s := z9) ‹_› rfl rfl rfl rfl rfl) ‹_›)
  · exact hx2 _ (fun z10 hz10 => Keeps.of_eq (s := z10) ‹_› rfl rfl rfl rfl rfl)
  · exact hx2 _ (fun _ _ => keeps_ite (State.updChan_keeps ‹_›) ‹_›)
  · exact stepRingIdWrite_keeps ‹_›
  · exact stepRingKeyWrite_keeps ‹_›
  · exact stepSecure_keeps ‹_›
  · exact hx2 _ (fun z12 hz12 => keeps_ite (State.refuseG_keeps ‹_›) (Keeps.of_eq (s := z12) ‹_› rfl rfl rfl rfl rfl))
  · exact hx2 _ (fun z13 hz13 => Keeps.of_eq (s := z13) ‹_› rfl rfl rfl rfl rfl)
  · exact hx2 _ (fun z14 hz14 => Keeps.of_eq (s := z14) ‹_› rfl rfl rfl rfl rfl)
  · exact stepFwLoad_keeps ‹_›
  · exact stepCfgStage_keeps ‹_›
  · split
    · exact stepBar2WindowBind_keeps ‹_›
    · assumption
  · exact stepStagingWindowWrite_keeps ‹_›
  · exact stepStagingWindowWrite_keeps ‹_›
  · assumption

theorem State.writePtn_keeps {a s : State} {fn : Fn} {off : Nat} {w : SlotWrite} {r : Reg} (h : Keeps a s) : Keeps a
    (State.writePtn
    s fn off w r) := by
  unfold State.writePtn
  extract_lets +onlyGivenNames -underBinder x1
  clear_value x1
  extract_lets +onlyGivenNames -underBinder x2
  clear_value x2
  extract_lets +onlyGivenNames -underBinder x3
  clear_value x3
  extract_lets +onlyGivenNames -underBinder x4
  split
  · exact keeps_ite (stepPartitionReset_keeps ‹_›) (State.gateP_keeps ‹_› (fun _ hx => hx))
  · exact stepStrictWrite_keeps ‹_›
  · exact stepXlatInvalidate_keeps ‹_›
  · exact stepStreamResume_keeps ‹_›
  · exact stepFrameFree_keeps ‹_›
  · exact State.gateP_keeps ‹_› (fun _ _ => keeps_ite (State.updPart_keeps ‹_›) ‹_›)
  · exact State.ctxWrite_keeps ‹_›
  · exact State.gateP_keeps ‹_› (fun _ _ => State.updCtx_keeps ‹_›)
  · exact State.gateP_keeps ‹_› (fun _ _ => State.configWrite_keeps ‹_› (fun _ _ => State.updCtx_keeps ‹_›))
  · exact State.gateP_keeps ‹_› (fun _ _ => State.configWrite_keeps ‹_› (fun _ _ => State.updCtx_keeps ‹_›))
  · exact State.gateP_keeps ‹_› (fun _ _ => State.configWrite_keeps ‹_› (fun _ _ => State.updQueue_keeps ‹_›))
  · exact State.writeStill_keeps ‹_›
  · exact State.writeStill_keeps ‹_›
  · exact State.writeStill_keeps ‹_›
  · exact State.gateP_keeps ‹_› (fun _ _ => keeps_ite (State.updCtxX_keeps ‹_›) ‹_›)
  · exact State.gateP_keeps ‹_› (fun _ _ => State.updCtxX_keeps ‹_›)
  · exact State.gateP_keeps ‹_› (fun _ _ => keeps_ite (State.refuseP_keeps ‹_›) (State.updCtxX_keeps ‹_›))
  · exact State.gateP_keeps ‹_› (fun _ _ => keeps_ite (State.updCtxX_keeps ‹_›) ‹_›)
  · exact State.gateP_keeps ‹_› (fun _ _ => State.updCtxX_keeps ‹_›)
  · exact State.gateP_keeps ‹_› (fun _ _ => State.configWrite_keeps ‹_› (fun _ _ => State.updPart_keeps ‹_›))
  · exact keeps_ite ‹_› (stepDoorbell_keeps ‹_›)
  · exact keeps_ite ‹_› (stepCqHeadWrite_keeps ‹_›)
  · assumption

theorem State.writeClu_keeps {a s : State} {fn : Fn} {off : Nat} {w : SlotWrite} {r : Reg} (h : Keeps a s) : Keeps a
    (State.writeClu s fn off w r) := by
  unfold State.writeClu
  extract_lets +onlyGivenNames -underBinder x1 x2 x3
  have hx3 : ∀ (y4 : Sys2Proof.Machine.State → Sys2Proof.Machine.State), (∀ u, Keeps a u → Keeps a (y4 u)) → Keeps a (x3 y4) := by
    intro y4 hy4
    unfold x3
    refine State.gateC_keeps ?_ ?_
    · assumption
    · intro z5 hz5
      refine hy4 _ ?_
      assumption
  clear_value x3 x2 x1
  extract_lets +onlyGivenNames -underBinder x6
  have hx6 : ∀ (y7 : Sys2Proof.Machine.State → Sys2Proof.Machine.State), (∀ u, Keeps a u → Keeps a (y7 u)) → Keeps a (x6 y7) := by
    intro y7 hy7
    unfold x6
    refine keeps_ite ?_ ?_
    · refine hy7 _ ?_
      assumption
    · refine State.refuseC_keeps ?_
      assumption
  clear_value x6
  split
  · exact State.msgWrite_keeps ‹_›
  · exact hx3 _ (fun _ _ => keeps_ite (State.refuseC_keeps ‹_›) (State.updClX_keeps ‹_›))
  · exact hx6 _ (fun _ _ => keeps_ite (State.refuseC_keeps ‹_›) (State.updClX_keeps ‹_›))
  · extract_lets +onlyGivenNames -underBinder x10
    clear_value x10
    exact hx3 _ (fun _ _ => State.updComb_keeps ‹_›)
  · exact hx3 _ (fun _ _ => keeps_ite (State.updBatX_keeps ‹_›) ‹_›)
  · exact hx6 _ (fun _ _ => keeps_ite (State.updSlice_keeps ‹_›) ‹_›)
  · exact hx3 _ (fun _ _ => State.updTile_keeps ‹_›)
  · exact keeps_ite (hx3 _ (fun _ _ => State.refuseC_keeps ‹_›)) (keeps_ite (State.engineOrder_keeps ‹_›) (hx3 _ (fun _ _ =>
      State.updClY_keeps ‹_›)))
  · assumption

theorem State.writeReg_keeps {a s : State} {fn : Fn} {off : Nat} {w : SlotWrite} {r : Reg} (h : Keeps a s) : Keeps a
    (State.writeReg s fn off w r) := by
  unfold State.writeReg
  refine keeps_ite (State.refuseG_keeps ‹_›) ?_
  split
  · exact State.refuseG_keeps ‹_›
  · refine keeps_ite (State.logAccess_keeps ‹_›) ?_
    refine keeps_ite ‹_› ?_
    split
    · split
      · assumption
      · exact State.writeGlb_keeps ‹_›
      · exact State.writePtn_keeps ‹_›
    · exact State.writeClu_keeps ‹_›
    · exact State.writeGlb_keeps ‹_›

theorem State.writeSlot_keeps {a s : State} {fn : Fn} {off bytes val : Nat} (h : Keeps a s) : Keeps a
    (State.writeSlot s fn off bytes val) := by
  unfold State.writeSlot
  extract_lets +onlyGivenNames -underBinder x1
  clear_value x1
  split
  · assumption
  · split
    · exact State.writeReg_keeps ‹_›
    · exact keeps_ite (State.refuseG_keeps ‹_›) ‹_›

theorem State.writeBar0_keeps {a s : State} {fn : Fn} {off : ℕ} {n : ℕ} {val : ℕ} (h : Keeps a s) : Keeps a (State.writeBar0 s fn off n
    val) := by
  unfold State.writeBar0
  extract_lets +onlyGivenNames -underBinder x1
  have hx1 : Keeps a x1 := State.unlatch_keeps ‹_›
  clear_value x1
  extract_lets +onlyGivenNames -underBinder x2
  clear_value x2
  exact keeps_ite (State.withAccess_keeps ‹_› (fun _ _ => State.writeSlot_keeps ‹_›)) (State.irregular_keeps ‹_›)

theorem State.refuseRead_keeps {a s : State} {fn : Fn} (h : Keeps a s) : Keeps a (State.refuseRead s fn) := by
  unfold State.refuseRead
  split
  · exact State.emit_keeps ‹_›
  · exact State.emit_keeps ‹_›
  · assumption

theorem State.readBar0_keeps {a s : State} {fn : Fn} {off : ℕ} {n : ℕ} (h : Keeps a s) : Keeps a (State.readBar0 s fn off n) := by
  unfold State.readBar0
  extract_lets +onlyGivenNames -underBinder x1
  clear_value x1
  extract_lets +onlyGivenNames -underBinder x2
  clear_value x2
  extract_lets +onlyGivenNames -underBinder x3
  have hx3 : Keeps a x3 := State.unlatch_keeps ‹_›
  clear_value x3
  refine keeps_ite (State.refuseRead_keeps ‹_›) (keeps_ite (State.readBack_keeps ‹_›) (keeps_ite ?_ ?_))
  · split
    · exact State.readBack_keeps ‹_›
    · exact State.readBack_keeps ‹_›
  · extract_lets +onlyGivenNames -underBinder x4
    have hx4 : Keeps a x4 := State.readBack_keeps ‹_›
    clear_value x4
    split
    · assumption
    · assumption
    · exact keeps_ite (Keeps.of_eq (s := x4) ‹_› rfl rfl rfl rfl rfl) ‹_›

theorem stepBar0IrregularAccess_keeps {a : State} {fn : Fn} {off len : Nat} {write : Bool} {val : Dword} {s : State} (h : Keeps a s) :
    Keeps a (stepBar0IrregularAccess fn off len write val s) := by
  unfold stepBar0IrregularAccess
  exact keeps_ite (State.writeBar0_keeps ‹_›) (keeps_ite (State.readBar0_keeps ‹_›) (State.readBack_keeps (State.irregular_keeps
      (State.unlatch_keeps ‹_›))))

theorem stepLowHalfRead_keeps {a : State} {fn : Fn} {off : Nat} {s : State} (h : Keeps a s) : Keeps a (stepLowHalfRead fn off s) := by
  unfold stepLowHalfRead
  exact keeps_ite (State.readBack_keeps (State.irregular_keeps (State.unlatch_keeps ‹_›))) (State.readBar0_keeps ‹_›)

theorem stepRegisterWrite_keeps {a : State} {fn : Fn} {off : Nat} {size : Size} {val : Dword} {s : State} (h : Keeps a s) :
    Keeps a (stepRegisterWrite fn off size val s) := by
  unfold stepRegisterWrite
  exact State.writeBar0_keeps ‹_›

/-! Belfry. -/

theorem State.accept_keeps {a s : State} {seq : Nat} (h : Keeps a s) : Keeps a (State.accept s seq) := by
  unfold State.accept
  extract_lets +onlyGivenNames -underBinder x1
  clear_value x1
  exact Keeps.of_eq (s := s) ‹_› rfl rfl rfl rfl rfl

theorem State.badTag_keeps {a s : State} (h : Keeps a s) : Keeps a (State.badTag s) := by
  unfold State.badTag
  exact Keeps.of_eq (s := s) ‹_› rfl rfl rfl rfl rfl

theorem State.bfDone_keeps {a s : State} {typ : Nat} {port : Fin 2} {seq st : Nat} (h : Keeps a s) : Keeps a
    (State.bfDone s typ port seq st) := by
  unfold State.bfDone
  exact State.respond_keeps ‹_›

theorem State.bfOrdered_keeps {a s : State} {typ : Nat} {port : Fin 2} {seq key : Nat} {act : State → State × Nat} (h : Keeps a s)
    (hact : ∀ u, Keeps a u → Keeps a (act u).1) : Keeps a (s.bfOrdered typ port seq key act) := by
  have h1 := hact _ (Keeps.of_eq (t := { s with belfry := { s.belfry with waits := s.belfry.waits ++ [(key, port.val, typ, seq)] } }) h
    rfl rfl rfl rfl rfl)
  unfold State.bfOrdered
  dsimp only
  split <;> rename_i e <;> have h2 := keeps_of_fst e h1
  · exact h2
  · exact State.respond_keeps (h2.of_eq rfl rfl rfl rfl rfl)

theorem State.bfRequest_keeps {a s : State} {typ : Nat} {port : Fin 2} {seq : Nat} {mac : BitVec 128} {payload : List Byte}
    {ready : Bool} {act : State → State} (h : Keeps a s) (hact : ∀ u0, Keeps a u0 → Keeps a (act u0)) : Keeps a
    (State.bfRequest s typ port seq mac payload ready act) := by
  unfold State.bfRequest
  refine keeps_ite ‹_› ?_
  refine keeps_ite (State.badTag_keeps ‹_›) ?_
  refine keeps_ite ?_ ?_
  · split
    · exact State.emit_keeps ‹_›
    · assumption
  · extract_lets +onlyGivenNames -underBinder x1
    have hx1 : Keeps a x1 := State.accept_keeps ‹_›
    clear_value x1
    exact keeps_ite (hact _ ‹_›) (State.respond_keeps ‹_›)

theorem stepAck_keeps {a : State} {port : Fin 2} {seq ref : Nat} {mac : BitVec 128} {payload : List Byte} {s : State} (h : Keeps a s) : Keeps
    a (stepAck port seq ref mac payload s) := by
  unfold stepAck
  exact keeps_ite ‹_› (keeps_ite (State.badTag_keeps ‹_›) (Keeps.of_eq (s := s) ‹_› rfl rfl rfl rfl rfl))

theorem stepBelfryReservedType_keeps {a : State} {port : Fin 2} {typ : Byte} {seq : Nat} {mac : BitVec 128} {payload : List Byte}
    {s : State} (h : Keeps a s) : Keeps a (stepBelfryReservedType port typ seq mac payload s) := by
  unfold stepBelfryReservedType
  exact keeps_ite ‹_› (State.bfRequest_keeps ‹_› (fun _ _ => State.bfDone_keeps ‹_›))

theorem stepEchoRequest_keeps {a : State} {port : Fin 2} {data : List Byte} {s : State} (h : Keeps a s) : Keeps a
    (stepEchoRequest port data s) := by
  unfold stepEchoRequest
  exact keeps_ite (State.emit_keeps ‹_›) ‹_›

theorem stepHello_keeps {a s : State} (h : Keeps a s) : Keeps a (stepHello s) := by
  unfold stepHello
  refine keeps_ite ‹_› ?_
  extract_lets +onlyGivenNames -underBinder x1
  clear_value x1
  exact State.bfSend_keeps (Keeps.of_eq (s := s) ‹_› rfl rfl rfl rfl rfl)

theorem stepManagementPortLink_keeps {a : State} {port : Fin 2} {up : Bool} {s : State} (h : Keeps a s) : Keeps a
    (stepManagementPortLink port up s) := by
  unfold stepManagementPortLink
  refine keeps_ite ‹_› ?_
  extract_lets +onlyGivenNames -underBinder y2 x1
  have hx1 : Keeps a x1 := Keeps.of_eq (s := s) ‹_› rfl rfl rfl rfl rfl
  clear_value x1 y2
  exact keeps_ite (State.emit_keeps ‹_›) ‹_›

theorem stepNeighborSolicitation_keeps {a : State} {port : Fin 2} {target : Nat} {s : State} (h : Keeps a s) : Keeps a
    (stepNeighborSolicitation port target s) := by
  unfold stepNeighborSolicitation
  exact keeps_ite (State.emit_keeps ‹_›) ‹_›

theorem stepReportResend_keeps {a s : State} (h : Keeps a s) : Keeps a (stepReportResend s) := by
  unfold stepReportResend
  exact keeps_ite ‹_› (State.each_keeps ‹_› (fun _ _ _ => State.bfSend_keeps ‹_›))

theorem State.bfChecked_keeps {a s : State} {typ : Nat} {port : Fin 2} {seq : Nat} {ok : Bool} {act : State → State} (h : Keeps a s)
    (hact : ∀ u0, Keeps a u0 → Keeps a (act u0)) : Keeps a (State.bfChecked s typ port seq ok act) := by
  unfold State.bfChecked
  exact keeps_ite (hact _ ‹_›) (State.bfDone_keeps ‹_›)

theorem State.bfOrder_keeps {a s : State} {n : Nat} {port : Fin 2} {seq : Nat} {mac : BitVec 128} {payload : List Byte} {ready ok : Bool}
    {act : Nat → State → State} (h : Keeps a s) (hact : ∀ u0 u1, Keeps a u1 → Keeps a (act u0 u1)) : Keeps a
    (State.bfOrder s n port seq mac payload ready ok act) := by
  unfold State.bfOrder
  extract_lets +onlyGivenNames -underBinder x1
  clear_value x1
  exact State.bfRequest_keeps ‹_› (fun _ _ => State.bfChecked_keeps ‹_› (fun _ _ => hact _ _ ‹_›))

theorem stepKeySet_keeps {a : State} {port : Fin 2} {seq : Nat} {mac : BitVec 128} {payload : List Byte} {s : State} (h : Keeps a s) :
    Keeps a (stepKeySet port seq mac payload s) := by
  unfold stepKeySet
  refine State.bfRequest_keeps ‹_› ?_
  intro z1 hz1
  refine State.bfChecked_keeps ‹_› ?_
  intro z2 hz2
  split
  · exact State.bfDone_keeps (Keeps.of_eq (s := z2) ‹_› rfl rfl rfl rfl rfl)
  · exact State.bfDone_keeps ‹_›

theorem stepOwner_keeps {a : State} {port : Fin 2} {seq : Nat} {mac : BitVec 128} {payload : List Byte} {s : State} (h : Keeps a s) :
    Keeps a (stepOwner port seq mac payload s) := by
  unfold stepOwner
  exact State.bfRequest_keeps ‹_› (fun _ _ => State.bfChecked_keeps ‹_› (fun z2 hz2 => keeps_ite (State.bfDone_keeps ‹_›)
      (State.bfDone_keeps (Keeps.of_eq (s := z2) ‹_› rfl rfl rfl rfl rfl))))

theorem stepRead_keeps {a : State} {port : Fin 2} {seq : Nat} {mac : BitVec 128} {payload : List Byte} {s : State} (h : Keeps a s) :
    Keeps a (stepRead port seq mac payload s) := by
  unfold stepRead
  extract_lets +onlyGivenNames -underBinder x1 x2 x3 x4
  clear_value x4 x3 x2 x1
  exact State.bfRequest_keeps ‹_› (fun _ _ => State.bfChecked_keeps ‹_› (fun _ _ => keeps_ite (keeps_ite (State.bfDone_keeps ‹_›)
      (State.respond_keeps ‹_›)) (keeps_ite (State.bfDone_keeps ‹_›) (State.respond_keeps ‹_›))))

theorem stepStageData_keeps {a : State} {port : Fin 2} {seq : Nat} {mac : BitVec 128} {payload : List Byte} {s : State} (h : Keeps a s) :
    Keeps a (stepStageData port seq mac payload s) := by
  unfold stepStageData
  extract_lets +onlyGivenNames -underBinder x1 x2
  clear_value x2 x1
  exact State.bfRequest_keeps ‹_› (fun _ _ => State.bfChecked_keeps ‹_› (fun _ _ => keeps_ite (State.bfDone_keeps ‹_›) (keeps_ite
      (State.bfDone_keeps ‹_›) (State.bfDone_keeps (State.updStager_keeps ‹_›)))))

theorem stepStageGo_keeps {a : State} {port : Fin 2} {seq : Nat} {mac : BitVec 128} {payload : List Byte} {s : State} (h : Keeps a s) :
    Keeps a (stepStageGo port seq mac payload s) := by
  unfold stepStageGo
  extract_lets +onlyGivenNames -underBinder x1 x2
  clear_value x2 x1
  exact State.bfRequest_keeps ‹_› (fun _ _ => State.bfChecked_keeps ‹_› (fun _ _ => keeps_ite (State.bfDone_keeps ‹_›) (keeps_ite
      (State.bfDone_keeps ‹_›) (State.bfOrdered_keeps ‹_› (fun _ _ => State.stageGo_keeps ‹_›)))))

theorem stepSubscribe_keeps {a : State} {port : Fin 2} {seq : Nat} {mac src : BitVec 128} {payload : List Byte} {s : State}
    (h : Keeps a s) : Keeps a (stepSubscribe port seq mac src payload s) := by
  unfold stepSubscribe
  refine State.bfRequest_keeps ‹_› ?_
  intro z1 hz1
  refine State.bfChecked_keeps ‹_› ?_
  intro z2 hz2
  extract_lets +onlyGivenNames -underBinder x3 x4
  clear_value x4 x3
  exact State.bfDone_keeps (Keeps.of_eq (s := z2) ‹_› rfl rfl rfl rfl rfl)

theorem stepSvnRaise_keeps {a : State} {port : Fin 2} {seq : Nat} {mac : BitVec 128} {payload : List Byte} {s : State} (h : Keeps a s) :
    Keeps a (stepSvnRaise port seq mac payload s) := by
  unfold stepSvnRaise
  exact State.bfRequest_keeps ‹_› (fun _ _ => State.bfChecked_keeps ‹_› (fun z2 hz2 => State.bfDone_keeps (Keeps.of_eq (s := z2) ‹_› rfl
      rfl rfl rfl rfl)))

theorem stepSwap_keeps {a : State} {port : Fin 2} {seq : Nat} {mac : BitVec 128} {payload : List Byte} {s : State} (h : Keeps a s) :
    Keeps a (stepSwap port seq mac payload s) := by
  unfold stepSwap
  extract_lets +onlyGivenNames -underBinder x1 x2
  clear_value x2 x1
  exact State.bfRequest_keeps ‹_› (fun _ _ => State.bfChecked_keeps ‹_› (fun _ _ => State.bfOrdered_keeps ‹_› (fun _ _ =>
      State.orderSwap_keeps ‹_›)))

theorem State.bfCtxOp_keeps {a s : State} {p k op : Nat} (h : Keeps a s) : Keeps a (State.bfCtxOp s p k op).1 := by
  unfold State.bfCtxOp
  split
  · exact keeps_pair ‹_›
  · exact keeps_pair ‹_›
  · exact keeps_ite_fst (keeps_pair ‹_›) (keeps_pair (State.updCtx_keeps (State.ctxOp_keeps ‹_›)))

theorem stepWriteReg_keeps {a : State} {port : Fin 2} {seq : Nat} {mac : BitVec 128} {payload : List Byte} {s : State} (h : Keeps a s) :
    Keeps a (stepWriteReg port seq mac payload s) := by
  unfold stepWriteReg
  extract_lets +onlyGivenNames -underBinder x1
  clear_value x1
  exact State.bfRequest_keeps ‹_› (fun _ _ => State.bfChecked_keeps ‹_› (fun _ _ => keeps_ite (State.bfDone_keeps (State.writeSlot_keeps
      ‹_›)) (State.bfDone_keeps ‹_›)))

/-! Monitor. -/

theorem State.monInput_keeps {a s : State} (h : Keeps a s) : Keeps a (State.monInput s) := by
  unfold State.monInput
  exact Keeps.of_eq (s := s) ‹_› rfl rfl rfl rfl rfl

theorem State.monLock_keeps {a s : State} (h : Keeps a s) : Keeps a (State.monLock s) := by
  unfold State.monLock
  exact Keeps.of_eq (s := s) ‹_› rfl rfl rfl rfl rfl

theorem State.say_keeps {a s : State} {l : List Nat} (h : Keeps a s) : Keeps a (State.say s l) := by
  unfold State.say
  exact State.emit_keeps ‹_›

theorem State.smbusSay_keeps {a s : State} {n v : Nat} (h : Keeps a s) : Keeps a (State.smbusSay s n v) := by
  unfold State.smbusSay
  exact keeps_ite (State.emit_keeps ‹_›) ‹_›

theorem stepAlertCauses_keeps {a : State} {write : Bool} {val : Byte} {s : State} (h : Keeps a s) : Keeps a (stepAlertCauses write val s)
    := by
  unfold stepAlertCauses
  refine keeps_ite ‹_› ?_
  refine keeps_ite (State.smbusSay_keeps ‹_›) ?_
  extract_lets +onlyGivenNames -underBinder x1 y3 x2
  have hx2 : Keeps a x2 := Keeps.of_eq (s := s) ‹_› rfl rfl rfl rfl rfl
  clear_value x2 y3 x1
  exact keeps_ite (State.emit_keeps ‹_›) ‹_›

theorem stepFruEepromRead_keeps {a : State} {addr len : Nat} {s : State} (h : Keeps a s) : Keeps a (stepFruEepromRead addr len s) := by
  unfold stepFruEepromRead
  exact keeps_ite (State.emit_keeps ‹_›) ‹_›

theorem stepMonitorRelock_keeps {a s : State} (h : Keeps a s) : Keeps a (stepMonitorRelock s) := by
  unfold stepMonitorRelock
  extract_lets +onlyGivenNames -underBinder x1
  clear_value x1
  exact keeps_ite (State.monLock_keeps ‹_›) ‹_›

theorem stepMonitorStage_keeps {a s : State} (h : Keeps a s) : Keeps a (stepMonitorStage s) := by
  unfold stepMonitorStage
  exact keeps_ite (State.say_keeps (State.monInput_keeps ‹_›)) ‹_›

theorem stepMonitorVer_keeps {a s : State} (h : Keeps a s) : Keeps a (stepMonitorVer s) := by
  unfold stepMonitorVer
  exact keeps_ite (State.say_keeps (State.monInput_keeps ‹_›)) ‹_›

theorem stepUnlockBackoffEnd_keeps {a s : State} (h : Keeps a s) : Keeps a (stepUnlockBackoffEnd s) := by
  unfold stepUnlockBackoffEnd
  exact keeps_ite (Keeps.of_eq (s := s) ‹_› rfl rfl rfl rfl rfl) ‹_›

theorem State.monCmd_keeps {a s : State} {level : Nat} {act : State → State} (h : Keeps a s) (hact : ∀ u0, Keeps a u0 → Keeps a (act u0))
    : Keeps a (State.monCmd s level act) := by
  unfold State.monCmd
  exact keeps_ite ‹_› (keeps_ite (State.say_keeps (State.monInput_keeps ‹_›)) (hact _ (State.monInput_keeps ‹_›)))

theorem stepMonitorChallenge_keeps {a s : State} (h : Keeps a s) : Keeps a (stepMonitorChallenge s) := by
  unfold stepMonitorChallenge
  refine State.monCmd_keeps ‹_› ?_
  intro z1 hz1
  extract_lets +onlyGivenNames -underBinder x2
  clear_value x2
  refine State.say_keeps ?_
  extract_lets +onlyGivenNames -underBinder x3
  have hx3 : Keeps a x3 := State.drew_keeps ‹_›
  clear_value x3
  exact Keeps.of_eq (s := x3) ‹_› rfl rfl rfl rfl rfl

theorem stepMonitorFp_keeps {a s : State} (h : Keeps a s) : Keeps a (stepMonitorFp s) := by
  unfold stepMonitorFp
  exact State.monCmd_keeps ‹_› (fun _ _ => State.say_keeps ‹_›)

theorem stepMonitorLedger_keeps {a : State} {i : Nat} {s : State} (h : Keeps a s) : Keeps a (stepMonitorLedger i s) := by
  unfold stepMonitorLedger
  exact State.monCmd_keeps ‹_› (fun _ _ => keeps_ite (State.say_keeps ‹_›) (keeps_ite (State.say_keeps ‹_›) ‹_›))

theorem stepMonitorLog_keeps {a : State} {n : Nat} {s : State} (h : Keeps a s) : Keeps a (stepMonitorLog n s) := by
  unfold stepMonitorLog
  exact State.monCmd_keeps ‹_› (fun _ _ => keeps_ite (State.say_keeps ‹_›) ‹_›)

theorem stepMonitorPeek_keeps {a : State} {off : Nat} {s : State} (h : Keeps a s) : Keeps a (stepMonitorPeek off s) := by
  unfold stepMonitorPeek
  exact State.monCmd_keeps ‹_› (fun _ _ => State.say_keeps ‹_›)

theorem stepMonitorTap_keeps {a : State} {t : TileId} {kind : Nat} {s : State} (h : Keeps a s) : Keeps a (stepMonitorTap t kind s) := by
  unfold stepMonitorTap
  exact State.monCmd_keeps ‹_› (fun z1 hz1 => keeps_ite (stepTapSchedule_keeps (Keeps.of_eq (s := z1) ‹_› rfl rfl rfl rfl rfl)) ‹_›)

theorem stepMonitorUnlock_keeps {a : State} {token : List Byte} {s : State} (h : Keeps a s) : Keeps a (stepMonitorUnlock token s) := by
  unfold stepMonitorUnlock
  refine State.monCmd_keeps ‹_› ?_
  intro z1 hz1
  extract_lets +onlyGivenNames -underBinder x2 x3
  clear_value x3 x2
  refine keeps_ite ‹_› ?_
  refine keeps_ite (Keeps.of_eq (s := z1) ‹_› rfl rfl rfl rfl rfl) ?_
  extract_lets +onlyGivenNames -underBinder x4
  clear_value x4
  exact State.say_keeps (Keeps.of_eq (s := z1) ‹_› rfl rfl rfl rfl rfl)

theorem stepMonitorPoke_keeps {a : State} {off : Nat} {val : Dword} {s : State} (h : Keeps a s) : Keeps a (stepMonitorPoke off val s) := by
  unfold stepMonitorPoke
  refine State.monCmd_keeps ‹_› ?_
  intro z1 hz1
  extract_lets +onlyGivenNames -underBinder x2 x3
  have hx3 : Keeps a x3 := State.logAccess_keeps ‹_›
  clear_value x3 x2
  exact keeps_ite (State.writeSlot_keeps ‹_›) ‹_›

end Sys2Proof.Machine
end

