-- ==== Sys2Proof/Laws/Tile.lean ====
section
/-! SUPPORT. What an instruction of a tile's thread does to its thread, and that it leaves every other part of the state. -/
namespace Sys2Proof.Machine

/-- A fold over a list that leaves a view of the state unchanged at each element leaves it unchanged. -/
theorem State.each_frame {α β : Type} (g : State → β) {l : List α} {f : State → α → State} (hf : ∀ s e, g (f s e) = g s) (s : State) :
    g (s.each l f) = g s := by
  unfold State.each
  induction l generalizing s with
  | nil => rfl
  | cons e r ih => exact (ih (f s e)).trans (hf s e)

@[simp] theorem State.tile_updTile_same (s : State) (ta : Nat) (f : Tile → Tile) : (s.updTile ta f).tile ta = f (s.tile ta) := by
  simp [State.updTile_tile]

theorem State.tile_updTile_ne (s : State) {ta n : Nat} (f : Tile → Tile) (h : n ≠ ta) : (s.updTile ta f).tile n = s.tile n := by
  simp [State.updTile_tile, h]

@[simp] theorem State.drew_tile (s : State) (n ta : Nat) : (s.drew n).tile ta = s.tile ta := rfl

@[simp] theorem Tile.updCtl_thread (t : Tile) (f : TileCtl → TileCtl) (i : Nat) : (t.updCtl f).thread i = t.thread i := rfl
@[simp] theorem Tile.updNet_thread (t : Tile) (f : TileNet → TileNet) (i : Nat) : (t.updNet f).thread i = t.thread i := rfl
@[simp] theorem Tile.updThread_same (t : Tile) (i : Nat) (f : Thread → Thread) : (t.updThread i f).thread i = f (t.thread i) := by
  simp [Tile.updThread, Tile.updCore, Tile.thread]
theorem Tile.updThread_ne (t : Tile) {i j : Nat} (f : Thread → Thread) (h : j ≠ i) : (t.updThread i f).thread j = t.thread j := by
  simp [Tile.updThread, Tile.updCore, Tile.thread, tget_tset_ne _ _ _ h]
@[simp] theorem Tile.pastSlot_thread (t : Tile) (th cy i : Nat) : (t.pastSlot th cy).thread i = t.thread i := by
  unfold Tile.pastSlot
  split <;> rfl
@[simp] theorem Tile.pastSlot_core (t : Tile) (th cy : Nat) : (t.pastSlot th cy).core = t.core := by
  unfold Tile.pastSlot
  split <;> rfl
@[simp] theorem Tile.pastSlot_net (t : Tile) (th cy : Nat) : (t.pastSlot th cy).net = t.net := by
  unfold Tile.pastSlot
  split <;> rfl
@[simp] theorem Tile.updThread_pad (t : Tile) (i : Nat) (f : Thread → Thread) : (t.updThread i f).core.pad = t.core.pad := rfl
@[simp] theorem Tile.updThread_net (t : Tile) (i : Nat) (f : Thread → Thread) : (t.updThread i f).net = t.net := rfl

@[simp] theorem Thread.setReg_zero (t : Thread) (v : Word) (n : Nat) : t.setReg 0 v n = t := rfl
@[simp] theorem Thread.setReg_pc (t : Thread) (r : Nat) (v : Word) (n : Nat) : (t.setReg r v n).pc = t.pc := by
  unfold Thread.setReg
  split <;> rfl
theorem Thread.setReg_regs (t : Thread) {r : Nat} (v : Word) (n : Nat) (h : r ≠ 0) : (t.setReg r v n).regs = tset t.regs r v := by
  simp [Thread.setReg, h]
theorem Thread.setReg_notReady (t : Thread) {r : Nat} (v : Word) (n : Nat) (h : r ≠ 0) :
    (t.setReg r v n).notReady = tset t.notReady r n := by
  simp [Thread.setReg, h]
theorem Thread.setReg_get_ne (t : Thread) {r q : Nat} (v : Word) (n : Nat) (h : q ≠ r) : tget (t.setReg r v n).regs q 0 = tget t.regs q 0 := by
  unfold Thread.setReg
  split
  · rfl
  · exact tget_tset_ne _ _ _ h

/-- Everything that issueReg does: one thread of one tile, its slot, two free values. -/
theorem State.issueReg_thread (s : State) (ta th cy rd : Nat) (v : Word) :
    ((s.issueReg ta th cy rd v).tile ta).thread th = (((s.tile ta).thread th).setReg rd v (cy + 4)).issued cy := by
  simp [State.issueReg]

theorem State.issueOnly_thread (s : State) (ta th cy : Nat) :
    ((s.issueOnly ta th cy).tile ta).thread th = ((s.tile ta).thread th).issued cy := by
  simp [State.issueOnly]

end Sys2Proof.Machine
end

