-- ==== Sys2Proof/Laws/Unlatch.lean ====
section
/-! SUPPORT. A host access releases the latch of its function and leaves every other part of the state (00 R11). -/
namespace Sys2Proof.Machine
variable (s : State) (fn : Fn)

@[simp] theorem State.unlatch_pending : (s.unlatch fn).pending = s.pending := by cases fn <;> rfl
@[simp] theorem State.unlatch_freeCtr : (s.unlatch fn).freeCtr = s.freeCtr := by cases fn <;> rfl
@[simp] theorem State.unlatch_out : (s.unlatch fn).out = s.out := by cases fn <;> rfl
@[simp] theorem State.unlatch_now : (s.unlatch fn).now = s.now := by cases fn <;> rfl
@[simp] theorem State.unlatch_tiles : (s.unlatch fn).tiles = s.tiles := by cases fn <;> rfl
@[simp] theorem State.unlatch_bats : (s.unlatch fn).bats = s.bats := by cases fn <;> rfl
@[simp] theorem State.unlatch_batx : (s.unlatch fn).batx = s.batx := by cases fn <;> rfl
@[simp] theorem State.unlatch_descs : (s.unlatch fn).descs = s.descs := by cases fn <;> rfl
@[simp] theorem State.unlatch_descx : (s.unlatch fn).descx = s.descx := by cases fn <;> rfl
@[simp] theorem State.unlatch_clusters : (s.unlatch fn).clusters = s.clusters := by cases fn <;> rfl
@[simp] theorem State.unlatch_clx : (s.unlatch fn).clx = s.clx := by cases fn <;> rfl
@[simp] theorem State.unlatch_cly : (s.unlatch fn).cly = s.cly := by cases fn <;> rfl
@[simp] theorem State.unlatch_mem : (s.unlatch fn).mem = s.mem := by cases fn <;> rfl
@[simp] theorem State.unlatch_ctxs : (s.unlatch fn).ctxs = s.ctxs := by cases fn <;> rfl
@[simp] theorem State.unlatch_ctxx : (s.unlatch fn).ctxx = s.ctxx := by cases fn <;> rfl
@[simp] theorem State.unlatch_parts : (s.unlatch fn).parts = s.parts := by cases fn <;> rfl
@[simp] theorem State.unlatch_orders : (s.unlatch fn).orders = s.orders := by cases fn <;> rfl
@[simp] theorem State.unlatch_msg : (s.unlatch fn).msg = s.msg := by cases fn <;> rfl
@[simp] theorem State.unlatch_mesh : (s.unlatch fn).mesh = s.mesh := by cases fn <;> rfl
@[simp] theorem State.unlatch_log : (s.unlatch fn).log = s.log := by cases fn <;> rfl
@[simp] theorem State.unlatch_ledger : (s.unlatch fn).ledger = s.ledger := by cases fn <;> rfl
@[simp] theorem State.unlatch_boot : (s.unlatch fn).boot = s.boot := by cases fn <;> rfl
@[simp] theorem State.unlatch_cfg : (s.unlatch fn).cfg = s.cfg := by cases fn <;> rfl
@[simp] theorem State.unlatch_fw : (s.unlatch fn).fw = s.fw := by cases fn <;> rfl
@[simp] theorem State.unlatch_pwr : (s.unlatch fn).pwr = s.pwr := by cases fn <;> rfl
@[simp] theorem State.unlatch_ring : (s.unlatch fn).ring = s.ring := by cases fn <;> rfl
@[simp] theorem State.unlatch_belfry : (s.unlatch fn).belfry = s.belfry := by cases fn <;> rfl
@[simp] theorem State.unlatch_smbus : (s.unlatch fn).smbus = s.smbus := by cases fn <;> rfl
@[simp] theorem State.unlatch_mon : (s.unlatch fn).mon = s.mon := by cases fn <;> rfl
@[simp] theorem State.unlatch_health : (s.unlatch fn).health = s.health := by cases fn <;> rfl
@[simp] theorem State.unlatch_tile (n : Nat) : (s.unlatch fn).tile n = s.tile n := by cases fn <;> rfl
@[simp] theorem State.unlatch_bat (c : Nat) (b : Nat) : (s.unlatch fn).bat c b = s.bat c b := by cases fn <;> rfl
@[simp] theorem State.unlatch_batX (c : Nat) (b : Nat) : (s.unlatch fn).batX c b = s.batX c b := by cases fn <;> rfl
@[simp] theorem State.unlatch_desc (c : Nat) (e : Nat) (d : Nat) : (s.unlatch fn).desc c e d = s.desc c e d := by cases fn <;> rfl
@[simp] theorem State.unlatch_descX (c : Nat) (e : Nat) (d : Nat) : (s.unlatch fn).descX c e d = s.descX c e d := by cases fn <;> rfl
@[simp] theorem State.unlatch_cl (c : Nat) : (s.unlatch fn).cl c = s.cl c := by cases fn <;> rfl
@[simp] theorem State.unlatch_clX (c : Nat) : (s.unlatch fn).clX c = s.clX c := by cases fn <;> rfl
@[simp] theorem State.unlatch_clY (c : Nat) : (s.unlatch fn).clY c = s.clY c := by cases fn <;> rfl
@[simp] theorem State.unlatch_clock (c : Nat) : (s.unlatch fn).clock c = s.clock c := by cases fn <;> rfl
@[simp] theorem State.unlatch_ctx (p : Nat) (k : Nat) : (s.unlatch fn).ctx p k = s.ctx p k := by cases fn <;> rfl
@[simp] theorem State.unlatch_ctxX (p : Nat) (k : Nat) : (s.unlatch fn).ctxX p k = s.ctxX p k := by cases fn <;> rfl
@[simp] theorem State.unlatch_part (p : Nat) : (s.unlatch fn).part p = s.part p := by cases fn <;> rfl
@[simp] theorem State.unlatch_ident (p : Nat) (k : Nat) : (s.unlatch fn).ident p k = s.ident p k := by cases fn <;> rfl
@[simp] theorem State.unlatch_live (i : CtxId) : (s.unlatch fn).live i = s.live i := by cases fn <;> rfl
@[simp] theorem State.unlatch_prec (p : Nat) : (s.unlatch fn).prec p = s.prec p := by cases fn <;> rfl
@[simp] theorem State.unlatch_owns (p : Nat) (c : Nat) : (s.unlatch fn).owns p c = s.owns p c := by cases fn <;> rfl
@[simp] theorem State.unlatch_partOf (c : Nat) : (s.unlatch fn).partOf c = s.partOf c := by cases fn <;> rfl
@[simp] theorem State.unlatch_clustersOf (p : Nat) : (s.unlatch fn).clustersOf p = s.clustersOf p := by cases fn <;> rfl
@[simp] theorem State.unlatch_resetting (p : Nat) : (s.unlatch fn).resetting p = s.resetting p := by cases fn <;> rfl
@[simp] theorem State.unlatch_resettingC (c : Nat) : (s.unlatch fn).resettingC c = s.resettingC c := by cases fn <;> rfl
@[simp] theorem State.unlatch_compDown (n : Nat) : (s.unlatch fn).compDown n = s.compDown n := by cases fn <;> rfl
@[simp] theorem State.unlatch_strictFree (p : Nat) : (s.unlatch fn).strictFree p = s.strictFree p := by cases fn <;> rfl
@[simp] theorem State.unlatch_stepFree (p : Nat) (k : Nat) : (s.unlatch fn).stepFree p k = s.stepFree p k := by cases fn <;> rfl
@[simp] theorem State.unlatch_channel (ta : Nat) (i : Nat) : (s.unlatch fn).channel ta i = s.channel ta i := by cases fn <;> rfl
@[simp] theorem State.unlatch_rxq (ta : Nat) (i : Nat) : (s.unlatch fn).rxq ta i = s.rxq ta i := by cases fn <;> rfl
@[simp] theorem State.unlatch_comb (c : Nat) (q : Nat) : (s.unlatch fn).comb c q = s.comb c q := by cases fn <;> rfl
@[simp] theorem State.unlatch_router (n : Nat) : (s.unlatch fn).router n = s.router n := by cases fn <;> rfl
@[simp] theorem State.unlatch_ownerP (p : Nat) : (s.unlatch fn).ownerP p = s.ownerP p := by cases fn <;> rfl
@[simp] theorem State.unlatch_ownerG : (s.unlatch fn).ownerG = s.ownerG := by cases fn <;> rfl
@[simp] theorem State.unlatch_ownerC (c : Nat) : (s.unlatch fn).ownerC c = s.ownerC c := by cases fn <;> rfl
@[simp] theorem State.unlatch_ownsP (g : Fn) (p : Nat) : (s.unlatch fn).ownsP g p = s.ownsP g p := by cases fn <;> cases g <;> rfl
@[simp] theorem State.unlatch_ownsG (g : Fn) : (s.unlatch fn).ownsG g = s.ownsG g := by cases fn <;> cases g <;> rfl
@[simp] theorem State.unlatch_ownsC (g : Fn) (c : Nat) : (s.unlatch fn).ownsC g c = s.ownsC g c := by cases fn <;> cases g <;> rfl

end Sys2Proof.Machine
end

