-- ==== Sys2Proof/Tests/Slice0.lean ====
section
/-! SUPPORT. Tests of the model, and for each statement states and operands that meet its hypotheses. -/
namespace Sys2Proof.Tests
open Sys2Proof.Machine

set_option Elab.async false

/-! Small states. -/

/-- Context 0 of partition 0 in its first generation. -/
def i0 : CtxId := { part := 0, ctx := 0, gen := 0 }

/-- The tile in the north-west corner of cluster 0, and its east neighbour. -/
def t0 : TileId := ⟨0, 0, 0⟩
def t1 : TileId := ⟨0, 1, 0⟩

/-- Every stage of bring-up done; port 0 at L0, management port 0 up, cluster 0 ready. -/
def up : State := { State.reset with
  boot := { Boot.reset with powerGood := true, bundle := true, stage := 7, done := 0xFF, pcieUp := 1, readyClusters := 1 }
  pwr := { Power.reset with pwrEn := true, on := true, vin := 4800, vinSamples := [4800] }
  hosts := { Hosts.reset with ports := [(0, { Port.reset with perst := false, l0 := true, up := true })] }
  belfry := { Belfry.reset with link0 := true }
  cly := [(0, { ClusterY.reset with ready := true })] }

/-- Partition 0 of port 0 with cluster 0, whose battery 0 is one tile; context 0 is ACTIVE. -/
def cfgd : State := { up with
  cfg := { CfgSys.reset with
    mgmtValid := true
    dev := { DeviceCfg.reset with
      valid := true, parts := [(0, { clusters := 1, owner := 0, vf := 0, hbm := 1, far := 0, key := 1, resetKey := 1 })] }
    clusters := [(0, { ClusterCfg.reset with valid := true, bats := [(0, 0x10000)] })] }
  ctxs := [(0, { Ctx.reset with st := 1, clusters := 1 })] }

/-- An image of 64 cycles for a battery of one tile. -/
def img : SecImage :=
  { va := 0, header := BitVec.ofNat 256 (64 * 2 ^ 64), bindings := [], regions := [], chimes := [], tiles := [(0, TileImg.reset)] }

/-- Its section in RUN, at cycle 0, thread 0 running. -/
def run : State := { cfgd with
  bats := [(0, { Battery.reset with st := .run, active := some img, owner := some i0, locks := true
                                    regions := [{ out := true, va := 0x1000, dpa := 0x4000, len := 0x100 }] })]
  tiles := [(0, { Tile.reset with
    core := { TileCore.reset with threads := [(0, { Thread.reset with running := true, regs := [(1, 7), (2, 0), (3, 4)] })] }
    net := { TileNet.reset with hold := 1, inS := [(3, 9)], inC := [(3, 2)] }
    ctl := { TileCtl.reset with running := true, cur := some i0, wide := 0xF00 } })] }

/-- The same with another state of the tile, the thread, or the battery. -/
def runT (f : Tile → Tile) : State := run.updTile 0 f
def runThread (f : Thread → Thread) : State := runT (fun t => t.updThread 0 f)
def runB (f : Battery → Battery) : State := run.updBat 0 0 f

/-- A vector instruction. -/
def vi (op : VOp) (rep : Nat) : VInstr :=
  { op, dst := .vreg 0, a := .vreg 1, b := .vreg 2, c := .none, rep, regStride := 0, rowStride := 0, stream := 0, fmt := false }

/-- A command of a queue, and the state in which queue x of context 0 has fetched it. -/
def rec_ (op : Nat) (rest : Nat) : BitVec 512 := BitVec.ofNat 512 (op + 2 ^ 16 * rest)
def fetchedIn (s : State) (x : Nat) (bits : BitVec 512) : State := s.updQueue 0 0 x (fun q => { q with fetched := some (0, bits), next := 1 })
def cmd (x : Nat) (bits : BitVec 512) : CmdRef :=
  { part := 0, ctx := 0, x, idx := 0, op := bf bits 0 8, tag := bf bits 16 16, cqe := bits.toNat.testBit 8, notify := bits.toNat.testBit 9, bits }

/-! Witnesses: tiles and sections. -/

theorem witness_ScalarInstructions : run.slotOf (tileKey t0) 0 = some 0 ∧ State.reset.slotOf (tileKey t0) 3 = some 3 ∧
    (31#32).toNat < 32 ∧ (1#32) ≠ 0 := by decide


theorem witness_NarrowAccesses : run.canIssue (tileKey t0) 0 = some (0, 0) ∧ narrowSize .b4 = some 4 ∧
    (run.regVal (tileKey t0) 0 1 0 0 + 0x5FFF5).toNat = 0x5FFFC ∧
    narrowFaults ((runT (fun t => t.updCtl (fun x => { x with wide := 0 }))).tile (tileKey t0)).ctl 0x5FFFC 4 true = [] ∧
    narrowFaults (run.tile (tileKey t0)).ctl 0 4 false = [] ∧ narrowFaults (run.tile (tileKey t0)).ctl 0 4 true = [] := by decide


theorem witness_ClusterMemoryAccesses : run.canIssue (tileKey t0) 0 = some (0, 0) ∧ narrowSize .b1 = some 1 ∧
    memFaults (run.bat 0 0).regions 0x1000 4 false = [] ∧ memFaults (run.bat 0 0).regions 0x10FF 1 true = [] ∧
    (tget (((runThread (fun t => { t with landing := [(7, { waiting := false, val := some 5 })] })).tile 0).thread 0).landing 7
      Landing.reset).val = some 5 ∧
    [({ kind := .load 0 7, ctx := i0, bat := 0, va := 0x1000, dpa := 0x4000, bytes := 4, done := some 5 } : PortOp)].find?
      (fun o => o.kind == .load 0 7 && o.done.isSome) =
      some { kind := .load 0 7, ctx := i0, bat := 0, va := 0x1000, dpa := 0x4000, bytes := 4, done := some 5 } := by decide


theorem witness_StaticNetPorts : run.canIssue (tileKey t0) 0 = some (0, 0) ∧
    (run.tile (tileKey t0)).net.inS.find? (fun e => e.1 == dirIx .w) = some (dirIx .w, 9) ∧
    ((runThread (fun t => { t with regs := [(1, 0x1EF)] })).regVal (tileKey t0) 0 1 0 0).toNat % 256 < 0xF0 := by decide

/-- No word on the east link; a token of 0xF0 in register 1. -/
theorem witness_StaticNetPorts_violations : (run.tile (tileKey t0)).net.inS.find? (fun e => e.1 == dirIx .e) = none ∧
    0xF0 ≤ ((runThread (fun t => { t with regs := [(1, 0x1F0)] })).regVal (tileKey t0) 0 1 0 0).toNat % 256 := by decide


/-- A run whose vector queue holds one instruction whose first repeat is due. -/
def runV (op : VOp) : State := runT (fun t => t.updCore (fun x => { x with
  vq := [{ instr := vi op 1, thread := 0 }], vcyc := vecCycles (vi op 1) }))

theorem witness_VectorInstructions : run.canIssue (tileKey t0) 0 = some (0, 0) ∧ (run.tile (tileKey t0)).core.vq.length < 4 ∧
    0 < (vi .fadd 1).rep ∧ (vi .fadd 64).rep ≤ 64 ∧ (vecReads { vi .fadd 1 with a := .wide 0 0, b := .wide 0 0 } 0).length ≤ 1 ∧ VOp.fadd ≠ .vrand ∧
    (runV .fadd).inRun (tileKey t0) = some (0, img.tileAt 0) ∧ ((runV .fadd).tile (tileKey t0)).vecDue = some (vi .fadd 1) ∧
    vecFaults ((runV .fadd).tile (tileKey t0)).ctl (((runV .fadd).tile (tileKey t0)).vecIn (img.tileAt 0) 1535) (vi .fadd 1) 0 = [] ∧ isSpecial (vi .fadd 1).op = false ∧
    ((runV .exp2).tile (tileKey t0)).vecDue = some (vi .exp2 1) ∧ isSpecial (vi .exp2 1).op = true ∧
    vecFaults ((runV .exp2).tile (tileKey t0)).ctl (((runV .exp2).tile (tileKey t0)).vecIn (img.tileAt 0) 0) (vi .exp2 1) 0 = [] ∧
    ((runV .vrand).tile (tileKey t0)).vecDue = some (vi .vrand 1) ∧ (runV .vrand).batOf (tileKey t0) = some (0, 0) ∧
    vecFaults ((runV .vrand).tile (tileKey t0)).ctl (((runV .vrand).tile (tileKey t0)).vecIn (img.tileAt 0) 0) (vi .vrand 1) 0 = [] ∧ (1 : Fin 32).val ≠ 0 := by decide +kernel

/-- An image whose first switch entry holds, then ends the schedule. -/
def imgEnd : SecImage := { img with tiles := [(0, { TileImg.reset with sched := [BitVec.ofNat 64 (3 * 2 ^ 48)] })] }

/-- A landing entry, and a row write on its way. -/
def land : LandEntry := { row := 5, mask := 0xFF, data := 1, ctx := i0, engine := 0, desc := 0, elem := 0 }
def transit : Transit := { ta := 0, row := 5, mask := 0xFF, data := 1, elem := 0 }
def inTransit : State := (run.updDesc 0 0 0 (fun d => { d with st := .active, owner := some i0 })).updDescX 0 0 0 (fun d =>
  { d with transit := [transit] })

theorem witness_TileWaitsAndFills :
    ((runThread (fun t => { t with regs := [(1, 4)] })).regVal (tileKey t0) 0 1 0 0).toNat = 4 ∧
    (runThread (fun t => { t with regs := [(1, 4)] })).canIssue (tileKey t0) 0 = some (0, 0) ∧
    (((runThread (fun t => { t with waitc := some 0 })).tile (tileKey t0)).thread 0).waitc = some (run.bat 0 0).cycle ∧
    run.batOf (tileKey t0) = some (0, 0) ∧
    (run.inRun (tileKey t0)).isSome = true ∧ (run.tile (tileKey t0)).net.ended = false ∧ (run.tile (tileKey t0)).net.inPad = false ∧
    ((runT (fun t => t.updNet (fun x => { x with hold := 0 }))).tile (tileKey t0)).net.hold = 0 ∧
    ((run.tile (tileKey t0)).net.nextEntry (img.tileAt 0)).isSome = true ∧
    ((runT (fun t => t.updNet (fun x => { x with inPad := true, joinAt := 3 }))).tile (tileKey t0)).net.padding = 0 ∧
    (runT (fun t => t.updCtl (fun x => { x with landing := [land] }))).fillHeld (tileKey t0) = true ∧
    (runT (fun t => t.updCtl (fun x => { x with landing := [land], wide := 1 }))).fillHeld (tileKey t0) = false ∧
    run.fillCycle (tileKey t0) = true ∧ run.muffledTile (tileKey t0) = false ∧ run.slotClash (tileKey t0) land = false ∧
    (inTransit.descX 0 0 0).transit.find? (fun r => r.ta == tileKey t0) = some transit ∧ (inTransit.desc 0 0 0).owner = some i0 ∧
    (inTransit.tile (tileKey t0)).ctl.landing.length < 8 ∧
    (State.reset.updTile 0 (fun t => t.updCtl (fun x => { x with clearing := some i0 }))).batOf (tileKey t0) = none := by decide +kernel

/-- 06 R148: descriptor 1 of the engine owns rows 0 to 15 of the tile too, so row 5 is in both regions. -/
theorem test_slot_clash : (inTransit.updDesc 0 0 1 (fun d => { d with
    st := .parked, image := BitVec.ofNat 1536 (2 ^ 512 * (6 * 2 ^ 60 + 16 * 2 ^ 44 + 8)) })).slotClash 0 land = true := by decide +kernel
/-- 02 R63: after an ABORT the RES_OUT banks are not resident. -/
theorem test_abort_res_out : (((runT (fun t => t.updCtl (fun x => { x with resValid := 3, resOut := 2 }))).stopTiles 0 0).tile
    (tileKey t0)).ctl.resValid = 1 := by decide +kernel


/-! Witnesses: commands of a section, clocks, checks and tests. -/

/-- Context 0 without a cluster ready. -/
def unready : State := { cfgd with cly := [] }

theorem witness_SectionCommandsStart :
    (fetchedIn cfgd 0 (rec_ 1 0)).fetchedCmd 0 0 0 0x01 = some (cmd 0 (rec_ 1 0)) ∧ ((fetchedIn cfgd 0 (rec_ 1 0)).clY 0).ready = true ∧
    (fetchedIn unready 0 (rec_ 1 0)).fetchedCmd 0 0 0 0x01 = some (cmd 0 (rec_ 1 0)) ∧ ((fetchedIn unready 0 (rec_ 1 0)).clY 0).ready = false ∧
    (fetchedIn cfgd 0 (rec_ 2 0)).fetchedCmd 0 0 0 0x02 = some (cmd 0 (rec_ 2 0)) ∧
    (fetchedIn cfgd 0 (rec_ 3 0)).fetchedCmd 0 0 0 0x03 = some (cmd 0 (rec_ 3 0)) ∧ ((fetchedIn cfgd 0 (rec_ 3 0)).clY 0).ready = true := by
  decide +kernel


/-- The battery of the section in another state, its image in place. -/
def armed : State := runB (fun x => { x with st := .arm, locks := false, cmd := some (cmd 0 (rec_ 2 0)) })

/-- A stream binding of one tile on engine 0, descriptor 0, taken at cycle 0; a descriptor that has delivered a tile. -/
def bound : Binding := { bits := BitVec.ofNat 384 0, takes := [BitVec.ofNat 128 (2 ^ 64)] }
def imgS : SecImage := { img with bindings := [bound] }
def streaming : State := (runB (fun x => { x with active := some imgS })).updDesc 0 0 0 (fun d =>
  { d with st := .active, owner := some i0, delivered := 1 })

/-- A hand-over region of 64 B of a chain's first section. -/
def imgH : SecImage := { img with regions := [BitVec.ofNat 128 (2 * 2 ^ 4 + 64 * 2 ^ 64)] }
def chain : Chain := { cmd := cmd 0 (rec_ 3 0), cluster := 0, n := 2, pos := 0, bats := [0, 1], vas := [0, 0], ids := [0, 0], hoffs := []
                       hoDone := [], owner := i0, stopAsked := false }
def chained : State := (runB (fun x => { x with st := .arm, active := some imgH, cmd := some (cmd 0 (rec_ 3 0)), locks := false, waitLock := true })).updCl 0
  (fun x => { x with chains := [chain] }) |>.updSlice 0 0 (fun y => { y with mode := 2 })

theorem witness_SectionLifecycle :
    ((runB (fun x => { x with loadImg := some img, loadCmd := some (cmd 0 (rec_ 1 0)) })).bat 0 0).loadCmd = some (cmd 0 (rec_ 1 0)) ∧
    (cmd 0 (rec_ 1 0)).op ≠ 3 ∧ (cmd 0 (rec_ 3 0)).op = 3 ∧
    ((runB (fun x => { x with st := .arm, armOk := true, waitLock := true, locks := false })).lockFree 0 0) = true ∧
    (armed.bat 0 0).st = .arm ∧ (∀ bd ∈ img.bindings, armed.slotReady 0 bd = true) ∧
    imgS.bindings.find? (fun bd => bd.index == 0) = some bound ∧ bound.takeCycles[0]? = some (streaming.bat 0 0).cycle ∧
    (streaming.desc 0 bound.engine bound.desc).taken < (streaming.desc 0 bound.engine bound.desc).delivered ∧
    (∀ e ∈ (runB (fun x => { x with active := some imgEnd, endPending := true, cycle := 64 })).batTiles 0 0,
      (runT (fun t => t.updNet (fun x => { x with hold := 0 }))).tile e.2 |>.endsWell (imgEnd.tileAt e.1)) ∧
    ({ run.bat 0 0 with endPending := true }).passDue imgEnd 1 = false ∧ (∀ bd ∈ imgEnd.bindings, run.takesAgree 0 [] bd = true) ∧
    (runB (fun x => { x with st := .commit })).storesPending 0 0 = false ∧
    chained.chainOf 0 0 = some chain ∧ chained.needsBuffer 0 0 imgH = true ∧ (chained.poolRoom 0 0x10000).isSome = true := by
  decide +kernel


/-- An image with a chime at VA 0x1000, and its section in COMMIT, its own region unlocked or another section's locked. -/
def imgC : SecImage := { img with chimes := [BitVec.ofNat 192 (0x1000 * 2 ^ 64)] }
def committing (locks : Bool) : State := ({ cfgd with
  ctxs := [(0, { Ctx.reset with st := 1, clusters := 1, xlat := { Xlat.reset with enable := true } })]
  mem := { MemSys.reset with bytes := mwriteBytes [] 0 [0x0B], tags := [(0, i0)], chans := (List.range 4).map (fun n => (n, { MemCh.reset with st := 1 })) }
  bats := [(0, { Battery.reset with st := .commit, active := some imgC, owner := some i0, locks := true }),
    (1, { Battery.reset with st := .run, active := some img, owner := some i0, locks
                             regions := [{ out := false, va := 0x1000, dpa := 0x1000, len := 64 }] })] } : State)

theorem witness_SectionLifecycle_states :
    (let s := runB (fun x => { x with st := .arm, armOk := true, locks := true }); (s.bat 0 0).locks = true ∧ (s.bat 0 0).waitLock = false) ∧
    (streaming.bat 0 0).endPending = false ∧ bound.takeCycles[(takesOf (streaming.bat 0 0).takes bound.index).taken]? = some 0 ∧
    (runB (fun x => { x with endPending := true })).bat 0 0 = { run.bat 0 0 with endPending := true } ∧ (run.bat 0 0).faults = [] ∧
    (chained.bat 0 0).armOk = false ∧ (chained.bat 0 0).waitLock = true ∧ (chained.bat 0 0).owner = some i0 ∧
    ((committing true).bat 0 0).st = .commit ∧ (committing true).storesPending 0 0 = false ∧
    imgC.chimes.any (fun r => ((committing true).updBat 0 0 (fun y => { y with locks := false, regions := [] })).chimeLocked i0 (chVa r) true) = true ∧
    imgC.chimes.any (fun r => ((committing false).updBat 0 0 (fun y => { y with locks := false, regions := [] })).chimeLocked i0 (chVa r) true) = false := by
  decide +kernel


/-- The clock of cluster 0 in another state. -/
def clocked (f : Clock → Clock) : State := cfgd.updClock 0 f

theorem witness_ClockStepsAndStrictMode :
    cfgd.sliceHolds 0 = false ∧ cfgd.mayRise 0 = true ∧ ((clocked (fun k => { k with target := some 54 })).clock 0).next true = some 41 ∧
    (cfgd.clock 0).pinned = false ∧ (cfgd.clock 0).target = none ∧
    ((clocked (fun k => { k with code := 63, target := some 64 })).clock 0).next true = some 64 ∧
    ((clocked (fun k => { k with code := 33, target := some 32 })).clock 0).next false = some 32 ∧
    ((clocked (fun k => { k with target := some 39, pinned := true })).clock 0).next false = some 39 ∧
    cfgd.ownsP (.pf 0) 0 = true ∧ cfgd.resetting 0 = false ∧ cfgd.arbitrate 8 (.part 0) = .proceed ∧
    true ≠ (cfgd.part 0).strict ∧ cfgd.strictFree 0 = false ∧ State.reset.strictFree 0 = true ∧ (5#64).toNat.testBit 2 = true ∧
    (1#64).toNat.testBit 0 = true ∧ (1#64).toNat.testBit 2 = false ∧ cfgd.ownsP (.pf 1) 0 = false ∧
    (let s : State := { cfgd with orders := [{ target := 0, byReg := false, at_ := 0, held := false, auto := false }] }; s.ownsP (.pf 0) 0 = true ∧ s.resetting 0 = true ∧ s.arbitrate 8 (.part 0) ≠ .proceed) ∧
    (cfgd.clustersOf 0) = [0] ∧ ((clocked (fun k => { k with code := 54 })).clock 0).code = 54 ∧
    ((clocked (fun k => { k with code := 54 })).clock 0).pinned = false ∧ (∀ e ∈ cfgd.bats, e.2.st ≠ .arm) ∧
    ((cfgd.updPart 0 (fun x => { x with strict := true, strictBusy := true })).part 0).strictBusy = true ∧
    ((cfgd.updPart 0 (fun x => { x with strict := true })).part 0).strictBusy = false ∧ cfgd.owns 0 0 = true ∧ cfgd.owns 0 1 = false := by
  decide +kernel

/-- Context 0 is FREE. -/
def freed : State := cfgd.updCtx 0 0 (fun x => { x with st := 0 })

theorem witness_StepAndSeed : freed.ownsP (.pf 0) 0 = true ∧ freed.resetting 0 = false ∧ freed.stepFree 0 0 = true ∧
    freed.ownsP (.pf 1) 0 = false ∧ cfgd.stepFree 0 0 = false ∧
    (fetchedIn cfgd 0 (rec_ 0x33 0)).fetchedCmd 0 0 0 0x33 = some (cmd 0 (rec_ 0x33 0)) ∧
    (fetchedIn cfgd 0 (rec_ 0x33 0)).allEarlier (cmd 0 (rec_ 0x33 0)) = true := by decide +kernel

/-- A command of the tag before the STEP still runs. -/
theorem witness_StepAndSeed_waits :
    (let s := (fetchedIn cfgd 0 (rec_ 0x33 0)).updQueue 0 0 0 (fun q => { q with head := 5 }); s.fetchedCmd 0 0 0 0x33 = some (cmd 0 (rec_ 0x33 0)) ∧
      s.allEarlier (cmd 0 (rec_ 0x33 0)) = false) := by decide +kernel

/-- A capture, a check of it on the east neighbour, and a section at the end of a pass. -/
def cap : Capture := { ctx := i0, section_ := 0, step := 0, pass := 0, bat := 0, cycle := 0, lpos := 0, mode := 0, acts := [], partials := [], outs := [], plane := 0
                       signature := 5, complete := true }
def chk : Check := { worker := tileKey t0, capture := cap, checker := some (tileKey t1), first := none, dead := false }
def chk2 : Check := { chk with first := some (2, 4) }
def ended : State := runB (fun x => { x with cycle := 64 })
def checked (l : List Check) : State := run.updClX 0 (fun x => { x with checks := l })

theorem witness_PassEndsAndChecks :
    ended.batOf (tileKey t0) = some (0, 0) ∧ (ended.bat 0 0).passDue img 0 = true ∧ img.cycles ≤ 64 * 1 ∧
    (ended.tile (tileKey t0)).test.capture = none ∧
    ((ended.updTile 0 (fun t => t.updTest (fun x => { x with capture := some { cap with complete := false } }))).tile
      (tileKey t0)).test.capture = some { cap with complete := false } ∧
    (((run.updClX 0 (fun x => { x with capWait := [0], checkers := 1 })).updTile 0 (fun t => t.updTest (fun x =>
      { x with capture := some cap }))).pickChecker (tileKey t0) [] false) = some (taddr 0 0 1) ∧
    (run.clX 0).checks.find? (fun k => k.needsSecond (tileKey t0)) = none ∧ [tileKey t0].takeWhile (· != tileKey t0) = [] ∧
    (((checked [{ chk2 with checker := none }]).clX 0).checks.find? (fun k => k.needsSecond (tileKey t0))).isSome ∧
    (((checked [{ chk2 with checker := none }]).updClX 0 (fun x => { x with checkers := 1 })).pickChecker (tileKey t0) [2] false).isSome = true ∧
    (((checked [chk]).clX 0).checks.find? (fun k => k.worker == tileKey t0 && k.first.isNone && k.checker.isSome)).isSome ∧
    (5#32) = chk.capture.signature ∧ (6#32) ≠ chk.capture.signature ∧
    (((checked [chk2]).clX 0).checks.find? (fun k => k.worker == tileKey t0 && k.first.isSome && k.checker.isSome)).isSome ∧
    (6#32) ≠ chk2.capture.signature ∧ (6#32) ≠ (4#32) ∧ (4#32) ≠ chk2.capture.signature ∧ chk2.first = some (2, 4) ∧
    (run.tile 0).test.lostRun + 1 < 3 ∧ ((run.updTile 0 (fun t => t.updTest (fun x => { x with lostRun := 2 }))).tile chk.worker).test.lostRun = 2 ∧
    (run.tile chk.worker).test.limitedSent = false ∧ img.cycles ≤ 64 * ((ended.tile 0).test.passIdx + 1) := by decide +kernel


/-- Self-test slices of tile 0 and of mesh link 0 under way; seconds of operation. -/
def slice (kind : Nat) (retest : Bool) : TapSlice := { kind, unit_ := 0, retest, forced := false, form := 0, fast := false, start := 0 }
def sliced (x : TapSlice) : State := { cfgd with health := { Health.reset with slices := [x] } }
def aged (n : Nat) : State := { cfgd with ledger := { Ledger.reset with opSec := n } }

theorem witness_SelfTestSlices :
    cfgd.boot.bundle = true ∧ cfgd.compDown 35 = false ∧ cfgd.compDown 19 = false ∧ cfgd.muffledTile 0 = false ∧
    cfgd.nextKind 0 = some 0 ∧ cfgd.tileReady 0 0 false = true ∧ cfgd.atTest (taC 0) = true ∧ cfgd.tapTurn 0 = true ∧
    (cfgd.updClX 0 (fun x => { x with tapHold := true })).underHold 0 = true ∧ (slice 0 false).retest = false ∧ (cfgd.clX 0).tapHold = false ∧
    (cfgd.tile 0).test.overdue = false ∧ (5 : Nat) < 6 ∧ 6 ≤ 7 ∧ unitDie 7 0 < 4 ∧
    unitDie 6 0 = 0 ∧ cfgd.nextOnDie 0 = some (6, 0) ∧ cfgd.health.slices = [] ∧
    (sliced (slice 6 false)).health.slices.find? (fun x => x.kind == 6 && x.unit_ == 0) = some (slice 6 false) ∧
    (sliced (slice 0 true)).health.slices.find? (fun x => x.kind == 0 && x.unit_ == 0) = some (slice 0 true) ∧
    (slice 0 false).forced = false ∧ (aged 72000).tapAge (tileKey t0) 72000 = true ∧ (aged 71999).tapAge (tileKey t0) 72000 = false ∧
    ((aged 86400).updTile 0 (fun t => t.updTest (fun x => { x with forced := true }))).tapAge (tileKey t0) 86400 = true ∧
    ((cfgd.updBat 0 0 (fun x => { x with st := .loaded })).bat 0 0).st = .loaded ∧
    (∃ e ∈ cfgd.batTiles 0 0, ((cfgd.updTile 0 (fun t => t.updTest (fun x => { x with forced := true }))).tile e.2).test.forced = true) := by
  decide +kernel


/-- A ledger with a retest of a unit. -/
def retesting (kind n : Nat) : State := { cfgd with ledger := { Ledger.reset with retests := [(kind, 0, n)] } }

theorem witness_RetestsAndLedger :
    (retesting 1 0).retestOf 1 0 = some 0 ∧ (retesting 2 1000).retestOf 2 0 = some 1000 ∧ (retesting 6 5).retestOf 6 0 = some 5 ∧
    (retesting 4 3).boot.bundle = true ∧ (retesting 4 3).compDown 35 = false ∧ cfgd.compDown 1 = false ∧
    (retesting 3 1).retestOf 3 0 = some 1 ∧ (retesting 7 999).retestOf 7 0 = some 999 ∧ (∀ x ∈ cfgd.health.slices, ¬ (x.kind = 6 ∧ x.unit_ = 0)) ∧
    retestSlice 4 0 0 = some (6, 0, none) ∧ retestSlice 1 0 5 = some (5, 0, some 40) ∧ retestSlice 1 0 6 = some (0, 0, some 54) ∧ (cfgd.clock 0).code = 40 ∧
    cfgd.atTest 0 = true ∧ cfgd.tileReady 5 0 true = true ∧ (cfgd.clock 0).code ≠ 54 ∧ cfgd.health.slices = [] ∧
    ledState (({ cfgd with ledger := { Ledger.reset with work := [(ledgerNo 1 0, 16)] } } : State).ledgerOf 1 0) = 1 ∧
    ledgerNo 1 0 ∈ ({ cfgd with ledger := { Ledger.reset with dirty := [64] } } : State).ledger.dirty ∧
    ({ Ledger.reset with copyA := [(64, sealEntry 0 1)] } : Ledger).inA (ledgerNo 1 0) = true ∧ Ledger.reset.inA (ledgerNo 1 0) = false := by
  decide +kernel


/-! Witnesses: streams, memory, translation. -/

/-- Every router port up, dimension-order routes under bank 0, every memory channel ready. -/
def wired (s : State) : State := { s with
  mesh := { s.mesh with routers := (List.range 16).map (fun c => (c, { Router.reset with
    down := 0
    bank0 := (List.range 24).map (fun e =>
      let d := nodeRouter e
      let esc := if c = d then (if e < 16 then 4 else 5) else dimPort false c d
      (e, 2 ^ esc + 256 * esc)) })) }
  boot := { s.boot with readyHbm := 0xFFF, readyFar := 2 ^ 32 - 1 } }

/-- Context 0 with its first GiB mapped one to one by a leaf of 1 GiB, writable, in HBM group 0, all of whose frames are its own so far as used. -/
def mapped : State := wired { cfgd with
  ctxs := [(0, { Ctx.reset with st := 1, clusters := 1, xlat := { Xlat.reset with enable := true } })]
  mem := { MemSys.reset with
    bytes := mwriteBytes [] 0 [0x0B]
    tags := [(0, i0)]
    chans := (List.range 4).map (fun n => (n, { MemCh.reset with st := 1 })) } }

/-- A program of eight elements of 256 B into slots: BASE 0x1000, LOOP 8 by 256, ELEM, END. -/
def prog : BitVec 1536 := BitVec.ofNat 1536 (2 ^ 8 + 2 ^ 512 * (2 ^ 60 + 0x1000) + 2 ^ 576 * (2 * 2 ^ 60 + 8 * 2 ^ 32 + 256) +
  2 ^ 640 * (6 * 2 ^ 60 + 2 ^ 44 + 8) + 2 ^ 704 * (7 * 2 ^ 60))

/-- Descriptor 0 of engine 0 in some state, its record of a stop at hand. -/
def descd (f : Desc → Desc) : State := mapped.updDesc 0 0 0 (fun d => f { d with owner := some i0, image := prog, runs := [{ seq0 := 0, base := 0x1000, counts := [] }] })
def descX (f : Desc → Desc) (g : DescX → DescX) : State := (descd f).updDescX 0 0 0 g

theorem witness_StreamsStartAndResume :
    cfgd.isolated 0 1 0 0 = false ∧ (fetchedIn cfgd 1 (rec_ 0x10 0)).fetchedCmd 0 0 1 0x10 = some (cmd 1 (rec_ 0x10 0)) ∧
    ((fetchedIn unready 1 (rec_ 0x10 0)).clY 0).ready = false ∧ ((descd (fun d => { d with st := .active })).desc 0 0 0).st ≠ .free ∧
    (cfgd.desc 0 0 0).st = .free ∧ (cfgd.descX 0 0 0).engWait = false ∧ ((cfgd.ctx 0 0).queue 1).record = none ∧
    checkDesc prog (cfgd.shape 0 0) = 0 ∧ checkDesc 0 (cfgd.shape 0 0) ≠ 0 ∧
    (fetchedIn (descd (fun d => { d with st := .parked })) 1 (rec_ 0x11 0)).fetchedCmd 0 0 1 0x11 = some (cmd 1 (rec_ 0x11 0)) ∧
    ((descd (fun d => { d with st := .parked })).desc 0 0 0).owner = some (cfgd.identOf (cmd 1 (rec_ 0x11 0))) ∧
    bf (rec_ 0x11 0) 128 48 % 32 = 0 ∧ bf (rec_ 0x11 0) 192 48 = 0 ∧ cfgd.activeCount 0 0 < 8 ∧ (cfgd.cl 0).engWait = [] ∧
    8 ≤ ((List.range 8).foldl (fun (s : State) d => s.updDesc 0 0 d (fun x => { x with st := .active })) cfgd).activeCount 0 0 ∧
    cfgd.ownsP (.pf 0) 0 = true ∧ cfgd.resetting 0 = false ∧ (0x10000#64).toNat.testBit 16 = true ∧
    ((descd (fun d => { d with st := .stopped, lastStatus := 0x67 })).desc 0 0 0).replayable = true ∧
    ((descX (fun d => { d with st := .stopped, lastStatus := 0x67 }) (fun y => { y with record := some 0 })).descX 0 0 0).record ≠ none := by
  decide +kernel

/-- A rewound run that is to start afresh. -/
theorem witness_StreamsStartAndResume_rewound :
    ((descd (fun d => { d with st := .stopped, rewound := true })).desc 0 0 0).st = .stopped ∧
    ((descd (fun d => { d with st := .stopped, rewound := true })).desc 0 0 0).rewound = true ∧ (mapped.descX 0 0 0).engWait = false ∧
    (cmd 1 (rec_ 0x11 0)).part = (0 : Fin 16).val ∧ (mapped.desc 0 0 0).st ≠ .stopped ∧ mapped.isolated 0 1 0 0 = false := by decide +kernel

/-- A command that waits for a slot of engine 0. -/
def wait_ (kind : Nat) : EngWait := { engine := 0, desc := 0, cmd := some (cmd 1 (rec_ 0x10 0)), kind, image := prog, record := none }
def flowing : State := descd (fun d => { d with st := .active })

/-- Section 0 of a chain is over, its buffer stands; the next waits in ARM. -/
def handed : State := ((cfgd.updBat 0 0 (fun x => { x with st := .arm, active := some imgS, cmd := some (cmd 0 (rec_ 3 0)) })).updCl 0 (fun x =>
  { x with chains := [{ chain with pos := 1, hoffs := [(0, (0x40000000000, 64))], hoDone := [0] }] })).updDesc 0 0 0 (fun d =>
  { d with st := .active, hoWait := true })

theorem witness_StreamEngineEvents :
    (flowing.updCl 0 (fun x => { x with engWait := [wait_ 0] })).activeCount 0 0 < 8 ∧
    ((flowing.updCl 0 (fun x => { x with engWait := [wait_ 1] })).cl 0).engWait.find? (fun w => w.engine == 0) = some (wait_ 1) ∧
    handed.hoBuffer 0 0 0 = some (0x40000000000, 64) ∧ (handed.desc 0 0 0).hoWait = true ∧
    (flowing.desc 0 0 0).owner = some i0 ∧ (flowing.desc 0 0 0).inWindow 0 = true ∧ (flowing.desc 0 0 0).slotFree = true ∧
    flowing.live i0 = true ∧ flowing.carQuiet 0 = false ∧ (flowing.desc 0 0 0).progElem 0 = some 0 ∧
    elemInfo prog 0x1000 (vectorAt (levelsOf prog) 7).1 = { addr := 0x1700, lo := 0, hi := 256 } ∧
    (flowing.pieces 0 i0 (.engine 0 0) 0 true false (cut4k 6 0x1000 256)).2 =
      .ok [{ host := false, addr := 0x1000, len := 256, cache := false, va := 0x1000, hua := 0 }] ∧
    (elemInfo 0 0 (vectorAt (levelsOf 0) 0).1).hi = 0 ∧
    0 ∈ ((descd (fun d => { d with st := .active, issued := [0] })).desc 0 0 0).issued ∧ flowing.rowsLeft 0 0 0 0 = false ∧
    flowing.locked 0x1000 32 true none = false ∧ flowing.partPoison 0x1000 32 = false ∧
    ((descX (fun d => d) (fun y => { y with draining := true })).descX 0 0 0).draining = true ∧
    ((descX (fun d => { d with st := .active }) (fun y => { y with recordDue := true, stopStatus := St.preempted })).descX 0 0 0).stopStatus = St.preempted ∧
    descSlot (BitVec.ofNat 1536 1) = false ∧ (flowing.desc 0 0 0).runTile + 1 ≠ (flowing.desc 0 0 0).tiles := by decide +kernel


/-- The program into memory, and of a hand-over buffer; an element of 32 B read, its write not yet performed. -/
def progM : BitVec 1536 := prog ||| 1
def writing : State := descX (fun d => { d with st := .active, image := progM, issued := [0] }) (fun y =>
  { y with writes := [{ elem := 0, parts := [(false, 0x1000, leBytes 32 5)] }] })
def handing : State := descd (fun d => { d with st := .active, image := prog ||| BitVec.ofNat 1536 (2 ^ 563), dst := 0x40000000000 + 2 ^ 48 * 0x2000 })

theorem witness_StreamEngineEvents_elements :
    (flowing.desc 0 0 0).st = .active ∧ (flowing.desc 0 0 0).hoWait = false ∧ (flowing.descX 0 0 0).draining = false ∧
    (flowing.descX 0 0 0).recordDue = false ∧ flowing.turnOf 0 0 = some 0 ∧ (wait_ 0).cmd = some (cmd 1 (rec_ 0x10 0)) ∧
    (elemInfo prog 0x1000 (vectorAt (levelsOf prog) 0).1) = { addr := 0x1000, lo := 0, hi := 256 } ∧ (baseHo prog).1 = false ∧
    (baseHo (handing.desc 0 0 0).image).1 = true ∧ 0x1000 + 256 ≤ (handing.desc 0 0 0).dst / 2 ^ 48 ∧ handing.turnOf 0 0 = some 0 ∧
    (writing.desc 0 0 0).owner = some i0 ∧ 0 ∈ (writing.desc 0 0 0).issued ∧ writing.rowsLeft 0 0 0 0 = false ∧
    (((writing.descX 0 0 0).writes.filter (fun w => w.elem == 0)).flatMap (·.parts)) = [(false, 0x1000, leBytes 32 5)] ∧
    writing.locked 0x1000 32 true none = false ∧ (writing.reachElem 0 0 0 i0 false [0x1000]).1.partPoison 0x1000 32 = false ∧
    (writing.reachElem 0 0 0 i0 false [0x1000]).2 = 0 ∧ writing.engineWins 0 0 [(0x1000, 32)] [] = true ∧
    (List.range (writing.desc 0 0 0).te).all (fun k => ((writing.desc 0 0 0).doneEl ++ [0]).contains ((writing.desc 0 0 0).runTile *
      (writing.desc 0 0 0).te + k)) = true ∧ (writing.desc 0 0 0).runTile + 1 ≠ (writing.desc 0 0 0).tiles ∧ descSlot progM = false ∧
    ((descX (fun d => { d with st := .active }) (fun y => { y with draining := true })).desc 0 0 0).issued = [] := by decide +kernel

/-- An entry of tile 0's crossbar port. -/
def op_ (kind : PortKind) : PortOp := { kind, ctx := i0, bat := 0, va := 0x1000, dpa := 0x4000, bytes := 4, done := none }
def queued (l : List PortOp) : State := runT (fun t => t.updCtl (fun x => { x with portQ := l }))

theorem witness_SlicesAndFrames :
    ((queued [op_ (.load 0 7)]).tile (tileKey t0)).ctl.portQ[0]? = some (op_ (.load 0 7)) ∧
    mayPerform [op_ (.store 0 1)] (op_ .fence) = false ∧ mayPerform [] (op_ .fence) = true ∧ mayPerform [] (op_ (.store 0 1)) = true ∧
    mayPerform [op_ (.load 1 7)] (op_ (.load 0 7)) = true ∧
    run.locked 0x4000 4 true (some (bKey (taC (tileKey t0)) 0)) = false ∧ run.locked 0x4000 4 true none = true ∧
    run.partPoison 0x4000 4 = false ∧ run.poisoned 0x4000 4 = false ∧ Memory.wf (mwriteBytes [] 5 [1]) = true ∧
    bf (0#64) 16 27 * 0x10000 = 0 ∧ mapped.ownsP (.pf 0) 0 = true ∧ (mapped.part 0).frameBusy = false ∧ mapped.tag 0 = some i0 ∧
    mapped.frameLocked 0 = false ∧ ({ run with mem := mapped.mem } : State).frameLocked 0 = true ∧
    (({ mapped with mem := { mapped.mem with tags := [(0, { i0 with part := 1 })] } } : State).tag 0) = some { i0 with part := 1 } ∧
    ((mapped.updPart 0 (fun x => { x with frameBusy := true })).part 0).frameBusy = true ∧
    mapped.tagCheck 0x200000 i0 = .fill ∧ mapped.live i0 = true ∧ (op_ (.load 0 7)).kind ≠ .fence ∧ home 0x40000000040 = .cm 0 0 ∧
    xbarWins (run.xbarLast 0x40000000040) (xbarIndex (tileKey t0)) [275] = true ∧ xbarWins 5 3 [6] = false ∧
    xbarWins 5 3 [3, 5] = true := by decide +kernel


/-- Lines of memory that another agent reads, a walk with its frame, and a partition's frame that waits for a lock. -/
theorem witness_SlicesAndFrames_lines :
    (queued [op_ (.load 0 7)]).portRefuses (taC (tileKey t0)) (op_ (.load 0 7)) = none ∧ mapped.unitAt 0x1000 = some (6, 2) ∧
    mapped.unitAt 0x40000000040 = some (3, 0) ∧ mapped.unitAt 0x10000000000 = some (7, 0) ∧
    (hourWindow mapped.ledger.opSec (tget mapped.mem.sbe (4096 * 6 + 2) [])).2 = false ∧ mapped.mirrored 0x1000 = false ∧
    (let s := mapped.updPart 0 (fun x => { x with frameBusy := true, frame := 0 }); (s.part 0).frameBusy = true ∧ s.frameLocked 0 = false ∧
      s.tag 0 = some i0) ∧ (mapped.ctx 0 0).xlat.enable = true ∧
    (let w : Walk := { id := 3, agent := .queue 0, ctx := i0, va := 0x200000, write := true, level := 3, table := 0, dropped := false
                       frame := some 0x200000, result := some 0x20000B }; ((mapped.updCl 0 (fun x => { x with walks := [w] })).cl 0).walks.find? (fun x => x.id == w.id) = some w) := by decide +kernel

theorem witness_MemoryEvents :
    0x20 ∈ ((cfgd.updCl 0 (fun x => { x with fills := [0x20] })).cl 0).fills ∧
    (cfgd.updSlice 0 0 (fun y => { y with mode := 1 })).cacheSlices 0 ≠ [] ∧ cfgd.poisoned 0x20 32 = false ∧
    hasCheck 0x20 = true ∧ hasCheck 0x40000000000 = false ∧ 16 * 0x20 ∉ cfgd.mem.mismatch ∧
    cfgd.unitAt 0x20 = some (6, 0) ∧ cfgd.unitAt 0x10000000000 = some (7, 0) ∧ (cfgd.slice 0 64).st = 1 ∧ (cfgd.slice 0 63).st ≠ 3 ∧
    ((cfgd.updSlice 0 65 (fun y => { y with st := 2 })).slice 0 65).st = 2 ∧
    ([(0, 3)] : List (Nat × Nat)).find? (fun e => e.1 == kKey 0 0) = some (0, 3) := by decide +kernel


/-- Cluster 0 with spare slices 64 and 65 in use as mirrored copies, logical slices 3 and 4 their partners, or with the spares failed. -/
def mirroring (st : Nat) : State := (cfgd.updSlice 0 3 (fun y => { y with logical := 3, mirror := true, partner := 4 })).updSlice 0 4 (fun y =>
  { y with logical := 4, mirror := true, partner := 3, secondary := true, st })
def unspared (s : State) : State := (s.updSlice 0 64 (fun y => { y with st := 3 })).updSlice 0 65 (fun y => { y with st := 3 })

theorem witness_MemoryEvents_slices :
    (0xFFFF : BitVec 16) ≠ crc16 (leBytes 32 (5#256).toNat ++ leBytes 5 (field (0x20 / 32 * 32) 5 38)) ∧
    16 * (0x20 / 32 * 32) + 0 ∈ ({ cfgd with mem := { cfgd.mem with mismatch := [0x200] } } : State).mem.mismatch ∧
    ({ cfgd with mem := { cfgd.mem with poison := [0] } } : State).poisoned 0x20 32 = true ∧
    (let s := cfgd.updSlice 0 5 (fun y => { y with logical := 5, mode := 1 }); (s.slice 0 5).st ≠ 1 ∧ (s.slice 0 5).st ≠ 3 ∧ (s.slice 0 5).mode = 1 ∧
      s.spareOf 0 = some 64) ∧
    (∀ st : Fin 2, let s := mirroring (2 * st.val); (s.slice 0 3).st ≠ 1 ∧ (s.slice 0 3).st ≠ 3 ∧ (s.slice 0 3).mode ≠ 1 ∧ (s.slice 0 3).mirror = true ∧
      (List.range 66).find? (fun ph => (s.slice 0 ph).logical == (s.slice 0 3).partner && (s.slice 0 ph).mirror && (s.slice 0 ph).st != 3) = some 4 ∧
      (s.slice 0 4).st = 2 * st.val ∧ s.spareOf 0 = some 64 ∧ (unspared s).spareOf 0 = none) ∧
    (cfgd.slice 0 5).st ≠ 1 ∧ (cfgd.slice 0 5).st ≠ 3 ∧ (cfgd.slice 0 5).mode ≠ 1 ∧ (cfgd.slice 0 5).mirror = false ∧
    65 ∈ ((cfgd.updCl 0 (fun y => { y with mirrorBusy := [65] })).cl 0).mirrorBusy ∧
    ([(0, 0x4000, 64)] : List (Nat × Nat × Nat))[0]? = some (0, 0x4000, 64) := by decide +kernel

/-- A walk of context 0 at the root, and a table entry. -/
def walk_ : Walk := { id := 0, agent := .queue 0, ctx := i0, va := 0, write := false, level := 1, table := 0, dropped := false, frame := none, result := none }
def entry (b : Byte) : State := { mapped with mem := { mapped.mem with bytes := mwriteBytes [] 0 [b] } }

theorem witness_TranslationWalksAndInvalidation :
    (mapped.ctx 0 0).st ≠ 0 ∧ (mapped.ctx 0 0).xlat.faulted = false ∧ (mapped.ctx 0 0).xlat.enable = true ∧
    mapped.tlbLook 0 i0 0x1000 = none ∧
    (mapped.updCl 0 (fun x => { x with tlb := [{ ctx := i0, va := 0, size := 30, leaf := 0x0B }] })).tlbLook 0 i0 0x1000 =
      some { ctx := i0, va := 0, size := 30, leaf := 0x0B } ∧
    ((mapped.updCl 0 (fun x => { x with walks := [walk_] })).cl 0).walks.find? (fun x => x.id == 0) = some walk_ ∧
    mapped.live walk_.ctx = true ∧ mapped.tableOk 0 0 = true ∧ cfgd.tableOk 0 0 = false ∧ mapped.poisoned 0 8 = false ∧
    (mapped.load 0 8).testBit 0 = true ∧ (mapped.load 0 8).testBit 1 = true ∧ ((entry 0).load 0 8).testBit 0 = false ∧
    ((entry 1).load 0 8).testBit 0 = true ∧ ((entry 1).load 0 8).testBit 1 = false ∧ field ((entry 1).load 0 8) 2 6 = 0 ∧
    (entry 1).load 0 8 / 2 ^ 43 = 0 ∧ field ((entry 1).load 0 8) 8 4 = 0 ∧
    mapped.ownsP (.pf 0) 0 = true ∧ (mapped.part 0).invGo = false ∧ ((mapped.updPart 0 (fun x => { x with invGo := true })).part 0).invGo = true ∧
    walk_.frame = none ∧ (cfgd.ctx 0 0).xlat.enable = false ∧ cfgd.live walk_.ctx = true ∧ mapped.invalidating { walk_ with dropped := true } = false ∧
    leafCheck 0x0B 1 0 false = .dev 0 false ∧ leafCheck 0x0F 1 0 false = .host 0 true 30 ∧ mapped.dpaStatus 0 0 = none ∧
    mapped.tagCheck 0 i0 = .admits ∧ mapped.tagCheck 0x200000 i0 = .fill ∧
    (({ mapped with mem := { mapped.mem with tags := [(0, { i0 with ctx := 1 })] } } : State).updCtx 0 1 (fun c => { c with st := 1 })).tagCheck 0 i0 = .owned ∧ (1#64).toNat.testBit 0 = true ∧
    ((mapped.updPart 0 (fun x => { x with invGo := true, invNow := (0, 0x10000, 0x10000) })).part 0).invNow = (0, 0x10000, 0x10000) ∧
    invRange 0 0x10000 = (0x10000, 0x10000) ∧ mapped.regionHeld 0 0 0x10000 0x10000 = false ∧ mapped.elemsUse 0 0 0x10000 0x10000 = false := by
  decide +kernel


/-- A request of an agent of context 0 at host port 0. -/
def req (prg waiting : Bool) (agent : XAgent) : HostReq :=
  { idx := 0, ctx := i0, cluster := 0, agent, elem := 0, va := 0, hua := 0x1000, page := 16, pasid := none, write := false, prg, waiting, stale := false }
def asked (r : HostReq) : State := cfgd.updPort 0 (fun x => { x with reqs := [r] })

theorem witness_HostTranslations :
    ((asked (req false false (.queue 0))).port 0).reqs.find? (fun r => !r.prg && r.idx == 0) = some (req false false (.queue 0)) ∧
    (req false false (.queue 0)).stale = false ∧ cfgd.live i0 = true ∧ (cfgd.port 0).prgFree = some 0 ∧
    ((asked (req true true (.queue 0))).port 0).reqs.find? (fun r => r.prg && r.waiting) = some (req true true (.queue 0)) ∧
    ((asked (req true false (.engine 0 0))).port 0).reqs.find? (fun r => r.prg && !r.waiting && r.idx == 0) = some (req true false (.engine 0 0)) ∧
    ((asked (req true false (.queue 0))).port 0).reqs.find? (fun r => r.prg && !r.waiting && r.idx == 0 && r.pasid == none) =
      some (req true false (.queue 0)) ∧ min (12 + (18 : Fin 19).val) 16 = 16 ∧ (PrgCode.invalid ≠ .success) ∧
    (let s := descd (fun d => { d with st := .active }); (s.desc 0 0 0).owner = some i0 ∧ (s.desc 0 0 0).st = .active ∧ (s.descX 0 0 0).stopStatus = 0) ∧
    (let s := descd (fun d => { d with st := .stopped, lastStatus := 0x67 }); (s.desc 0 0 0).st = .stopped ∧ (s.desc 0 0 0).lastStatus = 0x67 ∧
      (s.descX 0 0 0).engWait = false) ∧ (cfgd.port 0).invals.length < 32 ∧
    ((descd (fun d => { d with st := .stopped, lastStatus := 0x67 })).desc 0 0 0).owner = some i0 ∧
    ((cfgd.updPort 0 (fun x => { x with invals := [(none, 0x1000, 4096)] })).port 0).invals[0]? = some (none, 0x1000, 4096) ∧
    cfgd.hostPagesUsed 0 none 0x1000 4096 = false := by decide +kernel


/-! Witnesses: messages, the mesh, queues and contexts. -/

/-- Tile 0 with channel 0 and queue 0 open to context 0, and a word for a MSG in registers 1 to 8. -/
def chan0 : Channel := { Channel.reset with opened := true, ctx := some i0, window := 1 }
def rx0 : RxQueue := { RxQueue.reset with opened := true, ctx := some i0 }
def talking : State := (run.updChannel 0 0 (fun _ => chan0)).updRxq 0 0 (fun _ => rx0)
def entry0 : RxEntry := { data := 5, inc := 0, first := true }

/-- The words of a PUT of 32 B from VA 0x1000. -/
def putRegs : Tbl Word := [(1, 1), (4, 0x1000), (5, 32 * 2 ^ 16)]

theorem witness_MessageInstructions :
    run.canIssue (tileKey t0) 0 = some (0, 0) ∧ (run.bat (taC (tileKey t0)) 0).owner = some i0 ∧
    (run.channel (tileKey t0) 0).takes i0 = false ∧ (talking.channel (tileKey t0) 0).takes i0 = true ∧
    dKind ((talking.updThread 0 0 (fun y => { y with regs := [] })).regs8 (tileKey t0) 0 1 0) = 0 ∧
    dKind ((talking.updThread 0 0 (fun y => { y with regs := putRegs })).regs8 (tileKey t0) 0 1 0) = 1 ∧
    sendOk ((talking.updThread 0 0 (fun y => { y with regs := putRegs })).regs8 (tileKey t0) 0 1 0) (talking.channel (tileKey t0) 0).destCq = true ∧
    regionPieces (talking.bat (taC (tileKey t0)) 0).regions 18
      (dAddr ((talking.updThread 0 0 (fun y => { y with regs := putRegs })).regs8 (tileKey t0) 0 1 0)) 32 = some [(0x4000, 32)] ∧
    talking.poisoned 0x4000 32 = false ∧
    ((talking.updRxq 0 0 (fun x => { x with entries := [entry0] })).rxq (tileKey t0) 0).entries = entry0 :: [] ∧
    (talking.rxq (tileKey t0) 0).ctx = some i0 ∧ (talking.rxq (tileKey t0) 0).entries = [] ∧ tget talking.msg.cqs (tileKey t0) [] = [] ∧
    tget ({ talking with msg := { talking.msg with cqs := [(0, [5])] } } : State).msg.cqs (tileKey t0) [] = 5 :: [] ∧
    ((run.updComb 0 31 (fun y => { y with st := 1, ctx := some i0 })).comb (taC (tileKey t0)) 31).st = 1 ∧
    ((run.updComb 0 31 (fun y => { y with st := 1, ctx := some i0 })).comb (taC (tileKey t0)) 31).pending = false := by decide +kernel


theorem witness_MessageControl :
    cfgd.ownsC (.pf 0) 0 = true ∧ cfgd.resettingC 0 = false ∧ cfgd.partOf 0 = some 0 ∧ mcOp (mcWith 0 0) = 0 ∧
    cfgd.mcReserved 0 (cfgd.part 0).strict (mcWith 0 0) = false ∧ cfgd.live (cfgd.ident 0 (mcContext (mcWith 0 0))) = true ∧
    (cfgd.rxq 0 0).opened = false ∧ (talking.rxq 0 0).opened = true ∧ cfgd.mcReserved 0 false (mcWith 3 (2 ^ 28)) = false ∧
    (cfgd.channel 0 0).opened = false ∧ (talking.channel 0 0).opened = true ∧ (cfgd.comb 0 0).st = 0 ∧
    (cfgd.updComb 0 0 (fun y => { y with cfg := BitVec.ofNat 192 ((1 + 2 ^ 19) * 2 ^ 64) })).mcReserved 0 false (mcWith 5 0) = false ∧
    ((cfgd.updComb 0 0 (fun y => { y with st := 1 })).comb 0 0).st ≠ 0 ∧ cfgd.mcReserved 0 false (mcWith 7 0) = false := by decide +kernel


/-- A channel from tile 0 to queue 0 of tile 0 with a window of 8; operands with reserved bits, and a context that is not live. -/
def opens : Dword := mcWith 3 (BitVec.ofNat 64 (8 * 2 ^ 28))
theorem witness_MessageControl_opens :
    mcDestCq opens = false ∧ (talking.rxq (mcDest opens) (mcDestQ opens)).opened = true ∧ (talking.rxq (mcDest opens) (mcDestQ opens)).ctx = some i0 ∧
    talking.rxTaken (mcDest opens) (mcDestQ opens) + mcWindow opens ≤ 64 ∧ cfgd.mcReserved 0 false (mcWith 0 (2 ^ 50)) = true ∧
    State.reset.live (State.reset.ident 0 0) = false ∧ ((cfgd.updComb 0 0 (fun y => { y with st := 1 })).comb 0 0).pending = false ∧
    (∀ n : Fin 8, mcOp (mcWith n.val 0) = n.val) ∧ (cfgd.comb 0 0).st = 0 := by decide +kernel

/-- A descriptor of tile 0 at its destination, queue 0 of tile 0, and the state with it in the mesh. -/
def pkt (kind payload : Nat) : Packet :=
  { id := 7, node := 0, inPort := 6, dest := 0, cls := 0, key := 1, ctx := some i0, agent := 0, taddr := 0, epoch := false, escape := false
    arrived := true, kind, payload, back := 0, gen := talking.destGen 0, flits := 1, group := 7, off := 0, unit_ := 0, fault := 0, slot := none }
def arrivedAt (s : State) (p : Packet) : State := { s with mesh := { s.mesh with net := [p] } }
def combining : State := talking.updComb 0 0 (fun y => { y with
  st := 2, ctx := some i0, bits := BitVec.ofNat 192 ((1 + 2 * 2 ^ 19) * 2 ^ 64), target := [(0x4000, 4)] })

theorem witness_DescriptorArrivals :
    (arrivedAt talking (pkt 1 0)).arrivedDesc 7 1 = some (pkt 1 0) ∧ (arrivedAt talking (pkt 1 0)).rxRefuses (pkt 1 0) = none ∧
    (arrivedAt cfgd (pkt 1 0)).rxRefuses (pkt 1 0) = some St.readerGone ∧ dKind 0 = 0 ∧ dSys 0 = false ∧ dSys 128 = true ∧
    (arrivedAt talking (pkt 1 1)).rxRefuses (pkt 1 1) = none ∧ (pkt 1 1).ctx = some i0 ∧ dKind 1 = 1 ∧
    (arrivedAt talking (pkt 3 1)).arrivedDesc 7 3 = some (pkt 3 1) ∧ (arrivedAt talking (pkt 3 1)).rxRefuses (pkt 3 1) = none ∧
    combining.combRefuses (pkt 1 (2 + 4 * 2 ^ 144)) (combining.comb 0 0) = none ∧
    talking.combRefuses (pkt 1 2) (talking.comb 0 0) = some St.readerGone ∧
    (combining.comb 0 0).strict = false ∧ (combining.comb 0 0).count + 1 < combN (combining.comb 0 0).bits ∧
    (∀ e ∈ combWrites (combining.comb 0 0) (2 + 4 * 2 ^ 144), cfgd.locked e.1 e.2 true none = false ∧ cfgd.partPoison e.1 e.2 = false) ∧
    (talking.channel (dSrc 0) (dSrcCh 0)).opened = true ∧ (talking.channel (dSrc 0) (dSrcCh 0)).inc = (pkt 2 0).back ∧
    dStatus (St.posted * 256) = St.posted ∧ dCq (St.posted * 256) = false ∧ dStatus 0 ≠ St.posted ∧
    ((run.updComb 0 0 (fun y => { y with st := 3 })).comb 0 0).st = 3 := by decide +kernel

/-- The same with context 0's memory mapped: a PUT of 32 bytes to a VA, and contributions of two words and of words out of range. -/
def talkingM (p : Packet) : State := arrivedAt ((mapped.updChannel 0 0 (fun _ => chan0)).updRxq 0 0 (fun _ => rx0)) p
def put (kind va : Nat) : Packet := { pkt kind (1 + 32 * 2 ^ 144 + va * 2 ^ 192) with gen := (talkingM (pkt 1 0)).destGen 0 }
def okPieces (r : State × Except Nat (List (Nat × Nat))) (l : List (Nat × Nat)) : Bool := match r with
  | (_, .ok k) => k == l
  | _ => false
def errPieces (r : State × Except Nat (List (Nat × Nat))) (st : Nat) : Bool := match r with
  | (_, .error k) => k == st
  | _ => false
def putOf (s : State) (p : Packet) : State × Except Nat (List (Nat × Nat)) :=
  s.putPieces (taC (dDest p.payload)) i0 4 (field (dArg p.payload) 0 48 + p.off) (min 2048 (dLen p.payload - p.off))

theorem witness_DescriptorArrivals_put :
    (talkingM (put 1 0x1000)).rxRefuses (put 1 0x1000) = none ∧ dKind (put 1 0x1000).payload = 1 ∧
    (talkingM (put 1 0x1000)).arrivedDesc 7 1 = some (put 1 0x1000) ∧
    okPieces (putOf (talkingM (put 1 0x1000)) (put 1 0x1000)) [(0x1000, 32)] = true ∧
    (putOf (talkingM (put 1 0x1000)) (put 1 0x1000)).1.locked 0x1000 32 true none = false ∧
    ((putOf (talkingM (put 1 0x1000)) (put 1 0x1000)).1.reachAll 0 i0 1 0 [0x1000]).2 = 0 ∧
    ((putOf (talkingM (put 1 0x1000)) (put 1 0x1000)).1.reachAll 0 i0 1 0 [0x1000]).1.partPoison 0x1000 32 = false ∧
    okPieces (putOf ({ talkingM (put 1 0x4000) with bats := run.bats }) (put 1 0x4000)) [(0x4000, 32)] = true ∧
    (putOf ({ talkingM (put 1 0x4000) with bats := run.bats }) (put 1 0x4000)).1.locked 0x4000 32 true none = true := by decide +kernel

theorem witness_DescriptorArrivals_parts :
    errPieces (putOf ({ talkingM (put 1 0x1000) with mem := { mapped.mem with bytes := mwriteBytes [] 0 [0x0F] } }) (put 1 0x1000)) St.sourceTier = true ∧
    (talkingM (put 1 0x1000)).firstPart (put 1 0x1000) = true ∧ (talkingM (put 3 0x1000)).firstPart (put 1 0x1000) = false ∧
    (talkingM (put 3 0x1000)).rxRefuses (put 3 0x1000) = none ∧
    (∀ g ∈ (talkingM (put 3 0x1000)).groupOf 7, g.kind = 3 ∧ g.fault = 0) ∧ ((talkingM (put 3 0x1000)).groupOf 7).length = (32 + 2047) / 2048 ∧
    dLen (put 3 0x1000).payload = 32 := by decide +kernel

/-- A contribution of a word from its packet, to a queue that is armed, strict, idle, or too small. -/
def contrib (first : Nat) : Packet := pkt 1 (2 + 4 * 2 ^ 144 + first * 2 ^ 192)
def combAs (f : CombQueue → CombQueue) (first : Nat) : State := arrivedAt (combining.updComb 0 0 f) (contrib first)
/-- The queue in strict order, its slots of 32 bytes. -/
def strictComb (y : CombQueue) : CombQueue :=
  { y with strict := true, bits := y.bits ||| BitVec.ofNat 192 (2 ^ 176), staging := [(0x5000, 64)] }

theorem witness_DescriptorArrivals_combine :
    (combAs id 0).arrivedDesc 7 1 = some (contrib 0) ∧ (combAs id 0).combRefuses (contrib 0) ((combAs id 0).comb 0 0) = none ∧
    (combAs id 0).groupData (contrib 0) = some 0 ∧
    (combAs (fun y => { y with st := 1 }) 0).combRefuses (contrib 0) ((combAs (fun y => { y with st := 1 }) 0).comb 0 0) = some St.combineIdle ∧
    (combAs strictComb 0).combRefuses (contrib 0) ((combAs strictComb 0).comb 0 0) = none ∧ ((combAs strictComb 0).comb 0 0).strict = true ∧
    combWrites ((combAs strictComb 0).comb 0 0) (contrib 0).payload = [(0x5000, 4)] ∧
    (combAs strictComb 0).locked 0x5000 4 true none = false ∧ (combAs strictComb 0).partPoison 0x5000 4 = false ∧
    (combAs id 1).combRefuses (contrib 1) ((combAs id 1).comb 0 0) = some St.combineRange := by decide +kernel

/-- Cluster 0 in a state of its carillon. -/
def caroling (n : Nat) : State := cfgd.updClX 0 (fun x => { x with carState := n })

theorem witness_Carillon :
    (cfgd.clX 0).carState = 0 ∧ ((caroling 1).clX 0).carState = 1 ∧ (caroling 1).carQuiet 0 = true ∧ (caroling 1).streamsIdle 0 = true ∧
    ((caroling 1).clX 0).carForced = false ∧ ((caroling 2).clX 0).carState = 2 ∧ pealOk 0 15 32 = true ∧ pealOk 0 16 32 = false ∧
    cfgd.pealSource 0 32 = true ∧ (caroling 2).pealSource 0x40000000000 0x10000 = true ∧ cfgd.poisoned 0 32 = false ∧
    (∀ ta ∈ pealTiles (1 + 2 ^ 16 + 2 ^ 32), cfgd.pealReason 0 ta ≠ 0) ∧ pealOk 2 0 0x10000 = true ∧
    pealTiles (1 + 2 ^ 16 + 2 ^ 32) = [0] ∧ (caroling 2).pealReason 0 0 = 0 ∧
    ([{ id := 1, sender := 16, written := 0, failed := [] }] : List Peal).find? (fun y => y.id == 1) =
      some { id := 1, sender := 16, written := 0, failed := [] } := by decide +kernel


/-- The mesh with one packet on its way, of key 0, from cluster 0 to the node named, in a system without routes and in one with them. -/
def moving (dest : Nat) : Packet := { pkt 1 0 with key := 0, dest, arrived := false }
def meshed (p : Packet) : State := arrivedAt up p
def routed (p : Packet) : State := arrivedAt mapped p

theorem witness_MeshRouting :
    (meshed (moving 3)).packet 7 = some (moving 3) ∧ (moving 3).node < 16 ∧ (meshed (moving 3)).keyAllowed 0 6 0 = true ∧
    (meshed { moving 3 with inPort := 0, key := 9 }).keyAllowed 0 0 9 = false ∧ (meshed (moving 3)).heldByCarillon 0 (moving 3) = false ∧
    (∃ port chan, ((meshed (moving 3)).updRouter 0 (fun r => { r with down := 0, bank0 := [(3, 0x102)] })).route 0 (moving 3) = .out port chan) ∧
    (meshed (moving 3)).route 0 (moving 3) = .noRoute ∧
    (∀ q ∈ up.mesh.net, q.id ≠ up.mesh.nextId) ∧ linkUnit 0 1 0 = some (4, 0) ∧ linkUnit 0 1 15 = some (4, 15) ∧ linkUnit 0 1 16 = none ∧
    (hourWindow up.ledger.opSec (tget up.mem.sbe (4096 * 4) [])).2 = false ∧ (∀ n, n < 16 → up.oldBusy n = false) := by
  refine ⟨?_, ?_, ?_, ?_, ?_, ⟨1, 0, ?_⟩, ?_⟩ <;> decide +kernel

/-- A system where partition 0 has its key, with credits used up towards the east or a flit owed there. -/
def keyed : State := { mapped with mesh := { mapped.mesh with pkeys := [(0, 1, true, 0)] } }
def spent : State := (routed (moving 3)).updRouter 0 (fun r => { r with credits := [(creditKey 1 0 0, 0), (creditKey 1 0 1, 0)], owed := [(creditKey 1 0 0, 2)] })
def ask (part : Option (Fin 16)) (agent : Fin 8) : Inject :=
  { node := 0, inPort := 4, dest := 3, unit_ := 0, cls := 0, bytes := 2048, srcPart := part, srcCtx := none, agent, taddr := 0 }

theorem witness_MeshRouting_keys :
    keyed.hasKey 0 = true ∧ mapped.hasKey 0 = false ∧ (∀ q ∈ keyed.mesh.net, q.id ≠ keyed.mesh.nextId) ∧
    (ask (some 0) 0).srcPart = some 0 ∧ (ask none 5).bytes ≤ 2048 ∧ (ask none 4).agent.val < 5 ∧ (ask none 5).srcPart = none ∧
    spent.route 0 (moving 3) = .wait ∧ spent.packet 7 = some (moving 3) ∧ 0 < tget (spent.router 0).owed (creditKey 1 0 0) 0 ∧
    neighbour 0 1 = some (1, 3) ∧ (moving 3).kind ≠ 0 ∧ linkUnit 1 1 67 = some (5, 67) ∧
    (routed (moving 0)).route 0 (moving 0) = .out 4 0 := by decide +kernel

theorem witness_MeshRouting_installs : ∀ n, n < 16 → up.oldBusy n = false := by decide +kernel

/-- Queue 0 of context 0 with a ring of 16 at VA 0x1000 and one record in it: the words of a SEC_RUN, or of a STREAM with its image there. -/
def ring0 (op : Byte) (x : Nat) : State := ({ mapped with mem := { mapped.mem with
  bytes := mwriteBytes mapped.mem.bytes 0x1000 [op] } } : State).updQueue 0 0 x (fun q => { q with size := 4, base := 0x1000, tail := 1 })

theorem witness_QueueRegistersAndFetch :
    mapped.ownsP (.pf 0) 0 = true ∧ mapped.resetting 0 = false ∧ (mapped.ctx 0 0).st ≠ 0 ∧ (mapped.ctx 0 0).st ≠ 7 ∧
    ringSizeOk (((ring0 2 0).ctx 0 0).queue 0).size = true ∧ ((16#32).toNat + 2 ^ 32 - 0) % 2 ^ 32 ≤ 2 ^ 4 ∧
    2 ^ 4 < ((17#32).toNat + 2 ^ 32 - 0) % 2 ^ 32 ∧ (((ring0 2 0).ctx 0 0).queue 0).nextIdx 64 0 = 0 ∧
    (∃ bs, ((ring0 2 0).readQ 0 0 0 0x1000 64).2 = .ok bs ∧ bf (BitVec.ofNat 512 (leNat bs)) 0 8 ≠ 0x10) ∧
    (∃ bs, ((ring0 0x10 1).readQ 0 0 1 0x1000 64).2 = .ok bs ∧ bf (BitVec.ofNat 512 (leNat bs)) 0 8 = 0x10 ∧
      (ring0 0x10 1).checkRecord 0 1 (BitVec.ofNat 512 (leNat bs)) = 0 ∧
      ((ring0 0x10 1).readQ 0 0 1 (bf (BitVec.ofNat 512 (leNat bs)) 128 48) 192).2 = .ok (mbytes (ring0 0x10 1).mem.bytes 0 192) ∧
      (BitVec.ofNat 512 (leNat bs)).toNat.testBit 74 = false) ∧
    mapped.checkRecord 0 0 (rec_ 2 0) = 0 ∧ mapped.checkRecord 0 0 (rec_ 7 0) = St.reservedNonzero := by
  refine ⟨?_, ?_, ?_, ?_, ?_, ?_, ?_, ?_, ⟨mbytes (ring0 2 0).mem.bytes 0x1000 64, ?_⟩, ⟨mbytes (ring0 0x10 1).mem.bytes 0x1000 64, ?_⟩, ?_⟩ <;>
    decide +kernel


theorem witness_QueueRegistersAndFetch_room :
    (let s := ring0 2 0; let q := (s.ctx 0 0).queue 0
     (s.ctx 0 0).st = 1 ∧ q.nextIdx 64 q.next = 0 ∧ q.fetched = none ∧ q.waitOn = none ∧ q.stalled = none ∧ ringSizeOk q.size = true ∧
      (0 + 2 ^ 32 - q.head) % 2 ^ 32 < 32 ∧ (0 + 2 ^ 32 - q.head) % 2 ^ 32 < (q.tail + 2 ^ 32 - q.head) % 2 ^ 32) ∧
    (let s := ring0 0x10 1; let q := (s.ctx 0 0).queue 1
     (s.ctx 0 0).st = 1 ∧ q.nextIdx 64 q.next = 0 ∧ q.fetched = none ∧ q.waitOn = none ∧ q.stalled = none ∧ ringSizeOk q.size = true ∧
      (0 + 2 ^ 32 - q.head) % 2 ^ 32 < (q.tail + 2 ^ 32 - q.head) % 2 ^ 32) ∧
    kKey 0 1 ≠ kKey 0 0 ∧ (3 : Fin 4).val = 3 ∧ (∃ g, Fn.pf 0 = .pf g) := by
  refine ⟨?_, ?_, ?_, ?_, ⟨0, rfl⟩⟩ <;> decide +kernel

/-- Context 0 with a completion ring at VA 0x1000 and an entry to write. -/
def completing : State := mapped.updCtx 0 0 (fun c => { c with cqSize := 7, cqBase := 0x1000, comps := [5] })

theorem witness_QueueCommandsAndCompletions :
    (completing.ctx 0 0).comps = [5] ∧ cqSizeOk (completing.ctx 0 0).cqSize = true ∧
    (completing.translateC (completing.lowCluster 0) (completing.ident 0 0) 0x1000 true).2 = .dev 0x1000 false ∧
    completing.locked 0x1000 32 true none = false ∧ completing.partPoison 0x1000 32 = false ∧
    (fetchedIn mapped 2 (rec_ 0 0)).fetchedCmd 0 0 2 0x00 = some (cmd 2 (rec_ 0 0)) ∧
    (fetchedIn mapped 3 (rec_ 0x30 0)).fetchedCmd 0 0 3 0x30 = some (cmd 3 (rec_ 0x30 0)) ∧
    (fetchedIn mapped 3 (rec_ 0x30 0)).allEarlier (cmd 3 (rec_ 0x30 0)) = true ∧
    ((fetchedIn mapped 3 (rec_ 0x30 0)).updQueue 0 0 3 (fun q => { q with head := 5 })).allEarlier (cmd 3 (rec_ 0x30 0)) = false ∧
    (fetchedIn mapped 0 (rec_ 0x31 0)).fetchedCmd 0 0 0 0x31 = some (cmd 0 (rec_ 0x31 0)) ∧
    (fetchedIn mapped 0 (rec_ 0x32 0)).fetchedCmd 0 0 0 0x32 = some (cmd 0 (rec_ 0x32 0)) ∧
    (mapped.chimeAt (mapped.identOf (cmd 0 (rec_ 0x32 0))) 0x1000 false (queueAgent 0)).2.toOption = some 0x1000 ∧
    (((mapped.updQueue 0 0 0 (fun q => { q with waitOn := some (0x1000, 0, true, 1) })).ctx 0 0).queue 0).waitOn = some (0x1000, 0, true, 1) ∧
    mapped.poisoned 0x1000 8 = false ∧ waitMet true 0 (mapped.load 0x1000 8) = true ∧ waitMet false 1 (mapped.load 0x1000 8) = false := by
  decide +kernel


/-- Queue 0 waiting for the word at DPA 0x1000, and a region of a section in RUN over it. -/
def waitingQ : State := mapped.updQueue 0 0 0 (fun q => { q with waitOn := some (0x1000, 0, true, 1), inProg := [cmd 0 (rec_ 0x32 0)] })
def held : State := { waitingQ with bats := [(0, { Battery.reset with
  st := .run, active := some img, owner := some i0, locks := true, regions := [{ out := true, va := 0x1000, dpa := 0x1000, len := 0x100 }] })] }

theorem witness_QueueCommandsAndCompletions_waits :
    ((completing.ctx 0 0).cqTail + 2 ^ 32 - (completing.ctx 0 0).cqHead) % 2 ^ 32 < 2 ^ (completing.ctx 0 0).cqSize ∧
    (fetchedIn mapped 0 (rec_ 0x31 0)).allEarlier (cmd 0 (rec_ 0x31 0)) = true ∧
    (fetchedIn mapped 0 (rec_ 0x31 0)).chimeLocked ((fetchedIn mapped 0 (rec_ 0x31 0)).identOf (cmd 0 (rec_ 0x31 0))) 0 true = false ∧
    ((waitingQ.ctx 0 0).queue 0).waitOn = some (0x1000, 0, true, 1) ∧
    ((waitingQ.ctx 0 0).queue 0).inProg.find? (fun r => r.idx == 0) = some (cmd 0 (rec_ 0x32 0)) ∧
    waitingQ.locked 0x1000 8 false none = false ∧ held.locked 0x1000 8 false none = true := by decide +kernel

theorem witness_ContextOperations :
    cfgd.ownsP (.pf 0) 0 = true ∧ cfgd.resetting 0 = false ∧ (cfgd.ctx 0 0).go = false ∧
    cfgd.arbitrate (opSev 0) (.ctx 0 1) = .proceed ∧ opAllowed 0 (cfgd.ctx 0 0).st = false ∧ opAllowed 0 (freed.ctx 0 0).st = true ∧
    opAllowed 1 (cfgd.ctx 0 0).st = true ∧ cfgd.noCluster 0 0 = false ∧ (cfgd.part 0).strictBusy = false ∧ opAllowed 2 3 = true ∧
    opAllowed 3 3 = true ∧ opAllowed 4 5 = true ∧ opAllowed 6 7 = true := by decide


/-- Context 0 saving: its GO is 1; and a context of a partition without clusters. -/
theorem witness_ContextOperations_busy :
    ((cfgd.updCtx 0 0 (fun c => { c with go := true, st := 4 })).ctx 0 0).go = true ∧ (freed.noCluster 0 0 = false) ∧
    (mapped.noCluster 1 0 = true) := by decide +kernel

/-- Context 0 in SAVING or RESTORING, its save area at VA 0x1000. -/
def saving : State := mapped.updCtx 0 0 (fun c => { c with st := 4, saveVa := 0x1000 })
def restoring : State := ({ mapped with mem := { mapped.mem with
  bytes := mwriteBytes mapped.mem.bytes 0x1000 (saving.saveArea 0 0) } } : State).updCtx 0 0 (fun c => { c with st := 6, saveVa := 0x1000 })

/-- How a restore ends, and one whose save area names an image at a VA that is not mapped. -/
def errOf : Except ReadErr Unit → Option ReadErr
  | .ok _ => none
  | .error x => some x
def lostArea : List Byte :=
  (saving.updBat 0 0 (fun b => { b with st := .loaded, activeCtx := some i0, active := some { img with va := 2 ^ 31 } })).saveArea 0 0
def lostImage : State := ({ mapped with mem := { mapped.mem with
  bytes := mwriteBytes mapped.mem.bytes 0x1000 lostArea } } : State).updCtx 0 0 (fun c => { c with st := 6, saveVa := 0x1000 })

set_option maxRecDepth 100000 in
theorem witness_ContextCompletionsAndReset :
    cfgd.ident 0 0 = i0 ∧ cfgd.preemptDone i0 = true ∧ ((cfgd.updCtx 0 0 (fun c => { c with st := 2 })).ctx 0 0).st = 2 ∧
    (saving.devPages i0 true 2 0x1000 (saving.saveArea 0 0).length).2.toBool = true ∧
    ((cfgd.updCtx 0 0 (fun c => { c with st := 4 })).devPages i0 true 2 0 512).2.toBool = false ∧
    (∃ hd, (restoring.readVa i0 4 0x1000 512).2.toOption = some hd ∧ field (leNat hd) 800 64 = saveLen (leNat hd) ∧
      errOf (restoring.restoreFrom i0 hd).2 = none) ∧
    (errOf (cfgd.restoreFrom i0 []).2).map (·.fatal) = some false ∧ (freed.ctx 0 0).st = 0 ∧ (cfgd.ctx 0 0).st ≠ 0 ∧
    cfgd.arbitrate 5 (.ctx 0 0) = .proceed ∧ (∀ f, Issuer.belfry ≠ .fn f) := by
  refine ⟨?_, ?_, ?_, ?_, ?_, ⟨mbytes restoring.mem.bytes 0x1000 512, ?_⟩, ?_, ?_, ?_, ?_, fun _ h => nomatch h⟩ <;> decide +kernel

set_option maxRecDepth 100000 in
theorem witness_ContextCompletionsAndReset_more :
    (∃ hd bs, (lostImage.readVa i0 4 0x1000 512).2.toOption = some hd ∧ field (leNat hd) 800 64 = saveLen (leNat hd) ∧
      (lostImage.readVa i0 (saveLen (leNat hd) / 65536 + 2) 0x1000 (saveLen (leNat hd))).2.toOption = some bs ∧
      (errOf (lostImage.restoreFrom i0 bs).2).map (·.fatal) = some true) ∧
    (saving.ctx 0 0).framesNow = false ∧ (cfgd.clustersOf 0).isEmpty = false ∧ (cfgd.clustersOf 1).isEmpty = true ∧
    (cfgd.resetContext 0 0).2 = 0 := by
  refine ⟨⟨mbytes lostImage.mem.bytes 0x1000 512, mbytes lostImage.mem.bytes 0x1000 (saveLen (leNat (mbytes lostImage.mem.bytes 0x1000 512))), ?_⟩, ?_⟩ <;>
    decide +kernel

/-! Witnesses: recovery, resets, configuration, bring-up. -/

/-- Cluster 0 with tile 0 muffled, the section of its battery held; two equal batteries, partition 0 set to skip or to relocate. -/
def heldUp : State := (((({ run with cfg := { run.cfg with
  clusters := [(0, { ClusterCfg.reset with valid := true, bats := [(0, 0x10000), (1, 0x10010)] })] } } : State).updBatX 0 0 (fun y =>
  { y with held := true })).updClY 0 (fun y => { y with muffled := [0] })).updPart 0 (fun x => { x with autoSkip := true, autoRelocate := true }))

/-- A bad tile's ledger state by code, with a retest. -/
def ledgered (st : Nat) : State := { cfgd with ledger := { Ledger.reset with
  work := [(ledgerNo 1 0, BitVec.ofNat 512 (16 * st))], retests := [(1, 0, 1000)] } }

theorem witness_UnitsMuffledAndReplaced :
    unitExists 1 0 = true ∧ unitExists 4 0 = true ∧ unitExists 4 511 = false ∧ (∀ o ∈ cfgd.orders, o.target ≠ 16) ∧
    unitTarget 1 0 = some (.cluster 0) ∧ cfgd.arbitrate 6 (.cluster 0) ≠ .superseded ∧ cfgd.unitVerdict 7 4 0 ≠ .superseded ∧
    ledState ((ledgered 0).ledgerOf 1 0) = 0 ∧ ledState ((ledgered 1).ledgerOf 1 0) = 1 ∧ ((ledgered 1).retestOf 1 0).isSome = true ∧
    2 ≤ ledState ((ledgered 2).ledgerOf 1 0) ∧ heldUp.unitMuffled 1 0 = true ∧ unitCode 1 0 ∉ heldUp.mesh.installing ∧
    (heldUp.batX 0 0).held = true ∧ (heldUp.batX 0 0).plan = 0 ∧ heldUp.compDown 50 = false ∧ heldUp.compDown 37 = false ∧ heldUp.mutedTile 0 0 = some 0 ∧
    heldUp.skipOpen 0 = true ∧ heldUp.cfg.swaps = [] ∧ (cfgd.mutedTile 0 0) = none ∧
    heldUp.relocTarget 0 0 img = some 1 ∧ (run.relocTarget 0 0 img) = none ∧
    cfgd.shifted 0 [0] 0 = [0] ∧ cfgd.shifted 0 [0] 9 = [] ∧
    ((heldUp.updClY 0 (fun y => { y with skips := [(0, 0, 0)] })).clY 0).skips.find? (fun e => e.1 == 0) = some (0, 0, 0) ∧
    (∀ n, n ∈ (cfgd.updBat 0 0 (fun x => { x with st := .loaded })).covering 0 0 →
      ((cfgd.updBat 0 0 (fun x => { x with st := .loaded })).bat 0 n).st = .loaded) := by decide +kernel


theorem witness_Resets :
    cfgd.ownsC (.pf 0) 0 = true ∧ cfgd.resettingC 0 = false ∧ cfgd.ownsC (.pf 1) 0 = false ∧
    ({ cfgd with orders := [{ target := 0, byReg := false, at_ := 0, held := false, auto := false }] } : State).arbitrate 4 (.cluster 0) = .superseded ∧
    (∀ r ∈ ((cfgd.updClY 0 (fun y => { y with isoActive := true, isoLeft := [5] })).clY 0).isoCmds, r.ctx ≠ 0) ∧
    cfgd.ownsP (.pf 0) 0 = true ∧ (cfgd.prec 0).isSome = true ∧ cfgd.arbitrate 3 (.part 0) = .proceed ∧
    ([{ target := 0, byReg := false, at_ := 0, held := false, auto := false }] : List Order).find? (fun o => o.target == 0) = some { target := 0, byReg := false, at_ := 0, held := false, auto := false } ∧
    mapped.partReady 0 = true ∧ (∀ q ∈ cfgd.mesh.net, q.key ≠ 0) ∧ cfgd.boot.powerGood = true ∧ cfgd.arbitrate 2 .module = .proceed ∧
    ((cfgd.updCtx 0 63 (fun c => { c with st := 8 })).ctx 0 63).st = 8 ∧
    ({ cfgd with health := { Health.reset with level := 4 } } : State).health.level = 4 := by decide +kernel


/-- The section of battery 0 of cluster 0 in COMMIT; a partition reset waiting and one that acts. -/
def inCommit : State := runB (fun b => { b with st := .commit })
theorem witness_Resets_commit :
    (∀ o ∈ cfgd.orders, o.held = false) ∧ (∀ e ∈ cfgd.bats, e.2.st ≠ .commit) ∧ inCommit.arbitrate 3 (.part 0) = .proceed ∧
    (∀ o ∈ inCommit.orders, o.held = false) ∧ (∃ e ∈ inCommit.bats, e.2.st = .commit ∧ inCommit.owns 0 (e.1 / 64) = true) ∧
    (∀ j ∈ cfgd.ring.jobs, j.owner.part ≠ 0) ∧ cfgd.health.escLimit < 6 ∧ 0 ≤ cfgd.health.escLimit ∧
    ((cfgd.updClY 0 (fun y => { y with isoActive := true, isoLeft := [5] })).clY 0).isoActive = true ∧
    cfgd.arbitrate 4 (.cluster 0) ≠ .superseded := by
  refine ⟨?_, ?_, ?_, ?_, ⟨_, List.mem_singleton.mpr rfl, ?_⟩, ?_⟩ <;> decide +kernel

theorem witness_SwapsAndEpochFlip :
    (fetchedIn cfgd 3 (rec_ 0x34 0)).fetchedCmd 0 0 3 0x34 = some (cmd 3 (rec_ 0x34 0)) ∧ bf (cmd 3 (rec_ 0x34 0)).bits 64 1 = 0 ∧
    bf (cmd 3 (rec_ 0x34 (2 ^ 48))).bits 64 1 = 1 ∧ cfgd.arbitrate 8 (bankTarget 16) = .proceed ∧
    ({ cfgd with orders := [{ target := 16, byReg := false, at_ := 0, held := false, auto := false }] } : State).arbitrate 8 (bankTarget 16) = .superseded ∧
    ((cfgd.updBank 16 (fun b => { b with shadow := 3 })).bank 16).shadow = 3 ∧ cfgd.cfg.swaps = [] ∧
    tfind [(0, cfgd.ccfg 0)] 0 = some (cfgd.ccfg 0) ∧ cfgd.swapBoundary 0 (cfgd.ccfg 0) = true ∧
    ({ cfgd with cfg := { cfgd.cfg with clusters := [(0, { ClusterCfg.reset with slices := (List.range 64).map (fun n => (n, n)) })] } } :
      State).sliceChanges 0 { ClusterCfg.reset with slices := (List.range 64).map (fun n => (n, n)) } 5 = false ∧
    ((cfgd.updRouter 0 (fun r => { r with shadowValid := true })).router 0).shadowValid = true ∧ (cfgd.router 15).shadowValid = false ∧
    cfgd.mesh.installing = [] := by decide +kernel


/-- The swap of cluster 0's image waiting for its boundary, to the image it has. -/
def flat : ClusterCfg := { ClusterCfg.reset with slices := (List.range 64).map (fun n => (n, n)) }
def swapping : State := { cfgd with cfg := { cfgd.cfg with
  clusters := [(0, flat)]
  clusterShadows := [(0, flat)]
  swaps := [{ target := 0, cmd := none, byBelfry := false, seq := 0, phase := 1 }] } }
theorem witness_SwapsAndEpochFlip_install :
    tfind swapping.cfg.clusterShadows 0 = some flat ∧ (∃ w ∈ swapping.cfg.swaps, w.target = 0 ∧ w.phase = 1) ∧
    swapping.swapBoundary 0 flat = true ∧ (∀ n, n < 64 → swapping.sliceChanges 0 flat n = false) := by
  refine ⟨?_, ⟨{ target := 0, cmd := none, byBelfry := false, seq := 0, phase := 1 }, ?_⟩, ?_⟩ <;> decide +kernel
theorem witness_SwapsAndEpochFlip_flip : ∀ c, c < 16 →
    ((({ cfgd with mesh := { cfgd.mesh with routers := (List.range 16).map (fun k => (k, { Router.reset with shadowValid := true })) } } : State).router
      c).shadowValid = true) := by decide +kernel

/-- Bring-up before stage s, its unit 0 to 3 started. -/
def starting (stage : Nat) : State := { State.reset with
  pwr := { Power.reset with pwrEn := true, on := true }
  boot := { Boot.reset with powerGood := true, cause := 1, stage, bundle := true, starts := (List.range 4).map (fun n => (stageKey stage n, 0)) } }

/-- A chip all of whose slices are spare has none to check a peal with. -/
theorem tget_all {α : Type} (v : α) : ∀ (t : Tbl α) (k : Nat), (∀ e ∈ t, e.2 = v) → k ∈ t.map (·.1) → ∀ d, tget t k d = v
  | [], _, _, h, _ => by simp at h
  | (a, x) :: r, k, hv, hk, d => by
    by_cases h : k = a
    · simpa [tget, h] using hv (a, x) (by simp)
    · simp only [tget, h, if_false]
      exact tget_all v r k (fun e he => hv e (by simp [he])) (by simpa [h] using hk) d

def unsliced : State := { starting 4 with mem := { MemSys.reset with slices := (List.range 1056).map (fun n => (n, { Slice.reset with st := 1 })) } }

theorem unsliced_peal : unsliced.pealSlices = none := by
  simp only [State.pealSlices, List.findSome?_eq_none_iff]
  intro c hc
  have h : ∀ ph ∈ List.range 66, (unsliced.slice c ph).st = 1 := by
    intro ph hp
    simp only [List.mem_range] at hc hp
    simp only [State.slice, unsliced]
    rw [tget_all { Slice.reset with st := 1 }]
    · simp
    · simp [sKey]; omega
  have e : (List.range 66).filter (fun ph => (unsliced.slice c ph).st == 0 && (unsliced.slice c ph).logical != 0x7F) = [] := by
    simp only [List.filter_eq_nil_iff]
    intro ph hp
    simp [h ph hp]
  simp [e]

/-- Cluster 0 with every tile muffled. -/
def mute : State := cfgd.updClY 0 (fun y => { y with muffled := List.range 272 })

theorem mute_all : (tilesOf 0).all (fun ta => mute.muffledTile ta) = true := by
  have hm : (mute.clY 0).muffled = List.range 272 := by decide +kernel
  simp only [List.all_eq_true, tilesOf, List.mem_flatMap, List.mem_map, List.mem_range]
  rintro ta ⟨x, hx, y, hy, rfl⟩
  have hc : taC (taddr 0 x y) = 0 := by simp only [taC, taddr, field]; omega
  have : 16 * taY (taddr 0 x y) + taX (taddr 0 x y) < 272 := by simp only [taX, taY, taddr, field]; omega
  simp only [State.muffledTile, hc, hm]
  simpa using this

theorem witness_PowerGoodToBringUp :
    ({ State.reset with pwr := { Power.reset with on := true } } : State).pwr.on = true ∧ State.reset.boot.powerGood = false ∧
    (starting 1).stageOpen 1 0 = true ∧ (starting 1).ledger.copyA = [] ∧ (starting 1).ledger.work = [] ∧
    (∀ p, p < 4 → ((starting 1).port p).perst = true) ∧ (starting 4).stageOpen 4 0 = true ∧ (starting 1).stageOpen 4 0 = false ∧
    0 ∈ stageUnits 4 ∧ (starting 5).stageOpen 5 3 = true ∧ (starting 5).stageOpen 5 4 = false ∧
    (tilesOf 0).all (fun ta => cfgd.muffledTile ta) = false ∧
    unsliced.pealSlices = none ∧ (tilesOf 0).all (fun ta => mute.muffledTile ta) = true ∧
    ((cfgd.chan 191).st = 0 ∧ ∃ n, n < 16 ∧ n ≠ 191 % 16 ∧ (cfgd.chan (16 * (191 / 16) + n)).st = 0) := by
  refine ⟨?_, ?_, ?_, ?_, ?_, ?_, ?_, ?_, ?_, ?_, ?_, ?_, unsliced_peal, mute_all, ?_⟩ <;> decide +kernel


/-- Stage 5 of cluster 0 with every tile muffled, and with a retest under way. -/
def mute5 : State := (starting 5).updClY 0 (fun y => { y with muffled := List.range 272 })
def retesting5 : State := { starting 5 with ledger := { Ledger.reset with retests := [(1, 0, 1)] } }

theorem witness_PowerGoodToBringUp_clusters :
    (starting 5).stageOpen 5 0 = true ∧ ((starting 5).clock 0).code = 40 ∧ ((starting 5).failUncoded 0).retestsHold 0 = false ∧
    (tilesOf 0).all (fun ta => ((starting 5).failUncoded 0).muffledTile ta) = false ∧ (retesting5.failUncoded 0).retestsHold 0 = true ∧
    (starting 1).boot.cause = 1 ∧ (starting 4).boot.bundle = true ∧
    (((starting 5).updCl 0 (fun x => { x with clk := { x.clk with code := 41 } })).clock 0).code ≠ 40 ∧
    (({ cfgd with boot := { cfgd.boot with fpValid := true }, health := { Health.reset with fpStale := true } } : State).boot.fpValid = true) := by
  decide +kernel

theorem witness_PowerGoodToBringUp_mute : mute5.stageOpen 5 0 = true ∧ (mute5.failUncoded 0).retestsHold 0 = false ∧
    (tilesOf 0).all (fun ta => (mute5.failUncoded 0).muffledTile ta) = true := by decide +kernel

/-- The module before its firmware, stage 3 started. -/
def bare : State := { starting 3 with boot := { (starting 3).boot with done := 2, bundle := false } }

/-- Trace point 130 of the power-management core enabled, and its component 1 with n entries in this millisecond. -/
def traced (n : Nat) : State := { cfgd with log := { cfgd.log with traceEn := [(4, 4)], traced := [(17, (0, n))] } }

/-- Some components down. -/
def downed (l : List Nat) : State := { cfgd with fw := { Firmware.reset with down := l } }

theorem witness_held_duties :
    (downed [17]).compDown 17 = true ∧ ((downed [17]).clock 0).lowered = false ∧
    ((downed [17]).updClock 0 (fun k => { k with lowered := true, target := some 39 })).compDown 17 = true ∧
    (downed [36]).compDown 36 = true ∧ (downed [37]).compDown 37 = true ∧ (downed [51]).compDown (16 * (3 + 0) + 3) = true ∧
    cfgd.compDown 17 = false ∧ cfgd.compDown 36 = false ∧ cfgd.compDown 37 = false ∧ cfgd.compDown 51 = false ∧ up.compDown 36 = false ∧
    (downed [17]).compDown (17 / 16 * 16) = false ∧ cfgd.skipPending 16 = false ∧
    (cfgd.updClY 3 (fun y => { y with skips := [(0, 0, 0)] })).skipPending 16 = true ∧
    (cfgd.updPort 1 (fun q => { q with perst := false })).boot.starts = [] ∧
    ((cfgd.updPort 1 (fun q => { q with perst := false })).port 1).perst = false := by decide +kernel

theorem witness_FirmwareAndComponents :
    bare.boot.done.testBit 1 = true ∧ (bare.loader 0).go = false ∧ bf (1#64) 32 25 ≤ 16777216 ∧ bare.fw.loadBy = none ∧
    bare.stageOpen 3 0 = true ∧ fwCheck [] 0 0 ≠ 0 ∧ cfgd.compDown 303 = false ∧
    cfgd.now :: (tget cfgd.fw.times 17 []).filter (fun t => decide (cfgd.now < t + 60000000000)) = [0] ∧
    ({ cfgd with fw := { Firmware.reset with down := [17] } } : State).compDown 17 = true ∧ 17 % 16 ≠ 0 ∧
    (cfgd.tile 0).test.faults3 = [] ∧ (cfgd.clX 0).checks = [] ∧ cfgd.health.slices = [] ∧ cfgd.boot.powerGood = true ∧ cfgd.pointOn 130 = false ∧
    (traced 63).pointOn 130 = true ∧ pointCore 130 = min (17 / 16) 3 ∧ pointCore 1023 = min (303 / 16) 3 ∧ (traced 63).tracedNow 17 < 64 ∧
    64 ≤ (traced 64).tracedNow 17 := by decide +kernel


/-- The module with wavelength 0 of port 0 in some state, or the ports in some state. -/
def waved (f : Wave → Wave) : State := cfgd.updWave (waveNo 0 0) f
def ported (f : RingPort → RingPort) : State := (cfgd.updRport 0 f).updRport 1 f

theorem witness_RingWavelengths :
    (cfgd.wave (waveNo 3 33)).muffled = false ∧ ((waved (fun w => { w with muffled := true })).wave (waveNo 0 0)).muffled = true ∧
    (cfgd.wave (waveNo 0 0)).carry = false ∧ ((waved (fun w => { w with lossAt := some 0 })).wave (waveNo 0 0)).lossAt = some 0 ∧
    (0 : Nat) + 60 ≤ (aged 60).ledger.opSec ∧ (0x1FE00 : Nat).testBit 8 = false ∧ field 0x1FE00 17 3 = 0 ∧
    field 0x1FE00 0 8 = ((cfgd.wave (waveNo 0 0)).inOrder + 1) % 256 ∧ (0x20100 : Nat).testBit 8 = true ∧ field 0x20100 17 3 = 1 ∧
    (hourWindow cfgd.ledger.opSec (cfgd.wave (waveNo 0 0)).cwErrs).2 = false ∧
    (hourWindow 0 (List.replicate 15 0)).2 = true ∧ cfgd.boot.bundle = true ∧
    ((ported (fun q => { q with st := 2 })).rport 0).st = 2 ∧
    ({ cfgd with ledger := { Ledger.reset with retests := [(8, waveNo 0 0, 2)] } } : State).retestOf 8 (waveNo 0 0) = some 2 ∧
    ({ cfgd with ledger := { Ledger.reset with retests := [(8, waveNo 0 0, 3)] } } : State).retestOf 8 (waveNo 0 0) = some 3 := by decide +kernel


theorem witness_RingPortsAndRegisters :
    (cfgd.rport 0).st = 0 ∧ 7 ≤ cfgd.boot.stage ∧ ((ported (fun q => { q with st := 1 })).rport 0).st = 1 ∧
    (ported (fun q => { q with st := 1 })).mayOpen 0 = true ∧ cfgd.mayOpen 1 = false ∧
    ((ported (fun q => { q with st := 1, bypassOpen := true })).rport 0).bypassOpen = true ∧
    ((ported (fun q => { q with st := 1, bypassOpen := true })).rport 0).held = [] ∧
    (cfgd.wave 0).muffled = false ∧ (cfgd.wave 0).replay = [] ∧ cfgd.ring.jobs = [] ∧ cfgd.boot.bundle = true ∧
    cfgd.ownsG (.pf 0) = true ∧ cfgd.ownsG (.pf 1) = false ∧ (cfgd.unlatch (.pf 0)).arbitrate 8 (.part 0) = .proceed ∧
    bf (5#64) 0 16 ≠ 0 ∧ (∀ e ∈ cfgd.ring.keys, e.1 ≠ 0 → e.2 ≠ (5, true)) := by decide +kernel

theorem witness_RingPortsAndRegisters_waves : ∀ n, ((ported (fun q => { q with st := 1, bypassOpen := true })).wave n).muffled = false ∧
    ((ported (fun q => { q with st := 1, bypassOpen := true })).wave n).replay = [] := fun _ => ⟨rfl, rfl⟩

/-- A RING_OP of members 0 and 1: reduce 8 elements on ring 0. -/
def ringRec : BitVec 512 := BitVec.ofNat 512 (0x20 + 2 ^ 74 + 2 ^ 128 * 0x1000 + 2 ^ 192 * 0x2000 + 2 ^ 256 * 8 + 2 ^ 320 * 3)
def ringed : State := { mapped with ring := { mapped.ring with
  index := 0, size1 := 1, valid := true, census := [(0, (0, true))], keys := [(0, (9, true))] } }
def job : RingJob := { cmd := cmd 2 ringRec, owner := i0, cluster := 0, src := [(0x1000, 32)], dst := [(0x2000, 32)], credits := [], unacked := []
                       data := [(1, 0, List.replicate 32 0)], sent := [(1, 1)], seqOut := [], seqIn := [], preemptAt := none }
def ringing : State := { ringed with ring := { ringed.ring with jobs := [job] } }
/-- What RING_DONE finds after the job went on. -/
def pushed (s : State) : State := (s.ring.jobs.filter (fun j => j.cmd.part == 0 && j.cmd.ctx == 0)).foldl (fun s j => s.pushJob j) s
/-- The same with a lost line under the source. -/
def ringingLost : State := { ringing with mem := { ringing.mem with poison := [0x40] } }

theorem witness_RingOperations :
    ((ringed.updRport 0 (fun q => { q with st := 2 })).rport 0).st = 2 ∧
    field (field (2 ^ 12) 0 256) 12 6 ≠ ringed.ring.index ∧ field (field (9 * 2 ^ 20) 0 256) 12 6 = ringed.ring.index ∧
    ringed.ringKeyOwner (field (field (2 ^ 20) 0 256) 20 16) = none ∧ ringed.ringKeyOwner (field (field (9 * 2 ^ 20) 0 256) 20 16) = some 0 ∧
    ringing.jobOf 0 0 = some job ∧ field (field (9 * 2 ^ 20) 0 256) 52 4 = ringOpc job.cmd.bits ∧
    mapped.fetchedCmd 0 0 2 0x20 = none ∧ (fetchedIn ringed 2 ringRec).fetchedCmd 0 0 2 0x20 = some (cmd 2 ringRec) ∧
    (ringed.ring.jobs.filter (fun j => j.cluster == 0)).length < 4 ∧ 4 ≤ ((List.replicate 4 job).filter (fun j => j.cluster == 0)).length ∧
    ringed.isolated 0 2 0 0 = false ∧ (((fetchedIn ringed 2 ringRec).startCmd (cmd 2 ringRec)).clY 0).ready = true ∧
    ((fetchedIn ringed 2 ringRec).startCmd (cmd 2 ringRec)).ringConsistent 0 ringRec = true ∧
    ((fetchedIn ringed 2 (rec_ 0x20 0)).startCmd (cmd 2 (rec_ 0x20 0))).ringConsistent 0 (rec_ 0x20 0) = false ∧
    (ringsOf ringRec).all (fun g => !ringed.ringOk g) = false ∧ (ringsOf ringRec).all (fun g => !mapped.ringOk g) = true ∧
    (ringed.ringPages i0 false ((ringSizes ringRec).1 / 65536 + 2) 0x1000 (ringSizes ringRec).1).2.toOption = some [(0x1000, 32)] ∧
    (ringed.ringPages i0 true ((ringSizes ringRec).2 / 65536 + 2) 0x2000 (ringSizes ringRec).2).2.toOption = some [(0x2000, 32)] ∧
    job.preemptAt = none := by
  decide +kernel

theorem witness_RingOperations_done :
    (pushed ringing).ring.jobs.find? (fun j => j.cmd.part == 0 && j.cmd.ctx == 0 && (pushed ringing).jobDone j &&
      !(pushed ringing).jobHeld j) = some job ∧ (pushed ringing).lostRead ((pushed ringing).ownRanges job) = false ∧
    (pushed ringed).ring.jobs.find? (fun j => j.cmd.part == 0 && j.cmd.ctx == 0 && (pushed ringed).jobDone j &&
      !(pushed ringed).jobHeld j) = none ∧
    (pushed ringingLost).ring.jobs.find? (fun j => j.cmd.part == 0 && j.cmd.ctx == 0 && (pushed ringingLost).jobDone j &&
      !(pushed ringingLost).jobHeld j) = some job ∧ (pushed ringingLost).lostRead ((pushed ringingLost).ownRanges job) = true := by
  decide +kernel

theorem witness_RingOperations_reach :
    (ringed.reachAll 0 i0 3 0 [0x1000, 0x2000]).2 = 0 ∧ bf ringRec 64 4 = 0 ∧ ringing.ring.jobs = [job] ∧ ringing.ring.jobs ≠ [] ∧
    job.cmd.part = 0 ∧ job.cmd.ctx = 0 ∧ ({ job with preemptAt := some 0 } : RingJob).preemptAt = some 0 ∧
    ringing.now < 0 + 50000000 ∧ 0 + 50000000 ≤ ({ ringing with now := 50000000 } : State).now ∧
    field (field (9 * 2 ^ 20) 0 256) 0 4 = 0 := by decide +kernel

/-- The bytes of a device-level image without partitions: dimension-order routes, empty key masks, and its CRC. -/
def routeRec (c : Nat) : List Byte := leBytes 8 (0x102 + 64 * 2 ^ 32) ++ leBytes 8 c ++ (List.range 24).flatMap (fun e =>
  let d := nodeRouter e
  let esc := if c = d then (if e < 16 then 4 else 5) else dimPort false c d
  leBytes 2 (2 ^ esc + 256 * esc)) ++ leBytes 8 0
def devBody : List Byte :=
  leBytes 64 (0x4D4C4731 + 2 ^ 32 + 0xB4 * 2 ^ 48 + 2 ^ 64 + 32 * 2 ^ 96 + 1608 * 2 ^ 128 + 1536 * 2 ^ 160 + 7 * 2 ^ 192) ++
    (List.range 16).flatMap routeRec ++ (List.range 16).flatMap (fun c => leBytes 8 (0x103 + 16 * 2 ^ 32) ++ leBytes 16 c)
def devImage : List Byte := devBody ++ leBytes 8 (crc32c devBody).toNat

/-- A PF that stages it. -/
def staging (image : List Byte) : State := { cfgd with cfg := { cfgd.cfg with
  stagers := [(0, { Stager.reset with go := true, lenNow := image.length, bankNow := 16, buf := mwriteBytes [] 0 image })] } }

set_option maxRecDepth 100000 in
theorem devImage_valid : (cfgd.validate 16 devImage).1 = 0 := by decide +kernel

theorem staging_bytes (l : List Byte) : ((staging l).stager 0).go = true ∧ ((staging l).stager 0).bankNow = 16 ∧
    mbytes ((staging l).stager 0).buf 0 ((staging l).stager 0).lenNow = l ∧ ∀ bs, (staging l).validate 16 bs = cfgd.validate 16 bs :=
  ⟨rfl, rfl, mbytes_mwriteBytes rfl 0 l, fun _ => rfl⟩

theorem staging_valid : ((staging devImage).stager 0).go = true ∧ ((staging devImage).stager 0).bankNow = 16 ∧
    ((staging devImage).validate 16 (mbytes ((staging devImage).stager 0).buf 0 ((staging devImage).stager 0).lenNow)).1 = 0 := by
  rw [(staging_bytes devImage).1, (staging_bytes devImage).2.1, (staging_bytes devImage).2.2.1, (staging_bytes devImage).2.2.2]
  exact ⟨rfl, rfl, devImage_valid⟩

theorem witness_StagingAndValidation :
    (0x3FFFFF : Nat) + [1].length ≤ 0x400000 ∧ cfgd.boot.bundle = true ∧ (cfgd.stager 0).go = false ∧
    (0xFFFFFF : Nat) + [1].length ≤ 0x1000000 ∧ (tget cfgd.fw.loads 0 FwStager.reset).go = false ∧
    bf (1#64) 32 23 ≤ 4194304 ∧ (1#64).toNat.testBit 0 = true ∧ (if (1#64).toNat.testBit 1 then bf (1#64) 2 4 else 16) = 16 ∧
    cfgd.ownsG (.pf 0) = true ∧ (cfgd.stageGo 0 16 0).2 = 0 ∧ (cfgd.bank 16).shadow ≠ 1 ∧ cfgd.arbitrate 8 (bankTarget 16) = .proceed ∧
    cfgd.boot.readyClusters.testBit 0 = true ∧ ((staging []).validate 16 (mbytes [] 0 0)).1 ≠ 0 ∧ (∀ w ∈ cfgd.cfg.swaps, w.target ≠ 16) ∧
    ((staging []).stager 0).go = true ∧ bf (1#64) 32 23 ≤ 4194304 := by decide +kernel


/-! Witnesses: registers, host ports, the belfry, management, power. -/

theorem witness_RegisterAccesses :
    regular 0x3A (sizeBytes .b4) = false ∧ regular 0x38 8 = true ∧ regular 0x38 4 = true ∧ regular 0x3C (sizeBytes .b8) = false ∧
    regular 2 2 = false ∧ State.reset.mapOff (.vf 0 0) 0 = none ∧ cfgd.boot.bundle = true ∧ cfgd.ownsG (.pf 0) = true ∧
    800 ≤ bf (800#64) 0 12 ∧ bf (2000#64) 0 12 ≤ 2000 ∧ bf (799#64) 0 12 < 800 ∧ 2000 < bf (2001#64) 0 12 ∧ cfgd.ownsG (.pf 1) = false ∧
    State.reset.boot.bundle = false ∧ 0x14 % 8 = 4 ∧ cfgd.hosts.latch = [] := by decide

theorem witness_RegisterAccesses_owned : cfgd.unowned (.pf 0) 0x14 = false ∧ cfgd.unowned (.pf 1) 0x10000 = true ∧ cfgd.unowned (.pf 0) 0x10000 = false ∧
    regular 3 4 = false ∧ cfgd.ownsG (.pf 1) = false ∧ (0x10000 : Nat) % 8 = 0 := by decide +kernel

/-- Partition 0 given to port 1, so that port 0 owns none. -/
def elsewhere : State := { up with cfg := CfgSys.reset }

theorem witness_HostPortResets :
    (up.port 0).perst = false ∧ (State.reset.port 3).perst = true ∧ State.reset.boot.done.testBit 1 = false ∧ up.boot.done.testBit 1 = true ∧
    (up.port 1).perst = true ∧ up.stageOpen 2 0 = false ∧ (up.port 0).l0 = true ∧ (up.port 0).d3 = [] ∧ (up.port 1).l0 = false ∧
    (∀ e ∈ elsewhere.cfg.dev.parts, e.2.owner ≠ 0) := by decide

theorem witness_HostPortResets_functions : cfgd.fnEnabled 0 0 = true ∧ cfgd.fnEnabled 0 1 = false ∧
    ({ cfgd with cfg := { cfgd.cfg with dev := { cfgd.cfg.dev with
      parts := [(0, { clusters := 1, owner := 0, vf := 1, hbm := 1, far := 0, key := 1, resetKey := 1 })] } } } : State).fnEnabled 0 1 = true := by decide

/-- Window 0 of port 0 bound to context 0 at VA 0. -/
def windowed : State := { mapped with hosts := { mapped.hosts with windows := [(0, { Window.reset with valid := true })] } }

theorem witness_HostPortAccesses :
    (State.reset.port 0).up = false ∧ (windowed.port 0).up = true ∧ 1047 < (if (0 : Nat) = 0 then 1048 else 65) ∧ windowed.boot.bundle = true ∧
    30 ≤ 30 ∧ 39 ≤ 39 ∧ mapped.bar2Va 0 0x1000 4 = none ∧ windowed.bar2Va 0 0x1000 4 = some (i0, 0x1000) ∧
    ((windowed.unlatch (.pf 0)).devPages i0 false 2 0x1000 4).2.toOption = some [(0x1000, 4)] ∧
    ((windowed.unlatch (.pf 0)).devPages i0 true 2 0x1000 4).2.toOption = some [(0x1000, 4)] ∧
    windowed.poisoned 0x1000 4 = false ∧ ({ windowed with mem := { windowed.mem with poison := [0x40] } } : State).poisoned 0x1000 4 = true ∧
    windowed.locked 0x1000 4 true none = false ∧ windowed.partPoison 0x1000 4 = false := by decide +kernel


/-- What a look at a BAR2 operation answers. -/
def lookCode : State × Bar2Res → Nat
  | (_, .fails) => 0
  | (_, .waits) => 1
  | (_, .pages _) => 2
def readOp : Bar2Op := { write := false, addr := 0x1000, len := 4, data := [] }
def writeOp : Bar2Op := { write := true, addr := 0x1000, len := 4, data := [1, 2, 3, 4] }
def lookAt (s : State) (x : Bar2Op) : State := (s.unlatch (.pf 0)).updPort 0 (fun y => { y with held := [x] })
def lockedBar : State := { windowed with bats := [(0, { Battery.reset with
  st := .run, active := some img, owner := some i0, locks := true, regions := [{ out := true, va := 0x1000, dpa := 0x1000, len := 0x100 }] })] }

theorem witness_HostPortAccesses_looks :
    (windowed.port 0).held = [] ∧ lookCode ((lookAt windowed readOp).bar2Look 0 readOp) = 2 ∧ lookCode ((lookAt windowed writeOp).bar2Look 0 writeOp) = 2 ∧
    lookCode ((lookAt mapped readOp).bar2Look 0 readOp) = 0 ∧ lookCode ((lookAt lockedBar readOp).bar2Look 0 readOp) = 1 ∧
    (lookAt windowed readOp).bar2Va 0 0x1000 4 = some (i0, 0x1000) ∧
    (((lookAt windowed readOp).devPages i0 false 2 0x1000 4).1.reachAll (portNode 0) i0 4 0 [0x1000]).2 = 0 ∧
    windowed.fnEnabled 0 0 = true ∧ windowed.fnEnabled 0 1 = false := by decide +kernel

/-- For any MAC that the port computes, and any other; sequence numbers at the highest accepted and above it. -/
theorem witness_BelfryRequests :
    managerType 0x1F = false ∧ managerType 0x2B = false ∧ cfgd.bfUp 1 = false ∧ cfgd.bfUp 0 = true ∧
    (∃ mac, mac = cfgd.tagOf 0x20 0 0 0 []) ∧ (∃ mac, mac ≠ cfgd.tagOf 0x20 0 0 0 []) ∧ 0 ≤ cfgd.belfry.high ∧
    cfgd.belfry.kept.find? (fun k => k.1 == 0) = none ∧
    ({ cfgd with belfry := { cfgd.belfry with kept := [(0, 7)] } } : State).belfry.kept.find? (fun k => k.1 == 0) = some (0, 7) := by
  refine ⟨by decide, by decide, by decide, by decide, ⟨_, rfl⟩, ⟨cfgd.tagOf 0x20 0 0 0 [] + 1, ?_⟩, by decide, by decide, by decide⟩
  intro h
  have : (1 : BitVec 128) = 0 := by simpa using congrArg (· - cfgd.tagOf 0x20 0 0 0 []) h
  exact absurd this (by decide)


/-- Whether a wrapped key unwraps is free: one of the two cases of KEY_SET holds of every payload. -/
theorem witness_BelfryResponses :
    cfgd.bfUp 0 = true ∧ cfgd.belfry.high < 1 ∧ (∃ mac, mac = cfgd.tagOf 0x20 0 1 0 (leBytes 8 0xFFFF)) ∧
    bfFits (leBytes 8 0xFFFF) 8 (bitMask [(0, 16)]) = true ∧ bfFits (leBytes 8 0x10000) 8 (bitMask [(0, 16)]) = false ∧
    ({ State.reset with boot := { Boot.reset with powerGood := true } } : State).readReady 0 0 = false ∧ cfgd.boot.bundle = true ∧
    bfFits (leBytes 10 (3 + 0xFFC00 * 2 ^ 32 + 1024 * 2 ^ 64)) 10 (bitMask [(0, 4), (32, 48)]) = true ∧ 0xFFC00 + 1024 ≤ objectSize 3 ∧
    bfFits (leBytes 10 (4 + 0x38 * 2 ^ 32 + 8 * 2 ^ 64)) 10 (bitMask [(0, 4), (32, 48)]) = true ∧
    bfFits (leBytes 16 (0x38 + 2000 * 2 ^ 64)) 16 (bitMask [(0, 32), (64, 64)]) = true ∧ writable 0x38 = true ∧ writable 0 = false ∧
    bfFits (leBytes 8 3) 8 3 = true ∧ (up.belfry.high < 1 ∧ { up with boot := { up.boot with bundle := false } }.bfUp 0 = true) ∧
    (leBytes 40 5).length = 40 ∧ managerType 0x2B = false ∧
    ((∃ key, Config.aesUnwrap cfgd.belfry.key (BitVec.ofNat 320 5) = some key) ∨ Config.aesUnwrap cfgd.belfry.key (BitVec.ofNat 320 5) = none) := by
  refine ⟨by decide, by decide, ⟨_, rfl⟩, ?_, ?_, ?_, ?_, ?_, ?_, ?_, ?_, ?_, ?_, ?_, ?_, ?_, ?_, ?_⟩
  case refine_15 => cases Config.aesUnwrap cfgd.belfry.key (BitVec.ofNat 320 5) with
    | none => exact .inr rfl
    | some k => exact .inl ⟨k, rfl⟩
  all_goals decide +kernel


theorem witness_BelfryOrdersAndStaging :
    cfgd.bfUp 0 = true ∧ cfgd.belfry.high < 1 ∧ cfgd.boot.bundle = true ∧ (∃ mac, mac = cfgd.tagOf 0x24 0 1 0 (orderBytes 1 (leBytes 8 0))) ∧
    (∀ n, n < 9 → bfFits (orderBytes n (leBytes 8 0)) 8 (bitMask [(0, 42)]) = true) ∧ field (leNat (leBytes 8 0)) 18 2 ≠ 3 ∧
    unitExists (field (leNat (leBytes 8 (2 ^ 22))) 22 4) (field (leNat (leBytes 8 (2 ^ 22))) 26 16) = true ∧ cfgd.belfry.waits = [] ∧
    bfFits ((leBytes 8 4194300 ++ [1, 2, 3, 4]).take 8) 8 (bitMask [(0, 32)]) = true ∧ (4194300 : Nat) + 4 ≤ 4194304 ∧
    (cfgd.stager 4).go = false ∧ (({ cfgd with cfg := { cfgd.cfg with stagers := [(4, { Stager.reset with go := true })] } } : State).stager 4).go = true ∧
    bfFits (leBytes 8 (2 ^ 32 * 4194304)) 8 (bitMask [(0, 5), (32, 23)]) = true ∧ bfFits (leBytes 8 31) 8 (bitMask [(0, 5)]) = true := by
  refine ⟨by decide, by decide, by decide, ⟨_, rfl⟩, ?_⟩
  decide +kernel


theorem witness_ManagementPortsAndSmbus :
    cfgd.boot.powerGood = true ∧ State.reset.boot.powerGood = false ∧ cfgd.compDown 2 = false ∧
    ({ cfgd with fw := { cfgd.fw with down := [2] } } : State).compDown 2 = true ∧ cfgd.bfUp 0 = true ∧ cfgd.bfUp 1 = false ∧
    cfgd.bfLink 0 = true ∧ cfgd.bfLink 1 = false ∧ (∃ mac, mac = cfgd.tagOf 0x21 0 0 5 []) ∧ (∃ target, target ≠ linkLocal 0) ∧
    cfgd.smbus.causes = 0 ∧ ({ cfgd with smbus := { cfgd.smbus with causes := 2 } } : State).smbus.causes ≠ 0 := by
  refine ⟨by decide, by decide, by decide, by decide, by decide, by decide, by decide, by decide, ⟨_, rfl⟩, ⟨_, Nat.succ_ne_self _⟩, by decide, by decide⟩


/-- The monitor at a level; whether a token's signature verifies is free. -/
def monitored (level : Nat) : State := { cfgd with mon := { Monitor.reset with level } }

theorem witness_MonitorCommandsAndUnlocking :
    cfgd.monUp = true ∧ cfgd.boot.bundle = true ∧ ({ up with boot := { up.boot with bundle := false } } : State).monUp = true ∧
    (monitored 0).mon.level = 0 ∧ (monitored 1).mon.level = 1 ∧ (monitored 2).mon.level = 2 ∧ (monitored 1).monUp = true ∧
    regAt 0x38 = some .glbPwrCap ∧ 64 ≤ 18647 ∧ cfgd.mon.backoff = false ∧ cfgd.tokenOk [] = false ∧
    ({ cfgd with now := 60000000000, mon := { Monitor.reset with backoff := true } } : State).mon.backoffAt + 60000000000 ≤ 60000000000 ∧
    (monitored 1).mon.expires ≤ (monitored 1).now ∧
    (0 < 5 ∧ 0 < ({ monitored 1 with mon := { (monitored 1).mon with expires := 5 } } : State).mon.lastInput + 600000000000) := by decide +kernel


theorem witness_PhysicalSignals :
    9999 < 10000 ∧ cfgd.boot.powerGood = true ∧ State.reset.boot.powerGood = false ∧
    (({ cfgd with pwr := { cfgd.pwr with modRst := true } } : State).orderChipReset false).1.stageOpen 1 0 = false ∧
    ({ cfgd with pwr := { cfgd.pwr with modRst := true } } : State).pwr.modRst = true ∧ State.reset.pwr.modRst = false ∧
    State.reset.pwr.on = false ∧ State.reset.pwr.offAt = none ∧ 4400 ≤ ({ Power.reset with vin := 4400 } : Power).vin ∧
    ({ Power.reset with vin := 5601 } : Power).vin > 5600 ∧ ({ Power.reset with offAt := some 5 } : Power).offAt ≠ none ∧ cfgd.pwr.on = true ∧
    ({ cfgd.pwr with inlet := 15, outlet := 65 } : Power).inlet ≤ 42 ∧ ({ cfgd.pwr with inlet := 43 } : Power).inlet ≠ 0 ∧
    ({ cfgd.pwr with vinShut := true, vinNs := 10000000 } : Power).vinBand = 0 ∧ cfgd.pwr.vinShut = false ∧
    vinBandOf 4399 = 1 ∧ vinBandOf 4400 = 0 ∧ vinBandOf 5801 = 2 := by decide +kernel


theorem witness_PowerLoops :
    cfgd.boot.bundle = true ∧ cfgd.compDown 17 = false ∧ (cfgd.clY 0).ready = true ∧ (cfgd.clock 0).pinned = false ∧
    (cfgd.clock 0).target = none ∧ (cfgd.clock 0).tapHold = false ∧ 40 < ((clocked (fun k => { k with code := 41 })).clock 0).code ∧
    (cfgd.clY 0).allot < 1 ∧ 32 < (cfgd.clock 0).code ∧ 0 ≤ cfgd.pwr.ilim ∧ (∀ c, c < 16 → (cfgd.clY c).temp < 103) ∧
    ({ cfgd.pwr with noExcessUs := 89 } : Power).noExcessUs + 10 < 100 ∧ cfgd.pwr.ilim < cfgd.pwr.ilim + 1 ∧
    (∀ c, c < 16 → ([] : List Nat).getD c 0 ≤ (cfgd.clY c).allot) ∧
    (let s : State := { cfgd with fw := { cfgd.fw with down := [17, 18] } }; s.compDown 17 = true ∧ s.compDown 18 = true) ∧ [95][0]? = some 95 ∧
    (List.replicate 16 0).length = 16 ∧ (List.replicate 16 0).foldl (· + ·) 0 ≤ 0 ∧ (∀ c, c < 16 → cfgd.idleCl c = true) ∧
    0 + 32000 + (0 - 0) + 40000 ≤ cfgd.pwr.capW * 1000 := by decide +kernel

/-- Clusters with a measured draw, a clock and a temperature; a limited input. -/
def drawing (allot : Nat) (f : Clock → Clock) : State := (clocked f).updClY 0 (fun y => { y with allot, headroom := true })
def hot (t : Nat) : State := cfgd.updClY 3 (fun y => { y with temp := t })

theorem witness_PowerLoops_dvfs :
    (cfgd.clY 1).ready = false ∧ cfgd.strictCl 0 = false ∧ ((clocked (fun k => { k with pinned := true })).clock 0).pinned = true ∧
    ((clocked (fun k => { k with tapHold := true, code := 41 })).clock 0).tapHold = true ∧
    ((clocked (fun k => { k with tapHold := true, code := 41 })).clock 0).target = none ∧
    ((clocked (fun k => { k with target := some 41 })).clock 0).target ≠ none ∧
    ((clocked (fun k => { k with code := 32 })).clock 0).code ≤ 32 ∧ ((drawing 100 id).clY 0).headroom = true ∧
    ((drawing 100 id).clock 0).inhibit = false ∧ ((drawing 100 id).clock 0).code * 50 + 3 * 50 ≤ ((drawing 100 id).clY 0).allot * ((drawing 100 id).clock 0).code ∧
    ((drawing 100 id).clY 0).allot * ((drawing 100 id).clock 0).code < ((drawing 100 id).clock 0).code * 99 + 3 * 99 ∧
    ((clocked (fun k => { k with lowered := true, dvfs := 54 })).clock 0).code < 54 ∧ (cfgd.clock 0).lowered = false ∧
    ((clocked (fun k => { k with lowered := true, dvfs := 30 })).clock 0).dvfs ≤ ((clocked (fun k => { k with lowered := true, dvfs := 30 })).clock 0).code := by
  decide +kernel

theorem witness_PowerLoops_limits :
    (List.range 16).filter (fun c => decide ((cfgd.clY c).allot < ([1] : List Nat).getD c 0)) = [0] ∧
    (List.range 16).filter (fun c => (decide (cfgd.pwr.ilim < cfgd.pwr.ilim + 1) && (([0] : List Nat).isEmpty || ([0] : List Nat).contains c)) ||
      decide (103 ≤ (cfgd.clY c).temp) || decide (140000 < ([] : List Nat).getD c 0)) = [0] ∧
    (List.range 16).filter (fun c => (decide ((hot 103).pwr.ilim < 0) && (([] : List Nat).isEmpty || ([] : List Nat).contains c)) ||
      decide (103 ≤ ((hot 103).clY c).temp) || decide (140000 < ([140001] : List Nat).getD c 0)) = [0, 3] ∧
    cfgd.compDown 18 = false ∧ ([60, 70] : List Nat)[1]? = some 70 ∧ 31 / 16 = 1 ∧ (List.replicate 44 90)[223 - 180]? = some 90 ∧ (2 : Nat) ≤ 2 ∧
    (List.range 16).filter (fun c => cfgd.idleCl c) = List.range 16 ∧
    (List.range 16).filter (fun c => !cfgd.idleCl c && cfgd.pinnedCl c) = [] ∧
    (List.range 16).filter (fun c => !run.idleCl c && !run.pinnedCl c) = [0] ∧
    (List.range 16).filter (fun c => !(run.updClock 0 (fun k => { k with pinned := true })).idleCl c &&
      (run.updClock 0 (fun k => { k with pinned := true })).pinnedCl c) = [0] ∧
    2000000 - (0 - 0) - 40000 < 16 * 200000 := by decide +kernel

/-- An image whose entry pops an empty FIFO. -/
def imgPop : SecImage := { img with tiles := [(0, { TileImg.reset with sched := [BitVec.ofNat 64 6] })] }

theorem witness_RunCycles :
    (cfgd.bat 0 0).active = none ∧ (armed.bat 0 0).st ≠ .run ∧ ((runB (fun x => { x with endPending := true })).bat 0 0).endPending = true ∧
    (∃ e ∈ run.batTiles 0 0, ((runT (fun t => t.updNet (fun x => { x with hold := 0 }))).tile e.2).net.due = true) ∧
    (∀ e ∈ run.batTiles 0 0, (run.tile e.2).net.due = false ∧ (run.bat 0 0).passDue img (run.tile e.2).test.passIdx = false) ∧
    ((run.batTiles 0 0).map (·.1)).Nodup ∧ ((run.batTiles 0 0).map (·.2)).Nodup ∧
    (tileCycle (run.tile 0) (img.tileAt 0) true (actOf [] 0)).faults = [] ∧
    (tileCycle (run.tile 0) (imgPop.tileAt 0) true (actOf [] 0)).faults = [(St.scheduleViolation, tileDetail 6 0 0 0)] ∧
    ({ TileNet.reset with ended := true } : TileNet).ended = true ∧ ({ TileNet.reset with inPad := true } : TileNet).inPad = true := by
  decide +kernel


/-- The section in its cycle n, of an image whose entry pops an empty FIFO or of the plain one. -/
def cycled (n : Nat) (i : SecImage) : State := runB (fun b => { b with cycle := n, active := some i })

theorem witness_RunCycles_due :
    (streaming.bat 0 0).active = some imgS ∧ (streaming.bat 0 0).takeDue imgS = true ∧ ((cycled 0 img).bat 0 0).takeDue img = false ∧
    (∀ e ∈ (cycled 0 imgPop).batTiles 0 0, (cycled 0 imgPop).tileDue ((cycled 0 imgPop).bat 0 0) imgPop e.2 = false) ∧
    ((cycled 63 img).bat 0 0).cycle + 1 = img.cycles ∧ ((cycled 0 imgPop).bat 0 0).cycle + 1 ≠ imgPop.cycles ∧
    (((cycled 0 imgPop).fault 0 0 [SecFault.mk St.scheduleViolation 0 0 0]).bat 0 0).faults ≠ [] ∧
    ((cycled 0 img).bat 0 0).faults = [] := by decide +kernel

/-! Witnesses: the frames and the whole machine. -/

/-- A command of each kind that the frames speak of answers a next state. -/
theorem witness_ScalarFrame : ∃ u : State, exec (.integerAlu t0 0 .add 3 1 (.imm 5)) run = .next u ∧ ((u.tile 0).thread 0).lastIssue = some 0 :=
  ⟨_, rfl, by decide +kernel⟩

theorem witness_NonStoringFrame : ∃ u : State, exec (.alertCauses true 2) cfgd = .next u := ⟨_, rfl⟩

theorem windowed_inv : windowed.inv := by
  refine ⟨by decide +kernel, fun c => ?_⟩
  have h : windowed.clock c = Clock.reset := rfl
  rw [h]
  exact ⟨by decide, (fun _ h => nomatch h), (fun _ h => nomatch h), by decide⟩

theorem witness_StoreFrame : windowed.inv ∧ [(7 : Byte)][0]? = some 7 ∧ (windowed.port 0).up = true ∧
    windowed.bar2Va 0 0x1000 4 = some (i0, 0x1000) ∧ (∀ e ∈ [((0 : Nat), 4)], 4 < e.1 ∨ e.1 + e.2 ≤ 4) := by
  refine ⟨windowed_inv, ?_⟩
  decide +kernel

theorem witness_StoreFrame_look :
    (match ((lookAt windowed writeOp).bar2Look 0 writeOp) with | (_, .pages l) => l == [(0x1000, 4)] | _ => false) = true ∧
    ((lookAt windowed writeOp).bar2Look 0 writeOp).1.partPoison 0x1000 4 = false ∧ (windowed.port 0).held = [] := by decide +kernel

theorem witness_StepsKeepInvariant : windowed.inv ∧ ∃ u : State, step windowed = .next u := ⟨windowed_inv, _, rfl⟩

theorem witness_StepTakesFrontCommand : ∃ u : State, step State.reset = .next u := ⟨_, rfl⟩
/-- A report unacknowledged for more than 10 s. -/
theorem witness_StepTakesFrontCommand_alert :
    (let s : State := { cfgd with now := 10000000999, belfry := { cfgd.belfry with reports := [(1, 0x10, 0, 0)] } }
     s.pending = [] ∧ s.boot.powerGood = true ∧ s.now % 1000 = 999 ∧ s.belfry.reports.any (fun r => decide (r.2.2.2 + 10000000000 < s.now)) = true ∧
      s.smbus.causes.testBit 2 = false) := by decide +kernel

theorem witness_CommandsKeepQueueAndOutput : ∃ u : State, exec .pwrEnRise State.reset = .next u := ⟨_, rfl⟩

theorem witness_RecordBits : (511 : Nat) < 8 * 64 ∧ (3 : Nat) ≤ 3 := by decide

theorem witness_SeventeenthRow : cfgd.skip 0 15 = 31 ∧ shapeY0 (cfgd.shape 0 0) + shapeH (cfgd.shape 0 0) ≤ 16 ∧
    shapeX0 (cfgd.shape 0 0) + shapeW (cfgd.shape 0 0) ≤ 16 ∧ cfgd.batTiles 0 0 = [(0, 0)] := by decide +kernel


/-- A unit's ledger entry with a last error at second n. -/
def erred (n st : Nat) : State := { cfgd with ledger := { Ledger.reset with
  opSec := 10, work := [(ledgerNo 4 0, BitVec.ofNat 512 (16 * st + 2 ^ 64 * n))], retests := [(4, 0, 0)] } }

theorem witness_ConfirmedErrorsCountOnce :
    ledLast ((erred 0 1).ledgerOf 4 0) ≠ 0xFFFFFFFF ∧ (erred 0 1).ledger.opSec ≤ ledLast ((erred 0 1).ledgerOf 4 0) + 10 ∧
    (4, 0, 0) ∈ (erred 0 1).ledger.retests ∧ ledLast ((erred 0xFFFFFFFF 2).ledgerOf 4 0) = 0xFFFFFFFF ∧
    2 ≤ ledState ((erred 0xFFFFFFFF 2).ledgerOf 4 0) ∧ field ((erred 0xFFFFFFFF 2).ledgerOf 4 0).toNat 160 16 < 65535 := by decide +kernel

theorem witness_ConfirmedErrorsCountOnce_first : ledState (cfgd.ledgerOf 3 0) = 0 ∧ ledLast (cfgd.ledgerOf 3 0) = 0xFFFFFFFF ∧
    field (cfgd.ledgerOf 3 0).toNat 160 16 < 65535 ∧ (3, 0, 0) ∉ cfgd.ledger.retests := by decide +kernel

/-! Ill-formed commands: one for each check of WellFormed. -/

def vf0 : Fn := .vf 0 0
def kb (n : Nat) : List Byte := List.replicate n 0

theorem test_ill_formed_1 : ([.registerWrite vf0 0 .b8 0, .registerWrite (.pf 0) (2 ^ 25) .b8 0, .bar0IrregularAccess vf0 0 1 true 0,
    .bar0IrregularAccess (.pf 0) (2 ^ 25) 1 true 0, .bar0IrregularAccess (.pf 0) 0 0 true 0, .lowHalfRead vf0 0, .lowHalfRead (.pf 0) (2 ^ 25),
    .clusterMemoryLoad t0 0 0 .b4 (2 ^ 48), .clusterMemoryStore t0 0 .b4 (2 ^ 48) 0, .dvfsPeriod 0 0 1001, .streamCacheFill 0 (2 ^ 43) .clean,
    .frameFree vf0 0 0, .checkByteMismatch 0 ⟨2 ^ 43, 0, 0⟩, .checkByteRetry 0 (2 ^ 43) ⟨0, 0⟩, .sliceFailure 0 66, .mirrorRebuildComplete 0 66,
    .translationRequest 0 (.queue 0) 0 0 (2 ^ 48) false, .xlatInvalidate vf0 0 0, .atsInvalidateRequest 0 (some (2 ^ 20)) 0 0, .prgResponse 0 0 ⟨some (2 ^ 20), .success⟩,
    .sliceAccess none (2 ^ 43) .clean [], .packetRoute 0 (some { ask none 5 with cls := 3 }), .packetRoute 0 (some { ask none 5 with bytes := 2049 }),
    .atsInvalidateRequest 0 none (2 ^ 64) 0, .streamResume vf0 0 0, .openQueue vf0 0 0, .closeQueue vf0 0 0, .flushQueue vf0 0 0, .openChannel vf0 0 0] : List Instr).all (fun c => !c.wellFormed) = true := by decide +kernel

theorem test_ill_formed_2 : ([.closeChannel vf0 0 0, .openCombiningQueue vf0 0 0, .closeCombiningQueue vf0 0 0, .armCombiningQueue vf0 0 0,
    .peal 0 true (2 ^ 49) 0 0 0 32, .peal 0 true 0 3 0 0 32, .peal 0 true 0 0 0 (2 ^ 43) 32, .creditReturn 0 0 4 0, .doorbell vf0 0 0 0 0,
    .cqHeadWrite vf0 0 0 0, .create vf0 0 0, .preempt vf0 0 0, .resume vf0 0 0, .save vf0 0 0 0, .restore vf0 0 0, .contextReset (.fn vf0) 0 0,
    .destroy vf0 0 0, .partitionReset (.fn vf0) 0, .resizableBarChange 0 29, .resizableBarChange 0 40, .msixUnmask 0 0 2046, .strictWrite vf0 0 0,
    .flush vf0 0, .stepCounterWrite vf0 0 0 0, .seedWrite vf0 0 0 true 0] : List Instr).all (fun c => !c.wellFormed) = true := by decide +kernel

theorem test_ill_formed_3 : ([.ledgerWrite ⟨0, 0⟩, .ledgerWrite ⟨9, 0⟩, .ledgerWrite ⟨1, 2 ^ 16⟩, .retestStart ⟨0, 0⟩, .retestTimeout ⟨0, 0⟩, .retestRetry ⟨0, 0⟩,
    .tapSchedule 8 0, .tapSliceEnd 8 0 true 0 0 0, .railSample 8 0 0, .muffle (.fn vf0) ⟨1, 0⟩, .muffle .belfry ⟨0, 0⟩,
    .reAdmission (.fn vf0) ⟨1, 0⟩, .reAdmission .belfry ⟨0, 0⟩, .batteryEngineReset vf0 0, .streamEngineReset vf0 0 0 true,
    .ringEngineReset vf0 0 true, .chipReset (.fn vf0), .stageBound 8 0, .stageBound 0 48, .memoryTraining 224 true, .cfgStage vf0 0,
    .validationComplete 5, .secure vf0 0, .fwLoad vf0 0, .componentTrap 304 1 0 0 [], .componentTrap 0 0 0 0 [], .componentTrap 0 5 0 0 []] : List Instr).all (fun c => !c.wellFormed) = true := by decide +kernel

theorem test_ill_formed_4 : ([.componentRestart 304, .thread3Fault t0 0 0 0, .thread3Fault t0 6 0 0, .currentLimitPeriod 0 (List.replicate 17 0) [],
    .currentLimitPeriod 0 [] (List.replicate 17 0), .thermalPeriod (List.replicate 17 0) [], .thermalPeriod [] (List.replicate 45 0),
    .capPeriod 0 (List.replicate 17 0), .wavelengthMuffle 0 34, .frameReceive 0 34 none, .lossOfLock 0 34, .symbolErrorAverage 0 34 0,
    .portLinked 0 (2 ^ 34), .census 0 true (List.replicate 64 (0, 0, true)), .ringIdWrite vf0 0, .ringKeyWrite vf0 0 0, .wavelengthRetest 0 34 true,
    .bar2Write 0 (2 ^ 39) [], .bar2Write 0 0 (kb 4097), .bar2Read 0 (2 ^ 39) 1, .bar2Read 0 0 0, .bar2Read 0 0 4097, .fruEepromRead 8192 1,
    .vinSample (2 ^ 16), .railFault 64 0, .monitorUnlock (kb 225), .monitorLog 0, .monitorLog 32769] : List Instr).all (fun c => !c.wellFormed) = true := by decide +kernel

theorem test_ill_formed_5 : ([.monitorPeek (2 ^ 25), .monitorPoke (2 ^ 25) 0, .monitorTap t0 6, .refresh 224, .neighborSolicitation 0 (2 ^ 128), .echoRequest 0 (kb 1453),
    .configurationRequest 0 0 4096 true 0, .stagingWindowWrite vf0 true 0 [], .stagingWindowWrite (.pf 0) true (2 ^ 24) [],
    .stagingWindowWrite (.pf 0) true 0 (kb 9), .scrubSlice ⟨0, 0⟩ true true] : List Instr).all (fun c => !c.wellFormed) = true := by decide +kernel

/-- Messages of the belfry with a sequence number or a payload out of range. -/
theorem test_ill_formed_6 : ([(2 ^ 32, []), (0, kb 1185)] : List (Nat × List Byte)).all (fun e => (
  [.subscribe 0 e.1 0 0 e.2, .ack 0 ⟨e.1, 0⟩ 0 e.2, .read 0 e.1 0 e.2, .writeReg 0 e.1 0 e.2, .orderChipReset 0 e.1 0 e.2,
    .orderPartitionReset 0 e.1 0 e.2, .orderEngineReset 0 e.1 0 e.2, .orderContextReset 0 e.1 0 e.2, .orderMuffle 0 e.1 0 e.2,
    .orderPreempt 0 e.1 0 e.2, .orderResume 0 e.1 0 e.2, .orderReAdmit 0 e.1 0 e.2, .stageData 0 e.1 0 e.2, .stageGo 0 e.1 0 e.2,
    .swap 0 e.1 0 e.2, .owner 0 e.1 0 e.2, .svnRaise 0 e.1 0 e.2, .keySet 0 e.1 0 e.2, .belfryReservedType 0 0 e.1 0 e.2] : List Instr).all
      (fun c => !c.wellFormed)) = true := by decide +kernel

theorem test_well_formed : ([.registerWrite (.vf 0 1) 0x38 .b8 0, .msixUnmask 0 0 2045, .ledgerWrite ⟨8, 135⟩, .componentTrap 303 4 0 0 [],
    .bar2Write 3 (2 ^ 39 - 1) [1], .keySet 1 (2 ^ 32 - 1) 0 (kb 1184)] : List Instr).all Instr.wellFormed = true := by decide +kernel

/-! The manual's worked examples. -/

/-- 04 R92's example: cluster 3, battery 5 at columns 8 to 11, column 9 with skip value 2: logical (1, 3) is TADDR 0x0724, logical (0, 3) 0x0703. -/
def battery5 : State := { up with cfg := { CfgSys.reset with clusters := [(3, { ClusterCfg.reset with
  valid := true, bats := [(5, 8 + 3 * 2 ^ 8 + 3 * 2 ^ 12 + 2 ^ 16)], skips := [(9, 2)] })] } }
theorem test_skip_example : battery5.tileAt 3 5 1 3 = 0x0724 ∧ battery5.tileAt 3 5 1 1 = taddr 3 9 1 ∧ battery5.tileAt 3 5 0 3 = 0x0703 := by
  decide

/-- 07's example: DPA 0x1D_4000_5800 lies in group 9, global channel 39. -/
theorem test_dpa_example : home 0x1D40005800 = .hbm 9 39 := by decide

/-- 03's conversion examples: truncation and round to nearest even. -/
theorem test_fp19_examples :
    [0x3FC01A00, 0xBFC03000, 0x3DCCCCCD, 0x7F7FF000, 0x00005000, 0x7F800001].map (toFp19 false) =
      [0x3FC00000, 0xBFC02000, 0x3DCCC000, 0x7F7FE000, 0, 0x7FC00000] ∧
    [0x3FC01A00, 0xBFC03000, 0x3DCCCCCD, 0x7F7FF000, 0x00005000, 0x7F800001].map (toFp19 true) =
      [0x3FC02000, 0xBFC04000, 0x3DCCC000, 0x7F800000, 0, 0x7FC00000] := by decide +kernel

/-- 03's integer output example: accumulators 1000, -5056 and 40000 give bytes 0x14, 0xDB and 0x7F. -/
theorem test_output_example : clampInt (-128) 127 (intPath 1000 0x60000000 (-3) 36) = 20 ∧
    clampInt (-128) 127 (intPath (-5056) 0x40000000 3 37) = -37 ∧ clampInt (-128) 127 (intPath 40000 0x40000000 3 37) = 127 := by decide +kernel

/-- 03's grouped-scale example: the third tile's partial rounds to 0x453B_7D8E. -/
theorem test_scale_example : fpFma 0x44FA0000 0x3FC00000 (fpFma 0xC1880000 0x3DCCC000 (fpMul 0x42040000 0x3D400000)) = 0x453B7D8E := by
  decide +kernel

/-- 09's combining example: 1.0 + 1.0 + 2^24 is exact, 2^24 + 1.0 + 1.0 keeps 2^24. -/
theorem test_combine_example : fpAdd (fpAdd (fpAdd 0 0x3F800000) 0x3F800000) 0x4B800000 = 0x4B800001 ∧
    fpAdd (fpAdd (fpAdd 0 0x4B800000) 0x3F800000) 0x3F800000 = 0x4B800000 := by decide +kernel

/-- 06's example program, its words as the manual gives them; elements 69, 217 and 218. -/
def hilbertProg : BitVec 1536 := BitVec.ofNat 1536 (2 ^ 512 * pack ([0x1000000080000000, 0x2200000300001400, 0x2100000300000040,
  0x20000020000000A0, 0x4122000000000000, 0x320020000000005A, 0x3970400000000096, 0x570000000001000F, 0x6002000000000002, 0x7000000000000000].map (fun w => (64, w))))
theorem test_hilbert_example : elemCount hilbertProg = 288 ∧
    (List.range 9).map (fun n => (tget (vectorAt (levelsOf hilbertProg) (32 * n)).1 1 0, tget (vectorAt (levelsOf hilbertProg) (32 * n)).1 2 0)) =
      [(0, 0), (1, 0), (1, 1), (0, 1), (0, 2), (1, 2), (2, 2), (2, 1), (2, 0)] ∧
    elemInfo hilbertProg 0x80000000 (vectorAt (levelsOf hilbertProg) 69).1 = { addr := 0x80001760, lo := 0, hi := 64 } ∧
    elemInfo hilbertProg 0x80000000 (vectorAt (levelsOf hilbertProg) 217).1 = { addr := 0x80003820, lo := 0, hi := 22 } ∧
    (elemInfo hilbertProg 0x80000000 (vectorAt (levelsOf hilbertProg) 218).1).hi = 0 := by decide +kernel

/-- 05's varying-rate example: counts 14, 9, 20 and 11, capacity 16, at most 48 items; 6 are dropped. -/
theorem test_items_example : vrItems 16 48 [14, 9, 20, 11] = List.range 14 ++ (List.range 9).map (· + 16) ++ (List.range 16).map (· + 32) ++
    (List.range 9).map (· + 48) ∧ vrDropped 16 48 [14, 9, 20, 11] = 6 := by decide +kernel

/-- 20's example: BAR2 of 64 GiB, window 2 bound to context 5 of partition 3. -/
theorem test_bar2_example : ({ up with
    ctxs := [(kKey 3 5, { Ctx.reset with st := 1 })]
    hosts := { up.hosts with windows := [(2, { Window.reset with valid := true, part := 3, ctx := 5, va := 0x300000000000 })] } } :
      State).bar2Va 0 0x212345600 8 = some ({ part := 3, ctx := 5, gen := 0 }, 0x300012345600) := by decide +kernel

/-- 22's example: VF 4 of port P1 owns partition 3. -/
def vf4 : State := { up with cfg := { CfgSys.reset with dev := { DeviceCfg.reset with
  valid := true, parts := [(3, { clusters := 0x40, owner := 1, vf := 4, hbm := 0, far := 0, key := 1, resetKey := 1 })] } } }
theorem test_offsets_example : vf4.mapOff (.vf 1 4) 0x0B28 = some 0x40B28 ∧ vf4.mapOff (.vf 1 4) 0x10510 = some 0x20C510 ∧ taddr 6 9 16 = 0x0D30 := by
  decide

/-- 18's example: one cap period gives cluster 15 20 W and clusters 0 to 14 60.67 W each. -/
theorem test_cap_example : ∃ u : State, exec (.capPeriod 1823000 (List.replicate 15 65000 ++ [18000]))
    { up with pwr := { up.pwr with capW := 1800 }, cly := (List.range 15).map (fun c => (c, { ClusterY.reset with ran := true })) } = .next u ∧
    (u.clY 15).allot = 20000 ∧ (u.clY 0).allot / 10 = 6066 := by
  refine ⟨_, rfl, ?_⟩
  decide +kernel

/-! Single steps. -/

/-- Does a step answer a next state of which a check holds? -/
def nextHas (o : Host.Outcome State Fault Refusal) (f : State → Bool) : Bool :=
  match o with
  | .next u => f u
  | _ => false

theorem test_alu_wraps : nextHas (exec (.integerAlu t0 0 .add 1 1 (.imm 0xFFFFFFFF)) run) (fun u => tget ((u.tile 0).thread 0).regs 1 0 == 6) = true := by
  decide +kernel
theorem test_alu_zero_register : nextHas (exec (.integerAlu t0 0 .add 0 1 (.imm 1)) run) (fun u => tget ((u.tile 0).thread 0).regs 0 0 == 0) = true := by
  decide +kernel
theorem test_divide_by_zero : nextHas (exec (.divide t0 0 .divU 4 1 2) run) (fun u => tget ((u.tile 0).thread 0).regs 4 0 == 0xFFFFFFFF) = true := by
  decide +kernel
theorem test_store_then_slice : nextHas (exec (.sliceAccess (some t0) 0 .clean []) (queued [op_ (.store 0 0x01020304)]))
    (fun u => mbytes u.mem.bytes 0x4000 5 == [4, 3, 2, 1, 0]) = true := by decide +kernel
theorem test_cap_write : nextHas (exec (.registerWrite (.pf 0) 0x38 .b8 800) cfgd) (fun u => u.pwr.capW == 800) = true ∧
    nextHas (exec (.registerWrite (.pf 0) 0x38 .b8 799) cfgd) (fun u => u.pwr.capW == 2000 && u.log.ring.length == 1) = true := by decide +kernel
theorem test_clock_step : nextHas (exec (.aclkStep 0 false) (clocked (fun k => { k with code := 33, target := some 32 }))) (fun u => (u.clock 0).code == 32) = true := by
  decide +kernel
theorem test_create : nextHas (exec (.create (.pf 0) 0 0) freed) (fun u => (u.ctx 0 0).st == 1 && (u.ctx 0 0).gen == 1 && (u.ctx 0 0).result == 0xA0) = true := by
  decide +kernel
theorem test_nop_completes : nextHas (exec (.nop 0 0 2) (fetchedIn mapped 2 (rec_ 0 0))) (fun u => ((u.ctx 0 0).queue 2).head == 1) = true := by
  decide +kernel
theorem test_queue_order : nextHas (step { cfgd with pending := [.powerGood, .epochFlip] }) (fun u => u.pending == [.epochFlip]) = true := by
  decide +kernel
theorem test_trace_point : nextHas (exec (.componentTrap 17 1 0 0 [(130, 7)]) (traced 63)) (fun u => u.log.ring.length == 2 && u.log.traceDrop == 0) = true ∧
    nextHas (exec (.componentTrap 17 1 0 0 [(130, 7)]) (traced 64)) (fun u => u.log.ring.length == 1 && u.log.traceDrop == 1) = true := by
  decide +kernel
end Sys2Proof.Tests
end

section
/-! SUPPORT. The bits of records (00 R9), and what a nanosecond with no waiting command changes (00 R6, 20 R464). -/
namespace Sys2Proof.Machine

/-! Records and their fields. -/

/-- Byte i of a number in bytes, lowest first. -/
theorem leBytes_getD {len i : Nat} (v : Nat) (h : i < len) : (leBytes len v).getD i 0 = BitVec.ofNat 8 (v / 2 ^ (8 * i)) := by
  induction len generalizing v i with
  | zero => omega
  | succ len ih =>
    cases i with
    | zero => simp [leBytes]
    | succ i =>
      have hp : 2 ^ (8 * (i + 1)) = 256 * 2 ^ (8 * i) := by rw [Nat.mul_add, Nat.pow_add, Nat.mul_comm]
      rw [hp, ← Nat.div_div_eq_div_mul]
      exact ih (v / 256) (by omega)

/-- The bits of a field are those of its record from its first on. -/
theorem field_testBit (v lo w i : Nat) : (field v lo w).testBit i = (decide (i < w) && v.testBit (lo + i)) := by
  rw [field, Nat.testBit_mod_two_pow, Nat.testBit_div_two_pow, Nat.add_comm]

/-- Settles O58: a byte holds eight bits of its record, and a field is a shift and a cut of it. -/
theorem recordBits : Obligations.RecordBits := by
  refine ⟨fun len v n hn => ?_, fun v hi lo n _ => field_testBit v lo (hi + 1 - lo) n⟩
  rw [leBytes_getD v (Nat.div_lt_of_lt_mul hn), BitVec.getLsbD_ofNat, Nat.testBit_div_two_pow, Nat.mod_add_div,
    decide_eq_true (Nat.mod_lt n (by decide)), Bool.true_and]

/-! A nanosecond passes. The rings' WAIT counts, and the counts outside RUN, are of none of the parts below. -/

@[simp] theorem State.countRingWait_pending (s : State) : s.countRingWait.pending = s.pending := State.each_frame State.pending (fun _ _ => by rfl) s
@[simp] theorem State.countRingWait_out (s : State) : s.countRingWait.out = s.out := State.each_frame State.out (fun _ _ => by rfl) s
@[simp] theorem State.countRingWait_now (s : State) : s.countRingWait.now = s.now := State.each_frame State.now (fun _ _ => by rfl) s
@[simp] theorem State.countRingWait_tiles (s : State) : s.countRingWait.tiles = s.tiles := State.each_frame State.tiles (fun _ _ => by rfl) s
@[simp] theorem State.countRingWait_mem (s : State) : s.countRingWait.mem = s.mem := State.each_frame State.mem (fun _ _ => by rfl) s
@[simp] theorem State.countRingWait_belfry (s : State) : s.countRingWait.belfry = s.belfry := State.each_frame State.belfry (fun _ _ => by rfl) s
@[simp] theorem State.countRingWait_smbus (s : State) : s.countRingWait.smbus = s.smbus := State.each_frame State.smbus (fun _ _ => by rfl) s

@[simp] theorem State.countIdle_pending (s : State) : s.countIdle.pending = s.pending := State.each_frame State.pending (fun _ _ => by rfl) _
@[simp] theorem State.countIdle_out (s : State) : s.countIdle.out = s.out := State.each_frame State.out (fun _ _ => by rfl) _
@[simp] theorem State.countIdle_now (s : State) : s.countIdle.now = s.now := State.each_frame State.now (fun _ _ => by rfl) _
@[simp] theorem State.countIdle_tiles (s : State) : s.countIdle.tiles = s.tiles := State.each_frame State.tiles (fun _ _ => by rfl) _
@[simp] theorem State.countIdle_mem (s : State) : s.countIdle.mem = s.mem := State.each_frame State.mem (fun _ _ => by rfl) _

/-- Is a belfry report unacknowledged for more than 10 s, and not yet alerted (20 R464)? -/
def State.reportOverdue (s : State) : Bool :=
  s.belfry.reports.any (fun r => decide (r.2.2.2 + 10000000000 < s.now)) && !s.smbus.causes.testBit 2

/-- The look at the queue drives the alert, and changes of the parts here the alert causes alone. -/
theorem State.checkQueue_frame (s : State) :
    s.checkQueue.pending = s.pending ∧ s.checkQueue.now = s.now ∧ s.checkQueue.tiles = s.tiles ∧ s.checkQueue.mem = s.mem ∧
    s.checkQueue.out = if s.reportOverdue then .alert true :: s.out else s.out := by
  unfold State.checkQueue State.reportOverdue
  split <;> exact ⟨rfl, rfl, rfl, rfl, rfl⟩

/-- With power, a nanosecond passes: the timestamp counts it, and the alert alone is driven. -/
theorem State.tick_powered {s : State} (h : s.boot.powerGood = true) :
    s.tick.pending = s.pending ∧ s.tick.mem = s.mem ∧ s.tick.tiles = s.tiles ∧
    s.tick.out = (if s.now % 1000 == 999 && s.reportOverdue then .alert true :: s.out else s.out) ∧
    s.tick.now = (s.now + 1) % 2 ^ 64 := by
  obtain ⟨hpending, hnow, htiles, hmem, hout⟩ := s.countRingWait.checkQueue_frame
  have ho : s.countRingWait.reportOverdue = s.reportOverdue := by simp [State.reportOverdue]
  by_cases hn : s.now % 1000 = 999 <;> simp [State.tick, wrapAdd, *]

/-- Without power, nothing changes. -/
theorem State.tick_unpowered {s : State} (h : s.boot.powerGood = false) : s.tick = s := by
  simp [State.tick, h]

/-- Settles O49: on an empty queue by what a nanosecond does with power and without. -/
theorem stepTakesFrontCommand : Obligations.StepTakesFrontCommand := by
  refine ⟨fun _ _ _ => rfl, fun s hs => ⟨s.tick, by simp [step, hs], ?_⟩⟩
  cases hp : s.boot.powerGood with
  | false => simp [State.tick_unpowered hp, hs]
  | true =>
    obtain ⟨h1, h2, h3, h4, h5⟩ := State.tick_powered hp
    refine ⟨h1.trans hs, h2, h3, ?_, h5⟩
    rw [h4, State.reportOverdue, ← Bool.and_assoc, Bool.true_and]

end Sys2Proof.Machine
end

section
/-! SUPPORT. What every command does: it answers a next state, which keeps what `Keeps` names of the state before (00 R10, R13). -/
namespace Sys2Proof.Machine

/-! The commands whose effect has no name of its own. -/

theorem execVrand_next_keeps (t : TileId) (s : State) : ∃ u, execVrand t s = .next u ∧ Keeps s u := by
  refine ⟨_, rfl, ?_⟩
  split
  · exact .refl s
  · exact State.runVector_keeps (.refl s)

theorem execOrderChipReset_next_keeps (port : Fin 2) (seq : Nat) (mac : BitVec 128) (payload : List Byte) (s : State) :
    ∃ u, execOrderChipReset port seq mac payload s = .next u ∧ Keeps s u :=
  ⟨_, rfl, State.bfOrder_keeps (.refl s) fun _ _ h => State.bfOrdered_keeps h fun _ k => State.orderChipReset_keeps k⟩

theorem execOrderPartitionReset_next_keeps (port : Fin 2) (seq : Nat) (mac : BitVec 128) (payload : List Byte) (s : State) :
    ∃ u, execOrderPartitionReset port seq mac payload s = .next u ∧ Keeps s u :=
  ⟨_, rfl, State.bfOrder_keeps (.refl s) fun _ _ h => State.bfOrdered_keeps h fun _ k => State.orderPartReset_keeps k⟩

theorem execOrderEngineReset_next_keeps (port : Fin 2) (seq : Nat) (mac : BitVec 128) (payload : List Byte) (s : State) :
    ∃ u, execOrderEngineReset port seq mac payload s = .next u ∧ Keeps s u :=
  ⟨_, rfl, State.bfOrder_keeps (.refl s) fun _ _ h => State.bfDone_keeps (State.engineReset_keeps h)⟩

theorem execOrderContextReset_next_keeps (port : Fin 2) (seq : Nat) (mac : BitVec 128) (payload : List Byte) (s : State) :
    ∃ u, execOrderContextReset port seq mac payload s = .next u ∧ Keeps s u :=
  ⟨_, rfl, State.bfOrder_keeps (.refl s) fun _ _ h => State.bfOrdered_keeps h fun _ k => State.resetContext_keeps k⟩

theorem execOrderMuffle_next_keeps (port : Fin 2) (seq : Nat) (mac : BitVec 128) (payload : List Byte) (s : State) :
    ∃ u, execOrderMuffle port seq mac payload s = .next u ∧ Keeps s u := by
  refine ⟨_, rfl, State.bfOrder_keeps (.refl s) fun v t h => ?_⟩
  split <;> rename_i e <;> exact State.bfDone_keeps (keeps_of_fst e (State.fence_keeps h))

theorem execOrderPreempt_next_keeps (port : Fin 2) (seq : Nat) (mac : BitVec 128) (payload : List Byte) (s : State) :
    ∃ u, execOrderPreempt port seq mac payload s = .next u ∧ Keeps s u :=
  ⟨_, rfl, State.bfOrder_keeps (.refl s) fun _ _ h => State.bfOrdered_keeps h fun _ k => State.bfCtxOp_keeps k⟩

theorem execOrderResume_next_keeps (port : Fin 2) (seq : Nat) (mac : BitVec 128) (payload : List Byte) (s : State) :
    ∃ u, execOrderResume port seq mac payload s = .next u ∧ Keeps s u :=
  ⟨_, rfl, State.bfOrder_keeps (.refl s) fun _ _ h => State.bfOrdered_keeps h fun _ k => State.bfCtxOp_keeps k⟩

theorem execOrderReAdmit_next_keeps (port : Fin 2) (seq : Nat) (mac : BitVec 128) (payload : List Byte) (s : State) :
    ∃ u, execOrderReAdmit port seq mac payload s = .next u ∧ Keeps s u := by
  refine ⟨_, rfl, State.bfOrder_keeps (.refl s) fun v t h => State.bfOrdered_keeps h fun q k => ?_⟩
  have := State.unfence_keeps (kind := field v 22 4) (idx := field v 26 16) k
  split
  · rename_i e
    exact keeps_pair (keeps_of_fst e this)
  · exact this

/-- With a PASID or without, the request is queued or not taken (08 R195, R197). -/
theorem execAtsInvalidateRequest_next_keeps (port : Fin 4) (pasid : Option Nat) (va len : Nat) (s : State) :
    ∃ u, execAtsInvalidateRequest port pasid va len s = .next u ∧ Keeps s u :=
  ⟨_, rfl, keeps_ite (.refl s) (State.updPort_keeps (.refl s))⟩

/-- Every command answers a next state, which keeps what `Keeps` names. -/
theorem exec_next_keeps (c : Instr) (s : State) : ∃ u, exec c s = .next u ∧ Keeps s u := by
  cases c with
  | registerWrite => exact ⟨_, rfl, stepRegisterWrite_keeps (.refl s)⟩
  | bar0IrregularAccess => exact ⟨_, rfl, stepBar0IrregularAccess_keeps (.refl s)⟩
  | lowHalfRead => exact ⟨_, rfl, stepLowHalfRead_keeps (.refl s)⟩
  | aclkStep => exact ⟨_, rfl, stepAclkStep_keeps (.refl s)⟩
  | integerAlu => exact ⟨_, rfl, stepIntegerAlu_keeps (.refl s)⟩
  | branch => exact ⟨_, rfl, stepBranch_keeps (.refl s)⟩
  | multiply => exact ⟨_, rfl, stepMultiply_keeps (.refl s)⟩
  | divide => exact ⟨_, rfl, stepDivide_keeps (.refl s)⟩
  | narrowLoad => exact ⟨_, rfl, stepNarrowLoad_keeps (.refl s)⟩
  | narrowStore => exact ⟨_, rfl, stepNarrowStore_keeps (.refl s)⟩
  | staticNetPort => exact ⟨_, rfl, stepStaticNetPort_keeps (.refl s)⟩
  | vectorIssue => exact ⟨_, rfl, stepVectorIssue_keeps (.refl s)⟩
  | vectorInstruction => exact ⟨_, rfl, State.runVector_keeps (.refl s)⟩
  | specialFunction => exact ⟨_, rfl, State.runVector_keeps (.refl s)⟩
  | clusterMemoryLoad => exact ⟨_, rfl, stepClusterMemoryLoad_keeps (.refl s)⟩
  | landingRegisterFill => exact ⟨_, rfl, stepLandingRegisterFill_keeps (.refl s)⟩
  | useInstruction => exact ⟨_, rfl, stepUseInstruction_keeps (.refl s)⟩
  | clusterMemoryStore => exact ⟨_, rfl, stepClusterMemoryStore_keeps (.refl s)⟩
  | fenceSc => exact ⟨_, rfl, stepFenceSc_keeps (.refl s)⟩
  | send => exact ⟨_, rfl, stepSend_keeps (.refl s)⟩
  | recv => exact ⟨_, rfl, stepRecv_keeps (.refl s)⟩
  | qcount => exact ⟨_, rfl, stepQcount_keeps (.refl s)⟩
  | cpop => exact ⟨_, rfl, stepCpop_keeps (.refl s)⟩
  | cqarm => exact ⟨_, rfl, stepCqarm_keeps (.refl s)⟩
  | waitc => exact ⟨_, rfl, stepWaitc_keeps (.refl s)⟩
  | waitcComplete => exact ⟨_, rfl, stepWaitcComplete_keeps (.refl s)⟩
  | vrand t => exact execVrand_next_keeps t s
  | srand => exact ⟨_, rfl, stepSrand_keeps (.refl s)⟩
  | landingFill => exact ⟨_, rfl, stepLandingFill_keeps (.refl s)⟩
  | landingEntryArrival => exact ⟨_, rfl, stepLandingEntryArrival_keeps (.refl s)⟩
  | tileClearComplete => exact ⟨_, rfl, stepTileClearComplete_keeps (.refl s)⟩
  | switchEntryEnd => exact ⟨_, rfl, stepSwitchEntryEnd_keeps (.refl s)⟩
  | paddingEnd => exact ⟨_, rfl, stepPaddingEnd_keeps (.refl s)⟩
  | secLoad => exact ⟨_, rfl, stepSecLoad_keeps (.refl s)⟩
  | loaded => exact ⟨_, rfl, stepLoaded_keeps (.refl s)⟩
  | secRun => exact ⟨_, rfl, stepSecRun_keeps (.refl s)⟩
  | lockGrant => exact ⟨_, rfl, stepLockGrant_keeps (.refl s)⟩
  | runStart => exact ⟨_, rfl, stepRunStart_keeps (.refl s)⟩
  | take => exact ⟨_, rfl, stepTake_keeps (.refl s)⟩
  | runEnd => exact ⟨_, rfl, stepRunEnd_keeps (.refl s)⟩
  | commit => exact ⟨_, rfl, stepCommit_keeps (.refl s)⟩
  | secChain => exact ⟨_, rfl, stepSecChain_keeps (.refl s)⟩
  | handoverAllocate => exact ⟨_, rfl, stepHandoverAllocate_keeps (.refl s)⟩
  | hoRelease => exact ⟨_, rfl, stepHoRelease_keeps (.refl s)⟩
  | dvfsPeriod => exact ⟨_, rfl, stepDvfsPeriod_keeps (.refl s)⟩
  | stream => exact ⟨_, rfl, stepStream_keeps (.refl s)⟩
  | streamRearm => exact ⟨_, rfl, stepStreamRearm_keeps (.refl s)⟩
  | engineSlotGrant => exact ⟨_, rfl, stepEngineSlotGrant_keeps (.refl s)⟩
  | elementTranslated => exact ⟨_, rfl, stepElementTranslated_keeps (.refl s)⟩
  | elementComplete => exact ⟨_, rfl, stepElementComplete_keeps (.refl s)⟩
  | rewindResume => exact ⟨_, rfl, stepRewindResume_keeps (.refl s)⟩
  | sliceAccess => exact ⟨_, rfl, stepSliceAccess_keeps (.refl s)⟩
  | streamCacheFill => exact ⟨_, rfl, stepStreamCacheFill_keeps (.refl s)⟩
  | zeroFill => exact ⟨_, rfl, stepZeroFill_keeps (.refl s)⟩
  | frameFree => exact ⟨_, rfl, stepFrameFree_keeps (State.unlatch_keeps (.refl s))⟩
  | frameRelease => exact ⟨_, rfl, stepFrameRelease_keeps (.refl s)⟩
  | checkByteMismatch => exact ⟨_, rfl, stepCheckByteMismatch_keeps (.refl s)⟩
  | checkByteRetry => exact ⟨_, rfl, stepCheckByteRetry_keeps (.refl s)⟩
  | sliceFailure => exact ⟨_, rfl, stepSliceFailure_keeps (.refl s)⟩
  | mirrorRebuildComplete => exact ⟨_, rfl, stepMirrorRebuildComplete_keeps (.refl s)⟩
  | residentLostWalk => exact ⟨_, rfl, stepResidentLostWalk_keeps (.refl s)⟩
  | translationRequest => exact ⟨_, rfl, stepTranslationRequest_keeps (.refl s)⟩
  | tableRead => exact ⟨_, rfl, stepTableRead_keeps (.refl s)⟩
  | xlatInvalidate => exact ⟨_, rfl, stepXlatInvalidate_keeps (State.unlatch_keeps (.refl s))⟩
  | xlatInvalidateComplete => exact ⟨_, rfl, stepXlatInvalidateComplete_keeps (.refl s)⟩
  | atsTranslationCompletion => exact ⟨_, rfl, stepAtsTranslationCompletion_keeps (.refl s)⟩
  | prgIndexGrant => exact ⟨_, rfl, stepPrgIndexGrant_keeps (.refl s)⟩
  | prgResponse => exact ⟨_, rfl, stepPrgResponse_keeps (.refl s)⟩
  | prgTimeout => exact ⟨_, rfl, stepPrgTimeout_keeps (.refl s)⟩
  | atsInvalidateRequest port pasid va len => exact execAtsInvalidateRequest_next_keeps port pasid va len s
  | atsInvalidateCompletion => exact ⟨_, rfl, stepAtsInvalidateCompletion_keeps (.refl s)⟩
  | resumeRecordWrite => exact ⟨_, rfl, stepResumeRecordWrite_keeps (.refl s)⟩
  | streamResume => exact ⟨_, rfl, stepStreamResume_keeps (State.unlatch_keeps (.refl s))⟩
  | descriptorArrival => exact ⟨_, rfl, stepDescriptorArrival_keeps (.refl s)⟩
  | putPerformed => exact ⟨_, rfl, stepPutPerformed_keeps (.refl s)⟩
  | acknowledgement => exact ⟨_, rfl, stepAcknowledgement_keeps (.refl s)⟩
  | openQueue => exact ⟨_, rfl, State.msgWrite_keeps (State.unlatch_keeps (.refl s))⟩
  | closeQueue => exact ⟨_, rfl, State.msgWrite_keeps (State.unlatch_keeps (.refl s))⟩
  | flushQueue => exact ⟨_, rfl, State.msgWrite_keeps (State.unlatch_keeps (.refl s))⟩
  | openChannel => exact ⟨_, rfl, State.msgWrite_keeps (State.unlatch_keeps (.refl s))⟩
  | closeChannel => exact ⟨_, rfl, State.msgWrite_keeps (State.unlatch_keeps (.refl s))⟩
  | openCombiningQueue => exact ⟨_, rfl, State.msgWrite_keeps (State.unlatch_keeps (.refl s))⟩
  | closeCombiningQueue => exact ⟨_, rfl, State.msgWrite_keeps (State.unlatch_keeps (.refl s))⟩
  | armCombiningQueue => exact ⟨_, rfl, State.msgWrite_keeps (State.unlatch_keeps (.refl s))⟩
  | combine => exact ⟨_, rfl, stepCombine_keeps (.refl s)⟩
  | strictSummationDone => exact ⟨_, rfl, stepStrictSummationDone_keeps (.refl s)⟩
  | carillonEntry => exact ⟨_, rfl, stepCarillonEntry_keeps (.refl s)⟩
  | carillonEntered => exact ⟨_, rfl, stepCarillonEntered_keeps (.refl s)⟩
  | carillonTimeout => exact ⟨_, rfl, stepCarillonTimeout_keeps (.refl s)⟩
  | carillonExit => exact ⟨_, rfl, stepCarillonExit_keeps (.refl s)⟩
  | peal => exact ⟨_, rfl, stepPeal_keeps (.refl s)⟩
  | pealCompletion => exact ⟨_, rfl, stepPealCompletion_keeps (.refl s)⟩
  | packetRoute => exact ⟨_, rfl, stepPacketRoute_keeps (.refl s)⟩
  | creditReturn => exact ⟨_, rfl, stepCreditReturn_keeps (.refl s)⟩
  | flitResend => exact ⟨_, rfl, stepFlitResend_keeps (.refl s)⟩
  | routeInstall => exact ⟨_, rfl, stepRouteInstall_keeps (.refl s)⟩
  | epochFlip => exact ⟨_, rfl, stepEpochFlip_keeps (.refl s)⟩
  | doorbell => exact ⟨_, rfl, stepDoorbell_keeps (State.unlatch_keeps (.refl s))⟩
  | cqHeadWrite => exact ⟨_, rfl, stepCqHeadWrite_keeps (State.unlatch_keeps (.refl s))⟩
  | recordFetch => exact ⟨_, rfl, stepRecordFetch_keeps (.refl s)⟩
  | completionEntryWrite => exact ⟨_, rfl, stepCompletionEntryWrite_keeps (.refl s)⟩
  | nop => exact ⟨_, rfl, stepNop_keeps (.refl s)⟩
  | barrier => exact ⟨_, rfl, stepBarrier_keeps (.refl s)⟩
  | chime => exact ⟨_, rfl, stepChime_keeps (.refl s)⟩
  | wait => exact ⟨_, rfl, stepWait_keeps (.refl s)⟩
  | waitComplete => exact ⟨_, rfl, stepWaitComplete_keeps (.refl s)⟩
  | stepCommand => exact ⟨_, rfl, stepStepCommand_keeps (.refl s)⟩
  | ringOp => exact ⟨_, rfl, stepRingOp_keeps (.refl s)⟩
  | deviceCfgSwap => exact ⟨_, rfl, stepCfgSwap_keeps (.refl s)⟩
  | clusterCfgSwap => exact ⟨_, rfl, stepCfgSwap_keeps (.refl s)⟩
  | clusterSwapInstall => exact ⟨_, rfl, stepClusterSwapInstall_keeps (.refl s)⟩
  | create => exact ⟨_, rfl, State.ctxWrite_keeps (State.unlatch_keeps (.refl s))⟩
  | preempt => exact ⟨_, rfl, State.ctxWrite_keeps (State.unlatch_keeps (.refl s))⟩
  | preempted => exact ⟨_, rfl, stepPreempted_keeps (.refl s)⟩
  | resume => exact ⟨_, rfl, State.ctxWrite_keeps (State.unlatch_keeps (.refl s))⟩
  | save => exact ⟨_, rfl, State.ctxWrite_keeps (State.unlatch_keeps (.refl s))⟩
  | saveComplete => exact ⟨_, rfl, stepSaveComplete_keeps (.refl s)⟩
  | restore => exact ⟨_, rfl, State.ctxWrite_keeps (State.unlatch_keeps (.refl s))⟩
  | restoreComplete => exact ⟨_, rfl, stepRestoreComplete_keeps (.refl s)⟩
  | contextReset => exact ⟨_, rfl, stepContextReset_keeps (State.unlatchBy_keeps (.refl s))⟩
  | destroy => exact ⟨_, rfl, State.ctxWrite_keeps (State.unlatch_keeps (.refl s))⟩
  | partitionReset => exact ⟨_, rfl, stepPartitionReset_keeps (State.unlatchBy_keeps (.refl s))⟩
  | partitionResetComplete => exact ⟨_, rfl, stepPartitionResetComplete_keeps (.refl s)⟩
  | perst => exact ⟨_, rfl, stepPerst_keeps (.refl s)⟩
  | perstDeassert => exact ⟨_, rfl, stepPerstDeassert_keeps (.refl s)⟩
  | linkTrainingComplete => exact ⟨_, rfl, stepLinkTrainingComplete_keeps (.refl s)⟩
  | dlDown => exact ⟨_, rfl, stepDlDown_keeps (.refl s)⟩
  | hotReset => exact ⟨_, rfl, stepHotReset_keeps (.refl s)⟩
  | functionLevelReset => exact ⟨_, rfl, stepFunctionLevelReset_keeps (.refl s)⟩
  | d3hotEntry => exact ⟨_, rfl, stepD3hotEntry_keeps (.refl s)⟩
  | resizableBarChange => exact ⟨_, rfl, stepResizableBarChange_keeps (.refl s)⟩
  | msixUnmask => exact ⟨_, rfl, stepMsixUnmask_keeps (.refl s)⟩
  | strictWrite => exact ⟨_, rfl, stepStrictWrite_keeps (State.unlatch_keeps (.refl s))⟩
  | pinned => exact ⟨_, rfl, stepPinned_keeps (.refl s)⟩
  | flush => exact ⟨_, rfl, stepFlush_keeps (State.unlatch_keeps (.refl s))⟩
  | stepCounterWrite => exact ⟨_, rfl, State.writeStill_keeps (State.unlatch_keeps (.refl s))⟩
  | seedWrite => exact ⟨_, rfl, State.writeStill_keeps (State.unlatch_keeps (.refl s))⟩
  | passEnd => exact ⟨_, rfl, stepPassEnd_keeps (.refl s)⟩
  | check => exact ⟨_, rfl, stepCheck_keeps (.refl s)⟩
  | checkResult => exact ⟨_, rfl, stepCheckResult_keeps (.refl s)⟩
  | secondCheckResult => exact ⟨_, rfl, stepSecondCheckResult_keeps (.refl s)⟩
  | secondCheckTimeout => exact ⟨_, rfl, stepSecondCheckTimeout_keeps (.refl s)⟩
  | checkLost => exact ⟨_, rfl, stepCheckLost_keeps (.refl s)⟩
  | ledgerWrite => exact ⟨_, rfl, stepLedgerWrite_keeps (.refl s)⟩
  | ledgerHeaderRewrite => exact ⟨_, rfl, stepLedgerHeaderRewrite_keeps (.refl s)⟩
  | retestStart => exact ⟨_, rfl, stepRetestStart_keeps (.refl s)⟩
  | retestTimeout => exact ⟨_, rfl, stepRetestTimeout_keeps (.refl s)⟩
  | retestRetry => exact ⟨_, rfl, stepRetestRetry_keeps (.refl s)⟩
  | tapSchedule => exact ⟨_, rfl, stepTapSchedule_keeps (.refl s)⟩
  | tapSliceEnd => exact ⟨_, rfl, stepTapSliceEnd_keeps (.refl s)⟩
  | railSample => exact ⟨_, rfl, stepRailSample_keeps (.refl s)⟩
  | tapForced => exact ⟨_, rfl, stepTapForced_keeps (.refl s)⟩
  | forcedHold => exact ⟨_, rfl, stepForcedHold_keeps (.refl s)⟩
  | tapOverdue => exact ⟨_, rfl, stepTapOverdue_keeps (.refl s)⟩
  | muffle => exact ⟨_, rfl, stepMuffle_keeps (.refl s)⟩
  | reAdmission => exact ⟨_, rfl, stepReAdmission_keeps (.refl s)⟩
  | replacement => exact ⟨_, rfl, stepReplacement_keeps (.refl s)⟩
  | skipSwap => exact ⟨_, rfl, stepSkipSwap_keeps (.refl s)⟩
  | relocation => exact ⟨_, rfl, stepRelocation_keeps (.refl s)⟩
  | batteryEngineReset => exact ⟨_, rfl, State.engineOrder_keeps (State.unlatch_keeps (.refl s))⟩
  | streamEngineReset => exact ⟨_, rfl, State.engineOrder_keeps (State.unlatch_keeps (.refl s))⟩
  | ringEngineReset => exact ⟨_, rfl, State.engineOrder_keeps (State.unlatch_keeps (.refl s))⟩
  | isolationAdmit => exact ⟨_, rfl, stepIsolationAdmit_keeps (.refl s)⟩
  | escalate => exact ⟨_, rfl, stepEscalate_keeps (.refl s)⟩
  | chipReset => exact ⟨_, rfl, stepChipReset_keeps (.refl s)⟩
  | powerGood => exact ⟨_, rfl, stepPowerGood_keeps (.refl s)⟩
  | bootLedgerRead => exact ⟨_, rfl, stepBootLedgerRead_keeps (.refl s)⟩
  | stageBound => exact ⟨_, rfl, stepStageBound_keeps (.refl s)⟩
  | carillonBroadcast => exact ⟨_, rfl, stepCarillonBroadcast_keeps (.refl s)⟩
  | clusterSelfTest => exact ⟨_, rfl, stepClusterSelfTest_keeps (.refl s)⟩
  | memoryTraining => exact ⟨_, rfl, stepMemoryTraining_keeps (.refl s)⟩
  | ringPortTraining => exact ⟨_, rfl, stepRingPortTraining_keeps (.refl s)⟩
  | floorplanChange => exact ⟨_, rfl, stepFloorplanChange_keeps (.refl s)⟩
  | cfgStage => exact ⟨_, rfl, stepCfgStage_keeps (State.unlatch_keeps (.refl s))⟩
  | validationComplete => exact ⟨_, rfl, stepValidationComplete_keeps (.refl s)⟩
  | secure => exact ⟨_, rfl, stepSecure_keeps (State.unlatch_keeps (.refl s))⟩
  | fwLoad => exact ⟨_, rfl, stepFwLoad_keeps (State.unlatch_keeps (.refl s))⟩
  | fwVerified => exact ⟨_, rfl, stepFwVerified_keeps (.refl s)⟩
  | componentTrap => exact ⟨_, rfl, stepComponentTrap_keeps (.refl s)⟩
  | componentRestart => exact ⟨_, rfl, stepComponentRestart_keeps (.refl s)⟩
  | thread3Fault => exact ⟨_, rfl, stepThread3Fault_keeps (.refl s)⟩
  | currentLimitPeriod => exact ⟨_, rfl, stepCurrentLimitPeriod_keeps (.refl s)⟩
  | thermalPeriod => exact ⟨_, rfl, stepThermalPeriod_keeps (.refl s)⟩
  | capPeriod => exact ⟨_, rfl, stepCapPeriod_keeps (.refl s)⟩
  | thermalTrip => exact ⟨_, rfl, stepThermalTrip_keeps (.refl s)⟩
  | wavelengthMuffle => exact ⟨_, rfl, stepWavelengthMuffle_keeps (.refl s)⟩
  | frameReceive => exact ⟨_, rfl, stepFrameReceive_keeps (.refl s)⟩
  | lossOfLock => exact ⟨_, rfl, stepLossOfLock_keeps (.refl s)⟩
  | symbolErrorAverage => exact ⟨_, rfl, stepSymbolErrorAverage_keeps (.refl s)⟩
  | portReady => exact ⟨_, rfl, State.portReady_keeps (.refl s)⟩
  | portLinked => exact ⟨_, rfl, stepPortLinked_keeps (.refl s)⟩
  | lossOfLink => exact ⟨_, rfl, State.loseLink_keeps (.refl s)⟩
  | bypassClose => exact ⟨_, rfl, stepBypassClose_keeps (.refl s)⟩
  | census => exact ⟨_, rfl, stepCensus_keeps (.refl s)⟩
  | ringIdWrite => exact ⟨_, rfl, stepRingIdWrite_keeps (State.unlatch_keeps (.refl s))⟩
  | ringKeyWrite => exact ⟨_, rfl, stepRingKeyWrite_keeps (State.unlatch_keeps (.refl s))⟩
  | ringPacket => exact ⟨_, rfl, stepRingPacket_keeps (.refl s)⟩
  | ringDone => exact ⟨_, rfl, stepRingDone_keeps (.refl s)⟩
  | ringOpPreemptLimit => exact ⟨_, rfl, stepRingOpPreemptLimit_keeps (.refl s)⟩
  | wavelengthRetest => exact ⟨_, rfl, stepWavelengthRetest_keeps (.refl s)⟩
  | bar2Write => exact ⟨_, rfl, stepBar2Write_keeps (State.unlatch_keeps (.refl s))⟩
  | bar2Read => exact ⟨_, rfl, stepBar2Read_keeps (State.unlatch_keeps (.refl s))⟩
  | bar2WindowBind => exact ⟨_, rfl, stepBar2WindowBind_keeps (State.unlatch_keeps (.refl s))⟩
  | hello => exact ⟨_, rfl, stepHello_keeps (.refl s)⟩
  | reportResend => exact ⟨_, rfl, stepReportResend_keeps (.refl s)⟩
  | subscribe => exact ⟨_, rfl, stepSubscribe_keeps (.refl s)⟩
  | ack => exact ⟨_, rfl, stepAck_keeps (.refl s)⟩
  | read => exact ⟨_, rfl, stepRead_keeps (.refl s)⟩
  | writeReg => exact ⟨_, rfl, stepWriteReg_keeps (.refl s)⟩
  | orderChipReset port seq mac payload => exact execOrderChipReset_next_keeps port seq mac payload s
  | orderPartitionReset port seq mac payload => exact execOrderPartitionReset_next_keeps port seq mac payload s
  | orderEngineReset port seq mac payload => exact execOrderEngineReset_next_keeps port seq mac payload s
  | orderContextReset port seq mac payload => exact execOrderContextReset_next_keeps port seq mac payload s
  | orderMuffle port seq mac payload => exact execOrderMuffle_next_keeps port seq mac payload s
  | orderPreempt port seq mac payload => exact execOrderPreempt_next_keeps port seq mac payload s
  | orderResume port seq mac payload => exact execOrderResume_next_keeps port seq mac payload s
  | orderReAdmit port seq mac payload => exact execOrderReAdmit_next_keeps port seq mac payload s
  | stageData => exact ⟨_, rfl, stepStageData_keeps (.refl s)⟩
  | stageGo => exact ⟨_, rfl, stepStageGo_keeps (.refl s)⟩
  | swap => exact ⟨_, rfl, stepSwap_keeps (.refl s)⟩
  | owner => exact ⟨_, rfl, stepOwner_keeps (.refl s)⟩
  | svnRaise => exact ⟨_, rfl, stepSvnRaise_keeps (.refl s)⟩
  | keySet => exact ⟨_, rfl, stepKeySet_keeps (.refl s)⟩
  | smbusStatusRead => exact ⟨_, rfl, State.smbusSay_keeps (.refl s)⟩
  | alertCauses => exact ⟨_, rfl, stepAlertCauses_keeps (.refl s)⟩
  | smbusInputVoltageRead => exact ⟨_, rfl, State.smbusSay_keeps (.refl s)⟩
  | smbusInputCurrentRead => exact ⟨_, rfl, State.smbusSay_keeps (.refl s)⟩
  | smbusInputPowerRead => exact ⟨_, rfl, State.smbusSay_keeps (.refl s)⟩
  | smbusJunctionRead => exact ⟨_, rfl, State.smbusSay_keeps (.refl s)⟩
  | smbusCoolantRead => exact ⟨_, rfl, State.smbusSay_keeps (.refl s)⟩
  | smbusReadyRead => exact ⟨_, rfl, State.smbusSay_keeps (.refl s)⟩
  | smbusIdentityRead => exact ⟨_, rfl, State.smbusSay_keeps (.refl s)⟩
  | fruEepromRead => exact ⟨_, rfl, stepFruEepromRead_keeps (.refl s)⟩
  | alertResponse => exact ⟨_, rfl, keeps_ite (.refl s) (State.smbusSay_keeps (.refl s))⟩
  | modRstLow => exact ⟨_, rfl, stepModRstLow_keeps (.refl s)⟩
  | modRstRise => exact ⟨_, rfl, stepModRstRise_keeps (.refl s)⟩
  | pwrEnRise => exact ⟨_, rfl, stepPwrEnRise_keeps (.refl s)⟩
  | pwrEnFall => exact ⟨_, rfl, stepPwrEnFall_keeps (.refl s)⟩
  | powerOffHoldEnd => exact ⟨_, rfl, stepPowerOffHoldEnd_keeps (.refl s)⟩
  | vinSample => exact ⟨_, rfl, stepVinSample_keeps (.refl s)⟩
  | railFault => exact ⟨_, rfl, stepRailFault_keeps (.refl s)⟩
  | coolantRange => exact ⟨_, rfl, stepCoolantRange_keeps (.refl s)⟩
  | monitorVer => exact ⟨_, rfl, stepMonitorVer_keeps (.refl s)⟩
  | monitorStage => exact ⟨_, rfl, stepMonitorStage_keeps (.refl s)⟩
  | monitorChallenge => exact ⟨_, rfl, stepMonitorChallenge_keeps (.refl s)⟩
  | monitorUnlock => exact ⟨_, rfl, stepMonitorUnlock_keeps (.refl s)⟩
  | monitorLock => exact ⟨_, rfl, State.monCmd_keeps (.refl s) (fun _ h => State.monLock_keeps h)⟩
  | monitorLog => exact ⟨_, rfl, stepMonitorLog_keeps (.refl s)⟩
  | monitorFp => exact ⟨_, rfl, stepMonitorFp_keeps (.refl s)⟩
  | monitorLedger => exact ⟨_, rfl, stepMonitorLedger_keeps (.refl s)⟩
  | monitorPeek => exact ⟨_, rfl, stepMonitorPeek_keeps (.refl s)⟩
  | monitorPoke => exact ⟨_, rfl, stepMonitorPoke_keeps (.refl s)⟩
  | monitorTap => exact ⟨_, rfl, stepMonitorTap_keeps (.refl s)⟩
  | monitorRelock => exact ⟨_, rfl, stepMonitorRelock_keeps (.refl s)⟩
  | unlockBackoffEnd => exact ⟨_, rfl, stepUnlockBackoffEnd_keeps (.refl s)⟩
  | runCycle => exact ⟨_, rfl, State.runCycle_keeps (.refl s)⟩
  | refresh => exact ⟨_, rfl, stepRefresh_keeps (.refl s)⟩
  | translationCompletionTimeout => exact ⟨_, rfl, stepTranslationCompletionTimeout_keeps (.refl s)⟩
  | managementPortLink => exact ⟨_, rfl, stepManagementPortLink_keeps (.refl s)⟩
  | neighborSolicitation => exact ⟨_, rfl, stepNeighborSolicitation_keeps (.refl s)⟩
  | echoRequest => exact ⟨_, rfl, stepEchoRequest_keeps (.refl s)⟩
  | belfryReservedType => exact ⟨_, rfl, stepBelfryReservedType_keeps (.refl s)⟩
  | configurationRequest => exact ⟨_, rfl, stepConfigurationRequest_keeps (.refl s)⟩
  | stagingWindowWrite => exact ⟨_, rfl, stepStagingWindowWrite_keeps (State.unlatch_keeps (.refl s))⟩
  | powerGoodLoss => exact ⟨_, rfl, stepPowerGoodLoss_keeps (.refl s)⟩
  | scrubSlice => exact ⟨_, rfl, stepScrubSlice_keeps (.refl s)⟩

/-- Settles O50: each command's meaning answers a next state. -/
theorem everyCommandCompletes : Obligations.EveryCommandCompletes := fun c s =>
  (exec_next_keeps c s).imp fun _ h => h.1

/-- Settles O51: what `Keeps` names of the one state that a command answers. -/
theorem commandsKeepQueueAndOutput : Obligations.CommandsKeepQueueAndOutput := by
  intro c s u hu
  obtain ⟨v, hv, hk⟩ := exec_next_keeps c s
  obtain rfl : v = u := Host.Outcome.next.inj (hv.symm.trans hu)
  obtain ⟨l, hl⟩ := hk.out
  exact ⟨hk.pending, hk.free, l, hl.symm⟩

end Sys2Proof.Machine
end

section
/-! SUPPORT. The accesses of BAR0, one rule per kind of access, and the statement about them (00 R10-R14, 11 R253, 16 R372, 22 R495). -/
namespace Sys2Proof.Machine

/-! Tables: a key written and then removed, and a key found where no other answers. -/

theorem tdel_tset {α : Type} (t : Tbl α) (k : Nat) (v : α) : tdel (tset t k v) k = tdel t k := by
  induction t with
  | nil => simp [tset, tdel]
  | cons e r ih =>
    obtain ⟨k', w⟩ := e
    simp only [tset]
    split
    · simp [tdel]
    · split
      · rename_i h
        simp [tdel, h]
      · simp only [tdel, List.filter_cons] at ih ⊢
        rw [ih]

theorem tdel_tdel {α : Type} (t : Tbl α) (k : Nat) : tdel (tdel t k) k = tdel t k := by
  simp [tdel]

theorem find?_tset {α : Type} {t : Tbl α} {k : Nat} {v : α} {f : Nat × α → Bool} (hv : f (k, v) = true) (ht : ∀ e ∈ t, f e = false) :
    (tset t k v).find? f = some (k, v) := by
  induction t with
  | nil => simp [tset, hv]
  | cons e r ih =>
    obtain ⟨he, hr⟩ := List.forall_mem_cons.mp ht
    simp only [tset]
    split
    · simp [hv]
    · split
      · simp [hv]
      · simp [he, ih hr]

section
variable {s : State} {fn : Fn} {off : Nat}

/-! What of the state an access leaves: the register write being performed and the latches are of the host ports. -/

@[simp] theorem State.ownsG_hosts (h : Hosts) : { s with hosts := h }.ownsG fn = s.ownsG fn := by cases fn <;> rfl
@[simp] theorem State.mapOff_hosts (h : Hosts) : { s with hosts := h }.mapOff fn off = s.mapOff fn off := rfl
@[simp] theorem State.unlatch_mapOff (f : Fn) : (s.unlatch f).mapOff fn off = s.mapOff fn off := by cases f <;> rfl
@[simp] theorem State.unlatch_unowned (f : Fn) : (s.unlatch f).unowned fn off = s.unowned fn off := by
  simp only [State.unowned, State.vfPart, State.unlatch_boot, State.unlatch_mapOff, State.unlatch_ownsP, State.unlatch_cfg]

/-- The owner of the global block sees the whole map (11 R252). -/
theorem State.mapOff_of_ownsG (h : s.ownsG fn = true) (o : Nat) (t : State) : t.mapOff fn o = some o := by
  cases fn with
  | pf _ => rfl
  | vf _ _ => simp [State.ownsG] at h
  | net => rfl

/-- Two acts that do the same in the state of the access are one access. -/
theorem State.withAccess_congr {v : Nat} {f g : State → State}
    (h : f { s with hosts := { s.hosts with acc := some (off, v) } } = g { s with hosts := { s.hosts with acc := some (off, v) } }) :
    s.withAccess off v f = s.withAccess off v g := by
  simp only [State.withAccess, h]

/-! Writes. -/

theorem State.writeBar0_regular {n : Nat} (v : Nat) (h : regular off n = true) : s.writeBar0 fn off n v =
    (s.unlatch fn).withAccess off (v % 2 ^ (8 * n)) (fun t => t.writeSlot fn off n (v % 2 ^ (8 * n))) := by
  simp [State.writeBar0, h]

theorem State.writeBar0_irregular {n : Nat} (v : Nat) (h : regular off n = false) : s.writeBar0 fn off n v =
    (s.unlatch fn).irregular fn off (v % 2 ^ (8 * n)) := by
  simp [State.writeBar0, h]

theorem State.writeSlot_unmapped {n v : Nat} (h : s.mapOff fn off = none) : s.writeSlot fn off n v = s := by
  simp [State.writeSlot, h]

theorem exec_registerWrite (z : Size) (val : Dword) :
    exec (.registerWrite fn off z val) s = .next (s.writeBar0 fn off (sizeBytes z) val.toNat) := rfl

/-- A write of a whole slot of a PF's map writes the register that stands there. -/
theorem exec_registerWrite_slot {r : Reg} (val : Dword) (h8 : off % 8 = 0) (hm : ∀ t : State, t.mapOff fn off = some off)
    (hr : regAt off = some r) : exec (.registerWrite fn off .b8 val) s =
      .next ((s.unlatch fn).withAccess off val.toNat (fun t => t.writeReg fn off { half := 0, val := val.toNat } r)) := by
  have hreg : regular off 8 = true := by simp [regular, h8]
  have hval : val.toNat % 2 ^ (8 * 8) = val.toNat := Nat.mod_eq_of_lt val.isLt
  have hoff : off / 8 * 8 = off := by omega
  rw [exec_registerWrite, sizeBytes, State.writeBar0_regular _ hreg, hval]
  refine congrArg Host.Outcome.next (State.withAccess_congr ?_)
  simp only [State.writeSlot, hm, Option.map_some, hoff, hr, if_true]

/-! The gate of the global block. -/

theorem State.gateG_owner {v : Nat} {act : State → State} (hb : s.boot.bundle = true) (ho : s.ownsG fn = true) :
    s.gateG fn off v act = act s := by
  simp [State.gateG, hb, ho]

theorem State.gateG_other {v : Nat} {act : State → State} (hb : s.boot.bundle = true) (ho : s.ownsG fn = false) :
    s.gateG fn off v act = s.refuseG fn off 2 v := by
  simp [State.gateG, hb, ho]

@[simp] theorem SlotWrite.dword_whole (v : Dword) (old : Nat) : ({ half := 0, val := v.toNat } : SlotWrite).dword old = v := by
  simp [SlotWrite.dword, SlotWrite.merged]

/-! The registers of the global block that stand for the kinds of writes: a value that may be refused, bits cleared by writing 1, none. -/

theorem State.writeReg_cap {v : Nat} (hb : s.boot.bundle = true) :
    s.writeReg fn off { half := 0, val := v } .glbPwrCap = s.writeGlb fn off { half := 0, val := v } .glbPwrCap :=
  if_neg (by simp [hb])

theorem State.writeReg_cap_inRange {val : Dword} (hb : s.boot.bundle = true) (ho : s.ownsG fn = true) (hlo : 800 ≤ bf val 0 12)
    (hhi : bf val 0 12 ≤ 2000) : s.writeReg fn off { half := 0, val := val.toNat } .glbPwrCap =
      { s with pwr := { s.pwr with
        capW := bf val 0 12, ilim := { s with pwr := { s.pwr with capW := bf val 0 12 } }.iLimit } } := by
  simp only [State.writeReg_cap hb, State.writeGlb, State.gateG_owner hb ho, SlotWrite.dword_whole]
  rw [if_neg (by simp [hlo, hhi])]

theorem State.writeReg_cap_outOfRange {val : Dword} (hb : s.boot.bundle = true) (ho : s.ownsG fn = true)
    (h : bf val 0 12 < 800 ∨ 2000 < bf val 0 12) :
    s.writeReg fn off { half := 0, val := val.toNat } .glbPwrCap = s.refuseG fn off 6 val.toNat := by
  simp only [State.writeReg_cap hb, State.writeGlb, State.gateG_owner hb ho, SlotWrite.dword_whole]
  rw [if_pos (by simpa using h)]

theorem State.writeReg_cap_other {v : Nat} (hb : s.boot.bundle = true) (ho : s.ownsG fn = false) :
    s.writeReg fn off { half := 0, val := v } .glbPwrCap = s.refuseG fn off 2 v := by
  simp only [State.writeReg_cap hb, State.writeGlb, State.gateG_other hb ho]

theorem State.writeReg_cap_early {v : Nat} (hb : s.boot.bundle = false) (hn : fn ≠ .net) :
    s.writeReg fn off { half := 0, val := v } .glbPwrCap = s.refuseG fn off 3 v :=
  if_pos (by simp [hb, hn, Reg.early])

theorem State.writeReg_env {v : Nat} (hb : s.boot.bundle = true) (ho : s.ownsG fn = true) :
    s.writeReg fn off { half := 0, val := v } .glbEnvStatus = { s with pwr := { s.pwr with
      inputEvt := s.pwr.inputEvt && !v.testBit 32, coolantEvt := s.pwr.coolantEvt && !v.testBit 33
      railEvt := s.pwr.railEvt && !v.testBit 34 } } := by
  have hw : s.writeReg fn off { half := 0, val := v } .glbEnvStatus = s.writeGlb fn off { half := 0, val := v } .glbEnvStatus :=
    if_neg (by simp [hb])
  simp only [hw, State.writeGlb, State.gateG_owner hb ho]

theorem State.writeReg_id {v : Nat} (hb : s.boot.bundle = true) : s.writeReg fn off { half := 0, val := v } .glbId = s :=
  if_neg (by simp [hb])

/-! Reads. -/

theorem exec_bar0IrregularAccess (len : Nat) (write : Bool) (val : Dword) :
    exec (.bar0IrregularAccess fn off len write val) s = .next (stepBar0IrregularAccess fn off len write val s) := rfl

theorem exec_lowHalfRead : exec (.lowHalfRead fn off) s = .next (stepLowHalfRead fn off s) := rfl

/-- A read of 4 or 8 aligned bytes, whatever command carries it. -/
theorem exec_bar0Read (len : Nat) (val : Dword) (h : regular off len = true) :
    exec (.bar0IrregularAccess fn off len false val) s = .next (s.readBar0 fn off len) := by
  simp [exec_bar0IrregularAccess, stepBar0IrregularAccess, h]

theorem exec_lowHalfRead_aligned (h : off % 4 = 0) : exec (.lowHalfRead fn off) s = .next (s.readBar0 fn off 4) := by
  simp [exec_lowHalfRead, stepLowHalfRead, h]

theorem State.readBar0_unowned (n : Nat) (h : s.unowned fn off = true) : s.readBar0 fn off n = (s.unlatch fn).refuseRead fn := by
  simp [State.readBar0, h]

theorem State.readBar0_eight (h : s.unowned fn off = false) :
    s.readBar0 fn off 8 = (s.unlatch fn).readBack fn 8 (s.slotVal fn off) := by
  simp [State.readBar0, h]

theorem State.readBar0_high (h : s.unowned fn off = false) (h4 : off % 8 = 4) (hl : s.hosts.latch = []) :
    s.readBar0 fn off 4 = (s.unlatch fn).readBack fn 4 (s.slotVal fn off / 2 ^ 32) := by
  simp [State.readBar0, h, h4, hl]

/-- The high half of a register whose low half the function has just read: what that read latched (00 R11). -/
theorem State.readBar0_latched {t : Tbl (Nat × Nat)} {o v : Nat} (h : s.unowned fn off = false) (h4 : off % 8 = 4)
    (hm : s.mapOff fn (off - 4) = some o) (hl : s.hosts.latch = tset (tdel t (fnCode fn)) (fnCode fn) (o, v)) :
    s.readBar0 fn off 4 = (s.unlatch fn).readBack fn 4 v := by
  have hf : s.hosts.latch.find? (fun e => e.1 == fnCode fn && s.mapOff fn (off - 4) == some e.2.1) = some (fnCode fn, o, v) := by
    rw [hl]
    refine find?_tset (by simp [hm]) fun e he => ?_
    have hne : e.1 ≠ fnCode fn := by simpa using (List.mem_filter.mp he).2
    simp [hne]
  simp [State.readBar0, h, h4, hf]

/-- The low half of a 64-bit register latches the high half (00 R11). -/
theorem State.readBar0_low {p : Fin 4} {r : Reg} (h : s.unowned (.pf p) off = false) (h8 : off % 8 = 0) (hr : regAt off = some r)
    (hw : r.wide = true) : s.readBar0 (.pf p) off 4 =
      { (s.unlatch (.pf p)).emit (.readData p.val 4 (s.slotVal (.pf p) off % 2 ^ 32)) with
        hosts := { (s.unlatch (.pf p)).hosts with
          latch := tset (tdel s.hosts.latch (fnCode (.pf p))) (fnCode (.pf p)) (off, s.slotVal (.pf p) off / 2 ^ 32) } } := by
  simp [State.readBar0, h, h8, State.mapOff, hr, hw, -State.mk.injEq]
  rfl

/-! Which offsets of a PF's BAR0 lie with a partition (11 R252, 22 R494). -/

theorem State.unowned_partitionBlock (p : Fin 4) {q x : Nat} (hq : q < 16) (hx : x < 0x10000) :
    s.unowned (.pf p) (0x10000 * (q + 1) + x) = (s.boot.bundle && !s.ownsP (.pf p) q) := by
  have hd : (0x10000 * (q + 1) + x) / 0x10000 - 1 = q := by omega
  have hlo : 0x10000 ≤ 0x10000 * (q + 1) + x := by omega
  have hhi : 0x10000 * (q + 1) + x < 0x110000 := by omega
  simp only [State.unowned, State.mapOff, hlo, hhi, hd, decide_true, Bool.and_self, if_true]

theorem State.unowned_doorbellPage (p : Fin 4) {q x : Nat} (hq : q < 16) (hx : x < 0x4000) :
    s.unowned (.pf p) (0x200000 + 0x4000 * q + x) = (s.boot.bundle && !s.ownsP (.pf p) q) := by
  have hd : (0x200000 + 0x4000 * q + x - 0x200000) / 0x4000 = q := by omega
  have hn : ¬ 0x200000 + 0x4000 * q + x < 0x110000 := by omega
  have hlo : 0x200000 ≤ 0x200000 + 0x4000 * q + x := by omega
  have hhi : 0x200000 + 0x4000 * q + x < 0x240000 := by omega
  simp only [State.unowned, State.mapOff, hn, hlo, hhi, hd, decide_true, decide_false, Bool.and_false, Bool.and_self, if_true,
    Bool.false_eq_true, if_false]

theorem State.unowned_global (p : Fin 4) (h : off < 0x10000) : s.unowned (.pf p) off = false := by
  have hn : ¬ 0x10000 ≤ off := by omega
  have hn2 : ¬ 0x200000 ≤ off := by omega
  simp [State.unowned, State.mapOff, hn, hn2]

/-- The two halves of GLB_READY read one after the other are of one value (00 R11). -/
theorem State.read_ready_halves (s : State) (p : Fin 4) : ∃ u w : State, exec (.lowHalfRead (.pf p) 0x10) s = .next u ∧
    u.out = .readData p.val 4 (s.slotVal (.pf p) 0x10 % 2 ^ 32) :: s.out ∧ u.log = s.log ∧
    exec (.lowHalfRead (.pf p) 0x14) u = .next w ∧ w.out = .readData p.val 4 (s.slotVal (.pf p) 0x10 / 2 ^ 32) :: u.out ∧
    w.hosts.latch = tdel s.hosts.latch (fnCode (.pf p)) := by
  have hlow := State.readBar0_low (s := s) (State.unowned_global p (by decide : 0x10 < 0x10000)) (by decide)
    (rfl : regAt 0x10 = some .glbReady) rfl
  have hhigh : (s.readBar0 (.pf p) 0x10 4).readBar0 (.pf p) 0x14 4 =
      ((s.readBar0 (.pf p) 0x10 4).unlatch (.pf p)).readBack (.pf p) 4 (s.slotVal (.pf p) 0x10 / 2 ^ 32) := by
    rw [hlow]
    exact State.readBar0_latched (State.unowned_global p (by decide)) (by decide) rfl rfl
  refine ⟨_, _, exec_lowHalfRead_aligned (by decide), ?_, ?_, exec_lowHalfRead_aligned (by decide), ?_, ?_⟩
  · rw [hlow]
    rfl
  · rw [hlow]
    rfl
  · rw [hhigh]
    rfl
  · rw [hhigh, hlow]
    exact (tdel_tset _ _ _).trans (tdel_tdel _ _)

/-! The statement, by kinds of access. -/

/-- The owner's write of a cap in range sets it (18 R427). -/
theorem exec_capWrite_inRange {val : Dword} (hb : s.boot.bundle = true) (ho : s.ownsG fn = true) (hlo : 800 ≤ bf val 0 12)
    (hhi : bf val 0 12 ≤ 2000) : ∃ u, exec (.registerWrite fn 0x38 .b8 val) s = .next u ∧ u.pwr.capW = bf val 0 12 ∧
      u.log = s.log ∧ u.mem = s.mem ∧ u.tiles = s.tiles := by
  refine ⟨_, exec_registerWrite_slot val (by decide) (State.mapOff_of_ownsG ho _) rfl, ?_⟩
  rw [State.withAccess, State.writeReg_cap_inRange (by simpa using hb) (by simpa using ho) hlo hhi]
  simp

/-- A write of the cap that the register refuses is an access event of its reason, and nothing else. -/
theorem exec_capWrite_refused {val : Dword} {reason : Nat} (hm : ∀ t : State, t.mapOff fn 0x38 = some 0x38)
    (h : ∀ a : Hosts, { s.unlatch fn with hosts := a }.writeReg fn 0x38 { half := 0, val := val.toNat } .glbPwrCap =
      { s.unlatch fn with hosts := a }.refuseG fn 0x38 reason val.toNat) :
    exec (.registerWrite fn 0x38 .b8 val) s =
      .next ((s.unlatch fn).withAccess 0x38 val.toNat (fun t => t.refuseG fn 0x38 reason val.toNat)) := by
  rw [exec_registerWrite_slot val (by decide) hm rfl]
  exact congrArg Host.Outcome.next (State.withAccess_congr (h _))

/-- The owner's write of GLB_ENV_STATUS clears the events that it writes 1 to (22 R495). -/
theorem exec_envWrite {val : Dword} (hb : s.boot.bundle = true) (ho : s.ownsG fn = true) :
    ∃ u, exec (.registerWrite fn 0x48 .b8 val) s = .next u ∧ u.pwr.inputEvt = (s.pwr.inputEvt && !val.toNat.testBit 32) ∧
      u.pwr.coolantEvt = (s.pwr.coolantEvt && !val.toNat.testBit 33) ∧ u.pwr.railEvt = (s.pwr.railEvt && !val.toNat.testBit 34) ∧
      u.log = s.log ∧ u.mem = s.mem := by
  refine ⟨_, exec_registerWrite_slot val (by decide) (State.mapOff_of_ownsG ho _) rfl, ?_⟩
  rw [State.withAccess, State.writeReg_env (by simpa using hb) (by simpa using ho)]
  simp

/-- A read-only register takes no write. -/
theorem exec_idWrite {val : Dword} (hb : s.boot.bundle = true) (ho : s.ownsG fn = true) :
    exec (.registerWrite fn 0x00 .b8 val) s = .next { s.unlatch fn with hosts := { (s.unlatch fn).hosts with acc := none } } := by
  rw [exec_registerWrite_slot val (by decide) (State.mapOff_of_ownsG ho _) rfl, State.withAccess, State.writeReg_id (by simpa using hb)]

/-- A write where no register is mapped has no effect (22 R495). -/
theorem exec_registerWrite_unmapped {z : Size} {val : Dword} (h : regular off (sizeBytes z) = true) (hm : s.mapOff fn off = none) :
    exec (.registerWrite fn off z val) s = .next { s.unlatch fn with hosts := { (s.unlatch fn).hosts with acc := none } } := by
  rw [exec_registerWrite, State.writeBar0_regular _ h, State.withAccess, State.writeSlot_unmapped (by simpa using hm)]

/-- A read that the function may not make is an Unsupported Request, whatever its length (11 R253). -/
theorem exec_read_unowned {p : Fin 4} (val : Dword) (h4 : off % 4 = 0) (hu : s.unowned (.pf p) off = true) :
    exec (.lowHalfRead (.pf p) off) s = .next ((s.unlatch (.pf p)).emit (.unsupported p.val)) ∧
    (off % 8 = 0 → exec (.bar0IrregularAccess (.pf p) off 8 false val) s =
      .next ((s.unlatch (.pf p)).emit (.unsupported p.val))) := by
  refine ⟨?_, fun h8 => ?_⟩
  · rw [exec_lowHalfRead_aligned h4, State.readBar0_unowned _ hu, State.refuseRead]
  · rw [exec_bar0Read 8 val (by simp [regular, h8]), State.readBar0_unowned _ hu, State.refuseRead]

end

/-- Settles O38: the rule of each kind of access, in the order of the statement. -/
theorem registerAccesses : Obligations.RegisterAccesses := by
  intro s fn
  refine ⟨fun off z val h => ?_, fun off len val => ⟨fun h => ?_, fun h => ⟨?_, ?_⟩⟩, fun _ _ => ⟨rfl, rfl, rfl, rfl, rfl, rfl, rfl⟩,
    fun _ _ _ => ⟨rfl, rfl, rfl⟩, fun off z val => exec_registerWrite_unmapped, fun val hb ho =>
      ⟨exec_capWrite_inRange hb ho, fun hv => ?_, exec_envWrite hb ho, exec_idWrite hb ho⟩, ?_, ?_, ?_⟩
  · rw [exec_registerWrite, State.writeBar0_irregular _ h]
  · exact congrArg Host.Outcome.next (State.writeBar0_regular _ h)
  · exact congrArg Host.Outcome.next (State.writeBar0_irregular _ h)
  · simp [exec_bar0IrregularAccess, stepBar0IrregularAccess, h]
  · exact exec_capWrite_refused (State.mapOff_of_ownsG ho _) fun _ =>
      State.writeReg_cap_outOfRange (by simpa using hb) (by simpa using ho) hv
  · rintro p val rfl hb ho
    exact exec_capWrite_refused (fun _ => rfl) fun _ => State.writeReg_cap_other (by simpa using hb) (by simpa using ho)
  · rintro p val rfl hb
    exact exec_capWrite_refused (fun _ => rfl) fun _ => State.writeReg_cap_early (by simpa using hb) (by simp)
  · rintro p rfl
    refine ⟨fun off h => ?_, fun off h4 hl hu => ?_, fun off val h8 hu => ?_, fun off val => exec_read_unowned val,
      fun _ _ => State.unowned_partitionBlock p, fun _ _ => State.unowned_doorbellPage p, s.read_ready_halves p⟩
    · simp [exec_lowHalfRead, stepLowHalfRead, h, State.readBack]
    · rw [exec_lowHalfRead_aligned (by omega), State.readBar0_high hu h4 hl, State.readBack]
    · rw [exec_bar0Read 8 val (by simp [regular, h8]), State.readBar0_eight hu, State.readBack]


end Sys2Proof.Machine
end

section
/-! SUPPORT. The state at reset (01 R36, R41, 07 R176, 18 R427), and which physical rows the batteries hold (01 R25, R93). -/
namespace Sys2Proof.Machine

/-- Settles O52: each value is that of a field of the reset state, whose tables list nothing. -/
theorem resetValues : Obligations.ResetValues :=
  ⟨fun _ => ⟨rfl, rfl⟩, rfl, fun _ _ => ⟨rfl, rfl⟩, fun _ _ => ⟨rfl, rfl⟩, fun _ => rfl, rfl, rfl, rfl, rfl, fun _ => ⟨rfl, rfl⟩, rfl,
    fun _ => ⟨rfl, rfl⟩⟩

/-- Settles O53: memory lists no byte, and every array clock is the reset one. -/
theorem resetInvariant : Obligations.ResetInvariant := ⟨rfl, State.reset_clocksLegal⟩

/-! Rows. -/

/-- Without a skip a logical row is the physical row of its number (01 R26). -/
theorem physRow_unskipped (i : Nat) : physRow 31 i = i := by simp [physRow]

/-- The cluster and the row of a TADDR in range are those it was made of (01 R23). -/
theorem taC_taddr {c x y : Nat} (hc : c < 16) (hx : x < 16) (hy : y < 32) : taC (taddr c x y) = c := by
  simp only [taC, taddr, field]
  omega

theorem taY_taddr {x y : Nat} (c : Nat) (hy : y < 32) : taY (taddr c x y) = y := by
  simp only [taY, taddr, field]
  omega

/-- A logical position of a battery lies in its rectangle (04 R93). -/
theorem mem_positions {w h q : Nat} (hw : w ≤ 16) (hq : q ∈ positions w h) : q % 16 < w ∧ q / 16 < h := by
  simp only [positions, List.mem_flatMap, List.mem_map, List.mem_range] at hq
  obtain ⟨j, hj, i, hi, rfl⟩ := hq
  omega

/-- A tile of a battery stands at a logical position of its rectangle (04 R93). -/
theorem State.mem_batTiles {s : State} {c b : Nat} {e : Nat × Nat} (he : e ∈ s.batTiles c b) :
    e.1 ∈ positions (shapeW (s.shape c b)) (shapeH (s.shape c b)) ∧ e.2 = s.tileAt c b (e.1 % 16) (e.1 / 16) := by
  unfold State.batTiles at he
  dsimp only at he
  split at he
  · obtain ⟨q, hq, rfl⟩ := List.mem_map.mp he
    exact ⟨hq, rfl⟩
  · cases he

/-- Settles O59: a tile of a battery stands in the row of its logical position, which is below the battery's last. -/
theorem seventeenthRow : Obligations.SeventeenthRow := by
  refine fun s c hskip => ⟨fun x i _ => hskip x ▸ physRow_unskipped i, fun b hrows hcols e he => ?_⟩
  obtain ⟨hpos, htile⟩ := State.mem_batTiles he
  obtain ⟨hcol, hrow⟩ := mem_positions (by omega) hpos
  simp only [State.tileAt, hskip, physRow_unskipped] at htile
  have hy := taY_taddr (x := shapeX0 (s.shape c.val b) + e.1 % 16) c.val
    (by omega : shapeY0 (s.shape c.val b) + e.1 / 16 < 32)
  rw [htile, hy, taC_taddr c.isLt (by omega) (by omega)]
  omega

end Sys2Proof.Machine
end

section
/-! SUPPORT. One step of an array clock, strict mode and FLUSH, and the statement about them (01 R36-R41, 12 R285, R286, R300). -/
namespace Sys2Proof.Machine

/-! Folds of a state over a list. -/

/-- Two acts that do the same in every state with a property that they keep do the same over a list. -/
theorem State.each_congr {α : Type} {P : State → Prop} {f g : State → α → State} {l : List α} {s : State} (hs : P s)
    (hfg : ∀ s e, P s → f s e = g s e) (hg : ∀ s e, P s → P (g s e)) : s.each l f = s.each l g := by
  unfold State.each
  induction l generalizing s with
  | nil => rfl
  | cons e r ih =>
    rw [List.foldl_cons, List.foldl_cons, hfg s e hs]
    exact ih (hg s e hs)

/-- A fold leaves a view that only the acts at an element outside the list write. -/
theorem State.each_off {α β : Type} (g : State → β) {f : State → α → State} {l : List α} {n : α} (hn : n ∉ l)
    (hother : ∀ s m, m ≠ n → g (f s m) = g s) (s : State) : g (s.each l f) = g s := by
  unfold State.each
  induction l generalizing s with
  | nil => rfl
  | cons e r ih =>
    obtain ⟨he, hr⟩ := not_or.mp (mt List.mem_cons.mpr hn)
    exact (ih hr (f s e)).trans (hother s e (Ne.symm he))

/-- A view that only the act at one element of the list writes, and that this act reads, is written once. -/
theorem State.each_at {α β : Type} [DecidableEq α] (g : State → β) {f : State → α → State} {l : List α} {n : α} (hl : l.Nodup)
    (hn : n ∈ l) (hother : ∀ s m, m ≠ n → g (f s m) = g s) (hsame : ∀ s t, g s = g t → g (f s n) = g (f t n)) (s : State) :
    g (s.each l f) = g (f s n) := by
  induction l generalizing s with
  | nil => cases hn
  | cons e r ih =>
    obtain ⟨he, hr⟩ := List.nodup_cons.mp hl
    by_cases h : e = n
    · subst h
      exact State.each_off g he hother (f s e)
    · have hnr : n ∈ r := (List.mem_cons.mp hn).resolve_left (Ne.symm h)
      exact (ih hr hnr (f s e)).trans (hsame _ _ (hother s e h))

/-- An update of the clocks of a list of clusters without repetition updates each of them once, and no other. -/
theorem State.each_updClock_clock {f : Clock → Clock} {l : List Nat} (hl : l.Nodup) (s : State) (n : Nat) :
    (s.each l (fun s c => s.updClock c f)).clock n = if n ∈ l then f (s.clock n) else s.clock n := by
  have hother : ∀ (t : State) (m : Nat), m ≠ n → (t.updClock m f).clock n = t.clock n := fun t m hm => by
    rw [State.updClock_clock, if_neg (Ne.symm hm)]
  have hat : ∀ t : State, (t.updClock n f).clock n = f (t.clock n) := fun t => by rw [State.updClock_clock, if_pos rfl]
  split
  · rename_i hn
    exact (State.each_at (State.clock · n) hl hn hother (fun s t h => by simp only [hat, h]) s).trans (hat s)
  · rename_i hn
    exact State.each_off (State.clock · n) hn hother s

theorem State.clustersOf_nodup (s : State) (p : Nat) : (s.clustersOf p).Nodup := List.nodup_range.filter _

theorem State.updPart_part_same (s : State) (p : Nat) (f : Part → Part) : (s.updPart p f).part p = f (s.part p) := tget_tset_same _ _ _ _

theorem State.unlatch_arbitrate (s : State) (fn : Fn) (sev : Nat) (t : Target) : (s.unlatch fn).arbitrate sev t = s.arbitrate sev t := by
  cases fn <;> rfl

/-! A power event is a log entry and nothing else (18 R418). -/

theorem State.logPower_clock (s : State) (c : Nat) (w : Bool) (n l st m : Nat) : (s.logPower c w n l st m).clock = s.clock := rfl

/-! Steps of the array clock. -/

/-- The step that is due is the one toward the frequency asked for, in the direction given (01 R36, R37). -/
theorem Clock.next_eq_some {k : Clock} {up : Bool} {n : Nat} : k.next up = some n ↔ ∃ t, k.target = some t ∧
    ((up = true ∧ k.code < t ∧ n = k.code + 1) ∨ (up = false ∧ t < k.code ∧ n = k.code - 1)) := by
  unfold Clock.next
  cases k.target with
  | none => simp
  | some t =>
    rcases Nat.lt_trichotomy t k.code with h | h | h
    · have h' : ¬ k.code < t := by omega
      cases up <;> simp [h, h', eq_comm]
    · simp [h]
    · have h' : ¬ t < k.code := by omega
      cases up <;> simp [h, h', eq_comm]

/-- A step that is due moves the code by one. -/
theorem Clock.next_adjacent {k : Clock} {up : Bool} {n : Nat} (h : k.next up = some n) : n = k.code + 1 ∨ n + 1 = k.code := by
  obtain ⟨t, _, ⟨_, _, rfl⟩ | ⟨_, ht, rfl⟩⟩ := Clock.next_eq_some.mp h
  · exact .inl rfl
  · exact .inr (by omega)

theorem Clock.next_of_no_target {k : Clock} {up : Bool} (h : k.target = none) : k.next up = none := by simp [Clock.next, h]

/-- A step of a cluster that is not pinned writes its clock alone (01 R37). -/
theorem State.setCode_unpinned {s : State} {c : Nat} (n : Nat) (h : (s.clock c).pinned = false) :
    s.setCode c n = s.updClock c (fun k => { k with
      code := n, lowest := n, target := if k.target == some n then none else k.target }) := by
  simp only [State.setCode, State.updClock, State.updCl, h, Bool.false_and, Bool.false_eq_true, if_false]
  rw [show (s.cl c).clk.pinned = false from h]
  simp

theorem stepAclkStep_due {s : State} {c : Fin 16} {up : Bool} {n : Nat} (hd : s.compDown 17 = true → (s.clock c.val).lowered = true)
    (hs : s.sliceHolds c.val = false) (hr : up = true → 40 ≤ (s.clock c.val).code → s.mayRise c.val = true)
    (hn : (s.clock c.val).next up = some n) : stepAclkStep c up s = s.setCode c.val n := by
  have hgo : ((s.compDown 17 && !(s.clock c.val).lowered) || s.sliceHolds c.val ||
      (up && decide (40 ≤ (s.clock c.val).code) && !s.mayRise c.val)) = false := by
    simp only [Bool.or_eq_false_iff, Bool.and_eq_false_imp, Bool.not_eq_false', Bool.and_eq_true, decide_eq_true_eq]
    exact ⟨⟨hd, hs⟩, fun h => hr h.1 h.2⟩
  simp [stepAclkStep, hgo, hn]

theorem stepAclkStep_still {s : State} {c : Fin 16} (up : Bool) (h : s.sliceHolds c.val = true ∨ (s.clock c.val).target = none ∨
    (s.compDown 17 = true ∧ (s.clock c.val).lowered = false)) : stepAclkStep c up s = s := by
  unfold stepAclkStep
  rcases h with h | h | ⟨hd, hl⟩
  · simp [h]
  · simp [Clock.next_of_no_target h]
  · simp [hd, hl]

/-! Strict mode. -/

/-- STRICT goes on (12 R286): each cluster of the partition is asked for 1.350 GHz, and memory and the tiles stay. -/
theorem State.setStrict_on (s : State) (p : Nat) :
    ((s.setStrict p true).part p).strict = true ∧ ((s.setStrict p true).part p).strictBusy = !(s.clustersOf p).isEmpty ∧
    (∀ c ∈ s.clustersOf p, ((s.setStrict p true).clock c).target = if (s.clock c).code = 54 then none else some 54) ∧
    (s.setStrict p true).tiles = s.tiles ∧ (s.setStrict p true).mem = s.mem := by
  simp only [State.setStrict, if_true, State.updPart_part_same, State.updPart_tiles, State.updPart_mem]
  refine ⟨trivial, trivial, fun c hc => ?_, ?_, ?_⟩
  · show (State.clock (State.each _ _ _) c).target = _
    rw [State.each_frame State.clock fun s c => s.logPower_clock c false 54 4 0 0, State.each_updClock_clock (s.clustersOf_nodup p),
      if_pos hc]
  · exact (State.each_frame State.tiles (fun _ _ => by rfl) _).trans (State.each_frame State.tiles (fun _ _ => by rfl) s)
  · exact (State.each_frame State.mem (fun _ _ => by rfl) _).trans (State.each_frame State.mem (fun _ _ => by rfl) s)

section
variable {s : State} {p : Nat} {on : Bool}

theorem State.writeStrict_superseded (h : s.arbitrate 8 (.part p) ≠ .proceed) :
    s.writeStrict p on = s.updPart p (fun x => { x with strictResult := St.superseded }) := by
  simp [State.writeStrict, h]

theorem State.writeStrict_unchanged (h : s.arbitrate 8 (.part p) = .proceed) (hon : on = (s.part p).strict) :
    s.writeStrict p on = s.updPart p (fun x => { x with strictResult := St.completed }) := by
  simp [State.writeStrict, h, hon]

theorem State.writeStrict_busy (h : s.arbitrate 8 (.part p) = .proceed) (hon : on ≠ (s.part p).strict) (hf : s.strictFree p = false) :
    s.writeStrict p on = s.updPart p (fun x => { x with strictResult := St.contextState }) := by
  simp [State.writeStrict, h, hon, hf]

theorem State.writeStrict_free (h : s.arbitrate 8 (.part p) = .proceed) (hon : on ≠ (s.part p).strict) (hf : s.strictFree p = true) :
    s.writeStrict p on = (s.setStrict p on).updPart p (fun x => { x with strictResult := St.completed }) := by
  simp [State.writeStrict, h, hon, hf]

end

/-- No section is in ARM. -/
def State.noneInArm (s : State) : Prop := ∀ e ∈ s.bats, e.2.st ≠ .arm

/-- Where no section is in ARM, none waits for PINNED. -/
theorem State.unpinWaits_noneInArm {s : State} (h : s.noneInArm) (c : Nat) : s.unpinWaits c = s := by
  have hl : s.bats.filter (fun e => e.1 / 64 == c && e.2.st == .arm && e.2.waitPin) = [] := by
    refine List.filter_eq_nil_iff.mpr fun e he => ?_
    simp [h e he]
  rw [State.unpinWaits, hl]
  rfl

/-- A clock that strict mode pins at 1.350 GHz (12 R286). -/
def Clock.pin (k : Clock) : Clock := { k with pinned := true, lowest := 54, target := none, lowered := false }

/-- The clusters of a partition that PINNED pins: those that stand at 1.350 GHz and are not pinned. -/
def State.toPin (s : State) (p : Nat) : List Nat := (s.clustersOf p).filter (fun c => (s.clock c).code == 54 && !(s.clock c).pinned)

/-- The clusters to pin are pinned. -/
def State.pinAll (s : State) (p : Nat) : State := s.each (s.toPin p) (fun s c => s.updClock c Clock.pin)

theorem State.mem_toPin {s : State} {p c : Nat} :
    c ∈ s.toPin p ↔ c ∈ s.clustersOf p ∧ (s.clock c).code = 54 ∧ (s.clock c).pinned = false := by
  simp [State.toPin]

theorem State.pinAll_clock (s : State) (p c : Nat) :
    (s.pinAll p).clock c = if c ∈ s.toPin p then (s.clock c).pin else s.clock c :=
  State.each_updClock_clock ((s.clustersOf_nodup p).filter _) s c

@[simp] theorem State.pinAll_bats (s : State) (p : Nat) : (s.pinAll p).bats = s.bats := State.each_frame State.bats (fun _ _ => by rfl) s
@[simp] theorem State.pinAll_tiles (s : State) (p : Nat) : (s.pinAll p).tiles = s.tiles := State.each_frame State.tiles (fun _ _ => by rfl) s
@[simp] theorem State.pinAll_mem (s : State) (p : Nat) : (s.pinAll p).mem = s.mem := State.each_frame State.mem (fun _ _ => by rfl) s
@[simp] theorem State.pinAll_part (s : State) (p : Nat) : (s.pinAll p).part = s.part := State.each_frame State.part (fun _ _ => by rfl) s

/-- A cluster of the partition that stands at 1.350 GHz is pinned afterwards. -/
theorem State.pinAll_pinned {s : State} {p c : Nat} (hc : c ∈ s.clustersOf p) (h54 : (s.clock c).code = 54) :
    ((s.pinAll p).clock c).pinned = true := by
  rw [State.pinAll_clock]
  split
  · rfl
  · rename_i hn
    simpa [State.mem_toPin, hc, h54] using hn

/-- A cluster that does not keeps its clock. -/
theorem State.pinAll_other {s : State} {p c : Nat} (h54 : (s.clock c).code ≠ 54) : (s.pinAll p).clock c = s.clock c := by
  rw [State.pinAll_clock, if_neg fun h => h54 (State.mem_toPin.mp h).2.1]

/-- PINNED where no section is in ARM (12 R286): the clusters are pinned, and when all are, BUSY clears and what waited is performed. -/
theorem stepPinned_noneInArm {s : State} {p : Fin 16} (hs : (s.part p.val).strict = true) (ha : s.noneInArm) :
    stepPinned p s = if (s.part p.val).strictBusy && (s.clustersOf p.val).all (fun c => ((s.pinAll p.val).clock c).pinned) then
      ((s.pinAll p.val).updPart p.val (fun x => { x with strictBusy := false })).runWaiting p.val else s.pinAll p.val := by
  have hpin : s.each (s.toPin p.val) (fun s c => (s.updClock c Clock.pin).unpinWaits c) = s.pinAll p.val :=
    State.each_congr (P := State.noneInArm) ha (fun t c ht => State.unpinWaits_noneInArm (s := t.updClock c Clock.pin) ht c)
      fun _ _ ht => ht
  rw [← State.pinAll_part s p.val, ← hpin]
  unfold stepPinned
  rw [hs]
  rfl

/-! FLUSH. -/

/-- FLUSH empties the stream-cache of each cluster of the partition, and drops the translations of its contexts everywhere (12 R300). -/
theorem State.flushPart_cl (s : State) (p c : Nat) : (s.flushPart p).cl c =
    { s.cl c with
      cache := if s.owns p c then [] else (s.cl c).cache
      tlb := (s.cl c).tlb.filter (fun e => e.ctx.part != p) } := by
  have hreset : { Cluster.reset with
      cache := if s.owns p c then [] else Cluster.reset.cache
      tlb := Cluster.reset.tlb.filter (fun e => e.ctx.part != p) } = Cluster.reset := by
    split <;> rfl
  exact tget_tmap s.clusters (fun c (x : Cluster) => { x with
    cache := if s.owns p c then [] else x.cache, tlb := x.tlb.filter (fun e => e.ctx.part != p) }) c Cluster.reset hreset

/-! The accesses of a function: its latch is released first (00 R11). -/

section
variable {s : State} {fn : Fn} {p : Fin 16}

theorem exec_strictWrite_owner (ho : s.ownsP fn p.val = true) (hr : s.resetting p.val = false) (val : Dword) :
    exec (.strictWrite fn p val) s = .next (if val.toNat.testBit 2 then
      ((s.unlatch fn).writeStrict p.val (val.toNat.testBit 0)).flushPart p.val else (s.unlatch fn).writeStrict p.val (val.toNat.testBit 0)) := by
  show Host.Outcome.next (stepStrictWrite fn p val (s.unlatch fn)) = _
  simp [stepStrictWrite, ho, hr]

theorem exec_flush_owner (ho : s.ownsP fn p.val = true) (hr : s.resetting p.val = false) :
    exec (.flush fn p) s = .next ((s.unlatch fn).flushPart p.val) := by
  show Host.Outcome.next (stepFlush fn p (s.unlatch fn)) = _
  simp [stepFlush, ho, hr]

/-- Another function's write (reason 2), and one during a reset (reason 3), is refused (00 R13, 22 R507). -/
theorem exec_strictWrite_flush_refused (val : Dword) {r : Nat} (h : (s.ownsP fn p.val = false ∧ r = 2) ∨
    (s.ownsP fn p.val = true ∧ s.resetting p.val = true ∧ r = 3)) :
    exec (.strictWrite fn p val) s = .next ((s.unlatch fn).refuseP fn p.val (offP p.val 8) r val.toNat) ∧
    exec (.flush fn p) s = .next ((s.unlatch fn).refuseP fn p.val (offP p.val 8) r 4) := by
  show Host.Outcome.next (stepStrictWrite fn p val (s.unlatch fn)) = _ ∧ Host.Outcome.next (stepFlush fn p (s.unlatch fn)) = _
  rcases h with ⟨ho, rfl⟩ | ⟨ho, hr, rfl⟩
  · simp [stepStrictWrite, stepFlush, ho]
  · simp [stepStrictWrite, stepFlush, ho, hr]

/-- The owner's write that sets STRICT (12 R285, R286). -/
theorem exec_strictWrite_sets {val : Dword} (ho : s.ownsP fn p.val = true) (hr : s.resetting p.val = false)
    (ha : s.arbitrate 8 (.part p.val) = .proceed) (hs : (s.part p.val).strict = false) (hf : s.strictFree p.val = true)
    (h0 : val.toNat.testBit 0 = true) (h2 : val.toNat.testBit 2 = false) :
    ∃ u, exec (.strictWrite fn p val) s = .next u ∧ (u.part p.val).strict = true ∧ (u.part p.val).strictResult = St.completed ∧
      (u.part p.val).strictBusy = !(s.clustersOf p.val).isEmpty ∧
      (∀ c ∈ s.clustersOf p.val, (u.clock c).target = (if (s.clock c).code = 54 then none else some 54)) ∧
      u.tiles = s.tiles ∧ u.mem = s.mem := by
  have hw : (s.unlatch fn).writeStrict p.val true = _ := State.writeStrict_free ((s.unlatch_arbitrate fn _ _).trans ha)
    (by simp [hs]) (by simpa using hf)
  obtain ⟨hon, hbusy, htarget, htiles, hmem⟩ := (s.unlatch fn).setStrict_on p.val
  simp only [State.unlatch_clustersOf, State.unlatch_clock, State.unlatch_tiles, State.unlatch_mem] at hbusy htarget htiles hmem
  refine ⟨_, exec_strictWrite_owner ho hr val, ?_⟩
  rw [h0, h2, hw]
  simp only [Bool.false_eq_true, if_false, State.updPart_part_same]
  exact ⟨hon, trivial, hbusy, htarget, htiles, hmem⟩

/-- FLUSH by the owner (12 R300). -/
theorem exec_flush_frame (ho : s.ownsP fn p.val = true) (hr : s.resetting p.val = false) :
    ∃ u, exec (.flush fn p) s = .next u ∧ u.mem = s.mem ∧ u.tiles = s.tiles ∧ (∀ c : Nat, s.owns p.val c = true → (u.cl c).cache = []) ∧
      (∀ c : Nat, ∀ e ∈ (u.cl c).tlb, e.ctx.part ≠ p.val) ∧
      (∀ c : Nat, s.owns p.val c = false → (u.cl c).cache = (s.cl c).cache) := by
  refine ⟨_, exec_flush_owner ho hr, s.unlatch_mem fn, s.unlatch_tiles fn, fun c hc => ?_, fun c e he => ?_, fun c hc => ?_⟩
  · simp [State.flushPart_cl, hc]
  · rw [State.flushPart_cl] at he
    simpa using (List.mem_filter.mp he).2
  · simp [State.flushPart_cl, hc]

end

/-- A step toward the frequency asked for, of a cluster that is not pinned, moves its own code by one and nothing else. -/
theorem exec_aclkStep_unpinned {s : State} {c : Fin 16} {up : Bool} {n : Nat} (he : exec (.aclkStep c up) s = .next (s.setCode c.val n))
    (hn : (s.clock c.val).next up = some n) (hp : (s.clock c.val).pinned = false) :
    ∃ u, exec (.aclkStep c up) s = .next u ∧ (u.clock c.val).code = n ∧ (n = (s.clock c.val).code + 1 ∨ n + 1 = (s.clock c.val).code) ∧
      (∀ d, d ≠ c.val → u.clock d = s.clock d) ∧ u.tiles = s.tiles ∧ u.mem = s.mem ∧ u.ctxs = s.ctxs := by
  refine ⟨_, he, ?_⟩
  rw [State.setCode_unpinned n hp]
  refine ⟨?_, Clock.next_adjacent hn, fun d hd => ?_, rfl, rfl, rfl⟩
  · rw [State.updClock_clock, if_pos rfl]
  · rw [State.updClock_clock, if_neg hd]

/-- PINNED of a partition whose change of STRICT is over, where no section is in ARM (12 R286). -/
theorem exec_pinned_frame {s : State} {p : Fin 16} (hs : (s.part p.val).strict = true) (hb : (s.part p.val).strictBusy = false)
    (ha : s.noneInArm) : ∃ u, exec (.pinned p) s = .next u ∧
      (∀ c ∈ s.clustersOf p.val, (s.clock c).code = 54 → (u.clock c).pinned = true) ∧
      (∀ c ∈ s.clustersOf p.val, (s.clock c).code ≠ 54 → u.clock c = s.clock c) ∧ u.bats = s.bats ∧ u.tiles = s.tiles ∧ u.mem = s.mem := by
  have he : stepPinned p s = s.pinAll p.val := by simp [stepPinned_noneInArm hs ha, hb]
  exact ⟨_, congrArg Host.Outcome.next he, fun _ => State.pinAll_pinned, fun _ _ => State.pinAll_other, by simp, by simp, by simp⟩

/-- PINNED of the one cluster of a partition ends the change of STRICT (12 R286). -/
theorem exec_pinned_last {s : State} {p : Fin 16} {c : Nat} (hs : (s.part p.val).strict = true) (hc : s.clustersOf p.val = [c])
    (h54 : (s.clock c).code = 54) (hp : (s.clock c).pinned = false) (ha : s.noneInArm) (hb : (s.part p.val).strictBusy = true) :
    exec (.pinned p) s = .next (((s.updClock c Clock.pin).updPart p.val (fun x => { x with strictBusy := false })).runWaiting p.val) := by
  have htoPin : s.toPin p.val = [c] := by simp [State.toPin, hc, h54, hp]
  have hpinAll : s.pinAll p.val = s.updClock c Clock.pin := by
    rw [State.pinAll, htoPin]
    rfl
  have hall : (s.clustersOf p.val).all (fun c => ((s.pinAll p.val).clock c).pinned) = true := by
    simp [hc, State.pinAll_pinned (hc ▸ List.mem_singleton_self c) h54]
  refine congrArg Host.Outcome.next ?_
  rw [stepPinned_noneInArm hs ha, hb, hall, hpinAll]
  rfl

/-- Settles O9: the steps of a clock, the writes of STRICT, PINNED and FLUSH, each by its rule. -/
theorem clockStepsAndStrictMode : Obligations.ClockStepsAndStrictMode := by
  refine ⟨fun s c up => ⟨fun n hd hs hr hn => ?_, fun h => congrArg Host.Outcome.next (stepAclkStep_still up h), fun n => Clock.next_eq_some⟩,
    fun s fn p ho hr => ⟨exec_strictWrite_owner ho hr, fun val => exec_strictWrite_sets ho hr, fun on =>
      ⟨State.writeStrict_superseded, fun h => ⟨State.writeStrict_unchanged h, State.writeStrict_busy h, State.writeStrict_free h⟩⟩,
      exec_pinned_frame, fun c hs hc h54 hp ha hb => exec_pinned_last hs hc h54 hp ha hb, exec_flush_frame ho hr⟩,
    fun s fn p val r => exec_strictWrite_flush_refused val⟩
  have he : exec (.aclkStep c up) s = .next (s.setCode c.val n) := congrArg Host.Outcome.next (stepAclkStep_due hd hs hr hn)
  exact ⟨he, exec_aclkStep_unpinned he hn⟩

end Sys2Proof.Machine
end

section
/-! SUPPORT. What starting, rejecting, cancelling and ending the sections, streams and messages of the module leaves: the array clocks, the
self-test slices and the power figures. -/
namespace Sys2Proof.Machine

/-- The array clocks of the module, the record of its self-test slices and its power figures. -/
def State.pace (s : State) : (Nat → Clock) × Health × Power := (s.clock, s.health, s.pwr)

variable (s : State)

/-! Updates of the other parts. -/

@[simp] theorem State.setTile_pace (ta : Nat) (t : Tile) : (s.setTile ta t).pace = s.pace := rfl
@[simp] theorem State.updTile_pace (ta : Nat) (f : Tile → Tile) : (s.updTile ta f).pace = s.pace := rfl
@[simp] theorem State.updBat_pace (c b : Nat) (f : Battery → Battery) : (s.updBat c b f).pace = s.pace := rfl
@[simp] theorem State.updBatX_pace (c b : Nat) (f : BatteryX → BatteryX) : (s.updBatX c b f).pace = s.pace := rfl
@[simp] theorem State.setDesc_pace (c e d : Nat) (x : Desc) : (s.setDesc c e d x).pace = s.pace := rfl
@[simp] theorem State.updDescX_pace (c e d : Nat) (f : DescX → DescX) : (s.updDescX c e d f).pace = s.pace := rfl
@[simp] theorem State.updClX_pace (c : Nat) (f : ClusterX → ClusterX) : (s.updClX c f).pace = s.pace := rfl
@[simp] theorem State.updCtx_pace (p k : Nat) (f : Ctx → Ctx) : (s.updCtx p k f).pace = s.pace := rfl
@[simp] theorem State.updCtxX_pace (p k : Nat) (f : CtxX → CtxX) : (s.updCtxX p k f).pace = s.pace := rfl
@[simp] theorem State.updPart_pace (p : Nat) (f : Part → Part) : (s.updPart p f).pace = s.pace := rfl
@[simp] theorem State.updQueue_pace (p k x : Nat) (f : CmdQueue → CmdQueue) : (s.updQueue p k x f).pace = s.pace := rfl
@[simp] theorem State.updPort_pace (i : Nat) (f : Port → Port) : (s.updPort i f).pace = s.pace := rfl
@[simp] theorem State.updRxq_pace (ta i : Nat) (f : RxQueue → RxQueue) : (s.updRxq ta i f).pace = s.pace := rfl
@[simp] theorem State.updComb_pace (c q : Nat) (f : CombQueue → CombQueue) : (s.updComb c q f).pace = s.pace := rfl
@[simp] theorem State.updRport_pace (p : Nat) (f : RingPort → RingPort) : (s.updRport p f).pace = s.pace := rfl
@[simp] theorem State.emit_pace (e : OutEvent) : (s.emit e).pace = s.pace := rfl

/-- An update of a cluster that leaves its clock. -/
@[simp] theorem State.updCl_pace (c : Nat) {f : Cluster → Cluster} (hf : ∀ x, (f x).clk = x.clk) : (s.updCl c f).pace = s.pace := by
  refine Prod.ext (funext fun n => ?_) rfl
  show (tget (tset s.clusters c (f (s.cl c))) n Cluster.reset).clk = s.clock n
  rw [tget_tset]
  split
  · rename_i h
    rw [hf, h]
    rfl
  · rfl

@[simp] theorem State.each_pace {α : Type} {l : List α} {f : State → α → State} (hf : ∀ s e, (f s e).pace = s.pace) :
    (s.each l f).pace = s.pace := State.each_frame State.pace hf s

@[simp] theorem State.foldl_pace {α : Type} {l : List α} {f : State → α → State} (hf : ∀ s e, (f s e).pace = s.pace) :
    (l.foldl f s).pace = s.pace := State.each_frame State.pace hf s

@[simp] theorem State.ite_pace {c : Prop} [Decidable c] {x y : State} : (if c then x else y).pace = if c then x.pace else y.pace :=
  apply_ite State.pace c x y

theorem pace_ite {c : Prop} [Decidable c] {s x y : State} (hx : x.pace = s.pace) (hy : y.pace = s.pace) :
    (if c then x else y).pace = s.pace := by
  split <;> assumption

/-- What a step that also gives a value leaves. -/
theorem pace_of_fst {α : Type} {s t : State} {p : State × α} {v : α} (e : p = (t, v)) (h : p.1.pace = s.pace) : t.pace = s.pace := by
  rw [e] at h
  exact h

/-! Memory and translation. -/

/-- A map over the clusters that leaves each clock. -/
theorem State.tmap_pace {f : Nat → Cluster → Cluster} (hf : ∀ n x, (f n x).clk = x.clk) :
    State.pace { s with clusters := tmap s.clusters f } = s.pace := by
  refine Prod.ext (funext fun n => ?_) rfl
  show (tget (tmap s.clusters f) n Cluster.reset).clk = (tget s.clusters n Cluster.reset).clk
  rcases tget_tmap_or s.clusters f n Cluster.reset with e | ⟨e, e'⟩
  · rw [e, hf]
  · rw [e, e']

@[simp] theorem State.dropLines_pace (dpa len : Nat) : (s.dropLines dpa len).pace = s.pace := by
  unfold State.dropLines
  exact s.tmap_pace fun _ _ => rfl

@[simp] theorem State.store_pace (dpa : Nat) (bs : List Byte) : (s.store dpa bs).pace = s.pace := s.dropLines_pace dpa bs.length

@[simp] theorem State.takeFrame_pace (dpa : Nat) (i : CtxId) : (s.takeFrame dpa i).pace = s.pace := s.dropLines_pace _ _

@[simp] theorem State.translate_pace (i : CtxId) (va : Nat) (write : Bool) : (s.translate i va write).1.pace = s.pace := by
  unfold State.translate
  split
  · split <;> simp
  · rfl

@[simp] theorem State.blur_pace (l : List (Nat × Nat)) : (s.blur l).pace = s.pace := by
  induction l generalizing s with
  | nil => rfl
  | cons r rest ih => exact (ih _).trans (s.dropLines_pace r.1 r.2)

@[simp] theorem State.readVa_pace (i : CtxId) (fuel va n : Nat) : (s.readVa i fuel va n).1.pace = s.pace := by
  induction fuel generalizing s va n with
  | zero => rfl
  | succ fuel ih =>
    unfold State.readVa
    split
    · rfl
    · dsimp only
      split <;> rename_i e <;> have h1 := pace_of_fst e (s.translate_pace i va false)
      · split
        · exact h1
        · split
          · rename_i e2
            exact (pace_of_fst e2 (ih _ _ _)).trans h1
          · exact (ih _ _ _).trans h1
      · exact h1
      · exact h1

@[simp] theorem State.devPages_pace (i : CtxId) (write : Bool) (fuel va n : Nat) : (s.devPages i write fuel va n).1.pace = s.pace := by
  induction fuel generalizing s va n with
  | zero => rfl
  | succ fuel ih =>
    unfold State.devPages
    split
    · rfl
    · dsimp only
      split <;> rename_i e <;> have h1 := pace_of_fst e (s.translate_pace i va write)
      · split
        · rename_i e2
          exact (pace_of_fst e2 (ih _ _ _)).trans h1
        · exact (ih _ _ _).trans h1
      · exact h1
      · exact h1

@[simp] theorem State.mapRegion_pace (c : Nat) (i : CtxId) (out : Bool) (fuel va n : Nat) :
    (s.mapRegion c i out fuel va n).1.pace = s.pace := by
  induction fuel generalizing s va n with
  | zero => rfl
  | succ fuel ih =>
    unfold State.mapRegion
    split
    · rfl
    · dsimp only
      split <;> rename_i e <;> have h1 := pace_of_fst e (s.translate_pace i va out)
      · split
        · split
          · split
            · rename_i e2
              exact (pace_of_fst e2 (ih _ _ _)).trans h1
            · exact (ih _ _ _).trans h1
          · exact h1
        · exact h1
      · exact h1
      · exact h1

/-! The log, the belfry, interrupts and records. -/

@[simp] theorem State.log_pace (typ core comp n data : Nat) : (s.log_ typ core comp n data).pace = s.pace := rfl

@[simp] theorem State.bfSend_pace (typ : Nat) (resp ack : Bool) (seq ref : Nat) (payload : List Byte) :
    (s.bfSend typ resp ack seq ref payload).pace = s.pace := by
  simp [State.bfSend]

@[simp] theorem State.report_pace (typ payload : Nat) : (s.report typ payload).pace = s.pace := State.bfSend_pace _ _ _ _ _ _ _

@[simp] theorem State.respond_pace (port typ ref status : Nat) (bytes : List Byte) :
    (s.respond port typ ref status bytes).pace = s.pace := by
  unfold State.respond
  extract_lets b m all low s1
  have h1 : s1.pace = s.pace := rfl
  simp [h1]

@[simp] theorem State.answer_pace (key status : Nat) : (s.answer key status).pace = s.pace :=
  State.each_pace _ fun _ _ => by simp

@[simp] theorem State.msi_pace (port f vec : Nat) : (s.msi port f vec).pace = s.pace := by
  unfold State.msi
  dsimp only
  split <;> rfl

@[simp] theorem State.partMsi_pace (p k : Nat) : (s.partMsi p k).pace = s.pace := by
  unfold State.partMsi
  split <;> simp

@[simp] theorem State.irqFault_pace (p k : Nat) : (s.irqFault p k).pace = s.pace := by simp [State.irqFault]

@[simp] theorem State.ringRecord_pace (i : CtxId) (r : FaultRec) : (s.ringRecord i r).pace = s.pace := by
  unfold State.ringRecord
  extract_lets x bits s1 fail
  have h1 : s1.pace = s.pace := rfl
  have hf : fail.pace = s.pace := rfl
  split
  · exact h1
  · split
    · rename_i e
      have h2 := pace_of_fst e (State.translate_pace _ _ _ _)
      split
      · simp [h2, h1]
      · exact hf
    · exact hf

@[simp] theorem State.raise_pace (r : FaultRec) : (s.raise r).pace = s.pace := by
  unfold State.raise
  extract_lets rseq bits s1 s2
  have h2 : s2.pace = s.pace := by simp [s2, s1]
  split
  · simp [h2]
  · split <;> simp [h2]

@[simp] theorem State.lostNotice_pace (dpa len : Nat) : (s.lostNotice dpa len).pace = s.pace := by simp [State.lostNotice]

/-! Commands complete. -/

@[simp] theorem State.complete_pace (r : CmdRef) (status pos : Nat) : (s.complete r status pos).pace = s.pace := by
  simp [State.complete, State.markDone]

@[simp] theorem State.completeOpt_pace (r : Option CmdRef) (status : Nat) : (s.completeOpt r status).pace = s.pace := by
  cases r <;> simp [State.completeOpt]

@[simp] theorem State.leaveCmd_pace (r : Option CmdRef) : (s.leaveCmd r).pace = s.pace := by
  cases r <;> simp [State.leaveCmd]

@[simp] theorem State.endChain_pace (c : Nat) (h : Chain) (status : Nat) : (s.endChain c h status).pace = s.pace := by
  simp [State.endChain]

@[simp] theorem State.completeAt_pace (c : Nat) (r : Option CmdRef) (status : Nat) : (s.completeAt c r status).pace = s.pace := by
  unfold State.completeAt
  split
  · rfl
  · split <;> simp

/-! A fault fatal to a context. -/

@[simp] theorem State.enterFaulted_pace (i : CtxId) (status : Nat) : (s.enterFaulted i status).pace = s.pace := by
  simp [State.enterFaulted, State.ctxResult]

@[simp] theorem State.dropWaits_pace (i : CtxId) {f : State → Option CmdRef → State} (hf : ∀ s c, (f s c).pace = s.pace) :
    (s.dropWaits i f).pace = s.pace := by
  simp [State.dropWaits, hf]

@[simp] theorem State.stopDesc_pace (key status : Nat) : (s.stopDesc key status).pace = s.pace := by
  unfold State.stopDesc
  dsimp only
  split
  · exact State.completeOpt_pace _ _ _
  · split
    · exact State.completeOpt_pace _ _ _
    · rfl

@[simp] theorem State.sendFrame_pace (e data : Nat) : (s.sendFrame e data).pace = s.pace := by
  unfold State.sendFrame
  dsimp only
  split <;> rfl

@[simp] theorem State.sendRing_pace (p packet n : Nat) : (s.sendRing p packet n).pace = s.pace := by simp [State.sendRing]

@[simp] theorem State.sendJob_pace (j : RingJob) (typ r dir dst chunk arg : Nat) (data : List Byte) :
    (s.sendJob j typ r dir dst chunk arg data).1.pace = s.pace := by
  simp [State.sendJob]

@[simp] theorem State.dropJob_pace (j : RingJob) (status : Nat) : (s.dropJob j status).pace = s.pace := by
  unfold State.dropJob
  extract_lets s1
  have h1 : s1.pace = s.pace := s.blur_pace j.dst
  split <;> simp [h1]

@[simp] theorem State.quietTiles_pace (c b : Nat) : (s.quietTiles c b).pace = s.pace := s.each_pace fun _ _ => rfl

@[simp] theorem State.endBattery_pace (c b status : Nat) : (s.endBattery c b status).pace = s.pace := rfl

@[simp] theorem State.leaveBattery_pace (c b : Nat) : (s.leaveBattery c b).pace = s.pace := rfl

@[simp] theorem State.cancelBat_pace (i : CtxId) (key : Nat) : (s.cancelBat i key).pace = s.pace := by simp [State.cancelBat]

@[simp] theorem State.fatal_pace (i : CtxId) (r : FaultRec) : (s.fatal i r).pace = s.pace := by
  simp [State.fatal, State.cancelSections]

@[simp] theorem State.fatalXlat_pace (i : CtxId) (status agent cluster va : Nat) :
    (s.fatalXlat i status agent cluster va).pace = s.pace := by
  simp [State.fatalXlat]

/-! Loads, and the end of a section. -/

@[simp] theorem State.rejectLoad_pace (c b : Nat) (r : CmdRef) (status : Nat) : (s.rejectLoad c b r status).pace = s.pace := by
  unfold State.rejectLoad
  dsimp only
  split <;> simp

@[simp] theorem State.loadFails_pace (c b : Nat) (r : CmdRef) (i : CtxId) (x : ReadErr) : (s.loadFails c b r i x).pace = s.pace := by
  simp [State.loadFails]

@[simp] theorem State.takeLoad_pace (c b va : Nat) (r : CmdRef) : (s.takeLoad c b va r).pace = s.pace := by
  unfold State.takeLoad
  extract_lets i s0
  have h0 : s0.pace = s.pace := rfl
  split <;> rename_i e <;> have h1 := (pace_of_fst e (State.readVa_pace _ _ _ _ _)).trans h0
  · simp [h1]
  · extract_lets len n
    split <;> rename_i e2 <;> have h2 := (pace_of_fst e2 (State.readVa_pace _ _ _ _ _)).trans h1
    · simp [h2]
    · simp [h2]

@[simp] theorem State.finishSection_pace (c status : Nat) (cmd : Option CmdRef) : (s.finishSection c status cmd).pace = s.pace := by
  unfold State.finishSection
  split
  · simp
  · simp [State.setChain]

@[simp] theorem State.rewind_pace (c b : Nat) (img : SecImage) (replay : Bool) (status : Nat) :
    (s.rewind c b img replay status).pace = s.pace := by
  simp [State.rewind]

@[simp] theorem State.failArm_pace (c b status : Nat) : (s.failArm c b status).pace = s.pace := by
  unfold State.failArm
  dsimp only
  split <;> simp

/-! ARM. -/

@[simp] theorem State.mapRegions_pace (c b : Nat) (i : CtxId) (l : List (BitVec 128)) : (s.mapRegions c b i l).1.pace = s.pace := by
  induction l generalizing s with
  | nil => rfl
  | cons r rest ih =>
    unfold State.mapRegions
    extract_lets one
    have h1 : one.1.pace = s.pace := by
      unfold one
      split
      · split
        · rfl
        · dsimp only
          split
          · split <;> rfl
          · rfl
      · simp
    clear_value one
    split
    · exact h1
    · split
      · rename_i e2
        exact (pace_of_fst e2 (ih _)).trans h1
      · exact (ih _).trans h1

@[simp] theorem State.armChecks_pace (c b : Nat) : (s.armChecks c b).pace = s.pace := by
  unfold State.armChecks
  extract_lets x s1
  have h1 : s1.pace = s.pace := rfl
  clear_value s1
  split
  · refine pace_ite rfl (pace_ite (s.failArm_pace c b _) (pace_ite rfl ?_))
    refine pace_ite ((State.failArm_pace _ c b _).trans h1) (pace_ite ((State.failArm_pace _ c b _).trans h1) (pace_ite h1 ?_))
    split <;> rename_i e <;> have h2 := (pace_of_fst e (State.mapRegions_pace _ _ _ _ _)).trans h1
    · exact pace_ite (by simp [h2]) (by simp [h2])
    · simp only [State.ite_pace, State.failArm_pace, State.updBat_pace, h2, ite_self]
  · rfl

@[simp] theorem State.finishRun_pace (c : Nat) (cmd : CmdRef) : (s.finishRun c cmd).pace = s.pace := by
  unfold State.finishRun
  split <;> simp

/-! Channels and queues of another context close. -/

@[simp] theorem State.closeChan_pace (ta n : Nat) : (s.closeChan ta n).pace = s.pace := by
  have h : (if (s.channel ta n).destCq then s else
      s.unreserve (s.channel ta n).dest (s.channel ta n).destQ (s.channel ta n).gen (s.channel ta n).window).pace = s.pace := by
    simp [State.unreserve]
  unfold State.closeChan
  exact h

@[simp] theorem State.sendBack_pace (node port payload inc : Nat) (key : BitVec 12) (ctx : Option CtxId) (status : Nat) :
    (s.sendBack node port payload inc key ctx status).pace = s.pace := by
  unfold State.sendBack
  split
  · simp [State.notifyGone]
  · rfl

@[simp] theorem State.returnEntry_pace (ta : Nat) (ctx : Option CtxId) (e : RxEntry) (status : Nat) :
    (s.returnEntry ta ctx e status).pace = s.pace := by
  simp [State.returnEntry, State.countGone]

@[simp] theorem State.closeRx_pace (ta q : Nat) : (s.closeRx ta q).pace = s.pace := by simp [State.closeRx]

@[simp] theorem State.clearFor_pace (ta : Nat) (i : CtxId) : (s.clearFor ta i).pace = s.pace := by
  simp [State.clearFor, State.closeForeign]

@[simp] theorem State.masksOn_pace (c b : Nat) (img : SecImage) : (s.masksOn c b img).pace = s.pace :=
  s.each_pace fun _ _ => rfl

/-! The requests of BAR2. -/

@[simp] theorem State.keyFault_pace (kind index : Nat) (key : BitVec 12) (ctx : Option CtxId) (agent ta dest : Nat) :
    (s.keyFault kind index key ctx agent ta dest).pace = s.pace := by
  unfold State.keyFault
  split
  · rfl
  · cases ctx <;> simp

@[simp] theorem State.reachNode_pace (src : Nat) (i : CtxId) (agent ta n : Nat) : (s.reachNode src i agent ta n).1.pace = s.pace := by
  unfold State.reachNode
  dsimp only
  split <;> simp

@[simp] theorem State.reachMem_pace (src : Nat) (i : CtxId) (agent ta dpa : Nat) : (s.reachMem src i agent ta dpa).1.pace = s.pace := by
  unfold State.reachMem
  split
  · rfl
  · split
    · rename_i e
      have h1 := pace_of_fst e (State.reachNode_pace _ _ _ _ _ _)
      split
      · exact h1
      · split <;> simp [h1]
    · simp

@[simp] theorem State.reachAll_pace (src : Nat) (i : CtxId) (agent ta : Nat) (l : List Nat) :
    (s.reachAll src i agent ta l).1.pace = s.pace := by
  induction l generalizing s with
  | nil => rfl
  | cons a rest ih =>
    unfold State.reachAll
    split
    · rename_i e
      exact (ih _).trans (pace_of_fst e (State.reachMem_pace _ _ _ _ _ _))
    · simp

@[simp] theorem State.bar2Look_pace (p : Nat) (x : Bar2Op) : (s.bar2Look p x).1.pace = s.pace := by
  unfold State.bar2Look
  dsimp only
  split
  · rfl
  · split <;> rename_i e <;> have h1 := pace_of_fst e (State.devPages_pace _ _ _ _ _ _)
    · exact h1
    · split
      · exact h1
      · split <;> rename_i e2 <;> exact (pace_of_fst e2 (State.reachAll_pace _ _ _ _ _ _)).trans h1

@[simp] theorem State.storeLines_pace (tell : Bool) (fuel dpa : Nat) (bs : List Byte) : (s.storeLines tell fuel dpa bs).pace = s.pace := by
  induction fuel generalizing s dpa bs with
  | zero => rfl
  | succ fuel ih => simp [State.storeLines, ih]

@[simp] theorem State.bar2Store_pace (l : List (Nat × Nat)) (bs : List Byte) : (s.bar2Store l bs).pace = s.pace := by
  induction l generalizing s bs with
  | nil => rfl
  | cons r rest ih => exact (ih _ _).trans (by simp [State.storeRange])

@[simp] theorem State.bar2Perform_pace (p : Nat) (x : Bar2Op) (r : Bar2Res) : (s.bar2Perform p x r).pace = s.pace := by
  cases r <;> simp [State.bar2Perform]

@[simp] theorem State.bar2Drain_pace (p fuel : Nat) : (s.bar2Drain p fuel).pace = s.pace := by
  induction fuel generalizing s with
  | zero => rfl
  | succ fuel ih =>
    unfold State.bar2Drain
    split
    · rfl
    · split <;> rename_i e <;> have h1 := pace_of_fst e (State.bar2Look_pace _ _ _)
      · exact h1
      · simp [ih, h1]

@[simp] theorem State.bar2Go_pace : s.bar2Go.pace = s.pace := by simp [State.bar2Go]

/-! Checks are lost, and a slice's record is written. -/

@[simp] theorem State.checkLimited_pace (c ta : Nat) : (s.checkLimited c ta).pace = s.pace := by
  unfold State.checkLimited
  dsimp only
  split <;> simp

@[simp] theorem State.loseCheck_pace (k : Check) : (s.loseCheck k).pace = s.pace := by
  have h : (s.endDutyOf k).pace = s.pace := by
    unfold State.endDutyOf
    split <;> rfl
  simp [State.loseCheck, h]

@[simp] theorem State.loseChecksOn_pace (ta : Nat) : (s.loseChecksOn ta).pace = s.pace := by
  simp [State.loseChecksOn, State.endDuty]

@[simp] theorem State.tapRecord_pace (x : TapSlice) (outcome errors lanes sig : Nat) :
    (s.tapRecord x outcome errors lanes sig).pace = s.pace := by
  unfold State.tapRecord
  simp only [State.ite_pace, State.report_pace, State.emit_pace, ite_self]
  split <;> rfl

end Sys2Proof.Machine
end

section
/-! SUPPORT. What ending self-test slices can do to the rest of the module: a clock that a slice held is let go, and what waited goes on, but no
code of an array clock moves and no slice begins (01 R40, 14 R330, R332). -/
namespace Sys2Proof.Machine

theorem State.pace_eq_iff {s t : State} : t.pace = s.pace ↔ t.clock = s.clock ∧ t.health = s.health ∧ t.pwr = s.pwr := by
  simp [State.pace]

/-- How a state may follow another while slices end: every array clock stands where it stood, no slice has begun, and the power figures
stay. -/
structure SlicesEnd (a s : State) : Prop where
  code : ∀ c, (s.clock c).code = (a.clock c).code
  slices : ∀ x, s.health.slices.count x ≤ a.health.slices.count x
  pwr : s.pwr = a.pwr

theorem SlicesEnd.refl (s : State) : SlicesEnd s s := ⟨fun _ => rfl, fun _ => Nat.le_refl _, rfl⟩

theorem SlicesEnd.trans {a s t : State} (h : SlicesEnd a s) (k : SlicesEnd s t) : SlicesEnd a t :=
  ⟨fun c => (k.code c).trans (h.code c), fun x => Nat.le_trans (k.slices x) (h.slices x), k.pwr.trans h.pwr⟩

theorem SlicesEnd.of_pace {s t : State} (h : t.pace = s.pace) : SlicesEnd s t := by
  obtain ⟨hclock, hhealth, hpwr⟩ := State.pace_eq_iff.mp h
  exact ⟨fun c => by rw [hclock], fun x => by rw [hhealth], hpwr⟩

theorem SlicesEnd.each {α : Type} {l : List α} {f : State → α → State} (hf : ∀ s e, SlicesEnd s (f s e)) (s : State) :
    SlicesEnd s (s.each l f) := by
  unfold State.each
  induction l generalizing s with
  | nil => exact .refl s
  | cons e r ih => exact (hf s e).trans (ih (f s e))

/-- An update of a clock that leaves its code. -/
theorem State.updClock_slicesEnd (s : State) (c : Nat) {f : Clock → Clock} (hf : ∀ k, (f k).code = k.code) :
    SlicesEnd s (s.updClock c f) := by
  refine ⟨fun d => ?_, fun _ => Nat.le_refl _, rfl⟩
  rw [State.updClock_clock]
  split
  · rename_i h
    rw [hf, h]
  · rfl

/-- The tile of a slice is returned: that slice is gone, and its clock is let go. -/
theorem State.returnTile_slicesEnd (s : State) (x : TapSlice) :
    SlicesEnd { s with health := { s.health with slices := s.health.slices.erase x } } (s.returnTile x) := by
  unfold State.returnTile
  dsimp only
  split
  · exact .refl _
  · split
    · exact .of_pace (State.updTile_pace _ _ _)
    · exact .trans (.of_pace (State.updTile_pace _ _ _)) (State.updClock_slicesEnd _ _ fun _ => rfl)

/-- A slice that ends is one slice fewer. -/
theorem State.erase_slicesEnd (s : State) (x : TapSlice) :
    SlicesEnd s { s with health := { s.health with slices := s.health.slices.erase x } } :=
  ⟨fun _ => rfl, fun _ => List.erase_sublist.count_le _, rfl⟩

theorem State.abandonSlices_slicesEnd (s : State) (outcome : Nat) (pick : TapSlice → Bool) :
    SlicesEnd s (s.abandonSlices outcome pick) :=
  SlicesEnd.each (fun t x => ((t.erase_slicesEnd x).trans (t.returnTile_slicesEnd x)).trans (.of_pace (by simp))) s

theorem State.enterArm_slicesEnd (s : State) (c b : Nat) (i : CtxId) (img : SecImage) : SlicesEnd s (s.enterArm c b i img) := by
  have hclear : ∀ (t : State) (e : Nat × Nat), SlicesEnd t ((t.clearTests e.2).clearFor e.2 i) := fun t e =>
    ((SlicesEnd.of_pace (t.loseChecksOn_pace e.2)).trans (State.abandonSlices_slicesEnd _ 3 fun x => x.onTile e.2)).trans
      (.of_pace (State.clearFor_pace _ e.2 i))
  unfold State.enterArm
  extract_lets s1 s2 n s3 s4
  have h1 : SlicesEnd s s1 := SlicesEnd.each hclear s
  have h4 : s4.pace = s1.pace := by simp [s4, s3, s2]
  exact h1.trans (.of_pace (by simp [h4]))

theorem State.takeRun_slicesEnd (s : State) (c b : Nat) (r : CmdRef) : SlicesEnd s (s.takeRun c b r) := by
  unfold State.takeRun
  extract_lets i x cmd id go fromShadow
  have hgo : ∀ (t : State) (img : SecImage), SlicesEnd t (go t img) := fun t img =>
    (SlicesEnd.of_pace (by simp)).trans (State.enterArm_slicesEnd _ c b i img)
  clear_value go fromShadow
  split
  · split
    · exact (SlicesEnd.of_pace (by simp)).trans (hgo _ _)
    · exact .refl s
  · split
    · split
      · exact hgo _ _
      · exact .of_pace (by simp)
    · exact .of_pace (by simp)

theorem State.pump_slicesEnd (s : State) (c b fuel : Nat) : SlicesEnd s (s.pump c b fuel) := by
  induction fuel generalizing s with
  | zero => exact .refl s
  | succ fuel ih =>
    unfold State.pump
    split
    · exact .of_pace (by simp)
    · rename_i r rest _
      have h0 : SlicesEnd s (s.updBat c b fun x => { x with waiting := rest }) := .of_pace (by simp)
      refine .trans (h0.trans ?_) (ih _)
      split
      · exact .of_pace (by simp)
      · exact State.takeRun_slicesEnd _ c b r

theorem State.enterHeld_slicesEnd (s : State) (c b : Nat) : SlicesEnd s (s.enterHeld c b) := by
  unfold State.enterHeld
  dsimp only
  split
  · split
    · exact .refl s
    · split
      · exact (SlicesEnd.of_pace (by simp)).trans (State.enterArm_slicesEnd _ c b _ _)
      · exact .of_pace (by simp)
  · exact .refl s

theorem State.pumpBat_slicesEnd (s : State) (c b : Nat) : SlicesEnd s (s.pumpBat c b) :=
  ((SlicesEnd.of_pace s.bar2Go_pace).trans (State.enterHeld_slicesEnd _ c b)).trans (State.pump_slicesEnd _ c b _)

theorem State.releaseHold_slicesEnd (s : State) (c : Nat) : SlicesEnd s (s.releaseHold c) := by
  unfold State.releaseHold
  dsimp only
  split
  · exact .refl s
  · refine .trans ?_ (State.pumpBat_slicesEnd _ c _)
    split
    · exact .of_pace (by simp)
    · exact .trans (.of_pace (State.updClX_pace s c _)) (State.updClock_slicesEnd _ c fun _ => rfl)

/-- A skipped slice is gone. -/
theorem State.skipSlice_slicesEnd (s : State) (x : TapSlice) (outcome : Nat) :
    SlicesEnd { s with health := { s.health with slices := s.health.slices.erase x } } (s.skipSlice x outcome) := by
  refine (s.returnTile_slicesEnd x).trans ?_
  unfold State.skipSlice
  dsimp only
  split
  · exact .trans (.of_pace (by simp)) (State.releaseHold_slicesEnd _ _)
  · exact .of_pace (by simp)

theorem State.skipSlices_slicesEnd (s : State) (c : Nat) : SlicesEnd s (s.skipSlices c) :=
  SlicesEnd.each (fun t x => (t.erase_slicesEnd x).trans (t.skipSlice_slicesEnd x 2)) s

/-- Skipping the slices of a list leaves each at most as often as it stood there beyond the list. -/
theorem State.each_skipSlice_count (l : List TapSlice) (s : State) (x : TapSlice) :
    (s.each l (fun s x => s.skipSlice x 2)).health.slices.count x ≤ s.health.slices.count x - l.count x := by
  unfold State.each
  induction l generalizing s with
  | nil => exact Nat.le_refl _
  | cons y r ih =>
    have hx := (s.skipSlice_slicesEnd y 2).slices x
    rw [List.count_erase] at hx
    refine (ih (s.skipSlice y 2)).trans ?_
    rw [List.count_cons]
    omega

/-- No slice of the cluster is left. -/
theorem State.skipSlices_none (s : State) (c : Nat) {x : TapSlice} (hx : x ∈ (s.skipSlices c).health.slices) :
    ¬ (x.kind < 6 ∧ taC x.unit_ = c) := by
  intro hc
  have hle := s.each_skipSlice_count (s.health.slices.filter (fun x => decide (x.kind < 6) && taC x.unit_ == c)) x
  have hall : (s.health.slices.filter (fun x => decide (x.kind < 6) && taC x.unit_ == c)).count x = s.health.slices.count x :=
    List.count_filter (by simp [hc])
  have hpos : 0 < (s.skipSlices c).health.slices.count x := List.count_pos_iff.mpr hx
  rw [State.skipSlices] at hpos
  omega

end Sys2Proof.Machine
end

section
/-! SUPPORT. The power and thermal loops, one rule per loop, and the statement about them (01 R39, R40, 05 R133, R134, 07 R167, 18 R421-R424). -/
namespace Sys2Proof.Machine

/-! DVFS (05 R133, R134, 18 R423): which step the loop asks. -/

section
variable {k : Clock} {y : ClusterY} {draw wait : Nat}

theorem dvfsAsk_waiting (hw : 100 < wait) (hk : 40 < k.code) : dvfsAsk k y draw wait = (2, true) := by simp [dvfsAsk, hw, hk]

theorem dvfsAsk_overdrawn (h : wait ≤ 100 ∨ k.code ≤ 40) (hd : y.allot < draw) :
    dvfsAsk k y draw wait = if 32 < k.code then (2, false) else (0, false) := by
  have hw : ¬ (100 < wait ∧ 40 < k.code) := by omega
  simp [dvfsAsk, hw, hd]

/-- Without a wait share or a draw that is too high, the loop raises where it may and the draw of the next step fits. -/
theorem dvfsAsk_within (hw : wait ≤ 100) (hd : draw ≤ y.allot) :
    dvfsAsk k y draw wait = if k.inhibit = false ∧ y.headroom = true ∧ k.code < 64 ∧ k.code * draw + 3 * draw ≤ y.allot * k.code
      then (1, false) else (0, false) := by
  have hw' : ¬ 100 < wait := by omega
  have hd' : ¬ y.allot < draw := by omega
  simp [dvfsAsk, hw, hw', hd', and_assoc]

/-- R134 asks for a step only at a wait share above 10 %. -/
theorem dvfsAsk_snd_of_le (hw : wait ≤ 100) : (dvfsAsk k y draw wait).2 = false := by
  have hw' : ¬ (100 < wait ∧ 40 < k.code) := by omega
  simp only [dvfsAsk, Bool.and_eq_true, decide_eq_true_eq, hw', if_false]
  split_ifs <;> rfl

end

/-- What the loop asks of a clock in a period: nothing while a step is pending. -/
def Clock.asked (k : Clock) (y : ClusterY) (draw wait : Nat) : Nat × Bool := if k.target.isSome then (0, false) else dvfsAsk k y draw wait

/-- A clock after a period of the loop, given what it asks. -/
def Clock.dvfsStep (k : Clock) (a : Nat × Bool) (wait : Nat) : Clock :=
  if a.1 = 0 then k.inhibited a.2 wait else (k.inhibited a.2 wait).dvfsTo (if a.1 = 1 then k.code + 1 else k.code - 1)

theorem Clock.asked_none {k : Clock} (h : k.target = none) (y : ClusterY) (draw wait : Nat) :
    k.asked y draw wait = dvfsAsk k y draw wait := by simp [Clock.asked, h]

@[simp] theorem Clock.inhibited_code (k : Clock) (b : Bool) (wait : Nat) : (k.inhibited b wait).code = k.code := rfl
@[simp] theorem Clock.inhibited_target (k : Clock) (b : Bool) (wait : Nat) : (k.inhibited b wait).target = k.target := rfl
@[simp] theorem Clock.inhibited_tapHold (k : Clock) (b : Bool) (wait : Nat) : (k.inhibited b wait).tapHold = k.tapHold := rfl

@[simp] theorem Clock.dvfsTo_code (k : Clock) (n : Nat) : (k.dvfsTo n).code = k.code := by
  unfold Clock.dvfsTo
  split <;> rfl

@[simp] theorem Clock.dvfsTo_inhibit (k : Clock) (n : Nat) : (k.dvfsTo n).inhibit = k.inhibit := by
  unfold Clock.dvfsTo
  split <;> rfl

theorem Clock.dvfsTo_free {k : Clock} (h : k.tapHold = false) (n : Nat) : (k.dvfsTo n).target = some n := by
  simp [Clock.dvfsTo, h]

theorem Clock.dvfsTo_held {k : Clock} (h : k.tapHold = true) (n : Nat) : k.dvfsTo n = { k with heldStep := some n } := by
  simp [Clock.dvfsTo, h]

theorem Clock.dvfsStep_code (k : Clock) (a : Nat × Bool) (wait : Nat) : (k.dvfsStep a wait).code = k.code := by
  unfold Clock.dvfsStep
  split <;> simp

/-- The inhibition of raises after a period (05 R134). -/
theorem Clock.dvfsStep_inhibit (k : Clock) (a : Nat × Bool) (wait : Nat) :
    (k.dvfsStep a wait).inhibit = (a.2 || (k.inhibit && decide (20 ≤ wait))) := by
  unfold Clock.dvfsStep
  split
  · rfl
  · exact Clock.dvfsTo_inhibit _ _

theorem Clock.dvfsStep_target {k : Clock} (h : k.tapHold = false) (a : Nat × Bool) (wait : Nat) :
    (k.dvfsStep a wait).target = if a.1 = 0 then k.target else some (if a.1 = 1 then k.code + 1 else k.code - 1) := by
  unfold Clock.dvfsStep
  split
  · rfl
  · exact Clock.dvfsTo_free (by simpa using h) _

/-- In a hold of its clock a cluster keeps the step for the end of it (01 R40). -/
theorem Clock.dvfsStep_held {k : Clock} (h : k.tapHold = true) {a : Nat × Bool} (ha : a.1 ≠ 0) (wait : Nat) :
    (k.dvfsStep a wait).target = k.target ∧ (k.dvfsStep a wait).heldStep = some (if a.1 = 1 then k.code + 1 else k.code - 1) := by
  simp [Clock.dvfsStep, ha, Clock.dvfsTo_held (k := k.inhibited a.2 wait) (by simpa using h)]

/-- While a step is pending the loop asks for none. -/
theorem Clock.dvfsStep_pending {k : Clock} (h : k.target ≠ none) (y : ClusterY) (draw wait : Nat) :
    (k.dvfsStep (k.asked y draw wait) wait).target = k.target := by
  simp [Clock.dvfsStep, Clock.asked, Option.isSome_iff_ne_none.mpr h]

/-! A period of the DVFS loop. -/

/-- The draw that a period records for a cluster. -/
def State.drawn (s : State) (c draw : Nat) : State := s.updClY c (fun y => { y with draw })

/-- What the period then does with what the loop asks of the cluster: a step is logged. -/
def State.dvfsStepped (s : State) (c wait : Nat) (a : Nat × Bool) : State :=
  let n := if a.1 = 1 then (s.clock c).code + 1 else (s.clock c).code - 1
  let t := s.updClock c (fun k => k.inhibited a.2 wait)
  if a.1 = 0 then t else (t.updClock c (fun k => k.dvfsTo n)).logPower c false n 1 0 0

theorem State.drawn_clY (s : State) (c draw : Nat) : (s.drawn c draw).clY c = { s.clY c with draw } := by
  rw [State.drawn, State.updClY_clY, if_pos rfl]

theorem State.drawn_clock (s : State) (c draw : Nat) : (s.drawn c draw).clock = s.clock := rfl

theorem State.dvfsStepped_clock (s : State) (c wait : Nat) (a : Nat × Bool) :
    (s.dvfsStepped c wait a).clock c = (s.clock c).dvfsStep a wait := by
  unfold State.dvfsStepped Clock.dvfsStep
  dsimp only
  split
  · rw [State.updClock_clock, if_pos rfl]
  · rw [State.logPower_clock, State.updClock_clock, if_pos rfl, State.updClock_clock, if_pos rfl]

/-- A step of the loop writes a clock and the log. -/
theorem State.dvfsStepped_frame (s : State) (c wait : Nat) (a : Nat × Bool) : (s.dvfsStepped c wait a).cly = s.cly ∧
    (s.dvfsStepped c wait a).mem = s.mem ∧ (s.dvfsStepped c wait a).tiles = s.tiles := by
  unfold State.dvfsStepped
  dsimp only
  split <;> exact ⟨rfl, rfl, rfl⟩

section
variable {s : State} {c : Fin 16} (draw wait : Nat)

/-- Of a cluster that takes no step in a period only the draw changes. -/
theorem stepDvfsPeriod_still (hb : s.boot.bundle = true) (hd : s.compDown 17 = false)
    (h : (s.clock c.val).pinned = true ∨ s.strictCl c.val = true ∨ (s.clY c.val).ready = false) :
    stepDvfsPeriod c draw wait s = s.drawn c.val draw := by
  have hno : ((s.clock c.val).pinned || s.strictCl c.val || !((s.drawn c.val draw).clY c.val).ready) = true := by
    rw [State.drawn_clY]
    rcases h with h | h | h <;> simp [h]
  simp only [stepDvfsPeriod, hb, hd, Bool.not_true, Bool.or_self, Bool.false_eq_true, if_false]
  exact if_pos hno

/-- Of any other cluster the clock makes the step that the loop asks. -/
theorem stepDvfsPeriod_steps (hb : s.boot.bundle = true) (hd : s.compDown 17 = false) (hp : (s.clock c.val).pinned = false)
    (hs : s.strictCl c.val = false) (hr : (s.clY c.val).ready = true) :
    stepDvfsPeriod c draw wait s =
      (s.drawn c.val draw).dvfsStepped c.val wait ((s.clock c.val).asked (s.clY c.val) draw wait) := by
  have hgo : ¬ ((s.clock c.val).pinned || s.strictCl c.val || !((s.drawn c.val draw).clY c.val).ready) = true := by
    rw [State.drawn_clY]
    simp [hp, hs, hr]
  have hask : (s.clock c.val).asked ((s.drawn c.val draw).clY c.val) draw wait = (s.clock c.val).asked (s.clY c.val) draw wait := by
    rw [State.drawn_clY]
    rfl
  simp only [stepDvfsPeriod, hb, hd, Bool.not_true, Bool.or_self, Bool.false_eq_true, if_false]
  rw [← hask]
  exact if_neg hgo

end

/-- What a period of the loop leaves of every cluster. -/
theorem exec_dvfsPeriod_frame {s : State} (c : Fin 16) (draw wait : Nat) (hb : s.boot.bundle = true) (hd : s.compDown 17 = false) :
    ∃ u, exec (.dvfsPeriod c draw wait) s = .next u ∧ (u.clY c.val).draw = draw ∧ u.mem = s.mem ∧ u.tiles = s.tiles ∧
      (u.clock c.val).code = (s.clock c.val).code ∧ ((s.clock c.val).target ≠ none → (u.clock c.val).target = (s.clock c.val).target) ∧
      ((s.clock c.val).pinned = true ∨ s.strictCl c.val = true ∨ (s.clY c.val).ready = false → ∀ n, u.clock n = s.clock n) := by
  refine ⟨_, rfl, ?_⟩
  by_cases h : (s.clock c.val).pinned = true ∨ s.strictCl c.val = true ∨ (s.clY c.val).ready = false
  · rw [stepDvfsPeriod_still draw wait hb hd h]
    exact ⟨congrArg ClusterY.draw (s.drawn_clY c.val draw), rfl, rfl, rfl, fun _ => rfl, fun _ _ => rfl⟩
  · have h' := h
    simp only [not_or, Bool.not_eq_true, Bool.not_eq_false] at h'
    obtain ⟨hp, hs, hr⟩ := h'
    rw [stepDvfsPeriod_steps draw wait hb hd hp hs hr]
    obtain ⟨hcly, hmem, htiles⟩ :=
      (s.drawn c.val draw).dvfsStepped_frame c.val wait ((s.clock c.val).asked (s.clY c.val) draw wait)
    refine ⟨?_, hmem, htiles, ?_, fun ht => ?_, fun hno => absurd hno h⟩
    · rw [State.clY, hcly]
      exact congrArg ClusterY.draw (s.drawn_clY c.val draw)
    · rw [State.dvfsStepped_clock]
      exact Clock.dvfsStep_code _ _ _
    · rw [State.dvfsStepped_clock]
      exact Clock.dvfsStep_pending ht _ _ _

/-- Which step a period asks of a cluster that is free to take one (05 R133, R134, 01 R40). -/
theorem exec_dvfsPeriod_step {s : State} (c : Fin 16) (draw wait : Nat) (hb : s.boot.bundle = true) (hd : s.compDown 17 = false)
    (hr : (s.clY c.val).ready = true) (hp : (s.clock c.val).pinned = false) (hs : s.strictCl c.val = false) :
    ∃ u, exec (.dvfsPeriod c draw wait) s = .next u ∧
      (wait < 20 → (u.clock c.val).inhibit = false) ∧
      ((s.clock c.val).target = none → (s.clock c.val).tapHold = false →
        (100 < wait ∧ 40 < (s.clock c.val).code → (u.clock c.val).target = some ((s.clock c.val).code - 1) ∧ (u.clock c.val).inhibit = true) ∧
        ((wait ≤ 100 ∨ (s.clock c.val).code ≤ 40) → (s.clY c.val).allot < draw → 32 < (s.clock c.val).code →
          (u.clock c.val).target = some ((s.clock c.val).code - 1)) ∧
        ((wait ≤ 100 ∨ (s.clock c.val).code ≤ 40) → (s.clY c.val).allot < draw → (s.clock c.val).code ≤ 32 → (u.clock c.val).target = none) ∧
        (wait ≤ 100 → draw ≤ (s.clY c.val).allot → (s.clock c.val).inhibit = false → (s.clY c.val).headroom = true →
          (s.clock c.val).code < 64 → (s.clock c.val).code * draw + 3 * draw ≤ (s.clY c.val).allot * (s.clock c.val).code →
          (u.clock c.val).target = some ((s.clock c.val).code + 1)) ∧
        (wait ≤ 100 → draw ≤ (s.clY c.val).allot → (s.clock c.val).inhibit = true ∨ (s.clY c.val).headroom = false ∨
          64 ≤ (s.clock c.val).code ∨ (s.clY c.val).allot * (s.clock c.val).code < (s.clock c.val).code * draw + 3 * draw →
          (u.clock c.val).target = none)) ∧
      ((s.clock c.val).target = none → (s.clock c.val).tapHold = true → 100 < wait → 40 < (s.clock c.val).code →
        (u.clock c.val).target = none ∧ (u.clock c.val).heldStep = some ((s.clock c.val).code - 1)) := by
  refine ⟨_, congrArg Host.Outcome.next (stepDvfsPeriod_steps draw wait hb hd hp hs hr), ?_⟩
  rw [State.dvfsStepped_clock, State.drawn_clock]
  generalize s.clock c.val = k
  generalize s.clY c.val = y
  refine ⟨fun hw => ?_, fun ht hh => ⟨fun ⟨hw, hk⟩ => ?_, fun hw hy hk => ?_, fun hw hy hk => ?_, fun hw hy hi hr hk hfit => ?_,
    fun hw hy hno => ?_⟩, fun ht hh hw hk => ?_⟩
  · have ha : (k.asked y draw wait).2 = false := by
      unfold Clock.asked
      split
      · rfl
      · exact dvfsAsk_snd_of_le (by omega)
    simp only [Clock.dvfsStep_inhibit, ha, Bool.false_or, Bool.and_eq_false_imp, decide_eq_false_iff_not]
    omega
  · rw [Clock.asked_none ht, dvfsAsk_waiting hw hk, Clock.dvfsStep_target hh, Clock.dvfsStep_inhibit]
    exact ⟨rfl, rfl⟩
  · rw [Clock.asked_none ht, dvfsAsk_overdrawn hw hy, if_pos hk, Clock.dvfsStep_target hh]
    rfl
  · rw [Clock.asked_none ht, dvfsAsk_overdrawn hw hy, if_neg (by omega), Clock.dvfsStep_target hh]
    exact ht
  · rw [Clock.asked_none ht, dvfsAsk_within hw hy, if_pos ⟨hi, hr, hk, hfit⟩, Clock.dvfsStep_target hh]
    rfl
  · have hnot : ¬ (k.inhibit = false ∧ y.headroom = true ∧ k.code < 64 ∧ k.code * draw + 3 * draw ≤ y.allot * k.code) := by
      rintro ⟨h1, h2, h3, h4⟩
      rcases hno with h | h | h | h
      · simp [h1] at h
      · simp [h2] at h
      · omega
      · omega
    rw [Clock.asked_none ht, dvfsAsk_within hw hy, if_neg hnot, Clock.dvfsStep_target hh]
    exact ht
  · rw [Clock.asked_none ht, dvfsAsk_waiting hw hk]
    obtain ⟨htarget, hheld⟩ := Clock.dvfsStep_held (a := (2, true)) hh (by decide) wait
    exact ⟨htarget.trans ht, hheld⟩

/-! The current limit lowers a cluster, and raises one that it lowered (18 R421, 01 R39). -/

/-- The log entry of a lowering leaves the clocks, the self-test slices and the limit. -/
theorem State.logLimit_frame (s : State) (c : Nat) (wide : Bool) (code : Nat) : (s.logLimit c wide code).clock = s.clock ∧
    (s.logLimit c wide code).health = s.health ∧ (s.logLimit c wide code).pwr.ilim = s.pwr.ilim := by
  unfold State.logLimit
  dsimp only
  split <;> exact ⟨rfl, rfl, rfl⟩

theorem State.limitLower_lowest {s : State} {c : Nat} (wide : Bool) (h : (s.clock c).code ≤ 32) : s.limitLower wide c = s := if_pos h

/-- A cluster is asked for one step less, and its running slices are skipped. -/
theorem State.limitLower_lowers {s : State} {c : Nat} (wide : Bool) (h : 32 < (s.clock c).code) :
    ((s.limitLower wide c).clock c).target = some ((s.clock c).code - 1) ∧ ((s.limitLower wide c).clock c).lowered = true ∧
    ∀ x ∈ (s.limitLower wide c).health.slices, ¬ (x.kind < 6 ∧ taC x.unit_ = c) := by
  have hlow : s.limitLower wide c = ((s.skipSlices c).updClock c
      (fun k => { k with target := some (max 32 (k.code - 1)), lowered := true })).logLimit c wide ((s.clock c).code - 1) :=
    if_neg (by omega : ¬ (s.clock c).code ≤ 32)
  obtain ⟨hclock, hhealth, _⟩ := State.logLimit_frame ((s.skipSlices c).updClock c
    (fun k => { k with target := some (max 32 (k.code - 1)), lowered := true })) c wide ((s.clock c).code - 1)
  rw [← hlow] at hclock hhealth
  have hat : (s.limitLower wide c).clock c = { (s.skipSlices c).clock c with
      target := some (max 32 (((s.skipSlices c).clock c).code - 1)), lowered := true } := by
    refine (congrFun hclock c).trans ?_
    exact (State.updClock_clock _ _ _ _).trans (if_pos rfl)
  have hcode : max 32 (((s.skipSlices c).clock c).code - 1) = (s.clock c).code - 1 := by
    rw [(s.skipSlices_slicesEnd c).code]
    omega
  rw [hat, hcode]
  refine ⟨rfl, rfl, fun x hx => s.skipSlices_none c ?_⟩
  rwa [show (s.limitLower wide c).health = (s.skipSlices c).health from hhealth] at hx

theorem State.limitLower_ilim (s : State) (wide : Bool) (c : Nat) : (s.limitLower wide c).pwr.ilim = s.pwr.ilim := by
  unfold State.limitLower
  dsimp only
  split
  · rfl
  · obtain ⟨_, _, hilim⟩ := State.logLimit_frame ((s.skipSlices c).updClock c
      (fun k => { k with target := some (max 32 (k.code - 1)), lowered := true })) c wide ((s.clock c).code - 1)
    exact hilim.trans (congrArg Power.ilim (s.skipSlices_slicesEnd c).pwr)

/-- The act of raising a clock (18 R421). -/
theorem State.limitRaise_clock (s : State) (c : Nat) : (s.limitRaise c).clock c =
    if !(s.clock c).lowered then s.clock c
    else if (s.clock c).code < (if (s.clock c).pinned then 54 else (s.clock c).dvfs) then
      { s.clock c with
        target := some ((s.clock c).code + 1)
        lowered := (s.clock c).code + 1 != (if (s.clock c).pinned then 54 else (s.clock c).dvfs) }
    else { s.clock c with lowered := false } :=
  (State.updClock_clock _ _ _ _).trans (if_pos rfl)

/-- Updates of one clock that agree on it are one update. -/
theorem State.updClock_congr {s : State} {c : Nat} {f g : Clock → Clock} (h : f (s.clock c) = g (s.clock c)) :
    s.updClock c f = s.updClock c g := by
  have h' : f (s.cl c).clk = g (s.cl c).clk := h
  simp only [State.updClock, State.updCl, h']

theorem State.limitRaise_unlowered {s : State} {c : Nat} (h : (s.clock c).lowered = false) : s.limitRaise c = s.updClock c id :=
  State.updClock_congr (by simp [h])

/-! The current limit (18 R421). -/

/-- The clusters that draw more than their allotment. -/
def State.overdrawn (s : State) (draws : List Nat) : List Nat :=
  (List.range 16).filter (fun c => decide ((s.clY c).allot < draws.getD c 0))

/-- The clusters that a period of the current limit lowers. -/
def State.toLower (s : State) (ma : Nat) (draws rails : List Nat) : List Nat :=
  (List.range 16).filter (fun c => (decide (s.pwr.ilim < ma) && ((s.overdrawn draws).isEmpty || (s.overdrawn draws).contains c)) ||
    decide (103 ≤ (s.clY c).temp) || decide (140000 < rails.getD c 0))

/-- The clusters that the period lowers, as the step picks them. -/
theorem State.toLower_eq (s : State) (ma : Nat) (draws rails : List Nat) :
    (List.range 16).filter (fun c => (decide (s.pwr.ilim < ma) && (s.overdrawn draws).isEmpty) ||
      (decide (s.pwr.ilim < ma) && (s.overdrawn draws).contains c) ||
      ((List.range 16).filter (fun c => decide (103 ≤ (s.clY c).temp) || decide (140000 < rails.getD c 0))).contains c) =
    s.toLower ma draws rails := by
  refine List.filter_congr fun c hc => ?_
  have hhot : ((List.range 16).filter (fun c => decide (103 ≤ (s.clY c).temp) || decide (140000 < rails.getD c 0))).contains c =
      (decide (103 ≤ (s.clY c).temp) || decide (140000 < rails.getD c 0)) := by
    rw [Bool.eq_iff_iff]
    simp [hc]
  rw [hhot, Bool.and_or_distrib_left, Bool.or_assoc (_ || _)]

/-- The state in which the input current of a period is recorded, with the time without an excess. -/
def State.metered (s : State) (ma us : Nat) : State := { s with pwr := { s.pwr with inputMa := ma, noExcessUs := us } }

/-- A period of the current limit lowers clusters, or counts the time without an excess and raises those lowered. -/
theorem stepCurrentLimitPeriod_eq (s : State) (ma : Nat) (draws rails : List Nat) : stepCurrentLimitPeriod ma draws rails s =
    if decide (s.pwr.ilim < ma) || !(s.toLower ma draws rails).isEmpty then
      let u := (s.metered ma s.pwr.noExcessUs).each (s.toLower ma draws rails)
        (fun s' c => s'.limitLower (decide (s.pwr.ilim < ma) && (s.overdrawn draws).isEmpty) c)
      { u with pwr := { u.pwr with noExcessUs := 0 } }
    else if min 1000 (s.pwr.noExcessUs + 10) < 100 then s.metered ma (min 1000 (s.pwr.noExcessUs + 10))
    else (s.metered ma (min 1000 (s.pwr.noExcessUs + 10))).each (List.range 16) (fun s c => s.limitRaise c) := by
  rw [← State.toLower_eq]
  rfl

theorem exec_currentLimitPeriod_lowers {s : State} {ma : Nat} {draws rails : List Nat}
    (h : s.pwr.ilim < ma ∨ s.toLower ma draws rails ≠ []) : ∃ u v : State, { s with pwr := { s.pwr with inputMa := ma } } = v ∧
      v.each (s.toLower ma draws rails) (fun t c => t.limitLower (decide (t.pwr.ilim < ma) && (s.overdrawn draws).isEmpty) c) = u ∧
      exec (.currentLimitPeriod ma draws rails) s = .next { u with pwr := { u.pwr with noExcessUs := 0 } } := by
  obtain ⟨v, hv⟩ : ∃ v, s.metered ma s.pwr.noExcessUs = v := ⟨_, rfl⟩
  have hilim : v.pwr.ilim = s.pwr.ilim := by
    rw [← hv]
    rfl
  have hsame : v.each (s.toLower ma draws rails) (fun t c => t.limitLower (decide (s.pwr.ilim < ma) && (s.overdrawn draws).isEmpty) c) =
      v.each (s.toLower ma draws rails) (fun t c => t.limitLower (decide (t.pwr.ilim < ma) && (s.overdrawn draws).isEmpty) c) :=
    State.each_congr (P := fun t => t.pwr.ilim = s.pwr.ilim) hilim (fun t c ht => by rw [ht])
      fun t c ht => (t.limitLower_ilim _ c).trans ht
  refine ⟨_, v, hv, rfl, congrArg Host.Outcome.next ?_⟩
  rw [stepCurrentLimitPeriod_eq, if_pos (by simpa using h), hv]
  exact congrArg (fun u : State => { u with pwr := { u.pwr with noExcessUs := 0 } }) hsame

theorem exec_currentLimitPeriod_raises {s : State} {ma : Nat} {draws rails : List Nat} (hle : ma ≤ s.pwr.ilim)
    (hnone : s.toLower ma draws rails = []) : ∃ v : State,
      { s with pwr := { s.pwr with inputMa := ma, noExcessUs := min 1000 (s.pwr.noExcessUs + 10) } } = v ∧
      exec (.currentLimitPeriod ma draws rails) s =
        .next (if s.pwr.noExcessUs + 10 < 100 then v else v.each (List.range 16) (fun s c => s.limitRaise c)) := by
  have hus : min 1000 (s.pwr.noExcessUs + 10) < 100 ↔ s.pwr.noExcessUs + 10 < 100 := by omega
  refine ⟨_, rfl, congrArg Host.Outcome.next ?_⟩
  rw [stepCurrentLimitPeriod_eq, if_neg (by simp [hnone, hle])]
  simp only [hus]
  rfl

/-! Temperatures (18 R424, 07 R167, R168). -/

/-- The refresh rate goes up at 85 and 95 °C, and down 2 °C below (07 R167). -/
theorem refreshRate_bands {old t : Nat} (h : old ≤ 2) : (95 ≤ t → refreshRate old t = 2) ∧
    (93 < t → t < 95 → refreshRate old t = max 1 old) ∧ (85 ≤ t → t ≤ 93 → refreshRate old t = 1) ∧
    (83 < t → t < 85 → refreshRate old t = min 1 old) ∧ (t ≤ 83 → refreshRate old t = 0) := by
  unfold refreshRate
  dsimp only
  refine ⟨fun h1 => ?_, fun h1 h2 => ?_, fun h1 h2 => ?_, fun h1 h2 => ?_, fun h1 => ?_⟩ <;> split_ifs <;> omega

/-- A cluster takes the temperature that a period names for it. -/
def State.heat (temps : List Nat) (s : State) (c : Nat) : State :=
  match temps[c]? with
  | some t => s.updClY c (fun y => y.heated (s.clock c).code t)
  | none => s

/-- A memory channel takes the refresh rate of the temperature that a period names for its stack or, of the far tier, for itself. -/
def State.rate (chips : List Nat) (s : State) (i : Nat) : State :=
  match chips[if i < 192 then i / 16 else i - 180]? with
  | some t => s.updChan i (fun x => { x with refresh := refreshRate x.refresh t })
  | none => s

/-- The hottest sensor of the module is shown (20 R463). -/
def State.showHottest (s : State) (l : List Nat) : State :=
  { s with smbus := { s.smbus with junction := l.foldl max 0 % 256 } }

/-- The clusters take the temperatures of a period, while the component of the power loops is up (18 R414). -/
def State.heatAll (temps : List Nat) (s : State) : State := if s.compDown 17 then s else s.each (List.range 16) (State.heat temps)

/-- The channels take their refresh rates, while the component of memory is up (18 R414). -/
def State.rateAll (chips : List Nat) (s : State) : State := if s.compDown 18 then s else s.each (List.range 224) (State.rate chips)

theorem stepThermalPeriod_eq (temps chips : List Nat) (s : State) : stepThermalPeriod temps chips s =
    if !s.boot.bundle then s.showHottest (temps ++ chips)
    else ((s.showHottest (temps ++ chips)).heatAll temps).rateAll chips := rfl

theorem State.heatAll_down {s : State} (temps : List Nat) (h : s.compDown 17 = true) : s.heatAll temps = s := if_pos h

theorem State.rateAll_down {s : State} (chips : List Nat) (h : s.compDown 18 = true) : s.rateAll chips = s := if_pos h

/-- The temperatures of a period leave every view that the temperature of a cluster is no part of. -/
theorem State.heatAll_frame {β : Type} (g : State → β) (hg : ∀ (s : State) (c : Nat) (f : ClusterY → ClusterY), g (s.updClY c f) = g s)
    (temps : List Nat) (s : State) : g (s.heatAll temps) = g s := by
  have hheat : ∀ (t : State) (c : Nat), g (State.heat temps t c) = g t := fun t c => by
    unfold State.heat
    split
    · exact hg _ _ _
    · rfl
  unfold State.heatAll
  split
  · rfl
  · exact State.each_frame g hheat s

theorem State.rateAll_frame {β : Type} (g : State → β) (hg : ∀ (s : State) (i : Nat) (f : MemCh → MemCh), g (s.updChan i f) = g s)
    (chips : List Nat) (s : State) : g (s.rateAll chips) = g s := by
  have hrate : ∀ (t : State) (i : Nat), g (State.rate chips t i) = g t := fun t i => by
    unfold State.rate
    split
    · exact hg _ _ _
    · rfl
  unfold State.rateAll
  split
  · rfl
  · exact State.each_frame g hrate s

/-- A cluster with a sensor takes its temperature (18 R424). -/
theorem State.heatAll_clY {s : State} {temps : List Nat} {c t : Nat} (hup : s.compDown 17 = false) (hc : c < 16)
    (ht : temps[c]? = some t) : (s.heatAll temps).clY c = (s.clY c).heated (s.clock c).code t := by
  have hat : ∀ u : State, State.heat temps u c = u.updClY c (fun y => y.heated (u.clock c).code t) := fun u => by
    simp only [State.heat, ht]
  have hother : ∀ (u : State) (m : Nat), m ≠ c → ((State.heat temps u m).clY c, (State.heat temps u m).clock c) = (u.clY c, u.clock c) := by
    intro u m hm
    unfold State.heat
    split
    · rw [State.updClY_clY, if_neg (Ne.symm hm)]
      rfl
    · rfl
  have hclY : ∀ u : State, (State.heat temps u c).clY c = (u.clY c).heated (u.clock c).code t := fun u => by
    rw [hat, State.updClY_clY, if_pos rfl]
  rw [State.heatAll, if_neg (by simp [hup])]
  refine (Prod.ext_iff.mp (State.each_at (fun u : State => (u.clY c, u.clock c)) List.nodup_range (List.mem_range.mpr hc) hother
    (fun u v huv => ?_) s)).1.trans (hclY s)
  obtain ⟨hy, hk⟩ := Prod.ext_iff.mp huv
  refine Prod.ext ?_ ?_
  · exact (hclY u).trans ((congrArg₂ (fun (y : ClusterY) (k : Clock) => y.heated k.code t) hy hk).trans (hclY v).symm)
  · dsimp only
    rw [hat, hat]
    exact hk

/-- A channel with a sensor takes its refresh rate (07 R167). -/
theorem State.rateAll_chan {s : State} {chips : List Nat} {i t : Nat} (hup : s.compDown 18 = false)
    (h : (i < 192 ∧ chips[i / 16]? = some t) ∨ (192 ≤ i ∧ i < 224 ∧ chips[i - 180]? = some t)) :
    ((s.rateAll chips).chan i).refresh = refreshRate (s.chan i).refresh t := by
  have hi : i < 224 := by omega
  have ht : chips[if i < 192 then i / 16 else i - 180]? = some t := by
    rcases h with ⟨hlt, hs⟩ | ⟨hge, _, hs⟩
    · rwa [if_pos hlt]
    · rwa [if_neg (by omega)]
  have hat : ∀ u : State, (State.rate chips u i).chan i = { u.chan i with refresh := refreshRate (u.chan i).refresh t } := fun u => by
    simp only [State.rate, ht, State.updChan_chan, if_true]
  have hother : ∀ (u : State) (m : Nat), m ≠ i → (State.rate chips u m).chan i = u.chan i := by
    intro u m hm
    unfold State.rate
    split
    · rw [State.updChan_chan, if_neg (Ne.symm hm)]
    · rfl
  rw [State.rateAll, if_neg (by simp [hup]),
    State.each_at (State.chan · i) List.nodup_range (List.mem_range.mpr hi) hother (fun u v huv => by simp only [hat, huv]) s]
  exact congrArg MemCh.refresh (hat s)

/-- The allotment of a cluster after its temperature is taken: cut from 95 to 102 °C (18 R424). -/
theorem ClusterY.heated_allot (y : ClusterY) (n t : Nat) : (t < 95 ∨ 102 < t → (y.heated n t).allot = y.allot) ∧
    (95 ≤ t → t ≤ 102 → (y.heated n t).allot = min y.allot (max (y.allot * 95 / 100) (y.draw * 40 / n))) := by
  refine ⟨fun h => if_neg ?_, fun h1 h2 => if_pos ?_⟩
  · simp only [Bool.and_eq_true, decide_eq_true_eq]
    omega
  · simp [h1, h2]

/-- A period of temperatures: with the component of the power loops, or that of memory, down it does nothing (18 R414); else it sets headroom and refresh from the hottest sensors. -/
theorem exec_thermalPeriod {s : State} (temps chips : List Nat) (hb : s.boot.bundle = true) :
    ∃ u, exec (.thermalPeriod temps chips) s = .next u ∧ u.smbus.junction = (temps ++ chips).foldl max 0 % 256 ∧
      u.mem.bytes = s.mem.bytes ∧ (s.compDown 17 = true → u.cly = s.cly) ∧ (s.compDown 18 = true → u.mem = s.mem) ∧
      (∀ c t : Nat, s.compDown 17 = false → c < 16 → temps[c]? = some t →
        (u.clY c).temp = t ∧ (u.clY c).headroom = decide (t < 95) ∧ (t < 95 ∨ 102 < t → (u.clY c).allot = (s.clY c).allot) ∧
        (95 ≤ t → t ≤ 102 → (u.clY c).allot =
          min (s.clY c).allot (max ((s.clY c).allot * 95 / 100) ((s.clY c).draw * 40 / (s.clock c).code)))) ∧
      (∀ i t : Nat, s.compDown 18 = false → (i < 192 ∧ chips[i / 16]? = some t) ∨ (192 ≤ i ∧ i < 224 ∧ chips[i - 180]? = some t) →
        (u.chan i).refresh = refreshRate (s.chan i).refresh t) := by
  obtain ⟨t, ht⟩ : ∃ t, s.showHottest (temps ++ chips) = t := ⟨_, rfl⟩
  have hu : stepThermalPeriod temps chips s = (t.heatAll temps).rateAll chips := by
    rw [stepThermalPeriod_eq, if_neg (by simp [hb]), ht]
  have h18 : (t.heatAll temps).compDown 18 = s.compDown 18 := by
    rw [State.heatAll_frame (State.compDown · 18) (fun _ _ _ => rfl), ← ht]
    rfl
  refine ⟨_, congrArg Host.Outcome.next hu, ?_, ?_, fun hd => ?_, fun hd => ?_, fun c n hup hc hn => ?_, fun i n hup hi => ?_⟩
  · rw [State.rateAll_frame State.smbus (fun _ _ _ => rfl), State.heatAll_frame State.smbus (fun _ _ _ => rfl), ← ht]
    rfl
  · rw [State.rateAll_frame (fun s => s.mem.bytes) (fun _ _ _ => rfl), State.heatAll_frame (fun s => s.mem.bytes) (fun _ _ _ => rfl), ← ht]
    rfl
  · rw [State.rateAll_frame State.cly (fun _ _ _ => rfl), State.heatAll_down temps (ht ▸ hd), ← ht]
    rfl
  · rw [State.rateAll_down chips (h18.trans hd), State.heatAll_frame State.mem (fun _ _ _ => rfl), ← ht]
    rfl
  · have hy : ((t.heatAll temps).rateAll chips).clY c = (s.clY c).heated (s.clock c).code n := by
      rw [State.rateAll_frame (State.clY · c) (fun _ _ _ => rfl), State.heatAll_clY (ht ▸ hup) hc hn, ← ht]
      rfl
    rw [hy]
    exact ⟨rfl, rfl, ClusterY.heated_allot _ _ _⟩
  · rw [State.rateAll_chan (h18.trans hup) hi, State.heatAll_frame (State.chan · i) (fun _ _ _ => rfl), ← ht]
    rfl

/-! The module cap (18 R422). -/

/-- A cluster's share of the cap, as the period gives it out. -/
def ClusterY.shared (y : ClusterY) (draws idle pinned : List Nat) (share c : Nat) : ClusterY :=
  { y with
    idle := idle.contains c, ran := false
    allot := if idle.contains c then draws.getD c 0 + 2000 else if pinned.contains c then draws.getD c 0 else share }

section
variable {y : ClusterY} {draws idle pinned : List Nat} {share c : Nat}

theorem ClusterY.shared_idle (h : c ∈ idle) : (y.shared draws idle pinned share c).allot = draws.getD c 0 + 2000 ∧
    (y.shared draws idle pinned share c).idle = true := by
  simp [ClusterY.shared, h]

theorem ClusterY.shared_pinned (hi : c ∉ idle) (h : c ∈ pinned) : (y.shared draws idle pinned share c).allot = draws.getD c 0 ∧
    (y.shared draws idle pinned share c).idle = false := by
  simp [ClusterY.shared, hi, h]

theorem ClusterY.shared_rest (hi : c ∉ idle) (hp : c ∉ pinned) : (y.shared draws idle pinned share c).allot = share ∧
    (y.shared draws idle pinned share c).idle = false := by
  simp [ClusterY.shared, hi, hp]

end

/-- Each cluster takes its share. -/
def State.shareOut (s : State) (draws idle pinned : List Nat) (share : Nat) : State :=
  s.each (List.range 16) (fun s c => s.updClY c (fun y => y.shared draws idle pinned share c))

/-- The draws of a period are recorded, and whether the cap could be met. -/
def State.tallied (s : State) (inputW sum : Nat) (unmet : Bool) : State :=
  { s with
    pwr := { s.pwr with inputW, uncoreW := inputW - sum, clusterW := sum, capUnmet := s.pwr.capUnmet || unmet }
    smbus := { s.smbus with powerW := inputW / 1000 } }

/-- The figures of a period, and what recording them leaves. -/
theorem State.tallied_frame (s : State) (inputW sum : Nat) (unmet : Bool) :
    (s.tallied inputW sum unmet).pwr.inputW = inputW ∧ (s.tallied inputW sum unmet).pwr.clusterW = sum ∧
    (s.tallied inputW sum unmet).pwr.uncoreW = inputW - sum ∧ (s.tallied inputW sum unmet).smbus.powerW = inputW / 1000 ∧
    (s.tallied inputW sum unmet).pwr.capUnmet = (s.pwr.capUnmet || unmet) ∧ (s.tallied inputW sum unmet).mem = s.mem ∧
    (s.tallied inputW sum unmet).log = s.log ∧ (s.tallied inputW sum unmet).belfry = s.belfry ∧
    (s.tallied inputW sum unmet).clY = s.clY :=
  ⟨rfl, rfl, rfl, rfl, rfl, rfl, rfl, rfl, rfl⟩

/-- Sharing out writes the allotments alone. -/
theorem State.shareOut_frame (s : State) (draws idle pinned : List Nat) (share : Nat) :
    (s.shareOut draws idle pinned share).pwr = s.pwr ∧ (s.shareOut draws idle pinned share).mem = s.mem ∧
    (s.shareOut draws idle pinned share).log = s.log ∧ (s.shareOut draws idle pinned share).belfry = s.belfry :=
  ⟨State.each_frame State.pwr (fun _ _ => by rfl) s, State.each_frame State.mem (fun _ _ => by rfl) s,
    State.each_frame State.log (fun _ _ => by rfl) s, State.each_frame State.belfry (fun _ _ => by rfl) s⟩

theorem State.shareOut_clY (s : State) (draws idle pinned : List Nat) (share : Nat) {c : Nat} (hc : c < 16) :
    (s.shareOut draws idle pinned share).clY c = (s.clY c).shared draws idle pinned share c := by
  have hat : ∀ u : State, (u.updClY c (fun y => y.shared draws idle pinned share c)).clY c =
      (u.clY c).shared draws idle pinned share c := fun u => by rw [State.updClY_clY, if_pos rfl]
  refine (State.each_at (State.clY · c) List.nodup_range (List.mem_range.mpr hc) (fun u m hm => ?_) (fun u v huv => ?_) s).trans (hat s)
  · rw [State.updClY_clY, if_neg (Ne.symm hm)]
  · simp only [hat, huv]

/-- A belfry event is sent and queued, and draws a free value; the power figures, memory and the clusters stay (20 R459). -/
theorem State.event_frame (s : State) (status unit_ : Nat) : (s.event status unit_).pwr = s.pwr ∧ (s.event status unit_).smbus = s.smbus ∧
    (s.event status unit_).mem = s.mem ∧ (s.event status unit_).cly = s.cly := by
  have hsend : ∀ {β : Type} (g : State → β) (t : State) (typ seq ref : Nat) (resp ack : Bool) (l : List Byte),
      (∀ t e, g (State.emit t e) = g t) → g (t.bfSend typ resp ack seq ref l) = g t := fun g t _ _ _ _ _ _ hg =>
    State.each_frame g (fun u p => by
      split
      · exact hg _ _
      · rfl) t
  exact ⟨hsend State.pwr _ _ _ _ _ _ _ fun _ _ => rfl, hsend State.smbus _ _ _ _ _ _ _ fun _ _ => rfl,
    hsend State.mem _ _ _ _ _ _ _ fun _ _ => rfl, hsend State.cly _ _ _ _ _ _ _ fun _ _ => rfl⟩

/-- A cap that cannot be met is told to the belfry and logged (18 R422). -/
def State.tellUnmet (s : State) (unmet : Bool) : State := if unmet then (s.event 0xE8 0).logPower 0 true 0 3 0xE8 0 else s

theorem State.tellUnmet_frame (s : State) (unmet : Bool) : (s.tellUnmet unmet).pwr = s.pwr ∧ (s.tellUnmet unmet).smbus = s.smbus ∧
    (s.tellUnmet unmet).mem = s.mem ∧ (s.tellUnmet unmet).clY = s.clY := by
  obtain ⟨hpwr, hsmbus, hmem, hcly⟩ := s.event_frame 0xE8 0
  cases unmet with
  | false => exact ⟨rfl, rfl, rfl, rfl⟩
  | true => exact ⟨hpwr, hsmbus, hmem, funext fun c => congrArg (tget · c ClusterY.reset) hcly⟩

/-- A period of the cap (18 R422): the allotments are given out and the figures recorded, and a cap that cannot be met is told. -/
theorem stepCapPeriod_eq {s : State} {inputW : Nat} {draws : List Nat} (hb : s.boot.bundle = true) (hd : s.compDown 17 = false)
    {sum budget fixed : Nat} {idle pinned rest : List Nat} (hsum : (List.range 16).foldl (fun n c => n + draws.getD c 0) 0 = sum)
    (hbudget : s.pwr.capW * 1000 - (inputW - sum) - 40000 = budget) (hidle : (List.range 16).filter (fun c => s.idleCl c) = idle)
    (hpinned : (List.range 16).filter (fun c => !s.idleCl c && s.pinnedCl c) = pinned)
    (hrest : (List.range 16).filter (fun c => !s.idleCl c && !s.pinnedCl c) = rest)
    (hfixed : idle.foldl (fun n c => n + draws.getD c 0 + 2000) 0 + pinned.foldl (fun n c => n + draws.getD c 0) 0 = fixed) :
    stepCapPeriod inputW draws s = ((s.shareOut draws idle pinned (min 110000 ((budget - fixed) / rest.length))).tallied inputW sum
      (decide (budget < fixed))).tellUnmet (decide (budget < fixed)) := by
  subst hsum hbudget hidle hpinned hrest hfixed
  unfold stepCapPeriod
  rw [if_neg (by simp [hb, hd])]
  rfl

theorem exec_capPeriod {s : State} (inputW sum budget fixed : Nat) (draws idle pinned rest : List Nat) (hb : s.boot.bundle = true)
    (hd : s.compDown 17 = false) (hsum : (List.range 16).foldl (fun n c => n + draws.getD c 0) 0 = sum)
    (hbudget : s.pwr.capW * 1000 - (inputW - sum) - 40000 = budget) (hidle : (List.range 16).filter (fun c => s.idleCl c) = idle)
    (hpinned : (List.range 16).filter (fun c => !s.idleCl c && s.pinnedCl c) = pinned)
    (hrest : (List.range 16).filter (fun c => !s.idleCl c && !s.pinnedCl c) = rest)
    (hfixed : idle.foldl (fun n c => n + draws.getD c 0 + 2000) 0 + pinned.foldl (fun n c => n + draws.getD c 0) 0 = fixed) :
    ∃ u, exec (.capPeriod inputW draws) s = .next u ∧ u.pwr.inputW = inputW ∧ u.pwr.clusterW = sum ∧ u.pwr.uncoreW = inputW - sum ∧
      u.smbus.powerW = inputW / 1000 ∧ u.mem = s.mem ∧
      (∀ c, c ∈ idle → (u.clY c).allot = draws.getD c 0 + 2000 ∧ (u.clY c).idle = true) ∧
      (∀ c, c ∈ pinned → (u.clY c).allot = draws.getD c 0 ∧ (u.clY c).idle = false) ∧
      (∀ c, c ∈ rest → (u.clY c).allot = min 110000 ((budget - fixed) / rest.length) ∧ (u.clY c).idle = false) ∧
      (budget < fixed → u.pwr.capUnmet = true) ∧
      (fixed ≤ budget → u.pwr.capUnmet = s.pwr.capUnmet ∧ u.log = s.log ∧ u.belfry = s.belfry) := by
  refine ⟨_, congrArg Host.Outcome.next (stepCapPeriod_eq hb hd hsum hbudget hidle hpinned hrest hfixed), ?_⟩
  have hclY : ∀ c, c < 16 → (s.shareOut draws idle pinned (min 110000 ((budget - fixed) / rest.length))).clY c = _ := fun c hc =>
    s.shareOut_clY draws idle pinned (min 110000 ((budget - fixed) / rest.length)) hc
  obtain ⟨hspwr, hsmem, hslog, hsbelfry⟩ := s.shareOut_frame draws idle pinned (min 110000 ((budget - fixed) / rest.length))
  generalize s.shareOut draws idle pinned (min 110000 ((budget - fixed) / rest.length)) = v at hclY hspwr hsmem hslog hsbelfry ⊢
  obtain ⟨hin, hcl, hun, hw, hcap, hmem, hlog, hbelfry, hcly⟩ := v.tallied_frame inputW sum (decide (budget < fixed))
  generalize v.tallied inputW sum (decide (budget < fixed)) = t at hin hcl hun hw hcap hmem hlog hbelfry hcly ⊢
  obtain ⟨hupwr, husmbus, humem, huclY⟩ := t.tellUnmet_frame (decide (budget < fixed))
  rw [hupwr, husmbus, humem, huclY, hcly]
  refine ⟨hin, hcl, hun, hw, hmem.trans hsmem, fun c hc => ?_, fun c hc => ?_, fun c hc => ?_, fun hlt => ?_, fun hle => ?_⟩
  · obtain ⟨h16, _⟩ : c < 16 ∧ s.idleCl c = true := by simpa [← hidle] using hc
    rw [hclY c h16]
    exact ClusterY.shared_idle hc
  · obtain ⟨h16, hi, _⟩ : c < 16 ∧ s.idleCl c = false ∧ s.pinnedCl c = true := by simpa [← hpinned] using hc
    rw [hclY c h16]
    exact ClusterY.shared_pinned (by simp [← hidle, hi]) hc
  · obtain ⟨h16, hi, hp⟩ : c < 16 ∧ s.idleCl c = false ∧ s.pinnedCl c = false := by simpa [← hrest] using hc
    rw [hclY c h16]
    exact ClusterY.shared_rest (by simp [← hidle, hi]) (by simp [← hpinned, hp])
  · simp [hcap, hlt]
  · have hmet : decide (budget < fixed) = false := by simpa using hle
    rw [hcap, hmet, hspwr]
    exact ⟨Bool.or_false _, hlog.trans hslog, hbelfry.trans hsbelfry⟩

/-- Settles O47: each loop by its rule. -/
theorem powerLoops : Obligations.PowerLoops := by
  refine fun s => ⟨exec_dvfsPeriod_frame, exec_dvfsPeriod_step, ?_, fun wide c => ⟨State.limitLower_lowest wide, State.limitLower_lowers wide⟩,
    fun c => ⟨State.limitRaise_unlowered, fun hl hlt => ?_, fun hl hge => ?_⟩, exec_thermalPeriod, fun old t => refreshRate_bands,
    exec_capPeriod⟩
  · intro ma draws rails ov all hov hall
    obtain rfl : s.overdrawn draws = ov := hov
    obtain rfl : s.toLower ma draws rails = all := hall
    exact ⟨exec_currentLimitPeriod_lowers, exec_currentLimitPeriod_raises⟩
  · rw [State.limitRaise_clock, if_neg (by simp [hl]), if_pos hlt]
  · rw [State.limitRaise_clock, if_neg (by simp [hl]), if_neg (by omega)]

end Sys2Proof.Machine
end

section
/-! SUPPORT. The slot of a tile's thread: what an instruction in it writes and what it leaves, and what a fault adds (02 R44, R45, R47, R50). -/
namespace Sys2Proof.Machine

/-! What an update of one part of a tile leaves of the others. -/

@[simp] theorem Tile.updCore_core (t : Tile) (f : TileCore → TileCore) : (t.updCore f).core = f t.core := rfl
@[simp] theorem Tile.updCore_net (t : Tile) (f : TileCore → TileCore) : (t.updCore f).net = t.net := rfl
@[simp] theorem Tile.updNet_core (t : Tile) (f : TileNet → TileNet) : (t.updNet f).core = t.core := rfl
@[simp] theorem Tile.updNet_net (t : Tile) (f : TileNet → TileNet) : (t.updNet f).net = f t.net := rfl
@[simp] theorem Tile.updCtl_ctl (t : Tile) (f : TileCtl → TileCtl) : (t.updCtl f).ctl = f t.ctl := rfl
@[simp] theorem Tile.updThread_vq (t : Tile) (i : Nat) (f : Thread → Thread) : (t.updThread i f).core.vq = t.core.vq := rfl
@[simp] theorem Tile.updThread_ctl (t : Tile) (i : Nat) (f : Thread → Thread) : (t.updThread i f).ctl = t.ctl := rfl
@[simp] theorem Tile.pastSlot_portQ (t : Tile) (th cy : Nat) : (t.pastSlot th cy).ctl.portQ = t.ctl.portQ := by
  unfold Tile.pastSlot
  split <;> rfl

/-! What an issue writes in its thread. -/

@[simp] theorem Thread.issued_pc (t : Thread) (cy : Nat) : (t.issued cy).pc = t.pc + 1 := rfl
@[simp] theorem Thread.issued_lastIssue (t : Thread) (cy : Nat) : (t.issued cy).lastIssue = some cy := rfl
@[simp] theorem Thread.issued_regs (t : Thread) (cy : Nat) : (t.issued cy).regs = t.regs := rfl
@[simp] theorem Thread.issued_notReady (t : Thread) (cy : Nat) : (t.issued cy).notReady = t.notReady := rfl
@[simp] theorem Thread.issued_landing (t : Thread) (cy : Nat) : (t.issued cy).landing = t.landing := rfl
@[simp] theorem Thread.setReg_landing (t : Thread) (r : Nat) (v : Word) (n : Nat) : (t.setReg r v n).landing = t.landing := by
  unfold Thread.setReg
  split <;> rfl

/-- A register written reads as the value written. -/
theorem Thread.setReg_get_same (t : Thread) {r : Nat} (v : Word) (n : Nat) (h : r ≠ 0) : tget (t.setReg r v n).regs r 0 = v := by
  rw [Thread.setReg_regs t v n h, tget_tset_same]

/-- A register written is ready in the cycle that the write names. -/
theorem Thread.setReg_ready_same (t : Thread) {r : Nat} (v : Word) (n : Nat) (h : r ≠ 0) : tget (t.setReg r v n).notReady r 0 = n := by
  rw [Thread.setReg_notReady t v n h, tget_tset_same]

/-! An issue changes one thread of one tile, its slot, and the count of free values. -/

section
variable (s : State) (ta th cy : Nat)

theorem State.updThread_tile_same (f : Thread → Thread) : (s.updThread ta th f).tile ta = (s.tile ta).updThread th f :=
  s.tile_updTile_same ta _

theorem State.issueOnly_tile_same : (s.issueOnly ta th cy).tile ta = ((s.tile ta).updThread th (·.issued cy)).pastSlot th cy := by
  simp [State.issueOnly]

theorem State.issueOnly_tile_ne {k : Nat} (h : k ≠ ta) : (s.issueOnly ta th cy).tile k = s.tile k := by
  rw [State.issueOnly, State.drew_tile, State.tile_updTile_ne _ _ h]

@[simp] theorem State.issueOnly_mem : (s.issueOnly ta th cy).mem = s.mem := rfl
@[simp] theorem State.updThread_mem (f : Thread → Thread) : (s.updThread ta th f).mem = s.mem := rfl

end

/-! A fault of a tile is added to those of its battery's cycle, and flags the tile alone (02 R50, R70). -/

theorem State.faultOn_one (s : State) (ta b st detail va : Nat) : s.faultOn ta b [st] detail va =
    (s.flagTile ta [st]).updBat (taC ta) b (fun x => { x with faults := x.faults ++ [{ status := st, ta, detail, va }] }) := rfl

/-- One condition met is one more fault of the battery's cycle; threads, vector unit, scratchpad and net part of the tile, and memory, stay. -/
theorem State.faultOn_one_effect (s : State) (ta b st detail va : Nat) : ∃ u, s.faultOn ta b [st] detail va = u ∧
    (u.bat (taC ta) b).faults = (s.bat (taC ta) b).faults ++ [{ status := st, ta, detail, va }] ∧
    (u.tile ta).core = (s.tile ta).core ∧ (u.tile ta).net = (s.tile ta).net ∧ u.mem = s.mem := by
  have htile : (s.faultOn ta b [st] detail va).tile ta = (s.flagTile ta [st]).tile ta := rfl
  refine ⟨_, rfl, ?_, ?_, ?_, rfl⟩
  · rw [State.faultOn_one, State.updBat_bat, if_pos rfl]
    rfl
  · rw [htile, State.flagTile, State.tile_updTile_same]
    rfl
  · rw [htile, State.flagTile, State.tile_updTile_same]
    rfl

end Sys2Proof.Machine
end

section
/-! SUPPORT. The scalar instructions, their results, and the statement about them (02 R44, R47). -/
namespace Sys2Proof.Machine

/-! Results (02 R47). -/

theorem alu_slt (a b f : Word) : alu .slt a b f = if a.toInt < b.toInt then 1 else 0 := by
  simp [alu, BitVec.slt_eq_decide]

theorem alu_sltu (a b f : Word) : alu .sltu a b f = if a.toNat < b.toNat then 1 else 0 := by
  simp [alu, BitVec.ult_eq_decide]

theorem alu_sll {b : Word} (h : b.toNat < 32) (a f : Word) : alu .sll a b f = BitVec.ofNat 32 (a.toNat * 2 ^ b.toNat) := by
  refine BitVec.eq_of_toNat_eq ?_
  simp [alu, h, Nat.shiftLeft_eq]

theorem alu_srl {b : Word} (h : b.toNat < 32) (a f : Word) : alu .srl a b f = BitVec.ofNat 32 (a.toNat / 2 ^ b.toNat) := by
  have hlt : a.toNat / 2 ^ b.toNat < 2 ^ 32 := Nat.lt_of_le_of_lt (Nat.div_le_self _ _) a.isLt
  refine BitVec.eq_of_toNat_eq ?_
  rw [BitVec.toNat_ofNat, Nat.mod_eq_of_lt hlt]
  simp [alu, h, Nat.shiftRight_eq_div_pow]

/-- The two halves of the product of unsigned numbers. -/
theorem mulVal_halves (a b : Word) : (mulVal .highU a b).toNat * 2 ^ 32 + (mulVal .low a b).toNat = a.toNat * b.toNat := by
  have hlt : a.toNat * b.toNat / 2 ^ 32 < 2 ^ 32 := Nat.div_lt_of_lt_mul (Nat.mul_lt_mul'' a.isLt b.isLt)
  simp only [mulVal, BitVec.toNat_ofNat, BitVec.toNat_mul, Nat.mod_eq_of_lt hlt]
  exact Nat.div_add_mod' _ _

theorem divVal_zero (a f : Word) : divVal .divU a 0 f = 0xFFFFFFFF ∧ divVal .divS a 0 f = 0xFFFFFFFF ∧ divVal .remU a 0 f = a ∧
    divVal .remS a 0 f = a := ⟨rfl, rfl, rfl, rfl⟩

theorem divVal_unsigned {b : Word} (h : b ≠ 0) (a f : Word) : (divVal .divU a b f).toNat = a.toNat / b.toNat ∧
    (divVal .remU a b f).toNat = a.toNat % b.toNat := by
  simp only [divVal, if_neg h]
  exact ⟨BitVec.toNat_udiv, BitVec.toNat_umod⟩

/-- A result is read in the thread's next slot, and no other register changes. -/
theorem State.issueReg_regVal (s : State) (ta th cy : Nat) (v : Word) {rd : Nat} (h : rd ≠ 0) :
    (s.issueReg ta th cy rd v).regVal ta th rd (cy + 4) 0 = v ∧
    ∀ r, r ≠ rd → tget (((s.issueReg ta th cy rd v).tile ta).thread th).regs r 0 = tget ((s.tile ta).thread th).regs r 0 := by
  simp only [State.regVal, State.issueReg_thread, Thread.issued_regs, Thread.issued_notReady]
  refine ⟨?_, fun r hr => Thread.setReg_get_ne _ _ _ hr⟩
  rw [if_neg h, Thread.setReg_ready_same _ _ _ h, if_neg (Nat.lt_irrefl _), Thread.setReg_get_same _ _ _ h]

/-- Register 0 takes no result. -/
theorem State.issueReg_zero (s : State) (ta th cy : Nat) (v : Word) (r n k : Nat) :
    (s.issueReg ta th cy 0 v).regVal ta th 0 n k = 0 ∧
    tget (((s.issueReg ta th cy 0 v).tile ta).thread th).regs r 0 = tget ((s.tile ta).thread th).regs r 0 := by
  refine ⟨rfl, ?_⟩
  rw [State.issueReg_thread]
  rfl

/-! The instructions in their slots (02 R44). -/

section
variable {s : State} {t : TileId} {th : Fin 4} {cy : Nat}

theorem exec_integerAlu (h : s.slotOf (tileKey t) th.val = some cy) (op : AluOp) (rd rs : Fin 32) (src : Src) :
    exec (.integerAlu t th op rd rs src) s = .next ((s.issueReg (tileKey t) th.val cy rd.val
      (alu op (s.regVal (tileKey t) th.val rs.val cy 0) (s.srcVal (tileKey t) th.val cy src) (Config.free 32 (s.freeCtr + 2)))).drew 1) := by
  show Host.Outcome.next (stepIntegerAlu t th op rd rs src s) = _
  simp only [stepIntegerAlu, h]

theorem exec_multiply (h : s.slotOf (tileKey t) th.val = some cy) (op : MulOp) (rd a b : Fin 32) :
    exec (.multiply t th op rd a b) s = .next (s.issueReg (tileKey t) th.val cy rd.val
      (mulVal op (s.regVal (tileKey t) th.val a.val cy 0) (s.regVal (tileKey t) th.val b.val cy 1))) := by
  show Host.Outcome.next (stepMultiply t th op rd a b s) = _
  simp only [stepMultiply, h]

/-- A quotient or remainder is ready after nine slots. -/
theorem exec_divide (h : s.slotOf (tileKey t) th.val = some cy) (op : DivOp) (rd a b : Fin 32) :
    ∃ u, exec (.divide t th op rd a b) s = .next u ∧ (u.tile (tileKey t)).thread th.val =
      (((s.tile (tileKey t)).thread th.val).setReg rd.val (divVal op (s.regVal (tileKey t) th.val a.val cy 0)
        (s.regVal (tileKey t) th.val b.val cy 1) (Config.free 32 (s.freeCtr + 2))) (cy + 36)).issued cy := by
  refine ⟨stepDivide t th op rd a b s, rfl, ?_⟩
  simp only [stepDivide, h, State.drew_tile, State.tile_updTile_same, Tile.pastSlot_thread, Tile.updThread_same]

theorem exec_branch (h : s.slotOf (tileKey t) th.val = some cy) (op : BrOp) (a b : Fin 32) (target : Nat) :
    ∃ u, exec (.branch t th op a b target) s = .next u ∧
      ((u.tile (tileKey t)).thread th.val).pc =
        (if branchTaken op (s.regVal (tileKey t) th.val a.val cy 0) (s.regVal (tileKey t) th.val b.val cy 1)
            ((s.tile (tileKey t)).thread th.val).accept then target
          else ((s.tile (tileKey t)).thread th.val).pc + 1) ∧
      ((u.tile (tileKey t)).thread th.val).lastIssue = some cy := by
  refine ⟨stepBranch t th op a b target s, rfl, ?_⟩
  simp only [stepBranch, h, State.drew_tile, State.tile_updTile_same, Tile.pastSlot_thread, Tile.updThread_same, apply_ite Thread.pc,
    Thread.setReg_pc, ite_self, and_self]

end

/-- Settles O1: the instructions by their rules in a slot, the results by those of their operations. -/
theorem scalarInstructions : Obligations.ScalarInstructions := by
  refine ⟨fun s t th cy h => ⟨exec_integerAlu h, exec_multiply h, fun op rd a b => ?_, exec_branch h⟩,
    fun a b f => ⟨rfl, rfl, rfl, rfl, rfl, rfl, alu_slt a b f, alu_sltu a b f, fun hb => ⟨alu_sll hb a f, alu_srl hb a f⟩⟩,
    mulVal_halves, divVal_zero, fun a b f hb => divVal_unsigned hb a f,
    fun s ta th cy rd v h => s.issueReg_regVal ta th cy v h, State.issueReg_zero⟩
  obtain ⟨u, hu, hth⟩ := exec_divide h op rd a b
  refine ⟨u, hu, fun hrd => ?_, ?_⟩
  · rw [hth]
    exact ⟨Thread.setReg_get_same _ _ _ hrd, Thread.setReg_ready_same _ _ _ hrd⟩
  · rw [hth, Thread.issued_pc, Thread.setReg_pc]

end Sys2Proof.Machine
end

section
/-! SUPPORT. Narrow accesses of the scratchpad, and the statement about them (02 R50, R59). -/
namespace Sys2Proof.Machine

/-- An instruction that writes its tile beside its slot writes no other tile. -/
theorem State.updTile_issueOnly_ne (s : State) (ta th cy : Nat) (f : Tile → Tile) {k : Nat} (h : k ≠ ta) :
    ((s.updTile ta f).issueOnly ta th cy).tile k = s.tile k := by
  rw [State.issueOnly_tile_ne _ _ _ _ h, State.tile_updTile_ne _ _ h]

section
variable {s : State} {t : TileId} {th : Fin 4} {b cy n a : Nat} {size : Size}

theorem stepNarrowLoad_clean (hth : th.val ≠ 3) (h : s.canIssue (tileKey t) th.val = some (b, cy)) (hn : narrowSize size = some n)
    {rs : Fin 32} {off : Word} {ecc : Ecc} (hecc : ecc ≠ .uncorrectable)
    (ha : (s.regVal (tileKey t) th.val rs.val cy 0 + off).toNat = a) (hf : narrowFaults (s.tile (tileKey t)).ctl a n false = [])
    (signed : Bool) (rd : Fin 32) : stepNarrowLoad t th size signed rd rs off ecc s =
      s.issueReg (tileKey t) th.val cy rd.val (extend n signed (mread (s.tile (tileKey t)).core.pad a n)) := by
  have hecc' : (ecc == .uncorrectable) = false := beq_eq_false_iff_ne.mpr hecc
  simp [stepNarrowLoad, h, hn, hth, ha, hf, hecc', -BitVec.toNat_add]

theorem stepNarrowStore_clean (hth : th.val ≠ 3) (h : s.canIssue (tileKey t) th.val = some (b, cy)) (hn : narrowSize size = some n)
    {rb : Fin 32} {off : Word} (ha : (s.regVal (tileKey t) th.val rb.val cy 0 + off).toNat = a)
    (hf : narrowFaults (s.tile (tileKey t)).ctl a n true = []) (rs : Fin 32) : stepNarrowStore t th size rs rb off s =
      (s.updTile (tileKey t) (fun t' => t'.updCore (fun x => { x with
        pad := mwrite x.pad a n (s.regVal (tileKey t) th.val rs.val cy 1).toNat }))).issueOnly (tileKey t) th.val cy := by
  simp [stepNarrowStore, h, hn, hth, ha, hf, -BitVec.toNat_add]

end

/-- Settles O2: the register by the bytes read; the scratchpad by what a number written leaves. -/
theorem narrowAccesses : Obligations.NarrowAccesses := by
  refine fun s t th b cy size n a hth h hn => ⟨fun signed rd rs off ecc hecc ha hf =>
    congrArg Host.Outcome.next (stepNarrowLoad_clean hth h hn hecc ha hf signed rd), fun rs rb off ha hf =>
    ⟨_, congrArg Host.Outcome.next (stepNarrowStore_clean hth h hn ha hf rs), ?_⟩⟩
  have hpad : ∀ v : Word, (((s.updTile (tileKey t) (fun t' => t'.updCore (fun x => { x with
      pad := mwrite x.pad a n v.toNat }))).issueOnly (tileKey t) th.val cy).tile (tileKey t)).core.pad =
      mwrite (s.tile (tileKey t)).core.pad a n v.toNat := fun v => by
    simp [State.issueOnly_tile_same]
  refine ⟨hpad _, fun x hwf hx => ?_, ?_, fun k => State.updTile_issueOnly_ne s _ _ _ _, rfl⟩
  · rw [hpad, mget_mwrite_outside hwf a n _ x hx]
  · simp [State.issueOnly_tile_same]

end Sys2Proof.Machine
end

section
/-! SUPPORT. Split-phase accesses of cluster memory, and the statement about them (02 R48, 04 R107). -/
namespace Sys2Proof.Machine

/-! The crossbar port of a tile. -/

@[simp] theorem State.pushPort_mem (s : State) (ta b va dpa n : Nat) (kind : PortKind) (i : CtxId) :
    (s.pushPort ta b va dpa n kind i).mem = s.mem := rfl

theorem State.pushPort_tile (s : State) (ta b va dpa n : Nat) (kind : PortKind) (i : CtxId) :
    (s.pushPort ta b va dpa n kind i).tile ta = (s.tile ta).updCtl (fun x => { x with
      portQ := x.portQ ++ [{ kind, ctx := i, bat := b, va, dpa, bytes := n, done := none }] }) := s.tile_updTile_same ta _

/-- An access that uses its slot and waits for nothing is the last of the port's queue. -/
theorem State.pushPort_issueOnly_portQ (s : State) (ta b va dpa n : Nat) (kind : PortKind) (i : CtxId) (th cy : Nat) :
    (((s.pushPort ta b va dpa n kind i).issueOnly ta th cy).tile ta).ctl.portQ =
      (s.tile ta).ctl.portQ ++ [{ kind, ctx := i, bat := b, va, dpa, bytes := n, done := none }] := by
  simp [State.issueOnly_tile_same, State.pushPort_tile]

/-- A landing register of a thread takes a new value. -/
def Thread.setLanding (y : Thread) (k : Nat) (v : Landing) : Thread := { y with landing := tset y.landing k v }

@[simp] theorem Thread.setLanding_same (y : Thread) (k : Nat) (v : Landing) :
    tget (y.setLanding k v).landing k Landing.reset = v := tget_tset_same _ _ _ _

section
variable {s : State} {t : TileId} {th : Fin 4} {b cy : Nat}

theorem exec_clusterMemoryLoad (h : s.canIssue (tileKey t) th.val = some (b, cy)) (landing : Fin 8) (size : Size) (n va : Nat)
    (hn : narrowSize size = some n) (hf : memFaults (s.bat (taC (tileKey t)) b).regions va n false = []) :
    ∃ u, exec (.clusterMemoryLoad t th landing size va) s = .next u ∧
      tget ((u.tile (tileKey t)).thread th.val).landing landing.val Landing.reset = { waiting := true, val := none } ∧
      (u.tile (tileKey t)).ctl.portQ.length = (s.tile (tileKey t)).ctl.portQ.length + 1 ∧ u.mem = s.mem := by
  obtain ⟨p, hp⟩ : ∃ p, p = s.pushPort (tileKey t) b va ((regionDpa (s.bat (taC (tileKey t)) b).regions va n false).getD 0) n
      (.load th.val landing.val) ((s.bat (taC (tileKey t)) b).owner.getD { part := 0, ctx := 0, gen := 0 }) := ⟨_, rfl⟩
  have hstep : stepClusterMemoryLoad t th landing size va s = (p.updThread (tileKey t) th.val
      (·.setLanding landing.val { waiting := true, val := none })).issueOnly (tileKey t) th.val cy := by
    subst hp
    simp only [stepClusterMemoryLoad, h, hn, hf]
    rfl
  have hq : (p.tile (tileKey t)).ctl.portQ.length = (s.tile (tileKey t)).ctl.portQ.length + 1 := by
    simp [hp, State.pushPort_tile]
  refine ⟨_, congrArg Host.Outcome.next hstep, ?_, ?_, ?_⟩
  · simp [State.issueOnly_thread, State.updThread_tile_same]
  · simp [State.issueOnly_tile_same, State.updThread_tile_same, hq]
  · simp [hp]

theorem exec_useInstruction (h : s.canIssue (tileKey t) th.val = some (b, cy)) (landing : Fin 8) (rd : Fin 32) (v : Word)
    (hrd : rd.val ≠ 0) (hv : (tget ((s.tile (tileKey t)).thread th.val).landing landing.val Landing.reset).val = some v) :
    ∃ u, exec (.useInstruction t th landing rd) s = .next u ∧
      tget ((u.tile (tileKey t)).thread th.val).regs rd.val 0 = v ∧
      tget ((u.tile (tileKey t)).thread th.val).landing landing.val Landing.reset = Landing.reset ∧ u.mem = s.mem := by
  have hstep : stepUseInstruction t th landing rd s =
      (s.updThread (tileKey t) th.val (·.setLanding landing.val Landing.reset)).issueReg (tileKey t) th.val cy rd.val v := by
    simp only [stepUseInstruction, h, hv]
    rfl
  refine ⟨_, congrArg Host.Outcome.next hstep, ?_, ?_, rfl⟩
  · rw [State.issueReg_thread, Thread.issued_regs, Thread.setReg_get_same _ _ _ hrd]
  · simp [State.issueReg_thread, State.updThread_tile_same]

theorem exec_clusterMemoryStore (h : s.canIssue (tileKey t) th.val = some (b, cy)) (size : Size) (n va : Nat) (rs : Fin 32)
    (hn : narrowSize size = some n) (hf : memFaults (s.bat (taC (tileKey t)) b).regions va n true = []) :
    ∃ u o, exec (.clusterMemoryStore t th size va rs) s = .next u ∧
      (u.tile (tileKey t)).ctl.portQ = (s.tile (tileKey t)).ctl.portQ ++ [o] ∧
      o.kind = .store th.val (s.regVal (tileKey t) th.val rs.val cy 0).toNat ∧ o.va = va ∧ o.bytes = n ∧ u.mem = s.mem := by
  refine ⟨_, _, congrArg Host.Outcome.next ?_, State.pushPort_issueOnly_portQ s (tileKey t) b va
    ((regionDpa (s.bat (taC (tileKey t)) b).regions va n true).getD 0) n _
    ((s.bat (taC (tileKey t)) b).owner.getD { part := 0, ctx := 0, gen := 0 }) th.val cy, rfl, rfl, rfl, rfl⟩
  simp only [stepClusterMemoryStore, h, hn, hf]
  rfl

theorem exec_fenceSc (h : s.canIssue (tileKey t) th.val = some (b, cy)) :
    ∃ u o, exec (.fenceSc t th) s = .next u ∧
      (u.tile (tileKey t)).ctl.portQ = (s.tile (tileKey t)).ctl.portQ ++ [o] ∧ o.kind = .fence ∧ u.mem = s.mem := by
  refine ⟨_, _, congrArg Host.Outcome.next ?_, State.pushPort_issueOnly_portQ s (tileKey t) b 0 0 0 .fence
    ((s.bat (taC (tileKey t)) b).owner.getD { part := 0, ctx := 0, gen := 0 }) th.val cy, rfl, rfl⟩
  simp only [stepFenceSc, h]

theorem exec_landingRegisterFill (landing : Fin 8) (o : PortOp) (v : Nat)
    (ho : (s.tile (tileKey t)).ctl.portQ.find? (fun o => o.kind == .load th.val landing.val && o.done.isSome) = some o)
    (hv : o.done = some v) :
    ∃ u, exec (.landingRegisterFill t th landing) s = .next u ∧
      tget ((u.tile (tileKey t)).thread th.val).landing landing.val Landing.reset =
        { waiting := false, val := some (BitVec.ofNat 32 v) } ∧
      (u.tile (tileKey t)).ctl.portQ = (s.tile (tileKey t)).ctl.portQ.erase o := by
  have hstep : stepLandingRegisterFill t th landing s = s.updTile (tileKey t) (fun t' =>
      (t'.updCtl (fun x => { x with portQ := x.portQ.erase o })).updThread th.val
        (·.setLanding landing.val { waiting := false, val := some (BitVec.ofNat 32 v) })) := by
    simp only [stepLandingRegisterFill, ho, hv]
    rfl
  refine ⟨_, congrArg Host.Outcome.next hstep, ?_, ?_⟩
  · simp
  · simp

end

/-- Settles O3: each instruction and the fill by its rule. -/
theorem clusterMemoryAccesses : Obligations.ClusterMemoryAccesses := fun _ _ _ =>
  ⟨fun _ _ h => ⟨exec_clusterMemoryLoad h, exec_useInstruction h, exec_clusterMemoryStore h, exec_fenceSc h⟩, exec_landingRegisterFill⟩

end Sys2Proof.Machine
end

section
/-! SUPPORT. The static net ports of a thread, and the statement about them (02 R47, 04 R99, R102). -/
namespace Sys2Proof.Machine

section
variable {s : State} {t : TileId} {th : Fin 4} {b cy : Nat}

theorem exec_readScalar (h : s.canIssue (tileKey t) th.val = some (b, cy)) (d : Dir) (rd : Fin 32) (v : Word)
    (hv : (s.tile (tileKey t)).net.inS.find? (fun e => e.1 == dirIx d) = some (dirIx d, v)) :
    exec (.staticNetPort t th (.readScalar d rd)) s = .next (s.issueReg (tileKey t) th.val cy rd.val v) := by
  show Host.Outcome.next (stepStaticNetPort t th (.readScalar d rd) s) = _
  simp only [stepStaticNetPort, h, hv]

theorem exec_readControl (h : s.canIssue (tileKey t) th.val = some (b, cy)) (d : Dir) (rd : Fin 32) :
    exec (.staticNetPort t th (.readControl d rd)) s =
      .next (s.issueReg (tileKey t) th.val cy rd.val (BitVec.ofNat 32 (tget (s.tile (tileKey t)).net.inC (dirIx d) 0).toNat)) := by
  show Host.Outcome.next (stepStaticNetPort t th (.readControl d rd) s) = _
  simp only [stepStaticNetPort, h]

/-- A write of the net part beside the slot of its thread: the net part as written, the slot used, nothing else of the parts here. -/
theorem State.updNet_issueOnly_effect (s : State) (ta th cy : Nat) (f : TileNet → TileNet) :
    ∃ u, (s.updTile ta (fun t => t.updNet f)).issueOnly ta th cy = u ∧ (u.tile ta).net = f (s.tile ta).net ∧
      ((u.tile ta).thread th).lastIssue = some cy ∧ ((u.tile ta).thread th).pc = ((s.tile ta).thread th).pc + 1 ∧
      (∀ k, k ≠ ta → u.tile k = s.tile k) ∧ (u.tile ta).core.pad = (s.tile ta).core.pad ∧ u.mem = s.mem := by
  refine ⟨_, rfl, ?_, ?_, ?_, fun k hk => s.updTile_issueOnly_ne ta th cy _ hk, ?_, rfl⟩
  · simp [State.issueOnly_tile_same]
  · simp [State.issueOnly_thread]
  · simp [State.issueOnly_thread]
  · simp [State.issueOnly_tile_same]

theorem exec_writeScalar (h : s.canIssue (tileKey t) th.val = some (b, cy)) (d : Dir) (rs : Fin 32) :
    ∃ u, exec (.staticNetPort t th (.writeScalar d rs)) s = .next u ∧
      tget (u.tile (tileKey t)).net.wrS (dirIx d) 0 = s.regVal (tileKey t) th.val rs.val cy 0 ∧
      ((u.tile (tileKey t)).thread th.val).lastIssue = some cy ∧ ((u.tile (tileKey t)).thread th.val).pc =
        ((s.tile (tileKey t)).thread th.val).pc + 1 ∧ (∀ k, k ≠ tileKey t → u.tile k = s.tile k) ∧
      (u.tile (tileKey t)).core.pad = (s.tile (tileKey t)).core.pad ∧ u.mem = s.mem := by
  obtain ⟨u, hu, hnet, hslot⟩ := s.updNet_issueOnly_effect (tileKey t) th.val cy
    (fun x => { x with wrS := tset x.wrS (dirIx d) (s.regVal (tileKey t) th.val rs.val cy 0) })
  refine ⟨u, congrArg Host.Outcome.next ?_, ?_, hslot⟩
  · simp only [stepStaticNetPort, h, hu]
  · rw [hnet, tget_tset_same]

theorem exec_writeControl (h : s.canIssue (tileKey t) th.val = some (b, cy)) (d : Dir) (rs : Fin 32)
    (hv : (s.regVal (tileKey t) th.val rs.val cy 0).toNat % 256 < 0xF0) :
    ∃ u, exec (.staticNetPort t th (.writeControl d rs)) s = .next u ∧
      tget (u.tile (tileKey t)).net.wrC (dirIx d) 0 = BitVec.ofNat 8 (s.regVal (tileKey t) th.val rs.val cy 0).toNat ∧
      ((u.tile (tileKey t)).thread th.val).lastIssue = some cy ∧ (∀ k, k ≠ tileKey t → u.tile k = s.tile k) ∧
      (u.tile (tileKey t)).core.pad = (s.tile (tileKey t)).core.pad ∧ u.mem = s.mem := by
  obtain ⟨u, hu, hnet, hlast, _, hframe⟩ := s.updNet_issueOnly_effect (tileKey t) th.val cy
    (fun x => { x with wrC := tset x.wrC (dirIx d) (BitVec.ofNat 8 (s.regVal (tileKey t) th.val rs.val cy 0).toNat) })
  refine ⟨u, congrArg Host.Outcome.next ?_, ?_, hlast, hframe⟩
  · simp only [stepStaticNetPort, h, if_neg (Nat.not_le.mpr hv), hu]
  · rw [hnet, tget_tset_same]

/-- A read of a link that is not valid, and a write of a reserved token: the fault alone. -/
theorem stepStaticNetPort_violation (h : s.canIssue (tileKey t) th.val = some (b, cy)) {acc : PortAccess}
    (hacc : (∃ d rd, acc = .readScalar d rd ∧ (s.tile (tileKey t)).net.inS.find? (fun e => e.1 == dirIx d) = none) ∨
      (∃ d rs, acc = .writeControl d rs ∧ 0xF0 ≤ (s.regVal (tileKey t) th.val rs.val cy 0).toNat % 256)) :
    stepStaticNetPort t th acc s = (s.issueOnly (tileKey t) th.val cy).faultOn (tileKey t) b [St.scheduleViolation]
      (tileDetail th.val 0 0 0) 0 := by
  rcases hacc with ⟨d, rd, rfl, hnone⟩ | ⟨d, rs, rfl, hres⟩
  · simp only [stepStaticNetPort, h, hnone]
  · simp only [stepStaticNetPort, h, if_pos hres]

theorem exec_staticNetPort_violation (h : s.canIssue (tileKey t) th.val = some (b, cy)) (acc : PortAccess)
    (hacc : (∃ d rd, acc = .readScalar d rd ∧ (s.tile (tileKey t)).net.inS.find? (fun e => e.1 == dirIx d) = none) ∨
      (∃ d rs, acc = .writeControl d rs ∧ 0xF0 ≤ (s.regVal (tileKey t) th.val rs.val cy 0).toNat % 256)) :
    ∃ u, exec (.staticNetPort t th acc) s = .next u ∧
      (u.bat (taC (tileKey t)) b).faults = (s.bat (taC (tileKey t)) b).faults ++
        [{ status := St.scheduleViolation, ta := tileKey t, detail := tileDetail th.val 0 0 0, va := 0 }] ∧
      ((u.tile (tileKey t)).thread th.val).lastIssue = some cy ∧ (u.tile (tileKey t)).net = (s.tile (tileKey t)).net ∧ u.mem = s.mem := by
  obtain ⟨u, hu, hfaults, hcore, hnet, hmem⟩ := (s.issueOnly (tileKey t) th.val cy).faultOn_one_effect (tileKey t) b
    St.scheduleViolation (tileDetail th.val 0 0 0) 0
  have hthread : (u.tile (tileKey t)).thread th.val = ((s.issueOnly (tileKey t) th.val cy).tile (tileKey t)).thread th.val := by
    rw [Tile.thread, Tile.thread, hcore]
  refine ⟨u, congrArg Host.Outcome.next ((stepStaticNetPort_violation h hacc).trans hu), hfaults, ?_, ?_, hmem⟩
  · rw [hthread, State.issueOnly_thread, Thread.issued_lastIssue]
  · rw [hnet]
    simp [State.issueOnly_tile_same]

end

/-- Settles O4: each access by its rule. -/
theorem staticNetPorts : Obligations.StaticNetPorts := fun _ _ _ _ _ h =>
  ⟨exec_readScalar h, exec_readControl h, exec_writeScalar h, exec_writeControl h, exec_staticNetPort_violation h⟩

end Sys2Proof.Machine
end

section
/-! SUPPORT. The vector unit, its random draws, and the statement about them (02 R51, R52, R54, 12 R291-R293). -/
namespace Sys2Proof.Machine

section
variable {s : State} {t : TileId}

/-! Issue (02 R52): an instruction joins the queue. -/

theorem exec_vectorIssue (th : Fin 4) (b cy : Nat) (vi : VInstr) (h : s.canIssue (tileKey t) th.val = some (b, cy)) (h1 : 0 < vi.rep)
    (h64 : vi.rep ≤ 64) (hr : (vecReads vi 0).length ≤ 1) (hq : (s.tile (tileKey t)).core.vq.length < 4) (hop : vi.op ≠ .vrand) :
    ∃ u, exec (.vectorIssue t th vi) s = .next u ∧
      (u.tile (tileKey t)).core.vq = (s.tile (tileKey t)).core.vq ++ [{ instr := vi, thread := th.val }] ∧
      ((u.tile (tileKey t)).thread th.val).lastIssue = some cy ∧ (∀ k, k ≠ tileKey t → u.tile k = s.tile k) ∧ u.mem = s.mem := by
  have hlegal : vecLegal vi = true := by simp [vecLegal, Nat.succ_le_of_lt h1, h64, hr]
  have hstep : stepVectorIssue t th vi s = (s.updTile (tileKey t) (fun t' => t'.updCore (fun y => { y with
      vq := y.vq ++ [{ instr := vi, thread := th.val }] }))).issueOnly (tileKey t) th.val cy := by
    simp [stepVectorIssue, h, hop, hlegal, hq]
  refine ⟨_, congrArg Host.Outcome.next hstep, ?_, ?_, fun k => State.updTile_issueOnly_ne s _ _ _ _, rfl⟩
  · simp [State.issueOnly_tile_same]
  · simp [State.issueOnly_thread]

/-! A repeat that is due and meets no condition (02 R51, R52): its result, and the feed that it read. -/

theorem State.runVector_clean {ta b : Nat} {ti : TileImg} {vi : VInstr} {feed : Option Nat} {mine : VOp → Bool}
    {rep : VInstr → Nat → VecIn → TileCore → Nat → TileCore} (hrun : s.inRun ta = some (b, ti)) (hdue : (s.tile ta).vecDue = some vi)
    (hmine : mine vi.op = true)
    (hf : vecFaults (s.tile ta).ctl ((s.tile ta).vecIn ti (feed.getD 0)) vi (s.tile ta).core.vrep = []) :
    s.runVector ta feed .clean mine rep = (s.updTile ta (fun t => t.updCore (fun x =>
      (rep vi s.freeCtr ((s.tile ta).vecIn ti (feed.getD 0)) x x.vrep).repeated
        (if swRdPort ((s.tile ta).net.inForce ti) == 4 then feed else none)))).drew vecFree := by
  have hclean : (Ecc.clean == Ecc.uncorrectable) = false := rfl
  simp only [State.runVector, hrun, hdue, hmine, hf, hclean, Bool.and_false]
  rfl

/-- What such a repeat changes: the vector unit of its tile. -/
theorem State.runVector_effect {ta b : Nat} {ti : TileImg} {vi : VInstr} {feed : Option Nat} {mine : VOp → Bool}
    {rep : VInstr → Nat → VecIn → TileCore → Nat → TileCore} (hrun : s.inRun ta = some (b, ti)) (hdue : (s.tile ta).vecDue = some vi)
    (hmine : mine vi.op = true)
    (hf : vecFaults (s.tile ta).ctl ((s.tile ta).vecIn ti (feed.getD 0)) vi (s.tile ta).core.vrep = []) :
    ∃ u, s.runVector ta feed .clean mine rep = u ∧
      (u.tile ta).core = (rep vi s.freeCtr ((s.tile ta).vecIn ti (feed.getD 0)) (s.tile ta).core (s.tile ta).core.vrep).repeated
        (if swRdPort ((s.tile ta).net.inForce ti) == 4 then feed else none) ∧
      (u.tile ta).net = (s.tile ta).net ∧ (∀ k, k ≠ ta → u.tile k = s.tile k) ∧ u.mem = s.mem := by
  refine ⟨_, State.runVector_clean hrun hdue hmine hf, ?_, ?_, fun k hk => ?_, rfl⟩
  · rw [State.drew_tile, State.tile_updTile_same]
    rfl
  · rw [State.drew_tile, State.tile_updTile_same]
    rfl
  · rw [State.drew_tile, State.tile_updTile_ne _ _ hk]

theorem exec_vectorRepeat {b : Nat} {ti : TileImg} {vi : VInstr} {bank : Fin 12} {row : Fin 128}
    (hrun : s.inRun (tileKey t) = some (b, ti)) (hdue : (s.tile (tileKey t)).vecDue = some vi)
    (hf : vecFaults (s.tile (tileKey t)).ctl ((s.tile (tileKey t)).vecIn ti (128 * bank.val + row.val)) vi
      (s.tile (tileKey t)).core.vrep = []) (e : Instr)
    (he : (e = .vectorInstruction ⟨t, bank, row, .clean⟩ ∧ isSpecial vi.op = false ∧ vi.op ≠ .vrand) ∨
      (e = .specialFunction ⟨t, bank, row, .clean⟩ ∧ isSpecial vi.op = true)) :
    ∃ u, exec e s = .next u ∧ (u.tile (tileKey t)).core =
        (vecRepeat vi s.freeCtr ((s.tile (tileKey t)).vecIn ti (128 * bank.val + row.val)) (s.tile (tileKey t)).core
          (s.tile (tileKey t)).core.vrep).repeated
          (if swRdPort ((s.tile (tileKey t)).net.inForce ti) == 4 then some (128 * bank.val + row.val) else none) ∧
        (u.tile (tileKey t)).net = (s.tile (tileKey t)).net ∧ (∀ k, k ≠ tileKey t → u.tile k = s.tile k) ∧ u.mem = s.mem := by
  obtain ⟨mine, hmine, hexec⟩ : ∃ mine : VOp → Bool, mine vi.op = true ∧ exec e s =
      .next (s.runVector (tileKey t) (some (128 * bank.val + row.val)) .clean mine vecRepeat) := by
    rcases he with ⟨rfl, hplain, hop⟩ | ⟨rfl, hspec⟩
    · exact ⟨fun op => !isSpecial op && op != .vrand, by simp [hplain, hop], rfl⟩
    · exact ⟨isSpecial, hspec, rfl⟩
  obtain ⟨u, hu, hframe⟩ := State.runVector_effect (feed := some (128 * bank.val + row.val)) (rep := vecRepeat) hrun hdue hmine hf
  exact ⟨u, hexec.trans (congrArg Host.Outcome.next hu), hframe⟩

/-! Random draws (12 R292, R293). -/

theorem exec_vrand {b : Nat} {ti : TileImg} {vi : VInstr} (hrun : s.inRun (tileKey t) = some (b, ti))
    (hdue : (s.tile (tileKey t)).vecDue = some vi) (b' pos : Nat) (hop : vi.op = .vrand) (hbat : s.batOf (tileKey t) = some (b', pos))
    (hf : vecFaults (s.tile (tileKey t)).ctl ((s.tile (tileKey t)).vecIn ti 0) vi (s.tile (tileKey t)).core.vrep = []) :
    ∃ u, exec (.vrand t) s = .next u ∧ (u.tile (tileKey t)).core =
        (putRow (s.tile (tileKey t)).core ((s.tile (tileKey t)).vecIn ti 0) (s.tile (tileKey t)).core.vrep vi.regStride vi.rowStride
          (rowOf (fun l => randLane vi.fmt (s.drawOf (tileKey t) b' pos l (vi.stream.toNat + (s.tile (tileKey t)).core.vrep)))) vi.dst).repeated
          none ∧
        (∀ k, k ≠ tileKey t → u.tile k = s.tile k) ∧ u.mem = s.mem := by
  obtain ⟨u, hu, hcore, _, hframe⟩ := State.runVector_effect (feed := none) (mine := (· == .vrand))
    (rep := fun vi _ i x k => putRow x i k vi.regStride vi.rowStride
      (rowOf (fun l => randLane vi.fmt (s.drawOf (tileKey t) b' pos l (vi.stream.toNat + k)))) vi.dst) hrun hdue (beq_iff_eq.mpr hop) hf
  refine ⟨u, ?_, hcore.trans (congrArg _ (ite_self _)), hframe⟩
  rw [← hu]
  show execVrand t s = _
  simp only [execVrand, hbat]

theorem exec_srand (th : Fin 4) (b cy b' pos : Nat) (sD sN : Fin 32) (h : s.canIssue (tileKey t) th.val = some (b, cy))
    (hbat : s.batOf (tileKey t) = some (b', pos)) (hD : sD.val ≠ 0) :
    ∃ u, exec (.srand t th sD sN) s = .next u ∧
      tget ((u.tile (tileKey t)).thread th.val).regs sD.val 0 =
        s.drawOf (tileKey t) b pos (64 + th.val) (s.regVal (tileKey t) th.val sN.val cy 0).toNat ∧
      tget ((u.tile (tileKey t)).thread th.val).notReady sD.val 0 = cy + 8 ∧ (∀ k, k ≠ tileKey t → u.tile k = s.tile k) := by
  have hstep : stepSrand t th sD sN s = (s.updThread (tileKey t) th.val (fun y => (y.setReg sD.val
      (s.drawOf (tileKey t) b pos (64 + th.val) (s.regVal (tileKey t) th.val sN.val cy 0).toNat) (cy + 8)).issued cy)).drew 2 := by
    simp only [stepSrand, h, hbat]
  refine ⟨_, congrArg Host.Outcome.next hstep, ?_, ?_, fun k hk => ?_⟩
  · rw [State.drew_tile, State.updThread_tile_same, Tile.updThread_same, Thread.issued_regs, Thread.setReg_get_same _ _ _ hD]
  · rw [State.drew_tile, State.updThread_tile_same, Tile.updThread_same, Thread.issued_notReady, Thread.setReg_ready_same _ _ _ hD]
  · rw [State.drew_tile, State.updThread, State.tile_updTile_ne _ _ hk]

end

/-- Settles O5: issue, repeats and draws, each by its rule. -/
theorem vectorInstructions : Obligations.VectorInstructions := fun _ _ =>
  ⟨exec_vectorIssue, fun _ _ _ _ _ hrun hdue => ⟨exec_vectorRepeat hrun hdue, exec_vrand hrun hdue⟩, exec_srand⟩

end Sys2Proof.Machine
end

section
/-! SUPPORT. The fills of a tile's landing buffer in RUN, and the statement about waits and fills, which fails (02 R62). -/
namespace Sys2Proof.Machine

/-- The wide write port writes one row a cycle: in RUN, a tile whose landing buffer has written a row takes no other in the same cycle. -/
theorem exec_landingFill_filled {s : State} {t : TileId} (hrun : (s.tile (tileKey t)).ctl.running = true)
    (hfilled : (s.tile (tileKey t)).ctl.filled = true) : exec (.landingFill t) s = .next s := by
  show Host.Outcome.next (stepLandingFill t s) = _
  simp [stepLandingFill, hrun, hfilled]

/-- The context whose section runs. -/
def fillCtx : CtxId := { part := 0, ctx := 0, gen := 0 }

/-- Its tile, in the north-west corner of cluster 0. -/
def fillTile : TileId := ⟨0, 0, 0⟩

/-- A row of bank 0 on its way to the scratchpad for that context. -/
def fillEntry : LandEntry := { row := 5, mask := 0xFF, data := 1, ctx := fillCtx, engine := 0, desc := 0, elem := 0 }

/-- A section of one tile in RUN, in a cycle in which its image gives the wide write port to no unit; bank 0 is wide, and two rows wait for
it. -/
def fillRun : State := { State.reset with
  cfg := { CfgSys.reset with clusters := [(0, { ClusterCfg.reset with valid := true, bats := [(0, 0x10000)] })] }
  bats := [(0, { Battery.reset with
    st := .run, owner := some fillCtx
    active := some { va := 0, header := BitVec.ofNat 256 (64 * 2 ^ 64), bindings := [], regions := [], chimes := [], tiles := [] } })]
  tiles := [(0, { Tile.reset with
    ctl := { TileCtl.reset with running := true, cur := some fillCtx, wide := 1, landing := [fillEntry, fillEntry] } })] }

/-- The section after the first of the two fills. -/
def filledInRun : State := stepLandingFill fillTile fillRun

/-- The second fill, in the same cycle, meets every hypothesis that the statement puts on one. -/
theorem filledInRun_fillCycle : filledInRun.fillHeld (tileKey fillTile) = false ∧ filledInRun.fillCycle (tileKey fillTile) = true ∧
    filledInRun.muffledTile (tileKey fillTile) = false ∧ (filledInRun.tile (tileKey fillTile)).ctl.landing = [fillEntry] := by decide +kernel

/-- In the cycle the wide write port has written its row. -/
theorem filledInRun_filled : (filledInRun.tile (tileKey fillTile)).ctl.running = true ∧
    (filledInRun.tile (tileKey fillTile)).ctl.filled = true := by
  decide +kernel

/-- Refutes O6: its clause on landing fills leaves out that a tile in RUN writes at most one row a cycle. In `filledInRun` the row of the
present cycle is written, so LANDING_FILL changes nothing and the next entry stays in the buffer. -/
theorem not_tileWaitsAndFills : ¬ Obligations.TileWaitsAndFills := by
  intro h
  obtain ⟨_, _, _, _, hfill, _⟩ := h filledInRun fillTile
  obtain ⟨hheld, hcycle, hmuffled, hlanding⟩ := filledInRun_fillCycle
  obtain ⟨hrun, hfilled⟩ := filledInRun_filled
  obtain ⟨u, hu, hrest, _⟩ := hfill fillEntry [] hheld hcycle hmuffled hlanding
  obtain rfl : filledInRun = u := Host.Outcome.next.inj ((exec_landingFill_filled hrun hfilled).symm.trans hu)
  exact absurd (hlanding.symm.trans hrest) (List.cons_ne_nil _ _)

end Sys2Proof.Machine
end

section
/-! SUPPORT. The reset orders that wait for a COMMIT, and the statement about a section's life, which fails (04 R110, R117). -/
namespace Sys2Proof.Machine

/-- COMMIT ends the section, and then the reset orders that waited for it take effect. -/
theorem exec_commit (c : Fin 16) (b : Fin 64) (s : State) : exec (.commit c b) s = .next ((s.commitBat c b).releaseOrders) := rfl

/-- How the section of a battery ends, once its banks are resident, its locks are given up and its chimes are written. -/
theorem State.commitBat_ends {s u w : State} {c : Fin 16} {b : Fin 64} {img : SecImage} {i : CtxId} {st : Nat}
    (hactive : (s.bat c.val b.val).active = some img) (howner : (s.bat c.val b.val).owner = some i)
    (hst : (s.bat c.val b.val).st = .commit) (hstores : s.storesPending c.val b.val = false)
    (hu : (s.each (s.batTiles c.val b.val) (fun s e => s.updTile e.2 (fun t => t.updCtl (fun y =>
      { y with resValid := y.resValid ||| y.resOut })))).updBat c.val b.val (fun y => { y with locks := false, regions := [] }) = u)
    (hunlocked : img.chimes.any (fun r => u.chimeLocked i (chVa r) true) = false)
    (hchimes : u.writeChimes i (chSort img.chimes) = (w, st)) :
    s.commitBat c b = ((((((w.freeBuffer c.val b.val img).endBattery c.val b.val (if st = 0 then St.committed else st)).finishSection
      c.val (if st = 0 then St.committed else st) (s.bat c.val b.val).cmd).muffleWaiting c.val b.val).pumpBat c.val b.val).resetIfDue
      i.part i.ctx) := by
  have hin : ((s.bat c.val b.val).st != .commit) = false := by simp [hst]
  simp only [State.commitBat, hactive, howner, hin, hstores, hu, hunlocked, hchimes, Bool.or_self, Bool.false_eq_true, if_false]

/-- The context whose section commits. -/
def commitCtx : CtxId := { part := 0, ctx := 0, gen := 0 }

/-- An image without bindings, regions and chimes. -/
def commitImg : SecImage := { va := 0, header := BitVec.ofNat 256 (64 * 2 ^ 64), bindings := [], regions := [], chimes := [], tiles := [] }

/-- A reset of partition 0, ordered while the section stands in COMMIT. -/
def heldReset : Order := { target := 0, byReg := false, at_ := 0, held := true, auto := false }

/-- Partition 0 with cluster 0, whose battery 0 is one tile; the section of its context stands in COMMIT, and the reset waits for it. -/
def resetInCommit : State := { State.reset with
  cfg := { CfgSys.reset with
    dev := { DeviceCfg.reset with
      valid := true, parts := [(0, { clusters := 1, owner := 0, vf := 0, hbm := 0, far := 0, key := 1, resetKey := 1 })] }
    clusters := [(0, { ClusterCfg.reset with valid := true, bats := [(0, 0x10000)] })] }
  ctxs := [(0, { Ctx.reset with st := 1, clusters := 1 })]
  bats := [(0, { Battery.reset with st := .commit, owner := some commitCtx, active := some commitImg })]
  orders := [heldReset] }

/-- No store of the section is pending, so that its COMMIT is due. -/
theorem resetInCommit_due : resetInCommit.storesPending 0 0 = false := by decide +kernel

/-- The end of the section alone leaves the order waiting. -/
theorem commitBat_holds_reset : (resetInCommit.commitBat 0 0).orders = [heldReset] := by decide +kernel

/-- With the COMMIT over, the order takes effect. -/
theorem releaseOrders_after_commit :
    (resetInCommit.commitBat 0 0).releaseOrders.orders = [{ heldReset with held := false }] := by decide +kernel

/-- As the statement has it, a COMMIT without chimes ends with the section. -/
theorem commit_ends_of_sectionLifecycle (h : Obligations.SectionLifecycle) {s : State} {c : Fin 16} {b : Fin 64} {img : SecImage} {i : CtxId}
    (hactive : (s.bat c.val b.val).active = some img) (howner : (s.bat c.val b.val).owner = some i)
    (hst : (s.bat c.val b.val).st = .commit) (hstores : s.storesPending c.val b.val = false) (hchimes : img.chimes = []) :
    exec (.commit c b) s = .next (s.commitBat c b) := by
  obtain ⟨_, _, _, _, _, hcommit, _⟩ := h s c b
  obtain ⟨_, hends⟩ := hcommit img i hactive howner hst hstores _ _ _ rfl
  have hunlocked : ∀ p : BitVec 192 → Bool, img.chimes.any p = false := by simp [hchimes]
  have hwritten : ∀ u : State, u.writeChimes i (chSort img.chimes) = (u, 0) := fun u => by rw [hchimes]; rfl
  exact (hends (hunlocked _) (hwritten _)).trans
    (congrArg Host.Outcome.next (State.commitBat_ends hactive howner hst hstores rfl (hunlocked _) (hwritten _)).symm)

/-- Refutes O8: its clause on a COMMIT without a locked chime leaves out the reset orders that waited for the COMMIT and take effect at its end
(04 R117). In `resetInCommit` the statement has the reset of the partition wait on, where the model makes it. -/
theorem not_sectionLifecycle : ¬ Obligations.SectionLifecycle := by
  intro h
  have hstated : exec (.commit 0 0) resetInCommit = .next (resetInCommit.commitBat 0 0) :=
    commit_ends_of_sectionLifecycle h rfl rfl rfl resetInCommit_due rfl
  have hsame : (resetInCommit.commitBat 0 0).releaseOrders = resetInCommit.commitBat 0 0 :=
    Host.Outcome.next.inj ((exec_commit 0 0 resetInCommit).symm.trans hstated)
  have horders := congrArg State.orders hsame
  rw [releaseOrders_after_commit, commitBat_holds_reset] at horders
  exact absurd horders (by decide)

end Sys2Proof.Machine
end

section
/-! SUPPORT. The section commands of a queue, one rule per command, and the statement about their start (04 R94, R105, 06 R159, 16 R378). -/
namespace Sys2Proof.Machine

section
variable {s : State} {p : Fin 16} {k : Fin 64} {r : CmdRef}

/-! A command that starts changes its queue alone. -/

@[simp] theorem State.startCmd_clY (s : State) (r : CmdRef) (c : Nat) : (s.startCmd r).clY c = s.clY c := rfl
@[simp] theorem State.startCmd_redirect (s : State) (r : CmdRef) (c b : Nat) : (s.startCmd r).redirect c b = s.redirect c b := rfl

/-! SEC_LOAD, SEC_RUN and SEC_CHAIN. -/

theorem exec_secLoad_ready (h : s.fetchedCmd p.val k.val 0 0x01 = some r) (hready : (s.clY (bf r.bits 64 4)).ready = true) :
    exec (.secLoad p k) s =
      .next ((s.startCmd r).reach (bf r.bits 64 4) (s.redirect (bf r.bits 64 4) (bf r.bits 68 6)) r) := by
  show Host.Outcome.next (stepSecLoad p k s) = _
  simp [stepSecLoad, h, hready]

theorem exec_secLoad_notReady (h : s.fetchedCmd p.val k.val 0 0x01 = some r) (hready : (s.clY (bf r.bits 64 4)).ready = false) :
    exec (.secLoad p k) s = .next ((s.startCmd r).complete r 0xD0 0) := by
  show Host.Outcome.next (stepSecLoad p k s) = _
  simp [stepSecLoad, h, hready, stNotReady]

theorem exec_secRun (h : s.fetchedCmd p.val k.val 0 0x02 = some r) :
    exec (.secRun p k) s =
      .next ((s.startCmd r).reach (bf r.bits 64 4) (s.redirect (bf r.bits 64 4) (bf r.bits 68 6)) r) := by
  show Host.Outcome.next (stepSecRun p k s) = _
  simp [stepSecRun, h]

/-- The chain that a SEC_CHAIN names, at its first section. -/
def State.chainNamed (s : State) (r : CmdRef) : Chain :=
  { cmd := r, cluster := bf r.bits 64 4, n := bf r.bits 68 2 + 2, pos := 0
    bats := (List.range (bf r.bits 68 2 + 2)).map (fun j => s.redirect (bf r.bits 64 4) (bf r.bits (176 + 64 * j) 6))
    vas := (List.range (bf r.bits 68 2 + 2)).map (fun j => bf r.bits (128 + 64 * j) 48)
    ids := (List.range (bf r.bits 68 2 + 2)).map (fun j => bf r.bits (384 + 32 * j) 32)
    hoffs := [], hoDone := [], owner := s.identOf r, stopAsked := false }

theorem exec_secChain (h : s.fetchedCmd p.val k.val 0 0x03 = some r) (hready : (s.clY (bf r.bits 64 4)).ready = true) :
    exec (.secChain p k) s = .next (((s.startCmd r).updCl (bf r.bits 64 4) (fun x =>
      { x with chains := x.chains ++ [(s.startCmd r).chainNamed r] })).reach
        (bf r.bits 64 4) (((s.startCmd r).chainNamed r).bats.getD 0 0) r) := by
  show Host.Outcome.next (stepSecChain p k s) = _
  simp only [stepSecChain, h, State.startCmd_clY, hready, Bool.not_true, Bool.false_eq_true, if_false]
  rfl

end

/-- Settles O7: each command by its rule. -/
theorem sectionCommandsStart : Obligations.SectionCommandsStart := fun s _ _ r =>
  ⟨fun h => ⟨exec_secLoad_ready h, exec_secLoad_notReady h⟩, exec_secRun, fun h hready =>
    ⟨(s.startCmd r).chainNamed r, rfl, rfl, rfl, by simp [State.chainNamed], exec_secChain h hready⟩⟩

end Sys2Proof.Machine
end

section
/-! SUPPORT. One cycle of RUN: what a tile makes of it, what the battery makes of its tiles' parts, and on which fault it aborts
(04 R97-R100, R116, 05 R121). -/
namespace Sys2Proof.Machine

/-! A tile without a schedule entry in force (05 R121, R122). -/

theorem bf_zero {n : Nat} (lo len : Nat) : bf 0#n lo len = 0 := by simp [bf, field]

theorem fifoStep_still {α : Type} (l : List α) (depth : Nat) : fifoStep l depth false none = (none, l, false) := by simp [fifoStep]

theorem TileNet.inForce_idle {x : TileNet} (h : x.ended = true ∨ x.inPad = true) (ti : TileImg) : x.inForce ti = 0 := by
  simp [TileNet.inForce, h]

/-- The entry in force is the one of all zeros, which selects no port, no output and no word for a FIFO. -/
theorem tileCycle_idle {t : Tile} (h : t.net.ended = true ∨ t.net.inPad = true) (ti : TileImg) (bottom : Bool) (a : TileAct) :
    (tileCycle t ti bottom a).east = none ∧ (tileCycle t ti bottom a).south = none ∧ (tileCycle t ti bottom a).faults = [] ∧
    (tileCycle t ti bottom a).core.pad = t.core.pad ∧ (tileCycle t ti bottom a).net.entry = t.net.entry := by
  have hidle : (t.net.ended || t.net.inPad) = true := by simpa using h
  have hforce := TileNet.inForce_idle h ti
  refine ⟨?_, ?_, ?_, ?_, rfl⟩ <;>
    simp [tileCycle, hforce, hidle, bf_zero, fifoStep_still, swVEast, swVSouth, swWPort, swRdPort, swSOut, swCOut, swPushV, swPushS, swPushC]

/-! The fault that the record of an ABORT names (04 R116). -/

/-- The order of the faults of a cycle: by code, then by tile address. -/
def SecFault.before (f g : SecFault) : Prop := f.status < g.status ∨ (f.status = g.status ∧ f.ta ≤ g.ta)

theorem SecFault.before.refl (f : SecFault) : f.before f := .inr ⟨rfl, Nat.le_refl _⟩

theorem SecFault.before.trans {f g h : SecFault} (hfg : f.before g) (hgh : g.before h) : f.before h := by
  unfold SecFault.before at *
  omega

/-- Of two faults at the front of a list the one that is not after the other counts. -/
theorem pickFault_cons_cons (f g : SecFault) (l : List SecFault) :
    ∃ b, (b = f ∨ b = g) ∧ b.before f ∧ b.before g ∧ pickFault (f :: g :: l) = pickFault (b :: l) := by
  by_cases h : g.status < f.status ∨ (g.status = f.status ∧ g.ta < f.ta)
  · refine ⟨g, .inr rfl, ?_, .refl g, ?_⟩
    · unfold SecFault.before
      omega
    · simp [pickFault, h]
  · refine ⟨f, .inl rfl, .refl f, ?_, ?_⟩
    · unfold SecFault.before
      omega
    · simp [pickFault, h]

theorem pickFault_cons (f : SecFault) (l : List SecFault) :
    ∃ b ∈ f :: l, pickFault (f :: l) = some b ∧ ∀ g ∈ f :: l, b.before g := by
  induction l generalizing f with
  | nil => exact ⟨f, List.mem_singleton_self f, rfl, fun g hg => List.mem_singleton.mp hg ▸ .refl f⟩
  | cons g l ih =>
    obtain ⟨a, ha, haf, hag, hpick⟩ := pickFault_cons_cons f g l
    obtain ⟨b, hb, hbpick, hbl⟩ := ih a
    have hba : b.before a := hbl a List.mem_cons_self
    refine ⟨b, ?_, hpick.trans hbpick, fun x hx => ?_⟩
    · rcases List.mem_cons.mp hb with rfl | hbl'
      · rcases ha with rfl | rfl <;> simp
      · simp [hbl']
    · rcases List.mem_cons.mp hx with rfl | hx
      · exact hba.trans haf
      rcases List.mem_cons.mp hx with rfl | hx
      · exact hba.trans hag
      · exact hbl x (List.mem_cons_of_mem _ hx)

/-- A section whose cycle has faults aborts on the first of them in this order. -/
theorem State.abortDue_first {s : State} {c b : Nat} (h : (s.bat c b).faults ≠ []) :
    ∃ f ∈ (s.bat c b).faults, (∀ g ∈ (s.bat c b).faults, f.before g) ∧
      s.abortDue c b = s.abort c b f ((s.bat c b).faults.length - 1) := by
  obtain ⟨f, l, hl⟩ := List.exists_cons_of_ne_nil h
  obtain ⟨b', hb, hpick, hfirst⟩ := pickFault_cons f l
  rw [← hl] at hb hpick hfirst
  refine ⟨b', hb, hfirst, ?_⟩
  simp only [State.abortDue, hpick]

/-! Tables of the tiles of a battery, and updates of each of them. -/

/-- A table made of a list of entries without repetition finds each of them. -/
theorem tfind_map {α β : Type} {l : List (Nat × β)} (hl : (l.map (·.1)).Nodup) (f : Nat × β → α) {e : Nat × β} (he : e ∈ l) :
    tfind (l.map (fun e => (e.1, f e))) e.1 = some (f e) := by
  induction l with
  | nil => cases he
  | cons a r ih =>
    obtain ⟨ha, hr⟩ := List.nodup_cons.mp hl
    rcases List.mem_cons.mp he with rfl | he
    · simp [tfind]
    · have hne : (a.1 == e.1) = false := beq_false_of_ne (fun h => ha (List.mem_map.mpr ⟨e, he, h.symm⟩))
      have htail := ih hr he
      simp only [tfind, List.map_cons, List.find?_cons, hne] at htail ⊢
      exact htail

/-- Acts that agree on the elements of a list do the same over it. -/
theorem State.each_congr_mem {α : Type} {f g : State → α → State} {l : List α} (h : ∀ u, ∀ e ∈ l, f u e = g u e) (s : State) :
    s.each l f = s.each l g := List.foldl_ext f g s h

/-- An update of a list of tiles leaves the others. -/
theorem State.each_updTile_off {α : Type} {l : List (α × Nat)} {n : Nat} (hn : ∀ e ∈ l, e.2 ≠ n) (F : α × Nat → Tile → Tile)
    (s : State) : (s.each l (fun s e => s.updTile e.2 (F e))).tile n = s.tile n := by
  unfold State.each
  induction l generalizing s with
  | nil => rfl
  | cons a r ih =>
    obtain ⟨ha, hr⟩ := List.forall_mem_cons.mp hn
    exact (ih hr _).trans (State.tile_updTile_ne s _ (Ne.symm ha))

/-- An update of a list of tiles without repetition updates each of them once. -/
theorem State.each_updTile_at {α : Type} {l : List (α × Nat)} (hl : (l.map (·.2)).Nodup) (F : α × Nat → Tile → Tile) (s : State)
    {e : α × Nat} (he : e ∈ l) : (s.each l (fun s e => s.updTile e.2 (F e))).tile e.2 = F e (s.tile e.2) := by
  induction l generalizing s with
  | nil => cases he
  | cons a r ih =>
    obtain ⟨ha, hr⟩ := List.nodup_cons.mp hl
    rcases List.mem_cons.mp he with rfl | he
    · exact (State.each_updTile_off (fun x hx h => ha (List.mem_map.mpr ⟨x, hx, h⟩)) F _).trans (State.tile_updTile_same s _ _)
    · have hne : e.2 ≠ a.2 := fun h => ha (List.mem_map.mpr ⟨e, he, h⟩)
      exact (ih hr _ he).trans (congrArg (F e) (State.tile_updTile_ne s _ hne))

/-! The cycle of a battery (04 R97, R100). -/

/-- What a tile of a section makes of its cycle. -/
def State.tileOut (s : State) (img : SecImage) (acts : List TileAct) (e : Nat × Nat) : TileOut :=
  tileCycle (s.tile e.2) (img.tileAt e.1) (e.1 / 16 + 1 == img.h) (actOf acts e.1)

/-- What the tiles of a battery make of their cycle, by logical position. -/
def State.tileOuts (s : State) (c b : Nat) (img : SecImage) (acts : List TileAct) : Tbl TileOut :=
  (s.batTiles c b).map (fun e => (e.1, s.tileOut img acts e))

/-- A tile after its cycle. -/
def Tile.cycled (t : Tile) (img : SecImage) (takes : Tbl TakeState) (outs : Tbl TileOut) (pos : Nat) (o : TileOut) : Tile :=
  { t with
    core := o.core
    net := tokenIn img takes pos (linkIn outs o.net (pos % 16) (pos / 16))
    ctl := { t.ctl with cycle := t.ctl.cycle + 1, filled := false }
    test := { t.test with capture := o.capture } }

/-- The tiles of a battery after their cycle. -/
def State.tilesCycled (s : State) (c b : Nat) (img : SecImage) (acts : List TileAct) : State :=
  s.each (s.batTiles c b) (fun u e =>
    u.updTile e.2 (·.cycled img (s.bat c b).takes (s.tileOuts c b img acts) e.1 (s.tileOut img acts e)))

/-- A battery after its tiles' cycle and the counts of it, before the faults of the cycle. -/
def State.cycled (s : State) (c b : Nat) (img : SecImage) (i : CtxId) (acts : List TileAct) : State :=
  (((s.tilesCycled c b img acts).updCtxX i.part i.ctx (fun y => { y with runcyc := wrapAdd 64 y.runcyc 1 })).updCl c (fun y =>
    { y with gated := wrapAdd 48 y.gated ((s.tileOuts c b img acts).foldl (fun n o => n + o.2.gated) 0) })).countTraffic
      (fun ta => b2n ((s.batTiles c b).any (fun e => e.2 == ta)))

/-- The faults of a battery's cycle. -/
def State.cycleFaults (s : State) (c b : Nat) (img : SecImage) (acts : List TileAct) : List SecFault :=
  (s.batTiles c b).flatMap (fun e => (s.tileOut img acts e).faults.map (fun f => { status := f.1, ta := e.2, detail := f.2, va := 0 }))

/-- A battery with the faults of its cycle, and the banks that held an uncorrectable word. -/
def State.faulted (s : State) (c b : Nat) (bad : List SecFault) : State :=
  (s.each (bad.filter (fun f => f.status == 0x73)) (fun s f => s.scratchLost f.ta (field f.detail 3 4))).fault c b bad

section
variable {s : State} {c b : Nat} {img : SecImage} {i : CtxId} {acts : List TileAct}

/-- The cycle is due: the section runs, and every command of the cycle has been made. -/
structure State.CycleDue (s : State) (c b : Nat) (img : SecImage) : Prop where
  active : (s.bat c b).active = some img
  run : (s.bat c b).st = .run
  notEnded : (s.bat c b).endPending = false
  noTake : (s.bat c b).takeDue img = false
  noTile : ∀ e ∈ s.batTiles c b, s.tileDue (s.bat c b) img e.2 = false

theorem State.runCycle_notRunning (h : (s.bat c b).active = none ∨ (s.bat c b).st ≠ .run ∨ (s.bat c b).endPending = true) :
    s.runCycle c b acts = s := by
  unfold State.runCycle
  dsimp only
  split
  · rfl
  · rename_i img himg
    rcases h with h | h | h
    · simp [h] at himg
    · simp [h]
    · simp [h]

theorem State.runCycle_waits {e : Nat × Nat} (hactive : (s.bat c b).active = some img)
    (h : (s.bat c b).takeDue img = true ∨ (e ∈ s.batTiles c b ∧ s.tileDue (s.bat c b) img e.2 = true)) : s.runCycle c b acts = s := by
  have hwait : ((s.bat c b).takeDue img || (s.batTiles c b).any (fun e => s.tileDue (s.bat c b) img e.2)) = true := by
    rcases h with h | ⟨he, hdue⟩
    · simp [h]
    · rw [List.any_eq_true.mpr ⟨e, he, hdue⟩, Bool.or_true]
  simp only [State.runCycle, hactive]
  rw [Bool.or_assoc, hwait, Bool.or_true, if_pos rfl]

/-- A cycle that is due: the last leaves the end pending, another goes on, or aborts the section on its faults. -/
theorem State.runCycle_due (h : s.CycleDue c b img) (howner : (s.bat c b).owner = some i) (hpos : ((s.batTiles c b).map (·.1)).Nodup) :
    ∃ v, (s.cycled c b img i acts).faulted c b (s.cycleFaults c b img acts) = v ∧ s.runCycle c b acts =
      if (s.bat c b).cycle + 1 = img.cycles then v.updBat c b (fun y => { y with endPending := true })
      else if (v.bat c b).faults.isEmpty then v.updBat c b (fun y => { y with cycle := y.cycle + 1 })
      else v.abortDue c b := by
  refine ⟨_, rfl, ?_⟩
  have hgo : ((s.bat c b).st != .run || (s.bat c b).endPending || (s.bat c b).takeDue img ||
      (s.batTiles c b).any (fun e => s.tileDue (s.bat c b) img e.2)) = false := by
    have htiles : (s.batTiles c b).any (fun e => s.tileDue (s.bat c b) img e.2) = false := by simpa using h.noTile
    simp [h.run, h.notEnded, h.noTake, htiles]
  have hfind : ∀ e ∈ s.batTiles c b, tfind (s.tileOuts c b img acts) e.1 = some (s.tileOut img acts e) := fun e he =>
    tfind_map hpos _ he
  have houts : (s.batTiles c b).map (fun e => (e.1, tileCycle (s.tile e.2) (img.tileAt e.1) (e.1 / 16 + 1 == img.h) (actOf acts e.1))) =
      s.tileOuts c b img acts := rfl
  simp only [State.runCycle, h.active, howner, hgo, houts, Bool.false_eq_true, if_false]
  rw [List.flatMap_congr (fun e he => by rw [hfind e he]), State.each_congr_mem (fun u e he => by rw [hfind e he]) s]
  rfl

/-! What the cycle leaves of the state, and what it makes of its tiles and counts. -/

@[simp] theorem State.countTraffic_mem (s : State) (n : Nat → Nat) : (s.countTraffic n).mem = s.mem := rfl
@[simp] theorem State.countTraffic_log (s : State) (n : Nat → Nat) : (s.countTraffic n).log = s.log := rfl
@[simp] theorem State.countTraffic_bats (s : State) (n : Nat → Nat) : (s.countTraffic n).bats = s.bats := rfl
@[simp] theorem State.countTraffic_tile (s : State) (n : Nat → Nat) (ta : Nat) : (s.countTraffic n).tile ta = s.tile ta := rfl
@[simp] theorem State.updCl_tile (s : State) (c : Nat) (f : Cluster → Cluster) (ta : Nat) : (s.updCl c f).tile ta = s.tile ta := rfl
@[simp] theorem State.updCtxX_tile (s : State) (p k : Nat) (f : CtxX → CtxX) (ta : Nat) : (s.updCtxX p k f).tile ta = s.tile ta := rfl
@[simp] theorem State.countTraffic_ctxX (s : State) (n : Nat → Nat) (p k : Nat) : (s.countTraffic n).ctxX p k = s.ctxX p k := rfl
@[simp] theorem State.countTraffic_cl (s : State) (n : Nat → Nat) (c : Nat) : (s.countTraffic n).cl c = s.cl c := rfl
@[simp] theorem State.updCl_ctxX (s : State) (c : Nat) (f : Cluster → Cluster) (p k : Nat) : (s.updCl c f).ctxX p k = s.ctxX p k := rfl
@[simp] theorem State.updCtxX_cl (s : State) (p k : Nat) (f : CtxX → CtxX) (c : Nat) : (s.updCtxX p k f).cl c = s.cl c := rfl

/-- What no update of a tile writes the tiles' cycle leaves. -/
theorem State.tilesCycled_frame {β : Type} (g : State → β) (hg : ∀ u ta f, g (State.updTile u ta f) = g u) :
    g (s.tilesCycled c b img acts) = g s := State.each_frame g (fun _ _ => hg _ _ _) s

theorem State.cycled_mem : (s.cycled c b img i acts).mem = s.mem := by
  simp [State.cycled, State.tilesCycled_frame State.mem State.updTile_mem]

theorem State.cycled_log : (s.cycled c b img i acts).log = s.log := by
  simp [State.cycled, State.tilesCycled_frame State.log State.updTile_log]

theorem State.cycled_bats : (s.cycled c b img i acts).bats = s.bats := by
  simp [State.cycled, State.tilesCycled_frame State.bats State.updTile_bats]

theorem State.cycled_runcyc :
    ((s.cycled c b img i acts).ctxX i.part i.ctx).runcyc = wrapAdd 64 (s.ctxX i.part i.ctx).runcyc 1 := by
  have hctx : (s.tilesCycled c b img acts).ctxX i.part i.ctx = s.ctxX i.part i.ctx :=
    State.tilesCycled_frame (State.ctxX · i.part i.ctx) (fun _ _ _ => rfl)
  simp [State.cycled, State.updCtxX_ctxX, hctx]

theorem State.cycled_gated : ((s.cycled c b img i acts).cl c).gated =
    wrapAdd 48 (s.cl c).gated ((s.tileOuts c b img acts).foldl (fun n o => n + o.2.gated) 0) := by
  have hcl : (s.tilesCycled c b img acts).cl c = s.cl c := State.tilesCycled_frame (State.cl · c) (fun _ _ _ => rfl)
  simp [State.cycled, State.updCl_cl, hcl]

theorem State.cycled_tile (n : Nat) : (s.cycled c b img i acts).tile n = (s.tilesCycled c b img acts).tile n := by
  simp [State.cycled]

theorem State.cycled_tile_at (htile : ((s.batTiles c b).map (·.2)).Nodup) {e : Nat × Nat} (he : e ∈ s.batTiles c b) :
    (s.cycled c b img i acts).tile e.2 =
      (s.tile e.2).cycled img (s.bat c b).takes (s.tileOuts c b img acts) e.1 (s.tileOut img acts e) :=
  (State.cycled_tile _).trans (State.each_updTile_at htile _ s he)

theorem State.cycled_tile_off {n : Nat} (hn : ∀ e ∈ s.batTiles c b, e.2 ≠ n) : (s.cycled c b img i acts).tile n = s.tile n :=
  (State.cycled_tile n).trans (State.each_updTile_off hn _ s)

/-- A position of the battery has one part in the cycle, that of its tile. -/
theorem State.eq_tileOut (hpos : ((s.batTiles c b).map (·.1)).Nodup) {e : Nat × Nat} (he : e ∈ s.batTiles c b) {o : TileOut}
    (ho : (e.1, o) ∈ s.tileOuts c b img acts) : o = s.tileOut img acts e := by
  obtain ⟨e', he', heq⟩ := List.mem_map.mp ho
  obtain ⟨hkey, rfl⟩ := Prod.mk.inj heq
  rw [List.inj_on_of_nodup_map hpos he' he hkey]

theorem State.mem_cycleFaults {f : SecFault} : f ∈ s.cycleFaults c b img acts ↔
    f.va = 0 ∧ ∃ e ∈ s.batTiles c b, f.ta = e.2 ∧ (f.status, f.detail) ∈ (s.tileOut img acts e).faults := by
  simp only [State.cycleFaults, List.mem_flatMap, List.mem_map]
  constructor
  · rintro ⟨e, he, ⟨st, d⟩, hf, rfl⟩
    exact ⟨rfl, e, he, rfl, hf⟩
  · rintro ⟨hva, e, he, hta, hf⟩
    exact ⟨e, he, _, hf, by rw [← hta, ← hva]⟩

/-! RUN_CYCLE. -/

theorem State.tileDue_iff {x : Battery} {ta : Nat} : s.tileDue x img ta = true ↔
    (s.tile ta).net.due = true ∨ x.passDue img (s.tile ta).test.passIdx = true ∨ (s.tile ta).vecDue ≠ none := by
  simp [State.tileDue, or_assoc, Option.isSome_iff_ne_none]

end

/-- Settles O48: a battery that makes no cycle, one that makes it, its faults, and a tile without an entry in force, each by its rule. -/
theorem runCycles : Obligations.RunCycles := by
  intro s c b acts
  refine ⟨fun h => congrArg Host.Outcome.next (State.runCycle_notRunning h), fun img e hactive h => ?_, ?_, fun _ => rfl,
    fun t ti bottom a h => tileCycle_idle h ti bottom a⟩
  · exact congrArg Host.Outcome.next (State.runCycle_waits (e := e) hactive (h.imp_right (And.imp_right State.tileDue_iff.mpr)))
  · rintro img i outs hactive howner hrun hend htake hdue hpos htile rfl
    have hcycle : s.CycleDue c.val b.val img := ⟨hactive, hrun, hend, htake, hdue⟩
    obtain ⟨v, hv, hstep⟩ := State.runCycle_due (acts := acts) hcycle howner hpos
    have hexec : exec (.runCycle c b acts) s = .next (s.runCycle c.val b.val acts) := rfl
    refine ⟨s.cycled c.val b.val img i acts, v, s.cycleFaults c.val b.val img acts, fun f => State.mem_cycleFaults, State.cycled_mem,
      State.cycled_log, State.cycled_bats, State.cycled_runcyc, State.cycled_gated, fun e he o ho => ?_, fun n => State.cycled_tile_off, hv,
      fun hlast => ?_, fun hlast hnone => ?_, fun hlast hsome => ?_⟩
    · obtain rfl := State.eq_tileOut hpos he ho
      rw [State.cycled_tile_at htile he]
      exact ⟨rfl, rfl, rfl, rfl⟩
    · rw [hexec, hstep, if_pos hlast]
    · rw [hexec, hstep, if_neg hlast, hnone, List.isEmpty_nil, if_pos rfl]
    · obtain ⟨f, hf, hfirst, habort⟩ := State.abortDue_first hsome
      have hfaults : ¬ (v.bat c.val b.val).faults.isEmpty = true := mt List.isEmpty_iff.mp hsome
      exact ⟨f, hf, hfirst, by rw [hexec, hstep, if_neg hlast, if_neg hfaults, habort]⟩

end Sys2Proof.Machine
end

section
/-! SUPPORT. A stream descriptor read after a write, and the start of the stream commands, with the statement about it (06 R137-R143, R157,
08 R201, R205). -/
namespace Sys2Proof.Machine

/-! A descriptor and its engine state, read after a write of either. -/

section
variable (s : State) (c e d : Nat)

@[simp] theorem State.desc_setDesc_same (x : Desc) : (s.setDesc c e d x).desc c e d = x := tget_tset_same _ _ _ _
@[simp] theorem State.desc_updDesc_same (f : Desc → Desc) : (s.updDesc c e d f).desc c e d = f (s.desc c e d) := tget_tset_same _ _ _ _
@[simp] theorem State.descX_updDescX_same (f : DescX → DescX) : (s.updDescX c e d f).descX c e d = f (s.descX c e d) := tget_tset_same _ _ _ _
@[simp] theorem State.updDescX_desc (f : DescX → DescX) (i j k : Nat) : (s.updDescX c e d f).desc i j k = s.desc i j k := rfl
@[simp] theorem State.updDesc_descX (f : Desc → Desc) (i j k : Nat) : (s.updDesc c e d f).descX i j k = s.descX i j k := rfl
@[simp] theorem State.updDescX_cl (f : DescX → DescX) (n : Nat) : (s.updDescX c e d f).cl n = s.cl n := rfl
@[simp] theorem State.updPart_desc (p : Nat) (f : Part → Part) : (s.updPart p f).desc c e d = s.desc c e d := rfl
@[simp] theorem State.updPart_descX (p : Nat) (f : Part → Part) : (s.updPart p f).descX c e d = s.descX c e d := rfl

/-! A command that starts changes its queue alone. -/

@[simp] theorem State.startCmd_desc (r : CmdRef) : (s.startCmd r).desc c e d = s.desc c e d := rfl
@[simp] theorem State.startCmd_descX (r : CmdRef) : (s.startCmd r).descX c e d = s.descX c e d := rfl
@[simp] theorem State.startCmd_shape (r : CmdRef) (b : Nat) : (s.startCmd r).shape c b = s.shape c b := rfl

@[simp] theorem State.startCmd_identOf (r q : CmdRef) : (s.startCmd r).identOf q = s.identOf q := by
  have hgen : ((s.startCmd r).ctx q.part q.ctx).gen = (s.ctx q.part q.ctx).gen := by
    rw [State.startCmd, State.updQueue, State.updCtx_ctx]
    split
    · rename_i hkey
      simp only [State.ctx, hkey]
    · rfl
  simp only [State.identOf, State.ident, hgen]

end

/-! A descriptor becomes ACTIVE at once, or waits for a slot of its engine (06 R138). -/

section
variable {s : State} {c e : Nat}

theorem State.enterActive_atOnce (hcount : s.activeCount c e < 8) (hwait : (s.cl c).engWait = []) (d : Nat) (r : CmdRef) (m : BitVec 1536)
    (rec_ : Option (BitVec 1024)) : s.enterActive c e d 0 (some r) m rec_ = s.activate c e d r m rec_ ∧
      s.enterActive c e d 1 (some r) m rec_ = s.rearm c e d r := by
  simp [State.enterActive, hcount, hwait]

theorem State.enterActive_waits (hcount : 8 ≤ s.activeCount c e) (d kind : Nat) (r : Option CmdRef) (m : BitVec 1536)
    (rec_ : Option (BitVec 1024)) : ((s.enterActive c e d kind r m rec_).cl c).engWait =
      (s.cl c).engWait ++ [{ engine := e, desc := d, cmd := r, kind, image := m, record := rec_ }] := by
  simp [State.enterActive, Nat.not_lt.mpr hcount, State.updCl_cl]

end

/-! STREAM and STREAM_REARM, of a context that isolation does not keep from the engine. -/

section
variable {s : State} {p : Fin 16} {k : Fin 64} {r : CmdRef} {c e d : Nat}
  (hc : bf r.bits 64 4 = c) (he : bf r.bits 68 2 = e) (hd : bf r.bits 70 4 = d) (hiso : s.isolated c 1 e k.val = false)
include hc he hd hiso

omit hd in
theorem exec_stream_notReady (h : s.fetchedCmd p.val k.val 1 0x10 = some r) (hready : (s.clY c).ready = false) :
    exec (.stream p k) s = .next ((s.startCmd r).complete r 0xD0 0) := by
  show Host.Outcome.next (stepStream p k s) = _
  simp [stepStream, h, hc, he, hiso, hready, stNotReady]

theorem exec_stream_busy (h : s.fetchedCmd p.val k.val 1 0x10 = some r) (hready : (s.clY c).ready = true)
    (hst : (s.desc c e d).st ≠ .free) : exec (.stream p k) s = .next ((s.startCmd r).complete r St.streamBusy 0) := by
  show Host.Outcome.next (stepStream p k s) = _
  simp [stepStream, h, hc, he, hd, hiso, hready, hst]

/-- The image alone decides what becomes of a STREAM without a record to a FREE descriptor. -/
theorem exec_stream_free (h : s.fetchedCmd p.val k.val 1 0x10 = some r) (hready : (s.clY c).ready = true)
    (hst : (s.desc c e d).st = .free) (hwait : (s.descX c e d).engWait = false) (m : BitVec 1536)
    (hm : ((s.ctx p.val k.val).queue 1).image = m) (hrec : ((s.ctx p.val k.val).queue 1).record = none) :
    exec (.stream p k) s = .next (if checkDesc m (s.shape c (bf m 12 6)) = 0 then (s.startCmd r).enterActive c e d 0 (some r) m none
      else (s.startCmd r).complete r (checkDesc m (s.shape c (bf m 12 6))) 0) := by
  show Host.Outcome.next (stepStream p k s) = _
  by_cases hcheck : checkDesc m (s.shape c (bf m 12 6)) = 0 <;>
    simp [stepStream, h, hc, he, hd, hiso, hready, hst, hwait, hm, hrec, hcheck]

theorem exec_streamRearm_enters (h : s.fetchedCmd p.val k.val 1 0x11 = some r) (howner : (s.desc c e d).owner = some (s.identOf r))
    (hwait : (s.descX c e d).engWait = false)
    (hst : (s.desc c e d).st = .parked ∨ ((s.desc c e d).st = .stopped ∧ (s.desc c e d).rewound = true))
    (hbase : bf r.bits 128 48 % 32 = 0) (hdst : bf r.bits 192 48 = 0) :
    exec (.streamRearm p k) s = .next ((s.startCmd r).enterActive c e d 1 (some r) 0 none) := by
  show Host.Outcome.next (stepStreamRearm p k s) = _
  have hrestarts : ((s.desc c e d).st == .parked || ((s.desc c e d).st == .stopped && (s.desc c e d).rewound)) = true := by
    simpa using hst
  simp [stepStreamRearm, h, hc, he, hd, hiso, howner, hwait, hrestarts, hbase, hdst]

theorem exec_streamRearm_busy (h : s.fetchedCmd p.val k.val 1 0x11 = some r) (hst : (s.desc c e d).st = .active) :
    exec (.streamRearm p k) s = .next ((s.startCmd r).complete r St.streamBusy 0) := by
  show Host.Outcome.next (stepStreamRearm p k s) = _
  simp [stepStreamRearm, h, hc, he, hd, hiso, hst]

end

/-! STREAM_RESUME with GO, by the owner of the partition. -/

section
variable {s : State} {fn : Fn} {p : Fin 16} {val : Dword} {c e d : Nat}
  (hc : bf val 0 4 = c) (he : bf val 4 2 = e) (hd : bf val 6 4 = d)
  (ho : s.ownsP fn p.val = true) (hr : s.resetting p.val = false) (hgo : val.toNat.testBit 16 = true)
include hc he hd ho hr hgo

theorem exec_streamResume_goesOn {i : CtxId} (howner : (s.desc c e d).owner = some i) (hpart : i.part = p.val)
    (hreplay : (s.desc c e d).replayable = true) (hwait : (s.descX c e d).engWait = false) (hrec : (s.descX c e d).record ≠ none) :
    exec (.streamResume fn p val) s = .next ((((s.unlatch fn).updPart p.val (fun y =>
      { y with strCluster := c, strEngine := e, strDesc := d })).updPart p.val (fun y =>
      { y with strGo := false, strResult := 0 })).enterActive c e d 2 none 0 none) := by
  show Host.Outcome.next (stepStreamResume fn p val (s.unlatch fn)) = _
  simp [stepStreamResume, State.gateP, hc, he, hd, ho, hr, hgo, howner, hpart, hreplay, hwait, hrec]

theorem exec_streamResume_busy (hst : (s.desc c e d).st ≠ .stopped) :
    exec (.streamResume fn p val) s = .next (((s.unlatch fn).updPart p.val (fun y =>
      { y with strCluster := c, strEngine := e, strDesc := d })).updPart p.val (fun y =>
      { y with strGo := false, strResult := St.streamBusy })) := by
  have hreplay : (s.desc c e d).replayable = false := by simp [Desc.replayable, hst]
  have hbusy : St.streamBusy ≠ 0 := by decide
  show Host.Outcome.next (stepStreamResume fn p val (s.unlatch fn)) = _
  simp [stepStreamResume, State.gateP, hc, he, hd, ho, hr, hgo, hreplay, hbusy]

end

/-- Settles O14: each command by its rule, and the engine's slots by what is ACTIVE. -/
theorem streamsStartAndResume : Obligations.StreamsStartAndResume := by
  refine ⟨fun s p k r c e d hc he hd hiso => ⟨fun h => ?stream, fun h _ _ howner hwait => ?rearm, fun s m hcount hwait => ?slot,
    fun s m hcount => ?waits⟩, fun s fn p val c e d hc he hd ho hr hgo => ?resume⟩
  case stream =>
    exact ⟨exec_stream_notReady hc he hiso h, exec_stream_busy hc he hd hiso h, exec_stream_free hc he hd hiso h⟩
  case rearm =>
    exact ⟨exec_streamRearm_enters hc he hd hiso h howner hwait, exec_streamRearm_busy hc he hd hiso h⟩
  case slot => exact State.enterActive_atOnce hcount hwait d r m none
  case waits => exact State.enterActive_waits hcount d 0 (some r) m none
  case resume =>
    exact ⟨fun _ => exec_streamResume_goesOn hc he hd ho hr hgo, exec_streamResume_busy hc he hd ho hr hgo⟩

end Sys2Proof.Machine
end

section
/-! SUPPORT. What a stream engine does on its own, one rule per event, and the statement about it (06 R138, R144-R160, 08 R198-R201). -/
namespace Sys2Proof.Machine

/-! A fault record leaves the tiles and the stream descriptors. -/

/-- The tiles, the stream descriptors and the state of their engines. -/
def State.streams (s : State) : Tbl Tile × Tbl Desc × Tbl DescX := (s.tiles, s.descs, s.descx)

section
variable (s : State)

@[simp] theorem State.translate_streams (i : CtxId) (va : Nat) (write : Bool) : (s.translate i va write).1.streams = s.streams := by
  unfold State.translate
  split
  · split <;> rfl
  · rfl

@[simp] theorem State.report_streams (typ payload : Nat) : (s.report typ payload).streams = s.streams :=
  State.each_frame State.streams (fun s port => by split <;> rfl) _

@[simp] theorem State.msi_streams (port f vec : Nat) : (s.msi port f vec).streams = s.streams := by
  unfold State.msi
  dsimp only
  split <;> rfl

@[simp] theorem State.partMsi_streams (p k : Nat) : (s.partMsi p k).streams = s.streams := by
  unfold State.partMsi
  split
  · rfl
  · split
    · exact s.msi_streams _ _ _
    · split
      · exact s.msi_streams _ _ _
      · rfl

@[simp] theorem State.irqFault_streams (p k : Nat) : (s.irqFault p k).streams = s.streams := by
  unfold State.irqFault
  split
  · exact State.partMsi_streams _ p k
  · rfl

@[simp] theorem State.ringRecord_streams (i : CtxId) (r : FaultRec) : (s.ringRecord i r).streams = s.streams := by
  unfold State.ringRecord
  extract_lets x bits s1 fail
  have hfail : fail.streams = s.streams := rfl
  split
  · rfl
  · split
    · rename_i s2 dpa cch htranslate
      have h2 : s2.streams = s.streams := by
        have h1 := s1.translate_streams i (x.ringBase + 256 * (x.tail % 2 ^ x.ringSize)) true
        rwa [htranslate] at h1
      split
      · exact (State.irqFault_streams _ _ _).trans h2
      · exact hfail
    · exact hfail

@[simp] theorem State.raise_streams (r : FaultRec) : (s.raise r).streams = s.streams := by
  unfold State.raise
  extract_lets rseq bits s1 s2
  have h2 : s2.streams = s.streams := by
    show (if toBelfry r.status then s1.report 0x02 bits else s1).streams = s1.streams
    split
    · exact s1.report_streams _ _
    · rfl
  split
  · split
    · exact (s2.ringRecord_streams _ _).trans h2
    · exact h2
  · split
    · exact (State.partMsi_streams _ _ _).trans h2
    · exact h2

@[simp] theorem State.raise_tiles (r : FaultRec) : (s.raise r).tiles = s.tiles := congrArg Prod.fst (s.raise_streams r)

@[simp] theorem State.raise_desc (r : FaultRec) (c e d : Nat) : (s.raise r).desc c e d = s.desc c e d :=
  congrArg (fun v : Tbl Tile × Tbl Desc × Tbl DescX => tget v.2.1 (dKey c e d) Desc.reset) (s.raise_streams r)

@[simp] theorem State.raise_descX (r : FaultRec) (c e d : Nat) : (s.raise r).descX c e d = s.descX c e d :=
  congrArg (fun v : Tbl Tile × Tbl Desc × Tbl DescX => tget v.2.2 (dKey c e d) DescX.reset) (s.raise_streams r)

end

section
variable {s : State} {c : Fin 16} {e : Fin 4} {d : Fin 16}

/-! A slot of the engine, and a hand-over buffer. -/

/-- The oldest command that waits for the engine takes effect: a STREAM activates its descriptor, a STREAM_REARM rearms it. -/
theorem exec_engineSlotGrant {w : EngWait} {r : CmdRef} (hcount : s.activeCount c.val e.val < 8)
    (hw : (s.cl c.val).engWait.find? (fun w => w.engine == e.val) = some w) (hr : w.cmd = some r) :
    (w.kind = 0 → exec (.engineSlotGrant c e) s = .next (((s.updCl c.val (fun x => { x with engWait := x.engWait.erase w })).updDescX
      c.val e.val w.desc (fun x => { x with engWait := false })).activate c.val e.val w.desc r w.image w.record)) ∧
    (w.kind = 1 → exec (.engineSlotGrant c e) s = .next (((s.updCl c.val (fun x => { x with engWait := x.engWait.erase w })).updDescX
      c.val e.val w.desc (fun x => { x with engWait := false })).rearm c.val e.val w.desc r)) := by
  have hslot : ¬ 8 ≤ s.activeCount c.val e.val := Nat.not_le.mpr hcount
  refine ⟨fun hkind => congrArg Host.Outcome.next ?_, fun hkind => congrArg Host.Outcome.next ?_⟩ <;>
    simp only [stepEngineSlotGrant, if_neg hslot, hw, hr, hkind]

theorem exec_hoRelease {base len : Nat} (hst : (s.desc c.val e.val d.val).st = .active) (hwait : (s.desc c.val e.val d.val).hoWait = true)
    (hbuf : s.hoBuffer c.val e.val d.val = some (base, len)) :
    ∃ u, exec (.hoRelease c e d) s = .next u ∧ (u.desc c.val e.val d.val).hoWait = false ∧
      (u.desc c.val e.val d.val).dst = base + 2 ^ 48 * len ∧ u.mem = s.mem ∧ u.tiles = s.tiles := by
  refine ⟨s.setDesc c.val e.val d.val { s.desc c.val e.val d.val with hoWait := false, dst := base + 2 ^ 48 * len },
    congrArg Host.Outcome.next ?_, ?_, ?_, rfl, rfl⟩
  · simp [stepHoRelease, hst, hwait, hbuf]
  · simp
  · simp

/-! A drained rewind, and a stopped descriptor. -/

theorem exec_rewindResume (hdrain : (s.descX c.val e.val d.val).draining = true) (hissued : (s.desc c.val e.val d.val).issued = []) :
    ∃ u, exec (.rewindResume c e d) s = .next u ∧ (u.descX c.val e.val d.val).draining = false ∧
      (u.desc c.val e.val d.val).next = (s.desc c.val e.val d.val).runTile * (s.desc c.val e.val d.val).te ∧ u.mem = s.mem ∧
      u.tiles = s.tiles := by
  refine ⟨(s.updDesc c.val e.val d.val (fun x => { x with doneEl := [], next := x.runTile * x.te })).updDescX c.val e.val d.val
    (fun y => { y with draining := false, faulted := [], transit := [], writes := [], uses := [] }), congrArg Host.Outcome.next ?_, ?_, ?_,
    rfl, rfl⟩
  · simp [stepRewindResume, hdrain, hissued]
  · simp
  · simp

/-- A descriptor stopped by a preemption, whose elements in flight are complete, is STOPPED with its record, which is raised; no page is
asked for. -/
theorem stepResumeRecordWrite_preempted {i : CtxId} (howner : (s.desc c.val e.val d.val).owner = some i)
    (hdue : (s.descX c.val e.val d.val).recordDue = true) (hst : (s.desc c.val e.val d.val).st = .active)
    (hissued : (s.desc c.val e.val d.val).issued = []) (hstop : (s.descX c.val e.val d.val).stopStatus = St.preempted) :
    ∃ (r : BitVec 1024) (f : FaultRec), stepResumeRecordWrite c e d s = ((s.setDesc c.val e.val d.val
      { s.desc c.val e.val d.val with st := .stopped, lastStatus := St.preempted }).updDescX c.val e.val d.val (fun y =>
      { y with record := some r, recordDue := false, stopStatus := 0, faulted := [] })).raise f := by
  have hnoPage : (St.preempted == 0x67) = false := by decide
  simp only [stepResumeRecordWrite, howner, hdue, hst, hissued, hstop, hnoPage, beq_self_eq_true, bne_self_eq_false, List.isEmpty_nil,
    Bool.not_true, Bool.or_false, Bool.false_and, Bool.false_eq_true, if_false, if_true]
  exact ⟨_, _, rfl⟩

theorem exec_resumeRecordWrite {i : CtxId} (howner : (s.desc c.val e.val d.val).owner = some i)
    (hdue : (s.descX c.val e.val d.val).recordDue = true) (hst : (s.desc c.val e.val d.val).st = .active)
    (hissued : (s.desc c.val e.val d.val).issued = []) (hstop : (s.descX c.val e.val d.val).stopStatus = St.preempted) :
    ∃ u, exec (.resumeRecordWrite c e d) s = .next u ∧ (u.desc c.val e.val d.val).st = .stopped ∧
      (u.desc c.val e.val d.val).lastStatus = St.preempted ∧ (u.descX c.val e.val d.val).recordDue = false ∧ u.tiles = s.tiles := by
  obtain ⟨r, f, hstep⟩ := stepResumeRecordWrite_preempted howner hdue hst hissued hstop
  exact ⟨_, congrArg Host.Outcome.next hstep, by simp, by simp, by simp, by simp⟩

end

/-- The last element of a stream tile into memory delivers the tile (06 R147, R149); where the run has more, the next begins with none of its
elements complete. -/
theorem State.elemDone_tileDelivered (s : State) {c e d elem : Nat} {x : Desc} (hx : s.desc c e d = x) (hslot : descSlot x.image = false)
    (hall : (List.range x.te).all (fun k => (x.doneEl ++ [elem]).contains (x.runTile * x.te + k)) = true)
    (hmore : x.runTile + 1 ≠ x.tiles) :
    ((s.elemDone c e d elem).desc c e d).delivered = x.delivered + 1 ∧ ((s.elemDone c e d elem).desc c e d).doneEl = [] := by
  simp only [State.elemDone, hx, hall, hslot, hmore, if_true, if_false, State.desc_setDesc_same, and_self]

/-! Elements. -/

/-- A descriptor that neither waits, rewinds nor stops serves an element of its window while its slot is free and its context live. -/
theorem State.serves_of {s : State} {elem c e d : Nat} {i : CtxId} (howner : (s.desc c e d).owner = some i)
    (hst : (s.desc c e d).st = .active) (hho : (s.desc c e d).hoWait = false) (hdrain : (s.descX c e d).draining = false)
    (hdue : (s.descX c e d).recordDue = false) (hwin : (s.desc c e d).inWindow elem = true) (hslot : (s.desc c e d).slotFree = true)
    (hlive : s.live i = true) (hcar : s.carQuiet c = false) : s.serves c e d elem = true := by
  simp [State.serves, DescX.stopped, *]

/-- An element that goes further is not passed over where the turn is its descriptor's (06 R136). -/
theorem State.not_passedOver {s : State} {c e d elem next : Nat} (hturn : elem = next → s.turnOf c e = some d) :
    (elem == next && s.turnOf c e != some d) = false := by
  by_cases h : elem = next <;> simp [h, hturn]

/-! An element is issued on its descriptor's turn: `q` is the state in which one that goes further has taken the turn. -/

section
variable {s q : State} {c : Fin 16} {e : Fin 4} {d : Fin 16} {i : CtxId} {elem n : Nat} {rivals : List (Fin 64 × Fin 276)} {x : Desc}
  {v : Tbl Nat} {info : ElemInfo} (hx : s.desc c.val e.val d.val = x) (howner : x.owner = some i)
  (hserves : s.serves c.val e.val d.val elem = true) (hturn : elem = x.next → s.turnOf c.val e.val = some d.val)
  (hprog : x.progElem elem = some n) (hv : (vectorAt (levelsOf x.image) n).1 = v) (hinfo : elemInfo x.image x.base v = info)
  (hq : (if elem = x.next then (s.updDesc c.val e.val d.val (fun x => { x with next := elem + 1 })).updCl c.val (fun y =>
    { y with turns := tset y.turns e.val d.val }) else s) = q)
include hx howner hserves hturn hprog hv hinfo hq

/-- An element without bytes in bound has no source. -/
theorem stepElementTranslated_empty (hhi : info.hi = 0) :
    stepElementTranslated c e d elem rivals s = q.deliver c.val e.val d.val i x elem info (some v) [] rivals := by
  simp only [stepElementTranslated, hx, howner, hserves, State.not_passedOver hturn, hprog, hv, hinfo, hhi, beq_iff_eq, hq,
    Bool.not_true, Bool.or_false, Bool.false_eq_true, if_false, if_true]

/-- An element whose pieces of source are translated. -/
theorem stepElementTranslated_pieces {s1 : State} {l : List Piece} (hhi : info.hi ≠ 0) (hlo : 0 ≤ info.addr + info.lo)
    (htop : info.addr + info.hi ≤ (2 ^ 48 : Nat)) (hho : (baseHo x.image).1 = false)
    (hpieces : q.pieces c.val i (.engine e d) elem (descSlot x.image) false
      (cut4k 6 (info.addr + info.lo).toNat (info.hi - info.lo)) = (s1, .ok l)) :
    stepElementTranslated c e d elem rivals s = s1.deliver c.val e.val d.val i x elem info (some v) l rivals := by
  simp only [stepElementTranslated, hx, howner, hserves, State.not_passedOver hturn, hprog, hv, hinfo, hhi, beq_iff_eq, hq, hho, hpieces,
    decide_eq_false (Int.not_lt.mpr hlo), decide_eq_false (Int.not_lt.mpr htop), Bool.not_true, Bool.or_false, Bool.false_eq_true, if_false]

/-- An element within the hand-over buffer that its descriptor reads (06 R160). -/
theorem stepElementTranslated_handOver (hhi : info.hi ≠ 0) (hlo : 0 ≤ info.addr + info.lo)
    (hend : info.addr + info.hi ≤ (x.dst / 2 ^ 48 : Nat)) (htop : info.addr + info.hi ≤ (2 ^ 48 : Nat)) (hho : (baseHo x.image).1 = true) :
    stepElementTranslated c e d elem rivals s = q.deliver c.val e.val d.val i x elem info (some v)
      [{ host := false, addr := x.dst % 2 ^ 48 + (info.addr + info.lo).toNat, len := info.hi - info.lo, cache := false, va := 0, hua := 0 }]
      rivals := by
  have hfits : ¬ x.dst / 2 ^ 48 < (info.addr + info.hi).toNat := Nat.not_lt.mpr (Int.toNat_le.mpr hend)
  simp only [stepElementTranslated, hx, howner, hserves, State.not_passedOver hturn, hprog, hv, hinfo, hhi, beq_iff_eq, hq, hho, hfits,
    decide_eq_false (Int.not_lt.mpr hlo), decide_eq_false (Int.not_lt.mpr htop), Bool.not_true, Bool.or_false, Bool.false_eq_true, if_false,
    if_true]

end

/-- An element in flight whose rows are written, whose memory serves it whole, and whose slices the engine wins, performs its writes and is
complete. -/
theorem stepElementComplete_done {s s1 : State} {c : Fin 16} {e : Fin 4} {d : Fin 16} {i : CtxId} {elem : Nat}
    {parts : List (Bool × Nat × List Byte)} {own : List (Nat × Nat)} {rivals : List (Fin 64 × Fin 276)}
    (howner : (s.desc c.val e.val d.val).owner = some i) (hissued : elem ∈ (s.desc c.val e.val d.val).issued)
    (hrows : s.rowsLeft c.val e.val d.val elem = false)
    (hparts : ((s.descX c.val e.val d.val).writes.filter (fun w => w.elem == elem)).flatMap (·.parts) = parts)
    (hown : (parts.filter (fun q => !q.1)).map (fun q => (q.2.1, q.2.2.length)) = own)
    (hfree : ∀ q ∈ own, s.locked q.1 q.2 true none = false ∧ s1.partPoison q.1 q.2 = false)
    (hwins : s.engineWins c.val e.val own rivals = true)
    (hreach : s.reachElem c.val e.val d.val i (parts.any (·.1)) (own.map (·.1)) = (s1, 0))
    (hdrain : (s.descX c.val e.val d.val).draining = false) (hst : (s.desc c.val e.val d.val).st = .active) :
    stepElementComplete c e d elem rivals s = (((s1.updDescX c.val e.val d.val (fun y => { y with
      transit := y.transit.filter (fun t => t.elem != elem), writes := y.writes.filter (fun w => w.elem != elem)
      uses := y.uses.filter (fun u => u.elem != elem) })).engineWon c.val e.val own).performParts i parts).elemDone c.val e.val d.val elem := by
  have hunlocked : own.any (fun q => s.locked q.1 q.2 true none) = false := by
    simpa using fun a b hq => (hfree (a, b) hq).1
  have hwhole : own.any (fun q => s1.partPoison q.1 q.2) = false := by
    simpa using fun a b hq => (hfree (a, b) hq).2
  simp only [stepElementComplete, howner, hparts, hown, List.contains_iff_mem.mpr hissued, hrows, hunlocked, hwins, hreach, hwhole, hdrain,
    hst, bne_self_eq_false, Bool.and_false, Bool.not_true, Bool.or_false, Bool.false_eq_true, if_false]

/-- Settles O15: each event by its rule. -/
theorem streamEngineEvents : Obligations.StreamEngineEvents := by
  refine fun s c e d => ⟨fun w r hcount hw hr => exec_engineSlotGrant hcount hw hr,
    fun base len => exec_hoRelease, ?_, ?_, exec_rewindResume, fun i => exec_resumeRecordWrite, fun s elem x => s.elemDone_tileDelivered⟩
  · rintro i elem n rivals howner hst hho hdrain hdue hwin hslot hlive hcar hprog hturn x v info q rfl hv hinfo hq
    have hserves := State.serves_of howner hst hho hdrain hdue hwin hslot hlive hcar
    refine ⟨fun hhi => congrArg Host.Outcome.next ?_, fun s1 l hhi hlo htop hho hpieces => congrArg Host.Outcome.next ?_,
      fun hhi hlo hend htop hho => congrArg Host.Outcome.next ?_⟩
    · exact stepElementTranslated_empty rfl howner hserves hturn hprog hv hinfo hq hhi
    · exact stepElementTranslated_pieces rfl howner hserves hturn hprog hv hinfo hq hhi hlo htop hho hpieces
    · exact stepElementTranslated_handOver rfl howner hserves hturn hprog hv hinfo hq hhi hlo hend htop hho
  · exact fun i elem parts own rivals s1 howner hissued hrows hparts hown hfree hwins hreach hdrain hst =>
      congrArg Host.Outcome.next (stepElementComplete_done howner hissued hrows hparts hown hfree hwins hreach hdrain hst)

end Sys2Proof.Machine
end

section
/-! SUPPORT. The invariant along steps (07 R176, 01 R36). -/
namespace Sys2Proof.Machine

/-- A state differs from the same state with another queue in nothing that the invariant names. -/
theorem State.inv_withPending {s : State} {q : List Instr} (h : s.inv) : { s with pending := q }.inv := ⟨h.mem, h.clocks⟩

/-- Settles O54: a command keeps the invariant, and so does a nanosecond in which none waits. -/
theorem stepsKeepInvariant : Obligations.StepsKeepInvariant := by
  intro s u hinv hstep
  cases hq : s.pending with
  | nil =>
    obtain rfl : s.tick = u := by simpa [step, hq] using hstep
    exact (State.tick_keeps (.refl s)).inv hinv
  | cons c rest =>
    have hexec : exec c { s with pending := rest } = .next u := by simpa [step, hq] using hstep
    obtain ⟨v, hv, hkeeps⟩ := exec_next_keeps c { s with pending := rest }
    obtain rfl : v = u := Host.Outcome.next.inj (hv.symm.trans hexec)
    exact hkeeps.inv (State.inv_withPending hinv)

end Sys2Proof.Machine
end

section
/-! SUPPORT. What a store and unspecified data change of device memory, and the statement about them (07 R172, R179, R180, 20 R454). -/
namespace Sys2Proof.Machine

/-! Bytes written. -/

/-- A byte written leaves every other byte alone, whatever the form of memory. -/
theorem mget_mset_ne {a j : Nat} (h : j ≠ a) (m : Mem) (b : Byte) : mget (mset m a b) j = mget m j := by
  induction m with
  | nil =>
    simp only [mset]
    split <;> simp [mget, h]
  | cons c r ih =>
    obtain ⟨a', b'⟩ := c
    simp only [mset]
    split
    · split <;> simp [mget, h]
    · split
      · rename_i ha
        subst ha
        split <;> simp [mget, h]
      · simp [mget, ih]

/-- Bytes written leave every byte outside them alone, whatever the form of memory. -/
theorem mget_mwriteBytes_ne {a j : Nat} {l : List Byte} (h : j < a ∨ a + l.length ≤ j) (m : Mem) :
    mget (mwriteBytes m a l) j = mget m j := by
  induction l generalizing m a with
  | nil => rfl
  | cons b r ih =>
    simp only [List.length_cons] at h
    exact (ih (by omega) _).trans (mget_mset_ne (by omega) m b)

/-- Each byte written reads back. -/
theorem mget_mwriteBytes_getElem? {m : Mem} (w : Memory.wf m = true) (a : Nat) {l : List Byte} {n : Nat} {v : Byte} (h : l[n]? = some v) :
    mget (mwriteBytes m a l) (a + n) = v := by
  induction l generalizing m a n with
  | nil => simp at h
  | cons b r ih =>
    cases n with
    | zero =>
      obtain rfl : b = v := by simpa using h
      exact (mget_mwriteBytes_ne (.inl (Nat.lt_succ_self a)) _).trans ((mget_mset w a a b).trans (if_pos rfl))
    | succ n =>
      have hr : r[n]? = some v := by simpa using h
      rw [← ih (mset_wf w a b) (a + 1) hr, mwriteBytes, Nat.add_right_comm, Nat.add_assoc]

@[simp] theorem leBytes_length (n v : Nat) : (leBytes n v).length = n := by
  induction n generalizing v with
  | zero => rfl
  | succ n ih => simp [leBytes, ih]

/-! The stream caches. -/

/-- What a cluster is after the stream-cache lines of a range are dropped: its cache and its fills keep what lies elsewhere. -/
theorem State.dropLines_cl (s : State) (dpa len c : Nat) : (s.dropLines dpa len).cl c = { s.cl c with
    cache := (s.cl c).cache.filter (fun l => !overlaps (l.line * 256) 256 dpa len)
    fills := (s.cl c).fills.filter (fun a => !overlaps (a / 256 * 256) 256 dpa len) } := by
  unfold State.dropLines State.cl
  rw [tget_tmap _ _ _ _ (by rfl)]

theorem State.mem_dropLines_cache {s : State} {dpa len c : Nat} {g : CacheLine} (h : g ∈ ((s.dropLines dpa len).cl c).cache) :
    g ∈ (s.cl c).cache ∧ overlaps (g.line * 256) 256 dpa len = false := by
  simpa [State.dropLines_cl] using h

/-! A store. -/

theorem State.store_bytes (s : State) (dpa : Nat) (bs : List Byte) : (s.store dpa bs).mem.bytes = mwriteBytes s.mem.bytes dpa bs := rfl

/-- The bytes stored are the only ones that change. -/
theorem State.mget_store_outside {dpa x : Nat} {bs : List Byte} (h : x < dpa ∨ dpa + bs.length ≤ x) (s : State) :
    mget (s.store dpa bs).mem.bytes x = mget s.mem.bytes x := mget_mwriteBytes_ne h _

theorem State.mget_store_inside {s : State} {dpa n : Nat} {bs : List Byte} {v : Byte} (hinv : s.inv) (h : bs[n]? = some v) :
    mget (s.store dpa bs).mem.bytes (dpa + n) = v := mget_mwriteBytes_getElem? hinv.mem dpa h

/-- The poison that stays is that of the lines not wholly written (07 R179). -/
theorem State.mem_store_poison (s : State) (dpa l : Nat) (bs : List Byte) : l ∈ (s.store dpa bs).mem.poison ↔
    l ∈ s.mem.poison ∧ ¬ (dpa ≤ l * 64 ∧ l * 64 + 64 ≤ dpa + bs.length) := by
  simp only [State.store, State.dropLines, List.mem_filter, ← Bool.decide_and, Bool.not_eq_true', decide_eq_false_iff_not]

/-! Unspecified data. -/

/-- One extent takes unspecified data (log entry 89): no stream cache holds a line of it, and a free value is drawn for its bytes. -/
def State.blurExtent (s : State) (a n : Nat) : State :=
  { s.dropLines a n with
    mem := { s.mem with bytes := mwriteBytes s.mem.bytes a (leBytes n (s.freeVal (8 * n)).toNat) }, freeCtr := s.freeCtr + 1 }

theorem State.blur_cons (s : State) (e : Nat × Nat) (l : List (Nat × Nat)) : s.blur (e :: l) = (s.blurExtent e.1 e.2).blur l := rfl

/-- Bytes, cached lines and the count of free values are all that unspecified data changes. -/
theorem State.blur_eq (s : State) (l : List (Nat × Nat)) : s.blur l = { s with
    mem := { s.mem with bytes := (s.blur l).mem.bytes }, clusters := (s.blur l).clusters, freeCtr := s.freeCtr + l.length } := by
  induction l generalizing s with
  | nil => rfl
  | cons e l ih =>
    have hfree : s.freeCtr + (l.length + 1) = s.freeCtr + 1 + l.length := by omega
    rw [List.length_cons, hfree]
    exact ih (s.blurExtent e.1 e.2)

/-- The lines that the stream caches keep lie outside every extent. -/
theorem State.mem_blur_cache {s : State} {l : List (Nat × Nat)} {c : Nat} {g : CacheLine} (h : g ∈ ((s.blur l).cl c).cache) :
    g ∈ (s.cl c).cache ∧ ∀ e ∈ l, overlaps (g.line * 256) 256 e.1 e.2 = false := by
  induction l generalizing s with
  | nil => exact ⟨h, by simp⟩
  | cons e l ih =>
    obtain ⟨hg, hrest⟩ := ih (s := s.blurExtent e.1 e.2) h
    obtain ⟨hcache, hout⟩ := State.mem_dropLines_cache (s := s) hg
    exact ⟨hcache, List.forall_mem_cons.mpr ⟨hout, hrest⟩⟩

/-- Bytes outside the extents stay as they were. -/
theorem State.mget_blur_outside {x : Nat} {l : List (Nat × Nat)} (h : ∀ e ∈ l, x < e.1 ∨ e.1 + e.2 ≤ x) (s : State) :
    mget (s.blur l).mem.bytes x = mget s.mem.bytes x := by
  induction l generalizing s with
  | nil => rfl
  | cons e l ih =>
    obtain ⟨he, hl⟩ := List.forall_mem_cons.mp h
    exact (ih hl (s.blurExtent e.1 e.2)).trans (mget_mwriteBytes_ne (by rwa [leBytes_length]) _)

/-! A write through BAR2. -/

/-- Where no line of a range is poisoned and written in part, all its bytes are stored. -/
theorem State.storeRange_whole {s : State} {dpa : Nat} {bs : List Byte} (tell : Bool) (h : s.partPoison dpa bs.length = false) :
    s.storeRange tell dpa bs = s.store dpa bs := by
  simp [State.storeRange, h]

/-- A write that finds no other held at its port, and translates to one page, is stored there. -/
theorem State.bar2Arrive_stores {s t : State} {p dpa : Nat} {r : Bar2Op} (hheld : (s.port p).held = []) (hwrite : r.write = true)
    (hlook : (s.updPort p (fun y => { y with held := [r] })).bar2Look p r = (t, .pages [(dpa, r.data.length)]))
    (hwhole : t.partPoison dpa r.data.length = false) :
    s.bar2Arrive p r = (t.updPort p (fun y => { y with held := [] })).store dpa r.data := by
  have harrive : s.updPort p (fun y => { y with held := y.held ++ [r] }) = s.updPort p (fun y => { y with held := [r] }) := by
    simp [State.updPort, hheld]
  have hone : ((s.updPort p (fun y => { y with held := [r] })).port p).held = [r] := by simp [State.updPort_port]
  have hstore := State.storeRange_whole (s := t.updPort p (fun y => { y with held := [] })) true hwhole
  simp only [State.bar2Arrive, harrive, hone, List.length_singleton, State.bar2Drain, hlook, State.bar2Perform, hwrite, if_true,
    State.bar2Store, List.take_length, hstore]

/-- A write of a port that is up, by the state after its arrival. -/
theorem exec_bar2Write_up {s : State} {port : Fin 4} (addr : Nat) (data : List Byte) (hup : (s.port port.val).up = true) :
    exec (.bar2Write port addr data) s =
      .next ((s.unlatch (.pf port)).bar2Arrive port.val { write := true, addr, len := data.length, data }) :=
  congrArg Host.Outcome.next (if_pos hup)

/-- Settles O57: stores and unspecified data by their rules, and a BAR2 write by the store that it comes to. -/
theorem storeFrame : Obligations.StoreFrame := by
  refine ⟨fun s _ _ _ h => s.mget_store_outside h, fun _ _ _ _ _ => State.mget_store_inside, State.mem_store_poison,
    fun _ _ _ => ⟨rfl, rfl, rfl, rfl⟩,
    fun s l => ⟨s.blur_eq l, fun _ _ => State.mem_blur_cache, fun _ h => s.mget_blur_outside h⟩, ?_⟩
  rintro s q t port addr dpa data r hup hheld rfl rfl hlook hwhole
  have harrive := State.bar2Arrive_stores (s := s.unlatch (.pf port)) hheld rfl hlook hwhole
  refine ⟨_, (exec_bar2Write_up addr data hup).trans (congrArg Host.Outcome.next harrive), ?_, ?_, ?_⟩
  · show ((t.updPort port.val (fun y => { y with held := [] })).port port.val).held = []
    simp [State.updPort_port]
  · exact fun _ h => State.mget_store_outside h _
  · exact fun _ _ hinv => mget_mwriteBytes_getElem? hinv.mem dpa

end Sys2Proof.Machine
end

section
/-! SUPPORT. Accesses at a memory slice, the errors found there, and frames, one rule per case, and the statement about them
(07 R169, R173, R176, R178-R182, R186). -/
namespace Sys2Proof.Machine

/-! What a slice's last winner is read from. -/

@[simp] theorem State.updTile_xbarLast (s : State) (ta : Nat) (f : Tile → Tile) (a : Nat) : (s.updTile ta f).xbarLast a = s.xbarLast a := rfl

@[simp] theorem State.store_xbarLast (s : State) (dpa : Nat) (bs : List Byte) (a : Nat) : (s.store dpa bs).xbarLast a = s.xbarLast a := by
  have hwin : ∀ c, ((s.store dpa bs).cl c).lastWin = (s.cl c).lastWin := fun c => by
    show ((s.dropLines dpa bs.length).cl c).lastWin = _
    rw [State.dropLines_cl]
  simp only [State.xbarLast, hwin]
  rfl

/-! An entry of a tile's crossbar port. -/

/-- Entry idx leaves the crossbar port of a tile. -/
def State.portDrop (s : State) (ta idx : Nat) : State :=
  s.updTile ta (fun t => t.updCtl (fun x => { x with portQ := x.portQ.eraseIdx idx }))

/-- A load takes its value, and stays in the port until its thread takes it. -/
def State.portTake (s : State) (ta idx : Nat) (o : PortOp) : State :=
  s.updTile ta (fun t => t.updCtl (fun x => { x with
    portQ := x.portQ.set idx { o with done := some (s.loadSees (((s.tile ta).ctl.portQ).take idx) o) } }))

@[simp] theorem State.portDrop_portQ (s : State) (ta idx : Nat) :
    ((s.portDrop ta idx).tile ta).ctl.portQ = (s.tile ta).ctl.portQ.eraseIdx idx := by
  simp [State.portDrop, Tile.updCtl]

section
variable {s : State} {t : TileId} {idx : Nat} {o : PortOp} (ho : (s.tile (tileKey t)).ctl.portQ[idx]? = some o)
include ho

/-- An entry that may not pass those before it waits (07 R181). -/
theorem State.portAccess_held (hmay : mayPerform ((s.tile (tileKey t)).ctl.portQ.take idx) o = false) (ecc : Ecc) (rivals : List (Fin 276)) :
    s.portAccess t idx ecc rivals = s := by
  simp only [State.portAccess, ho, hmay, Bool.not_false, if_true]

/-- An access that loses its slice waits (07 R169). -/
theorem State.portAccess_loses {rivals : List (Fin 276)} (hkind : o.kind ≠ .fence)
    (hlose : xbarWins (s.xbarLast o.dpa) (xbarIndex (tileKey t)) rivals = false) (ecc : Ecc) : s.portAccess t idx ecc rivals = s := by
  have hfence : o.isFence = false := by simp [PortOp.isFence, hkind]
  simp only [State.portAccess, ho, hfence, hlose, Bool.not_false, Bool.false_eq_true, if_true, if_false, ite_self]

variable (hmay : mayPerform ((s.tile (tileKey t)).ctl.portQ.take idx) o = true)
include hmay

/-- A fence that may pass leaves the queue. -/
theorem State.portAccess_fence (hkind : o.kind = .fence) (ecc : Ecc) (rivals : List (Fin 276)) :
    s.portAccess t idx ecc rivals = s.portDrop (tileKey t) idx := by
  have hfence : o.isFence = true := by simp [PortOp.isFence, hkind]
  simp only [State.portAccess, ho, hmay, hfence, Bool.not_true, Bool.false_eq_true, if_true, if_false, State.portDrop]

variable {rivals : List (Fin 276)} (hwin : xbarWins (s.xbarLast o.dpa) (xbarIndex (tileKey t)) rivals = true)
  (hadmit : s.portRefuses (taC (tileKey t)) o = none)
include hwin hadmit

/-- A store that wins its slice, that no lock holds and that writes no poisoned line in part, is performed (07 R179, R180). -/
theorem State.portAccess_store {th v : Nat} (hkind : o.kind = .store th v)
    (hfree : s.locked o.dpa o.bytes true (some (bKey (taC (tileKey t)) o.bat)) = false) (hwhole : s.partPoison o.dpa o.bytes = false) :
    s.portAccess t idx .clean rivals =
      ((s.xbarWon (xbarIndex (tileKey t)) o.dpa).portDrop (tileKey t) idx).store o.dpa (leBytes o.bytes v) := by
  have hfence : o.isFence = false := by simp [PortOp.isFence, hkind]
  have hstore : o.isStore = true := by simp [PortOp.isStore, hkind]
  have hwon : (s.xbarWon (xbarIndex (tileKey t)) o.dpa).partPoison o.dpa o.bytes = false := by simpa [State.partPoison] using hwhole
  simp only [State.portAccess, ho, hmay, hfence, hstore, hfree, hwin, hadmit, State.eccEvent, hkind, hwon, Bool.not_true,
    Bool.false_eq_true, if_false, State.portDrop]

/-- A load that wins its slice, that no lock holds and that reads no poisoned line, takes the bytes that its thread sees (07 R179, R182). -/
theorem State.portAccess_load {th ln : Nat} (hkind : o.kind = .load th ln)
    (hfree : s.locked o.dpa o.bytes false (some (bKey (taC (tileKey t)) o.bat)) = false) (hwhole : s.poisoned o.dpa o.bytes = false) :
    s.portAccess t idx .clean rivals = (s.xbarWon (xbarIndex (tileKey t)) o.dpa).portTake (tileKey t) idx o := by
  have hfence : o.isFence = false := by simp [PortOp.isFence, hkind]
  have hstore : o.isStore = false := by simp [PortOp.isStore, hkind]
  have hwon : (s.xbarWon (xbarIndex (tileKey t)) o.dpa).poisoned o.dpa o.bytes = false := by simpa [State.poisoned] using hwhole
  simp only [State.portAccess, ho, hmay, hfence, hstore, hfree, hwin, hadmit, State.eccEvent, hkind, hwon, Bool.not_true,
    Bool.false_eq_true, if_false, State.portTake, State.xbarWon_tile]

end

/-! What the two accesses change. -/

/-- What a load sees depends on memory alone. -/
theorem State.loadSees_congr {s u : State} (h : u.mem = s.mem) (before : List PortOp) (o : PortOp) :
    u.loadSees before o = s.loadSees before o := by
  simp only [State.loadSees, h]

section
variable (s : State) (i ta idx : Nat) (o : PortOp)

/-- A store performed at its slice leaves the port, and writes its bytes and no others. -/
theorem State.storeAtSlice {v : Nat} {u : State} (hu : ((s.xbarWon i o.dpa).portDrop ta idx).store o.dpa (leBytes o.bytes v) = u) :
    (u.tile ta).ctl.portQ = (s.tile ta).ctl.portQ.eraseIdx idx ∧ u.mem.bytes = mwriteBytes s.mem.bytes o.dpa (leBytes o.bytes v) ∧
    (∀ c sl, home o.dpa = .cm c sl → u.xbarLast o.dpa = i) ∧
    (∀ a, Memory.wf s.mem.bytes = true → a < o.dpa ∨ o.dpa + o.bytes ≤ a → mget u.mem.bytes a = mget s.mem.bytes a) := by
  have hbytes : u.mem.bytes = mwriteBytes s.mem.bytes o.dpa (leBytes o.bytes v) := by
    rw [← hu, State.store_bytes, State.portDrop, State.updTile_mem, State.xbarWon_mem]
  refine ⟨?_, hbytes, fun c sl h => ?_, fun a _ h => ?_⟩
  · rw [← hu, ← s.xbarWon_tile i o.dpa ta]
    exact State.portDrop_portQ _ ta idx
  · rw [← hu, State.store_xbarLast]
    exact State.xbarWon_xbarLast h
  · rw [hbytes]
    exact mget_mwriteBytes_ne (by rwa [leBytes_length]) _

/-- A load performed at its slice holds its value in the port, and changes no memory and no other tile. -/
theorem State.loadAtSlice {u : State} (hu : (s.xbarWon i o.dpa).portTake ta idx o = u) :
    (u.tile ta).ctl.portQ = (s.tile ta).ctl.portQ.set idx { o with done := some (s.loadSees ((s.tile ta).ctl.portQ.take idx) o) } ∧
    u.mem = s.mem ∧ (∀ c sl, home o.dpa = .cm c sl → u.xbarLast o.dpa = i) ∧ ∀ k, k ≠ ta → u.tile k = s.tile k := by
  subst hu
  refine ⟨?_, s.xbarWon_mem i o.dpa, fun c sl h => ?_, fun k hk => ?_⟩
  · simp [State.portTake, Tile.updCtl, State.loadSees_congr (s.xbarWon_mem i o.dpa)]
  · exact State.xbarWon_xbarLast h
  · exact (State.tile_updTile_ne _ _ hk).trans (s.xbarWon_tile i o.dpa k)

end

/-! What ECC finds when another agent reads a line (07 R173, R178). -/

section
variable {s : State} {dpa kind ix : Nat} (hunit : s.unitAt dpa = some (kind, ix))
include hunit

/-- A single-bit error short of the sixteenth of its hour is counted, in the register of its slice or channel and in the hour's window. -/
theorem State.corrected_counted {w : List Nat × Bool} (hw : hourWindow s.ledger.opSec (tget s.mem.sbe (4096 * kind + ix) []) = w)
    (hbelow : w.2 = false) : s.corrected dpa = (fun q : State => { q with mem := { q.mem with sbe := tset q.mem.sbe (4096 * kind + ix) w.1 } })
      (if kind = 3 then s.updSlice (ix / 66) (ix % 66) (fun x => { x with corrected := satAdd 12 x.corrected 1 })
        else s.updChan (if kind = 6 then ix else 192 + ix) (fun x => { x with corrected := satAdd 8 x.corrected 1 })) := by
  subst hw
  by_cases hk : kind = 3 <;> simp only [State.corrected, hunit, hk, if_true, if_false] at hbelow ⊢ <;> exact if_neg (by simp [hbelow])

/-- An uncorrectable error is a confirmed one, repaired from the mirror or with its line lost. -/
theorem State.uncorrectable_confirmed : s.uncorrectable dpa =
    if s.mirrored dpa = true then s.confirm kind ix 2 0xBA else (s.declareLost (dpa / 64 * 64) 64).confirm kind ix 2 0x70 := by
  cases hm : s.mirrored dpa <;> simp [State.uncorrectable, hunit, hm, causeMirror, causeLost]

end

/-! Frames (07 R176, R186). -/

theorem State.unlatch_tag (s : State) (fn : Fn) (dpa : Nat) : (s.unlatch fn).tag dpa = s.tag dpa := by cases fn <;> rfl
theorem State.unlatch_frameLocked (s : State) (fn : Fn) (dpa : Nat) : (s.unlatch fn).frameLocked dpa = s.frameLocked dpa := by cases fn <;> rfl

/-- A frame returned to free has no tag. -/
theorem State.untag_tag (s : State) (dpa : Nat) : (s.untag dpa).tag dpa = none := by
  simp [State.untag, State.tag, tdel]

/-- The owner's write of PTN_FRAME_FREE, once the frame that it names is set, by the tag of the frame and the lock over it. -/
theorem exec_frameFree_owner {s u : State} {fn : Fn} {p : Fin 16} {val : Dword} {i : CtxId}
    (hu : (s.unlatch fn).updPart p.val (fun x => { x with frame := bf val 16 27 * 0x10000 }) = u) (hown : s.ownsP fn p.val = true)
    (hreset : s.resetting p.val = false) (hbusy : (s.part p.val).frameBusy = false) (htag : s.tag (bf val 16 27 * 0x10000) = some i) :
    exec (.frameFree fn p val) s = .next (if i.part ≠ p.val then u.refuseP fn p.val (offP p.val 0x20) 3 val.toNat
      else if s.frameLocked (bf val 16 27 * 0x10000) = true then u.updPart p.val (fun x => { x with frameBusy := true })
      else u.untag (bf val 16 27 * 0x10000)) := by
  have hnamed : u.tag (bf val 16 27 * 0x10000) = some i := by
    rw [← htag, ← s.unlatch_tag fn, ← hu]
    rfl
  have hlock : u.frameLocked (bf val 16 27 * 0x10000) = s.frameLocked (bf val 16 27 * 0x10000) := by
    rw [← s.unlatch_frameLocked fn, ← hu]
    rfl
  refine congrArg Host.Outcome.next ?_
  simp only [stepFrameFree, State.unlatch_ownsP, State.unlatch_resetting, State.unlatch_part, hown, hreset, hbusy, hu, hnamed, hlock,
    Bool.not_true, Bool.or_self, Bool.false_eq_true, if_false, bne_iff_ne]

/-- The lock over a partition's frame has ended: the frame is free. -/
theorem exec_frameRelease_unlocked {s : State} {p : Fin 16} {i : CtxId} (hbusy : (s.part p.val).frameBusy = true)
    (hfree : s.frameLocked (s.part p.val).frame = false) (htag : s.tag (s.part p.val).frame = some i) (hpart : i.part = p.val) :
    exec (.frameRelease p) s = .next ((s.updPart p.val (fun x => { x with frameBusy := false })).untag (s.part p.val).frame) := by
  have htag' : (s.updPart p.val (fun x => { x with frameBusy := false })).tag (s.part p.val).frame = some i := htag
  refine congrArg Host.Outcome.next ?_
  simp only [stepFrameRelease, hbusy, hfree, htag', hpart, beq_self_eq_true, Bool.not_false, Bool.and_self, if_true]

/-- A walk that waits for a frame that its context may take: the frame is zeroed and tagged, and the translation completes. -/
theorem exec_zeroFill_takes {s : State} {c : Fin 16} {w : Walk} {a leaf : Nat}
    (hw : (s.cl c.val).walks.find? (fun x => x.id == w.id) = some w) (hframe : w.frame = some a) (hresult : w.result = some leaf)
    (hlive : s.live w.ctx = true) (hon : (s.ctx w.ctx.part w.ctx.ctx).xlat.enable = true) (htag : s.tagCheck a w.ctx = .fill) :
    exec (.zeroFill c w.id) s = .next (((s.takeFrame a w.ctx).endWalk c.val w.id).tlbAdd c.val w.ctx w.va w.level leaf) := by
  refine congrArg Host.Outcome.next ?_
  simp only [stepZeroFill, hw, hframe, hresult, hlive, hon, htag, Bool.not_true, Bool.false_eq_true, if_false]

/-- Settles O16: accesses, errors and frames, each by its rule. -/
theorem slicesAndFrames : Obligations.SlicesAndFrames := by
  refine ⟨fun s t idx o ho => ⟨fun hmay ecc rivals => congrArg Host.Outcome.next (State.portAccess_held ho hmay ecc rivals),
    fun ecc rivals hkind hlose => congrArg Host.Outcome.next (State.portAccess_loses ho hkind hlose ecc), fun hmay rivals => ⟨?_, ?_, ?_⟩⟩,
    fun s dpa kind ix rivals => ⟨rfl, ?_, fun hunit => congrArg Host.Outcome.next (State.uncorrectable_confirmed hunit)⟩, ?_⟩
  · exact fun hkind ecc => ⟨s.portDrop (tileKey t) idx, congrArg Host.Outcome.next (State.portAccess_fence ho hmay hkind ecc rivals),
      s.portDrop_portQ _ _, rfl, rfl⟩
  · exact fun hwin hadmit th v hkind hfree hwhole => ⟨_, congrArg Host.Outcome.next
      (State.portAccess_store ho hmay hwin hadmit hkind hfree hwhole), s.storeAtSlice _ _ _ o rfl⟩
  · exact fun hwin hadmit th ln hkind hfree hwhole => ⟨_, congrArg Host.Outcome.next
      (State.portAccess_load ho hmay hwin hadmit hkind hfree hwhole), s.loadAtSlice _ _ _ o rfl⟩
  · intro hunit w hw hbelow
    have hcount := State.corrected_counted hunit hw hbelow
    exact ⟨fun hk => congrArg Host.Outcome.next (hcount.trans (by rw [if_neg hk])),
      fun hk => congrArg Host.Outcome.next (hcount.trans (by rw [if_pos hk]))⟩
  · rintro s fn p val dpa rfl
    refine ⟨fun hown hreset hbusy i htag => ?_, fun i hbusy hfree htag hpart => ?_, fun c w a leaf => exec_zeroFill_takes⟩
    · rw [exec_frameFree_owner rfl hown hreset hbusy htag]
      exact ⟨fun hpart hlock => by simp [hpart, hlock], fun hpart hlock => by simp [hpart, hlock], fun hpart => by simp [hpart]⟩
    · refine ⟨_, exec_frameRelease_unlocked hbusy hfree htag hpart, ?_, State.untag_tag _ _, rfl, rfl⟩
      show ((s.updPart p.val (fun x => { x with frameBusy := false })).part p.val).frameBusy = false
      rw [State.updPart_part_same]

end Sys2Proof.Machine
end

section
/-! SUPPORT. A failed stream-cache slice, and the statement about the errors of memory, which fails (07 R174). -/
namespace Sys2Proof.Machine

/-- Cluster 0 with its physical slice 0 in service as a stream-cache slice. -/
def servingCache : State := { State.reset with mem := { MemSys.reset with slices := [(0, { Slice.reset with mode := 1 })] } }

/-- The slice meets every hypothesis that the statement puts on a stream-cache slice that fails. -/
theorem servingCache_slice : (servingCache.slice 0 0).st = 0 ∧ (servingCache.slice 0 0).mode = 1 := by decide +kernel

/-- Its failure muffles it, in the table of slices that the state of memory holds. -/
theorem sliceFailure_servingCache : ((stepSliceFailure 0 0 servingCache).slice 0 0).st = 3 := by decide +kernel

/-- A slice is read from the state of memory alone. -/
theorem State.slice_congr {s u : State} (h : u.mem = s.mem) (c phys : Nat) : u.slice c phys = s.slice c phys := by
  simp only [State.slice, h]

/-- Refutes O17: its clause on a stream-cache slice that fails has the slice muffled (its state 3) and all of memory's state as it was, of
which the table of slices is a part. In `servingCache` the failure takes the slice from state 0 to state 3. -/
theorem not_memoryEvents : ¬ Obligations.MemoryEvents := by
  intro h
  obtain ⟨_, _, _, _, hslice, _⟩ := h servingCache 0 0
  obtain ⟨_, hcache, _⟩ := hslice 0 _ _ _ (by decide) rfl (fun _ => rfl) (fun _ _ _ => rfl)
  obtain ⟨hst, hmode⟩ := servingCache_slice
  have hin : ∀ n, n ≠ 0 → (servingCache.slice 0 0).st ≠ n := fun _ hn h => hn (h.symm.trans hst)
  obtain ⟨u, hu, _, _, hmem, _⟩ := hcache (hin 1 (by decide)) (hin 3 (by decide)) hmode
  obtain rfl : stepSliceFailure 0 0 servingCache = u := Host.Outcome.next.inj hu
  have hsame := congrArg Slice.st (State.slice_congr hmem 0 0)
  rw [sliceFailure_servingCache, hst] at hsame
  exact absurd hsame (by decide)

end Sys2Proof.Machine
end

section
/-! SUPPORT. Translation requests, the reads of a walk, and invalidation, one rule per case, and the statement about them (08 R187-R192,
R203, R205). -/
namespace Sys2Proof.Machine

/-! Requests (08 R187, R191). -/

section
variable {s : State} {c p : Fin 16} {k : Fin 64} {agent : XAgent} {va : Nat} {write : Bool} {w : Walk}
  (hst : (s.ctx p.val k.val).st ≠ 0) (hfaulted : (s.ctx p.val k.val).xlat.faulted = false) (hva : va < 2 ^ 48)
  (hon : (s.ctx p.val k.val).xlat.enable = true)
  (hw : w = { id := (s.cl c.val).nextWalk, agent, ctx := s.ident p.val k.val, va, write, level := 1
              table := (s.ctx p.val k.val).xlat.root * 2 ^ 21, dropped := false, frame := none, result := none })
include hst hfaulted hva hon hw

/-- Without a cached translation a walk begins at the context's root. -/
theorem exec_translationRequest_walks (hmiss : s.tlbLook c.val (s.ident p.val k.val) va = none) :
    exec (.translationRequest c agent p k va write) s = .next (s.updCl c.val (fun y =>
      { y with nextWalk := y.nextWalk + 1, walks := y.walks ++ [w] })) := by
  subst hw
  refine congrArg Host.Outcome.next ?_
  simp only [stepTranslationRequest, beq_eq_false_iff_ne.mpr hst, hfaulted, Nat.not_le.mpr hva, hon, hmiss, Bool.or_self, Bool.not_true,
    Bool.false_eq_true, if_false]

/-- With one, the request goes on from the cached leaf. -/
theorem exec_translationRequest_cached {t : TlbEntry} (hhit : s.tlbLook c.val (s.ident p.val k.val) va = some t) :
    exec (.translationRequest c agent p k va write) s = .next ((s.updCl c.val (fun y =>
      { y with nextWalk := y.nextWalk + 1, walks := y.walks ++ [w] })).leafFound c.val { w with level := levelOf t.size } t.leaf.toNat) := by
  subst hw
  refine congrArg Host.Outcome.next ?_
  simp only [stepTranslationRequest, beq_eq_false_iff_ne.mpr hst, hfaulted, Nat.not_le.mpr hva, hon, hhit, Bool.or_self, Bool.not_true,
    Bool.false_eq_true, if_false]

end

/-! The reads of a walk (08 R187-R190, R203). -/

section
variable {s : State} {c : Fin 16} {w : Walk} (hw : (s.cl c.val).walks.find? (fun x => x.id == w.id) = some w) (hframe : w.frame = none)
  (hlive : s.live w.ctx = true)
include hw hframe hlive

theorem exec_tableRead_disabled (hoff : (s.ctx w.ctx.part w.ctx.ctx).xlat.enable = false) :
    exec (.tableRead c w.id) s = .next ((s.endWalk c.val w.id).xFail c.val w.agent w.ctx 0x65 w.va) := by
  refine congrArg Host.Outcome.next ?_
  simp only [stepTableRead, hw, hframe, hlive, hoff, Option.isSome_none, Bool.not_true, Bool.not_false, Bool.false_eq_true, if_false, if_true]

variable (hon : (s.ctx w.ctx.part w.ctx.ctx).xlat.enable = true)
include hon

/-- A walk that an invalidation dropped begins again at the root once that is done. -/
theorem exec_tableRead_restarts (hdrop : w.dropped = true) (hdone : s.invalidating w = false) :
    exec (.tableRead c w.id) s = .next (s.updWalk c.val w.id (fun y =>
      { y with dropped := false, level := 1, table := (s.ctx w.ctx.part w.ctx.ctx).xlat.root * 2 ^ 21 })) := by
  refine congrArg Host.Outcome.next ?_
  simp only [stepTableRead, hw, hframe, hlive, hon, hdrop, hdone, Option.isSome_none, Bool.not_true, Bool.false_eq_true, if_false, if_true]

variable (hdrop : w.dropped = false)
include hdrop

theorem exec_tableRead_badTable (htable : s.tableOk w.ctx.part w.table = false) :
    exec (.tableRead c w.id) s = .next ((s.endWalk c.val w.id).xFail c.val w.agent w.ctx 0x65 w.va) := by
  refine congrArg Host.Outcome.next ?_
  simp only [stepTableRead, hw, hframe, hlive, hon, hdrop, htable, Option.isSome_none, Bool.not_true, Bool.not_false, Bool.false_eq_true,
    if_false, if_true]

variable {e : Nat} (htable : s.tableOk w.ctx.part w.table = true) (hclean : s.poisoned (w.table + 8 * levelIndex w.level w.va) 8 = false)
  (he : s.load (w.table + 8 * levelIndex w.level w.va) 8 = e)
include htable hclean he

/-- An entry with V and LEAF is the leaf. -/
theorem exec_tableRead_leaf (hv : e.testBit 0 = true) (hl : e.testBit 1 = true) : exec (.tableRead c w.id) s = .next (s.leafFound c.val w e) := by
  refine congrArg Host.Outcome.next ?_
  simp only [stepTableRead, hw, hframe, hlive, hon, hdrop, htable, hclean, he, hv, hl, Option.isSome_none, Bool.not_true, Bool.and_self,
    Bool.false_eq_true, if_false, if_true]

theorem exec_tableRead_invalid (hv : e.testBit 0 = false) :
    exec (.tableRead c w.id) s = .next ((s.endWalk c.val w.id).xFail c.val w.agent w.ctx 0x65 w.va) := by
  refine congrArg Host.Outcome.next ?_
  simp only [stepTableRead, hw, hframe, hlive, hon, hdrop, htable, hclean, he, hv, Option.isSome_none, Bool.not_true, Bool.not_false,
    Bool.false_and, Bool.true_or, Bool.false_eq_true, if_false, if_true]

/-- An entry with V alone, whose other bits are those of a pointer, names the next table. -/
theorem exec_tableRead_descends (hv : e.testBit 0 = true) (hl : e.testBit 1 = false) (hlevel : w.level ≠ 3) (hlow : field e 2 6 = 0)
    (hhigh : e / 2 ^ 43 = 0) (hroot : w.level = 1 → field e 8 4 = 0) :
    exec (.tableRead c w.id) s = .next (s.updWalk c.val w.id (fun y => { y with level := y.level + 1, table := e / 256 * 256 })) := by
  have hpointer : (decide (w.level = 1) && field e 8 4 != 0) = false := by simpa using hroot
  refine congrArg Host.Outcome.next ?_
  simp only [stepTableRead, hw, hframe, hlive, hon, hdrop, htable, hclean, he, hv, hl, hlow, hhigh, hpointer, decide_eq_false hlevel,
    Option.isSome_none, bne_self_eq_false, Bool.not_true, Bool.and_false, Bool.or_self, Bool.false_eq_true, if_false]

end

/-! The leaf of a walk (08 R190, 07 R176). -/

section
variable {s : State} {c leaf : Nat} {w : Walk}

theorem State.leafFound_host {hua bits : Nat} {wr : Bool} (hleaf : leafCheck leaf w.level w.va w.write = .host hua wr bits) :
    s.leafFound c w leaf = (s.endWalk c w.id).tlbAdd c w.ctx w.va w.level leaf := by
  simp only [State.leafFound, hleaf]

/-- A leaf with a device page that its context may address: by what the tag of its frame says. -/
theorem State.leafFound_dev {dpa : Nat} {cache : Bool} (hleaf : leafCheck leaf w.level w.va w.write = .dev dpa cache)
    (hdpa : s.dpaStatus w.ctx.part dpa = none) :
    (s.tagCheck dpa w.ctx = .admits → s.leafFound c w leaf = (s.endWalk c w.id).tlbAdd c w.ctx w.va w.level leaf) ∧
    (s.tagCheck dpa w.ctx = .fill → s.leafFound c w leaf = s.updWalk c w.id (fun y => { y with frame := some dpa, result := some leaf })) ∧
    (s.tagCheck dpa w.ctx = .owned → s.leafFound c w leaf = (s.endWalk c w.id).xFail c w.agent w.ctx 0x71 w.va) := by
  refine ⟨fun htag => ?_, fun htag => ?_, fun htag => ?_⟩ <;> simp only [State.leafFound, hleaf, hdpa, htag]

end

/-! An invalidation begins (08 R191, R203, R205). -/

/-- PTN_XLAT_INV with the fields of a value written to it. -/
def State.invNamed (s : State) (p : Nat) (val : Dword) : State :=
  s.updPart p (fun x => { x with invCtx := bf val 1 6, invSize := bf val 7 2, invVa := bf val 16 32 * 65536 })

/-- A walk under an invalidation of a range of context k of partition p: in the range it is to begin again. -/
def Walk.invalidated (w : Walk) (p k a n : Nat) : Walk :=
  if w.ctx.part == p && w.ctx.ctx == k && overlaps w.va 1 a n then { w with dropped := true, frame := none, result := none } else w

/-- The state in which an invalidation is under way. -/
def State.invBegun (s : State) (p k a n : Nat) : State :=
  { s.updPart p (fun x => { x with invGo := true, invNow := (k, a, n) }) with
    clusters := tmap s.clusters (fun _ x => { x with walks := x.walks.map (·.invalidated p k a n) }) }

theorem Walk.dropped_of_invalidated {w : Walk} {p k a n : Nat} (hp : (w.invalidated p k a n).ctx.part = p)
    (hk : (w.invalidated p k a n).ctx.ctx = k) (hover : overlaps (w.invalidated p k a n).va 1 a n = true) :
    (w.invalidated p k a n).dropped = true := by
  unfold Walk.invalidated at hp hk hover ⊢
  split
  · rfl
  · rename_i hout
    rw [if_neg hout] at hp hk hover
    simp [hp, hk, hover] at hout

section
variable (s : State) (p k a n : Nat)

@[simp] theorem State.invBegun_part : (s.invBegun p k a n).part p = { s.part p with invGo := true, invNow := (k, a, n) } :=
  tget_tset_same _ _ _ _
@[simp] theorem State.invBegun_mem : (s.invBegun p k a n).mem = s.mem := rfl
@[simp] theorem State.invBegun_tiles : (s.invBegun p k a n).tiles = s.tiles := rfl

theorem State.invBegun_walks (c : Nat) : ((s.invBegun p k a n).cl c).walks = (s.cl c).walks.map (·.invalidated p k a n) :=
  congrArg Cluster.walks (tget_tmap s.clusters (fun _ x => { x with walks := x.walks.map (·.invalidated p k a n) }) c Cluster.reset rfl)

/-- Every walk in the range is to begin again. -/
theorem State.invBegun_dropped {c : Nat} {w : Walk} (hw : w ∈ ((s.invBegun p k a n).cl c).walks) (hp : w.ctx.part = p)
    (hk : w.ctx.ctx = k) (hover : overlaps w.va 1 a n = true) : w.dropped = true := by
  rw [State.invBegun_walks] at hw
  obtain ⟨_, _, rfl⟩ := List.mem_map.mp hw
  exact Walk.dropped_of_invalidated hp hk hover

@[simp] theorem State.invNamed_part (val : Dword) : (s.invNamed p val).part p =
    { s.part p with invCtx := bf val 1 6, invSize := bf val 7 2, invVa := bf val 16 32 * 65536 } := s.updPart_part_same p _
@[simp] theorem State.invNamed_mem (val : Dword) : (s.invNamed p val).mem = s.mem := rfl
@[simp] theorem State.invNamed_tiles (val : Dword) : (s.invNamed p val).tiles = s.tiles := rfl

end

section
variable {s : State} {fn : Fn} {p : Fin 16} {val : Dword} (hown : s.ownsP fn p.val = true) (hreset : s.resetting p.val = false)
include hown hreset

/-- The owner's write sets the fields, and with GO begins an invalidation where none is under way. -/
theorem exec_xlatInvalidate_owner : exec (.xlatInvalidate fn p val) s = .next
    (if (val.toNat.testBit 0 && !(s.part p.val).invGo) = true then ((s.unlatch fn).invNamed p.val val).invBegun p.val (bf val 1 6)
      (invRange (bf val 7 2) (bf val 16 32 * 65536)).1 (invRange (bf val 7 2) (bf val 16 32 * 65536)).2
    else (s.unlatch fn).invNamed p.val val) := by
  show Host.Outcome.next (stepXlatInvalidate fn p val (s.unlatch fn)) = _
  simp only [stepXlatInvalidate, State.gateP, State.unlatch_ownsP, State.unlatch_resetting, State.unlatch_part, hown, hreset,
    Bool.not_true, Bool.false_eq_true, if_false]
  cases val.toNat.testBit 0 && !(s.part p.val).invGo <;> rfl

theorem exec_xlatInvalidate_underWay (hgo : (s.part p.val).invGo = true) :
    exec (.xlatInvalidate fn p val) s = .next ((s.unlatch fn).invNamed p.val val) := by
  rw [exec_xlatInvalidate_owner hown hreset, hgo, Bool.not_true, Bool.and_false, if_neg Bool.false_ne_true]

/-- A write where no invalidation is under way: GO of the value begins one. -/
theorem exec_xlatInvalidate_begins {a n : Nat} (hrange : invRange (bf val 7 2) (bf val 16 32 * 65536) = (a, n))
    (hgo : (s.part p.val).invGo = false) :
    ∃ u, exec (.xlatInvalidate fn p val) s = .next u ∧ (u.part p.val).invGo = val.toNat.testBit 0 ∧ (u.part p.val).invCtx = bf val 1 6 ∧
      (val.toNat.testBit 0 = true → (u.part p.val).invNow = (bf val 1 6, a, n)) ∧ (u.part p.val).invSize = bf val 7 2 ∧
      (u.part p.val).invVa = bf val 16 32 * 65536 ∧ u.mem = s.mem ∧ u.tiles = s.tiles ∧
      (val.toNat.testBit 0 = true → ∀ (c : Nat) (w : Walk), w ∈ (u.cl c).walks → w.ctx.part = p.val → w.ctx.ctx = bf val 1 6 →
        overlaps w.va 1 a n = true → w.dropped = true) := by
  rw [exec_xlatInvalidate_owner hown hreset, hgo, hrange, Bool.not_false, Bool.and_true]
  cases val.toNat.testBit 0 with
  | false => exact ⟨_, rfl, by simp [hgo]⟩
  | true =>
    refine ⟨_, rfl, ?_⟩
    simp only [if_true, State.invBegun_part, State.invNamed_part, State.invBegun_mem, State.invNamed_mem, State.unlatch_mem,
      State.invBegun_tiles, State.invNamed_tiles, State.unlatch_tiles, true_and, true_implies]
    exact fun _ _ => State.invBegun_dropped _ _ _ _ _

end

/-! An invalidation ends (08 R191). -/

/-- The state in which the cached translations of a range of context k of partition p are gone, and GO is 0. -/
def State.invEnded (s : State) (p k a n : Nat) : State :=
  { s.updPart p (fun y => { y with invGo := false }) with
    clusters := tmap s.clusters (fun _ y => { y with
      tlb := y.tlb.filter (fun t => !(t.ctx.part == p && t.ctx.ctx == k && overlaps t.va (2 ^ t.size) a n)) }) }

theorem State.invEnded_part (s : State) (p k a n : Nat) : (s.invEnded p k a n).part p = { s.part p with invGo := false } :=
  tget_tset_same _ _ _ _

theorem State.invEnded_tlb (s : State) (p k a n c : Nat) : ((s.invEnded p k a n).cl c).tlb =
    (s.cl c).tlb.filter (fun t => !(t.ctx.part == p && t.ctx.ctx == k && overlaps t.va (2 ^ t.size) a n)) :=
  congrArg Cluster.tlb (tget_tmap s.clusters (fun _ y => { y with
    tlb := y.tlb.filter (fun t => !(t.ctx.part == p && t.ctx.ctx == k && overlaps t.va (2 ^ t.size) a n)) }) c Cluster.reset rfl)

/-- No cached translation in the range is left. -/
theorem State.invEnded_outside {s : State} {p k a n c : Nat} {t : TlbEntry} (ht : t ∈ ((s.invEnded p k a n).cl c).tlb)
    (hp : t.ctx.part = p) (hk : t.ctx.ctx = k) : overlaps t.va (2 ^ t.size) a n = false := by
  rw [State.invEnded_tlb] at ht
  simpa [hp, hk] using (List.mem_filter.mp ht).2

theorem exec_xlatInvalidateComplete {s : State} {p : Fin 16} {k a n : Nat} (hnow : (s.part p.val).invNow = (k, a, n))
    (hgo : (s.part p.val).invGo = true) (hheld : s.regionHeld p.val k a n = false) (huse : s.elemsUse p.val k a n = false) :
    exec (.xlatInvalidateComplete p) s = .next (s.invEnded p.val k a n) := by
  refine congrArg Host.Outcome.next ?_
  simp only [stepXlatInvalidateComplete, hnow, hgo, hheld, huse, Bool.not_true, Bool.or_self, Bool.false_eq_true, if_false]
  rfl

/-- Settles O18: requests, reads and leaves by their rules, and invalidation by its beginning and its end. -/
theorem translationWalksAndInvalidation : Obligations.TranslationWalksAndInvalidation := by
  refine ⟨fun s c p k agent va write => ⟨fun hst hfaulted hva hon w hw => ?request, fun w hw hframe hlive =>
    ⟨exec_tableRead_disabled hw hframe hlive, fun hon => ⟨exec_tableRead_restarts hw hframe hlive hon,
      exec_tableRead_badTable hw hframe hlive hon, fun e hdrop htable hclean he => ?entry⟩,
      fun leaf dpa cache => State.leafFound_dev, fun leaf hua bits wr => State.leafFound_host⟩⟩,
    fun s fn p val => ⟨fun hown hreset => exec_xlatInvalidate_begins hown hreset rfl, exec_xlatInvalidate_underWay,
      fun k a n hnow hgo hheld huse => ?complete⟩⟩
  case request =>
    exact ⟨exec_translationRequest_walks hst hfaulted hva hon hw, fun t => exec_translationRequest_cached hst hfaulted hva hon hw⟩
  case entry =>
    exact ⟨exec_tableRead_leaf hw hframe hlive hon hdrop htable hclean he, exec_tableRead_invalid hw hframe hlive hon hdrop htable hclean he,
      exec_tableRead_descends hw hframe hlive hon hdrop htable hclean he⟩
  case complete =>
    exact ⟨_, exec_xlatInvalidateComplete hnow hgo hheld huse, by rw [State.invEnded_part], rfl, rfl, fun _ _ => State.invEnded_outside⟩

end Sys2Proof.Machine
end

section
/-! SUPPORT. Translation completions, page requests and ATS invalidations at a host port, one rule per case, and the statement about them
(08 R194-R198). -/
namespace Sys2Proof.Machine

/-! A port read after an update of it, and a request that leaves its port. -/

theorem State.updPort_port_same (s : State) (port : Nat) (f : Port → Port) : (s.updPort port f).port port = f (s.port port) :=
  tget_tset_same _ _ _ _

theorem State.dropReq_live (s : State) (port : Nat) (r : HostReq) (i : CtxId) : (s.dropReq port r).live i = s.live i := rfl

/-- A request of a port that no reset made stale, of a live context. -/
theorem State.dropReq_acts {s : State} {r : HostReq} (hstale : r.stale = false) (hlive : s.live r.ctx = true) (port : Nat) :
    (r.stale || !(s.dropReq port r).live r.ctx) = false := by
  rw [State.dropReq_live, hstale, hlive, Bool.not_true, Bool.or_self]

/-! Translation completions (08 R194-R196). -/

/-- Cache a host translation at a port, of 2,048 entries: those of its context and PASID that it overlaps go, and then the oldest. -/
def State.atcAdd (s : State) (port : Nat) (e : AtcEntry) : State :=
  s.updPort port (fun x => { x with
    atc := ((x.atc.filter (fun a => !(a.ctx == e.ctx && a.pasid == e.pasid && overlaps a.va (2 ^ a.size) e.va (2 ^ e.size)))) ++
      [e]).reverse.take 2048 |>.reverse })

theorem State.mem_atcAdd (s : State) (port : Nat) (e : AtcEntry) : e ∈ ((s.atcAdd port e).port port).atc := by
  simp [State.atcAdd, State.updPort_port_same]

theorem State.atcAdd_reqs (s : State) (port : Nat) (e : AtcEntry) : ((s.atcAdd port e).port port).reqs = (s.port port).reqs := by
  rw [State.atcAdd, State.updPort_port_same]

theorem State.dropReq_reqs (s : State) (port : Nat) (r : HostReq) : ((s.dropReq port r).port port).reqs = (s.port port).reqs.erase r := by
  rw [State.dropReq, State.updPort_port_same]

section
variable {s : State} {port : Fin 4} {idx : Nat} {r : HostReq}
  (hr : (s.port port.val).reqs.find? (fun r => !r.prg && r.idx == idx) = some r) (hstale : r.stale = false) (hlive : s.live r.ctx = true)
include hr hstale hlive

theorem exec_atsTranslationCompletion_translated {hpa : Nat} {size : Fin 19} {w : Bool} (hwrite : r.write = true → w = true) :
    exec (.atsTranslationCompletion port idx (.translated hpa size w)) s = .next ((s.dropReq port.val r).atcAdd port.val
      (r.entry hpa (12 + size.val) w)) := by
  have hmay : (r.write && !w) = false := by simpa using hwrite
  refine congrArg Host.Outcome.next ?_
  simp only [stepAtsTranslationCompletion, hr, State.dropReq_acts hstale hlive, hmay, Bool.false_eq_true, if_false]
  rfl

theorem exec_atsTranslationCompletion_fault :
    exec (.atsTranslationCompletion port idx .fault) s = .next ((s.dropReq port.val r).hostFault r false) := by
  refine congrArg Host.Outcome.next ?_
  simp only [stepAtsTranslationCompletion, hr, State.dropReq_acts hstale hlive, Bool.false_eq_true, if_false]

theorem exec_translationCompletionTimeout :
    exec (.translationCompletionTimeout port idx) s = .next ((s.dropReq port.val r).hostFault r true) := by
  refine congrArg Host.Outcome.next ?_
  simp only [stepTranslationCompletionTimeout, hr, State.dropReq_acts hstale hlive, Bool.false_eq_true, if_false]

end

/-! What a host fault, and a page request that fails, give an agent (08 R196, R198, 11 R260). -/

section
variable {s : State} {r : HostReq} {e : Fin 4} {d : Fin 16} (hagent : r.agent = .engine e d)
  (howner : (s.desc r.cluster e.val d.val).owner = some r.ctx)
include hagent howner

theorem State.hostFault_engine (hst : (s.desc r.cluster e.val d.val).st = .active) (hstop : (s.descX r.cluster e.val d.val).stopStatus = 0)
    (late : Bool) : s.hostFault r late = s.updDescX r.cluster e.val d.val (fun y => { y with
      faulted := y.faulted ++ [{ elem := r.elem, va := r.va, hua := r.hua, write := r.write, late }], recordDue := true }) := by
  simp only [State.hostFault, hagent, howner, hst, hstop, beq_self_eq_true, Bool.and_self, if_true]

/-- A descriptor that stopped for the page shows the status, and its record with it. -/
theorem State.prgFailed_engine (hst : (s.desc r.cluster e.val d.val).st = .stopped) (hlast : (s.desc r.cluster e.val d.val).lastStatus = 0x67)
    (status : Nat) : s.prgFailed r status = (s.updDesc r.cluster e.val d.val (fun x => { x with lastStatus := status })).updDescX r.cluster
      e.val d.val (fun y => { y with record := y.record.map (fun v => BitVec.ofNat 1024 (setField v.toNat 0 8 status)) }) := by
  simp only [State.prgFailed, hagent, howner, hst, hlast, beq_self_eq_true, Bool.and_self, if_true]

end

section
variable {r : HostReq} {x : Fin 4} (hagent : r.agent = .queue x) (s : State)
include hagent

theorem State.hostFault_queue_late : s.hostFault r true = (s.updQueue r.ctx.part r.ctx.ctx x.val (fun q =>
    { q with stalled := some 0x6B })).updCtx r.ctx.part r.ctx.ctx (fun c => { c with qstop := 0x6B }) := by
  simp only [State.hostFault, hagent, if_true]

theorem State.hostFault_queue_asks : s.hostFault r false = (s.updQueue r.ctx.part r.ctx.ctx x.val (fun q =>
    { q with stalled := some 0x67 })).sendPrg r.ctx r.cluster r.agent r.elem r.va r.hua r.write := by
  simp only [State.hostFault, hagent, Bool.false_eq_true, if_false]

theorem State.prgFailed_queue (status : Nat) : s.prgFailed r status = (s.updQueue r.ctx.part r.ctx.ctx x.val (fun q =>
    { q with stalled := some status })).updCtx r.ctx.part r.ctx.ctx (fun c => { c with qstop := status }) := by
  simp only [State.prgFailed, hagent]

end

/-! Page requests (08 R196, R201, R203). -/

/-- A waiting page request takes index n of its port. -/
def State.prgGranted (s : State) (port n : Nat) (r : HostReq) : State :=
  s.updPort port (fun x => { x with reqs := x.reqs.map (fun q => if q == r then { q with idx := n, waiting := false } else q) })

theorem State.mem_prgGranted (s : State) {port : Nat} (n : Nat) {r : HostReq} (hr : r ∈ (s.port port).reqs) :
    { r with idx := n, waiting := false } ∈ ((s.prgGranted port n r).port port).reqs := by
  rw [State.prgGranted, State.updPort_port_same]
  exact List.mem_map.mpr ⟨r, hr, if_pos (beq_self_eq_true r)⟩

theorem exec_prgIndexGrant {s : State} {port : Fin 4} {n : Nat} {r : HostReq} (hfree : (s.port port.val).prgFree = some n)
    (hr : (s.port port.val).reqs.find? (fun r => r.prg && r.waiting) = some r) (hstale : r.stale = false) (hlive : s.live r.ctx = true) :
    exec (.prgIndexGrant port) s = .next ((s.prgGranted port.val n r).emit (r.message port.val n)) := by
  have hacts : ¬ (r.stale || !s.live r.ctx) = true := by simp [hstale, hlive]
  refine congrArg Host.Outcome.next ?_
  unfold stepPrgIndexGrant
  dsimp only
  rw [hfree, hr]
  exact if_neg hacts

section
variable {s : State} {port : Fin 4} {idx : Nat} {r : HostReq}
  (hr : (s.port port.val).reqs.find? (fun q => q.prg && !q.waiting && q.idx == idx && q.pasid == r.pasid) = some r)
  (hstale : r.stale = false) (hlive : s.live r.ctx = true)
include hr hstale hlive

/-- The page is there: a stalled queue goes on. -/
theorem exec_prgResponse_queue {x : Fin 4} (hagent : r.agent = .queue x) : exec (.prgResponse port idx ⟨r.pasid, .success⟩) s =
    .next (((s.dropReq port.val r).atcDrop r.ctx r.hua).updQueue r.ctx.part r.ctx.ctx x.val (fun q => { q with stalled := none })) := by
  refine congrArg Host.Outcome.next ?_
  simp only [stepPrgResponse, hr, State.dropReq_acts hstale hlive, hagent, Bool.false_eq_true, if_false]

/-- The page is there: a descriptor that stopped for it is resumed, and counts its tries for the page. -/
theorem exec_prgResponse_engine {e : Fin 4} {d : Fin 16} {page : Nat} (hagent : r.agent = .engine e d)
    (howner : (s.desc r.cluster e.val d.val).owner = some r.ctx) (hst : (s.desc r.cluster e.val d.val).st = .stopped)
    (hlast : (s.desc r.cluster e.val d.val).lastStatus = 0x67) (hwait : (s.descX r.cluster e.val d.val).engWait = false)
    (hpage : 2 * (r.va / 4096) + b2n r.write = page) :
    exec (.prgResponse port idx ⟨r.pasid, .success⟩) s = .next ((((s.dropReq port.val r).atcDrop r.ctx r.hua).updDescX r.cluster e.val d.val
      (fun y => { y with triesVa := page, triesN := if y.triesVa == page then y.triesN + 1 else 1 })).enterActive
        r.cluster e.val d.val 2 none 0 none) := by
  subst hpage
  have hsame : ((s.dropReq port.val r).atcDrop r.ctx r.hua).desc r.cluster e.val d.val = s.desc r.cluster e.val d.val ∧
      ((s.dropReq port.val r).atcDrop r.ctx r.hua).descX r.cluster e.val d.val = s.descX r.cluster e.val d.val := ⟨rfl, rfl⟩
  refine congrArg Host.Outcome.next ?_
  simp only [stepPrgResponse, hr, State.dropReq_acts hstale hlive, hagent, hsame, howner, hst, hlast, hwait, beq_self_eq_true,
    Bool.not_false, Bool.and_self, Bool.false_eq_true, if_false, if_true]

theorem exec_prgResponse_failure {code : PrgCode} (hcode : code ≠ .success) :
    exec (.prgResponse port idx ⟨r.pasid, code⟩) s = .next ((s.dropReq port.val r).prgFailed r 0x68) := by
  refine congrArg Host.Outcome.next ?_
  cases code with
  | success => exact absurd rfl hcode
  | invalid | failure => simp only [stepPrgResponse, hr, State.dropReq_acts hstale hlive, Bool.false_eq_true, if_false]

end

theorem exec_prgTimeout {s : State} {port : Fin 4} {idx : Nat} {r : HostReq}
    (hr : (s.port port.val).reqs.find? (fun q => q.prg && !q.waiting && q.idx == idx) = some r) (hstale : r.stale = false)
    (hlive : s.live r.ctx = true) : exec (.prgTimeout port idx) s = .next ((s.dropReq port.val r).prgFailed r 0x6B) := by
  refine congrArg Host.Outcome.next ?_
  simp only [stepPrgTimeout, hr, State.dropReq_acts hstale hlive, Bool.false_eq_true, if_false]

/-! ATS invalidations (08 R195, R197). -/

theorem exec_atsInvalidateRequest_taken {s : State} {port : Fin 4} (hroom : (s.port port.val).invals.length < 32) (pasid : Option Nat)
    (va len : Nat) : exec (.atsInvalidateRequest port pasid va len) s = .next (s.updPort port.val (fun x =>
      { x with invals := x.invals ++ [(pasid, va, len)] })) :=
  congrArg Host.Outcome.next (if_neg (Nat.not_le.mpr hroom))

/-- A port whose invalidation idx is done: the translations that it names are gone. -/
def Port.invalDone (x : Port) (idx : Nat) (pasid : Option Nat) (va len : Nat) : Port :=
  { x with
    invals := x.invals.eraseIdx idx
    atc := x.atc.filter (fun a => !(a.pasid == pasid && overlaps a.va (2 ^ a.size) va len)) }

theorem Port.outside_of_mem_invalDone {x : Port} {idx va len : Nat} {pasid : Option Nat} {a : AtcEntry}
    (ha : a ∈ (x.invalDone idx pasid va len).atc) (hpasid : a.pasid = pasid) : overlaps a.va (2 ^ a.size) va len = false := by
  simpa [hpasid] using (List.mem_filter.mp ha).2

theorem exec_atsInvalidateCompletion {s : State} {port : Fin 4} {idx va len : Nat} {pasid : Option Nat}
    (hinval : (s.port port.val).invals[idx]? = some (pasid, va, len)) (huse : s.hostPagesUsed port.val pasid va len = false) :
    exec (.atsInvalidateCompletion port idx) s = .next ((s.updPort port.val (·.invalDone idx pasid va len)).emit
      (.atsDone port.val pasid va)) := by
  refine congrArg Host.Outcome.next ?_
  simp only [stepAtsInvalidateCompletion, hinval, huse, Bool.false_eq_true, if_false]
  rfl

/-- Settles O19: each completion, response, timeout and invalidation by its rule. -/
theorem hostTranslations : Obligations.HostTranslations := by
  refine fun s port idx => ⟨fun r hr hstale hlive => ⟨fun hpa k size w hwrite hk => ?translated,
    exec_atsTranslationCompletion_fault hr hstale hlive, exec_translationCompletionTimeout hr hstale hlive⟩,
    fun s r late => ⟨fun e d hagent howner hst hstop => State.hostFault_engine hagent howner hst hstop late,
      fun x hagent => ⟨State.hostFault_queue_late hagent s, State.hostFault_queue_asks hagent s⟩⟩,
    fun n r hfree hr hstale hlive => ?grant,
    fun r hr hstale hlive => ⟨fun x => exec_prgResponse_queue hr hstale hlive, fun e d page => exec_prgResponse_engine hr hstale hlive,
      fun code => exec_prgResponse_failure hr hstale hlive⟩,
    fun r => exec_prgTimeout,
    fun s r status => ⟨fun e d hagent howner hst hlast => ?failed, fun x hagent => State.prgFailed_queue hagent s status⟩,
    fun pasid va len hroom => ?request, fun pasid va len hinval huse => ?completion⟩
  case translated =>
    subst hk
    exact ⟨_, exec_atsTranslationCompletion_translated hr hstale hlive hwrite, State.mem_atcAdd _ _ (r.entry hpa (12 + size.val) w),
      (State.atcAdd_reqs _ _ _).trans (s.dropReq_reqs _ r), rfl⟩
  case grant =>
    exact ⟨_, exec_prgIndexGrant hfree hr hstale hlive, s.mem_prgGranted n (List.mem_of_find?_eq_some hr), rfl, rfl⟩
  case failed =>
    rw [State.prgFailed_engine hagent howner hst hlast]
    exact ⟨by simp, rfl⟩
  case request =>
    exact ⟨_, exec_atsInvalidateRequest_taken hroom pasid va len, by rw [State.updPort_port_same], rfl, rfl⟩
  case completion =>
    have hport : ((s.updPort port.val (·.invalDone idx pasid va len)).emit (.atsDone port.val pasid va)).port port.val =
        (s.port port.val).invalDone idx pasid va len := tget_tset_same _ _ _ _
    refine ⟨_, exec_atsInvalidateCompletion hinval huse, ?_, fun a ha => ?_, rfl, rfl⟩
    · rw [hport]
      rfl
    · rw [hport] at ha
      exact Port.outside_of_mem_invalDone ha

end Sys2Proof.Machine
end

section
/-! SUPPORT. The message instructions of a tile's thread, one rule per outcome, and the statement about them (09 R209-R217, R220). -/
namespace Sys2Proof.Machine

/-! SEND (09 R209-R211, R214). -/

/-- A SEND answers in its slot whether its channel takes the descriptor. -/
def State.sendAnswer (s : State) (ta th cy : Nat) (a : Bool) : State :=
  ((s.updThread ta th (fun y => { y with accept := a })).issueOnly ta th cy).drew 6

theorem State.sendAnswer_accept (s : State) (ta th cy : Nat) (a : Bool) : (((s.sendAnswer ta th cy a).tile ta).thread th).accept = a := by
  rw [State.sendAnswer, State.drew_tile, State.issueOnly_thread, State.updThread_tile_same, Tile.updThread_same]
  rfl

section
variable {s : State} {t : TileId} {th : Fin 4} {b cy : Nat} {i : CtxId} (h : s.canIssue (tileKey t) th.val = some (b, cy))

section
variable (howner : (s.bat (taC (tileKey t)) b).owner = some i) {chan : Fin 16} {sB : Fin 32} (hpos : 0 < sB.val) (htop : sB.val ≤ 24)
include h howner hpos htop

theorem exec_send_refused (htakes : (s.channel (tileKey t) chan.val).takes i = false) :
    exec (.send t th chan sB) s = .next (s.sendAnswer (tileKey t) th.val cy false) := by
  refine congrArg Host.Outcome.next ?_
  simp [stepSend, h, howner, htakes, hpos.ne', htop, State.sendAnswer]

section
variable {p : Nat} (htakes : (s.channel (tileKey t) chan.val).takes i = true) (hp : s.regs8 (tileKey t) th.val sB.val cy = p)
include htakes hp

theorem exec_send_message (hkind : dKind p = 0) : exec (.send t th chan sB) s =
    .next ((s.sendOn (tileKey t) chan.val i p []).sendAnswer (tileKey t) th.val cy true) := by
  refine congrArg Host.Outcome.next ?_
  simp [stepSend, h, howner, htakes, hpos.ne', htop, hp, hkind, State.sendAnswer]

/-- A PUT or COMBINE goes with the bytes of its source as the thread sees them. -/
theorem exec_send_withData {l : List (Nat × Nat)} (hok : sendOk p (s.channel (tileKey t) chan.val).destCq = true)
    (hkind : dKind p = 1 ∨ dKind p = 2) (hl : regionPieces (s.bat (taC (tileKey t)) b).regions 18 (dAddr p) (dLen p) = some l)
    (hclean : ∀ q ∈ l, s.poisoned q.1 q.2 = false) : exec (.send t th chan sB) s = .next ((s.sendOn (tileKey t) chan.val i p
      (l.flatMap (fun q => s.pieceSeen (s.tile (tileKey t)).ctl.portQ q.1 q.2))).sendAnswer (tileKey t) th.val cy true) := by
  have hdata : (dKind p == 1 || dKind p == 2) = true := by simpa using hkind
  have hpoison : l.any (fun q => s.poisoned q.1 q.2) = false := List.any_eq_false.mpr fun q hq => by simp [hclean q hq]
  refine congrArg Host.Outcome.next ?_
  simp [stepSend, h, howner, htakes, hpos.ne', htop, hp, hok, hdata, hl, hpoison, State.sendAnswer]

end
end

/-! RECV, QCOUNT and CPOP (09 R212, R213, R216). -/

section
include h

theorem exec_recv_head (howner : (s.bat (taC (tileKey t)) b).owner = some i) {q : Fin 16} {sB : Fin 32} {e : RxEntry} {rest : List RxEntry}
    (htop : sB.val ≤ 24) (hentries : (s.rxq (tileKey t) q.val).entries = e :: rest) (hctx : (s.rxq (tileKey t) q.val).ctx = some i) :
    exec (.recv t th q sB) s = .next ((((s.updRxq (tileKey t) q.val (fun z => { z with entries := rest })).returnEntry (tileKey t) (some i) e
      St.posted).updThread (tileKey t) th.val (fun z => z.setRegs8 sB.val e.data cy)).issueOnly (tileKey t) th.val cy) := by
  refine congrArg Host.Outcome.next ?_
  simp [stepRecv, h, htop.not_gt, hentries, hctx, howner]

theorem exec_recv_empty {q : Fin 16} {sB : Fin 32} (htop : sB.val ≤ 24) (hentries : (s.rxq (tileKey t) q.val).entries = []) :
    exec (.recv t th q sB) s = .next ((s.issueOnly (tileKey t) th.val cy).faultOn (tileKey t) b [St.lateData] (tileDetail th.val 0 0 0) 0) := by
  refine congrArg Host.Outcome.next ?_
  simp only [stepRecv, h, if_neg htop.not_gt, hentries]

theorem exec_qcount (howner : (s.bat (taC (tileKey t)) b).owner = some i) (q : Fin 16) (sD : Fin 32) :
    exec (.qcount t th q sD) s = .next (s.issueReg (tileKey t) th.val cy sD.val (BitVec.ofNat 32
      (if (s.rxq (tileKey t) q.val).ctx = some i then (s.rxq (tileKey t) q.val).entries.length else 0))) := by
  refine congrArg Host.Outcome.next ?_
  simp only [stepQcount, h, howner, beq_iff_eq]

theorem exec_cpop_empty {sB : Fin 32} (htop : sB.val ≤ 24) (hcq : tget s.msg.cqs (tileKey t) [] = []) : exec (.cpop t th sB) s =
    .next ((s.updThread (tileKey t) th.val (fun z => z.setRegs8 sB.val 0 cy)).issueOnly (tileKey t) th.val cy) := by
  refine congrArg Host.Outcome.next ?_
  simp only [stepCpop, h, if_neg htop.not_gt, hcq]

/-- The oldest completion entry leaves its queue, alone of all the queues, and frees its window slot. -/
theorem exec_cpop_entry {sB : Fin 32} {e : Nat} {rest : List Nat} (htop : sB.val ≤ 24) (hcq : tget s.msg.cqs (tileKey t) [] = e :: rest) :
    ∃ u, exec (.cpop t th sB) s = .next u ∧ tget u.msg.cqs (tileKey t) [] = rest ∧
      (∀ k, k ≠ tileKey t → tget u.msg.cqs k [] = tget s.msg.cqs k []) ∧ u.mem = s.mem ∧
      ((u.tile (tileKey t)).thread th.val).lastIssue = some cy := by
  have hstep : stepCpop t th sB s = ((({ s with msg := { s.msg with cqs := tset s.msg.cqs (tileKey t) rest } } : State).freeSlot (tileKey t)
      (dSrcCh e) (if e.testBit 256 then noSeq else dSeq e)).updThread (tileKey t) th.val (fun z => z.setRegs8 sB.val e cy)).issueOnly
        (tileKey t) th.val cy := by
    simp only [stepCpop, h, if_neg htop.not_gt, hcq]
  refine ⟨_, congrArg Host.Outcome.next hstep, tget_tset_same _ _ _ _, fun k hk => tget_tset_ne _ _ _ hk, rfl, ?_⟩
  rw [State.issueOnly_thread, Thread.issued_lastIssue]

end

end

/-! CQARM (09 R220). -/

theorem State.updComb_comb_same (s : State) (c q : Nat) (f : CombQueue → CombQueue) : (s.updComb c q f).comb c q = f (s.comb c q) :=
  tget_tset_same _ _ _ _

/-- An idle combining queue whose notification is gone is armed, for no context in particular or for the one it was opened for. -/
theorem State.armComb_idle {s : State} {c q : Nat} {j : Option CtxId} (hst : (s.comb c q).st = 1) (hj : j = none ∨ (s.comb c q).ctx = j)
    (hpending : (s.comb c q).pending = false) :
    s.armComb c q j = (s.updComb c q (fun y => { y with st := 2, count := 0, staged := [] }), 0) := by
  have hmine : (j.isSome && (s.comb c q).ctx != j) = false := by
    rcases hj with rfl | rfl <;> simp
  simp [State.armComb, hst, hmine, hpending]

theorem exec_cqarm_idle {s : State} {t : TileId} {th : Fin 4} {b cy : Nat} {i : CtxId} {q : Fin 32}
    (h : s.canIssue (tileKey t) th.val = some (b, cy)) (howner : (s.bat (taC (tileKey t)) b).owner = some i)
    (hst : (s.comb (taC (tileKey t)) q.val).st = 1) (hctx : (s.comb (taC (tileKey t)) q.val).ctx = some i)
    (hpending : (s.comb (taC (tileKey t)) q.val).pending = false) :
    exec (.cqarm t th q) s = .next ((s.updComb (taC (tileKey t)) q.val (fun y => { y with st := 2, count := 0, staged := [] })).issueOnly
      (tileKey t) th.val cy) := by
  refine congrArg Host.Outcome.next ?_
  simp only [stepCqarm, h, howner, State.armComb_idle hst (.inr hctx) hpending, if_true]

/-- Settles O20: each instruction by its outcomes. -/
theorem messageInstructions : Obligations.MessageInstructions := by
  refine fun s t th b cy i h howner => ⟨fun chan sB hpos htop => ⟨fun htakes => ?refused, fun p => exec_send_message h howner hpos htop,
    fun p l htakes hp => exec_send_withData h howner hpos htop htakes hp⟩, fun q sB e rest => exec_recv_head h howner,
    fun q sB => exec_recv_empty h, exec_qcount h howner,
    fun sB htop => ⟨exec_cpop_empty h htop, fun e rest => exec_cpop_entry h htop⟩, fun q hst hctx hpending => ?armed⟩
  case refused =>
    exact ⟨_, exec_send_refused h howner hpos htop htakes, State.sendAnswer_accept _ _ _ _ _, rfl, rfl, rfl⟩
  case armed =>
    have hcomb : ∀ u : State, (u.issueOnly (tileKey t) th.val cy).comb = u.comb := fun _ => rfl
    refine ⟨_, exec_cqarm_idle h howner hst hctx hpending, ?_, ?_, rfl⟩ <;> rw [hcomb, State.updComb_comb_same]

end Sys2Proof.Machine
end

section
/-! SUPPORT. The operations of CLU_MSG_CTL, one rule per operation, and the statement about them (09 R207, R208, R218-R220, R229). -/
namespace Sys2Proof.Machine

/-! The written value names the operation with GO, and keeps its other fields. -/

theorem mcWith_toNat {n : Nat} (hn : n < 8) (v : Dword) : (mcWith n v).toNat = v.toNat / 16 * 16 + (1 + 2 * n) := by
  have hv := v.isLt
  rw [mcWith, setField, BitVec.toNat_ofNat]
  omega

/-- A field above the operation is as written. -/
theorem bf_mcWith {n lo : Nat} (hn : n < 8) (hlo : 4 ≤ lo) (v : Dword) (w : Nat) : bf (mcWith n v) lo w = bf v lo w := by
  obtain ⟨k, rfl⟩ := Nat.exists_eq_add_of_le hlo
  have hhigh : (v.toNat / 16 * 16 + (1 + 2 * n)) / 2 ^ 4 = v.toNat / 2 ^ 4 := by omega
  simp only [bf, field, mcWith_toNat hn, pow_add, ← Nat.div_div_eq_div_mul, hhigh]

theorem mcOp_mcWith {n : Nat} (hn : n < 8) (v : Dword) : mcOp (mcWith n v) = n := by
  rw [mcOp, bf, field, mcWith_toNat hn]
  omega

theorem mcWith_go {n : Nat} (hn : n < 8) (v : Dword) : (mcWith n v).toNat.testBit 0 = true := by
  rw [Nat.testBit_zero, decide_eq_true_eq, mcWith_toNat hn]
  omega

/-- An owner's write with GO performs its operation, and shows its fields and RESULT. -/
theorem State.msgWrite_performs {s s1 : State} {fn : Fn} {c res : Nat} {v : Dword} (hown : s.ownsC fn c = true)
    (hreset : s.resettingC c = false) (hgo : v.toNat.testBit 0 = true) (hperform : s.msgPerform c v = (s1, res)) :
    s.msgWrite fn c v = s1.updClX c (fun x => { x with msgCtl := BitVec.ofNat 64 (bf v 1 51 * 2 + res * 2 ^ 56) }) := by
  simp only [State.msgWrite, State.gateC, hown, hreset, hgo, hperform, Bool.not_true, Bool.false_eq_true, if_false]

/-! What each operation does, by whether its queue or channel is open. -/

theorem State.msgPerform_reserved {s : State} {c p : Nat} {v : Dword} (hp : s.partOf c = some p)
    (hres : s.mcReserved c (s.part p).strict v = true) : s.msgPerform c v = (s, St.reservedNonzero) := by
  simp only [State.msgPerform, hp, Option.getD_some, hres, if_true]

section
variable {s : State} {c p : Nat} {v : Dword} (hp : s.partOf c = some p) (hres : s.mcReserved c (s.part p).strict v = false)
include hp hres

/-- Nothing opens for a context that is not live. -/
theorem State.msgPerform_notLive (hop : mcOp v = 0 ∨ mcOp v = 3 ∨ mcOp v = 5) (hlive : s.live (s.ident p (mcContext v)) = false) :
    s.msgPerform c v = (s, St.contextState) := by
  have hopen : (mcOp v == 0 || mcOp v == 3 || mcOp v == 5) = true := by simpa [or_assoc] using hop
  simp only [State.msgPerform, hp, Option.getD_some, hres, hopen, hlive, Bool.false_eq_true, if_false, Bool.not_false, Bool.or_true,
    Bool.and_self, if_true]

section
variable (hlive : s.live (s.ident p (mcContext v)) = true)
include hlive

theorem State.msgPerform_openQueue (hop : mcOp v = 0) : s.msgPerform c v =
    if (s.rxq (mcTaddr v) (mcIndex v)).opened = true then (s, St.queueOpen) else (s.updRxq (mcTaddr v) (mcIndex v) (fun x => { x with
      opened := true, ctx := some (s.ident p (mcContext v)), gen := wrapAdd 8 x.gen 1, entries := [], parts := [], ends := []
      reserved := 0, windows := [], markers := [], received := 0, empty := 0 }), 0) := by
  simp [State.msgPerform, hp, hres, hlive, hop]

theorem State.msgPerform_openChannel (hop : mcOp v = 3) : s.msgPerform c v =
    if (s.channel (mcTaddr v) (mcIndex v)).opened = true then (s, St.queueOpen)
    else s.openChan (mcTaddr v) (mcIndex v) (s.ident p (mcContext v)) v := by
  simp [State.msgPerform, hp, hres, hlive, hop]

theorem State.msgPerform_openCombining (hop : mcOp v = 5) : s.msgPerform c v =
    if (s.comb c (mcIndex v)).st = 0 then s.openComb c (mcIndex v) (s.ident p (mcContext v)) (s.part p).strict else (s, St.queueOpen) := by
  by_cases hst : (s.comb c (mcIndex v)).st = 0 <;> simp [State.msgPerform, hp, hres, hlive, hop, hst]

end

theorem State.msgPerform_closeQueue (hop : mcOp v = 1) : s.msgPerform c v =
    if (s.rxq (mcTaddr v) (mcIndex v)).opened = true then (s.closeRx (mcTaddr v) (mcIndex v), 0) else (s, St.readerGone) := by
  simp [State.msgPerform, hp, hres, hop]

theorem State.msgPerform_flushQueue (hop : mcOp v = 2) : s.msgPerform c v =
    if (s.rxq (mcTaddr v) (mcIndex v)).opened = true then (s.flushRx (mcTaddr v) (mcIndex v), 0) else (s, St.readerGone) := by
  simp [State.msgPerform, hp, hres, hop]

theorem State.msgPerform_closeChannel (hop : mcOp v = 4) : s.msgPerform c v =
    if (s.channel (mcTaddr v) (mcIndex v)).opened = true then (s.closeChan (mcTaddr v) (mcIndex v), 0) else (s, St.readerGone) := by
  simp [State.msgPerform, hp, hres, hop]

theorem State.msgPerform_closeCombining (hop : mcOp v = 6) : s.msgPerform c v =
    if (s.comb c (mcIndex v)).st = 0 then (s, St.readerGone) else (s.closeComb c (mcIndex v), 0) := by
  by_cases hst : (s.comb c (mcIndex v)).st = 0 <;> simp [State.msgPerform, hp, hres, hop, hst]

theorem State.msgPerform_armCombining (hop : mcOp v = 7) : s.msgPerform c v = s.armComb c (mcIndex v) none := by
  simp [State.msgPerform, hp, hres, hop]

end

theorem State.armComb_closed {s : State} {c q : Nat} (hst : (s.comb c q).st = 0) (j : Option CtxId) : s.armComb c q j = (s, St.readerGone) := by
  simp [State.armComb, hst]

/-! A channel opens and closes, and a queue closes (09 R207, R208). -/

theorem State.updChannel_channel_same (s : State) (ta n : Nat) (f : Channel → Channel) :
    (s.updChannel ta n f).channel ta n = f (s.channel ta n) := tget_tset_same _ _ _ _

theorem State.updRxq_rxq_same (s : State) (ta n : Nat) (f : RxQueue → RxQueue) : (s.updRxq ta n f).rxq ta n = f (s.rxq ta n) :=
  tget_tset_same _ _ _ _

/-- A send channel opened for a context on a receive queue in a generation of it, with the window and destination written. -/
def Channel.boundTo (x : Channel) (i : CtxId) (v : Dword) (gen : Nat) : Channel :=
  { x with
    opened := true, ctx := some i, gen, inc := x.inc + 1, dest := mcDest v, destQ := mcDestQ v, destCq := false, window := mcWindow v, seq := 0
    inFlight := [], sent := 0, stall := 0 }

/-- A receive queue with the entries of one more channel's window reserved. -/
def RxQueue.reserve (x : RxQueue) (key w : Nat) : RxQueue := { x with reserved := x.reserved + w, windows := tset x.windows key w }

theorem State.openChan_toQueue {s : State} {ta n : Nat} {i : CtxId} {v : Dword} (hcq : mcDestCq v = false)
    (hopen : (s.rxq (mcDest v) (mcDestQ v)).opened = true) (hctx : (s.rxq (mcDest v) (mcDestQ v)).ctx = some i)
    (hroom : s.rxTaken (mcDest v) (mcDestQ v) + mcWindow v ≤ 64) : s.openChan ta n i v =
      ((s.updRxq (mcDest v) (mcDestQ v) (·.reserve ((s.channel ta n).inc * 131072 + 131072 + ta * 16 + n) (mcWindow v))).updChannel ta n
        (·.boundTo i v (s.rxq (mcDest v) (mcDestQ v)).gen), 0) := by
  simp only [State.openChan, hcq, hopen, hctx, if_neg hroom.not_gt, Bool.not_true, bne_self_eq_false, Bool.or_self, Bool.false_eq_true, if_false]
  rfl

theorem State.closeChan_channel (s : State) (ta n : Nat) : ∃ y : Channel,
    (s.closeChan ta n).channel ta n = { y with opened := false, inFlight := [] } := ⟨_, tget_tset_same _ _ _ _⟩

theorem State.closeRx_rxq (s : State) (ta q : Nat) : ∃ y : RxQueue, (s.closeRx ta q).rxq ta q =
    { y with opened := false, entries := [], parts := [], ends := [], reserved := 0, windows := [], markers := [] } :=
  ⟨_, tget_tset_same _ _ _ _⟩

/-- Settles O21: the write, then each operation done and each refused. -/
theorem messageControl : Obligations.MessageControl := by
  refine ⟨?write, fun v n hn => ⟨mcOp_mcWith hn v, mcWith_go hn v, bf_mcWith hn (by decide) v 13, bf_mcWith hn (by decide) v 5⟩,
    ?done, ?refused, ?opened, fun s ta n => ?channelClosed, fun s ta q => ?queueClosed⟩
  case write =>
    rintro s s1 fn c val n res hown hreset hn hperform u rfl
    have hwrite := State.msgWrite_performs ((s.unlatch_ownsC fn fn c).trans hown) ((s.unlatch_resettingC fn c).trans hreset)
      (mcWith_go hn val) hperform
    refine ⟨?_, ?_, ?_, ?_, ?_, ?_, ?_, ?_⟩ <;> (rintro rfl; exact congrArg Host.Outcome.next hwrite)
  case done =>
    rintro s c p ta n v hp rfl rfl hres
    refine ⟨fun hop hlive hopen => ?_, fun hop hlive hopen => ?_, fun hop hopen => ?_, fun hop hopen => ?_, fun hop hlive hopen => ?_,
      fun hop hopen => ?_, fun hop hlive hst => ?_, fun hop hst => ?_, fun hop hst hpending => ?_⟩
    · rw [State.msgPerform_openQueue hp hres hlive hop, if_neg (ne_true_of_eq_false hopen)]
    · rw [State.msgPerform_openQueue hp hres hlive hop, if_pos hopen]
    · rw [State.msgPerform_closeQueue hp hres hop, if_pos hopen]
    · rw [State.msgPerform_flushQueue hp hres hop, if_pos hopen]
    · rw [State.msgPerform_openChannel hp hres hlive hop, if_neg (ne_true_of_eq_false hopen)]
    · rw [State.msgPerform_closeChannel hp hres hop, if_pos hopen]
    · rw [State.msgPerform_openCombining hp hres hlive hop, if_pos hst]
    · rw [State.msgPerform_closeCombining hp hres hop, if_neg hst]
    · rw [State.msgPerform_armCombining hp hres hop, State.armComb_idle hst (.inl rfl) hpending]
      exact ⟨rfl, by rw [State.updComb_comb_same]⟩
  case refused =>
    rintro s c p ta n v hp rfl rfl
    refine ⟨State.msgPerform_reserved hp, fun hres => ⟨State.msgPerform_notLive hp hres, fun hop hlive hopen => ?_, fun hop hlive hst => ?_,
      fun hop hopen => ?_, fun hop hopen => ?_, fun hop hst => ?_⟩⟩
    · rw [State.msgPerform_openChannel hp hres hlive hop, if_pos hopen]
    · rw [State.msgPerform_openCombining hp hres hlive hop, if_neg hst]
    · rcases hop with hop | hop
      · rw [State.msgPerform_closeQueue hp hres hop, if_neg (ne_true_of_eq_false hopen)]
      · rw [State.msgPerform_flushQueue hp hres hop, if_neg (ne_true_of_eq_false hopen)]
    · rw [State.msgPerform_closeChannel hp hres hop, if_neg (ne_true_of_eq_false hopen)]
    · rcases hop with hop | hop
      · rw [State.msgPerform_closeCombining hp hres hop, if_pos hst]
      · rw [State.msgPerform_armCombining hp hres hop, State.armComb_closed hst]
  case opened =>
    intro s ta n i v hcq hopen hctx hroom
    refine ⟨_, State.openChan_toQueue hcq hopen hctx hroom, ?_⟩
    have hrxq : ∀ (t : State) (f : Channel → Channel), (t.updChannel ta n f).rxq = t.rxq := fun _ _ => rfl
    rw [State.updChannel_channel_same, hrxq, State.updRxq_rxq_same]
    exact ⟨rfl, rfl, rfl, rfl, rfl, rfl, rfl⟩
  case channelClosed =>
    obtain ⟨y, hy⟩ := s.closeChan_channel ta n
    rw [hy]
    exact ⟨rfl, rfl⟩
  case queueClosed =>
    obtain ⟨y, hy⟩ := s.closeRx_rxq ta q
    rw [hy]
    exact ⟨rfl, rfl⟩

end Sys2Proof.Machine
end

section
/-! SUPPORT. Descriptors at their destination, one rule per kind and outcome, and the statement about them (09 R212-R222, 10 R232). -/
namespace Sys2Proof.Machine

/-! Packets that leave the mesh change nothing else. -/

theorem State.leaveBuffer_frame {β : Type} {g : State → β} (hg : ∀ (u : State) (m : Mesh), g { u with mesh := m } = g u) (s : State)
    (p : Packet) : g (s.leaveBuffer p) = g s := by
  unfold State.leaveBuffer
  split
  · exact hg _ _
  · rfl

theorem State.dropWhere_frame {β : Type} {g : State → β} (hg : ∀ (u : State) (m : Mesh), g { u with mesh := m } = g u) (s : State)
    (pick : Packet → Bool) : g (s.dropWhere pick) = g s :=
  (State.each_frame g (State.leaveBuffer_frame hg) _).trans (hg _ _)

@[simp] theorem State.dropPacket_msg (s : State) (id : Nat) : (s.dropPacket id).msg = s.msg := State.dropWhere_frame (fun _ _ => rfl) s _
@[simp] theorem State.dropPacket_mem (s : State) (id : Nat) : (s.dropPacket id).mem = s.mem := State.dropWhere_frame (fun _ _ => rfl) s _
@[simp] theorem State.dropPacket_tiles (s : State) (id : Nat) : (s.dropPacket id).tiles = s.tiles :=
  State.dropWhere_frame (fun _ _ => rfl) s _

/-! At the destination tile (09 R214-R218). -/

section
variable {s : State} {id : Nat} {p : Packet} (h : s.arrivedDesc id 1 = some p)

include h in
theorem exec_descriptorArrival_refused {st : Nat} (hkind : dKind p.payload ≠ 2) (hrefuses : s.rxRefuses p = some st) :
    exec (.descriptorArrival id) s = .next (s.refuseGroup p st) := by
  refine congrArg Host.Outcome.next ?_
  simp [stepDescriptorArrival, h, hkind, hrefuses]

section
variable (htaken : s.rxRefuses p = none) {i : CtxId} (hctx : p.ctx = some i)
include h htaken hctx

/-- A MSG that the device generated is an item by itself. -/
theorem exec_descriptorArrival_notice (hkind : dKind p.payload = 0) (hsys : dSys p.payload = true) : exec (.descriptorArrival id) s =
    .next ((s.dropPacket id).updRxq (dDest p.payload) (dDestQ p.payload) (fun x => { x with
      entries := x.entries ++ [{ data := descOnly p.payload, inc := p.back, first := true }], received := wrapAdd 32 x.received 1 })) := by
  refine congrArg Host.Outcome.next ?_
  simp [stepDescriptorArrival, h, hkind, htaken, hctx, hsys]

/-- A MSG of a tile is a part of an item of its channel. -/
theorem exec_descriptorArrival_message (hkind : dKind p.payload = 0) (hsys : dSys p.payload = false) : exec (.descriptorArrival id) s =
    .next (((s.dropPacket id).updRxq (dDest p.payload) (dDestQ p.payload) (fun x =>
      { x.know (chanKey p.payload p.back) (dSeq p.payload) false (!dMore p.payload) with
        parts := x.parts ++ [{ data := descOnly p.payload, inc := p.back, first := false }] })).settle (dDest p.payload) (dDestQ p.payload)
      (chanKey p.payload p.back) ((s.rxq (dDest p.payload) (dDestQ p.payload)).itemLimit (chanKey p.payload p.back))) := by
  refine congrArg Host.Outcome.next ?_
  simp [stepDescriptorArrival, h, hkind, htaken, hctx, hsys]

theorem exec_descriptorArrival_put (hkind : dKind p.payload = 1) : exec (.descriptorArrival id) s = .next (s.putArrives p i) := by
  refine congrArg Host.Outcome.next ?_
  simp [stepDescriptorArrival, h, hkind, htaken, hctx]

end
end

/-! A packet of a PUT (09 R214, R215). -/

section
variable {s s1 : State} {p : Packet} {i : CtxId}

theorem State.putArrives_sourceTier (hpieces : s.putPieces (taC (dDest p.payload)) i 4 (field (dArg p.payload) 0 48 + p.off)
    (min 2048 (dLen p.payload - p.off)) = (s1, .error St.sourceTier)) :
    s.putArrives p i = (if s1.firstPart p = true then s1.putKnown p else s1).refuseGroup p St.sourceTier := by
  simp only [State.putArrives, hpieces, beq_self_eq_true, if_true]

section
variable {l : List (Nat × Nat)} (hpieces : s.putPieces (taC (dDest p.payload)) i 4 (field (dArg p.payload) 0 48 + p.off)
  (min 2048 (dLen p.payload - p.off)) = (s1, .ok l))
include hpieces

/-- The packet waits for a lock over its part of the destination. -/
theorem State.putArrives_locked (hlock : ∃ e ∈ l, s1.locked e.1 e.2 true none = true) : s.putArrives p i = s1 := by
  simp only [State.putArrives, hpieces, List.any_eq_true.mpr hlock, if_true]

theorem State.putArrives_writes {s2 : State} (hfree : ∀ e ∈ l, s1.locked e.1 e.2 true none = false)
    (hreach : s1.reachAll (taC (dDest p.payload)) i 1 (dSrc p.payload) (l.map (·.1)) = (s2, 0))
    (hclean : ∀ e ∈ l, s2.partPoison e.1 e.2 = false) {s3 : State}
    (hwritten : s2.writePieces l (leBytes (min 2048 (dLen p.payload - p.off)) (dData p.payload)) = s3) :
    s.putArrives p i = (if s3.firstPart p = true then s3.putKnown p else s3).setPacket p.id (fun y => { y with kind := 3, fault := 0 }) := by
  have hlock : l.any (fun e => s1.locked e.1 e.2 true none) = false := List.any_eq_false.mpr fun e he => by simp [hfree e he]
  have hpoison : l.any (fun e => s2.partPoison e.1 e.2) = false := List.any_eq_false.mpr fun e he => by simp [hclean e he]
  simp only [State.putArrives, hpieces, hlock, hreach, hpoison, hwritten, Bool.false_eq_true, if_false]

end
end

/-- The PUT is placed when all its packets have acted, and none of them met lost data. -/
theorem exec_putPerformed_whole {s : State} {id : Nat} {p : Packet} (h : s.arrivedDesc id 3 = some p) (htaken : s.rxRefuses p = none)
    (hacted : ∀ g ∈ s.groupOf p.group, g.kind = 3 ∧ g.fault = 0) (hlength : (s.groupOf p.group).length = (dLen p.payload + 2047) / 2048) :
    exec (.putPerformed id) s = .next ((s.dropGroup p.group).updRxq (dDest p.payload) (dDestQ p.payload) (fun x => { x with
      entries := x.entries ++ [{ data := descOnly p.payload, inc := p.back, first := true }], received := wrapAdd 32 x.received 1 })) := by
  have hall : (s.groupOf p.group).all (fun q => q.kind == 3) = true := List.all_eq_true.mpr fun g hg => by simp [(hacted g hg).1]
  have hclean : (s.groupOf p.group).find? (fun q => q.fault != 0) = none := List.find?_eq_none.mpr fun g hg => by simp [(hacted g hg).2]
  refine congrArg Host.Outcome.next ?_
  simp [stepPutPerformed, h, htaken, hall, hlength, hclean]

/-! At the sender (09 R212, R213). -/

section
variable {s : State} {id : Nat} {p : Packet} (h : s.arrivedDesc id 2 = some p)
  (hopen : (s.channel (dSrc p.payload) (dSrcCh p.payload)).opened = true) (hinc : (s.channel (dSrc p.payload) (dSrcCh p.payload)).inc = p.back)
include h hopen hinc

theorem exec_acknowledgement_freesSlot (hposted : dStatus p.payload = St.posted) (hcq : dCq p.payload = false) :
    exec (.acknowledgement id) s = .next ((s.dropPacket id).freeSlot (dSrc p.payload) (dSrcCh p.payload) (dSeq p.payload)) := by
  refine congrArg Host.Outcome.next ?_
  simp [stepAcknowledgement, h, hopen, hinc, hposted, hcq]

/-- A descriptor that asked for an entry, or was not posted, is the newest completion entry of its sender's tile. -/
theorem exec_acknowledgement_entry (hentry : dStatus p.payload ≠ St.posted ∨ dCq p.payload = true) :
    ∃ u, exec (.acknowledgement id) s = .next u ∧
      tget u.msg.cqs (dSrc p.payload) [] = tget s.msg.cqs (dSrc p.payload) [] ++ [descOnly p.payload] ∧ u.msg.chans = s.msg.chans ∧
      u.mem = s.mem ∧ u.tiles = s.tiles := by
  have hkept : (dStatus p.payload == St.posted && !dCq p.payload) = false := by
    rcases hentry with hne | hcq
    · simp [hne]
    · simp [hcq]
  have hstep : stepAcknowledgement id s = { s.dropPacket id with msg := { s.msg with
      cqs := tset s.msg.cqs (dSrc p.payload) (tget s.msg.cqs (dSrc p.payload) [] ++ [descOnly p.payload]) } } := by
    simp [stepAcknowledgement, h, hopen, hinc, hkept]
  exact ⟨_, congrArg Host.Outcome.next hstep, tget_tset_same _ _ _ _, rfl, s.dropPacket_mem id, s.dropPacket_tiles id⟩

end

/-! Contributions (09 R220-R222). -/

/-- A contribution is taken: it goes back as posted, and its round counts it. -/
def State.combTaken (s : State) (p : Packet) : State :=
  ((s.dropGroup p.group).sendBack p.node 4 p.payload p.back p.key p.ctx St.posted).updComb p.node (dDestQ p.payload)
    (fun y => { y with count := y.count + 1 })

theorem State.noneLockedOrLost {s : State} {ws : List (Nat × Nat)}
    (h : ∀ e ∈ ws, s.locked e.1 e.2 true none = false ∧ s.partPoison e.1 e.2 = false) :
    ws.any (fun e => s.locked e.1 e.2 true none) = false ∧ ws.any (fun e => s.partPoison e.1 e.2) = false :=
  ⟨List.any_eq_false.mpr fun e he => by simp [(h e he).1], List.any_eq_false.mpr fun e he => by simp [(h e he).2]⟩

section
variable {s : State} {id : Nat} {p : Packet} {q : CombQueue} (h : s.arrivedDesc id 1 = some p) (hkind : dKind p.payload = 2)
  (hq : s.comb p.node (dDestQ p.payload) = q)
include h hkind hq

section
variable {st : Nat} (hrefuses : s.combRefuses p q = some st)
include hrefuses

theorem exec_combine_refused (hidle : st ≠ St.combineIdle) (hrange : st ≠ St.combineRange) :
    exec (.combine id) s = .next (s.refuseGroup p st) := by
  refine congrArg Host.Outcome.next ?_
  simp [stepCombine, h, hkind, hq, hrefuses, hidle, hrange]

/-- A round that does not run, or has no room for the contribution, counts what it returns. -/
theorem exec_combine_returned (hround : st = St.combineIdle ∨ st = St.combineRange) : exec (.combine id) s =
    .next ((s.updClX p.node (fun y => { y with cqReturns := satAdd 16 y.cqReturns 1 })).refuseGroup p st) := by
  have hcount : (st == St.combineIdle || st == St.combineRange) = true := by simpa using hround
  refine congrArg Host.Outcome.next ?_
  simp [stepCombine, h, hkind, hq, hrefuses, hcount]

end

section
variable {bits : Nat} (htaken : s.combRefuses p q = none) (hbits : s.groupData p = some bits)
  (hfree : ∀ e ∈ combWrites q p.payload, s.locked e.1 e.2 true none = false ∧ s.partPoison e.1 e.2 = false)
include htaken hbits hfree

/-- In the order of arrival, a contribution that is not the round's last is added. -/
theorem exec_combine_added (hstrict : q.strict = false) (hcount : q.count + 1 < combN q.bits) : exec (.combine id) s =
    .next ((s.combTaken p).addElems q.target (combFp q.bits) (field (dArg p.payload) 0 24)
      ((List.range (dLen p.payload / 4)).map (fun j => some (BitVec.ofNat 32 (field bits (32 * j) 32))))) := by
  obtain ⟨hlock, hpoison⟩ := State.noneLockedOrLost hfree
  refine congrArg Host.Outcome.next ?_
  simp [stepCombine, h, hkind, hq, htaken, hbits, hlock, hpoison, hstrict, hcount.ne, State.combTaken]

/-- In strict order, a contribution is staged, and the round's last ends the staging. -/
theorem exec_combine_staged (hstrict : q.strict = true) : exec (.combine id) s =
    .next (((s.combTaken p).each ((List.range (combWrites q p.payload).length).zip (combWrites q p.payload)) (fun v e =>
      v.store e.2.1 (leBytes 4 (field bits (32 * e.1) 32)))).updComb p.node (dDestQ p.payload) (fun y => { y with
        staged := y.staged ++ [{ src := dSrc p.payload, seq := dSeq p.payload, ch := dSrcCh p.payload
                                 elem := field (dArg p.payload) 0 24, slot := q.count, len := dLen p.payload }]
        st := if q.count + 1 = combN q.bits then 3 else 2 })) := by
  obtain ⟨hlock, hpoison⟩ := State.noneLockedOrLost hfree
  refine congrArg Host.Outcome.next ?_
  simp [stepCombine, h, hkind, hq, htaken, hbits, hlock, hpoison, hstrict, State.combTaken]

end
end

/-- Strict summation adds what is staged, in its order, and ends the round. -/
theorem exec_strictSummationDone_full {s : State} {c : Fin 16} {n : Fin 32} {x : CombQueue} (hx : s.comb c.val n.val = x) (hst : x.st = 3) :
    exec (.strictSummationDone c n) s = .next (((s.stagedLost x).each (contribSort x.staged) (fun v k =>
      v.addElems x.target (combFp x.bits) k.elem (v.stagedData x k))).endRound c.val n.val) := by
  refine congrArg Host.Outcome.next ?_
  simp [stepStrictSummationDone, hx, hst]

theorem State.endRound_comb (s : State) (c q : Nat) : (s.endRound c q).comb c q =
    { s.comb c q with st := 1, pending := true, rounds := wrapAdd 24 (s.comb c q).rounds 1, staged := [] } := tget_tset_same _ _ _ _

/-- Settles O22: each kind of descriptor by its outcomes. -/
theorem descriptorArrivals : Obligations.DescriptorArrivals := by
  intro s id p i q hq
  refine ⟨fun h => ⟨fun hkind st => exec_descriptorArrival_refused h hkind,
      fun hkind htaken hctx => ⟨exec_descriptorArrival_notice h htaken hctx hkind, exec_descriptorArrival_message h htaken hctx hkind⟩,
      fun hkind htaken hctx => ?put, fun hkind => ⟨fun st => exec_combine_refused h hkind hq, fun st => exec_combine_returned h hkind hq,
        fun bits htaken hbits hfree => ⟨exec_combine_added h hkind hq htaken hbits hfree, fun hstrict ws hws => ?staged⟩⟩⟩,
    exec_putPerformed_whole, fun h hopen hinc => ⟨exec_acknowledgement_freesSlot h hopen hinc, exec_acknowledgement_entry h hopen hinc⟩,
    fun c n x => exec_strictSummationDone_full, fun n s => ?round⟩
  case put =>
    rw [exec_descriptorArrival_put h htaken hctx hkind]
    refine ⟨fun s1 st hpieces hst => ?_, fun s1 l hpieces => ⟨fun hlock => ?_, fun s2 s3 hfree hreach hclean hwritten => ?_⟩⟩
    · subst hst
      rw [State.putArrives_sourceTier hpieces]
    · rw [State.putArrives_locked hpieces hlock]
    · rw [State.putArrives_writes hpieces hfree hreach hclean hwritten]
  case staged =>
    subst hws
    exact exec_combine_staged h hkind hq htaken hbits hfree hstrict
  case round =>
    rw [State.endRound_comb]
    exact ⟨rfl, rfl, rfl⟩

end Sys2Proof.Machine
end

section
/-! SUPPORT. The carillon and its peals, one rule per event, and the statement about them (09 R223-R226, 18 R414). -/
namespace Sys2Proof.Machine

/-! Folds of a state over a list in which at most one element acts. -/

theorem State.each_fixed {α : Type} {l : List α} {f : State → α → State} {s : State} (h : ∀ e ∈ l, f s e = s) : s.each l f = s := by
  unfold State.each
  induction l with
  | nil => rfl
  | cons e r ih =>
    rw [List.foldl_cons, h e List.mem_cons_self]
    exact ih fun e he => h e (List.mem_cons_of_mem _ he)

/-- In a list without repetition, the act at an element is the whole fold if no other acts before or after it. -/
theorem State.each_once {α : Type} {l : List α} {f : State → α → State} {s : State} {n : α} (hl : l.Nodup) (hn : n ∈ l)
    (hbefore : ∀ e ∈ l, e ≠ n → f s e = s) (hafter : ∀ e ∈ l, e ≠ n → f (f s n) e = f s n) : s.each l f = f s n := by
  obtain ⟨l₁, l₂, rfl⟩ := List.append_of_mem hn
  obtain ⟨hne₁, hne₂⟩ : n ∉ l₁ ∧ n ∉ l₂ := by simpa using (List.nodup_middle.mp hl).notMem
  have h₁ : s.each l₁ f = s := State.each_fixed fun e he => hbefore e (by simp [he]) (ne_of_mem_of_not_mem he hne₁)
  have h₂ : (f s n).each l₂ f = f s n := State.each_fixed fun e he => hafter e (by simp [he]) (ne_of_mem_of_not_mem he hne₂)
  calc s.each (l₁ ++ n :: l₂) f = (s.each l₁ f).each (n :: l₂) f := List.foldl_append
    _ = (f s n).each l₂ f := by rw [h₁]; rfl
    _ = f s n := h₂

/-! Entry and exit (09 R223). -/

section
variable {s : State} {c : Fin 16}

/-- May the core that starts an entry or exit do so: the scheduler core, or a control core whose channels component is up (18 R414). -/
theorem State.carAllowed {by_ : Bool} (h : by_ = false → s.compDown (16 * (3 + c.val) + 3) = false) :
    (!by_ && s.compDown (16 * (3 + c.val) + 3)) = false := by
  cases by_ with
  | false => simpa using h rfl
  | true => rfl

section
variable {by_ : Bool} (hup : by_ = false → s.compDown (16 * (3 + c.val) + 3) = false)
include hup

theorem exec_carillonEntry_starts (hst : (s.clX c.val).carState = 0) (forced : Bool) :
    exec (.carillonEntry c by_ forced) s = .next (s.carStart c.val by_ forced) := by
  refine congrArg Host.Outcome.next ?_
  simp only [stepCarillonEntry, State.carAllowed hup, hst, decide_true, Bool.true_or, Bool.false_eq_true, if_false, if_true]

theorem exec_carillonExit_leaves (hst : (s.clX c.val).carState = 2) : exec (.carillonExit c by_) s = .next (s.carLeave c.val) := by
  refine congrArg Host.Outcome.next ?_
  simp only [stepCarillonExit, State.carAllowed hup, hst, beq_self_eq_true, Bool.false_eq_true, if_false, if_true]

end

theorem exec_carillonEntry_down (hdown : s.compDown (16 * (3 + c.val) + 3) = true) (forced : Bool) :
    exec (.carillonEntry c false forced) s = .next s := by
  refine congrArg Host.Outcome.next ?_
  simp only [stepCarillonEntry, hdown, Bool.not_false, Bool.and_self, if_true]

theorem exec_carillonExit_down (hdown : s.compDown (16 * (3 + c.val) + 3) = true) : exec (.carillonExit c false) s = .next s := by
  refine congrArg Host.Outcome.next ?_
  simp only [stepCarillonExit, hdown, Bool.not_false, Bool.and_self, if_true]

theorem exec_carillonEntered_drained (hst : (s.clX c.val).carState = 1) (hquiet : s.carQuiet c.val = true)
    (hidle : s.streamsIdle c.val = true) : exec (.carillonEntered c) s = .next (s.updClX c.val (fun x => { x with carState := 2 })) := by
  refine congrArg Host.Outcome.next ?_
  simp only [stepCarillonEntered, hst, hquiet, hidle, beq_self_eq_true, Bool.and_self, if_true]

theorem exec_carillonTimeout_ordinary (hst : (s.clX c.val).carState = 1) (hforced : (s.clX c.val).carForced = false) :
    exec (.carillonTimeout c) s = .next ((s.carLeave c.val).tell (if (s.clX c.val).bySched = true then 16 else c.val) 0x8A) := by
  refine congrArg Host.Outcome.next ?_
  simp only [stepCarillonTimeout, hst, hforced, beq_self_eq_true, Bool.not_false, Bool.and_self, if_true]
  rfl

end

/-! What waited at the batteries goes on. -/

/-- A cluster in normal mode. -/
def ClusterX.carNormal (x : ClusterX) : ClusterX := { x with carState := 0, bySched := false, carForced := false }

/-- A battery's sections go on, if any wait. -/
def State.pumpWaiting (s : State) (c b : Nat) : State := if (s.bat c b).waiting.isEmpty = true then s else s.pumpBat c b

theorem State.pumpWaiting_none {s : State} {c b : Nat} (h : (s.bat c b).waiting = []) : s.pumpWaiting c b = s :=
  if_pos (List.isEmpty_iff.mpr h)

theorem State.pumpWaiting_some {s : State} {c b : Nat} (h : (s.bat c b).waiting ≠ []) : s.pumpWaiting c b = s.pumpBat c b :=
  if_neg (mt List.isEmpty_iff.mp h)

theorem State.carLeave_pumps (s : State) (c : Nat) :
    s.carLeave c = (s.updClX c ClusterX.carNormal).each (List.range 64) (fun s b => s.pumpWaiting c b) := rfl

theorem State.carLeave_noneWaiting {s : State} {c : Nat} (h : ∀ b, (s.bat c b).waiting = []) :
    s.carLeave c = s.updClX c ClusterX.carNormal := by
  rw [State.carLeave_pumps]
  exact State.each_fixed fun b _ => State.pumpWaiting_none (h b)

/-- Where sections wait at one battery, and their going on leaves none waiting at another, it alone goes on. -/
theorem State.carLeave_oneWaiting {s : State} {c b : Nat} (hb : b < 64) (hother : ∀ k, k ≠ b → (s.bat c k).waiting = [])
    (hwait : (s.bat c b).waiting ≠ [])
    (hafter : ∀ k, k < 64 → k ≠ b → (((s.updClX c ClusterX.carNormal).pumpBat c b).bat c k).waiting = []) :
    s.carLeave c = (s.updClX c ClusterX.carNormal).pumpBat c b := by
  have hact : (s.updClX c ClusterX.carNormal).pumpWaiting c b = (s.updClX c ClusterX.carNormal).pumpBat c b := State.pumpWaiting_some hwait
  have hbefore : ∀ k ∈ List.range 64, k ≠ b → (s.updClX c ClusterX.carNormal).pumpWaiting c k = s.updClX c ClusterX.carNormal :=
    fun k _ hk => State.pumpWaiting_none (hother k hk)
  have hdone : ∀ k ∈ List.range 64, k ≠ b → ((s.updClX c ClusterX.carNormal).pumpWaiting c b).pumpWaiting c k =
      (s.updClX c ClusterX.carNormal).pumpWaiting c b := fun k hk hne => by
    rw [hact]
    exact State.pumpWaiting_none (hafter k (List.mem_range.mp hk) hne)
  rw [State.carLeave_pumps, ← hact]
  exact State.each_once (f := fun s b => s.pumpWaiting c b) List.nodup_range (List.mem_range.mpr hb) hbefore hdone

/-! Peals (09 R224-R226). -/

/-- The number that the next peal is known by. -/
def State.nextPeal (s : State) : Nat := s.msg.peals.foldl (fun n x => max n (x.id + 1)) 0

/-- A peal that is sent waits for its completion. -/
def State.addPeal (s : State) (x : Peal) : State := { s with msg := { s.msg with peals := s.msg.peals ++ [x] } }

/-- Bytes written to the scratchpad of a tile. -/
def State.writePad (s : State) (ta a : Nat) (bs : List Byte) : State :=
  s.updTile ta (fun t => t.updCore (fun y => { y with pad := mwriteBytes y.pad a bs }))

theorem State.writePad_pad (s : State) (ta a : Nat) (bs : List Byte) :
    ((s.writePad ta a bs).tile ta).core.pad = mwriteBytes (s.tile ta).core.pad a bs := by
  rw [State.writePad, State.tile_updTile_same, Tile.updCore_core]

theorem State.writePad_tile_ne (s : State) {ta k : Nat} (h : k ≠ ta) (a : Nat) (bs : List Byte) : (s.writePad ta a bs).tile k = s.tile k :=
  s.tile_updTile_ne _ h

/-- A cluster counts a peal that wrote to it (09 R229). -/
def State.countPeal (s : State) (c : Nat) : State := s.updClX c (fun x => { x with peals := satAdd 16 x.peals 1 })

section
variable {s : State} {c : Fin 16} {by_ : Bool} {targets toff dpa len : Nat}

theorem exec_peal_notCarillon {kind : Nat} (hok : pealOk kind toff len = true) (hsource : s.pealSource dpa len = true)
    (hst : (s.clX c.val).carState ≠ 2) : exec (.peal c false targets kind toff dpa len) s = .next (s.tell c.val 0x89) := by
  refine congrArg Host.Outcome.next ?_
  simp [stepPeal, hok, hsource, hst, St.notCarillon]

section
variable (hsource : s.pealSource dpa len = true) (hclean : s.poisoned dpa len = false) (hmay : by_ = true ∨ (s.clX c.val).carState = 2)
include hsource hclean hmay

/-- A peal that reaches no destination writes nothing, and names them all as failed. -/
theorem stepPeal_noneReached {kind : Nat} (hok : pealOk kind toff len = true)
    (hreason : ∀ ta ∈ pealTiles targets, s.pealReason c.val ta ≠ 0) :
    stepPeal c by_ targets kind toff dpa len s = s.addPeal { id := s.nextPeal, sender := if by_ = true then 16 else c.val, written := 0
                                                             failed := (pealTiles targets).map (fun ta => (ta, s.pealReason c.val ta)) } := by
  have hcore : (!by_ && (s.clX c.val).carState != 2) = false := by simpa [or_iff_not_imp_left] using hmay
  have hgood : ((pealTiles targets).map (fun ta => (ta, s.pealReason c.val ta))).filter (fun e => e.2 == 0) = [] := by simpa using hreason
  have hbad : ((pealTiles targets).map (fun ta => (ta, s.pealReason c.val ta))).filter (fun e => e.2 != 0) =
      (pealTiles targets).map (fun ta => (ta, s.pealReason c.val ta)) := by simpa using hreason
  simp only [stepPeal, hok, hsource, hclean, hcore, hgood, hbad, Bool.not_true, Bool.or_self, Bool.false_eq_true, if_false]
  rfl

/-- A peal to the scratchpad of one tile writes its bytes there, and its cluster counts it. -/
theorem stepPeal_scratchpad {ta : Nat} (hok : pealOk 2 toff len = true) (hone : pealTiles targets = [ta])
    (hreason : s.pealReason c.val ta = 0) : stepPeal c by_ targets 2 toff dpa len s =
      ((s.writePad ta (toff * 32) (mbytes s.mem.bytes dpa len)).countPeal (taC ta)).addPeal
        { id := s.nextPeal, sender := if by_ = true then 16 else c.val, written := 1, failed := [] } := by
  have hcore : (!by_ && (s.clX c.val).carState != 2) = false := by simpa [or_iff_not_imp_left] using hmay
  have hgood : ((pealTiles targets).map (fun ta => (ta, s.pealReason c.val ta))).filter (fun e => e.2 == 0) = [(ta, 0)] := by
    simp [hone, hreason]
  have hbad : ((pealTiles targets).map (fun ta => (ta, s.pealReason c.val ta))).filter (fun e => e.2 != 0) = [] := by
    simp [hone, hreason]
  simp only [stepPeal, hok, hsource, hclean, hcore, hgood, hbad, Bool.not_true, Bool.or_self, Bool.false_eq_true, if_false]
  rfl

end

/-- The record of a peal goes to the log and to its sender. -/
theorem exec_pealCompletion {x : Peal} (hx : s.msg.peals.find? (fun y => y.id == x.id) = some x) : exec (.pealCompletion x.id) s =
    .next { s.log_ 0x04 (if x.sender = 16 then 2 else 16 + x.sender) 0 64 (x.bits s.now) with msg := { s.msg with
      peals := s.msg.peals.filter (fun y => y.id != x.id), told := tset s.msg.told x.sender (BitVec.ofNat 512 (x.bits s.now)) } } := by
  refine congrArg Host.Outcome.next ?_
  simp only [stepPealCompletion, hx]
  rfl

end

/-- Settles O23: entry, its end, exit and peals, each by its rule. -/
theorem carillon : Obligations.Carillon := by
  refine fun s c => ⟨fun by_ hup hst => ?entry, fun by_ hup hst q hq => ?forcedEntry, fun hst hquiet hidle => ?entered,
    exec_carillonTimeout_ordinary, fun hdown => ⟨exec_carillonExit_down hdown, exec_carillonEntry_down hdown⟩,
    fun hst by_ hup => exec_carillonExit_leaves hup hst, State.carLeave_noneWaiting,
    fun b r hb hother hwait hr hafter => ?oneWaiting, fun by_ targets kind toff dpa len hok hsource hclean hmay hreason => ?noneReached,
    fun by_ targets toff dpa len ta hok hsource hclean hmay hone hreason => ?scratchpad,
    fun targets kind toff dpa len => exec_peal_notCarillon, fun x hx => ?completion⟩
  case entry =>
    refine ⟨_, exec_carillonEntry_starts hup hst false, ?_, ?_, ?_, rfl, rfl, rfl⟩ <;>
      rw [State.carStart, if_neg Bool.false_ne_true, State.updClX_clX, if_pos rfl]
  case forcedEntry =>
    subst hq
    exact exec_carillonEntry_starts hup hst true
  case entered =>
    exact ⟨_, exec_carillonEntered_drained hst hquiet hidle, by rw [State.updClX_clX, if_pos rfl], rfl, rfl, rfl⟩
  case oneWaiting =>
    rw [hr] at hafter ⊢
    exact State.carLeave_oneWaiting hb hother hwait hafter
  case noneReached =>
    exact ⟨_, _, congrArg Host.Outcome.next (stepPeal_noneReached hsource hclean hmay hok hreason), rfl, rfl, rfl, rfl, rfl⟩
  case scratchpad =>
    exact ⟨_, congrArg Host.Outcome.next (stepPeal_scratchpad hsource hclean hmay hok hone hreason), s.writePad_pad ta _ _,
      fun k hk => s.writePad_tile_ne hk _ _, rfl⟩
  case completion =>
    exact ⟨_, exec_pealCompletion hx, rfl, rfl, rfl, tget_tset_same _ _ _ _⟩

end Sys2Proof.Machine
end

section
/-! SUPPORT. The mesh, one rule per outcome of each event, and the statement about it (10 R234-R246, 13 R315, 18 R414). -/
namespace Sys2Proof.Machine

/-! Packets found by their number. -/

@[simp] theorem State.updRouter_packet (s : State) (n : Nat) (f : Router → Router) (id : Nat) :
    (s.updRouter n f).packet id = s.packet id := rfl

@[simp] theorem State.leaveBuffer_packet (s : State) (p : Packet) (id : Nat) : (s.leaveBuffer p).packet id = s.packet id := by
  unfold State.leaveBuffer
  split
  · exact s.updRouter_packet _ _ id
  · rfl

/-- A packet replaced by one of the same number is found under it. -/
theorem State.setPacket_packet_same {s : State} {id : Nat} {p : Packet} {f : Packet → Packet} (h : s.packet id = some p)
    (hid : ∀ y, (f y).id = y.id) : (s.setPacket id f).packet id = some (f p) := by
  have hfind : (fun y : Packet => y.id == id) ∘ (fun y => if y.id == id then f y else y) = fun y => y.id == id := by
    funext y
    by_cases hy : y.id = id <;> simp [hy, hid]
  have hp : (p.id == id) = true := List.find?_some (p := fun y : Packet => y.id == id) h
  have hfound : s.mesh.net.find? (fun y => y.id == id) = some p := h
  simp only [State.packet, State.setPacket, List.find?_map, hfind, hfound, Option.map_some, hp, if_true]

/-! A packet at a router input (10 R237-R239, R244). -/

section
variable {s : State} {p : Packet} (h : s.packet p.id = some p) (hnode : p.node < 16) (harrived : p.arrived = false)
include h hnode harrived

theorem exec_packetRoute_keyRefused (hkey : s.keyAllowed p.node p.inPort p.key = false) :
    exec (.packetRoute p.id none) s = .next (s.keyDrop p.node p) := by
  refine congrArg Host.Outcome.next ?_
  simp [stepPacketRoute, h, State.routePacket, nodeRouter, hnode, harrived, hkey]

section
variable (hkey : s.keyAllowed p.node p.inPort p.key = true) (hheld : s.heldByCarillon p.node p = false)
include hkey hheld

theorem exec_packetRoute_noRoute (hroute : s.route p.node p = .noRoute) :
    exec (.packetRoute p.id none) s = .next (s.noRoute p.node p) := by
  refine congrArg Host.Outcome.next ?_
  simp [stepPacketRoute, h, State.routePacket, nodeRouter, hnode, harrived, hkey, hheld, hroute]

theorem exec_packetRoute_waits (hroute : s.route p.node p = .wait) : exec (.packetRoute p.id none) s = .next s := by
  refine congrArg Host.Outcome.next ?_
  simp [stepPacketRoute, h, State.routePacket, nodeRouter, hnode, harrived, hkey, hheld, hroute]

theorem exec_packetRoute_sentOut {port chan : Nat} (hroute : s.route p.node p = .out port chan) :
    exec (.packetRoute p.id none) s = .next (s.sendOut p.node p port chan) := by
  refine congrArg Host.Outcome.next ?_
  simp [stepPacketRoute, h, State.routePacket, nodeRouter, hnode, harrived, hkey, hheld, hroute]

end
end

/-! Where a packet that is sent out stands (10 R233, R235, R237). -/

section
variable {s : State} {p : Packet} {c port : Nat} (h : s.packet p.id = some p) (chan : Nat)
include h

theorem State.sendOut_packet_neighbour {n q : Nat} (hport : port < 4) (hneighbour : neighbour c port = some (n, q)) :
    ∃ slot, (s.sendOut c p port chan).packet p.id =
      some { p with node := n, inPort := q, escape := p.escape || chan == 1, slot } := by
  have hmesh : ¬((decide (port = 4) || decide (port = 5)) = true) := by simp; omega
  simp only [State.sendOut, if_neg hmesh, hneighbour]
  exact ⟨_, State.setPacket_packet_same (by simpa using h) fun _ => rfl⟩

/-- What a modelled agent takes has arrived. -/
theorem State.sendOut_packet_arrived (hport : port = 4 ∨ port = 5) (hkind : p.kind ≠ 0) :
    ∃ slot, (s.sendOut c p port chan).packet p.id = some { p with node := c, arrived := true, slot } := by
  have hlocal : (decide (port = 4) || decide (port = 5)) = true := by simpa using hport
  have hagent : ¬((p.kind == 0) = true) := by simpa using hkind
  simp only [State.sendOut, if_pos hlocal, if_neg hagent]
  exact ⟨_, State.setPacket_packet_same (by simpa using h) fun _ => rfl⟩

end

/-! Injection (10 R234, R241, R242). -/

section
variable {s : State} {x : Inject}

/-- No packet goes out under the system key for an agent that is not the device's own, nor for a partition without a key. -/
theorem State.injected_refused
    (h : (x.srcPart = none ∧ x.agent.val < 5) ∨ ∃ r, x.srcPart = some r ∧ s.hasKey r.val = false) : s.injected x = none := by
  rcases h with ⟨hpart, hagent⟩ | ⟨r, hpart, hkey⟩
  · simp [State.injected, hpart, hagent]
  · simp [State.injected, hpart, hkey]

theorem State.injected_taken (hkey : ∀ r, x.srcPart = some r → s.hasKey r.val = true) (hagent : x.srcPart = none → 5 ≤ x.agent.val)
    (hbytes : x.bytes ≤ 2048) : ∃ q, s.injected x = some q := by
  cases hpart : x.srcPart with
  | none => simp [State.injected, hpart, hagent hpart, hbytes]
  | some r => simp [State.injected, hpart, hkey r hpart, hbytes]

/-- A packet is what an agent asked to inject (10 R241, R242): its key, its class, its ends and its length. -/
structure State.PacketOf (s : State) (x : Inject) (q : Packet) : Prop where
  key : ∀ r, x.srcPart = some r → q.key = s.keyOf r.val
  systemKey : x.srcPart = none → q.key = 0 ∧ q.cls = 2
  dest : q.dest = x.dest.val
  node : q.node = x.node.val
  inPort : q.inPort = if x.node.val < 16 then 4 else 5
  flits : q.flits = flitsOf x.bytes

theorem State.injected_packetOf {q : Packet} (h : s.injected x = some q) : s.PacketOf x q := by
  unfold State.injected at h
  extract_lets ok at h
  split at h
  · cases h
  · cases h
    exact ⟨fun r hr => by simp [hr], fun hnone => by simp [hnone], rfl, rfl, rfl, rfl⟩

/-- A packet as it enters the mesh: under the next number, in the epoch of the moment, and in no buffer. -/
def State.entering (s : State) (q : Packet) : Packet :=
  { q with id := s.mesh.nextId, epoch := s.mesh.epoch, escape := false, arrived := false, group := s.mesh.nextId, slot := none }

theorem State.inject_packet (q : Packet) (hfresh : ∀ y ∈ s.mesh.net, y.id ≠ s.mesh.nextId) :
    (s.inject q).packet s.mesh.nextId = some (s.entering q) := by
  have hnone : s.mesh.net.find? (fun y => y.id == s.mesh.nextId) = none := List.find?_eq_none.mpr fun y hy => by simp [hfresh y hy]
  simp [State.packet, State.inject, State.injectPart, hnone, State.entering]

theorem exec_packetRoute_injects {q : Packet} (h : s.injected x = some q) (hfresh : ∀ y ∈ s.mesh.net, y.id ≠ s.mesh.nextId)
    (id : Nat) : exec (.packetRoute id (some x)) s = .next ((s.inject q).routePacket (s.entering q)) := by
  have hfound : (s.inject q).packet ((s.inject q).mesh.nextId - 1) = some (s.entering q) := State.inject_packet q hfresh
  refine congrArg Host.Outcome.next ?_
  simp only [stepPacketRoute, h, hfound]

theorem exec_packetRoute_refused (h : s.injected x = none) (id : Nat) : exec (.packetRoute id (some x)) s = .next s := by
  refine congrArg Host.Outcome.next ?_
  simp only [stepPacketRoute, h]

end

/-! Credits (10 R235). -/

theorem exec_creditReturn_owed {s : State} {node : Fin 24} {port : Fin 8} {cls chan : Nat} (hnode : node.val < 16)
    (hport : port.val < 6) (hcls : cls < 3) (hchan : chan < 2) (howed : 0 < tget (s.router node.val).owed (creditKey port.val cls chan) 0) :
    exec (.creditReturn node port cls chan) s = .next (s.updRouter node.val (fun r => { r with
      owed := tset r.owed (creditKey port.val cls chan) (tget r.owed (creditKey port.val cls chan) 0 - 1)
      credits := tset r.credits (creditKey port.val cls chan) (min (creditFull chan) (r.credit port.val cls chan + 1)) })) := by
  refine congrArg Host.Outcome.next ?_
  simp [stepCreditReturn, hnode, hport, hcls, hchan, howed]

/-! Resends (13 R315). -/

/-- A resend that confirms no error is counted, and that is all. -/
theorem exec_flitResend_counted {s : State} {node : Fin 16} {port : Fin 4} {link : Fin 68} {kind ix : Nat}
    (hunit : linkUnit node.val port.val link.val = some (kind, ix))
    (hbelow : (hourWindow s.ledger.opSec (tget s.mem.sbe (4096 * kind + ix) [])).2 = false) :
    exec (.flitResend node port link) s = .next { s with mem := { s.mem with
      sbe := tset s.mem.sbe (4096 * kind + ix) (hourWindow s.ledger.opSec (tget s.mem.sbe (4096 * kind + ix) [])).1 } } := by
  refine congrArg Host.Outcome.next ?_
  simp only [stepFlitResend, hunit, hbelow, Bool.false_eq_true, if_false]

/-! New route tables (10 R246, 18 R414). -/

/-- A router with a table in the bank that is free in an epoch. -/
def Router.installed (r : Router) (epoch : Bool) (t : Tbl Nat) : Router :=
  if epoch then { r with bank0 := t, shadowValid := true } else { r with bank1 := t, shadowValid := true }

theorem Router.installed_banks (r : Router) (epoch : Bool) (t : Tbl Nat) :
    (r.installed epoch t).shadowValid = true ∧
    (if epoch then (r.installed epoch t).bank0 else (r.installed epoch t).bank1) = t ∧
    (if epoch then (r.installed epoch t).bank1 = r.bank1 else (r.installed epoch t).bank0 = r.bank0) := by
  cases epoch <;> exact ⟨rfl, rfl, rfl⟩

theorem exec_routeInstall_drained {s : State} (hup : s.compDown 36 = false) (hdrained : ∀ n, n < 16 → s.oldBusy n = false)
    (c : Fin 16) : exec (.routeInstall c) s =
      .next (s.updRouter c.val (fun r => r.installed s.mesh.epoch (tget s.newRoutes c.val []))) := by
  have hbusy : (List.range 16).any (fun n => s.oldBusy n) = false :=
    List.any_eq_false.mpr fun n hn => by simp [hdrained n (List.mem_range.mp hn)]
  refine congrArg Host.Outcome.next ?_
  simp only [stepRouteInstall, hup, hbusy, Bool.or_self, Bool.false_eq_true, if_false]
  rfl

/-- Settles O24: a packet at a router and at its next place, injection, credits, resends and new tables, each by its rule. -/
theorem meshRouting : Obligations.MeshRouting := by
  refine fun s => ⟨fun p port chan h hnode harrived => ⟨exec_packetRoute_keyRefused h hnode harrived, fun hkey hheld =>
      ⟨exec_packetRoute_noRoute h hnode harrived hkey hheld, exec_packetRoute_waits h hnode harrived hkey hheld,
        exec_packetRoute_sentOut h hnode harrived hkey hheld⟩⟩,
    fun p port chan n q h hport hneighbour => ?neighbour, fun p port chan h hport hkind => ?arrived,
    fun id x => ⟨fun hfresh hkey hagent hbytes => ?injects,
      fun hrefused => exec_packetRoute_refused (State.injected_refused hrefused) id⟩,
    fun node port cls chan hnode hport hcls hchan howed => ?credit, fun node port link kind ix hunit hbelow => ?resend,
    fun c hup hdrained => ?install⟩
  case neighbour =>
    obtain ⟨slot, hfound⟩ := State.sendOut_packet_neighbour h chan hport hneighbour
    exact ⟨_, hfound, rfl, rfl, rfl, rfl, rfl, rfl⟩
  case arrived =>
    obtain ⟨slot, hfound⟩ := State.sendOut_packet_arrived (c := p.node) h chan hport hkind
    exact ⟨_, hfound, rfl, rfl, rfl⟩
  case injects =>
    obtain ⟨q, hq⟩ := State.injected_taken hkey hagent hbytes
    have hof := State.injected_packetOf hq
    exact ⟨_, _, exec_packetRoute_injects hq hfresh id, State.inject_packet q hfresh, hof.key, hof.systemKey, hof.dest,
      hof.node, hof.inPort, rfl, hof.flits, rfl, rfl, rfl⟩
  case credit =>
    refine ⟨_, exec_creditReturn_owed hnode hport hcls hchan howed, rfl, rfl, ?_, ?_⟩ <;> rw [State.updRouter_router, if_pos rfl]
    · exact tget_tset_same _ _ _ _
    · exact tget_tset_same _ _ _ _
  case resend =>
    exact ⟨_, exec_flitResend_counted hunit hbelow, rfl, rfl, tget_tset_same _ _ _ _⟩
  case install =>
    obtain ⟨hvalid, hnew, hold⟩ := (s.router c.val).installed_banks s.mesh.epoch (tget s.newRoutes c.val [])
    refine ⟨_, exec_routeInstall_drained hup hdrained c, ?_, ?_, ?_, rfl, rfl⟩ <;> rw [State.updRouter_router, if_pos rfl]
    · exact hvalid
    · exact hnew
    · exact hold

end Sys2Proof.Machine
end

section
/-! SUPPORT. The registers of a command queue and the fetch of a record, one rule per outcome, and the statement about them (11 R257-R262). -/
namespace Sys2Proof.Machine

/-! What an update of a context, or of one of its queues, is read as. -/

theorem State.updCtx_ctx_same (s : State) (p k : Nat) (f : Ctx → Ctx) : (s.updCtx p k f).ctx p k = f (s.ctx p k) := tget_tset_same _ _ _ _

theorem State.updCtx_ctx_ne (s : State) {p k i j : Nat} (h : kKey i j ≠ kKey p k) (f : Ctx → Ctx) :
    (s.updCtx p k f).ctx i j = s.ctx i j := tget_tset_ne _ _ _ h

theorem State.updQueue_queue_same (s : State) (p k x : Nat) (f : CmdQueue → CmdQueue) :
    ((s.updQueue p k x f).ctx p k).queue x = f ((s.ctx p k).queue x) := by
  rw [State.updQueue, State.updCtx_ctx_same]
  exact tget_tset_same _ _ _ _

/-! An owner's doorbell (11 R258, R261): queue C is rung by a PF only. -/

section
variable {s : State} {fn : Fn} {p : Fin 16} {k : Fin 64} {x : Fin 4} {tail : Word} (hown : s.ownsP fn p.val = true)
  (hreset : s.resetting p.val = false)
include hown hreset

section
variable (hmay : x.val ≠ 3 ∨ ∃ g, fn = .pf g) (hst0 : (s.ctx p.val k.val).st ≠ 0) (hst7 : (s.ctx p.val k.val).st ≠ 7)
include hmay hst0 hst7

theorem stepDoorbell_owner : stepDoorbell fn p k x tail s =
    if !ringSizeOk ((s.ctx p.val k.val).queue x.val).size ||
        2 ^ ((s.ctx p.val k.val).queue x.val).size < (tail.toNat + 2 ^ 32 - ((s.ctx p.val k.val).queue x.val).head) % 2 ^ 32 then
      s.refuseP fn p.val (offD p.val k.val (8 * x.val)) 5 tail.toNat
    else s.updQueue p.val k.val x.val (fun q => { q with tail := tail.toNat, stalled := none }) := by
  rcases hmay with hx | ⟨g, rfl⟩
  · simp [stepDoorbell, hown, hreset, hst0, hst7, hx]
  · simp [stepDoorbell, hown, hreset, hst0, hst7]

/-- A TAIL within the ring is taken, and a queue that a fetch stopped goes on. -/
theorem exec_doorbell_sets (hsize : ringSizeOk ((s.ctx p.val k.val).queue x.val).size = true)
    (htail : (tail.toNat + 2 ^ 32 - ((s.ctx p.val k.val).queue x.val).head) % 2 ^ 32 ≤ 2 ^ ((s.ctx p.val k.val).queue x.val).size) :
    exec (.doorbell fn p k x tail) s =
      .next ((s.unlatch fn).updQueue p.val k.val x.val (fun q => { q with tail := tail.toNat, stalled := none })) := by
  refine congrArg Host.Outcome.next ((stepDoorbell_owner (s := s.unlatch fn) (by simpa) (by simpa) hmay (by simpa) (by simpa)).trans
    (if_neg ?_))
  simpa [hsize] using htail

theorem exec_doorbell_beyond (htail : 2 ^ ((s.ctx p.val k.val).queue x.val).size <
      (tail.toNat + 2 ^ 32 - ((s.ctx p.val k.val).queue x.val).head) % 2 ^ 32) :
    exec (.doorbell fn p k x tail) s =
      .next ((s.unlatch fn).refuseP fn p.val (offD p.val k.val (8 * x.val)) 5 tail.toNat) := by
  refine congrArg Host.Outcome.next ((stepDoorbell_owner (s := s.unlatch fn) (by simpa) (by simpa) hmay (by simpa) (by simpa)).trans
    (if_pos ?_))
  rw [State.unlatch_ctx, decide_eq_true htail, Bool.or_true]

end

theorem State.gateP_owner (off val : Nat) (act : State → State) : s.gateP fn p.val off val act = act s := by
  simp [State.gateP, hown, hreset]

theorem exec_cqHeadWrite_owner (head : Word) :
    exec (.cqHeadWrite fn p k head) s = .next ((s.unlatch fn).updCtx p.val k.val (fun c => { c with cqHead := head.toNat })) :=
  congrArg Host.Outcome.next (State.gateP_owner (s := s.unlatch fn) (by simpa) (by simpa) _ _ _)

end

/-! RECORD_FETCH (11 R257-R260, R263-R265): a queue with nothing fetched, no WAIT and no stop, whose next record lies before TAIL. -/

/-- Nothing keeps such a queue from its fetch. -/
theorem recordFetch_due {c : Ctx} {q : CmdQueue} {idx : Nat} (hst : c.st = 1) (hfetched : q.fetched = none) (hwait : q.waitOn = none)
    (hstalled : q.stalled = none) (hsize : ringSizeOk q.size = true) (hahead : (idx + 2 ^ 32 - q.head) % 2 ^ 32 < 32)
    (htail : (idx + 2 ^ 32 - q.head) % 2 ^ 32 < (q.tail + 2 ^ 32 - q.head) % 2 ^ 32) :
    (c.st != 1 || q.fetched.isSome || q.waitOn.isSome || q.stalled.isSome || !ringSizeOk q.size || 32 ≤ (idx + 2 ^ 32 - q.head) % 2 ^ 32 ||
      (q.tail + 2 ^ 32 - q.head) % 2 ^ 32 ≤ (idx + 2 ^ 32 - q.head) % 2 ^ 32) = false := by
  rw [hst, hfetched, hwait, hstalled, hsize, decide_eq_false (Nat.not_le.mpr hahead), decide_eq_false (Nat.not_le.mpr htail)]
  rfl

section
variable {s s1 s2 : State} {p : Fin 16} {k : Fin 64} {x : Fin 4} {q : CmdQueue} {idx : Nat} {bs im : List Byte} {b : BitVec 512}
  (hq : (s.ctx p.val k.val).queue x.val = q) (hidx : q.nextIdx 64 q.next = idx) (hst : (s.ctx p.val k.val).st = 1)
  (hfetched : q.fetched = none) (hwait : q.waitOn = none) (hstalled : q.stalled = none) (hsize : ringSizeOk q.size = true)
  (hahead : (idx + 2 ^ 32 - q.head) % 2 ^ 32 < 32) (htail : (idx + 2 ^ 32 - q.head) % 2 ^ 32 < (q.tail + 2 ^ 32 - q.head) % 2 ^ 32)
  (hread : s.readQ p.val k.val x.val (q.base + 64 * (idx % 2 ^ q.size)) 64 = (s1, .ok bs)) (hb : b = BitVec.ofNat 512 (leNat bs))
include hq hidx hst hfetched hwait hstalled hsize hahead htail hread hb

/-- A record that is no STREAM is all that is read. -/
theorem exec_recordFetch_plain (hop : bf b 0 8 ≠ 0x10) :
    exec (.recordFetch p k x) s = .next (s1.takeRecord p.val k.val x.val idx b 0 none) := by
  have hplain : (bf b 0 8 != 0x10 || s1.checkRecord p.val x.val b != 0) = true := by simp [hop]
  refine congrArg Host.Outcome.next ?_
  simp only [stepRecordFetch, hq, hidx, recordFetch_due hst hfetched hwait hstalled hsize hahead htail, hread, ← hb, hplain, Bool.false_eq_true,
    if_false, if_true]

/-- A STREAM that passes its checks, without a resume record: its descriptor image is read too. -/
theorem exec_recordFetch_stream (hop : bf b 0 8 = 0x10) (hcheck : s1.checkRecord p.val x.val b = 0)
    (himage : s1.readQ p.val k.val x.val (bf b 128 48) 192 = (s2, .ok im)) (hrec : b.toNat.testBit 74 = false) :
    exec (.recordFetch p k x) s = .next (s2.takeRecord p.val k.val x.val idx b (BitVec.ofNat 1536 (leNat im)) none) := by
  have hstream : (bf b 0 8 != 0x10 || s1.checkRecord p.val x.val b != 0) = false := by simp [hop, hcheck]
  refine congrArg Host.Outcome.next ?_
  simp only [stepRecordFetch, hq, hidx, recordFetch_due hst hfetched hwait hstalled hsize hahead htail, hread, ← hb, hstream, himage, hrec,
    Bool.not_false, Bool.false_eq_true, if_false, if_true]

end

/-- A record that passes its checks waits to start (11 R265). -/
theorem State.takeRecord_passes {s : State} {p x : Nat} {b : BitVec 512} (h : s.checkRecord p x b = 0) (k idx : Nat) (m : BitVec 1536)
    (r : Option (BitVec 1024)) : s.takeRecord p k x idx b m r =
      s.updQueue p k x (fun q => { q with fetched := some (idx, b), next := idx, image := m, record := r }) := if_pos h

/-- A record that fails one completes with its status (11 R265). -/
theorem State.takeRecord_fails {s : State} {p x : Nat} {b : BitVec 512} (h : s.checkRecord p x b ≠ 0) (k idx : Nat) (m : BitVec 1536)
    (r : Option (BitVec 1024)) : s.takeRecord p k x idx b m r =
      (s.startCmd (refOf p k x idx b)).complete (refOf p k x idx b) (s.checkRecord p x b) 0 := if_neg h

/-- Settles O25: the doorbell, the write of CQ_HEAD, the fetch and the checks of a record, each by its rule. -/
theorem queueRegistersAndFetch : Obligations.QueueRegistersAndFetch := by
  refine fun s fn p k x => ⟨fun hown hreset => ⟨fun tail hmay hst0 hst7 hsize htail => ?doorbell,
      fun tail hmay hst0 hst7 => exec_doorbell_beyond hown hreset hmay hst0 hst7, fun head => ?cqHead⟩,
    fun q idx s1 bs b => exec_recordFetch_plain, fun q idx s1 s2 bs im b => exec_recordFetch_stream,
    fun s idx b m => ⟨fun h => State.takeRecord_passes h _ _ _ _, fun st hst h => hst ▸ State.takeRecord_fails (hst ▸ h) _ _ _ _⟩⟩
  case doorbell =>
    refine ⟨_, exec_doorbell_sets hown hreset hmay hst0 hst7 hsize htail, ?_⟩
    rw [State.updQueue_queue_same]
    exact ⟨rfl, rfl, by rw [State.unlatch_ctx], s.unlatch_mem fn, s.unlatch_tiles fn⟩
  case cqHead =>
    refine ⟨_, exec_cqHeadWrite_owner hown hreset head, ?_, s.unlatch_mem fn, s.unlatch_tiles fn, fun i j hij => ?_⟩
    · rw [State.updCtx_ctx_same]
    · rw [State.updCtx_ctx_ne _ hij, State.unlatch_ctx]

end Sys2Proof.Machine
end

section
/-! SUPPORT. The completion ring and the commands every queue accepts, one rule per outcome, and the statement about them (11 R259, R262,
R264-R267). -/
namespace Sys2Proof.Machine

/-! The completion ring (11 R262): a written entry completes its command and may raise an interrupt, and neither writes device memory. -/

@[simp] theorem State.msi_mem (s : State) (port f vec : Nat) : (s.msi port f vec).mem = s.mem := by
  unfold State.msi
  dsimp only
  split <;> rfl

@[simp] theorem State.partMsi_mem (s : State) (p k : Nat) : (s.partMsi p k).mem = s.mem := by
  unfold State.partMsi
  split
  · rfl
  · split
    · exact s.msi_mem _ _ _
    · split
      · exact s.msi_mem _ _ _
      · rfl

@[simp] theorem State.irqCq_mem (s : State) (p k : Nat) : (s.irqCq p k).mem = s.mem := by
  unfold State.irqCq
  split
  · exact State.partMsi_mem _ p k
  · rfl

theorem State.entryWritten_mem (s : State) (p k e : Nat) : (s.entryWritten p k e).mem = s.mem := by
  have hdone : ∀ (t : State) (x idx : Nat) (c : Prop) [Decidable c], (if c then t.markDone p k x idx else t).mem = t.mem := by
    intro t x idx c _
    split <;> rfl
  unfold State.entryWritten
  dsimp only
  split
  · rw [State.irqCq_mem, hdone]
    rfl
  · rw [hdone]
    rfl

/-- The oldest entry that waits is written at CQ_TAIL, in device memory, where nothing holds the line (07 R179, 04 R107). -/
theorem exec_completionEntryWrite_dev {s s1 : State} {p : Fin 16} {k : Fin 64} {e dpa : Nat} {rest : List Nat} {cch : Bool}
    (hcomps : (s.ctx p.val k.val).comps = e :: rest) (hst : (s.ctx p.val k.val).st ≠ 0) (hsize : cqSizeOk (s.ctx p.val k.val).cqSize = true)
    (hroom : ((s.ctx p.val k.val).cqTail + 2 ^ 32 - (s.ctx p.val k.val).cqHead) % 2 ^ 32 < 2 ^ (s.ctx p.val k.val).cqSize)
    (hdev : s.translateC (s.lowCluster p.val) (s.ident p.val k.val)
      ((s.ctx p.val k.val).cqBase + 32 * ((s.ctx p.val k.val).cqTail % 2 ^ (s.ctx p.val k.val).cqSize)) true = (s1, .dev dpa cch))
    (hlocked : s1.locked dpa 32 true none = false) (hpoison : s1.partPoison dpa 32 = false) :
    exec (.completionEntryWrite p k) s = .next ((s1.store dpa (leBytes 32 e)).entryWritten p.val k.val e) := by
  have hopen : (!cqSizeOk (s.ctx p.val k.val).cqSize || decide (2 ^ (s.ctx p.val k.val).cqSize ≤
      ((s.ctx p.val k.val).cqTail + 2 ^ 32 - (s.ctx p.val k.val).cqHead) % 2 ^ 32)) = false := by
    rw [hsize, decide_eq_false (Nat.not_le.mpr hroom)]
    rfl
  refine congrArg Host.Outcome.next ?_
  simp only [stepCompletionEntryWrite, hcomps, hst, hopen, hdev, hlocked, hpoison, Bool.false_eq_true, if_false]

/-! NOP, BARRIER, CHIME and WAIT at the start of their queue (11 R259, R264, R266, R267). -/

section
variable {s s1 : State} {p : Fin 16} {k : Fin 64} {x : Fin 4} {r : CmdRef}

theorem exec_nop (h : s.fetchedCmd p.val k.val x.val 0x00 = some r) :
    exec (.nop p k x) s = .next ((s.startCmd r).complete r St.completed 0) := by
  refine congrArg Host.Outcome.next ?_
  simp only [stepNop, h]

theorem exec_barrier (h : s.fetchedCmd p.val k.val x.val 0x30 = some r) :
    exec (.barrier p k x) s = .next (if s.allEarlier r then (s.startCmd r).complete r St.completed 0 else s) := by
  refine congrArg Host.Outcome.next ?_
  simp only [stepBarrier, h]

theorem exec_chime {st : Nat} (h : s.fetchedCmd p.val k.val x.val 0x31 = some r) (hearlier : s.allEarlier r = true)
    (hlocked : s.chimeLocked (s.identOf r) (bf r.bits 64 48) true = false)
    (hstore : (s.startCmd r).chimeStore (s.identOf r) (bf r.bits 64 48) (bf r.bits 128 64) (queueAgent x.val) = (s1, st)) :
    exec (.chime p k x) s = .next (s1.complete r (if st = 0 then St.completed else st) 0) := by
  refine congrArg Host.Outcome.next ?_
  simp only [stepChime, h, hearlier, hlocked, hstore, Bool.not_true, Bool.or_self, Bool.false_eq_true, if_false]

theorem exec_wait {dpa : Nat} (h : s.fetchedCmd p.val k.val x.val 0x32 = some r)
    (hat : (s.startCmd r).chimeAt (s.identOf r) (bf r.bits 64 48) false (queueAgent x.val) = (s1, .ok dpa)) :
    exec (.wait p k x) s = .next ((s1.updQueue p.val k.val x.val (fun q => { q with
      waitOn := some (dpa, r.idx, r.bits.toNat.testBit 112, BitVec.ofNat 64 (bf r.bits 128 64)) })).waitLook r dpa
      (r.bits.toNat.testBit 112) (BitVec.ofNat 64 (bf r.bits 128 64))) := by
  refine congrArg Host.Outcome.next ?_
  simp only [stepWait, h, hat]

/-- The word of a WAIT that holds its queue is looked at again. -/
theorem exec_waitComplete {dpa idx : Nat} {cmp : Bool} {value : Dword}
    (hwait : ((s.ctx p.val k.val).queue x.val).waitOn = some (dpa, idx, cmp, value))
    (hr : ((s.ctx p.val k.val).queue x.val).inProg.find? (fun r => r.idx == idx) = some r) :
    exec (.waitComplete p k x) s = .next (s.waitLook r dpa cmp value) := by
  refine congrArg Host.Outcome.next ?_
  simp only [stepWaitComplete, hwait, hr]

end

/-! The word of a WAIT (11 R267): one under a lock is not looked at (04 R107). -/

section
variable {s : State} {dpa : Nat}

theorem State.waitLook_locked (h : s.locked dpa 8 false none = true) (r : CmdRef) (cmp : Bool) (value : Dword) :
    s.waitLook r dpa cmp value = s := if_pos h

theorem State.waitLook_reads (h : s.locked dpa 8 false none = false) (hpoison : s.poisoned dpa 8 = false) (r : CmdRef) (cmp : Bool)
    (value : Dword) : s.waitLook r dpa cmp value = if waitMet cmp value (s.load dpa 8) then
      (s.updQueue r.part r.ctx r.x (fun q => { q with waitOn := none })).complete r St.completed 0 else s := by
  simp only [State.waitLook, h, hpoison, Bool.false_eq_true, if_false]

end

theorem waitMet_atLeast (value : Dword) (v : Nat) : waitMet true value v = true ↔ value.toNat ≤ v := by simp [waitMet]

theorem waitMet_equal (value : Dword) (v : Nat) : waitMet false value v = true ↔ v = value.toNat := by simp [waitMet]

/-- Settles O26: the completion ring, each command of every queue, and the word of a WAIT, by their rules. -/
theorem queueCommandsAndCompletions : Obligations.QueueCommandsAndCompletions := by
  refine ⟨fun s s1 p k e rest dpa cch hcomps hst hsize hroom hdev hlocked hpoison =>
      ⟨exec_completionEntryWrite_dev hcomps hst hsize hroom hdev hlocked hpoison, s1.store_bytes dpa _, State.entryWritten_mem _ _ _ _⟩,
    fun s p k x r => ⟨exec_nop, fun h => ⟨fun hall => ?before, fun hall => ?after⟩, fun s1 st => exec_chime, fun s1 dpa => exec_wait,
      fun dpa idx cmp value => exec_waitComplete, fun dpa cmp value h hpoison => ⟨fun hmet => ?unmet, fun hmet => ?met⟩,
      fun dpa cmp value h => State.waitLook_locked h r cmp value, fun value v => ⟨waitMet_atLeast value v, waitMet_equal value v⟩⟩⟩
  case before | after => rw [exec_barrier h, hall]; rfl
  case unmet | met => rw [State.waitLook_reads h hpoison, hmet]; rfl

end Sys2Proof.Machine
end

section
/-! SUPPORT. A write of PTN_CTX_CTL and the operations on a context, one rule per operation, and the statement about them (11 R255, R256, R269,
R272, R277-R281, 12 R286). -/
namespace Sys2Proof.Machine

/-! The register (11 R281): GO and the operation stand where those of CLU_MSG_CTL stand, so `mcWith n v` is the value v with GO and operation n. -/

/-- PTN_CTX_CTL with its fields set. -/
def State.ctxSet (s : State) (p k op : Nat) (banks frames : Bool) (clusters : Nat) : State :=
  s.updCtx p k (fun c => { c with op, banks, frames, clusters })

/-- A bit above the operation is as written. -/
theorem mcWith_testBit {n i : Nat} (hn : n < 8) (hi : 4 ≤ i) (v : Dword) : (mcWith n v).toNat.testBit i = v.toNat.testBit i := by
  have hbit := congrArg (·.testBit 0) (bf_mcWith hn hi v 1)
  simpa only [bf, field_testBit, Nat.zero_lt_one, decide_true, Bool.true_and, Nat.add_zero] using hbit

theorem State.ctxFields_mcWith {n : Nat} (hn : n < 8) (s : State) (p k : Nat) (v : Dword) :
    s.ctxFields p k (mcWith n v) = s.ctxSet p k n (v.toNat.testBit 4) (v.toNat.testBit 5) (bf v 16 16) := by
  have hop : bf (mcWith n v) 1 3 = n := mcOp_mcWith hn v
  simp only [State.ctxFields, State.ctxSet, hop, mcWith_testBit hn (Nat.le_refl 4), mcWith_testBit hn (show 4 ≤ 5 by decide),
    bf_mcWith hn (show 4 ≤ 16 by decide)]

section
variable {s : State} {fn : Fn} {p : Fin 16} {k : Fin 64} {n : Nat} (hown : s.ownsP fn p.val = true) (hreset : s.resetting p.val = false)
  (hn : n < 8)
include hown hreset hn

/-- An owner's write with GO performs its operation, unless one is in progress; a context reset takes over (11 R255). -/
theorem State.ctxWrite_performs (hfree : (s.ctx p.val k.val).go = false ∨ n = 5) (v : Dword) :
    (s.unlatch fn).ctxWrite fn p.val k.val (mcWith n v) =
      ((s.unlatch fn).ctxSet p.val k.val n (v.toNat.testBit 4) (v.toNat.testBit 5) (bf v 16 16)).ctxOp p.val k.val n := by
  have hop : bf (mcWith n v) 1 3 = n := mcOp_mcWith hn v
  have hidle : (((s.unlatch fn).ctx p.val k.val).go && n != 5) = false := by
    rcases hfree with h | h <;> simp [h]
  rw [State.ctxWrite, State.gateP_owner (by simpa) (by simpa)]
  simp only [hop, hidle, mcWith_go hn, State.ctxFields_mcWith hn, Bool.not_false, Bool.and_self, if_true]

/-- While one is in progress a write of another operation sets the fields alone (00 R12). -/
theorem State.ctxWrite_busy (hgo : (s.ctx p.val k.val).go = true) (h5 : n ≠ 5) (v : Dword) :
    (s.unlatch fn).ctxWrite fn p.val k.val (mcWith n v) =
      (s.unlatch fn).ctxSet p.val k.val n (v.toNat.testBit 4) (v.toNat.testBit 5) (bf v 16 16) := by
  have hop : bf (mcWith n v) 1 3 = n := mcOp_mcWith hn v
  have hbusy : (((s.unlatch fn).ctx p.val k.val).go && n != 5) = true := by simp [hgo, h5]
  rw [State.ctxWrite, State.gateP_owner (by simpa) (by simpa)]
  simp only [hop, hbusy, State.ctxFields_mcWith hn, Bool.not_true, Bool.and_false, Bool.false_eq_true, if_false]

end

/-! The operations (11 R255, R269, R272, R277-R281, 12 R286). -/

theorem opAllowed_iff (st : Nat) : (opAllowed 0 st = true ↔ st = 0) ∧ (opAllowed 1 st = true ↔ st = 1) ∧ (opAllowed 2 st = true ↔ st = 3) ∧
    (opAllowed 3 st = true ↔ st = 3) ∧ (opAllowed 4 st = true ↔ st = 5) ∧ (opAllowed 6 st = true ↔ st = 3 ∨ st = 5 ∨ st = 7) := by
  simp [opAllowed, cxFree, cxActive, cxPreempted, cxSaved, cxFaulted, or_assoc]

section
variable {s : State} {p k n : Nat} (h7 : n < 7) (h5 : n ≠ 5) (hproceed : s.arbitrate (opSev n) (.ctx p k) = .proceed)
include h7 h5 hproceed

/-- Another state of the context, or no cluster, refuses the operation. -/
theorem State.ctxOp_refused (h : opAllowed n (s.ctx p k).st = false ∨ s.noCluster p n = true) :
    s.ctxOp p k n = s.updCtx p k (fun c => { c with result := St.contextState }) := by
  have hrefused : (!opAllowed n (s.ctx p k).st || s.noCluster p n) = true := by
    rcases h with h | h <;> simp [h]
  simp only [State.ctxOp, Nat.ne_of_lt h7, h5, hproceed, hrefused, decide_false, Bool.false_and, Bool.false_eq_true, if_false, if_true]
  rfl

/-- One that is permitted shows GO and is performed: at once, or, of those that make a context ACTIVE, once a change of STRICT is over. -/
theorem State.ctxOp_allowed {u : State} (hst : opAllowed n (s.ctx p k).st = true) (hcl : s.noCluster p n = false)
    (hu : (s.takeOver (opSev n) (.ctx p k)).updCtx p k (fun c => c.started n) = u) :
    s.ctxOp p k n = if n = 1 then u.preemptCtx p k else if n = 3 then u.updCtx p k (fun c => { c with st := cxSaving })
      else if n = 6 then (u.destroyCtx p k).ctxResult p k St.completed else if (u.part p).strictBusy then u else u.ctxPerform p k n := by
  simp only [State.ctxOp, Nat.ne_of_lt h7, h5, hproceed, hst, hcl, hu, decide_false, Bool.not_true, Bool.or_self, Bool.false_and,
    Bool.false_eq_true, if_false]

end

/-- CREATE (11 R256): ACTIVE in a new generation, at step 0; device memory is left. -/
theorem State.createCtx_effect (s : State) (p k : Nat) : ((s.createCtx p k).ctx p k).st = 1 ∧
    ((s.createCtx p k).ctx p k).gen = ((s.ctx p k).gen + 1) % 2 ^ 8 ∧ ((s.createCtx p k).ctxX p k).step = 0 ∧
    (s.createCtx p k).mem = s.mem := by
  have hctx : ∀ (t : State) (f : Ctx → Ctx) (g : CtxX → CtxX), ((t.updCtx p k f).updCtxX p k g).ctx p k = f (t.ctx p k) :=
    fun t f g => t.updCtx_ctx_same p k f
  refine ⟨by rw [State.createCtx, hctx]; rfl, by rw [State.createCtx, hctx]; rfl, ?_, rfl⟩
  rw [State.createCtx, State.updCtxX_ctxX, if_pos rfl]

/-- Settles O27: the writes of the register, the operations that are refused and performed, CREATE, and which states permit each. -/
theorem contextOperations : Obligations.ContextOperations := by
  refine fun s v fn p k hown hreset => ⟨fun set hv hset => ?writes, fun s n h7 h5 hproceed => ⟨State.ctxOp_refused h7 h5 hproceed,
    fun hst hcl u hu => ?performed⟩, fun s => s.createCtx_effect p.val k.val, opAllowed_iff⟩
  case writes =>
    subst hv
    obtain rfl : set = (s.unlatch fn).ctxSet p.val k.val := by
      funext op banks frames clusters
      exact hset op banks frames clusters
    have hop : ∀ n v, n < 8 → (s.ctx p.val k.val).go = false ∨ n = 5 → _ := fun n v hn hfree =>
      congrArg (Host.Outcome.next (φ := Fault) (ρ := Refusal)) (State.ctxWrite_performs hown hreset hn hfree v)
    have hbusy : ∀ n, n < 8 → n ≠ 5 → (s.ctx p.val k.val).go = true → _ := fun n hn h5 hgo =>
      congrArg (Host.Outcome.next (φ := Fault) (ρ := Refusal)) (State.ctxWrite_busy hown hreset hn hgo h5 0)
    exact ⟨fun hgo => ⟨hop 0 0 (by decide) (.inl hgo), hop 1 0 (by decide) (.inl hgo), hop 2 0 (by decide) (.inl hgo),
        fun val => hop 3 val (by decide) (.inl hgo), hop 4 0 (by decide) (.inl hgo), hop 6 0 (by decide) (.inl hgo)⟩,
      hop 5 0 (by decide) (.inr rfl),
      fun hgo => ⟨hbusy 0 (by decide) (by decide) hgo, hbusy 1 (by decide) (by decide) hgo, hbusy 2 (by decide) (by decide) hgo,
        hbusy 4 (by decide) (by decide) hgo, hbusy 6 (by decide) (by decide) hgo⟩⟩
  case performed =>
    have hdo := State.ctxOp_allowed h7 h5 hproceed hst hcl hu
    refine ⟨?_, ?_, ?_, fun hbusy => ⟨?_, ?_, ?_⟩⟩ <;> rintro rfl <;> rw [hdo]
    · rfl
    · rfl
    · rfl
    all_goals simp [hbusy, State.ctxPerform, cxRestoring]

end Sys2Proof.Machine
end

section
/-! SUPPORT. A context reset that ends a chain, and the statement about the ends of the context operations, which fails (06 R159, 15 R358). -/
namespace Sys2Proof.Machine

/-- The context that is reset. -/
def chainCtx : CtxId := { part := 0, ctx := 0, gen := 0 }

/-- Its SEC_CHAIN on cluster 0. -/
def chainCmd : CmdRef := refOf 0 0 0 0 3

/-- The chain of that command, at the second of its two sections. -/
def chainSecond : Chain :=
  { cmd := chainCmd, cluster := 0, n := 2, pos := 1, bats := [0, 1], vas := [0, 0], ids := [0, 0], hoffs := [], hoDone := [], owner := chainCtx
    stopAsked := false }

/-- Context 0 of partition 0 with the command in progress. -/
def inChain : State := { State.reset with
  ctxs := [(0, { Ctx.reset with st := 1, queues := [(0, { CmdQueue.reset with inProg := [chainCmd] })] })]
  clusters := [(0, { Cluster.reset with chains := [chainSecond] })] }

/-- A reset whose context's work has ended, with the positions that its commands complete with. -/
def State.resetEnds (s : State) (p k : Nat) (pos : CmdRef → Nat) : State :=
  (((s.completeAll p k St.superseded pos).updCtx p k (fun c => { c with
    st := 1, gen := (c.gen + 1) % 2 ^ 8, qstop := 0, go := false, result := St.completed
    queues := tmap c.queues (fun _ q => q.afterReset), xlat := { c.xlat with faulted := false } })).pumpAll).answer (waitCtx p k) St.completed

/-- The positions are those of the chains before the work ended (06 R159). -/
theorem State.finishReset_eq (s : State) (p k : Nat) : s.finishReset p k = (s.endWork (s.ident p k)).resetEnds p k s.chainPos := rfl

/-- Completed with the positions of before, the command names the section that the chain was at; with those of after, when the chain is gone,
the first. -/
theorem resetEnds_inChain :
    (((inChain.endWork chainCtx).resetEnds 0 0 inChain.chainPos).ctx 0 0).comps = [compEntry chainCmd St.superseded 1 0] ∧
    (((inChain.endWork chainCtx).resetEnds 0 0 (inChain.endWork chainCtx).chainPos).ctx 0 0).comps =
      [compEntry chainCmd St.superseded 0 0] := by decide +kernel

/-- Refutes O28: its clause on a context reset reads the positions of chains after the context's work has ended, when no chain of it is left.
In `inChain` the statement completes the SEC_CHAIN with position 0, where the model, as 06 R159 asks, gives the position 1 that it was at. -/
theorem not_contextCompletionsAndReset : ¬ Obligations.ContextCompletionsAndReset := by
  intro h
  obtain ⟨_, hreset⟩ := h
  obtain ⟨_, _, hfinish, _⟩ := hreset inChain 0 0
  have hends : (inChain.endWork chainCtx).resetEnds 0 0 inChain.chainPos =
      (inChain.endWork chainCtx).resetEnds 0 0 (inChain.endWork chainCtx).chainPos := (inChain.finishReset_eq 0 0).symm.trans hfinish
  obtain ⟨hbefore, hafter⟩ := resetEnds_inChain
  have hentries := congrArg (fun s => (s.ctx 0 0).comps) hends
  exact absurd (hbefore.symm.trans (hentries.trans hafter)) (by decide +kernel)

end Sys2Proof.Machine
end

section
/-! SUPPORT. The resets and the link of a host port, one rule per event, and the statement about them (11 R254, 16 R368, R370, 20 R451, R453). -/
namespace Sys2Proof.Machine

/-- A reset of a port takes its registers to their reset values (11 R254, 22 R497). -/
theorem State.resetPort_registers (s : State) (p : Nat) : (s.resetPort p).stager p = Stager.reset ∧ (s.resetPort p).loader p = FwStager.reset ∧
    (∀ e ∈ (s.resetPort p).hosts.windows, e.1 / 16 ≠ p) ∧ (∀ e ∈ (s.resetPort p).hosts.msix, e.1 / 34816 ≠ p) := by
  refine ⟨tget_tset_same _ _ _ _, tget_tset_same _ _ _ _, fun e he => ?_, fun e he => ?_⟩
  · simpa using (List.mem_filter.mp he).2
  · simpa using (List.mem_filter.mp he).2

/-- A bit that is cleared reads 0. -/
theorem testBit_clearBits (n i : Nat) : (clearBits n (2 ^ i)).testBit i = false := by
  rw [clearBits, Nat.and_two_pow]
  cases h : n.testBit i with
  | false => simpa using h
  | true =>
    have hodd : n / 2 ^ i % 2 = 1 := by simpa [Nat.testBit_eq_decide_div_mod_eq] using h
    have hdiv : (n - 2 ^ i) / 2 ^ i = n / 2 ^ i - 1 := by simpa using Nat.sub_mul_div n (2 ^ i) 1
    have heven : (n / 2 ^ i - 1) % 2 = 0 := by omega
    rw [Bool.toNat_true, Nat.one_mul, Nat.testBit_eq_decide_div_mod_eq, hdiv, heven]
    rfl

/-- The ports whose links are up change (20 R451). -/
def State.updPcieUp (s : State) (f : Nat → Nat) : State := { s with boot := { s.boot with pcieUp := f s.boot.pcieUp } }

theorem State.updPcieUp_port (s : State) (f : Nat → Nat) (port : Nat) : (s.updPcieUp f).port port = s.port port := rfl

section
variable {s : State} {port : Fin 4}

/-! PERST# (11 R254, 16 R368, R387). -/

/-- PERST# asserted resets the port, and takes its link down. -/
theorem exec_perst_asserted (h : (s.port port.val).perst = false) : exec (.perst port) s = .next (((s.portEvent port.val).updPort
    port.val (fun q => { q with perst := true, l0 := false, up := false })).updPcieUp (clearBits · (2 ^ port.val))) := by
  refine congrArg Host.Outcome.next ?_
  simp only [stepPerst, h, Bool.false_eq_true, if_false]
  rfl

/-- Once stage 1 has ended, PERST# deasserted starts stage 2 of the port. -/
theorem exec_perstDeassert (h : (s.port port.val).perst = true) : exec (.perstDeassert port) s =
    .next (if s.boot.done.testBit 1 then (s.updPort port.val (fun q => { q with perst := false })).startStage 2 port.val
      else s.updPort port.val (fun q => { q with perst := false })) :=
  congrArg Host.Outcome.next (if_neg (by simp [h]))

/-! The link (11 R254, 16 R368, 20 R451). -/

theorem exec_linkTrainingComplete_up (hperst : (s.port port.val).perst = false) (hstage : s.boot.done.testBit 1 = true)
    (hopen : s.stageOpen 2 port.val = false) : exec (.linkTrainingComplete port true) s = .next ((s.updPort port.val (fun q =>
      { q with l0 := true, up := true })).updPcieUp (· ||| 2 ^ port.val)) := by
  refine congrArg Host.Outcome.next ?_
  simp only [stepLinkTrainingComplete, hperst, hstage, Bool.not_true, Bool.or_self, Bool.false_eq_true, if_false]
  exact if_neg (Bool.eq_false_iff.mp hopen)

theorem exec_linkTrainingComplete_failed : exec (.linkTrainingComplete port false) s = .next s := rfl

theorem exec_dlDown_hotReset_down (h : (s.port port.val).l0 = false) :
    exec (.hotReset port) s = .next s ∧ exec (.dlDown port) s = .next s := by
  have hdown : ¬ (s.port port.val).l0 = true := by simp [h]
  exact ⟨congrArg Host.Outcome.next (if_neg hdown), congrArg Host.Outcome.next (if_neg hdown)⟩

section
variable (hl0 : (s.port port.val).l0 = true)
include hl0

theorem exec_dlDown : exec (.dlDown port) s = .next ((s.portEvent port.val).updPort port.val (fun q => { q with l0 := false })) :=
  congrArg Host.Outcome.next (if_pos hl0)

theorem exec_hotReset : exec (.hotReset port) s = .next (s.portEvent port.val) := congrArg Host.Outcome.next (if_pos hl0)

/-! The functions of the port (11 R251, R254): function 0 is the PF, and a VF is there where a partition holds it. -/

theorem exec_functionLevelReset_pf : exec (.functionLevelReset port 0) s = .next (s.portEvent port.val) := by
  refine congrArg Host.Outcome.next ?_
  simp [stepFunctionLevelReset, hl0, State.fnEnabled]

/-- A VF's reset resets the partitions that hold it, and its interrupts. -/
theorem exec_functionLevelReset_vf {f : Fin 17} (hf : f.val ≠ 0) (hon : s.fnEnabled port.val f.val = true) {q : State}
    (hq : s.each (s.cfg.dev.parts.filter (fun e => e.2.owner == port.val && e.2.vf == f.val)) (fun v e => (v.orderPartReset e.1 false).1) = q) :
    exec (.functionLevelReset port f) s = .next { q with hosts := { q.hosts with
      msix := q.hosts.msix.filter (fun e => e.1 / 2048 != port.val * 17 + f.val) } } := by
  refine congrArg Host.Outcome.next ?_
  simp only [stepFunctionLevelReset, hl0, hon, hf, hq, Bool.not_true, Bool.or_self, Bool.false_eq_true, if_false]

theorem exec_d3hotEntry (hd3 : (s.port port.val).d3 = []) {f : Fin 17} (hon : s.fnEnabled port.val f.val = true) :
    exec (.d3hotEntry port f) s = .next ((if f.val = 0 then s.portEvent port.val else s).updPort port.val (fun q =>
      { q with d3 := q.d3 ++ [f.val] })) := by
  refine congrArg Host.Outcome.next ?_
  simp only [stepD3hotEntry, hl0, hd3, hon, List.contains_nil, Bool.not_true, Bool.or_self, Bool.false_eq_true, if_false]

end

theorem exec_functionLevelReset_disabled {f : Fin 17} (h : s.fnEnabled port.val f.val = false) :
    exec (.functionLevelReset port f) s = .next s :=
  congrArg Host.Outcome.next (if_pos (by simp [h]))

end

/-- Settles O39: PERST#, the link and the resets of functions, each by its rule. -/
theorem hostPortResets : Obligations.HostPortResets := by
  refine fun s port => ⟨fun h => ?perst, fun h hstage => ?deassert, fun h hstage => ?starts, fun h hstage hopen => ?trained,
    exec_linkTrainingComplete_failed, fun hl0 => ⟨exec_dlDown hl0, exec_hotReset hl0, exec_functionLevelReset_pf hl0,
      fun f hf => ⟨fun hon q hq => exec_functionLevelReset_vf hl0 hf hon hq, exec_functionLevelReset_disabled⟩,
      fun hd3 => ⟨fun f hf hon => ?vf, exec_d3hotEntry hl0 hd3 rfl⟩⟩, exec_dlDown_hotReset_down⟩
  case perst =>
    obtain ⟨hstager, hloader, hwindows, hmsix⟩ := (s.resetOwned port.val).resetPort_registers port.val
    refine ⟨_, exec_perst_asserted h, ?_⟩
    rw [State.updPcieUp_port, State.updPort_port_same]
    exact ⟨rfl, rfl, rfl, testBit_clearBits _ _, hstager, hloader, hwindows, hmsix⟩
  case deassert =>
    refine ⟨_, exec_perstDeassert h, ?_⟩
    rw [hstage, if_neg Bool.false_ne_true, State.updPort_port_same]
    exact ⟨rfl, rfl, rfl, rfl⟩
  case starts => rw [exec_perstDeassert h, hstage]; rfl
  case trained =>
    refine ⟨_, exec_linkTrainingComplete_up h hstage hopen, ?_⟩
    rw [State.updPcieUp_port, State.updPort_port_same]
    exact ⟨rfl, rfl, rfl, rfl⟩
  case vf => rw [exec_d3hotEntry hl0 hd3 hon, if_neg hf]

end Sys2Proof.Machine
end

section
/-! SUPPORT. The step counter and the seed of a context, and the STEP command, one rule per outcome, and the statement about them (12 R288,
R290). -/
namespace Sys2Proof.Machine

theorem State.updCtxX_ctxX_same (s : State) (p k : Nat) (f : CtxX → CtxX) : (s.updCtxX p k f).ctxX p k = f (s.ctxX p k) :=
  tget_tset_same _ _ _ _

/-! The step counters of the contexts: a fault record, a message and the sampling windows leave them (13 R305, 15 R344). -/

/-- The step counters, by the key of their context. -/
def State.steps (s : State) (n : Nat) : Nat := (tget s.ctxx n CtxX.reset).step

theorem State.steps_kKey (s : State) (p k : Nat) : s.steps (kKey p k) = (s.ctxX p k).step := rfl

/-- An update of a context's registers that keeps its own counter keeps them all. -/
theorem State.updCtxX_steps (s : State) (p k : Nat) {f : CtxX → CtxX} (hf : ∀ x, (f x).step = x.step := by intro; rfl) :
    (s.updCtxX p k f).steps = s.steps := by
  funext n
  show (tget (tset s.ctxx (kKey p k) (f (s.ctxX p k))) n CtxX.reset).step = _
  rw [tget_tset]
  split
  next h => rw [hf, h]; rfl
  next => rfl

theorem State.translate_steps (s : State) (i : CtxId) (va : Nat) (write : Bool) : (s.translate i va write).1.steps = s.steps := by
  unfold State.translate
  split
  · split <;> rfl
  · rfl

theorem State.report_steps (s : State) (typ payload : Nat) : (s.report typ payload).steps = s.steps :=
  State.each_frame State.steps (fun s port => by split <;> rfl) _

theorem State.msi_steps (s : State) (port f vec : Nat) : (s.msi port f vec).steps = s.steps := by
  unfold State.msi
  dsimp only
  split <;> rfl

theorem State.partMsi_steps (s : State) (p k : Nat) : (s.partMsi p k).steps = s.steps := by
  unfold State.partMsi
  split
  · rfl
  · split
    · exact s.msi_steps _ _ _
    · split
      · exact s.msi_steps _ _ _
      · rfl

theorem State.irqFault_steps (s : State) (p k : Nat) : (s.irqFault p k).steps = s.steps := by
  unfold State.irqFault
  split
  · exact (State.partMsi_steps _ p k).trans (s.updCtxX_steps p k)
  · rfl

theorem State.ringRecord_steps (s : State) (i : CtxId) (r : FaultRec) : (s.ringRecord i r).steps = s.steps := by
  unfold State.ringRecord
  extract_lets x bits s1 fail
  have h1 : s1.steps = s.steps := s.updCtxX_steps _ _
  have hfail : fail.steps = s.steps := (s1.updCtxX_steps _ _).trans h1
  split
  · exact (s1.updCtxX_steps _ _).trans h1
  · split
    next s2 dpa _ htranslate =>
      have h2 : s2.steps = s1.steps := by
        have ht := s1.translate_steps i (x.ringBase + 256 * (x.tail % 2 ^ x.ringSize)) true
        rwa [htranslate] at ht
      have hstored : (s2.store dpa (leBytes 256 bits)).steps = s.steps := h2.trans h1
      split
      · exact (State.irqFault_steps _ _ _).trans ((State.updCtxX_steps _ _ _).trans hstored)
      · exact hfail
    next => exact hfail

theorem State.raise_steps (s : State) (r : FaultRec) : (s.raise r).steps = s.steps := by
  unfold State.raise
  extract_lets rseq bits s1 s2
  have h2 : s2.steps = s.steps := by
    show (if toBelfry r.status then s1.report 0x02 bits else s1).steps = s1.steps
    split
    · exact s1.report_steps _ _
    · rfl
  split
  · split
    · exact (s2.ringRecord_steps _ _).trans h2
    · exact h2
  · split
    · exact (State.partMsi_steps _ _ _).trans h2
    · exact h2

theorem State.checkLimited_steps (s : State) (c ta : Nat) : (s.checkLimited c ta).steps = s.steps := by
  unfold State.checkLimited
  dsimp only
  split
  · exact s.raise_steps _
  · exact (State.each_frame State.steps (fun t _ => t.ringRecord_steps _ _) _).trans (s.raise_steps _)

theorem State.recompute_steps (s : State) (c : Nat) : (s.recompute c).steps = s.steps := by
  unfold State.recompute
  extract_lets x k covered cap needs w limited s1 s2
  have h2 : s2.steps = s.steps := by
    show (if w != x.wLog2 then s1.report _ _ else s1).steps = s1.steps
    split
    · exact s1.report_steps _ _
    · rfl
  split
  · rfl
  · split
    · exact (s2.checkLimited_steps c 0).trans h2
    · exact h2

theorem State.showChecks_steps (s : State) (p : Nat) : (s.showChecks p).steps = s.steps :=
  State.each_frame State.steps (fun t _ => t.updCtxX_steps _ _) s

/-- The windows that a STEP sets again keep the counter that it has set (12 R288, 13 R305). -/
theorem State.stepCtx_step (s : State) (p k : Nat) :
    ((s.stepCtx p k).ctxX p k).step = ((s.ctxX p k).step + 1) % 2 ^ 64 := by
  unfold State.stepCtx
  extract_lets i s1 s2 s3
  have hwindows : ((s3.each (s3.clustersOf p) fun t c => t.recompute c).showChecks p).steps = s1.steps :=
    calc ((s3.each (s3.clustersOf p) fun t c => t.recompute c).showChecks p).steps
      _ = (s3.each (s3.clustersOf p) fun t c => t.recompute c).steps := State.showChecks_steps _ p
      _ = s3.steps := State.each_frame State.steps State.recompute_steps s3
      _ = s2.steps := s2.updCtxX_steps p k
      _ = s1.steps := rfl
  rw [← State.steps_kKey, hwindows, State.steps_kKey, State.updCtxX_ctxX_same]
  rfl

/-! The registers of the step counter and the seed: an owner's write and a refused one (12 R288, R290). -/

theorem State.writeStill_owner {s : State} {fn : Fn} {p k : Nat} (hown : s.ownsP fn p = true) (hreset : s.resetting p = false)
    (hstill : s.stepFree p k = true) (off : Nat) (val : Dword) (f : CtxX → CtxX) :
    (s.unlatch fn).writeStill fn p k off val f = (s.unlatch fn).updCtxX p k f := by
  simp [State.writeStill, hown, hreset, hstill]

/-- Another function's write is refused with reason 2, an owner's during a reset or in another state with reason 3. -/
theorem State.writeStill_refused {s : State} {fn : Fn} {p k r : Nat} (h : (s.ownsP fn p = false ∧ r = 2) ∨
      (s.ownsP fn p = true ∧ (s.resetting p = true ∨ s.stepFree p k = false) ∧ r = 3)) (off : Nat) (val : Dword) (f : CtxX → CtxX) :
    (s.unlatch fn).writeStill fn p k off val f = (s.unlatch fn).refuseP fn p (offP p off) r val.toNat := by
  rcases h with ⟨hown, rfl⟩ | ⟨hown, hbusy, rfl⟩
  · simp [State.writeStill, hown]
  · have hwait : (s.resetting p || !s.stepFree p k) = true := by simpa using hbusy
    simp [State.writeStill, hown, hwait]

section
variable {s : State} {fn : Fn} {p : Fin 16} {k : Fin 64} {val : Dword}

theorem exec_stepCounterWrite_owner (hown : s.ownsP fn p.val = true) (hreset : s.resetting p.val = false)
    (hstill : s.stepFree p.val k.val = true) :
    exec (.stepCounterWrite fn p k val) s = .next ((s.unlatch fn).updCtxX p.val k.val (fun x => { x with step := val.toNat })) :=
  congrArg Host.Outcome.next (State.writeStill_owner hown hreset hstill _ _ _)

theorem exec_seedWrite_owner (hown : s.ownsP fn p.val = true) (hreset : s.resetting p.val = false)
    (hstill : s.stepFree p.val k.val = true) (hi : Bool) :
    exec (.seedWrite fn p k hi val) s = .next ((s.unlatch fn).updCtxX p.val k.val (fun x =>
      if hi then { x with seedHi := val } else { x with seedLo := val })) :=
  congrArg Host.Outcome.next (State.writeStill_owner hown hreset hstill _ _ _)

end

/-! STEP (12 R288): done once every earlier command of its queue has completed. -/

theorem exec_stepCommand {s : State} {p : Fin 16} {k : Fin 64} {r : CmdRef}
    (h : s.fetchedCmd p.val k.val 0 0x33 = some r) :
    exec (.stepCommand p k) s =
      .next (if s.allEarlier r then ((s.startCmd r).stepCtx p.val k.val).complete r St.completed 0 else s) := by
  refine congrArg Host.Outcome.next ?_
  simp only [stepStepCommand, h]

/-- Settles O10: an owner's write and a refused one of each register, and the STEP command, each by its rule. -/
theorem stepAndSeed : Obligations.StepAndSeed := by
  refine ⟨fun s fn p k val => ⟨fun hown hreset hstill => ⟨?counter, ?seedLo, ?seedHi⟩, fun r h => ⟨?refused, fun hi => ?seedRefused⟩⟩,
    fun s p k => ⟨fun r h hall => ?steps, fun r h hall => ?waits, fun s => s.stepCtx_step p.val k.val⟩⟩
  case counter =>
    refine ⟨_, exec_stepCounterWrite_owner hown hreset hstill, ?_, s.unlatch_ctxs fn, s.unlatch_mem fn, s.unlatch_tiles fn⟩
    rw [State.updCtxX_ctxX_same]
  case seedLo | seedHi =>
    refine ⟨_, exec_seedWrite_owner hown hreset hstill _, ?_, ?_, s.unlatch_ctxs fn, s.unlatch_mem fn⟩
    · rw [State.updCtxX_ctxX_same]; rfl
    · rw [State.updCtxX_ctxX_same, State.unlatch_ctxX]; rfl
  case refused | seedRefused => exact congrArg Host.Outcome.next (State.writeStill_refused h _ _ _)
  case steps | waits => rw [exec_stepCommand h, hall]; rfl

end Sys2Proof.Machine
end

section
/-! SUPPORT. The ends of passes and the double-stroke checks, one rule per command, and the statement about them (13 R301, R303, R304,
R306-R309, 02 R69). -/
namespace Sys2Proof.Machine

@[simp] theorem State.updClX_clX_same (s : State) (c : Nat) (f : ClusterX → ClusterX) : (s.updClX c f).clX c = f (s.clX c) :=
  tget_tset_same _ _ _ _

@[simp] theorem State.updClX_tile (s : State) (c : Nat) (f : ClusterX → ClusterX) (ta : Nat) : (s.updClX c f).tile ta = s.tile ta := rfl

@[simp] theorem State.updTile_clX (s : State) (ta : Nat) (f : Tile → Tile) (c : Nat) : (s.updTile ta f).clX c = s.clX c := rfl

/-! Passes (13 R301, R304). -/

/-- A tile's pass is counted in its test record; what becomes of the capture is given. -/
def TileTest.passed (y : TileTest) (i : CtxId) (f : Option Capture → Option Capture) : TileTest :=
  { y with
    passes := wrapAdd 48 y.passes 1, passIdx := y.passIdx + 1, capture := f y.capture
    stats := bumpStat i (fun e => { e with passes := e.passes + 1 }) y.stats }

/-- The pass of a tile is counted. -/
def State.passCounted (s : State) (ta : Nat) (i : CtxId) (f : Option Capture → Option Capture) : State :=
  s.updTile ta (fun t => t.updTest (·.passed i f))

/-- What the beginning of a pass leaves: every tile but its own, its core, its count of passes, and memory (13 R304). -/
theorem State.beginPass_frame (s : State) (c b pos ta : Nat) : (s.beginPass c b pos ta).mem = s.mem ∧
    (∀ n, n ≠ ta → (s.beginPass c b pos ta).tile n = s.tile n) ∧ ((s.beginPass c b pos ta).tile ta).core = (s.tile ta).core ∧
    ((s.beginPass c b pos ta).tile ta).test.passes = (s.tile ta).test.passes ∧
    ((s.beginPass c b pos ta).tile ta).test.passIdx = (s.tile ta).test.passIdx := by
  unfold State.beginPass
  extract_lets t n wl w s1 due
  clear_value w due
  split
  · exact ⟨rfl, fun m hm => by simp [s1, State.updTile_tile, hm], by simp [s1, Tile.updTest]⟩
  · split
    · exact ⟨rfl, fun m hm => by simp [s1, State.updTile_tile, hm], by simp [s1, Tile.updTest]⟩
    · exact ⟨rfl, fun m hm => by simp [s1, State.updTile_tile, hm], by simp [s1, Tile.updTest]⟩

/-- A pass that begins keeps a capture that its tile still holds, and the tiles whose captures wait. -/
theorem State.beginPass_capture (s : State) (c b pos ta : Nat) {k : Capture} (h : (s.tile ta).test.capture = some k) :
    ((s.beginPass c b pos ta).tile ta).test.capture = some k ∧ ((s.beginPass c b pos ta).clX c).capWait = (s.clX c).capWait := by
  have hfull : (s.tile ta).test.capture.isNone = false := by rw [h]; rfl
  unfold State.beginPass
  extract_lets t n wl w s1 due
  clear_value w due
  simp only [t, hfull, Bool.and_false, Bool.false_eq_true, if_false]
  split <;> simp [s1, Tile.updTest, h]

section
variable {s : State} {t : TileId} {b pos : Nat} {img : SecImage} {i : CtxId} (hbat : s.batOf (tileKey t) = some (b, pos))
  (himg : (s.bat t.c.val b).active = some img) (howner : (s.bat t.c.val b).owner = some i) (hrun : (s.bat t.c.val b).st = .run)
  (hdue : (s.bat t.c.val b).passDue img (s.tile (tileKey t)).test.passIdx = true)
include hbat himg howner hrun hdue

/-- A pass that ends with no capture open is counted, and the next begins while the section has one. -/
theorem exec_passEnd_counts (h : ∀ k, (s.tile (tileKey t)).test.capture = some k → k.complete = true) :
    exec (.passEnd t) s = .next (if 64 * ((s.tile (tileKey t)).test.passIdx + 1) < img.cycles then
      (s.passCounted (tileKey t) i id).beginPass t.c.val b pos (tileKey t)
      else s.passCounted (tileKey t) i id) := by
  refine congrArg Host.Outcome.next ?_
  have hdue' : ((s.bat t.c.val b).st != .run || !(s.bat t.c.val b).passDue img (s.tile (tileKey t)).test.passIdx) = false := by
    rw [hrun, hdue]; rfl
  simp only [stepPassEnd, hbat, himg, howner, hdue', Bool.false_eq_true, if_false]
  cases hcap : (s.tile (tileKey t)).test.capture with
  | none => rfl
  | some k =>
    simp only [h k hcap]
    rfl

/-- A capture under way is finished with its pass and waits for a check. -/
theorem exec_passEnd_captures {k : Capture} (hcap : (s.tile (tileKey t)).test.capture = some k) (hopen : k.complete = false) :
    ∃ f : ClusterX → ClusterX, (∀ x, tileKey t ∈ (f x).capWait) ∧
      exec (.passEnd t) s = .next (if 64 * ((s.tile (tileKey t)).test.passIdx + 1) < img.cycles then
        ((s.passCounted (tileKey t) i (Option.map Capture.finish)).updClX t.c.val f).beginPass t.c.val b pos (tileKey t)
        else (s.passCounted (tileKey t) i (Option.map Capture.finish)).updClX t.c.val f) := by
  refine ⟨fun z => { z with capWait := if 2 ≤ (s.tile (tileKey t)).test.lostRun then tileKey t :: z.capWait else z.capWait ++ [tileKey t] },
    fun x => ?_, congrArg Host.Outcome.next ?_⟩
  · dsimp only
    split <;> simp
  · simp only [stepPassEnd, hbat, himg, howner, hrun, hdue, hcap, hopen, bne_self_eq_false, Bool.not_true, Bool.not_false, Bool.or_self,
      Bool.false_eq_true, if_false, if_true]
    rfl

end

/-! Checks (13 R306-R309). -/

theorem State.endDutyOf_clX (s : State) (k : Check) (c : Nat) : (s.endDutyOf k).clX c = s.clX c := by
  unfold State.endDutyOf
  split <;> rfl

theorem State.endFirst_clX (s : State) (k : Check) (c : Nat) : (s.endFirst k).clX c = s.clX c := by
  unfold State.endFirst
  split
  · split <;> rfl
  · rfl

/-- A check that ends leaves the losses that its worker's record counts. -/
theorem State.endDutyOf_losses (s : State) (k : Check) (n : Nat) : ((s.endDutyOf k).tile n).test.lostRun = (s.tile n).test.lostRun := by
  unfold State.endDutyOf
  split
  · rw [State.endDuty, State.updTile_tile]
    split
    · next h => rw [h]
    · rfl
  · rfl

theorem State.checkDone_effect (s : State) (k : Check) (good : Bool) :
    ((s.checkDone k good).clX (taC k.worker)).checks = (s.clX (taC k.worker)).checks.erase k ∧
    ((s.checkDone k good).clX (taC k.worker)).checked = wrapAdd 32 (s.clX (taC k.worker)).checked 1 ∧
    ((s.checkDone k good).tile k.worker).test.lostRun = 0 := by
  unfold State.checkDone
  dsimp only
  rw [State.updTile_clX, State.updClX_clX_same, State.endFirst_clX, State.endDutyOf_clX, State.tile_updTile_same]
  exact ⟨rfl, rfl, rfl⟩

/-- A check is lost and abandoned, and its worker counts it; whether it is the third in a row is given. -/
def State.lossCounted (s : State) (k : Check) (limit : Bool) : State :=
  ((s.endDutyOf k).updClX (taC k.worker) (fun x => { x with lostCnt := satAdd 16 x.lostCnt 1, checks := x.checks.erase k })).updTile k.worker
    (fun t => t.updTest (fun x => { x with lostRun := x.lostRun + 1, limitedSent := x.limitedSent || limit }))

theorem State.loseCheck_eq (s : State) (k : Check) : s.loseCheck k =
    if 3 ≤ (s.tile k.worker).test.lostRun + 1 ∧ (s.tile k.worker).test.limitedSent = false then
      (s.lossCounted k true).checkLimited (taC k.worker) k.worker
    else s.lossCounted k false := by
  unfold State.loseCheck
  dsimp only
  by_cases h : 3 ≤ (s.tile k.worker).test.lostRun + 1 ∧ (s.tile k.worker).test.limitedSent = false
  · rw [if_pos h, decide_eq_true h.1, h.2]
    rfl
  · have hlimit : (decide (3 ≤ (s.tile k.worker).test.lostRun + 1) && !(s.tile k.worker).test.limitedSent) = false := by simpa using h
    rw [if_neg h, hlimit]
    rfl

theorem State.lossCounted_effect (s : State) (k : Check) (limit : Bool) :
    ((s.lossCounted k limit).clX (taC k.worker)).checks = (s.clX (taC k.worker)).checks.erase k ∧
    ((s.lossCounted k limit).clX (taC k.worker)).lostCnt = satAdd 16 (s.clX (taC k.worker)).lostCnt 1 ∧
    ((s.lossCounted k limit).tile k.worker).test.lostRun = (s.tile k.worker).test.lostRun + 1 := by
  unfold State.lossCounted
  rw [State.updTile_clX, State.updClX_clX_same, State.endDutyOf_clX, State.tile_updTile_same]
  exact ⟨rfl, rfl, congrArg (· + 1) (s.endDutyOf_losses k k.worker)⟩

section
variable {s : State} {t h : TileId}

/-- A checker takes a capture into its stroke buffer (02 R69). -/
def State.dutyTaken (s : State) (c h : Nat) (cap : Capture) : State :=
  State.updTile { s with health := { s.health with rr := tset s.health.rr c h } } h (fun t => t.updTest (fun y => { y with duty := some cap }))

/-- The finished capture of a worker leaves its tile, and its check by a checker begins (13 R306). -/
def State.checkBegun (s : State) (c ta h : Nat) (cap : Capture) : State :=
  (s.updTile ta (fun t => t.updTest (fun y => { y with capture := none }))).updClX c (fun x => { x with
    capWait := x.capWait.erase ta
    checks := x.checks ++ [{ worker := ta, capture := cap, checker := some h, first := none, dead := false }] })

/-- A check leaves its first checker for a second one (13 R309). -/
def State.secondAsked (s : State) (c f h : Nat) (k : Check) : State :=
  (s.endDuty f).updClX c (fun x => { x with checks := x.checks.map (fun j => if j == k then { j with checker := some h } else j) })

theorem State.dutyTaken_effect (s : State) (c h : Nat) (cap : Capture) : ((s.dutyTaken c h cap).tile h).test.duty = some cap ∧
    (∀ n, ((s.dutyTaken c h cap).tile n).test.capture = (s.tile n).test.capture) ∧ (s.dutyTaken c h cap).clX = s.clX ∧
    (s.dutyTaken c h cap).mem = s.mem := by
  refine ⟨congrArg (·.test.duty) (State.tile_updTile_same _ _ _), fun n => ?_, rfl, rfl⟩
  rw [State.dutyTaken, State.updTile_tile]
  split
  · next heq => rw [heq]; rfl
  · rfl

/-- The oldest capture that can be served goes to the checker the rule picks. -/
theorem exec_check_first {cap : Capture} (hnone : (s.clX t.c.val).checks.find? (fun k => k.needsSecond (tileKey t)) = none)
    (hcap : (s.tile (tileKey t)).test.capture = some cap) (hcomplete : cap.complete = true) (hwait : tileKey t ∈ (s.clX t.c.val).capWait)
    (holder : ∀ u ∈ (s.clX t.c.val).capWait.takeWhile (· != tileKey t), s.servable u = false)
    (hpick : s.pickChecker (tileKey t) [] (s.priority (tileKey t)) = some (tileKey h)) :
    exec (.check t h) s = .next ((s.checkBegun t.c.val (tileKey t) (tileKey h) cap).dutyTaken t.c.val (tileKey h) cap) := by
  have hserved : ((s.clX t.c.val).capWait.takeWhile (· != tileKey t)).any (fun u => s.servable u) = false :=
    List.any_eq_false.mpr fun u hu => by simp [holder u hu]
  have hin : (s.clX t.c.val).capWait.contains (tileKey t) = true := by simpa using hwait
  refine congrArg Host.Outcome.next ?_
  simp only [stepCheck, hnone, hcap, hcomplete, hin, hpick, hserved, bne_self_eq_false, Bool.not_true, Bool.or_self, Bool.false_eq_true, if_false]
  rfl

/-- A check that disagreed goes to a second checker. -/
theorem exec_check_second {k : Check} {f : Nat} {sig : Word}
    (hk : (s.clX t.c.val).checks.find? (fun k => k.needsSecond (tileKey t)) = some k) (hfirst : k.first = some (f, sig))
    (hpick : s.pickChecker (tileKey t) [f] false = some (tileKey h)) :
    exec (.check t h) s = .next ((s.secondAsked t.c.val f (tileKey h) k).dutyTaken t.c.val (tileKey h) k.capture) := by
  refine congrArg Host.Outcome.next ?_
  simp only [stepCheck, hk, hfirst, Option.map_some, Option.getD_some, hpick, beq_self_eq_true, if_true]
  rfl

theorem exec_checkResult {k : Check} (hk : (s.clX t.c.val).checks.find? (fun k => k.worker == tileKey t && k.first.isNone && k.checker.isSome) =
    some k) (sig : Word) : exec (.checkResult t sig) s = .next (if sig = k.capture.signature then s.checkDone k true else
      s.updClX t.c.val (fun x => { x with
        checks := x.checks.map (fun j => if j == k then { j with checker := none, first := j.checker.map (fun h => (h, sig)) } else j) })) := by
  refine congrArg Host.Outcome.next ?_
  simp only [stepCheckResult, hk]

theorem exec_secondCheckResult {k : Check} {f h : Nat} {sig1 : Word}
    (hk : (s.clX t.c.val).checks.find? (fun k => k.worker == tileKey t && k.first.isSome && k.checker.isSome) = some k)
    (hfirst : k.first = some (f, sig1)) (hsecond : k.checker = some h) (sig : Word) : exec (.secondCheckResult t sig) s =
      .next (if sig = k.capture.signature then
        ((s.raise { s.findingRec k 0xB1 false h sig.toNat with part := none }).checkDone k false).confirm 2 f 1 0xB1
      else if sig = sig1 then (s.checkDone k false).workerErrs k false h sig.toNat
      else ((s.checkDone k false).workerErrs k true h sig.toNat).suspect f 0xB0) := by
  refine congrArg Host.Outcome.next ?_
  simp only [stepSecondCheckResult, hk, hfirst, hsecond]

theorem exec_secondCheckTimeout {k : Check} (hk : (s.clX t.c.val).checks.find? (fun k => k.worker == tileKey t && k.first.isSome) = some k) :
    exec (.secondCheckTimeout t) s = .next ((s.checkDone k false).workerErrs k true 0 0) := by
  refine congrArg Host.Outcome.next ?_
  simp only [stepSecondCheckTimeout, hk]

theorem exec_checkLost {k : Check} (hk : (s.clX t.c.val).checks.find? (fun k => k.worker == tileKey t && k.first.isNone) = some k) :
    exec (.checkLost t) s = .next (s.loseCheck k) := by
  refine congrArg Host.Outcome.next ?_
  simp only [stepCheckLost, hk]

end

/-- Settles O11: the end of a pass, the commands of the checks, and what a check done or lost changes, each by its rule. -/
theorem passEndsAndChecks : Obligations.PassEndsAndChecks := by
  refine ⟨fun s t b pos img i hbat himg howner hrun hdue => ⟨fun hclosed => ?counted, fun k hcap hopen => ?captured⟩,
    fun s t => ⟨fun h cap hnone hcap hcomplete hwait holder hpick => ?first, fun h k f sig hk hfirst hpick => ?second, fun k sig hk => ?result,
      fun k f h sig1 sig hk hfirst hsecond => ?secondResult, fun k hk => exec_secondCheckTimeout hk, fun k hk => exec_checkLost hk⟩,
    fun s k => ⟨s.checkDone_effect k, fun hrun => ?lost, fun hrun hsent => ?limited⟩⟩
  case counted =>
    refine ⟨_, s.passCounted (tileKey t) i id, exec_passEnd_counts hbat himg howner hrun hdue hclosed, ?_⟩
    have hmem : (s.passCounted (tileKey t) i id).mem = s.mem := rfl
    have hother : ∀ n, n ≠ tileKey t → (s.passCounted (tileKey t) i id).tile n = s.tile n := fun n hn => s.tile_updTile_ne _ hn
    have hown : (s.passCounted (tileKey t) i id).tile (tileKey t) = (s.tile (tileKey t)).updTest (·.passed i id) := s.tile_updTile_same _ _
    split
    · next hmore =>
      obtain ⟨hm, ho, hcore, hpasses, hidx⟩ := (s.passCounted (tileKey t) i id).beginPass_frame t.c.val b pos (tileKey t)
      rw [hm, hcore, hpasses, hidx, hown]
      exact ⟨rfl, rfl, rfl, fun n hn => (ho n hn).trans (hother n hn), hmem, rfl, rfl, fun hle => absurd hmore (Nat.not_lt.mpr hle), fun _ => rfl⟩
    · next hlast =>
      rw [hown]
      exact ⟨rfl, rfl, rfl, hother, hmem, rfl, rfl, fun _ => rfl, fun hlt => absurd hlt hlast⟩
  case captured =>
    obtain ⟨f, hf, hexec⟩ := exec_passEnd_captures hbat himg howner hrun hdue hcap hopen
    refine ⟨_, hexec, ?_⟩
    have hown : (((s.passCounted (tileKey t) i (Option.map Capture.finish)).updClX t.c.val f).tile (tileKey t)).test.capture = some k.finish := by
      rw [State.updClX_tile, State.passCounted, State.tile_updTile_same]
      exact congrArg (Option.map Capture.finish) hcap
    have hwait : tileKey t ∈ (((s.passCounted (tileKey t) i (Option.map Capture.finish)).updClX t.c.val f).clX t.c.val).capWait := by
      rw [State.updClX_clX_same]
      exact hf _
    split
    · obtain ⟨hkept, hqueue⟩ := State.beginPass_capture _ t.c.val b pos (tileKey t) hown
      exact ⟨hkept, hqueue ▸ hwait, (State.beginPass_frame _ t.c.val b pos (tileKey t)).1⟩
    · exact ⟨hown, hwait, rfl⟩
  case first =>
    refine ⟨_, exec_check_first hnone hcap hcomplete hwait holder hpick, ?_⟩
    obtain ⟨hduty, hcaptures, hx, hmem⟩ := State.dutyTaken_effect (s.checkBegun t.c.val (tileKey t) (tileKey h) cap) t.c.val
      (tileKey h) cap
    rw [hcaptures, hx, hmem, State.checkBegun, State.updClX_tile, State.tile_updTile_same, State.updClX_clX_same]
    exact ⟨rfl, rfl, rfl, hduty, rfl⟩
  case second =>
    refine ⟨_, exec_check_second hk hfirst hpick, ?_⟩
    obtain ⟨hduty, _, hx, hmem⟩ := State.dutyTaken_effect (s.secondAsked t.c.val f (tileKey h) k) t.c.val (tileKey h) k.capture
    rw [hx, hmem, State.secondAsked, State.updClX_clX_same]
    exact ⟨rfl, hduty, rfl⟩
  case result =>
    rw [exec_checkResult hk]
    refine ⟨fun h => by rw [if_pos h], fun h => ⟨_, congrArg Host.Outcome.next (if_neg h), rfl, rfl, fun j hj hjk => ?_⟩⟩
    rw [State.updClX_clX_same]
    refine List.mem_map.mpr ⟨j, hj, ?_⟩
    rw [hjk, beq_self_eq_true, if_pos rfl]
  case secondResult =>
    rw [exec_secondCheckResult hk hfirst hsecond]
    exact ⟨fun h => by rw [if_pos h], fun h h1 => by rw [if_neg h, if_pos h1], fun h h1 => by rw [if_neg h, if_neg h1]⟩
  case lost =>
    rw [State.loseCheck_eq, if_neg (fun h => by omega)]
    exact s.lossCounted_effect k false
  case limited =>
    refine ⟨_, by rw [State.loseCheck_eq, if_pos ⟨by omega, hsent⟩], ?_⟩
    simp [State.lossCounted, Tile.updTest]

end Sys2Proof.Machine
end

section
/-! SUPPORT. Records and reports write parts of the state of their own, and leave the others (15 R344, 18 R417, 20 R462). -/
namespace Sys2Proof.Machine

/-- The state without what reporting writes: the log, the belfry, what is driven outward, the interrupts, the fault rings in device memory, of
which no cached line stays, the registers that show a record, and the count of free values. -/
def State.unreported (s : State) : State :=
  { s with
    log := LogSys.reset, belfry := Belfry.reset, out := [], hosts := Hosts.reset, mem := MemSys.reset, clusters := [], ctxx := [], parts := []
    freeCtr := 0 }

variable (s : State)

@[simp] theorem State.log_unreported (typ core comp n data : Nat) : (s.log_ typ core comp n data).unreported = s.unreported := rfl

@[simp] theorem State.bfSend_unreported (typ : Nat) (resp ack : Bool) (seq ref : Nat) (payload : List Byte) :
    (s.bfSend typ resp ack seq ref payload).unreported = s.unreported :=
  State.each_frame State.unreported (fun t port => by split <;> rfl) s

@[simp] theorem State.report_unreported (typ payload : Nat) : (s.report typ payload).unreported = s.unreported :=
  State.bfSend_unreported _ _ _ _ _ _ _

@[simp] theorem State.event_unreported (status unit_ : Nat) : (s.event status unit_).unreported = s.unreported := State.report_unreported _ _ _

@[simp] theorem State.respond_unreported (port typ ref status : Nat) (bytes : List Byte) :
    (s.respond port typ ref status bytes).unreported = s.unreported := by
  unfold State.respond
  extract_lets b m all low s1
  split <;> rfl

@[simp] theorem State.answer_unreported (key status : Nat) : (s.answer key status).unreported = s.unreported :=
  State.each_frame State.unreported (fun t _ => t.respond_unreported _ _ _ _ _) _

@[simp] theorem State.msi_unreported (port f vec : Nat) : (s.msi port f vec).unreported = s.unreported := by
  unfold State.msi
  dsimp only
  split <;> rfl

@[simp] theorem State.partMsi_unreported (p k : Nat) : (s.partMsi p k).unreported = s.unreported := by
  unfold State.partMsi
  split
  · rfl
  · split
    · exact s.msi_unreported _ _ _
    · split
      · exact s.msi_unreported _ _ _
      · rfl

@[simp] theorem State.irqFault_unreported (p k : Nat) : (s.irqFault p k).unreported = s.unreported := by
  unfold State.irqFault
  split
  · exact State.partMsi_unreported _ _ _
  · rfl

theorem State.translate_unreported (i : CtxId) (va : Nat) (write : Bool) : (s.translate i va write).1.unreported = s.unreported := by
  unfold State.translate
  split
  · split <;> rfl
  · rfl

@[simp] theorem State.ringRecord_unreported (i : CtxId) (r : FaultRec) : (s.ringRecord i r).unreported = s.unreported := by
  unfold State.ringRecord
  extract_lets x bits s1 fail
  split
  · rfl
  · split
    next s2 dpa _ htranslate =>
      have h2 : s2.unreported = s.unreported := by
        have h := s1.translate_unreported i (x.ringBase + 256 * (x.tail % 2 ^ x.ringSize)) true
        rwa [htranslate] at h
      split
      · exact (State.irqFault_unreported _ _ _).trans h2
      · rfl
    next => rfl

/-- A record changes nothing but what reporting writes (15 R344). -/
@[simp] theorem State.raise_unreported (r : FaultRec) : (s.raise r).unreported = s.unreported := by
  unfold State.raise
  extract_lets rseq bits s1 s2
  have h2 : s2.unreported = s.unreported := by
    show (if toBelfry r.status then s1.report 0x02 bits else s1).unreported = s1.unreported
    split
    · exact s1.report_unreported _ _
    · rfl
  split
  · split
    · exact (s2.ringRecord_unreported _ _).trans h2
    · exact h2
  · split
    · exact (State.partMsi_unreported _ _ _).trans h2
    · exact h2

@[simp] theorem State.raise_ledger (r : FaultRec) : (s.raise r).ledger = s.ledger :=
  (congrArg State.ledger (s.raise_unreported r) :)

end Sys2Proof.Machine
end

section
/-! SUPPORT. Fields of records, confirmed errors and the ledger's entry of a unit, and the statement about them (00 R9, 13 R315, R317, R319). -/
namespace Sys2Proof.Machine

/-! A field that is set, and those below and above it (00 R9). -/

theorem field_setField_same (n lo w v : Nat) : field (setField n lo w v) lo w = v % 2 ^ w := by
  have hsum : setField n lo w v = n % 2 ^ lo + 2 ^ lo * (v % 2 ^ w + 2 ^ w * (n / 2 ^ (lo + w))) := by
    rw [setField, pow_add]
    ring
  rw [field, hsum, Nat.add_mul_div_left _ _ (Nat.two_pow_pos lo), Nat.div_eq_of_lt (Nat.mod_lt n (Nat.two_pow_pos lo)), Nat.zero_add,
    Nat.add_mul_mod_self_left, Nat.mod_mod]

/-- A field is cut of a number whose higher bits do not matter. -/
theorem field_eq_of_mod_eq {m n lo w : Nat} (h : m % 2 ^ (lo + w) = n % 2 ^ (lo + w)) : field m lo w = field n lo w := by
  have hcut : ∀ x, field x lo w = x % 2 ^ (lo + w) / 2 ^ lo := fun x => by rw [field, pow_add, Nat.mod_mul_right_div_self]
  rw [hcut, hcut, h]

/-- A field is cut of a number whose lower bits do not matter. -/
theorem field_eq_of_div_eq {m n k lo w : Nat} (hk : k ≤ lo) (h : m / 2 ^ k = n / 2 ^ k) : field m lo w = field n lo w := by
  have hcut : ∀ x, field x lo w = x / 2 ^ k / 2 ^ (lo - k) % 2 ^ w := fun x => by
    rw [field, Nat.div_div_eq_div_mul, ← pow_add, Nat.add_sub_cancel' hk]
  rw [hcut, hcut, h]

/-- A field of a number kept in a bit vector that reaches beyond it. -/
theorem bf_ofNat {k lo w : Nat} (h : lo + w ≤ k) (n : Nat) : bf (BitVec.ofNat k n) lo w = field n lo w :=
  field_eq_of_mod_eq (by rw [BitVec.toNat_ofNat, Nat.mod_mod_of_dvd _ (pow_dvd_pow 2 h)])

theorem field_setField_below {lo w i k : Nat} (h : i + k ≤ lo) (n v : Nat) : field (setField n lo w v) i k = field n i k := by
  refine field_eq_of_mod_eq ?_
  obtain ⟨d, rfl⟩ := Nat.exists_eq_add_of_le h
  have hsum : setField n (i + k + d) w v = n % 2 ^ (i + k + d) +
      2 ^ (i + k) * (2 ^ d * (v % 2 ^ w) + n / 2 ^ (i + k + d + w) * 2 ^ (d + w)) := by
    rw [setField]
    simp only [pow_add]
    ring
  rw [hsum, Nat.add_mul_mod_self_left, Nat.mod_mod_of_dvd _ (pow_dvd_pow 2 (Nat.le_add_right _ _))]

theorem field_setField_above {lo w i : Nat} (h : lo + w ≤ i) (n v k : Nat) : field (setField n lo w v) i k = field n i k := by
  refine field_eq_of_div_eq h ?_
  have hlow : n % 2 ^ lo + v % 2 ^ w * 2 ^ lo < 2 ^ (lo + w) := by
    have hv := Nat.mod_lt v (Nat.two_pow_pos w)
    have hn := Nat.mod_lt n (Nat.two_pow_pos lo)
    have hmul : (v % 2 ^ w + 1) * 2 ^ lo ≤ 2 ^ w * 2 ^ lo := Nat.mul_le_mul_right _ hv
    rw [pow_add, Nat.mul_comm (2 ^ lo)]
    rw [Nat.add_mul] at hmul
    omega
  rw [setField, Nat.add_mul_div_right _ _ (Nat.two_pow_pos _), Nat.div_eq_of_lt hlow, Nat.zero_add]

/-! Entries of the ledger (13 R319). -/

theorem State.setLedger_ledgerOf (s : State) (kind idx : Nat) (e : LedgerEntry) : (s.setLedger kind idx e).ledgerOf kind idx = e :=
  tget_tset_same _ _ _ _

/-- The entry of a unit as a confirmed error leaves it, with the unit's next state (13 R317, R319). -/
def erredEntry (e : LedgerEntry) (st now cause source : Nat) : LedgerEntry :=
  BitVec.ofNat 512 (setField (setField (setField (setField (setField (setField e.toNat 4 4 st) 24 8 cause) 96 32 (ledLast e)) 64 32 now) 160 16
    (satAdd 16 (field (setField (setField (setField (setField e.toNat 4 4 st) 24 8 cause) 96 32 (ledLast e)) 64 32 now) 160 16) 1)) 192 4 source)

/-- The count of a unit's confirmed errors goes on by one. -/
theorem erredEntry_count {e : LedgerEntry} (h : field e.toNat 160 16 < 65535) (st now cause source : Nat) :
    field (erredEntry e st now cause source).toNat 160 16 = field e.toNat 160 16 + 1 := by
  have hnum : ∀ n : Nat, field (BitVec.ofNat 512 n).toNat 160 16 = field n 160 16 := bf_ofNat (by decide)
  have hold : field (setField (setField (setField (setField e.toNat 4 4 st) 24 8 cause) 96 32 (ledLast e)) 64 32 now) 160 16 =
      field e.toNat 160 16 := by
    iterate 4 rw [field_setField_above (by decide)]
  rw [erredEntry, hnum, field_setField_below (by decide), field_setField_same, hold, satAdd, if_pos (by omega)]
  omega

/-! Confirmed errors (13 R317). -/

/-- Does an error count as one with the last: it came within 10 s of it, and the unit's retest has not begun? -/
def State.merges (s : State) (kind idx : Nat) : Bool :=
  ledLast (s.ledgerOf kind idx) != 0xFFFFFFFF && decide (s.ledger.opSec ≤ ledLast (s.ledgerOf kind idx) + 10) &&
    (decide (2 ≤ ledState (s.ledgerOf kind idx)) || s.ledger.retests.any (fun r => r.1 == kind && r.2.1 == idx && r.2.2 == 0))

theorem State.merges_iff (s : State) (kind idx : Nat) : s.merges kind idx = true ↔ ledLast (s.ledgerOf kind idx) ≠ 0xFFFFFFFF ∧
    s.ledger.opSec ≤ ledLast (s.ledgerOf kind idx) + 10 ∧ ((kind, idx, 0) ∈ s.ledger.retests ∨ 2 ≤ ledState (s.ledgerOf kind idx)) := by
  have hmem : s.ledger.retests.any (fun r => r.1 == kind && r.2.1 == idx && r.2.2 == 0) = true ↔ (kind, idx, 0) ∈ s.ledger.retests := by
    simp only [List.any_eq_true, Bool.and_eq_true, beq_iff_eq]
    exact ⟨fun ⟨⟨a, b, c⟩, hr, ⟨ha, hb⟩, hc⟩ => by subst ha hb hc; exact hr, fun h => ⟨_, h, ⟨rfl, rfl⟩, rfl⟩⟩
  simp only [State.merges, Bool.and_eq_true, bne_iff_ne, decide_eq_true_eq, Bool.or_eq_true, hmem, and_assoc, or_comm]

theorem State.confirm_merged {s : State} {kind idx : Nat} (h : s.merges kind idx = true) (source cause : Nat) :
    s.confirm kind idx source cause = s := if_pos h

/-- A confirmed error of a permanent unit is entered, and does nothing else. -/
theorem State.confirm_permanent {s : State} {kind idx : Nat} (h : s.merges kind idx = false) (hst : 2 ≤ ledState (s.ledgerOf kind idx))
    (source cause : Nat) : s.confirm kind idx source cause =
      s.setLedger kind idx (erredEntry (s.ledgerOf kind idx) (ledState (s.ledgerOf kind idx)) s.ledger.opSec cause source) := by
  have h0 : (ledState (s.ledgerOf kind idx) == 0) = false := beq_eq_false_iff_ne.mpr (by omega)
  have h1 : (ledState (s.ledgerOf kind idx) == 1) = false := beq_eq_false_iff_ne.mpr (by omega)
  refine (if_neg (Bool.eq_false_iff.mp h)).trans ?_
  simp only [h0, h1, Bool.false_and, Bool.or_self, Bool.false_eq_true, if_false]
  rfl

/-- The first confirmed error of a memory unit is entered; the unit is suspect, with a record, and its retest waits (13 R321). -/
theorem State.confirm_suspect {s : State} {kind idx : Nat} (h : s.merges kind idx = false) (hst : ledState (s.ledgerOf kind idx) = 0)
    (hold : ledLast (s.ledgerOf kind idx) = 0xFFFFFFFF ∨ ledLast (s.ledgerOf kind idx) + 2592000 < s.ledger.opSec)
    (hkind : kind = 3 ∨ kind = 6 ∨ kind = 7) (source cause : Nat) : ∃ t : State, t.ledger =
      (s.setLedger kind idx (erredEntry (s.ledgerOf kind idx) 1 s.ledger.opSec cause source)).ledger ∧
      s.confirm kind idx source cause = { t with ledger := { t.ledger with retests := t.ledger.retests ++ [(kind, idx, 0)] } } := by
  have hnone : ((ledLast (s.ledgerOf kind idx) == 0xFFFFFFFF) || decide (ledLast (s.ledgerOf kind idx) + 2592000 < s.ledger.opSec)) = true := by
    simpa using hold
  have hmemory : (kind == 3 || kind == 6 || kind == 7) = true := by simpa [or_assoc] using hkind
  refine ⟨_, State.raise_ledger _ (unitRec 0xB3 kind idx), (if_neg (Bool.eq_false_iff.mp h)).trans ?_⟩
  simp only [hst, hnone, hmemory, beq_self_eq_true, Bool.and_self, if_true]
  rfl

/-- Settles O60: an error that is merged changes nothing, and one of either kind that is not enters the count. -/
theorem confirmedErrorsCountOnce : Obligations.ConfirmedErrorsCountOnce := by
  refine fun s kind idx source cause => ⟨fun hlast hnear hpending => ?merged, fun hfar hunit hcount => ?counts⟩
  case merged => exact State.confirm_merged ((s.merges_iff kind idx).mpr ⟨hlast, hnear, hpending⟩) source cause
  case counts =>
    have hmerge : s.merges kind idx = false := Bool.eq_false_iff.mpr fun h => by
      obtain ⟨hlast, hnear, hpending⟩ := (s.merges_iff kind idx).mp h
      rcases hfar with h | h | ⟨hnot, hst⟩
      · exact hlast h
      · omega
      · exact hpending.elim hnot fun h => by omega
    rcases hunit with hst | ⟨hkind, hst, hold⟩
    · rw [State.confirm_permanent hmerge hst, State.setLedger_ledgerOf, erredEntry_count hcount]
    · obtain ⟨t, ht, hconfirm⟩ := State.confirm_suspect hmerge hst hold hkind source cause
      have hentry : (s.confirm kind idx source cause).ledgerOf kind idx =
          erredEntry (s.ledgerOf kind idx) 1 s.ledger.opSec cause source := by
        rw [hconfirm]
        show tget t.ledger.work _ _ = _
        rw [ht]
        exact State.setLedger_ledgerOf _ _ _ _
      rw [hentry, erredEntry_count hcount]

end Sys2Proof.Machine
end

section
/-! SUPPORT. Retests and the writes of the ledger, one rule per command, and the statement about them (13 R319-R322, 14 R337). -/
namespace Sys2Proof.Machine

theorem State.answer_ledger (s : State) (key status : Nat) : (s.answer key status).ledger = s.ledger :=
  (congrArg State.ledger (s.answer_unreported key status) :)

/-! The ends of slices leave the ledger (14 R327, R338). -/

theorem State.returnTile_ledger (s : State) (x : TapSlice) : (s.returnTile x).ledger = s.ledger := by
  unfold State.returnTile
  dsimp only
  split
  · rfl
  · split <;> rfl

theorem State.tapRecord_ledger (s : State) (x : TapSlice) (outcome errors lanes sig : Nat) :
    (s.tapRecord x outcome errors lanes sig).ledger = s.ledger := by
  unfold State.tapRecord
  extract_lets bits s1 src s2
  have h2 : s2.ledger = s.ledger := by
    show (if s1.mon.tapWait == some (x.kind, x.unit_) then _ else s1).ledger = s1.ledger
    split <;> rfl
  split
  · exact (congrArg State.ledger (s2.report_unreported _ _) :).trans h2
  · exact h2

theorem State.abandonSlices_ledger (s : State) (outcome : Nat) (pick : TapSlice → Bool) : (s.abandonSlices outcome pick).ledger = s.ledger :=
  State.each_frame State.ledger (fun t x => (State.tapRecord_ledger _ _ _ _ _ _).trans (t.returnTile_ledger x)) s

/-! The retest of a unit (13 R321, R322, 14 R337). -/

/-- A retest that is set stands at the number it is set to. -/
theorem State.setRetest_retestOf {s : State} {kind idx n : Nat} (h : s.retestOf kind idx = some n) (m : Nat) :
    (s.setRetest kind idx (some m)).retestOf kind idx = some m := by
  have hfind : ∀ l : List (Nat × Nat × Nat), (l.find? (fun r => r.1 == kind && r.2.1 == idx)).isSome →
      (l.map (fun r => if r.1 == kind && r.2.1 == idx then (kind, idx, m) else r)).find? (fun r => r.1 == kind && r.2.1 == idx) =
        some (kind, idx, m) := by
    intro l
    induction l with
    | nil => simp
    | cons r l ih =>
      intro hl
      by_cases hr : (r.1 == kind && r.2.1 == idx) = true
      · rw [List.map_cons, if_pos hr]
        exact List.find?_cons_of_pos (by simp)
      · rw [List.find?_cons, Bool.eq_false_iff.mpr hr] at hl
        rw [List.map_cons, if_neg hr, List.find?_cons, Bool.eq_false_iff.mpr hr]
        exact ih hl
  have hsome : (s.ledger.retests.find? (fun r => r.1 == kind && r.2.1 == idx)).isSome := by
    rw [← Option.isSome_map (f := fun r : Nat × Nat × Nat => r.2.2)]
    exact Option.isSome_of_eq_some h
  exact congrArg (Option.map (·.2.2)) (hfind _ hsome)

section
variable {s : State} {u : UnitId} {n : Nat} (h : s.retestOf u.kind u.index = some n)
include h

theorem exec_retestStart (hbundle : s.boot.bundle = true) (hup : s.compDown 35 = false) (hn : n ≠ 1000) : exec (.retestStart u) s =
    .next ((s.setRetest u.kind u.index (some (max n 1))).retestGo u.kind u.index (max n 1)) := by
  have hn' : (n == 1000) = false := beq_eq_false_iff_ne.mpr hn
  refine congrArg Host.Outcome.next ?_
  simp only [stepRetestStart, h, hbundle, hup, hn', Bool.not_true, Bool.or_self, Bool.false_eq_true, if_false]

/-- The slices of a retest that runs out of time are abandoned; a unit that is no tile holds no clock. -/
theorem exec_retestTimeout_clockless (h1 : u.kind ≠ 1) (h2 : u.kind ≠ 2) : exec (.retestTimeout u) s =
    .next ((s.abandonSlices 2 (fun x => x.retest && s.retestUnit x ==
      s.ledger.retests.find? (fun r => r.1 == u.kind && r.2.1 == u.index))).setRetest u.kind u.index (some 1000)) := by
  refine congrArg Host.Outcome.next ?_
  simp only [stepRetestTimeout, h, h1, h2, decide_false, Bool.or_self, Bool.false_and, Bool.false_eq_true, if_false]

theorem exec_retestTimeout : ∃ v, exec (.retestTimeout u) s = .next v ∧ v.retestOf u.kind u.index = some 1000 := by
  refine ⟨_, rfl, ?_⟩
  simp only [stepRetestTimeout, h]
  refine State.setRetest_retestOf (n := n) ?_ 1000
  rw [← h]
  refine congrArg (fun l : Ledger => (l.retests.find? (fun r => r.1 == u.kind && r.2.1 == u.index)).map (·.2.2)) ?_
  split
  · exact s.abandonSlices_ledger _ _
  · exact s.abandonSlices_ledger _ _

theorem exec_scrubSlice (hkind : u.kind = 3 ∨ u.kind = 6 ∨ u.kind = 7) (h0 : n ≠ 0) (hn : n ≠ 1000) (last pass : Bool) :
    exec (.scrubSlice u last pass) s = .next (if pass then if last then s.retestPass u.kind u.index else s else s.retestFail u.kind u.index) := by
  have hmemory : (u.kind != 3 && u.kind != 6 && u.kind != 7) = false := by
    rcases hkind with h | h | h <;> simp [h]
  have hn' : (n == 0 || n == 1000) = false := by simp [h0, hn]
  refine congrArg Host.Outcome.next ?_
  simp only [stepScrubSlice, h, hmemory, hn', Bool.false_eq_true, if_false]
  cases pass <;> rfl

end

theorem exec_retestRetry {s : State} {u : UnitId} (h : s.retestOf u.kind u.index = some 1000) :
    exec (.retestRetry u) s = .next ((s.setRetest u.kind u.index (some 1)).retestGo u.kind u.index 1) := by
  refine congrArg Host.Outcome.next ?_
  simp only [stepRetestRetry, h]

section
variable {s : State} {kind idx n k u : Nat} (hfree : ∀ x ∈ s.health.slices, ¬ (x.kind = k ∧ x.unit_ = u))
include hfree

/-- No slice of the kind runs on the unit. -/
theorem State.none_running : s.health.slices.any (fun x => x.kind == k && x.unit_ == u) = false :=
  List.any_eq_false.mpr fun x hx => by simpa using hfree x hx

theorem State.retestGo_link (hslice : retestSlice kind idx (n - 1) = some (k, u, none))
    (hdie : ∀ x ∈ s.health.slices, x.kind < 6 ∨ unitDie x.kind x.unit_ ≠ unitDie k u) :
    s.retestGo kind idx n = s.startSlice k u true false := by
  have hother : s.health.slices.any (fun x => 6 ≤ x.kind && unitDie x.kind x.unit_ == unitDie k u) = false :=
    List.any_eq_false.mpr fun x hx => by
      have h := hdie x hx
      simp only [Bool.and_eq_true, decide_eq_true_eq, beq_iff_eq, not_and]
      omega
  simp only [State.retestGo, hslice, State.none_running hfree, hother, Bool.false_eq_true, if_false]

theorem State.retestGo_tile {f : Nat} (hslice : retestSlice kind idx (n - 1) = some (k, u, some f)) (hcode : (s.clock (taC u)).code = f)
    (hclock : s.atTest (taC u) = true) (hready : s.tileReady k u true = true) : s.retestGo kind idx n = s.startSlice k u true false := by
  simp only [State.retestGo, hslice, State.none_running hfree, hcode, hclock, hready, decide_true, Bool.and_self, Bool.false_eq_true, if_false,
    if_true]

theorem State.retestGo_clock {f : Nat} (hslice : retestSlice kind idx (n - 1) = some (k, u, some f)) (hcode : (s.clock (taC u)).code ≠ f) :
    s.retestGo kind idx n = s.updClock (taC u) (fun x => { x with tapHold := true, target := some f }) := by
  simp only [State.retestGo, hslice, State.none_running hfree, hcode, decide_false, Bool.false_and, Bool.false_eq_true, if_false]

end

/-- A unit's way back begins without a word in the ledger. -/
theorem State.readmit_ledger (s : State) (kind idx : Nat) : (s.readmit kind idx).ledger = s.ledger := by
  unfold State.readmit
  split
  · exact State.each_frame State.ledger (fun _ _ => by rfl) _
  · rfl

/-- A transient-suspect unit whose retest passes is clean. -/
theorem State.retestPass_clean {s : State} {kind idx : Nat} (h : ledState (s.ledgerOf kind idx) = 1) :
    ledState ((s.retestPass kind idx).ledgerOf kind idx) = 0 := by
  unfold State.retestPass
  extract_lets e s1 v s2
  have hentry : s2.ledgerOf kind idx =
      BitVec.ofNat 512 (setField (setField e.toNat 4 4 0) 184 8 (satAdd 8 (field e.toNat 184 8) 1)) := by
    have hs2 : s2 = (s1.setLedger kind idx _).raise (unitRec 0xB5 kind idx) := if_pos (beq_iff_eq.mpr h)
    rw [hs2, State.ledgerOf, State.raise_ledger]
    exact State.setLedger_ledgerOf _ _ _ _
  have hclean : ledState (s2.ledgerOf kind idx) = 0 := by
    rw [hentry, ledState, bf_ofNat (by decide), field_setField_below (by decide), field_setField_same]
    rfl
  have hledger : ∀ t : State, t.ledger = s2.ledger → t.ledgerOf kind idx = s2.ledgerOf kind idx := fun t ht => by
    rw [State.ledgerOf, ht]
    rfl
  split
  · rw [hledger _ (s2.readmit_ledger kind idx), hclean]
  · rw [hledger (s2.answer (waitUnit kind idx) St.completed) (s2.answer_ledger _ _), hclean]

/-! The ledger in the NOR (13 R319, R320). -/

theorem State.writeLedger_ledger (s : State) (n v : Nat) : (s.writeLedger n v).ledger = if s.ledger.inA n then
    { s.ledger with copyB := tset s.ledger.copyB n (sealEntry v (s.ledger.seq + 1)), seq := s.ledger.seq + 1 }
  else { s.ledger with copyA := tset s.ledger.copyA n (sealEntry v (s.ledger.seq + 1)), seq := s.ledger.seq + 1 } := rfl

/-- A version is written to the copy that does not hold the current one. -/
theorem State.writeLedger_copies (s : State) (n v : Nat) : if s.ledger.inA n then (s.writeLedger n v).ledger.copyA = s.ledger.copyA ∧
      tget (s.writeLedger n v).ledger.copyB n 0 = sealEntry v (s.ledger.seq + 1)
    else (s.writeLedger n v).ledger.copyB = s.ledger.copyB ∧ tget (s.writeLedger n v).ledger.copyA n 0 = sealEntry v (s.ledger.seq + 1) := by
  rw [State.writeLedger_ledger]
  split
  · exact ⟨rfl, tget_tset_same _ _ _ _⟩
  · exact ⟨rfl, tget_tset_same _ _ _ _⟩

theorem State.writeLedger_frame (s : State) (n v : Nat) : (s.writeLedger n v).ledger.seq = s.ledger.seq + 1 ∧
    (s.writeLedger n v).ledger.dirty = s.ledger.dirty ∧ (s.writeLedger n v).ledger.opSec = s.ledger.opSec ∧
    (s.writeLedger n v).ledger.work = s.ledger.work := by
  rw [State.writeLedger_ledger]
  split <;> exact ⟨rfl, rfl, rfl, rfl⟩

/-- The write of an entry is no longer due, and the security core holds the version written. -/
def State.entryClean (s : State) (n : Nat) (e : LedgerEntry) : State :=
  { s with ledger := { s.ledger with dirty := s.ledger.dirty.erase n, work := tset s.ledger.work n e } }

/-- The header holds the operating second. -/
def State.headerStamped (s : State) : State := { s with ledger := { s.ledger with headerSec := s.ledger.opSec } }

section
variable {s : State} (hup : s.compDown 1 = false)
include hup

theorem exec_ledgerWrite {u : UnitId} (h : ledgerNo u.kind u.index ∈ s.ledger.dirty) : ∃ e, exec (.ledgerWrite u) s =
    .next ((s.writeLedger (ledgerNo u.kind u.index) (s.ledgerOf u.kind u.index).toNat).entryClean (ledgerNo u.kind u.index) e) := by
  have hdirty : s.ledger.dirty.contains (ledgerNo u.kind u.index) = true := by simpa using h
  exact ⟨_, congrArg Host.Outcome.next (if_neg (by rw [hdirty, hup]; exact Bool.false_ne_true))⟩

theorem exec_ledgerHeaderRewrite : exec .ledgerHeaderRewrite s =
    .next (s.writeLedger 0 (pack [(8, 0), (16, 1), (8, 0), (32, 0), (32, s.ledger.opSec)])).headerStamped := by
  refine congrArg Host.Outcome.next ?_
  simp only [stepLedgerHeaderRewrite, hup, Bool.false_eq_true, if_false]
  rfl

end

/-- Settles O13: each command of a retest, what passing leaves in the ledger, and the writes of its copies, each by its rule. -/
theorem retestsAndLedger : Obligations.RetestsAndLedger := by
  refine ⟨fun s u n h => ⟨exec_retestStart h, exec_retestTimeout_clockless h, fun _ => exec_retestTimeout h, fun hn => exec_retestRetry (hn ▸ h),
      fun hkind h0 hn => ⟨fun last => exec_scrubSlice h hkind h0 hn last false, exec_scrubSlice h hkind h0 hn true true,
        exec_scrubSlice h hkind h0 hn false true⟩⟩,
    fun s kind idx n k u hfree => ⟨State.retestGo_link hfree, fun f hslice => ⟨State.retestGo_tile hfree hslice, State.retestGo_clock hfree hslice⟩⟩,
    fun s kind idx => State.retestPass_clean, fun s hup => ⟨fun u h => ?entry, ?header⟩⟩
  case entry =>
    obtain ⟨e, hexec⟩ := exec_ledgerWrite hup h
    obtain ⟨hseq, hdirty, -, -⟩ := s.writeLedger_frame (ledgerNo u.kind u.index) (s.ledgerOf u.kind u.index).toNat
    exact ⟨_, hexec, hseq, congrArg (·.erase (ledgerNo u.kind u.index)) hdirty, rfl, rfl, s.writeLedger_copies _ _⟩
  case header =>
    obtain ⟨hseq, -, hsec, hwork⟩ := s.writeLedger_frame 0 (pack [(8, 0), (16, 1), (8, 0), (32, 0), (32, s.ledger.opSec)])
    exact ⟨_, exec_ledgerHeaderRewrite hup, hsec, hseq, hwork, rfl, rfl⟩

end Sys2Proof.Machine
end

section
/-! SUPPORT. Self-test slices and forced holds, one rule per command, and the statement about them (14 R326-R339). -/
namespace Sys2Proof.Machine

/-! A slice starts (14 R326-R334). -/

theorem State.startSlice_slices (s : State) (kind u : Nat) (retest forced : Bool) :
    (s.startSlice kind u retest forced).health.slices.map (fun x => (x.kind, x.unit_, x.retest, x.forced)) =
      s.health.slices.map (fun x => (x.kind, x.unit_, x.retest, x.forced)) ++ [(kind, u, retest, forced)] := by
  unfold State.startSlice
  dsimp only
  split <;> exact List.map_append

/-- A slice of a tile holds the array clock, and the tile's registers are saved (14 R327, 01 R40). -/
theorem State.startSlice_tile {kind : Nat} (h : kind < 6) (s : State) (u : Nat) (retest forced : Bool) :
    ((s.startSlice kind u retest forced).clock (taC u)).tapHold = true ∧
    ((s.startSlice kind u retest forced).tile u).test.buf = some ((s.tile u).core.vregs, (s.tile u).core.consts) := by
  rw [State.startSlice]
  dsimp only
  rw [if_pos h]
  constructor
  · rw [State.updClock_clock, if_pos rfl]
  · exact congrArg (·.test.buf) (State.tile_updTile_same _ _ _)

/-- A slice of a link or lane group touches no tile and no clock. -/
theorem State.startSlice_link {kind : Nat} (h : 6 ≤ kind) (s : State) (u : Nat) (retest forced : Bool) :
    (s.startSlice kind u retest forced).clusters = s.clusters ∧ (s.startSlice kind u retest forced).mem = s.mem := by
  rw [State.startSlice]
  dsimp only
  rw [if_neg (Nat.not_lt.mpr h)]
  exact ⟨rfl, rfl⟩

/-- A link or lane group has its turn in the round of its die (14 R334). -/
def State.turnTaken (s : State) (kind u : Nat) : State :=
  { s with health := { s.health with
      rr := tset s.health.rr (16 + unitDie kind u) (((dieUnits (unitDie kind u)).idxOf (kind, u) + 1) % (dieUnits (unitDie kind u)).length) } }

section
variable {s : State} {kind u : Nat} (hbundle : s.boot.bundle = true) (htaps : s.compDown 35 = false) (hsched : s.compDown 19 = false)
include hbundle htaps hsched

/-- A slice of the kind that a ready tile misses first starts in its turn or under its hold. -/
theorem exec_tapSchedule_tile (hkind : kind < 6) (hready : s.tileReady kind u false = true) (hclock : s.atTest (taC u) = true)
    (hnext : s.nextKind u = some kind) (hturn : s.underHold u = true ∨ s.tapTurn u = true) :
    exec (.tapSchedule kind u) s = .next (s.startSlice kind u false (s.underHold u)) := by
  have hdue : (s.tileReady kind u false && s.atTest (taC u) &&
      (s.mon.tapWait == some (kind, u) || (s.nextKind u == some kind && (s.underHold u || s.tapTurn u)))) = true := by
    simp [hready, hclock, hnext, hturn]
  refine congrArg Host.Outcome.next ?_
  simp only [stepTapSchedule, hbundle, htaps, hsched, Bool.not_true, Bool.or_self, Bool.false_eq_true, if_false, if_pos hkind, hdue, if_true]

/-- A link or lane group that comes next on a die without a slice takes its turn there. -/
theorem exec_tapSchedule_link (hkind : 6 ≤ kind) (hdie : unitDie kind u < 4) (hnext : s.nextOnDie (unitDie kind u) = some (kind, u))
    (hnone : s.health.slices = []) : exec (.tapSchedule kind u) s = .next ((s.turnTaken kind u).startSlice kind u false false) := by
  have hdue : (unitDie kind u < 4 && s.nextOnDie (unitDie kind u) == some (kind, u) &&
      !s.health.slices.any (fun x => 6 ≤ x.kind && unitDie x.kind x.unit_ == unitDie kind u)) = true := by
    simp [hdie, hnext, hnone]
  refine congrArg Host.Outcome.next ?_
  simp only [stepTapSchedule, hbundle, htaps, hsched, Bool.not_true, Bool.or_self, Bool.false_eq_true, if_false,
    if_neg (Nat.not_lt.mpr hkind), hdue, if_true]
  rfl

end

/-! A slice ends (14 R327, R330, R331, R336). -/

section
variable {s : State} {kind u : Nat} {x : TapSlice} (hx : s.health.slices.find? (fun x => x.kind == kind && x.unit_ == u) = some x)
include hx

theorem exec_railSample (mv : Nat) : exec (.railSample kind u mv) s = .next (if 100 * mv < 98 * Config.testPoint s.fw.version kind x.fast ∨
    102 * Config.testPoint s.fw.version kind x.fast < 100 * mv then s.skipSlice x 2 else s) := by
  refine congrArg Host.Outcome.next ?_
  simp only [stepRailSample, hx, Bool.or_eq_true, decide_eq_true_eq]

/-- The unit of a slice that ends is returned, and its record is written. -/
def State.sliceRecorded (s : State) (x : TapSlice) (outcome errors lanes sig : Nat) : State :=
  ((s.returnTile x).marched x).tapRecord x outcome errors lanes sig

/-- What becomes of a slice that is recorded goes by its outcome, and by whether it belongs to a retest or a hold. -/
theorem exec_tapSliceEnd {errors e lanes : Nat} {golden pass : Bool} {sig : Dword} {v w y : State}
    (he : (if 2 ≤ kind ∧ kind ≠ 5 then errors else 0) = e) (hpass : (golden && e == 0) = pass)
    (hv : s.sliceRecorded x (if pass then 0 else 1) (min e 255) (if kind = 7 then lanes % 16 else 0) sig.toNat = v)
    (hgood : pass = true → (if kind < 6 then v.kindPassed u kind else v) = w)
    (hbad : pass = false →
      ∀ f : State, (if kind < 6 then v.updTile u (fun t => t.updTest (fun y => { y with fails := satAdd 8 y.fails 1 })) else v) = f →
        (if 0 < e then f.scrubLost x lanes else f) = w)
    (hy : (if x.retest then w.retestEnd x pass else if pass then w else w.tapFail x lanes) = y) :
    exec (.tapSliceEnd kind u golden sig errors lanes) s =
      .next (if kind < 6 ∧ x.forced = true ∧ y.holdDone (taC u) = true then y.releaseHold (taC u) else y) := by
  have he' : (if (decide (2 ≤ kind) && decide (kind ≠ 5)) = true then errors else 0) = e := by simpa using he
  refine congrArg Host.Outcome.next ?_
  unfold State.sliceRecorded at hv
  simp only [stepTapSliceEnd, hx, he', hpass, hv]
  cases pass with
  | true =>
    have h0 : ¬ 0 < e := by simp_all
    have hw := hgood rfl
    simp only [if_neg h0, Bool.not_true, Bool.and_false, Bool.false_eq_true, if_false, Bool.true_and, decide_eq_true_eq, hw]
    simp only [if_true] at hy ⊢
    simp only [hy, Bool.and_eq_true, decide_eq_true_eq, and_assoc]
  | false =>
    have hw := hbad rfl _ rfl
    simp only [Bool.not_false, Bool.and_true, decide_eq_true_eq, hw, Bool.false_and, Bool.false_eq_true, if_false]
    simp only [Bool.false_eq_true, if_false] at hy ⊢
    simp only [hy, Bool.and_eq_true, decide_eq_true_eq, and_assoc]

end

/-! What the end of a slice of a tile leaves (14 R326-R328). -/

/-- A slice of a tile that is returned is gone; the tile's weight planes are zero, and no other tile and no memory changes. -/
theorem State.returnTile_tile {x : TapSlice} (h : x.kind < 6) (s : State) : (s.returnTile x).health.slices = s.health.slices.erase x ∧
    (s.returnTile x).tile x.unit_ = (s.tile x.unit_).giveBack ∧ (∀ n, n ≠ x.unit_ → (s.returnTile x).tile n = s.tile n) ∧
    (s.returnTile x).mem = s.mem := by
  unfold State.returnTile
  dsimp only
  rw [if_neg (Nat.not_le.mpr h)]
  split
  · exact ⟨rfl, State.tile_updTile_same _ _ _, fun n hn => State.tile_updTile_ne _ _ hn, rfl⟩
  · exact ⟨rfl, State.tile_updTile_same _ _ _, fun n hn => State.tile_updTile_ne _ _ hn, rfl⟩

/-- A march changes the scratchpad of its tile, and what is said of the banks (14 R328). -/
theorem State.marched_frame (s : State) (x : TapSlice) : (s.marched x).health = s.health ∧ (s.marched x).mem = s.mem ∧
    (∀ n, n ≠ x.unit_ → (s.marched x).tile n = s.tile n) ∧
    ((s.marched x).tile x.unit_).core.plane0 = (s.tile x.unit_).core.plane0 ∧
    ((s.marched x).tile x.unit_).core.plane1 = (s.tile x.unit_).core.plane1 ∧
    ((s.marched x).tile x.unit_).test.done = (s.tile x.unit_).test.done := by
  unfold State.marched
  split
  · exact ⟨rfl, rfl, fun _ _ => rfl, rfl, rfl, rfl⟩
  · exact ⟨State.each_frame State.health (fun _ _ => by rfl) s, State.each_frame State.mem (fun _ _ => by rfl) s,
      fun n hn => State.each_frame (State.tile · n) (fun t _ => t.tile_updTile_ne _ hn) s,
      State.each_frame (fun t => (t.tile x.unit_).core.plane0) (fun t _ => by rw [State.tile_updTile_same]) s,
      State.each_frame (fun t => (t.tile x.unit_).core.plane1) (fun t _ => by rw [State.tile_updTile_same]) s,
      State.each_frame (fun t => (t.tile x.unit_).test.done) (fun t _ => by rw [State.tile_updTile_same]) s⟩

/-- The record of a slice that has not failed goes to the log, and to the monitor that asked for the slice. -/
theorem State.tapRecord_frame (s : State) (x : TapSlice) {outcome : Nat} (h : outcome ≠ 1) (errors lanes sig : Nat) :
    (s.tapRecord x outcome errors lanes sig).health = s.health ∧ (s.tapRecord x outcome errors lanes sig).mem = s.mem ∧
    (s.tapRecord x outcome errors lanes sig).tiles = s.tiles := by
  unfold State.tapRecord
  dsimp only
  rw [if_neg h]
  split <;> exact ⟨rfl, rfl, rfl⟩

/-- A kind that passes in a tile's cycle is counted in the tile's test record alone. -/
theorem State.kindPassed_tile (s : State) (ta kind : Nat) : ((s.kindPassed ta kind).tile ta).core = (s.tile ta).core ∧
    ((s.kindPassed ta kind).tile ta).test.done =
      (if (s.tile ta).test.done ||| 2 ^ kind = 63 then 0 else (s.tile ta).test.done ||| 2 ^ kind) ∧
    (∀ n, n ≠ ta → (s.kindPassed ta kind).tile n = s.tile n) := by
  rw [State.kindPassed]
  dsimp only
  rw [State.tile_updTile_same]
  refine ⟨rfl, ?_, fun n hn => State.tile_updTile_ne _ _ hn⟩
  rw [Tile.updTest]
  dsimp only
  split <;> rfl

theorem exec_tapSliceEnd_tile {s : State} {kind u lanes : Nat} {sig : Dword} {x : TapSlice}
    (hx : s.health.slices.find? (fun x => x.kind == kind && x.unit_ == u) = some x) (hretest : x.retest = false) (hforced : x.forced = false)
    (hkind : kind < 6) : exec (.tapSliceEnd kind u true sig 0 lanes) s = .next ((s.sliceRecorded x 0 0 0 sig.toNat).kindPassed u kind) := by
  have hseam : kind ≠ 7 := by omega
  refine (exec_tapSliceEnd hx (ite_self _) rfl rfl (fun _ => rfl) (fun h => absurd h (by decide)) rfl).trans ?_
  simp only [hretest, hforced, hkind, hseam, Bool.false_eq_true, false_and, and_false, if_false, if_true, beq_self_eq_true, Bool.and_self,
    Nat.zero_min]

theorem State.sliceRecorded_passed {x : TapSlice} (h : x.kind < 6) (s : State) (sig : Nat) :
    (s.sliceRecorded x 0 0 0 sig).health.slices = s.health.slices.erase x ∧
    ((s.sliceRecorded x 0 0 0 sig).tile x.unit_).core.plane0 = 0 ∧ ((s.sliceRecorded x 0 0 0 sig).tile x.unit_).core.plane1 = 0 ∧
    ((s.sliceRecorded x 0 0 0 sig).tile x.unit_).test.done = (s.tile x.unit_).test.done ∧
    (∀ n, n ≠ x.unit_ → (s.sliceRecorded x 0 0 0 sig).tile n = s.tile n) ∧ (s.sliceRecorded x 0 0 0 sig).mem = s.mem := by
  obtain ⟨hslices, hback, hother, hmem⟩ := s.returnTile_tile h
  obtain ⟨mhealth, mmem, mother, mplane0, mplane1, mdone⟩ := (s.returnTile x).marched_frame x
  obtain ⟨rhealth, rmem, rtiles⟩ := ((s.returnTile x).marched x).tapRecord_frame x (Nat.zero_ne_one) 0 0 sig
  have rtile : ∀ n, (s.sliceRecorded x 0 0 0 sig).tile n = ((s.returnTile x).marched x).tile n := fun n =>
    congrArg (fun t : Tbl Tile => tget t n Tile.reset) rtiles
  refine ⟨?_, ?_, ?_, ?_, fun n hn => ?_, rmem.trans (mmem.trans hmem)⟩
  · exact (congrArg Health.slices (rhealth.trans mhealth)).trans hslices
  · rw [rtile, mplane0, hback]; rfl
  · rw [rtile, mplane1, hback]; rfl
  · rw [rtile, mdone, hback]; rfl
  · rw [rtile, mother n hn, hother n hn]

/-! Forced slices and holds (14 R333, R335). -/

section
variable {s : State} {t : TileId} (hserves : s.muffledTile (tileKey t) = false)
include hserves

theorem exec_tapForced (hage : s.tapAge (tileKey t) 72000 = true) :
    exec (.tapForced t) s = .next (s.updTile (tileKey t) (fun t => t.updTest (fun x => { x with forced := true }))) := by
  refine congrArg Host.Outcome.next ?_
  simp only [stepTapForced, hserves, hage, Bool.not_false, Bool.and_self, if_true]

theorem exec_tapOverdue (hage : s.tapAge (tileKey t) 86400 = true) (hforced : (s.tile (tileKey t)).test.forced = true)
    (hnew : (s.tile (tileKey t)).test.overdue = false) : exec (.tapOverdue t) s =
      .next ((s.updTile (tileKey t) (fun t => t.updTest (fun x => { x with overdue := true }))).raise (unitRec 0xB7 1 (tileKey t))) := by
  refine congrArg Host.Outcome.next ?_
  simp only [stepTapOverdue, hserves, hage, hforced, hnew, Bool.not_false, Bool.and_self, if_true]

end

/-- A cluster is held for the slices of one battery (14 R333): ARM is blocked there, and the array clock steps to a test frequency. -/
def State.held (s : State) (c b : Nat) : State :=
  (s.updClX c (fun x => { x with tapHold := true, tapHoldBat := b, tapTries := [] })).updClock c (fun k =>
    { k with tapHold := true, target := if k.code = testCode k.code then none else some (testCode k.code) })

theorem State.held_effect (s : State) (c b : Nat) : ((s.held c b).clX c).tapHold = true ∧ ((s.held c b).clX c).tapHoldBat = b ∧
    ((s.held c b).clock c).tapHold = true ∧
    ((s.held c b).clock c).target = (if (s.clock c).code = testCode (s.clock c).code then none else some (testCode (s.clock c).code)) ∧
    (s.held c b).mem = s.mem ∧ (s.held c b).tiles = s.tiles := by
  have hx : (s.held c b).clX c = { s.clX c with tapHold := true, tapHoldBat := b, tapTries := [] } := tget_tset_same _ _ _ _
  rw [hx, State.held, State.updClock_clock, if_pos rfl]
  exact ⟨rfl, rfl, rfl, rfl, rfl, rfl⟩

theorem exec_forcedHold {s : State} {c : Fin 16} {b : Fin 64} (hup : s.compDown 35 = false) (hfree : (s.clX c.val).tapHold = false)
    (harm : (s.bat c.val b.val).st ≠ .arm) (hrun : (s.bat c.val b.val).st ≠ .run) (hcommit : (s.bat c.val b.val).st ≠ .commit)
    (habort : (s.bat c.val b.val).st ≠ .abort) (hforced : ∃ e ∈ s.batTiles c.val b.val, (s.tile e.2).test.forced = true) :
    exec (.forcedHold c b) s = .next (if ((s.held c.val b.val).clock c.val).target.isSome then
      (s.held c.val b.val).logPower c.val false (testCode ((s.held c.val b.val).clock c.val).code) 5 0 0 else s.held c.val b.val) := by
  have hany : (s.batTiles c.val b.val).any (fun e => (s.tile e.2).test.forced) = true := List.any_eq_true.mpr hforced
  refine congrArg Host.Outcome.next ?_
  simp only [stepForcedHold, hup, hfree, hany, beq_eq_false_iff_ne.mpr harm, beq_eq_false_iff_ne.mpr hrun, beq_eq_false_iff_ne.mpr hcommit,
    beq_eq_false_iff_ne.mpr habort, Bool.not_true, Bool.or_self, Bool.false_eq_true, if_false]
  rfl

/-- Settles O12: slices that start and end, forced tiles and holds, each by its rule. -/
theorem selfTestSlices : Obligations.SelfTestSlices := by
  refine fun s t => ⟨fun kind u hbundle htaps hsched => ⟨exec_tapSchedule_tile hbundle htaps hsched,
      fun hkind hdie hnext hnone => ?link⟩,
    fun kind u retest forced => ⟨s.startSlice_slices kind u retest forced, fun h => State.startSlice_tile h s u retest forced⟩,
    fun kind u mv x hx => exec_railSample hx mv,
    fun kind u e golden pass sig errors lanes x v w y hx he hpass hv => exec_tapSliceEnd hx he hpass hv,
    fun kind u lanes sig x hx hretest hforced hkind => ?passes, fun hserves hage => ?forced, fun hserves => exec_tapOverdue hserves,
    fun c b hup hfree harm hrun hcommit habort hforced => ?held⟩
  case link =>
    refine ⟨_, exec_tapSchedule_link hbundle htaps hsched hkind hdie hnext hnone, ?_, State.startSlice_link hkind _ u false false⟩
    have hslices := congrArg (List.map (fun e : Nat × Nat × Bool × Bool => (e.1, e.2.1))) ((s.turnTaken kind u).startSlice_slices kind u
      false false)
    rw [List.map_map, show (s.turnTaken kind u).health.slices = [] from hnone] at hslices
    exact hslices
  case passes =>
    have hunit : x.kind = kind ∧ x.unit_ = u := by simpa using List.find?_some hx
    obtain ⟨rfl, rfl⟩ := hunit
    obtain ⟨hslices, hplane0, hplane1, hdone, hother, hmem⟩ := s.sliceRecorded_passed hkind sig.toNat
    obtain ⟨kcore, kdone, kother⟩ := (s.sliceRecorded x 0 0 0 sig.toNat).kindPassed_tile x.unit_ x.kind
    refine ⟨_, exec_tapSliceEnd_tile hx hretest hforced hkind, hslices, ?_, ?_, ?_, fun n hn => (kother n hn).trans (hother n hn), hmem⟩
    · rw [kcore, hplane0]
    · rw [kcore, hplane1]
    · rw [kdone, hdone]
  case forced =>
    refine ⟨_, exec_tapForced hserves hage, ?_⟩
    rw [State.tile_updTile_same]
    exact ⟨rfl, rfl, fun k hk => State.tile_updTile_ne _ _ hk, rfl⟩
  case held =>
    have hall := s.held_effect c.val b.val
    refine ⟨_, exec_forcedHold hup hfree harm hrun hcommit habort hforced, ?_⟩
    split
    · exact hall
    · exact hall

end Sys2Proof.Machine
end

section
/-! SUPPORT. Fences, re-admission and re-placement, one rule per command, and the statement about them (13 R321, 15 R345-R353, 10 R246). -/
namespace Sys2Proof.Machine

/-! Fences (15 R345, 11 R278, 13 R315). -/

/-- The arbiter has nothing against an order on a unit outside the clusters while no chip reset is in progress. -/
theorem State.unitVerdict_outside {s : State} {kind idx : Nat} (h : unitTarget kind idx = none) (hnone : ∀ o ∈ s.orders, o.target ≠ 16)
    (sev : Nat) : s.unitVerdict sev kind idx = .proceed := by
  have hany : ¬ s.orders.any (fun o => o.target == 16) = true := by simpa using hnone
  rw [State.unitVerdict, h]
  exact if_neg hany

theorem State.unitVerdict_inside {s : State} {kind idx : Nat} {t : Target} (h : unitTarget kind idx = some t) (sev : Nat) :
    s.unitVerdict sev kind idx = s.arbitrate sev t := by rw [State.unitVerdict, h]

theorem unitTarget_outside {kind : Nat} (h1 : kind ≠ 1) (h2 : kind ≠ 2) (h3 : kind ≠ 3) (idx : Nat) : unitTarget kind idx = none := by
  simp [unitTarget, h1, h2, h3]

/-- A fence that the arbiter lets proceed takes over from lesser orders and muffles the unit. -/
theorem State.fence_proceeds {s t : State} {kind idx : Nat} (h : s.unitVerdict 6 kind idx ≠ .superseded)
    (ht : (match unitTarget kind idx with | some t => s.takeOver 6 t | none => s) = t) (belfry : Bool) : (s.fence belfry kind idx).1 =
      if belfry then (t.muffleUnit kind idx).confirm kind idx 6 0xBB else t.muffleUnit kind idx := by
  subst ht
  rw [State.fence]
  exact congrArg Prod.fst (if_neg (by simpa using h))

theorem exec_muffle {s t : State} {u : UnitId} (hex : unitExists u.kind u.index = true) (h : s.unitVerdict 6 u.kind u.index ≠ .superseded)
    (ht : (match unitTarget u.kind u.index with | some t => s.takeOver 6 t | none => s) = t) :
    exec (.muffle .theldo u) s = .next (t.muffleUnit u.kind u.index) ∧
    exec (.muffle .belfry u) s = .next ((t.muffleUnit u.kind u.index).confirm u.kind u.index 6 0xBB) :=
  ⟨congrArg Host.Outcome.next ((if_pos hex).trans (State.fence_proceeds h ht false)),
    congrArg Host.Outcome.next ((if_pos hex).trans (State.fence_proceeds h ht true))⟩

/-! Re-admission (15 R347, 13 R321, 10 R246). -/

/-- The retest of a unit waits to begin. -/
def State.retestQueued (s : State) (kind idx : Nat) : State :=
  { s with ledger := { s.ledger with retests := s.ledger.retests ++ [(kind, idx, 0)] } }

theorem exec_reAdmission {s : State} {u : UnitId} {who : Issuer} (hex : unitExists u.kind u.index = true) (hwho : who = .belfry ∨ who = .theldo)
    (h : s.unitVerdict 7 u.kind u.index ≠ .superseded) : exec (.reAdmission who u) s =
      .next (if 2 ≤ ledState (s.ledgerOf u.kind u.index) then s
        else if ledState (s.ledgerOf u.kind u.index) = 1 then
          if (s.retestOf u.kind u.index).isSome then s.setRetest u.kind u.index (some 0) else s.retestQueued u.kind u.index
        else s.readmit u.kind u.index) := by
  have hverdict : ¬ (s.unitVerdict 7 u.kind u.index == .superseded) = true := by simpa using h
  have hstep : stepReAdmission who u s = (s.unfence u.kind u.index).1 := by
    rcases hwho with rfl | rfl <;> exact if_pos hex
  refine congrArg Host.Outcome.next (hstep.trans ?_)
  rw [State.unfence, if_neg hverdict]
  dsimp only
  split
  · rfl
  · split <;> rfl

/-- A memory channel that is muffled is out of service. -/
theorem State.muffleUnit_chan (s : State) (idx : Nat) : ((s.muffleUnit 6 idx).chan idx).st = 2 := by
  have hready : ∀ (t : State) (n : Nat), (t.chanReady n).mem = t.mem := fun t n => by
    unfold State.chanReady
    dsimp only
    split
    · split <;> rfl
    · split <;> rfl
  have hchan : ∀ (t : State), ((t.updChan idx (fun x => { x with st := 2 })).chanReady idx).chan idx = { t.chan idx with st := 2 } := fun t => by
    rw [State.chan, hready]
    exact tget_tset_same _ _ _ _
  exact congrArg MemCh.st (hchan _)

/-- The way back of a muffled unit begins: it is named for the next flip, and no router's next bank is whole (10 R246). -/
theorem State.readmit_begins {s : State} {kind idx : Nat} (h : s.unitMuffled kind idx = true) (hnew : unitCode kind idx ∉ s.mesh.installing) :
    unitCode kind idx ∈ (s.readmit kind idx).mesh.installing ∧ ∀ c, c < 16 → ((s.readmit kind idx).router c).shadowValid = false := by
  have hgo : (s.unitMuffled kind idx && !s.mesh.installing.contains (unitCode kind idx)) = true := by simp [h, hnew]
  rw [State.readmit, if_pos hgo]
  refine ⟨?_, fun c hc => ?_⟩
  · refine (congrArg (unitCode kind idx ∈ ·) (State.each_frame (fun t => t.mesh.installing) (fun _ _ => by rfl) _)).mpr ?_
    exact List.mem_append_right _ (List.mem_singleton.mpr rfl)
  · have hother : ∀ (t : State) (m : Nat), m ≠ c → ((t.updRouter m (fun r => { r with shadowValid := false })).router c).shadowValid =
        (t.router c).shadowValid := fun t m hm => by rw [State.updRouter_router, if_neg (Ne.symm hm)]
    have hsame : ∀ t : State, ((t.updRouter c (fun r => { r with shadowValid := false })).router c).shadowValid = false := fun t => by
      rw [State.updRouter_router, if_pos rfl]
    exact (State.each_at (fun t => (t.router c).shadowValid) List.nodup_range (List.mem_range.mpr hc) hother
      (fun s t _ => (hsame s).trans (hsame t).symm) _).trans (hsame _)

/-! Re-placement (15 R348-R353). -/

@[simp] theorem State.updBatX_batX_same (s : State) (c b : Nat) (f : BatteryX → BatteryX) : (s.updBatX c b f).batX c b = f (s.batX c b) :=
  tget_tset_same _ _ _ _

@[simp] theorem State.updClY_clY_same (s : State) (c : Nat) (f : ClusterY → ClusterY) : (s.updClY c f).clY c = f (s.clY c) :=
  tget_tset_same _ _ _ _

theorem State.updBatX_clY (s : State) (c b : Nat) (f : BatteryX → BatteryX) : (s.updBatX c b f).clY = s.clY := rfl

section
variable {s : State} {c : Fin 16} {b : Fin 64} {img : SecImage} {i : CtxId} (himg : (s.bat c.val b.val).active = some img)
  (howner : (s.bat c.val b.val).owner = some i) (hheld : (s.batX c.val b.val).held = true)
include himg howner hheld

/-- A skip is planned for a muffled tile that is open to it. -/
theorem exec_replacement_skip {ta : Nat} (hplan : (s.batX c.val b.val).plan = 0) (hup : s.compDown (16 * (3 + c.val) + 2) = false)
    (hmuted : s.mutedTile c.val b.val = some ta) (hauto : (s.part i.part).autoSkip = true) (hopen : s.skipOpen ta = true)
    (hswaps : s.cfg.swaps = []) : exec (.replacement c b) s = .next ((s.updClY c.val (fun y =>
      { y with skips := y.skips ++ [(taX ta, taY ta, b.val)] })).updBatX c.val b.val (fun y => { y with plan := 1 })) := by
  refine congrArg Host.Outcome.next ?_
  simp only [stepReplacement, himg, howner, hheld, hplan, hmuted, hauto, hopen, hup, hswaps, List.filter_nil, bne_self_eq_false, Bool.not_true,
    Bool.or_self, Bool.and_self, Bool.false_eq_true, if_false, if_true]
  rfl

/-- A held section of a battery without a muffled tile is relocated if it may be, else its SEC_RUN completes. -/
theorem exec_replacement_unmuffled (hplan : (s.batX c.val b.val).plan = 0) (hmuted : s.mutedTile c.val b.val = none) :
    exec (.replacement c b) s = .next (if s.compDown 37 then s
      else if (s.part i.part).autoRelocate && (s.relocTarget c.val b.val img).isSome then s.updBatX c.val b.val (fun y => { y with plan := 2 })
      else s.replFail c.val b.val) := by
  refine congrArg Host.Outcome.next ?_
  simp only [stepReplacement, himg, howner, hheld, hplan, hmuted, bne_self_eq_false, Bool.not_true, Bool.or_self, Bool.false_eq_true, if_false]

/-- The muffled tiles of a battery had banks whose data is lost (15 R352). -/
def State.lostBanksOf (s : State) (c b : Nat) : BitVec 12 :=
  (s.batTiles c b).foldl (fun (n : BitVec 12) (e : Nat × Nat) => if s.muffledTile e.2 then n ||| (s.tile e.2).ctl.lostBanks else n) 0

theorem exec_relocation (hup : s.compDown 37 = false) (hplan : (s.batX c.val b.val).plan = 2) : exec (.relocation c b) s =
    .next (match s.relocTarget c.val b.val img with
      | none => s.replFail c.val b.val
      | some b' => (((((s.moveBattery c.val b.val b').updBatX c.val b.val (fun y => { y with held := false, plan := 0, replLast := 2 })).restartSlots
          c.val [b.val] (fun _ => b')).replRecord c.val b.val i 0xC1 2 b' 0 0 (s.lostBanksOf c.val b.val).toNat).reArm c.val b').pumpAll) := by
  refine congrArg Host.Outcome.next ?_
  simp only [stepRelocation, himg, howner, hheld, hplan, hup, bne_self_eq_false, Bool.not_true, Bool.or_self, Bool.false_eq_true, if_false]
  rfl

end

/-- A skip that is due takes effect: the column shifts, the transfers restart, and the section that planned it goes on (15 R350). -/
theorem exec_skipSwap {s v : State} {c x : Fin 16} {b y : Nat} {img : SecImage} {i : CtxId}
    (hup : s.compDown (16 * (3 + c.val) + 2) = false) (hskip : (s.clY c.val).skips.find? (fun e => e.1 == x.val) = some (x.val, y, b))
    (hstill : ∀ n, n ∈ s.covering c.val x.val → (s.bat c.val n).st = .loaded ∨ (s.bat c.val n).st = .empty)
    (hv : ((((s.updClY c.val (fun z => { z with skips := z.skips.filter (fun e => e.1 != x.val) })).shiftColumn c.val x.val y).setSkip
      c.val x.val y).restartSlots c.val (State.shifted (s.updClY c.val (fun z => { z with skips := z.skips.filter (fun e => e.1 != x.val) }))
      c.val (s.covering c.val x.val) y) id).tilesChanged c.val = v)
    (himg : (v.bat c.val b).active = some img) (howner : (v.bat c.val b).owner = some i) (hheld : (v.batX c.val b).held = true)
    (hplan : (v.batX c.val b).plan = 1) : exec (.skipSwap c x) s = .next ((((v.replRecord c.val b i 0xC1 1 b x.val y
      (s.tile (taddr c.val x.val y)).ctl.lostBanks.toNat).updBatX c.val b (fun y => { y with replLast := 1 })).reArm c.val b).pumpAll) := by
  have hall : (s.covering c.val x.val).all (fun b => let st := (s.bat c.val b).st
      !(st == .arm || st == .run || st == .commit || st == .abort)) = true :=
    List.all_eq_true.mpr fun n hn => by rcases hstill n hn with h | h <;> rw [h] <;> rfl
  refine congrArg Host.Outcome.next ?_
  simp only [stepSkipSwap, hskip, hall, hup, hv, himg, howner, hheld, hplan, beq_self_eq_true, Bool.not_true, Bool.or_self, Bool.and_self,
    Bool.false_eq_true, if_false, if_true]
  rfl

/-- A section that has been re-placed waits for what blocks it, else enters ARM again (15 R348). -/
theorem State.reArm_eq {s q : State} {c b : Nat} {img : SecImage} {i : CtxId} (himg : (s.bat c b).active = some img)
    (howner : (s.bat c b).owner = some i) (hq : s.updBatX c b (fun y => { y with held := true, replaced := true, plan := 3 }) = q)
    (hactive : (q.ctx i.part i.ctx).st = 1) : s.reArm c b = if q.swapBlocks c b then q
      else ((q.updBatX c b (fun y => { y with held := false, plan := 0 })).updBat c b (fun y => { y with replays := 0 })).enterArm c b i img := by
  have hbat : q.bat c b = s.bat c b := by rw [← hq]; rfl
  have hx : (q.batX c b).held = true ∧ (q.batX c b).plan = 3 := by
    rw [← hq, State.updBatX_batX_same]
    exact ⟨rfl, rfl⟩
  have hctx : ∀ f, ((q.updBatX c b f).ctx i.part i.ctx).st = 1 := fun _ => hactive
  rw [State.reArm, hq]
  simp only [State.enterHeld, hbat, himg, howner, hx.1, hx.2, hctx, beq_self_eq_true, Bool.and_self, Bool.not_true, Bool.false_or, if_true]

/-- Settles O29: fences and re-admission by the arbiter's verdict, each step of a re-placement by its rule. -/
theorem unitsMuffledAndReplaced : Obligations.UnitsMuffledAndReplaced := by
  refine ⟨fun s u hex => ⟨fun h1 h2 h3 hnone => ?outside, fun t ht hproceeds => ?inside, fun who hwho hproceeds => ?readmission,
      fun s h => ?channel, fun s => State.readmit_begins⟩,
    fun s c b img i himg howner hheld => ⟨fun hplan => ⟨fun ta hup hmuted hauto hopen hswaps => ?skip, fun b' hup hmuted hauto hto => ?relocate,
        fun hdown hmuted => ?waits, fun hup hmuted hauto => ?fails⟩, fun b' hup hplan hto => ?relocation, fun hup hplan hto => ?noTarget,
      fun x y hup hplan hskip hstill v hv hvimg hvowner hvheld hvplan => exec_skipSwap hup hskip hstill hv hvimg hvowner hvheld hvplan,
      fun s q himg howner hq hactive => ?reArm⟩⟩
  case outside =>
    have htarget := unitTarget_outside h1 h2 h3 u.index
    refine exec_muffle hex ?_ (by rw [htarget])
    rw [State.unitVerdict_outside htarget hnone]
    decide
  case inside => exact exec_muffle hex (by rwa [State.unitVerdict_inside ht]) (by rw [ht])
  case readmission =>
    rw [exec_reAdmission hex hwho hproceeds]
    refine ⟨fun h => ?_, fun h hsome => ?_, fun h hnone => ?_, fun h => by rw [if_pos h]⟩
    · rw [h, if_neg (by decide), if_neg (by decide)]
    · rw [h, if_neg (by decide), if_pos rfl, if_pos hsome]
    · rw [h, hnone, if_neg (by decide), if_pos rfl]
      rfl
  case channel => rw [h, State.muffleUnit_chan]
  case skip =>
    refine ⟨_, exec_replacement_skip himg howner hheld hplan hup hmuted hauto hopen hswaps, ?_, ?_, rfl, rfl⟩
    · rw [State.updBatX_batX_same]
    · rw [State.updBatX_clY, State.updClY_clY_same]
  case relocate => rw [exec_replacement_unmuffled himg howner hheld hplan hmuted, hup, hauto, hto]; rfl
  case waits => rw [exec_replacement_unmuffled himg howner hheld hplan hmuted, hdown]; rfl
  case fails => rw [exec_replacement_unmuffled himg howner hheld hplan hmuted, hup, hauto]; rfl
  case relocation => rw [exec_relocation himg howner hheld hup hplan, hto]; rfl
  case noTarget => rw [exec_relocation himg howner hheld hup hplan, hto]
  case reArm =>
    rw [State.reArm_eq himg howner hq hactive]
    exact ⟨fun h => by rw [h]; rfl, fun h => by rw [h]; rfl⟩

end Sys2Proof.Machine
end

section
/-! SUPPORT. The reset of a partition, and the statement about resets and escalation, which fails (15 R360, 10 R240, 08 R193). -/
namespace Sys2Proof.Machine

/-- A SEC_LOAD of context 0 of partition 0. -/
def strayCmd : CmdRef := { part := 0, ctx := 0, x := 0, idx := 0, op := 1, tag := 0, cqe := false, notify := false, bits := 0 }

/-- An image of one cycle count with one binding, of engine 0's descriptor 0. -/
def strayImage : SecImage :=
  { va := 0, header := BitVec.ofNat 256 (64 * 2 ^ 64), bindings := [⟨0, []⟩], regions := [], chimes := [], tiles := [] }

/-- Partition 0 holds clusters 0 and 2, on both sides of seam 0. A packet of a stream engine of cluster 4 crosses that seam, the section of
cluster 4 that is bound to its descriptor is in ARM, and behind it waits a load of context 0 of partition 0, which does not hold the cluster. -/
def strayLoad : State := { State.reset with
  cfg := { CfgSys.reset with
    dev := { DeviceCfg.reset with
      valid := true, parts := [(0, { clusters := 5, owner := 0, vf := 0, hbm := 0, far := 0, key := 1, resetKey := 1 })] } }
  mesh := { Mesh.reset with net := [{ Packet.blank with agent := 2, taddr := 256, slot := some (1, 6, 0) }] }
  descs := [(256, { Desc.reset with st := .active })]
  bats := [(256, { Battery.reset with st := .arm, armOk := true, active := some strayImage, waiting := [strayCmd] })] }

/-- The reset takes the seam down, which cuts the packet off; the transfer and so the section end, the load is taken, and its fault, of a
context without page tables, is written to the fault ring registers of the context just reset. -/
theorem strayLoad_overruns : ((strayLoad.partReset 0 false).ctxX 0 0).overrun = 1 := by decide +kernel

/-- Refutes O30: its clause on a partition reset has the registers of every context of the partition at their reset values. Nothing it
assumes keeps commands of the partition out of the clusters of others, and in `strayLoad` the reset starts one, whose fault changes them. -/
theorem not_resets : ¬ Obligations.Resets := by
  intro h
  obtain ⟨_, hpartition⟩ := h
  obtain ⟨_, _, _, hreset, _⟩ := hpartition strayLoad 0
  obtain ⟨_, _, hregisters, _⟩ := hreset strayLoad false _ 0 rfl (by decide) (by decide)
  have hoverrun := congrArg CtxX.overrun hregisters
  rw [show ((0 : Fin 16) : Nat) = 0 from rfl, strayLoad_overruns] at hoverrun
  exact absurd hoverrun (by decide)

end Sys2Proof.Machine
end

section
/-! SUPPORT. Configuration requests, MSI-X and BAR2 at a host port, one rule per access, and the statement about them (16 R370, 20 R451-R455,
07 R179). -/
namespace Sys2Proof.Machine

@[simp] theorem State.unlatch_port (s : State) (fn : Fn) (i : Nat) : (s.unlatch fn).port i = s.port i := by cases fn <;> rfl

@[simp] theorem State.unlatch_msix (s : State) (fn : Fn) : (s.unlatch fn).hosts.msix = s.hosts.msix := by cases fn <;> rfl

@[simp] theorem State.unlatch_fnEnabled (s : State) (fn : Fn) (p f : Nat) : (s.unlatch fn).fnEnabled p f = s.fnEnabled p f := by cases fn <;> rfl

section
variable {s : State} {port : Fin 4} {f : Fin 17}

/-! Configuration requests (16 R370, 11 R251). -/

theorem exec_configurationRequest_down (h : (s.port port.val).up = false) (off : Nat) (write : Bool) (val : Word) :
    exec (.configurationRequest port f off write val) s = .next ((s.unlatch (fnOf port f)).emit (.retryStatus port.val)) :=
  congrArg Host.Outcome.next (if_pos (by simp [h]))

theorem exec_configurationRequest_disabled (hup : (s.port port.val).up = true) (hon : s.fnEnabled port.val f.val = false) (off : Nat)
    (write : Bool) (val : Word) : exec (.configurationRequest port f off write val) s =
      .next ((s.unlatch (fnOf port f)).emit (.unsupported port.val)) := by
  refine congrArg Host.Outcome.next ?_
  simp only [stepConfigurationRequest, State.unlatch_port, State.unlatch_fnEnabled, hup, hon, Bool.not_true, Bool.not_false,
    Bool.false_eq_true, if_false, if_true]

theorem exec_configurationRequest_read (hup : (s.port port.val).up = true) (hon : s.fnEnabled port.val f.val = true) (off : Nat) (val : Word) :
    exec (.configurationRequest port f off false val) s =
      .next ((s.unlatch (fnOf port f)).emit (.readData port.val 4 (Config.cfgSpace f.val off).toNat)) := by
  refine congrArg Host.Outcome.next ?_
  simp only [stepConfigurationRequest, State.unlatch_port, State.unlatch_fnEnabled, hup, hon, Bool.not_true, Bool.not_false,
    Bool.false_eq_true, if_false, if_true]

/-! MSI-X (20 R453). -/

/-- A vector is neither masked nor pending. -/
def State.vectorClear (s : State) (port f vec : Nat) : State :=
  { s with hosts := { s.hosts with msix := tset s.hosts.msix (msixKey port f vec) (false, false) } }

theorem exec_msixUnmask {vec : Nat} (hvec : vec < (if f.val = 0 then 1048 else 65)) (hon : s.fnEnabled port.val f.val = true) :
    exec (.msixUnmask port f vec) s = .next (if (tget (s.unlatch (fnOf port f)).hosts.msix (msixKey port.val f.val vec) (false, false)).2 then
      ((s.unlatch (fnOf port f)).vectorClear port.val f.val vec).emit (.interrupt port.val f.val vec)
      else (s.unlatch (fnOf port f)).vectorClear port.val f.val vec) := by
  have hin : (decide ((if f.val = 0 then 1048 else 65) ≤ vec) || !(s.unlatch (fnOf port f)).fnEnabled port.val f.val) = false :=
    Bool.or_eq_false_iff.mpr ⟨decide_eq_false (Nat.not_le.mpr hvec), by rw [State.unlatch_fnEnabled, hon]; rfl⟩
  exact congrArg Host.Outcome.next (if_neg (Bool.eq_false_iff.mp hin))

/-! Windows (20 R455). -/

/-- A window binds to a context of a partition that the port owns, at a multiple of its size. -/
theorem exec_bar2WindowBind {w : Fin 16} {val : Dword} (h : s.boot.bundle = true) : ∃ x : Window, exec (.bar2WindowBind port w val) s =
      .next ((fun t : State => { t with hosts := { t.hosts with windows := tset t.hosts.windows (16 * port.val + w.val) x } })
        (s.unlatch (.pf port))) ∧
    x.part = bf val 1 4 ∧ x.ctx = bf val 5 6 ∧ x.va = bf val 30 18 * 2 ^ 30 ∧
    (x.valid = true ↔ (∃ r, s.prec (bf val 1 4) = some r ∧ r.owner = port.val) ∧ (s.ctx (bf val 1 4) (bf val 5 6)).st ≠ 0 ∧
      bf val 30 18 * 2 ^ 30 % s.winSize port.val = 0) := by
  refine ⟨_, congrArg Host.Outcome.next (if_neg (by simp [h])), rfl, rfl, rfl, ?_⟩
  have hsize : (s.unlatch (.pf port)).winSize port.val = s.winSize port.val := rfl
  simp only [State.unlatch_prec, State.unlatch_ctx, hsize, beq_iff_eq]
  cases hr : s.prec (bf val 1 4) with
  | none => simp [St.notOwner, St.completed]
  | some r =>
    simp only [Option.some.injEq, exists_eq_left', bne_iff_ne, ne_eq]
    generalize bf val 30 18 * 2 ^ 30 % s.winSize port.val = m
    by_cases hown : r.owner = port.val
    · by_cases hst : (s.ctx (bf val 1 4) (bf val 5 6)).st = 0
      · simp [hown, hst, St.contextState, St.completed]
      · by_cases hva : m = 0
        · simp [hown, hst, hva]
        · simp [hown, hst, hva, St.reservedNonzero, St.completed]
    · simp [hown, St.notOwner, St.completed]

theorem exec_resizableBarChange {size : Nat} (hlow : 30 ≤ size) (hhigh : size ≤ 39) : exec (.resizableBarChange port size) s =
    .next ((fun t : State => { t with hosts := { t.hosts with
      windows := tmap t.hosts.windows (fun n w => if n / 16 = port.val then { w with valid := false } else w) } })
      (s.updPort port.val (fun q => { q with bar2 := size }))) :=
  congrArg Host.Outcome.next (if_neg (by simp [hlow, hhigh]))

/-! BAR2 (20 R454). -/

/-- A port whose only BAR2 request is x. -/
def State.barAsks (s : State) (p : Nat) (x : Bar2Op) : State := s.updPort p (fun y => { y with held := [x] })

/-- A port that holds no BAR2 request any more. -/
def State.barDone (s : State) (p : Nat) : State := s.updPort p (fun y => { y with held := [] })

theorem State.bar2Arrive_alone {p : Nat} {x : Bar2Op} (hheld : (s.port p).held = []) :
    s.bar2Arrive p x = match (s.barAsks p x).bar2Look p x with
      | (t, .waits) => t
      | (t, r) => (t.barDone p).bar2Perform p x r := by
  have harrive : s.updPort p (fun y => { y with held := y.held ++ [x] }) = s.barAsks p x := by
    simp [State.barAsks, State.updPort, hheld]
  have hone : ((s.barAsks p x).port p).held = [x] := by simp [State.barAsks, State.updPort_port]
  rcases hlook : (s.barAsks p x).bar2Look p x with ⟨t, r⟩
  simp only [State.bar2Arrive, harrive, hone, List.length_singleton, State.bar2Drain, hlook]
  cases r <;> rfl

theorem State.bar2Arrive_fails {t : State} {p : Nat} {x : Bar2Op} (hheld : (s.port p).held = [])
    (hlook : (s.barAsks p x).bar2Look p x = (t, .fails)) :
    s.bar2Arrive p x = if x.write then t.barDone p else (t.barDone p).emit (.unsupported p) := by
  rw [State.bar2Arrive_alone hheld, hlook]
  rfl

theorem State.bar2Arrive_waits {t : State} {p : Nat} {x : Bar2Op} (hheld : (s.port p).held = [])
    (hlook : (s.barAsks p x).bar2Look p x = (t, .waits)) : s.bar2Arrive p x = t := by
  rw [State.bar2Arrive_alone hheld, hlook]

theorem State.bar2Arrive_pages {t : State} {p : Nat} {x : Bar2Op} {l : List (Nat × Nat)} (hheld : (s.port p).held = [])
    (hlook : (s.barAsks p x).bar2Look p x = (t, .pages l)) :
    s.bar2Arrive p x = (t.barDone p).bar2Perform p x (.pages l) := by
  rw [State.bar2Arrive_alone hheld, hlook]

theorem State.readPages_barDone (p : Nat) (l : List (Nat × Nat)) (off len : Nat) : (s.barDone p).readPages l off len = s.readPages l off len := by
  induction l generalizing off len with
  | nil => rfl
  | cons g l ih =>
    simp only [State.readPages, ih]
    rfl

/-- What a read of pages sends back. -/
theorem State.bar2Perform_read {t : State} {p : Nat} {x : Bar2Op} {l : List (Nat × Nat)} (hread : x.write = false) :
    (t.barDone p).bar2Perform p x (.pages l) = (t.barDone p).emit (if l.any (fun g => t.poisoned g.1 g.2) then .readPoisoned p x.len
      else .readData p x.len (leNat (t.readPages l 0 x.len))) := by
  simp only [State.bar2Perform, hread, Bool.false_eq_true, if_false, State.readPages_barDone]
  split <;> rename_i h
  · exact congrArg _ (if_pos h).symm
  · exact congrArg _ (if_neg h).symm

theorem exec_bar2Read_up (addr len : Nat) (hup : (s.port port.val).up = true) : exec (.bar2Read port addr len) s =
    .next ((s.unlatch (.pf port)).bar2Arrive port.val { write := false, addr, len, data := [] }) :=
  congrArg Host.Outcome.next (if_pos hup)

/-! Where a BAR2 access leads (20 R454, 04 R107). -/

section
variable {p n va : Nat} {x : Bar2Op} {i : CtxId} {q t v : State} {l : List (Nat × Nat)}
  (hn : n = (if x.write then x.data.length else x.len))
include hn

theorem State.bar2Look_unbound (h : q.bar2Va p x.addr n = none) : q.bar2Look p x = (q, .fails) := by
  simp only [State.bar2Look, ← hn, h]

theorem State.bar2Look_untranslated {st : Nat} (h : q.bar2Va p x.addr n = some (i, va))
    (hpages : q.devPages i x.write (n / 65536 + 2) va n = (t, .error st)) : q.bar2Look p x = (t, .fails) := by
  simp only [State.bar2Look, ← hn, h, hpages]

theorem State.bar2Look_locked (h : q.bar2Va p x.addr n = some (i, va)) (hpages : q.devPages i x.write (n / 65536 + 2) va n = (t, .ok l))
    (hlock : ∃ g ∈ l, t.locked g.1 g.2 x.write none = true) : q.bar2Look p x = (t, .waits) := by
  simp only [State.bar2Look, ← hn, h, hpages, List.any_eq_true.mpr hlock, if_true]

theorem State.bar2Look_free (h : q.bar2Va p x.addr n = some (i, va)) (hpages : q.devPages i x.write (n / 65536 + 2) va n = (t, .ok l))
    (hlock : ∀ g ∈ l, t.locked g.1 g.2 x.write none = false) {st : Nat} (hway : t.reachAll (portNode p) i 4 0 (l.map (·.1)) = (v, st)) :
    q.bar2Look p x = (v, if st = 0 then .pages l else .fails) := by
  have hfree : l.any (fun g => t.locked g.1 g.2 x.write none) = false := List.any_eq_false.mpr (fun g hg => by simp [hlock g hg])
  simp only [State.bar2Look, ← hn, h, hpages, hfree, Bool.false_eq_true, if_false, hway]
  cases st <;> rfl

end

end

/-- Settles O40: each access by the rule of its case. -/
theorem hostPortAccesses : Obligations.HostPortAccesses := by
  intro s port
  refine ⟨fun _ off write val h => exec_configurationRequest_down h off write val,
    fun _ off val hup => ⟨fun hon => exec_configurationRequest_read hup hon off val,
      fun write hoff => exec_configurationRequest_disabled hup hoff off write val⟩, ?_, ?_, ?_, ?_, ?_⟩
  · intro f vec hvec hon
    refine ⟨_, exec_msixUnmask hvec hon, ?_⟩
    rw [State.unlatch_msix]
    split
    · exact ⟨tget_tset_same _ _ _ _, State.unlatch_mem .., congrArg (_ :: ·) (State.unlatch_out ..)⟩
    · exact ⟨tget_tset_same _ _ _ _, State.unlatch_mem .., State.unlatch_out ..⟩
  · intro w val h
    obtain ⟨x, hexec, hpart, hctx, hva, hvalid⟩ := exec_bar2WindowBind (port := port) (w := w) (val := val) h
    refine ⟨_, hexec, rfl, rfl, ?_⟩
    have hwindow : ∀ t : State, State.window { t with hosts := { t.hosts with windows := tset t.hosts.windows (16 * port.val + w.val) x } }
      port.val w.val = x := fun t => tget_tset_same _ _ _ _
    rw [hwindow]
    exact ⟨hpart, hctx, hva, hvalid⟩
  · intro size hlow hhigh
    refine ⟨_, exec_resizableBarChange hlow hhigh, ?_, ?_, rfl⟩
    · show ((s.updPort port.val (fun q => { q with bar2 := size })).port port.val).bar2 = size
      rw [State.updPort_port_same]
    · intro e he hport
      obtain ⟨e', -, rfl⟩ := List.mem_map.mp he
      exact congrArg Window.valid (if_pos hport)
  · rintro x t _ l hup hheld rfl
    have hheld' : ((s.unlatch (.pf port)).port port.val).held = [] := by rw [State.unlatch_port]; exact hheld
    refine ⟨fun hx => ?_, fun hx => ?_⟩
    · have hwrite : x.write = false := by rw [hx]
      have hexec : exec (.bar2Read port x.addr x.len) s = .next ((s.unlatch (.pf port)).bar2Arrive port.val x) := by
        rw [exec_bar2Read_up _ _ hup, ← hx]
      rw [hexec]
      refine ⟨fun h => congrArg _ ((State.bar2Arrive_fails hheld' h).trans (if_neg (by simp [hwrite]))),
        fun h => congrArg _ (State.bar2Arrive_waits hheld' h), fun h => ?_⟩
      rw [State.bar2Arrive_pages hheld' h, State.bar2Perform_read hwrite]
      exact ⟨fun hbad => by rw [if_pos hbad]; rfl, fun hgood => by rw [if_neg (Bool.eq_false_iff.mp hgood)]; rfl⟩
    · have hwrite : x.write = true := by rw [hx]
      have hexec : exec (.bar2Write port x.addr x.data) s = .next ((s.unlatch (.pf port)).bar2Arrive port.val x) := by
        rw [exec_bar2Write_up _ _ hup, ← hx]
      rw [hexec]
      exact ⟨fun h => congrArg _ ((State.bar2Arrive_fails hheld' h).trans (if_pos hwrite)),
        fun h => congrArg _ (State.bar2Arrive_waits hheld' h),
        fun h => congrArg _ ((State.bar2Arrive_pages hheld' h).trans (if_pos hwrite))⟩
  · intro x q t v i va n l hn
    exact ⟨fun h => State.bar2Look_unbound hn h, fun h => ⟨fun _ hpages => State.bar2Look_untranslated hn h hpages, fun hpages =>
      ⟨fun hlock => State.bar2Look_locked hn h hpages hlock, fun hlock => ⟨fun hway => State.bar2Look_free hn h hpages hlock hway,
        fun _ hst hway => (State.bar2Look_free hn h hpages hlock hway).trans (by rw [if_neg hst])⟩⟩⟩⟩

end Sys2Proof.Machine
end

section
/-! SUPPORT. What becomes of a manager's request before it is performed, and the statement about it (20 R457, R458, 16 R370). -/
namespace Sys2Proof.Machine

section
variable {s : State} {typ : Nat} {port : Fin 2} {seq : Nat} {mac : BitVec 128} {payload : List Byte} {ready : Bool} {act : State → State}

theorem State.bfRequest_down (hdown : s.bfUp port.val = false) : s.bfRequest typ port seq mac payload ready act = s := if_pos (by simp [hdown])

theorem State.bfRequest_forged (hup : s.bfUp port.val = true) (hmac : mac ≠ s.tagOf typ port.val seq 0 payload) :
    s.bfRequest typ port seq mac payload ready act = s.badTag := by
  rw [State.bfRequest, if_neg (by simp [hup]), if_pos (by simpa using hmac)]

/-- A request whose number is not above the highest is looked up among the responses kept. -/
theorem State.bfRequest_again (hup : s.bfUp port.val = true) (hmac : mac = s.tagOf typ port.val seq 0 payload) (hseq : seq ≤ s.belfry.high) :
    s.bfRequest typ port seq mac payload ready act =
      (s.belfry.kept.find? (fun e => e.1 == seq)).elim s (fun e => s.emit (.belfry port.val 0 e.2)) := by
  rw [State.bfRequest, if_neg (by simp [hup]), if_neg (by simp [hmac]), if_pos hseq]
  cases s.belfry.kept.find? (fun e => e.1 == seq) <;> rfl

theorem State.bfRequest_admitted (hup : s.bfUp port.val = true) (hmac : mac = s.tagOf typ port.val seq 0 payload) (hseq : s.belfry.high < seq)
    (hready : ready = true) : s.bfRequest typ port seq mac payload ready act = act (s.accept seq) := by
  rw [State.bfRequest, if_neg (by simp [hup]), if_neg (by simp [hmac]), if_neg (Nat.not_le.mpr hseq)]
  exact if_pos hready

theorem State.bfRequest_notReady (hup : s.bfUp port.val = true) (hmac : mac = s.tagOf typ port.val seq 0 payload) (hseq : s.belfry.high < seq)
    (hready : ready = false) :
    s.bfRequest typ port seq mac payload ready act = (s.accept seq).respond port.val typ seq 0xD0 [] := by
  rw [State.bfRequest, if_neg (by simp [hup]), if_neg (by simp [hmac]), if_neg (Nat.not_le.mpr hseq)]
  exact if_neg (by simp [hready])

end

/-- A command that carries a manager's request of a TYPE with a payload: what it does beyond the checks of every request is a condition
and an action. -/
def carriesRequest (e : Instr × Nat × List Byte) (port : Fin 2) (seq : Nat) (mac : BitVec 128) : Prop :=
  ∀ s : State, ∃ (ready : Bool) (act : State → State), exec e.1 s = .next (s.bfRequest e.2.1 port seq mac e.2.2 ready act)

theorem carriesRequest_reserved {typ : Byte} (h : managerType typ.toNat = false) (port : Fin 2) (seq : Nat) (mac : BitVec 128)
    (payload : List Byte) : carriesRequest (.belfryReservedType port typ seq mac payload, typ.toNat, payload) port seq mac :=
  fun _ => ⟨_, _, congrArg Host.Outcome.next (if_neg (by simp [h]))⟩

/-- An ORDER is such a command, with its own number in the payload. -/
theorem carriesRequest_order {i : Instr} {n : Nat} {port : Fin 2} {seq : Nat} {mac : BitVec 128} {payload : List Byte}
    (h : ∀ s : State, ∃ (ready ok : Bool) (act : Nat → State → State), exec i s = .next (s.bfOrder n port seq mac payload ready ok act)) :
    carriesRequest (i, 0x24, orderBytes n payload) port seq mac := by
  intro s
  obtain ⟨ready, ok, act, hexec⟩ := h s
  simp only [State.bfOrder] at hexec
  exact ⟨_, _, hexec⟩

/-- A command whose step function comes to the checks of a request is such a command. -/
theorem carriesRequest_of_step {e : Instr × Nat × List Byte} {port : Fin 2} {seq : Nat} {mac : BitVec 128} {step : State → State}
    (hexec : ∀ s, exec e.1 s = .next (step s))
    (hstep : ∀ s, ∃ (ready : Bool) (act : State → State), step s = s.bfRequest e.2.1 port seq mac e.2.2 ready act) :
    carriesRequest e port seq mac := by
  intro s
  obtain ⟨ready, act, h⟩ := hstep s
  exact ⟨ready, act, (hexec s).trans (congrArg _ h)⟩

/-- Every manager's message but the ACK is such a command. -/
theorem carriesRequest_of_mem {port : Fin 2} {seq : Nat} {mac src : BitVec 128} {payload : List Byte} {typ : Byte}
    {e : Instr × Nat × List Byte} (htyp : managerType typ.toNat = false) (he : e ∈ [
      (Instr.subscribe port seq mac src payload, 0x20, payload), (Instr.read port seq mac payload, 0x22, payload),
      (Instr.writeReg port seq mac payload, 0x23, payload), (Instr.orderChipReset port seq mac payload, 0x24, orderBytes 1 payload),
      (Instr.orderPartitionReset port seq mac payload, 0x24, orderBytes 2 payload),
      (Instr.orderEngineReset port seq mac payload, 0x24, orderBytes 3 payload),
      (Instr.orderContextReset port seq mac payload, 0x24, orderBytes 4 payload), (Instr.orderMuffle port seq mac payload, 0x24, orderBytes 5 payload),
      (Instr.orderPreempt port seq mac payload, 0x24, orderBytes 6 payload), (Instr.orderResume port seq mac payload, 0x24, orderBytes 7 payload),
      (Instr.orderReAdmit port seq mac payload, 0x24, orderBytes 8 payload), (Instr.stageData port seq mac payload, 0x25, payload),
      (Instr.stageGo port seq mac payload, 0x26, payload), (Instr.swap port seq mac payload, 0x27, payload),
      (Instr.owner port seq mac payload, 0x28, payload), (Instr.svnRaise port seq mac payload, 0x29, payload),
      (Instr.keySet port seq mac payload, 0x2A, payload), (Instr.belfryReservedType port typ seq mac payload, typ.toNat, payload)]) :
    carriesRequest e port seq mac := by
  simp only [List.mem_cons, List.not_mem_nil, or_false] at he
  rcases he with rfl | rfl | rfl | rfl | rfl | rfl | rfl | rfl | rfl | rfl | rfl | rfl | rfl | rfl | rfl | rfl | rfl | rfl
  · exact fun _ => ⟨_, _, rfl⟩
  · exact carriesRequest_of_step (fun _ => rfl) (fun s => by simp only [stepRead]; exact ⟨_, _, rfl⟩)
  · exact carriesRequest_of_step (fun _ => rfl) (fun s => by simp only [stepWriteReg]; exact ⟨_, _, rfl⟩)
  · exact carriesRequest_order fun _ => ⟨_, _, _, rfl⟩
  · exact carriesRequest_order fun _ => ⟨_, _, _, rfl⟩
  · exact carriesRequest_order fun _ => ⟨_, _, _, rfl⟩
  · exact carriesRequest_order fun _ => ⟨_, _, _, rfl⟩
  · exact carriesRequest_order fun _ => ⟨_, _, _, rfl⟩
  · exact carriesRequest_order fun _ => ⟨_, _, _, rfl⟩
  · exact carriesRequest_order fun _ => ⟨_, _, _, rfl⟩
  · exact carriesRequest_order fun _ => ⟨_, _, _, rfl⟩
  · exact carriesRequest_of_step (fun _ => rfl) (fun s => by simp only [stepStageData]; exact ⟨_, _, rfl⟩)
  · exact carriesRequest_of_step (fun _ => rfl) (fun s => by simp only [stepStageGo]; exact ⟨_, _, rfl⟩)
  · exact carriesRequest_of_step (fun _ => rfl) (fun s => by simp only [stepSwap]; exact ⟨_, _, rfl⟩)
  · exact fun _ => ⟨_, _, rfl⟩
  · exact fun _ => ⟨_, _, rfl⟩
  · exact fun _ => ⟨_, _, rfl⟩
  · exact carriesRequest_reserved htyp port seq mac payload

/-- Settles O41: every such command comes to one function, whose refusals are stated once. -/
theorem belfryRequests : Obligations.BelfryRequests := by
  intro s port seq mac src payload typ e htyp he
  obtain ⟨ready, act, hexec⟩ := carriesRequest_of_mem htyp he s
  rw [hexec]
  refine ⟨fun hdown => congrArg _ (State.bfRequest_down hdown), fun hup hmac => congrArg _ (State.bfRequest_forged hup hmac),
    fun hup hmac hseq => ?_⟩
  rw [State.bfRequest_again hup hmac hseq]
  exact ⟨fun h => by rw [h]; rfl, fun k h => by rw [h]; rfl⟩

end Sys2Proof.Machine
end

section
/-! SUPPORT. What an accepted request of a manager does, one rule per request, and the statement about it (20 R457-R460, 16 R370, R373, 18 R412). -/
namespace Sys2Proof.Machine

theorem State.bfChecked_fits (s : State) (typ : Nat) (port : Fin 2) (seq : Nat) {ok : Bool} (hok : ok = true) (act : State → State) :
    s.bfChecked typ port seq ok act = act s := if_pos hok

/-- The management owner is named. -/
def State.setOwner (s : State) (port : Nat) : State := { s with cfg := { s.cfg with mgmtPort := port, mgmtValid := true } }

/-- The management key is replaced. -/
def State.setKey (s : State) (key : BitVec 256) : State := { s with belfry := { s.belfry with key } }

section
variable {s : State} {port : Fin 2} {seq : Nat} {mac : BitVec 128} {payload : List Byte} (hup : s.bfUp port.val = true)
  (hseq : s.belfry.high < seq)
include hup hseq

/-- The collector of a port is the source of the request, at the UDP port that it names. -/
theorem exec_subscribe_accepted (src : BitVec 128) (hmac : mac = s.tagOf 0x20 port.val seq 0 payload)
    (hfits : bfFits payload 8 (bitMask [(0, 16)]) = true) : exec (.subscribe port seq mac src payload) s =
      .next (({ s.accept seq with belfry := if port.val = 0 then
          { (s.accept seq).belfry with coll0 := some (src.toNat * 65536 + leNat payload) }
        else { (s.accept seq).belfry with coll1 := some (src.toNat * 65536 + leNat payload) } } : State).respond port.val 0x20 seq St.completed []) := by
  refine congrArg Host.Outcome.next ((State.bfRequest_admitted hup hmac hseq rfl).trans ?_)
  exact State.bfChecked_fits _ _ _ _ hfits _

theorem exec_read_notReady (hmac : mac = s.tagOf 0x22 port.val seq 0 payload)
    (hready : s.readReady (field (leNat payload) 0 4) (field (leNat payload) 32 32) = false) :
    exec (.read port seq mac payload) s = .next ((s.accept seq).respond port.val 0x22 seq 0xD0 []) := by
  refine congrArg Host.Outcome.next ?_
  simp only [stepRead, State.bfRequest_notReady hup hmac hseq hready]

theorem exec_read_object (hmac : mac = s.tagOf 0x22 port.val seq 0 payload)
    (hready : s.readReady (field (leNat payload) 0 4) (field (leNat payload) 32 32) = true)
    (hfits : bfFits payload 10 (bitMask [(0, 4), (32, 48)]) = true) (hobj : field (leNat payload) 0 4 < 4)
    (hlen : 0 < field (leNat payload) 64 16) (hmax : field (leNat payload) 64 16 ≤ 1024)
    (hend : field (leNat payload) 32 32 + field (leNat payload) 64 16 ≤ objectSize (field (leNat payload) 0 4)) :
    exec (.read port seq mac payload) s = .next ((s.accept seq).respond port.val 0x22 seq St.completed
      ((List.range (field (leNat payload) 64 16)).map
        (fun i => (s.accept seq).objectByte (field (leNat payload) 0 4) (field (leNat payload) 32 32 + i)))) := by
  have hok : (bfFits payload 10 (bitMask [(0, 4), (32, 48)]) && decide (field (leNat payload) 0 4 ≤ 4)) = true := by
    simp [hfits, Nat.le_of_lt hobj]
  refine congrArg Host.Outcome.next ?_
  simp only [stepRead, State.bfRequest_admitted hup hmac hseq hready, State.bfChecked_fits _ _ _ _ hok, if_neg (Nat.ne_of_lt hobj)]
  exact if_neg (by simp; omega)

theorem exec_read_register (hmac : mac = s.tagOf 0x22 port.val seq 0 payload)
    (hready : s.readReady (field (leNat payload) 0 4) (field (leNat payload) 32 32) = true)
    (hfits : bfFits payload 10 (bitMask [(0, 4), (32, 48)]) = true) (hobj : field (leNat payload) 0 4 = 4)
    (hlen : field (leNat payload) 64 16 = 8) (halign : field (leNat payload) 32 32 % 8 = 0) (hoff : field (leNat payload) 32 32 < 0x2000000) :
    exec (.read port seq mac payload) s = .next ((s.accept seq).respond port.val 0x22 seq St.completed
      (leBytes 8 ((s.accept seq).slotVal .net (field (leNat payload) 32 32)))) := by
  have hok : (bfFits payload 10 (bitMask [(0, 4), (32, 48)]) && decide (field (leNat payload) 0 4 ≤ 4)) = true := by simp [hfits, hobj]
  refine congrArg Host.Outcome.next ?_
  simp only [stepRead, State.bfRequest_admitted hup hmac hseq hready, State.bfChecked_fits _ _ _ _ hok, if_pos hobj]
  exact if_neg (by simp [hlen, halign, hoff])

theorem exec_writeReg_accepted (hmac : mac = s.tagOf 0x23 port.val seq 0 payload) (hbundle : s.boot.bundle = true)
    (hfits : bfFits payload 16 (bitMask [(0, 32), (64, 64)]) = true) : exec (.writeReg port seq mac payload) s =
      .next (if writable (field (leNat payload) 0 32) then
        ((s.accept seq).writeSlot .net (field (leNat payload) 0 32) 8 (field (leNat payload) 64 64)).respond port.val 0x23 seq St.completed []
        else (s.accept seq).respond port.val 0x23 seq 0xD5 []) := by
  refine congrArg Host.Outcome.next ?_
  simp only [stepWriteReg, State.bfRequest_admitted hup hmac hseq hbundle, State.bfChecked_fits _ _ _ _ hfits]
  rfl

theorem exec_owner_accepted (hmac : mac = s.tagOf 0x28 port.val seq 0 payload) (hfits : bfFits payload 8 3 = true) :
    exec (.owner port seq mac payload) s = .next (if s.boot.bundle then (s.accept seq).respond port.val 0x28 seq St.contextState []
      else ((s.accept seq).setOwner (field (leNat payload) 0 2)).respond port.val 0x28 seq St.completed []) := by
  refine congrArg Host.Outcome.next ((State.bfRequest_admitted hup hmac hseq rfl).trans ?_)
  exact State.bfChecked_fits _ _ _ _ hfits _

theorem exec_svnRaise_accepted (hmac : mac = s.tagOf 0x29 port.val seq 0 []) (hbundle : s.boot.bundle = true) :
    exec (.svnRaise port seq mac []) s = .next (({ s.accept seq with
      fw := { s.fw with svnFloor := max s.fw.svnFloor s.fw.svn } } : State).respond port.val 0x29 seq St.completed []) :=
  congrArg Host.Outcome.next (State.bfRequest_admitted hup hmac hseq hbundle)

/-- The response to a KEY_SET that unwraps goes out under the new key. -/
theorem exec_keySet_accepted (hmac : mac = s.tagOf 0x2A port.val seq 0 payload) (hbundle : s.boot.bundle = true) (hlen : payload.length = 40) :
    exec (.keySet port seq mac payload) s = .next (match Config.aesUnwrap s.belfry.key (BitVec.ofNat 320 (leNat payload)) with
      | some key => ((s.accept seq).setKey key).respond port.val 0x2A seq St.completed []
      | none => (s.accept seq).respond port.val 0x2A seq 0x47 []) := by
  refine congrArg Host.Outcome.next ((State.bfRequest_admitted hup hmac hseq hbundle).trans ?_)
  exact State.bfChecked_fits _ _ _ _ (by simp [hlen]) _

theorem exec_belfryReservedType_accepted {typ : Byte} (hmac : mac = s.tagOf typ.toNat port.val seq 0 payload) (hbundle : s.boot.bundle = true)
    (htyp : managerType typ.toNat = false) : exec (.belfryReservedType port typ seq mac payload) s =
      .next ((s.accept seq).respond port.val typ.toNat seq 0xD5 []) :=
  congrArg Host.Outcome.next ((if_neg (by simp [htyp])).trans (State.bfRequest_admitted hup hmac hseq hbundle))

end

/-- Settles O42: each request by its own rule. -/
theorem belfryResponses : Obligations.BelfryResponses := by
  rintro s _ port seq mac src payload hup hseq rfl
  refine ⟨fun hmac hfits => ⟨_, exec_subscribe_accepted hup hseq src hmac hfits, ?_⟩,
    fun hmac => ⟨exec_read_notReady hup hseq hmac, fun hbundle hfits => ?_⟩, fun hmac hbundle hfits => ?_, fun hmac hfits => ?_, ?_,
    fun hmac hbundle hlen => ?_, fun typ hmac htyp hbundle => exec_belfryReservedType_accepted hup hseq hmac hbundle htyp⟩
  · split <;> exact ⟨rfl, rfl, rfl, rfl⟩
  · have hready : s.readReady (field (leNat payload) 0 4) (field (leNat payload) 32 32) = true := by simp [State.readReady, hbundle]
    exact ⟨exec_read_object hup hseq hmac hready hfits, exec_read_register hup hseq hmac hready hfits⟩
  · rw [exec_writeReg_accepted hup hseq hmac hbundle hfits]
    exact ⟨fun h => by rw [if_pos h], fun h => by rw [h]; rfl⟩
  · rw [exec_owner_accepted hup hseq hmac hfits]
    exact ⟨fun h => by rw [if_pos h], fun h => ⟨(s.accept seq).setOwner (field (leNat payload) 0 2), by rw [h]; rfl, rfl, rfl, rfl, rfl⟩⟩
  · rintro hmac hbundle rfl
    exact ⟨_, exec_svnRaise_accepted hup hseq hmac hbundle, rfl, rfl, rfl, rfl⟩
  · rw [exec_keySet_accepted hup hseq hmac hbundle hlen]
    exact ⟨fun key h => ⟨(s.accept seq).setKey key, by rw [h], rfl, rfl⟩, fun h => by rw [h]⟩

end Sys2Proof.Machine
end

section
/-! SUPPORT. The ORDERs of the belfry, its staging and its swaps, one rule per request, and the statement about them (20 R459, R461, 17 R402,
R404). -/
namespace Sys2Proof.Machine

/-! ORDERs (20 R461). -/

theorem State.bfOrder_admitted {s : State} {n : Nat} {port : Fin 2} {seq : Nat} {mac : BitVec 128} {payload : List Byte} {ready ok : Bool}
    {act : Nat → State → State} (hup : s.bfUp port.val = true) (hseq : s.belfry.high < seq)
    (hmac : mac = s.tagOf 0x24 port.val seq 0 (orderBytes n payload)) (hfits : bfFits (orderBytes n payload) 8 (bitMask [(0, 42)]) = true)
    (hready : ready = true) (hok : ok = true) :
    s.bfOrder n port seq mac payload ready ok act = act (leNat (orderBytes n payload)) (s.accept seq) := by
  simp only [State.bfOrder, State.bfRequest_admitted hup hmac hseq hready]
  exact State.bfChecked_fits _ _ _ _ (by simp [hfits, hok]) _

/-- An order that is answered at once leaves nothing waiting. -/
theorem State.bfOrdered_refused {b : State} {typ : Nat} {port : Fin 2} {seq key st : Nat} {act : State → State × Nat} (hst : st ≠ 0)
    (hwaits : b.belfry.waits = [])
    (hact : act { b with belfry := { b.belfry with waits := [(key, port.val, typ, seq)] } } =
      ({ b with belfry := { b.belfry with waits := [(key, port.val, typ, seq)] } }, st)) :
    b.bfOrdered typ port seq key act = b.respond port.val typ seq st [] := by
  have hback : ({ b with belfry := { b.belfry with waits := [] } } : State) = b := by rw [← hwaits]
  simp only [State.bfOrdered, hwaits, List.nil_append, hact]
  simp [hback]

section
variable {s : State} {port : Fin 2} {seq : Nat} {mac : BitVec 128} {payload : List Byte} (hup : s.bfUp port.val = true)
  (hseq : s.belfry.high < seq) (hbundle : s.boot.bundle = true)
include hup hseq hbundle

section
variable {n v : Nat} (hmac : mac = s.tagOf 0x24 port.val seq 0 (orderBytes n payload))
  (hfits : bfFits (orderBytes n payload) 8 (bitMask [(0, 42)]) = true) (hv : leNat (orderBytes n payload) = v)
include hmac hfits hv

omit hbundle in
theorem exec_orderChipReset_accepted (hn : n = 1) : exec (.orderChipReset port seq mac payload) s =
    .next ((s.accept seq).bfOrdered 0x24 port seq waitModule (fun s => s.orderChipReset false)) := by
  subst hn hv
  exact congrArg Host.Outcome.next (State.bfOrder_admitted hup hseq hmac hfits rfl rfl)

theorem exec_orderPartitionReset_accepted (hn : n = 2) : exec (.orderPartitionReset port seq mac payload) s =
    .next ((s.accept seq).bfOrdered 0x24 port seq (waitPart (field v 4 4)) (fun s => s.orderPartReset (field v 4 4) false)) := by
  subst hn hv
  exact congrArg Host.Outcome.next (State.bfOrder_admitted hup hseq hmac hfits hbundle rfl)

theorem exec_orderContextReset_accepted (hn : n = 4) : exec (.orderContextReset port seq mac payload) s =
    .next ((s.accept seq).bfOrdered 0x24 port seq (waitCtx (field v 4 4) (field v 8 6)) (fun s => s.resetContext (field v 4 4) (field v 8 6))) := by
  subst hn hv
  exact congrArg Host.Outcome.next (State.bfOrder_admitted hup hseq hmac hfits hbundle rfl)

theorem exec_orderPreempt_accepted (hn : n = 6) : exec (.orderPreempt port seq mac payload) s =
    .next ((s.accept seq).bfOrdered 0x24 port seq (waitCtx (field v 4 4) (field v 8 6)) (fun s => s.bfCtxOp (field v 4 4) (field v 8 6) 1)) := by
  subst hn hv
  exact congrArg Host.Outcome.next (State.bfOrder_admitted hup hseq hmac hfits hbundle rfl)

theorem exec_orderResume_accepted (hn : n = 7) : exec (.orderResume port seq mac payload) s =
    .next ((s.accept seq).bfOrdered 0x24 port seq (waitCtx (field v 4 4) (field v 8 6)) (fun s => s.bfCtxOp (field v 4 4) (field v 8 6) 2)) := by
  subst hn hv
  exact congrArg Host.Outcome.next (State.bfOrder_admitted hup hseq hmac hfits hbundle rfl)

theorem exec_orderEngineReset_accepted (hn : n = 3) (hengine : field (leNat payload) 18 2 ≠ 3) {u : State}
    (hu : (s.accept seq).engineReset (field v 14 4) (field v 18 2) (field v 20 2) false = u) :
    exec (.orderEngineReset port seq mac payload) s = .next (u.respond port.val 0x24 seq (u.clY (field v 14 4)).engResult []) := by
  subst hn hv hu
  exact congrArg Host.Outcome.next (State.bfOrder_admitted hup hseq hmac hfits hbundle (bne_iff_ne.mpr hengine))

/-- A muffle is answered at once, with the status of the fence. -/
theorem exec_orderMuffle_accepted (hn : n = 5) (hunit : unitExists (field (leNat payload) 22 4) (field (leNat payload) 26 16) = true)
    {u : State} {st : Nat} (hfence : (s.accept seq).fence true (field v 22 4) (field v 26 16) = (u, st)) :
    exec (.orderMuffle port seq mac payload) s = .next (u.respond port.val 0x24 seq (if st = 0 then St.completed else st) []) := by
  subst hn hv
  refine congrArg Host.Outcome.next ((State.bfOrder_admitted hup hseq hmac hfits hbundle hunit).trans ?_)
  rw [hfence]
  cases st <;> rfl

/-- A re-admission that the arbiter takes waits while the unit's retest or its way back runs. -/
theorem exec_orderReAdmit_accepted (hn : n = 8) (hunit : unitExists (field (leNat payload) 22 4) (field (leNat payload) 26 16) = true)
    {act : State → State × Nat} (hact : ∀ x y : State, ∀ st : Nat, x.unfence (field v 22 4) (field v 26 16) = (y, st) →
      act x = (y, if st = 0 then (if y.readmitting (field v 22 4) (field v 26 16) then 0 else St.completed) else st)) :
    exec (.orderReAdmit port seq mac payload) s =
      .next ((s.accept seq).bfOrdered 0x24 port seq (waitUnit (field v 22 4) (field v 26 16)) act) := by
  subst hn hv
  refine congrArg Host.Outcome.next ((State.bfOrder_admitted hup hseq hmac hfits hbundle hunit).trans ?_)
  refine congrArg ((s.accept seq).bfOrdered 0x24 port seq (waitUnit _ _)) (funext fun x => ?_)
  rcases hx : x.unfence (field (leNat (orderBytes 8 payload)) 22 4) (field (leNat (orderBytes 8 payload)) 26 16) with ⟨y, st⟩
  rw [hact x y st hx]
  cases st <;> rfl

end

/-! Staging and swaps (20 R459, 17 R402, R404). -/

/-- Bytes go into the belfry's staging buffer. -/
def State.stageBytes (s : State) (off : Nat) (data : List Byte) : State := s.updStager 4 (fun x => { x with buf := mwriteBytes x.buf off data })

theorem exec_stageData_accepted (hmac : mac = s.tagOf 0x25 port.val seq 0 payload)
    (hfits : bfFits (payload.take 8) 8 (bitMask [(0, 32)]) = true) (hlen : (payload.drop 8).length ≤ 1024)
    (hend : field (leNat (payload.take 8)) 0 32 + (payload.drop 8).length ≤ 4194304) : exec (.stageData port seq mac payload) s =
      .next (if (s.stager 4).go then (s.accept seq).respond port.val 0x25 seq 0x50 []
        else ((s.accept seq).stageBytes (field (leNat (payload.take 8)) 0 32) (payload.drop 8)).respond port.val 0x25 seq St.completed []) := by
  have hin : ¬ (1024 < (payload.drop 8).length || 4194304 < field (leNat (payload.take 8)) 0 32 + (payload.drop 8).length) = true := by
    simp only [Bool.or_eq_true, decide_eq_true_eq]
    omega
  refine congrArg Host.Outcome.next ?_
  simp only [stepStageData, State.bfRequest_admitted hup hmac hseq hbundle, State.bfChecked_fits _ _ _ _ hfits]
  exact if_neg hin

theorem exec_stageGo_accepted (hmac : mac = s.tagOf 0x26 port.val seq 0 payload)
    (hfits : bfFits payload 8 (bitMask [(0, 5), (32, 23)]) = true) : exec (.stageGo port seq mac payload) s =
      .next (if (s.stager 4).go then (s.accept seq).respond port.val 0x26 seq 0x50 []
        else if 4194304 < field (leNat payload) 32 23 then (s.accept seq).respond port.val 0x26 seq 0xD6 []
        else (s.accept seq).bfOrdered 0x26 port seq waitStage
          (fun s => s.stageGo 4 (if (leNat payload).testBit 0 then field (leNat payload) 1 4 else devTarget) (field (leNat payload) 32 23))) := by
  refine congrArg Host.Outcome.next ?_
  simp only [stepStageGo, State.bfRequest_admitted hup hmac hseq hbundle, State.bfChecked_fits _ _ _ _ hfits]
  rfl

theorem exec_swap_accepted (hmac : mac = s.tagOf 0x27 port.val seq 0 payload) (hfits : bfFits payload 8 (bitMask [(0, 5)]) = true) :
    exec (.swap port seq mac payload) s =
      .next ((s.accept seq).bfOrdered 0x27 port seq (waitSwap (if (leNat payload).testBit 0 then field (leNat payload) 1 4 else devTarget))
        (fun s => s.orderSwap (if (leNat payload).testBit 0 then field (leNat payload) 1 4 else devTarget) none true seq)) := by
  refine congrArg Host.Outcome.next ?_
  simp only [stepSwap, State.bfRequest_admitted hup hmac hseq hbundle, State.bfChecked_fits _ _ _ _ hfits]

end

/-- Settles O43: each order and each staging request by its own rule. -/
theorem belfryOrdersAndStaging : Obligations.BelfryOrdersAndStaging := by
  constructor
  · rintro s _ port seq n mac payload v hup hseq hbundle hmac rfl hfits hv
    exact ⟨exec_orderChipReset_accepted hup hseq hmac hfits hv, exec_orderPartitionReset_accepted hup hseq hbundle hmac hfits hv,
      exec_orderContextReset_accepted hup hseq hbundle hmac hfits hv, exec_orderPreempt_accepted hup hseq hbundle hmac hfits hv,
      exec_orderResume_accepted hup hseq hbundle hmac hfits hv,
      fun hn hengine _ hu => exec_orderEngineReset_accepted hup hseq hbundle hmac hfits hv hn hengine hu,
      fun hn hunit _ _ hfence => exec_orderMuffle_accepted hup hseq hbundle hmac hfits hv hn hunit hfence,
      fun hn hunit _ hact => exec_orderReAdmit_accepted hup hseq hbundle hmac hfits hv hn hunit hact,
      fun _ _ _ _ => State.bfOrdered_refused⟩
  · rintro s _ port seq mac payload _ hup hseq hbundle rfl rfl
    refine ⟨fun hmac hfits hlen hend => ?_, fun hmac hfits => ?_, exec_swap_accepted hup hseq hbundle⟩
    · rw [exec_stageData_accepted hup hseq hbundle hmac hfits hlen hend]
      refine ⟨fun h => ⟨(s.accept seq).stageBytes (field (leNat (payload.take 8)) 0 32) (payload.drop 8), by rw [h]; rfl, ?_, rfl, rfl⟩,
        fun h => by rw [h]; rfl⟩
      exact congrArg Stager.buf (tget_tset_same _ _ _ _)
    · rw [exec_stageGo_accepted hup hseq hbundle hmac hfits]
      exact ⟨fun h => by rw [h]; rfl, fun h hlen => by rw [h]; exact congrArg Host.Outcome.next (if_neg (Nat.not_lt.mpr hlen))⟩

end Sys2Proof.Machine
end

section
/-! SUPPORT. Reports, the management ports and SMBus, one rule per command, and the statement about them (20 R456, R459, R462-R464). -/
namespace Sys2Proof.Machine

section
variable {s : State}

/-! What goes out on the management ports (20 R457, R462). -/

/-- A message goes out once on each port that has link. -/
theorem State.bfSend_out_length (s : State) (typ : Nat) (resp ack : Bool) (seq ref : Nat) (payload : List Byte) :
    (s.bfSend typ resp ack seq ref payload).out.length = s.out.length + b2n (s.bfLink 0) + b2n (s.bfLink 1) := by
  cases h0 : s.bfLink 0 <;> cases h1 : s.bfLink 1 <;>
    simp [State.bfSend, State.each, State.bfLink, State.emit, b2n] at h0 h1 ⊢ <;> simp [h0, h1]

/-- Sending a message changes nothing but what went out. -/
theorem State.bfSend_frame (s : State) (typ : Nat) (resp ack : Bool) (seq ref : Nat) (payload : List Byte) :
    { s.bfSend typ resp ack seq ref payload with out := s.out } = s := by
  cases h0 : s.bfLink 0 <;> cases h1 : s.bfLink 1 <;>
    simp [State.bfSend, State.each, State.bfLink, State.emit] at h0 h1 ⊢ <;> simp [h0, h1]

theorem exec_hello_up (hgood : s.boot.powerGood = true) (hcomp : s.compDown 2 = false) : ∃ p : List Byte,
    exec .hello s = .next (({ s with belfry := { s.belfry with seq := wrapAdd 32 s.belfry.seq 1 } } : State).bfSend 0x01 false false
      s.belfry.seq 0 p) :=
  ⟨_, congrArg Host.Outcome.next (if_neg (by simp [hgood, hcomp]))⟩

theorem exec_hello_off (hgood : s.boot.powerGood = false) : exec .hello s = .next s :=
  congrArg Host.Outcome.next (if_pos (by simp [hgood]))

theorem exec_reportResend_up (hcomp : s.compDown 2 = false) : exec .reportResend s =
    .next (s.each s.belfry.reports (fun s r => s.bfSend r.2.1 false true r.1 0 (leBytes (reportLen r.2.1) r.2.2.1))) :=
  congrArg Host.Outcome.next (if_neg (by simp [hcomp]))

theorem exec_reportResend_down (hcomp : s.compDown 2 = true) : exec .reportResend s = .next s := congrArg Host.Outcome.next (if_pos hcomp)

section
variable {port : Fin 2} (hup : s.bfUp port.val = true)
include hup

theorem exec_ack_genuine {no : SeqRef} {mac : BitVec 128} {payload : List Byte} (hmac : mac = s.tagOf 0x21 port.val no.seq no.ref payload) :
    exec (.ack port no mac payload) s = .next { s with
      belfry := { s.belfry with reports := s.belfry.reports.filter (fun r => r.1 != no.ref) } } := by
  refine congrArg Host.Outcome.next ((if_neg (by simp [hup])).trans ?_)
  exact if_neg (by simp [hmac])

theorem exec_ack_forged {no : SeqRef} {mac : BitVec 128} {payload : List Byte} (hmac : mac ≠ s.tagOf 0x21 port.val no.seq no.ref payload) :
    exec (.ack port no mac payload) s = .next s.badTag := by
  refine congrArg Host.Outcome.next ((if_neg (by simp [hup])).trans ?_)
  exact if_pos (by simpa using hmac)

theorem exec_echoRequest_up (data : List Byte) : exec (.echoRequest port data) s = .next (s.emit (.network port.val 2 (leNat data))) :=
  congrArg Host.Outcome.next (if_pos hup)

theorem exec_neighborSolicitation_own : exec (.neighborSolicitation port (linkLocal port.val)) s =
    .next (s.emit (.network port.val 1 (linkLocal port.val))) :=
  congrArg Host.Outcome.next (if_pos (by simp [hup]))

end

theorem exec_neighborSolicitation_other {port : Fin 2} {target : Nat} (h : target ≠ linkLocal port.val) :
    exec (.neighborSolicitation port target) s = .next s := congrArg Host.Outcome.next (if_neg (by simp [h]))

theorem exec_echoRequest_down {port : Fin 2} (hdown : s.bfUp port.val = false) (data : List Byte) : exec (.echoRequest port data) s = .next s :=
  congrArg Host.Outcome.next (if_neg (by simp [hdown]))

/-- The link of a management port. -/
def State.setLink (s : State) (port : Nat) (up : Bool) : State :=
  { s with belfry := if port = 0 then { s.belfry with link0 := up } else { s.belfry with link1 := up } }

theorem State.setLink_bfLink_same (s : State) (port : Fin 2) (up : Bool) : (s.setLink port.val up).bfLink port.val = up := by
  rcases port with ⟨_ | _ | _, h⟩
  · rfl
  · rfl
  · omega

theorem State.setLink_bfLink_other (s : State) (port : Fin 2) (up : Bool) :
    (s.setLink port.val up).bfLink (1 - port.val) = s.bfLink (1 - port.val) := by
  rcases port with ⟨_ | _ | _, h⟩
  · rfl
  · rfl
  · omega

theorem exec_managementPortLink_changes {port : Fin 2} {up : Bool} (hgood : s.boot.powerGood = true) (h : s.bfLink port.val ≠ up) :
    exec (.managementPortLink port up) s = .next (if up then (s.setLink port.val up).emit (.network port.val 0 (linkLocal port.val))
      else s.setLink port.val up) :=
  congrArg Host.Outcome.next (if_neg (by simp [hgood, h]))

/-! SMBus (20 R463, R464). -/

theorem State.smbusSay_good (hgood : s.boot.powerGood = true) (n v : Nat) : s.smbusSay n v = s.emit (.smbus ((leBytes n v).map (·.toNat))) :=
  if_pos hgood

/-- The commands that read one value, each with its length and what it answers. -/
theorem exec_smbus_read {e : Instr × Nat × Nat} (he : e ∈ [
      (Instr.smbusStatusRead, 2, pack [(3, s.boot.stage), (8, s.boot.done), (1, b2n s.boot.serviceable)]),
      (Instr.smbusInputVoltageRead, 2, s.vinMean), (Instr.smbusInputCurrentRead, 2, s.pwr.inputMa / 10),
      (Instr.smbusInputPowerRead, 2, s.smbus.powerW), (Instr.smbusJunctionRead, 1, s.smbus.junction),
      (Instr.smbusCoolantRead true, 1, s.pwr.outlet), (Instr.smbusCoolantRead false, 1, s.pwr.inlet),
      (Instr.smbusReadyRead, 2, s.boot.readyClusters), (Instr.smbusIdentityRead, 12, pack [(32, glbIdVal), (64, Config.serial.toNat)])]) :
    exec e.1 s = .next (s.smbusSay e.2.1 e.2.2) := by
  simp only [List.mem_cons, List.not_mem_nil, or_false] at he
  rcases he with rfl | rfl | rfl | rfl | rfl | rfl | rfl | rfl | rfl <;> rfl

theorem exec_alertCauses_read (hgood : s.boot.powerGood = true) (val : Byte) :
    exec (.alertCauses false val) s = .next (s.emit (.smbus ((leBytes 1 s.smbus.causes).map (·.toNat)))) := by
  refine congrArg Host.Outcome.next ((if_neg (by simp [hgood])).trans ?_)
  exact State.smbusSay_good hgood _ _

theorem exec_alertCauses_write (hgood : s.boot.powerGood = true) (val : Byte) : exec (.alertCauses true val) s =
    .next (if clearBits s.smbus.causes val.toNat = 0 ∧ s.smbus.causes ≠ 0 then
      ({ s with smbus := { s.smbus with causes := clearBits s.smbus.causes val.toNat } } : State).emit (.alert false)
      else { s with smbus := { s.smbus with causes := clearBits s.smbus.causes val.toNat } }) := by
  refine congrArg Host.Outcome.next ((if_neg (by simp [hgood])).trans ((if_neg (by simp)).trans ?_))
  simp only [Bool.and_eq_true, decide_eq_true_eq, bne_iff_ne]

theorem exec_fruEepromRead_good (hgood : s.boot.powerGood = true) (addr len : Nat) : exec (.fruEepromRead addr len) s =
    .next (s.emit (.smbus ((List.range len).map (fun i => (Config.fru ((addr + i) % 8192)).toNat)))) :=
  congrArg Host.Outcome.next (if_pos hgood)

theorem exec_alertResponse_quiet (h : s.smbus.causes = 0) : exec .alertResponse s = .next s := congrArg Host.Outcome.next (if_pos h)

theorem exec_alertResponse_alert (hgood : s.boot.powerGood = true) (h : s.smbus.causes ≠ 0) :
    exec .alertResponse s = .next (s.emit (.smbus ((leBytes 1 0x5A).map (·.toNat)))) :=
  congrArg Host.Outcome.next ((if_neg h).trans (State.smbusSay_good hgood _ _))

end

/-- Settles O44: each command by its own rule. -/
theorem managementPortsAndSmbus : Obligations.ManagementPortsAndSmbus := by
  constructor
  · intro s
    refine ⟨fun hgood hcomp => ?_, exec_hello_off, exec_reportResend_up, exec_reportResend_down,
      fun port seq ref mac payload hup => ⟨exec_ack_genuine hup (no := ⟨seq, ref⟩), exec_ack_forged hup (no := ⟨seq, ref⟩)⟩,
      fun port target data => ⟨fun hup => ⟨exec_echoRequest_up hup data, exec_neighborSolicitation_own hup⟩,
        exec_neighborSolicitation_other, fun hdown => exec_echoRequest_down hdown data⟩,
      fun port hgood => ⟨fun h => ?_, fun h => ?_⟩⟩
    · obtain ⟨p, hexec⟩ := exec_hello_up hgood hcomp
      have hframe := State.bfSend_frame { s with belfry := { s.belfry with seq := wrapAdd 32 s.belfry.seq 1 } } 0x01 false false s.belfry.seq 0 p
      exact ⟨_, hexec, (congrArg (fun u => u.belfry.seq) hframe :), (congrArg (fun u => u.belfry.reports) hframe :),
        (congrArg State.mem hframe :), (congrArg State.tiles hframe :), State.bfSend_out_length ..⟩
    · refine ⟨_, exec_managementPortLink_changes hgood (by simp [h]), ?_, ?_, rfl, rfl⟩
      · exact s.setLink_bfLink_same port true
      · exact s.setLink_bfLink_other port true
    · exact ⟨_, exec_managementPortLink_changes hgood (by simp [h]), s.setLink_bfLink_same port false, rfl, rfl⟩
  · intro s hgood
    refine ⟨fun e he => (exec_smbus_read he).trans (congrArg _ (State.smbusSay_good hgood _ _)),
      fun val => ⟨exec_alertCauses_read hgood val, ?_⟩, exec_fruEepromRead_good hgood, exec_alertResponse_quiet,
      exec_alertResponse_alert hgood⟩
    refine ⟨_, exec_alertCauses_write hgood val, ?_⟩
    split <;> exact ⟨rfl, rfl, rfl, rfl⟩

end Sys2Proof.Machine
end

section
/-! SUPPORT. The monitor's commands and its unlocking, one rule per command, and the statement about them (20 R467, R468). -/
namespace Sys2Proof.Machine

section
variable {s : State} (hup : s.monUp = true)
include hup

/-! What each command passes first (20 R467). -/

omit hup in
theorem State.monCmd_early (hbundle : s.boot.bundle = false) (level : Nat) (act : State → State) : s.monCmd level act = s :=
  if_pos (by simp [hbundle])

theorem State.monCmd_locked (hbundle : s.boot.bundle = true) {level : Nat} (hlevel : s.mon.level < level) (act : State → State) :
    s.monCmd level act = s.monInput.say [0xD8] :=
  (if_neg (by simp [hup, hbundle])).trans (if_pos hlevel)

theorem State.monCmd_allowed (hbundle : s.boot.bundle = true) {level : Nat} (hlevel : level ≤ s.mon.level) (act : State → State) :
    s.monCmd level act = act s.monInput :=
  (if_neg (by simp [hup, hbundle])).trans (if_neg (Nat.not_lt.mpr hlevel))

theorem exec_monitorVer_up : exec .monitorVer s = .next (s.monInput.say [glbIdVal, Config.serial.toNat, s.fw.version]) :=
  congrArg Host.Outcome.next (if_pos hup)

theorem exec_monitorStage_up : exec .monitorStage s =
    .next (s.monInput.say ([s.glbStageVal, s.glbReadyVal] ++ s.boot.reports.map (fun e => e.2.toNat))) :=
  congrArg Host.Outcome.next (if_pos hup)

omit hup in
theorem exec_monitor_early (hbundle : s.boot.bundle = false) {e : Instr}
    (he : e ∈ [Instr.monitorChallenge, Instr.monitorLock, Instr.monitorFp]) : exec e s = .next s := by
  simp only [List.mem_cons, List.not_mem_nil, or_false] at he
  rcases he with rfl | rfl | rfl <;> exact congrArg Host.Outcome.next (State.monCmd_early hbundle _ _)

section
variable (hbundle : s.boot.bundle = true)
include hbundle

/-- The commands of level 2 below it. -/
theorem exec_monitor_locked_two {off kind : Nat} {val : Dword} {t : TileId} (hlevel : s.mon.level < 2) {e : Instr}
    (he : e ∈ [Instr.monitorPoke off val, Instr.monitorTap t kind]) : exec e s = .next (s.monInput.say [0xD8]) := by
  simp only [List.mem_cons, List.not_mem_nil, or_false] at he
  rcases he with rfl | rfl <;> exact congrArg Host.Outcome.next (State.monCmd_locked hup hbundle hlevel _)

/-- The commands of level 1 below it. -/
theorem exec_monitor_locked_one {n off : Nat} (hlevel : s.mon.level < 1) {e : Instr}
    (he : e ∈ [Instr.monitorLog n, Instr.monitorFp, Instr.monitorLedger n, Instr.monitorPeek off]) :
    exec e s = .next (s.monInput.say [0xD8]) := by
  simp only [List.mem_cons, List.not_mem_nil, or_false] at he
  rcases he with rfl | rfl | rfl | rfl <;> exact congrArg Host.Outcome.next (State.monCmd_locked hup hbundle hlevel _)

/-! The commands at their level. -/

theorem exec_monitorChallenge_up : exec .monitorChallenge s =
    .next (({ s.monInput.drew 1 with mon := { s.monInput.mon with nonce := some (s.freeVal 128) } } : State).say [(s.freeVal 128).toNat]) :=
  congrArg Host.Outcome.next (State.monCmd_allowed hup hbundle (Nat.zero_le _) _)

theorem exec_monitorLock_up : exec .monitorLock s = .next s.monInput.monLock :=
  congrArg Host.Outcome.next (State.monCmd_allowed hup hbundle (Nat.zero_le _) _)

section
variable (hlevel : 1 ≤ s.mon.level)
include hlevel

theorem exec_monitorLog_up {n : Nat} (hlow : 1 ≤ n) (hhigh : n ≤ 32768) :
    exec (.monitorLog n) s = .next (s.monInput.say ((s.log.ring.take n).reverse.map (·.toNat))) := by
  refine congrArg Host.Outcome.next ((State.monCmd_allowed hup hbundle hlevel _).trans ?_)
  exact if_pos (by simp [hlow, hhigh])

theorem exec_monitorFp_up : exec .monitorFp s =
    .next (s.monInput.say ((List.range 16).map (fun c => bf s.boot.fpRec (512 + 1024 * c) 1024) ++ [bf s.boot.fpRec 16896 2048])) :=
  congrArg Host.Outcome.next (State.monCmd_allowed hup hbundle hlevel _)

theorem exec_monitorLedger_unit {i : Nat} (hlow : 64 ≤ i) (hhigh : i < 18648) : exec (.monitorLedger i) s =
    .next (s.monInput.say [((s.ledger.current i).getD (sealEntry (blankEntry (unitOfNo i).1 (unitOfNo i).2).toNat 0)).toNat]) := by
  refine congrArg Host.Outcome.next ((State.monCmd_allowed hup hbundle hlevel _).trans ?_)
  exact if_pos (by simp [hlow, hhigh])

theorem exec_monitorPeek_up (off : Nat) : exec (.monitorPeek off) s = .next (s.monInput.say [s.monInput.slotVal .net off]) :=
  congrArg Host.Outcome.next (State.monCmd_allowed hup hbundle hlevel _)

end

section
variable (hlevel : s.mon.level = 2)
include hlevel

theorem exec_monitorPoke_register {off : Nat} {r : Reg} (hreg : regAt off = some r) (halign : off % 8 = 0) (val : Dword) :
    exec (.monitorPoke off val) s =
      .next ((s.monInput.logAccess .net off (s.monInput.ownerReg r.scope) 0 val.toNat).writeSlot .net off 8 val.toNat) := by
  have hoff : off / 8 * 8 = off := by omega
  refine congrArg Host.Outcome.next ((State.monCmd_allowed hup hbundle (Nat.le_of_eq hlevel.symm) _).trans ?_)
  simp only [hoff, hreg, halign, if_true]
  rfl

theorem exec_monitorTap_kind {kind : Nat} (hkind : kind < 6) (t : TileId) : exec (.monitorTap t kind) s =
    .next (stepTapSchedule kind (tileKey t)
      { s.monInput with mon := { s.monInput.mon with tapWait := some (kind, tileKey t) } }) :=
  congrArg Host.Outcome.next ((State.monCmd_allowed hup hbundle (Nat.le_of_eq hlevel.symm) _).trans (if_pos hkind))

theorem exec_monitorTap_noKind {kind : Nat} (hkind : 6 ≤ kind) (t : TileId) : exec (.monitorTap t kind) s = .next s.monInput :=
  congrArg Host.Outcome.next ((State.monCmd_allowed hup hbundle (Nat.le_of_eq hlevel.symm) _).trans (if_neg (Nat.not_lt.mpr hkind)))

end

/-! Unlocking (20 R468). -/

theorem exec_monitorUnlock_backoff (h : s.mon.backoff = true) (token : List Byte) : exec (.monitorUnlock token) s = .next s.monInput :=
  congrArg Host.Outcome.next ((State.monCmd_allowed hup hbundle (Nat.zero_le _) _).trans (if_pos h))

theorem exec_monitorUnlock_good {token : List Byte} (h : s.mon.backoff = false) (hgood : s.monInput.tokenOk token = true) :
    exec (.monitorUnlock token) s = .next { s.monInput with mon := { s.monInput.mon with
      level := field (leNat token) 224 2, expires := s.now + field (leNat token) 256 32 * 1000000000, consecutive := 0, nonce := none } } := by
  refine congrArg Host.Outcome.next ((State.monCmd_allowed hup hbundle (Nat.zero_le _) _).trans ((if_neg ?_).trans (if_pos hgood)))
  exact Bool.eq_false_iff.mp h

/-- A failure spends the nonce and is counted; the fifth in a row starts the refusal. -/
theorem exec_monitorUnlock_bad {token : List Byte} (h : s.mon.backoff = false) (hbad : s.monInput.tokenOk token = false) :
    exec (.monitorUnlock token) s = .next (({ s.monInput with mon := { s.monInput.mon with
      nonce := none, fails := satAdd 8 s.mon.fails 1
      consecutive := if decide (5 ≤ s.mon.consecutive + 1) then 0 else s.mon.consecutive + 1
      backoff := decide (5 ≤ s.mon.consecutive + 1)
      backoffAt := if decide (5 ≤ s.mon.consecutive + 1) then s.now else s.mon.backoffAt } } : State).say [0xD9]) := by
  refine congrArg Host.Outcome.next ((State.monCmd_allowed hup hbundle (Nat.zero_le _) _).trans ((if_neg ?_).trans (if_neg ?_)))
  · exact Bool.eq_false_iff.mp h
  · exact Bool.eq_false_iff.mp hbad

end

end

section
variable {s : State}

theorem exec_unlockBackoffEnd_due (h : s.mon.backoff = true) (hdue : s.mon.backoffAt + 60000000000 ≤ s.now) :
    exec .unlockBackoffEnd s = .next { s with mon := { s.mon with backoff := false } } :=
  congrArg Host.Outcome.next (if_pos (by simp [h, hdue]))

theorem exec_unlockBackoffEnd_early (h : s.mon.backoff = false ∨ s.now < s.mon.backoffAt + 60000000000) : exec .unlockBackoffEnd s = .next s := by
  refine congrArg Host.Outcome.next (if_neg ?_)
  rcases h with h | h <;> simp [h]

theorem exec_monitorRelock_due (hlevel : s.mon.level ≠ 0) (hdue : s.mon.expires ≤ s.now ∨ s.mon.lastInput + 600000000000 ≤ s.now) :
    exec .monitorRelock s = .next s.monLock :=
  congrArg Host.Outcome.next (if_pos (by simpa [hlevel] using hdue))

theorem exec_monitorRelock_early (h : s.mon.level = 0 ∨ (s.now < s.mon.expires ∧ s.now < s.mon.lastInput + 600000000000)) :
    exec .monitorRelock s = .next s := by
  refine congrArg Host.Outcome.next (if_neg ?_)
  rcases h with h | ⟨h, h'⟩
  · simp [h]
  · simp [h, h']

end

/-- Settles O45: each command by its own rule. -/
theorem monitorCommandsAndUnlocking : Obligations.MonitorCommandsAndUnlocking := by
  constructor
  · rintro s _ hup rfl
    refine ⟨exec_monitorVer_up hup, exec_monitorStage_up hup, fun e he hbundle => exec_monitor_early hbundle he,
      fun hbundle hlevel n off kind val t e he => ?_, fun hbundle hlevel off kind val t e he => ?_, fun hbundle => ?_, fun hbundle => ?_,
      fun hbundle hlevel => ?_, fun hbundle hlevel => ?_⟩
    · rcases List.mem_append.mp (show e ∈ [Instr.monitorLog n, Instr.monitorFp, Instr.monitorLedger n, Instr.monitorPeek off] ++
        [Instr.monitorPoke off val, Instr.monitorTap t kind] from he) with he | he
      · exact exec_monitor_locked_one hup hbundle (by omega) he
      · exact exec_monitor_locked_two hup hbundle (by omega) he
    · exact exec_monitor_locked_two hup hbundle (by omega) he
    · exact ⟨_, exec_monitorChallenge_up hup hbundle, rfl, rfl, rfl, rfl, rfl⟩
    · exact ⟨_, exec_monitorLock_up hup hbundle, rfl, rfl, rfl, rfl⟩
    · exact ⟨fun n => exec_monitorLog_up hup hbundle hlevel, exec_monitorFp_up hup hbundle hlevel,
        fun i => exec_monitorLedger_unit hup hbundle hlevel, exec_monitorPeek_up hup hbundle hlevel⟩
    · refine ⟨fun off val r hreg halign => exec_monitorPoke_register hup hbundle hlevel hreg halign val, ?_,
        fun t kind hkind => exec_monitorTap_noKind hup hbundle hlevel hkind t⟩
      rintro t kind hkind _ rfl
      exact exec_monitorTap_kind hup hbundle hlevel hkind t
  · rintro s _ hup hbundle rfl
    refine ⟨fun token => ⟨fun h => exec_monitorUnlock_backoff hup hbundle h token, exec_monitorUnlock_good hup hbundle, fun h hbad => ?_⟩,
      exec_unlockBackoffEnd_due, exec_unlockBackoffEnd_early, exec_monitorRelock_due, exec_monitorRelock_early⟩
    exact ⟨_, exec_monitorUnlock_bad hup hbundle h hbad, rfl, rfl, rfl, rfl, rfl, rfl⟩

end Sys2Proof.Machine
end

section
/-! SUPPORT. The wavelengths and ports of the ring: what reads back after a change, and what each change leaves (19 R428-R437). -/
namespace Sys2Proof.Machine

/-! One wavelength or one port changes. -/

section
variable (s : State)

/-- A state with another ring part. -/
def State.withRing (s : State) (r : Ring) : State := { s with ring := r }

theorem State.mem_of_withRing {s u : State} (h : ∀ r, u.withRing r = s.withRing r) : u.mem = s.mem :=
  (congrArg State.mem (h s.ring) :)

@[simp] theorem State.updWave_withRing (i : Nat) (f : Wave → Wave) (r : Ring) : (s.updWave i f).withRing r = s.withRing r := rfl

@[simp] theorem State.updRport_withRing (p : Nat) (f : RingPort → RingPort) (r : Ring) : (s.updRport p f).withRing r = s.withRing r := rfl

@[simp] theorem State.updWave_rport (i : Nat) (f : Wave → Wave) (p : Nat) : (s.updWave i f).rport p = s.rport p := rfl

@[simp] theorem State.updRport_wave (p : Nat) (f : RingPort → RingPort) (i : Nat) : (s.updRport p f).wave i = s.wave i := rfl

@[simp] theorem State.updWave_wave_same (i : Nat) (f : Wave → Wave) : (s.updWave i f).wave i = f (s.wave i) := tget_tset_same _ _ _ _

theorem State.updWave_wave_ne (f : Wave → Wave) {i j : Nat} (h : j ≠ i) : (s.updWave i f).wave j = s.wave j := tget_tset_ne _ _ _ h

@[simp] theorem State.updRport_rport_same (p : Nat) (f : RingPort → RingPort) : (s.updRport p f).rport p = f (s.rport p) := tget_tset_same _ _ _ _

theorem State.updRport_rport_ne (f : RingPort → RingPort) {p q : Nat} (h : q ≠ p) : (s.updRport p f).rport q = s.rport q := tget_tset_ne _ _ _ h

end

/-! Several wavelengths change. -/

/-- Each listed wavelength, by the number that g gives it, is changed. -/
def State.updWaves (s : State) (l : List Nat) (g : Nat → Nat) (f : Nat → Wave → Wave) : State := l.foldl (fun s w => s.updWave (g w) (f w)) s

section
variable {s : State} {l : List Nat} {g : Nat → Nat} {f : Nat → Wave → Wave}

@[simp] theorem State.updWaves_withRing (r : Ring) : (s.updWaves l g f).withRing r = s.withRing r := by
  induction l generalizing s with
  | nil => rfl
  | cons w l ih => exact (ih (s := s.updWave (g w) (f w)))

@[simp] theorem State.updWaves_rport (p : Nat) : (s.updWaves l g f).rport p = s.rport p := by
  induction l generalizing s with
  | nil => rfl
  | cons w l ih => exact (ih (s := s.updWave (g w) (f w)))

theorem State.updWaves_wave_out {i : Nat} (h : ∀ w ∈ l, i ≠ g w) : (s.updWaves l g f).wave i = s.wave i := by
  induction l generalizing s with
  | nil => rfl
  | cons w l ih =>
    obtain ⟨hw, hl⟩ := List.forall_mem_cons.mp h
    exact (ih (s := s.updWave (g w) (f w)) hl).trans (s.updWave_wave_ne _ hw)

/-- A wavelength listed once is changed once. -/
theorem State.updWaves_wave_mem {w : Nat} (hnodup : (l.map g).Nodup) (hw : w ∈ l) : (s.updWaves l g f).wave (g w) = f w (s.wave (g w)) := by
  induction l generalizing s with
  | nil => exact absurd hw (List.not_mem_nil)
  | cons v l ih =>
    obtain ⟨hv, hl⟩ := List.nodup_cons.mp hnodup
    rcases List.mem_cons.mp hw with rfl | hin
    · refine (State.updWaves_wave_out (s := s.updWave (g w) (f w)) fun x hx heq => hv ?_).trans (s.updWave_wave_same _ _)
      exact heq ▸ List.mem_map_of_mem hx
    · refine (ih (s := s.updWave (g v) (f v)) hl hin).trans (congrArg _ (s.updWave_wave_ne _ fun heq => hv ?_))
      exact heq ▸ List.mem_map_of_mem hin

/-- What no change of the list touches in a wavelength stays. -/
theorem State.updWaves_wave_stays {α : Type} {q : Wave → α} (h : ∀ w x, q (f w x) = q x) (i : Nat) :
    q ((s.updWaves l g f).wave i) = q (s.wave i) := by
  induction l generalizing s with
  | nil => rfl
  | cons w l ih =>
    refine (ih (s := s.updWave (g w) (f w))).trans ?_
    rcases eq_or_ne i (g w) with rfl | hi
    · rw [State.updWave_wave_same, h]
    · rw [State.updWave_wave_ne _ _ hi]

end

/-! The wavelengths of a port (19 R428). -/

theorem portOfEngine_engineOf {p : Nat} (hp : p < 4) : ∀ h < 2, portOfEngine (engineOf p h) = p := by
  interval_cases p <;> decide

/-- The 34 wavelengths of a port have 34 numbers. -/
theorem waveNo_nodup {p : Nat} (hp : p < 4) : ((List.range 34).map (waveNo p)).Nodup := by
  interval_cases p <;> decide

theorem waveNo_half {p h w : Nat} (hw : w < 17) : waveNo p (17 * h + w) = 17 * engineOf p h + w := by
  simp [waveNo, Nat.add_mod, Nat.mod_eq_of_lt hw, Nat.add_div_of_dvd_right, Nat.div_eq_of_lt hw]

end Sys2Proof.Machine
end

section
/-! SUPPORT. Ring ports, the bypass, the census and the ring registers, one rule per command, and the statement about them (19 R436-R440,
R448). -/
namespace Sys2Proof.Machine

section
variable {s : State}

/-! A port's link (19 R437). -/

theorem exec_portReady_pass {port : Fin 4} (hdown : (s.rport port.val).st = 0) (hstage : 7 ≤ s.boot.stage) : exec (.portReady port true) s =
    .next ((s.updRport port.val (fun q => { q with st := 1 })).openBypass (port.val / 2)) :=
  congrArg Host.Outcome.next (if_pos (by simp [hdown, hstage]))

theorem exec_portReady_fail {port : Fin 4} (hready : (s.rport port.val).st = 1) :
    exec (.portReady port false) s = .next (s.updRport port.val (fun q => { q with st := 0 })) :=
  congrArg Host.Outcome.next ((if_neg (by simp)).trans (if_pos (by simp [hready])))

theorem State.loseLink_linked {p : Nat} (h : (s.rport p).st = 2) : s.loseLink p =
    (s.updRport p (fun q => { q with st := 1 })).updWaves (List.range 34) (waveNo p) (fun _ x => { x with carry := false }) :=
  if_pos (by simp [h])

theorem State.loseLink_unlinked {p : Nat} (h : (s.rport p).st ≠ 2) : s.loseLink p = s := if_neg (by simp [h])

theorem State.loseLink_withRing (p : Nat) (r : Ring) : (s.loseLink p).withRing r = s.withRing r := by
  by_cases h : (s.rport p).st = 2
  · rw [State.loseLink_linked h, State.updWaves_withRing, State.updRport_withRing]
  · rw [State.loseLink_unlinked h]

theorem State.loseLink_st {p : Nat} (h : (s.rport p).st = 2) : ((s.loseLink p).rport p).st = 1 := by
  rw [State.loseLink_linked h, State.updWaves_rport, State.updRport_rport_same]

theorem State.loseLink_carry {p w : Nat} (hp : p < 4) (h : (s.rport p).st = 2) (hw : w < 34) :
    ((s.loseLink p).wave (waveNo p w)).carry = false := by
  rw [State.loseLink_linked h, State.updWaves_wave_mem (waveNo_nodup hp) (List.mem_range.mpr hw)]

/-! The bypass (19 R436). -/

theorem State.openBypass_open {r : Nat} (h : s.mayOpen r = true) : s.openBypass r =
    (s.updRport (2 * r) (fun q => { q with bypassOpen := true })).updRport (2 * r + 1) (fun q => { q with bypassOpen := true }) := if_pos h

theorem State.openBypass_port {r p : Nat} (h : s.mayOpen r = true) (hp : p / 2 = r) :
    (s.openBypass r).rport p = { s.rport p with bypassOpen := true } := by
  rw [State.openBypass_open h]
  obtain rfl | rfl : p = 2 * r ∨ p = 2 * r + 1 := by omega
  · rw [State.updRport_rport_ne _ _ (by omega), State.updRport_rport_same]
  · rw [State.updRport_rport_same, State.updRport_rport_ne _ _ (by omega)]

/-! A port is LINKED (19 R429, R437). -/

theorem exec_portLinked_unready {port : Fin 4} (h : (s.rport port.val).st ≠ 1 ∨ (s.rport port.val).bypassOpen = false) (carry : Nat) :
    exec (.portLinked port carry) s = .next s := by
  refine congrArg Host.Outcome.next (if_pos ?_)
  rcases h with h | h <;> simp [h]

/-- The wavelengths of half a port that the neighbours agreed. -/
def State.agreed (s : State) (p carry h : Nat) : List Nat :=
  (List.range 17).filter (fun w => carry.testBit (17 * h + w) && !(s.wave (waveNo p (17 * h + w))).muffled)

/-- A port takes up the agreed wavelengths. -/
def State.takeUp (s : State) (p carry : Nat) : State :=
  (s.updWaves (List.range 34) (waveNo p) (fun w x => { x with carry := (s.agreed p carry (w / 17)).contains (w % 17) })).updRport p
    (fun q => { q with st := 2, held := [] })

/-- Every frame kept on a port's wavelengths and not acknowledged goes out again. -/
def State.resendAll (s : State) (p : Nat) : State :=
  (List.range 34).foldl (fun s w => s.resend p (waveNo p w) (s.wave (waveNo p w)).acked) s

theorem exec_portLinked_ready {port : Fin 4} {carry : Nat} (hready : (s.rport port.val).st = 1) (hopen : (s.rport port.val).bypassOpen = true)
    (hheld : (s.rport port.val).held = []) (hmost : ∀ h < 2, (s.agreed port.val carry h).length ≤ 16)
    (hleast : 8 ≤ (s.agreed port.val carry 0).length ∨ 8 ≤ (s.agreed port.val carry 1).length) : exec (.portLinked port carry) s =
      .next ((((s.takeUp port.val carry).checkEngine (engineOf port.val 0)).checkEngine (engineOf port.val 1)).resendAll port.val) := by
  refine congrArg Host.Outcome.next ((if_neg ?_).trans ?_)
  · have h0 := hmost 0 (by omega)
    have h1 := hmost 1 (by omega)
    simp only [State.agreed] at h0 h1 hleast
    simp only [hready, hopen, Bool.or_eq_true, Bool.and_eq_true, decide_eq_true_eq, bne_self_eq_false, Bool.false_eq_true, Bool.not_true,
      false_or]
    omega
  · simp only [hheld, List.foldl_nil, State.resendAll, State.takeUp, State.updWaves, State.agreed]

/-- With nothing kept, a resend changes neither what a wavelength carries nor a port's state. -/
theorem State.resend_idle {p i last : Nat} (h : (s.wave i).replay = []) : s.resend p i last =
    (s.updWave i (fun x => { x with replay := [] })).updRport p (fun q => { q with retries := wrapAdd 32 q.retries 0 }) := by
  simp [State.resend, h, State.updWave]

theorem State.resends_idle {p : Nat} (h : ∀ n, (s.wave n).replay = []) (l : List Nat) {u : State}
    (hu : l.foldl (fun s w => s.resend p (waveNo p w) (s.wave (waveNo p w)).acked) s = u) :
    (∀ n, (u.wave n).carry = (s.wave n).carry) ∧ (∀ q, (u.rport q).st = (s.rport q).st) ∧ ∀ r, u.withRing r = s.withRing r := by
  induction l generalizing s with
  | nil => subst hu; exact ⟨fun _ => rfl, fun _ => rfl, fun _ => rfl⟩
  | cons w l ih =>
    rw [List.foldl_cons, State.resend_idle (h _)] at hu
    have hwave : ∀ n, ((s.updWave (waveNo p w) (fun x => { x with replay := [] })).wave n).replay = [] ∧
        ((s.updWave (waveNo p w) (fun x => { x with replay := [] })).wave n).carry = (s.wave n).carry := by
      intro n
      rcases eq_or_ne n (waveNo p w) with rfl | hn
      · rw [State.updWave_wave_same]; exact ⟨rfl, rfl⟩
      · rw [State.updWave_wave_ne _ _ hn]; exact ⟨h n, rfl⟩
    have hport : ∀ q, ((s.updRport p (fun q => { q with retries := wrapAdd 32 q.retries 0 })).rport q).st = (s.rport q).st := by
      intro q
      rcases eq_or_ne q p with rfl | hq
      · rw [State.updRport_rport_same]
      · rw [State.updRport_rport_ne _ _ hq]
    obtain ⟨hcarry, hst, hrest⟩ := ih (s := (s.updWave (waveNo p w) (fun x => { x with replay := [] })).updRport p
      (fun q => { q with retries := wrapAdd 32 q.retries 0 })) (fun n => (hwave n).1) hu
    exact ⟨fun n => (hcarry n).trans (hwave n).2, fun q => (hst q).trans (hport q), hrest⟩

/-- An engine left with fewer than 8 carrying wavelengths carries on none. -/
def State.dropFew (s : State) (e : Nat) : State :=
  if (s.carrying e).length < 8 then s.updWaves (List.range 17) (fun w => 17 * e + w) (fun _ x => { x with carry := false }) else s

theorem State.dropFew_withRing (e : Nat) (r : Ring) : (s.dropFew e).withRing r = s.withRing r := by
  unfold State.dropFew
  split
  · exact State.updWaves_withRing r
  · rfl

theorem State.dropFew_rport (e p : Nat) : (s.dropFew e).rport p = s.rport p := by
  unfold State.dropFew
  split
  · exact State.updWaves_rport p
  · rfl

theorem State.dropFew_replay (e n : Nat) : ((s.dropFew e).wave n).replay = (s.wave n).replay := by
  unfold State.dropFew
  split
  · exact State.updWaves_wave_stays (q := Wave.replay) (f := fun _ x => { x with carry := false }) (fun _ _ => by rfl) n
  · rfl

theorem State.dropFew_many {e : Nat} (h : 8 ≤ (s.carrying e).length) : s.dropFew e = s := if_neg (Nat.not_lt.mpr h)

/-- The wavelengths of another engine stay. -/
theorem State.dropFew_other {e e' w : Nat} (he : e' ≠ e) (hw : w < 17) : (s.dropFew e).wave (17 * e' + w) = s.wave (17 * e' + w) := by
  unfold State.dropFew
  split
  · refine State.updWaves_wave_out fun v hv => ?_
    have := List.mem_range.mp hv
    omega
  · rfl

/-- A LINKED port stays so while the first of its engines carries. -/
theorem State.checkEngine_linked {e : Nat} (hst : (s.rport (portOfEngine e)).st = 2)
    (halive : (s.dropFew e).carrying (engineOf (portOfEngine e) 0) ≠ []) : s.checkEngine e = s.dropFew e := by
  have hst' : ((s.dropFew e).rport (portOfEngine e)).st = 2 := by rw [State.dropFew_rport, hst]
  have hoff : (s.dropFew e).engineOff true (engineOf (portOfEngine e) 0) = false := by simpa [State.engineOff] using halive
  refine (if_neg ?_ : (if (s.dropFew e).engineOff (((s.dropFew e).rport (portOfEngine e)).st == 2) _ && _ then _ else s.dropFew e) = s.dropFew e)
  simp [hst', hoff]

theorem State.takeUp_replay {p carry : Nat} (n : Nat) : ((s.takeUp p carry).wave n).replay = (s.wave n).replay := by
  rw [State.takeUp, State.updRport_wave]
  exact State.updWaves_wave_stays (q := Wave.replay) (fun _ _ => by rfl) n

section
variable {p carry : Nat} (hp : p < 4)
include hp

theorem State.takeUp_carry {h w : Nat} (hh : h < 2) (hw : w < 17) :
    ((s.takeUp p carry).wave (17 * engineOf p h + w)).carry = (s.agreed p carry h).contains w := by
  have hdiv : (17 * h + w) / 17 = h := by omega
  have hmod : (17 * h + w) % 17 = w := by omega
  rw [← waveNo_half hw, State.takeUp, State.updRport_wave,
    State.updWaves_wave_mem (waveNo_nodup hp) (List.mem_range.mpr (by omega)), hdiv, hmod]

theorem State.takeUp_carrying {h : Nat} (hh : h < 2) : (s.takeUp p carry).carrying (engineOf p h) = s.agreed p carry h := by
  refine List.filter_congr fun w hw => ?_
  rw [State.takeUp_carry hp hh (List.mem_range.mp hw), State.agreed, Bool.eq_iff_iff, List.contains_iff_mem, List.mem_filter]
  exact ⟨fun h => h.2, fun h => ⟨hw, h⟩⟩

/-- With enough wavelengths agreed on its first engine and nothing kept, a port ends LINKED and carries them. -/
theorem State.takeUp_linked (hfew : 8 ≤ (s.agreed p carry 0).length) (hidle : ∀ n, (s.wave n).replay = []) {u : State}
    (hu : (((s.takeUp p carry).checkEngine (engineOf p 0)).checkEngine (engineOf p 1)).resendAll p = u) :
    (u.rport p).st = 2 ∧ (∀ w < 17, (u.wave (waveNo p w)).carry = (s.agreed p carry 0).contains w) ∧ ∀ r, u.withRing r = s.withRing r := by
  have hst : ((s.takeUp p carry).rport p).st = 2 := by rw [State.takeUp, State.updRport_rport_same]
  have hne : s.agreed p carry 0 ≠ [] := by
    intro h
    simp [h] at hfew
  have hother : engineOf p 0 ≠ engineOf p 1 := by interval_cases p <;> decide
  have hcarrying := State.takeUp_carrying (s := s) (carry := carry) hp (h := 0) (by omega)
  have hfirst : (s.takeUp p carry).checkEngine (engineOf p 0) = s.takeUp p carry := by
    have hmany : (s.takeUp p carry).dropFew (engineOf p 0) = s.takeUp p carry := State.dropFew_many (by rw [hcarrying]; exact hfew)
    rw [State.checkEngine_linked, hmany] <;> rw [portOfEngine_engineOf hp 0 (by omega)]
    · exact hst
    · rw [hmany, hcarrying]; exact hne
  have hkept : ((s.takeUp p carry).dropFew (engineOf p 1)).carrying (engineOf p 0) = s.agreed p carry 0 := by
    rw [← hcarrying]
    exact List.filter_congr fun w hw => by rw [State.dropFew_other hother (List.mem_range.mp hw)]
  have hsecond : (s.takeUp p carry).checkEngine (engineOf p 1) = (s.takeUp p carry).dropFew (engineOf p 1) := by
    rw [State.checkEngine_linked] <;> rw [portOfEngine_engineOf hp 1 (by omega)]
    · exact hst
    · rw [hkept]; exact hne
  rw [hfirst, hsecond] at hu
  have hquiet : ∀ n, (((s.takeUp p carry).dropFew (engineOf p 1)).wave n).replay = [] := by
    intro n
    rw [State.dropFew_replay]
    exact (State.takeUp_replay n).trans (hidle n)
  obtain ⟨hcarry, hports, hrest⟩ := State.resends_idle hquiet (List.range 34) hu
  refine ⟨by rw [hports, State.dropFew_rport, hst], fun w hw => ?_, fun r => ?_⟩
  · have hno : waveNo p w = 17 * engineOf p 0 + w := by simpa using waveNo_half (p := p) (h := 0) hw
    rw [hcarry, hno, State.dropFew_other hother hw, State.takeUp_carry hp (by omega) hw]
  · rw [hrest, State.dropFew_withRing, State.takeUp, State.updRport_withRing, State.updWaves_withRing]

end

/-- With no wavelength muffled, those agreed are the ones offered. -/
theorem State.agreed_whole {p : Nat} (h : ∀ n, (s.wave n).muffled = false) (carry half : Nat) :
    s.agreed p carry half = (List.range 17).filter (fun w => carry.testBit (17 * half + w)) := by
  simp [State.agreed, h]

/-! The census (19 R439). -/

/-- Does a census name every other module, each VALID, of the same size and at its place? -/
def State.censusGood (s : State) (returned : Bool) (mods : List (Nat × Nat × Bool)) : Bool :=
  returned && s.ring.valid && mods.length + 1 == s.ring.size1 + 1 &&
    mods.zipIdx.all (fun e => e.1.2.2 && e.1.2.1 == s.ring.size1 && e.1.1 == (s.ring.index + 1 + e.2) % (s.ring.size1 + 1))

/-- What a census found is kept. -/
def State.counted (s : State) (ring : Fin 2) (returned : Bool) (mods : List (Nat × Nat × Bool)) : State := { s with ring := { s.ring with
  census := tset s.ring.census ring.val (if returned then (mods.length + 1) % 128 else 0, s.censusGood returned mods)
  present := if returned then tset s.ring.present ring.val (s.ring.index :: mods.map (fun e => e.1)) else s.ring.present } }

theorem exec_census_idle (h : s.ring.jobs = []) (ring : Fin 2) (returned : Bool) (mods : List (Nat × Nat × Bool)) :
    exec (.census ring returned mods) s = .next (s.counted ring returned mods) := by
  refine congrArg Host.Outcome.next ?_
  simp only [stepCensus, h, List.filter_nil, List.foldl_nil, State.counted, State.censusGood]

theorem State.counted_ringOk (ring : Fin 2) (returned : Bool) (mods : List (Nat × Nat × Bool)) :
    (s.counted ring returned mods).ringOk ring.val = s.censusGood returned mods := congrArg Prod.snd (tget_tset_same _ _ _ _)

theorem State.censusGood_needs {returned : Bool} {mods : List (Nat × Nat × Bool)} (h : s.censusGood returned mods = true) :
    returned = true ∧ s.ring.valid = true ∧ mods.length = s.ring.size1 := by
  simp only [State.censusGood, Bool.and_eq_true, beq_iff_eq] at h
  obtain ⟨⟨⟨hback, hvalid⟩, hlen⟩, -⟩ := h
  exact ⟨hback, hvalid, by omega⟩

theorem State.censusGood_of {returned : Bool} {mods : List (Nat × Nat × Bool)} (hlen : mods.length + 1 = s.ring.size1 + 1)
    (hvalid : s.ring.valid = true) (hback : returned = true)
    (hmods : ∀ n, (h : n < mods.length) → mods[n] = ((s.ring.index + 1 + n) % (s.ring.size1 + 1), s.ring.size1, true)) :
    s.censusGood returned mods = true := by
  have hall : ∀ e ∈ mods.zipIdx, (e.1.2.2 && e.1.2.1 == s.ring.size1 && e.1.1 == (s.ring.index + 1 + e.2) % (s.ring.size1 + 1)) = true := by
    rintro ⟨x, n⟩ he
    obtain ⟨hn, hx⟩ := List.mem_zipIdx' he
    simp [hx, hmods n hn]
  simp only [State.censusGood, hback, hvalid, hlen, List.all_eq_true.mpr hall, beq_self_eq_true, Bool.and_self]

/-! The registers of the ring (19 R438, R440, R448). -/

section
variable {fn : Fn} (hopen : s.boot.bundle = true ∨ fn = .net)
include hopen

theorem State.gateG_open_owner (howns : s.ownsG fn = true) (off v : Nat) (act : State → State) : s.gateG fn off v act = act s := by
  rcases hopen with h | rfl <;> simp_all [State.gateG]

theorem State.gateG_open_other (howns : s.ownsG fn = false) (off v : Nat) (act : State → State) :
    s.gateG fn off v act = s.refuseG fn off 2 v := by
  rcases hopen with h | rfl <;> simp_all [State.gateG]

section
variable (howns : s.ownsG fn = true)
include howns

theorem exec_ringIdWrite_owner (val : Dword) : exec (.ringIdWrite fn val) s = .next (if s.ring.jobs.isEmpty then { s.unlatch fn with
    ring := { s.ring with index := bf val 0 6, size1 := bf val 6 6, valid := val.toNat.testBit 12 } }
    else (s.unlatch fn).refuseG fn 0x70 3 val.toNat) := by
  have hopen' : (s.unlatch fn).boot.bundle = true ∨ fn = .net := by simpa using hopen
  refine congrArg Host.Outcome.next ((State.gateG_open_owner hopen' (by simpa using howns) _ _ _).trans ?_)
  rw [State.unlatch_ring]
  cases s.ring.jobs <;> rfl

/-- No operation needs the old key: the new one is set, or refused for its value. -/
theorem exec_ringKeyWrite_owner {p : Fin 16} (hjobs : s.ring.jobs = []) (hfree : (s.unlatch fn).arbitrate 8 (.part p.val) = .proceed)
    (val : Dword) : exec (.ringKeyWrite fn p val) s =
      .next (if bf val 0 16 == 0 || s.ring.keys.any (fun e => e.1 != p.val && e.2 == (bf val 0 16, true)) then
        (s.unlatch fn).refuseG fn (0x200 + 8 * p.val) 6 val.toNat
        else { s.unlatch fn with ring := { s.ring with keys := tset s.ring.keys p.val (bf val 0 16, val.toNat.testBit 16) } }) := by
  have hopen' : (s.unlatch fn).boot.bundle = true ∨ fn = .net := by simpa using hopen
  refine congrArg Host.Outcome.next ?_
  simp only [stepRingKeyWrite, State.gateG_open_owner hopen' ((State.unlatch_ownsG ..).trans howns), State.unlatch_ring]
  exact if_neg (by simp [hjobs, hfree])

end

theorem exec_ringIdWrite_other (howns : s.ownsG fn = false) (val : Dword) :
    exec (.ringIdWrite fn val) s = .next ((s.unlatch fn).refuseG fn 0x70 2 val.toNat) :=
  congrArg Host.Outcome.next (State.gateG_open_other (by simpa using hopen) (by simpa using howns) _ _ _)

theorem exec_ringKeyWrite_other (howns : s.ownsG fn = false) (p : Fin 16) (val : Dword) :
    exec (.ringKeyWrite fn p val) s = .next ((s.unlatch fn).refuseG fn (0x200 + 8 * p.val) 2 val.toNat) := by
  have hopen' : (s.unlatch fn).boot.bundle = true ∨ fn = .net := by simpa using hopen
  refine congrArg Host.Outcome.next ?_
  simp only [stepRingKeyWrite, State.gateG_open_other hopen' ((State.unlatch_ownsG ..).trans howns)]

end

end

/-- Settles O36: ports, bypass and census by their rules, and the registers by their gates. -/
theorem ringPortsAndRegisters : Obligations.RingPortsAndRegisters := by
  constructor
  · intro s
    refine ⟨fun port => exec_portReady_pass, fun port h => ?_, fun r h => ?_, fun r h => ?_, fun port h => ?_,
      fun port h => congrArg _ (State.loseLink_unlinked h), fun port carry h => exec_portLinked_unready h carry, fun port hready hopen hheld hquiet => ?_,
      fun r returned mods h => ?_⟩
    · exact ⟨_, exec_portReady_fail h, by rw [State.updRport_rport_same], rfl, rfl, rfl⟩
    · refine ⟨fun p hp => ?_, congrArg Host.Outcome.next (if_pos h)⟩
      rw [State.openBypass_port h hp]
      exact ⟨rfl, rfl⟩
    · have hclosed : ¬ s.mayOpen r.val = true := by simp [h]
      exact ⟨if_neg hclosed, congrArg Host.Outcome.next (if_neg hclosed)⟩
    · exact ⟨rfl, State.loseLink_st h, fun w hw => State.loseLink_carry port.isLt h hw,
        State.mem_of_withRing (State.loseLink_withRing port.val)⟩
    · have hzero : s.agreed port.val 0xFF 0 = List.range 8 := (State.agreed_whole (fun n => (hquiet n).1) _ _).trans (by decide)
      have hone : s.agreed port.val 0xFF 1 = [] := (State.agreed_whole (fun n => (hquiet n).1) _ _).trans (by decide)
      have hmost : ∀ h < 2, (s.agreed port.val 0xFF h).length ≤ 16 := by
        intro h hh
        interval_cases h
        · simp [hzero]
        · simp [hone]
      obtain ⟨hst, hcarry, hrest⟩ := State.takeUp_linked port.isLt (carry := 0xFF) (by simp [hzero]) (fun n => (hquiet n).2) rfl
      refine ⟨_, exec_portLinked_ready hready hopen hheld hmost (.inl (by simp [hzero])), hst, fun w hw => ?_, ?_,
        State.mem_of_withRing hrest⟩
      · exact (hcarry w (by omega)).trans (by rw [hzero]; simpa using hw)
      · exact (hcarry 8 (by omega)).trans (by rw [hzero]; decide)
    · refine ⟨_, exec_census_idle h r returned mods, ?_, ?_, rfl, rfl, rfl⟩ <;> rw [State.counted_ringOk]
      · exact State.censusGood_needs
      · exact State.censusGood_of
  · intro s fn val hopen
    refine ⟨fun howns hjobs => ?_, fun howns hjobs => ?_, fun howns => exec_ringIdWrite_other hopen howns val,
      fun p howns hjobs hfree => ?_, fun p howns => exec_ringKeyWrite_other hopen howns p val⟩
    · rw [exec_ringIdWrite_owner hopen howns, if_pos (by simp [hjobs])]
    · rw [exec_ringIdWrite_owner hopen howns, if_neg (by simp [hjobs])]
    · rw [exec_ringKeyWrite_owner hopen howns hjobs hfree]
      refine ⟨fun hkey hother => congrArg _ (if_neg ?_), fun h => congrArg _ (if_pos ?_)⟩
      · simp only [Bool.or_eq_true, beq_iff_eq, hkey, List.any_eq_true, Bool.and_eq_true, bne_iff_ne, false_or, not_exists, not_and]
        exact fun e he hp => hother e he hp
      · simpa using h

end Sys2Proof.Machine
end

section
/-! SUPPORT. Ring packets and RING_OP, one rule per case, and the statement about them (19 R440-R447). -/
namespace Sys2Proof.Machine

section
variable {s : State}

/-! Ring packets (19 R440, R441, R444). -/

section
variable {port : Fin 4} {packet : Nat} {agree : Bool} (hlinked : (s.rport port.val).st = 2) (hdata : field (field packet 0 256) 0 4 = 0)
include hlinked hdata

theorem exec_ringPacket_forward (hother : field (field packet 0 256) 12 6 ≠ s.ring.index) : exec (.ringPacket port packet agree) s =
    .next (s.sendRing (port.val ^^^ 1) packet (32 + field (field packet 0 256) 96 14)) := by
  refine congrArg Host.Outcome.next ((if_neg ?_).trans (if_pos ?_))
  · simp [hlinked, hdata]
  · simpa using hother

section
variable (hhere : field (field packet 0 256) 12 6 = s.ring.index)
include hhere

theorem exec_ringPacket_strange (hkey : s.ringKeyOwner (field (field packet 0 256) 20 16) = none) : exec (.ringPacket port packet agree) s =
    .next (s.raise { FaultRec.of St.keyViolation 4 with
      detail := keyDetail 4 port.val (BitVec.ofNat 12 (field (field packet 0 256) 20 16)) none 3 0 0 }) := by
  refine congrArg Host.Outcome.next ?_
  simp [stepRingPacket, hlinked, hdata, hhere, hkey]

theorem exec_ringPacket_job {p : Nat} {j : RingJob} (hkey : s.ringKeyOwner (field (field packet 0 256) 20 16) = some p)
    (hjob : s.jobOf p (field (field packet 0 256) 36 16) = some j) : exec (.ringPacket port packet agree) s =
      .next (if !agree || field (field packet 0 256) 52 4 != ringOpc j.cmd.bits then s.endJob j 0xF3
        else s.jobPacket j (field packet 0 256) (leBytes (min (field (field packet 0 256) 96 14) 8192) (field packet 256 65536))) := by
  refine congrArg Host.Outcome.next ?_
  simp [stepRingPacket, hlinked, hdata, hhere, hkey, hjob]

end

end

/-! RING_OP (19 R443). -/

section
variable {p : Fin 16} {k : Fin 64}

theorem exec_ringOp_none (h : s.fetchedCmd p.val k.val 2 0x20 = none) : exec (.ringOp p k) s = .next s := by
  refine congrArg Host.Outcome.next ?_
  simp only [stepRingOp, h]

section
variable {r : CmdRef} (hcmd : s.fetchedCmd p.val k.val 2 0x20 = some r)
include hcmd

theorem exec_ringOp_full (h : 4 ≤ (s.ring.jobs.filter (fun j => j.cluster == bf r.bits 64 4)).length) : exec (.ringOp p k) s = .next s := by
  refine congrArg Host.Outcome.next ?_
  simp [stepRingOp, hcmd, h]

section
variable (hroom : (s.ring.jobs.filter (fun j => j.cluster == bf r.bits 64 4)).length < 4) (hfree : s.isolated (bf r.bits 64 4) 2 0 k.val = false)
  (hready : ((s.startCmd r).clY (bf r.bits 64 4)).ready = true)
include hroom hfree hready

theorem exec_ringOp_config (h : (s.startCmd r).ringConsistent p.val r.bits = false) : exec (.ringOp p k) s =
    .next (((s.startCmd r).updClY (bf r.bits 64 4) (fun y => { y with ringLast := 0xF1 })).complete r 0xF1 0) := by
  refine congrArg Host.Outcome.next ?_
  simp only [stepRingOp, hcmd, hfree, hready, h, decide_eq_false (Nat.not_le.mpr hroom), Bool.or_self, Bool.not_true, Bool.not_false,
    Bool.false_eq_true, if_false, if_true]

section
variable (hcons : (s.startCmd r).ringConsistent p.val r.bits = true)
include hcons

theorem exec_ringOp_down (h : (ringsOf r.bits).all (fun g => !(s.startCmd r).ringOk g) = true) : exec (.ringOp p k) s =
    .next (((s.startCmd r).updClY (bf r.bits 64 4) (fun y => { y with ringLast := 0xF2 })).complete r 0xF2 0) := by
  refine congrArg Host.Outcome.next ?_
  simp only [stepRingOp, hcmd, hfree, hready, hcons, h, decide_eq_false (Nat.not_le.mpr hroom), Bool.or_self, Bool.not_true, Bool.false_eq_true,
    if_false, if_true]

theorem exec_ringOp_begins (h : (ringsOf r.bits).all (fun g => !(s.startCmd r).ringOk g) = false) {a b v : State} {src dst : List (Nat × Nat)}
    (hsrc : (s.startCmd r).ringPages ((s.startCmd r).identOf r) false ((ringSizes r.bits).1 / 65536 + 2) (bf r.bits 128 48)
      (ringSizes r.bits).1 = (a, .ok src))
    (hdst : a.ringPages ((s.startCmd r).identOf r) true ((ringSizes r.bits).2 / 65536 + 2) (bf r.bits 192 48) (ringSizes r.bits).2 = (b, .ok dst))
    (hway : b.reachAll (bf r.bits 64 4) ((s.startCmd r).identOf r) 3 0 ((src ++ dst).map (·.1)) = (v, 0)) : exec (.ringOp p k) s =
      .next (v.beginJob
        { cmd := r, owner := (s.startCmd r).identOf r, cluster := bf r.bits 64 4, src, dst
          credits := [], unacked := [], data := [], sent := [], seqOut := [], seqIn := [], preemptAt := none }) := by
  refine congrArg Host.Outcome.next ?_
  simp only [stepRingOp, hcmd, hfree, hready, hcons, h, decide_eq_false (Nat.not_le.mpr hroom), Bool.or_self, Bool.not_true, Bool.false_eq_true,
    if_false, hsrc, hdst, hway]

end

end

end

/-! What has everything completes, and what runs on too long is abandoned (19 R446, R447). -/

section
variable {q : State}
  (hq : (s.ring.jobs.filter (fun j => j.cmd.part == p.val && j.cmd.ctx == k.val)).foldl (fun s j => s.pushJob j) s = q)
include hq

theorem exec_ringDone_eq : exec (.ringDone p k) s = .next (q.finishJob p.val k.val) := by
  subst hq
  rfl

theorem exec_ringDone_none (h : q.ring.jobs.find? (fun j => j.cmd.part == p.val && j.cmd.ctx == k.val && q.jobDone j && !q.jobHeld j) = none) :
    exec (.ringDone p k) s = .next q := by
  rw [exec_ringDone_eq hq, State.finishJob, h]

theorem exec_ringDone_job {j : RingJob}
    (h : q.ring.jobs.find? (fun j => j.cmd.part == p.val && j.cmd.ctx == k.val && q.jobDone j && !q.jobHeld j) = some j) :
    exec (.ringDone p k) s = .next (if q.lostRead (q.ownRanges j) then q.loseJob j (q.ownRanges j)
      else (((q.drew (q.jobResult j).2).writePages j.dst (q.jobResult j).1).takeJob j 0xF0).complete j.cmd 0xF0 0) := by
  rw [exec_ringDone_eq hq, State.finishJob, h]
  rfl

end

/-- The only job in progress is of this context: it is abandoned where it is overdue. -/
theorem exec_ringOpPreemptLimit_job {j : RingJob} (hjobs : s.ring.jobs = [j]) (hpart : j.cmd.part = p.val) (hctx : j.cmd.ctx = k.val) :
    exec (.ringOpPreemptLimit p k) s = .next (if s.overdue j then (s.dropJob j St.preempted).leaveCmd (some j.cmd) else s) := by
  refine congrArg Host.Outcome.next ?_
  cases h : s.overdue j <;> simp [stepRingOpPreemptLimit, hjobs, hpart, hctx, h]

theorem State.overdue_never {j : RingJob} (h : j.preemptAt = none) : s.overdue j = false := by rw [State.overdue, h]

theorem State.overdue_at {j : RingJob} {t : Nat} (h : j.preemptAt = some t) : s.overdue j = decide (t + 50000000 ≤ s.now) := by
  rw [State.overdue, h]

end

end

/-- Settles O37: packets, operations and their ends, each by the rule of its case. -/
theorem ringOperations : Obligations.RingOperations := by
  intro s
  refine ⟨fun port packet agree hlinked => ⟨fun hother hdata => exec_ringPacket_forward hlinked hdata hother, fun hhere hdata => ⟨?_, ?_⟩⟩,
    fun p k => exec_ringOp_none, fun p k r hcmd => ⟨exec_ringOp_full hcmd, fun hroom hfree hready => ⟨exec_ringOp_config hcmd hroom hfree hready,
      fun hcons => ⟨exec_ringOp_down hcmd hroom hfree hready hcons, ?_⟩⟩⟩,
    fun p k q hq => ⟨exec_ringDone_none hq, fun j h => ?_⟩, fun p k j hjobs hpart hctx => ?_⟩
  · rintro hkey _ rfl
    exact exec_ringPacket_strange hlinked hdata hhere hkey
  · intro p j hkey hjob
    rw [exec_ringPacket_job hlinked hdata hhere hkey hjob]
    exact ⟨fun h => congrArg _ (if_pos (by simp [h])), fun h hop => congrArg _ (if_neg (by simp [h, hop]))⟩
  · rintro hring a b v src dst hsrc hdst hway _ rfl
    exact exec_ringOp_begins hcmd hroom hfree hready hcons hring hsrc hdst hway
  · rw [exec_ringDone_job hq h]
    exact ⟨fun hlost => congrArg _ (if_pos hlost), fun hwhole => congrArg _ (if_neg (Bool.eq_false_iff.mp hwhole))⟩
  · rw [exec_ringOpPreemptLimit_job hjobs hpart hctx]
    refine ⟨fun h => ?_, fun t h => ⟨fun hearly => ?_, fun hlate => ?_⟩⟩
    · rw [State.overdue_never h]; rfl
    · rw [State.overdue_at h, decide_eq_false (by omega)]; rfl
    · rw [State.overdue_at h, decide_eq_true hlate]; rfl

end Sys2Proof.Machine
end

section
/-! SUPPORT. Staging, validation and SECURE, one rule per case, and the statement about them (17 R394, R395, R402, R406, R408). -/
namespace Sys2Proof.Machine

theorem tfind_tset_same {α : Type} (t : Tbl α) (k : Nat) (v : α) : tfind (tset t k v) k = some v := by
  induction t with
  | nil => simp [tset, tfind]
  | cons e t ih =>
    obtain ⟨k', w⟩ := e
    simp only [tfind, tset] at ih ⊢
    rcases Nat.lt_trichotomy k k' with h | rfl | h
    · simp [h]
    · simp
    · simpa [Nat.lt_asymm h, Nat.ne_of_gt h, Nat.ne_of_lt h] using ih

section
variable (s : State)

@[simp] theorem State.updStager_stager_same (n : Nat) (f : Stager → Stager) : (s.updStager n f).stager n = f (s.stager n) := tget_tset_same _ _ _ _

theorem State.updStager_stager_ne (f : Stager → Stager) {m n : Nat} (h : m ≠ n) : (s.updStager n f).stager m = s.stager m := tget_tset_ne _ _ _ h

@[simp] theorem State.updBank_bank_same (t : Nat) (f : BankStatus → BankStatus) : (s.updBank t f).bank t = f (s.bank t) := tget_tset_same _ _ _ _

end

section
variable {s : State} {port : Fin 4}

/-! The staging windows (17 R402, 18 R412). -/

theorem exec_stagingWindowWrite_config {off : Nat} {data : List Byte} (hin : off + data.length ≤ 0x400000) (hbundle : s.boot.bundle = true)
    (hgo : (s.stager port.val).go = false) : exec (.stagingWindowWrite (.pf port) false off data) s =
      .next ((s.unlatch (.pf port)).updStager port.val (fun x => { x with buf := mwriteBytes x.buf off data })) := by
  refine congrArg Host.Outcome.next ((if_neg (Nat.not_lt.mpr hin)).trans ((if_neg (by simp)).trans ((if_neg ?_).trans (if_neg ?_))))
  · simpa using hbundle
  · exact Bool.eq_false_iff.mp hgo

/-- Bytes go into a port's firmware buffer. -/
def State.loadBytes (s : State) (p off : Nat) (data : List Byte) : State := { s with fw := { s.fw with
  loads := tset s.fw.loads p { tget s.fw.loads p FwStager.reset with buf := mwriteBytes (tget s.fw.loads p FwStager.reset).buf off data } } }

theorem exec_stagingWindowWrite_firmware {off : Nat} {data : List Byte} (hin : off + data.length ≤ 0x1000000)
    (hgo : (tget s.fw.loads port.val FwStager.reset).go = false) : exec (.stagingWindowWrite (.pf port) true off data) s =
      .next ((s.unlatch (.pf port)).loadBytes port.val off data) := by
  refine congrArg Host.Outcome.next ((if_neg (Nat.not_lt.mpr hin)).trans ((if_pos rfl).trans (if_neg ?_)))
  exact Bool.eq_false_iff.mp hgo

/-! CFG_STAGE (17 R402, R406, R408). -/

/-- The fields of CFG_STAGE as written. -/
def State.stageFields (s : State) (port : Nat) (val : Dword) : State :=
  s.updStager port (fun x => { x with target := bf val 1 1, cluster := bf val 2 4, len := bf val 32 23 })

section
variable {val : Dword} (hbundle : s.boot.bundle = true) (hlen : bf val 32 23 ≤ 4194304)
include hbundle hlen

theorem exec_cfgStage_busy (hgo : (s.stager port.val).go = true) :
    exec (.cfgStage (.pf port) val) s = .next ((s.unlatch (.pf port)).stageFields port.val val) := by
  refine congrArg Host.Outcome.next ((if_neg ?_).trans ((if_neg (Nat.not_lt.mpr hlen)).trans (if_pos ?_)))
  · simpa using hbundle
  · exact Bool.or_eq_true_iff.mpr (.inr hgo)

theorem exec_cfgStage_go {t : Nat} (hgo : (s.stager port.val).go = false) (hbit : val.toNat.testBit 0 = true)
    (ht : (if val.toNat.testBit 1 then bf val 2 4 else 16) = t) (howns : (if t = 16 then s.ownsG (.pf port) else s.ownsC (.pf port) t) = true)
    {u : State} (hu : ((s.unlatch (.pf port)).stageFields port.val val).stageGo port.val t (bf val 32 23) = (u, 0)) :
    exec (.cfgStage (.pf port) val) s = .next u := by
  subst ht
  have howns' : (if (if val.toNat.testBit 1 then bf val 2 4 else devTarget) = devTarget
      then ((s.unlatch (.pf port)).stageFields port.val val).ownsG (.pf port)
      else ((s.unlatch (.pf port)).stageFields port.val val).ownsC (.pf port) (if val.toNat.testBit 1 then bf val 2 4 else devTarget)) = true :=
    howns
  have hbundle' : (s.unlatch (.pf port)).boot.bundle = true := hbundle
  have hgo' : ((s.unlatch (.pf port)).stager port.val).go = false := hgo
  have hu' : ((s.unlatch (.pf port)).stageFields port.val val).stageGo port.val (if val.toNat.testBit 1 then bf val 2 4 else devTarget)
    (bf val 32 23) = (u, 0) := hu
  rw [State.stageFields] at howns' hu'
  refine congrArg Host.Outcome.next ?_
  simp only [stepCfgStage, hbundle', hgo', hbit, howns', hu', Nat.not_lt.mpr hlen, Bool.not_true, Bool.or_self, Bool.false_eq_true, if_false]

end

/-- A staging starts into a bank that nothing holds. -/
theorem State.stageGo_starts {n t len : Nat} (hready : t = 16 ∨ s.boot.readyClusters.testBit t = true) (hshadow : (s.bank t).shadow ≠ 1)
    (hswaps : ∀ w ∈ s.cfg.swaps, w.target ≠ t) (hfree : s.arbitrate 8 (bankTarget t) = .proceed) : ∃ v : State,
      v.cfg.status = (s.updBank t (fun b => { b with shadow := 1, byBelfry := n == 4 })).cfg.status ∧
      s.stageGo n t len = (v.updStager n (fun x => { x with go := true, bankNow := t, lenNow := len }), 0) := by
  have hthere : ¬ (t != devTarget && !s.boot.readyClusters.testBit t) = true := by
    rcases hready with rfl | h
    · simp [devTarget]
    · simp [h]
  have hunused : ¬ ((s.bank t).shadow == 1 || s.cfg.swaps.any (fun w => w.target == t)) = true := by
    simpa using ⟨hshadow, hswaps⟩
  have hproceed : ¬ (s.arbitrate 8 (bankTarget t) != .proceed) = true := by simp [hfree]
  refine ⟨_, ?_, (if_neg hthere).trans ((if_neg hunused).trans (if_neg hproceed))⟩
  split <;> rfl

/-! SECURE (17 R394, R408). -/

theorem exec_secure_on {val : Dword} (hbundle : s.boot.bundle = true) (howns : s.ownsG (.pf port) = true) (hbit : val.toNat.testBit 0 = true) :
    exec (.secure (.pf port) val) s =
      .next { s.unlatch (.pf port) with cfg := { (s.unlatch (.pf port)).cfg with secure := true } } :=
  congrArg Host.Outcome.next ((State.gateG_open_owner (s := s.unlatch (.pf port)) (.inl hbundle)
    ((State.unlatch_ownsG ..).trans howns) _ _ _).trans (if_pos hbit))

/-! Validation (17 R395, R402). -/

/-- The staging of a port has ended with a status. -/
def State.staged (s : State) (p st : Nat) : State := s.updStager p (fun x => { x with go := false, result := st })

/-- A bank holds a valid image that is not in force. -/
def State.bankValid (s : State) (t : Nat) : State := s.updBank t (fun b => { b with shadow := 2, lastStatus := St.completed })

theorem State.bankValid_shadow (s : State) (t : Nat) : ((s.bankValid t).bank t).shadow = 2 := by
  rw [State.bankValid, State.updBank_bank_same]

/-- The device-level shadow, and a cluster's. -/
def State.keepDevice (s : State) (d : Option DeviceCfg) : State := { s with cfg := { s.cfg with devShadow := d } }
def State.keepCluster (s : State) (t : Nat) (g : ClusterCfg) : State :=
  { s with cfg := { s.cfg with clusterShadows := tset s.cfg.clusterShadows t g } }

section
variable {t st : Nat} {d : Option DeviceCfg} {g : Option ClusterCfg} (hgo : (s.stager port.val).go = true)
  (ht : (s.stager port.val).bankNow = t)
include hgo ht

theorem exec_validationComplete_fails (hv : s.validate t (mbytes (s.stager port.val).buf 0 (s.stager port.val).lenNow) = (st, d, g)) (hst : st ≠ 0) :
    exec (.validationComplete port.val) s =
      .next (((s.staged port.val st).updBank t (fun b => { b with shadow := 3, lastStatus := st })).advanceSwap t) := by
  have hport : port.val ≠ 4 := Nat.ne_of_lt port.isLt
  refine congrArg Host.Outcome.next ?_
  simp only [stepValidationComplete, hgo, ht, hv, hst, hport, Bool.not_true, Bool.false_eq_true, if_false, bne_iff_ne, ne_eq, not_false_iff, if_true]
  rfl

theorem exec_validationComplete_device (hv : s.validate 16 (mbytes (s.stager port.val).buf 0 (s.stager port.val).lenNow) = (0, d, g))
    (hdev : t = 16) : exec (.validationComplete port.val) s =
      .next ((((s.staged port.val St.completed).keepDevice d).bankValid 16).advanceSwap 16) := by
  subst hdev
  have hport : port.val ≠ 4 := Nat.ne_of_lt port.isLt
  refine congrArg Host.Outcome.next ?_
  simp only [stepValidationComplete, hgo, ht, hv, hport, Bool.not_true, Bool.false_eq_true, if_false, bne_self_eq_false, if_true]
  rfl

theorem exec_validationComplete_cluster {v : ClusterCfg}
    (hv : s.validate t (mbytes (s.stager port.val).buf 0 (s.stager port.val).lenNow) = (0, d, some v)) (hcl : t < 16) :
    exec (.validationComplete port.val) s =
      .next ((((s.staged port.val St.completed).keepCluster t v).bankValid t).advanceSwap t) := by
  have hport : port.val ≠ 4 := Nat.ne_of_lt port.isLt
  have hdev : t ≠ devTarget := Nat.ne_of_lt hcl
  refine congrArg Host.Outcome.next ?_
  simp only [stepValidationComplete, hgo, ht, hv, hport, hdev, Bool.not_true, Bool.false_eq_true, if_false, bne_self_eq_false, if_true]
  rfl

end

end

/-- Settles O31: windows, stagings and validations, each by the rule of its case. -/
theorem stagingAndValidation : Obligations.StagingAndValidation := by
  intro s port
  refine ⟨fun off data hin hbundle hgo => ⟨_, exec_stagingWindowWrite_config hin hbundle hgo, ?_, rfl, rfl, fun n hn => ?_⟩,
    fun off data hin hgo => ⟨_, exec_stagingWindowWrite_firmware hin hgo, ?_, rfl⟩,
    fun val t hbundle hgo hlen hbit ht howns v u hv hu => ?_, fun s t len hready hshadow hswaps hfree => ?_,
    fun val hbundle howns hbit => ⟨_, exec_secure_on hbundle howns hbit, rfl, rfl, rfl⟩, fun t st d g hgo ht hv => ⟨fun hst => ?_, ?_, ?_⟩,
    fun val hbundle hgo hlen => exec_cfgStage_busy hbundle hlen hgo⟩
  · rw [State.updStager_stager_same]
    rfl
  · exact State.updStager_stager_ne _ _ hn
  · exact congrArg FwStager.buf (tget_tset_same _ _ _ _)
  · subst hv
    exact exec_cfgStage_go hbundle hlen hgo hbit ht howns hu
  · obtain ⟨v, hstatus, hgo⟩ := State.stageGo_starts (n := port.val) (len := len) hready hshadow hswaps hfree
    rw [hgo]
    refine ⟨rfl, by rw [State.updStager_stager_same], ?_⟩
    have hbank : (v.bank t) = (s.updBank t (fun b => { b with shadow := 1, byBelfry := port.val == 4 })).bank t := by
      rw [State.bank, hstatus, State.bank]
    exact (congrArg BankStatus.shadow hbank).trans (by rw [State.updBank_bank_same])
  · exact exec_validationComplete_fails hgo ht hv hst
  · rintro rfl rfl
    exact ⟨((s.staged port.val St.completed).keepDevice d).bankValid 16, rfl, rfl, State.bankValid_shadow _ _,
      exec_validationComplete_device hgo ht hv rfl⟩
  · rintro v rfl hcl rfl
    exact ⟨((s.staged port.val St.completed).keepCluster t v).bankValid t, tfind_tset_same _ _ _, rfl, State.bankValid_shadow _ _,
      exec_validationComplete_cluster hgo ht hv hcl⟩

end Sys2Proof.Machine
end

section
/-! SUPPORT. Firmware loads, components and their trace points, thread 3 and the thermal trip, one rule per case, and the statement about them
(18 R411-R416, R420, R424). -/
namespace Sys2Proof.Machine

section
variable {s : State}

/-! Loading a bundle (18 R412, R413). -/

@[simp] theorem State.updLoader_loader_same (s : State) (p : Nat) (f : FwStager → FwStager) : (s.updLoader p f).loader p = f (s.loader p) :=
  tget_tset_same _ _ _ _

/-- The bytes that a port staged become the bundle to verify. -/
def State.takeBundle (s : State) (p len : Nat) : State :=
  (fun t : State => { t with fw := { t.fw with store := mslice (s.loader p).buf 0 len 0, storeLen := len, loadBy := some p } })
    ((s.updLoader p (fun x => { x with len })).updLoader p (fun x => { x with go := true }))

theorem State.takeBundle_go (s : State) (p len : Nat) : ((s.takeBundle p len).loader p).go = true :=
  (congrArg FwStager.go ((s.updLoader p (fun x => { x with len })).updLoader_loader_same p (fun x => { x with go := true })) :)

section
variable {port : Fin 4} {val : Dword} (hstage : s.boot.done.testBit 1 = true) (hgo : (s.loader port.val).go = false)
  (hlen : bf val 32 25 ≤ 16777216) (hbit : val.toNat.testBit 0 = true)
include hstage hgo hlen hbit

theorem exec_fwLoad_takes (hbundle : s.boot.bundle = false) (hfree : s.fw.loadBy = none) (hopen : s.stageOpen 3 0 = true) :
    exec (.fwLoad (.pf port) val) s = .next ((s.unlatch (.pf port)).takeBundle port.val (bf val 32 25)) := by
  refine congrArg Host.Outcome.next ((if_neg ?_).trans ((if_neg (Nat.not_lt.mpr hlen)).trans ((if_neg ?_).trans ((if_neg ?_).trans
    ((if_neg ?_).trans (if_pos ?_))))))
  · simpa using hstage
  · exact Bool.eq_false_iff.mp (Bool.or_eq_false_iff.mpr ⟨by simp [hbit], hgo⟩)
  · exact Bool.eq_false_iff.mp hbundle
  · exact Bool.eq_false_iff.mp (congrArg Option.isSome hfree)
  · exact hopen

theorem exec_fwLoad_late (hbundle : s.boot.bundle = true) : exec (.fwLoad (.pf port) val) s =
    .next (((s.unlatch (.pf port)).updLoader port.val (fun x => { x with len := bf val 32 25 })).updLoader port.val
      (fun x => { x with result := 0xE4 })) := by
  refine congrArg Host.Outcome.next ((if_neg ?_).trans ((if_neg (Nat.not_lt.mpr hlen)).trans ((if_neg ?_).trans (if_pos hbundle))))
  · simpa using hstage
  · exact Bool.eq_false_iff.mp (Bool.or_eq_false_iff.mpr ⟨by simp [hbit], hgo⟩)

end

/-- A bundle that fails its checks is dropped. -/
def State.dropBundle (s : State) (p st : Nat) : State :=
  ({ s with fw := { s.fw with loadBy := none, store := [], storeLen := 0 } } : State).updLoader p (fun x => { x with go := false, result := st })

theorem exec_fwVerified_fails {p st : Nat} (hby : s.fw.loadBy = some p) (hcheck : fwCheck s.fw.store s.fw.storeLen s.fw.svnFloor = st)
    (hst : st ≠ 0) : exec .fwVerified s = .next (s.dropBundle p st) := by
  subst hcheck
  refine congrArg Host.Outcome.next ?_
  simp only [stepFwVerified, hby, bne_iff_ne, ne_eq, hst, not_false_iff, if_true]
  rfl

/-! Components and their trace points (18 R414, R416, R420). -/

section
variable {comp cause : Nat} {pc : Word} {addr : BitVec 48} {trace : List (Fin 1024 × BitVec 96)}

/-- A component is down, and what it holds is dropped. -/
def State.takeDown (s : State) (comp : Nat) (times : List Nat) : State :=
  (compSet comp).foldl (fun s n => s.holdComp n) { s with fw := { s.fw with
    times := tset s.fw.times comp times, down := (s.fw.down ++ compSet comp).eraseDups } }

theorem exec_componentTrap_up (hcomp : comp < 304) (hbundle : s.boot.bundle = true) (hup : s.compDown comp = false) {v u : State}
    {times : List Nat} (hv : s.tracePoints comp trace = v)
    (htimes : v.now :: (tget v.fw.times comp []).filter (fun t => decide (v.now < t + 60000000000)) = times)
    (hu : (v.takeDown comp times).logComp (comp / 16) (comp % 16) 0xE6 (if comp % 16 = 0 then 4 else cause) pc.toNat addr.toNat times.length = u) :
    exec (.componentTrap comp cause pc addr trace) s = .next (if 3 ≤ times.length then u.failComp comp else u) := by
  subst hv htimes hu
  refine congrArg Host.Outcome.next (if_neg ?_)
  simp [hbundle, hup, hcomp]

theorem exec_componentRestart_up (hdown : s.compDown comp = true) (hdead : comp ∉ s.fw.dead) (hsup : s.compDown (comp / 16 * 16) = false)
    (hcore : comp ≠ 33) (htiles : comp ≠ 34) : exec (.componentRestart comp) s = .next { s with fw := { s.fw with
      down := s.fw.down.filter (fun n => !(compSet comp).contains n || s.fw.dead.contains n), restarts := satAdd 16 s.fw.restarts 1 } } := by
  refine congrArg Host.Outcome.next ((if_neg ?_).trans (if_neg ?_))
  · simp [hdown, hdead, hsup]
  · simp [hcore, htiles]

end

section
variable {comp n : Nat} {args : BitVec 96}

theorem State.tracePoint_off (h : s.pointOn n = false) : s.tracePoint comp n args = s := if_pos (by simp [h])

section
variable (hon : s.pointOn n = true) (hcore : pointCore n = min (comp / 16) 3)
include hon hcore

theorem State.tracePoint_dropped (h : 64 ≤ s.tracedNow comp) :
    s.tracePoint comp n args = { s with log := { s.log with traceDrop := satAdd 16 s.log.traceDrop 1 } } :=
  (if_neg (by simp [hon, hcore])).trans (if_pos h)

/-- One more trace entry of a component is counted. -/
def State.countTrace (s : State) (comp : Nat) : State :=
  { s with log := { s.log with traced := tset s.log.traced comp (s.now / 1000000, s.tracedNow comp + 1) } }

theorem State.tracePoint_logged (h : s.tracedNow comp < 64) : s.tracePoint comp n args =
    (s.countTrace comp).log_ 0x07 (coreCode (comp / 16)) (comp % 16) 16 (pack [(10, n), (22, 0), (96, args.toNat)]) :=
  (if_neg (by simp [hon, hcore])).trans (if_neg (Nat.not_le.mpr h))

end

/-- A record of 16 bytes is one entry. -/
theorem State.log_single (s : State) (typ core comp data : Nat) : (s.log_ typ core comp 16 data).log.ring =
    (logEntry typ core comp 0 0 (s.log.nextSeq % 2 ^ 32) s.now (data % 2 ^ 128) :: s.log.ring).take 32768 := by
  simp [State.log_, field]

theorem State.log_tracedNow (s : State) (typ core comp n data c : Nat) : (s.log_ typ core comp n data).tracedNow c = s.tracedNow c := rfl

theorem State.countTrace_tracedNow (s : State) (comp : Nat) : (s.countTrace comp).tracedNow comp = s.tracedNow comp + 1 := by
  have h : tget (s.countTrace comp).log.traced comp (0, 0) = (s.now / 1000000, s.tracedNow comp + 1) := tget_tset_same _ _ _ _
  rw [State.tracedNow, h]
  exact if_pos rfl

end

/-! Thread 3 of a tile (18 R415). -/

/-- Thread 3 of a tile starts again, with a fault of a given moment as its only one. -/
def State.restartService (s : State) (ta now : Nat) : State :=
  s.updTile ta (fun u => (u.updThread 3 (fun _ => Thread.reset)).updTest (fun y => { y with
    capture := none, faults3 := [now], service := mwriteBytes [] 0 (bundleParts s.fw.store 4) }))

theorem State.restartService_tile (s : State) (ta now : Nat) : ((s.restartService ta now).tile ta).thread 3 = Thread.reset ∧
    ((s.restartService ta now).tile ta).test.faults3 = [now] ∧ ((s.restartService ta now).tile ta).core.pad = (s.tile ta).core.pad := by
  rw [State.restartService, State.tile_updTile_same]
  exact ⟨Tile.updThread_same (s.tile ta) 3 (fun _ => Thread.reset), rfl, rfl⟩

theorem taC_tileKey (t : TileId) : taC (tileKey t) = t.c.val :=
  taC_taddr t.c.isLt t.x.isLt (Nat.lt_of_lt_of_le t.y.isLt (by decide))

theorem State.loseChecksOn_none {ta : Nat} (h : (s.clX (taC ta)).checks = []) : s.loseChecksOn ta = s := by
  rw [State.loseChecksOn, h]
  rfl

theorem exec_thread3Fault_first {t : TileId} (hfaults : (s.tile (tileKey t)).test.faults3 = [])
    (hcapture : (s.tile (tileKey t)).test.capture = none) (hchecks : (s.clX t.c.val).checks = []) (hslices : s.health.slices = [])
    (cause : Nat) (pc : Word) (addr : BitVec 48) : exec (.thread3Fault t cause pc addr) s =
      .next ((s.logComp (3 + t.c.val) 0 0xE6 5 pc.toNat addr.toNat 1).restartService (tileKey t) s.now) := by
  have hlose : ((s.logComp (3 + t.c.val) 0 0xE6 5 pc.toNat addr.toNat 1).restartService (tileKey t) s.now).loseChecksOn (tileKey t) =
      (s.logComp (3 + t.c.val) 0 0xE6 5 pc.toNat addr.toNat 1).restartService (tileKey t) s.now :=
    State.loseChecksOn_none (by rw [taC_tileKey]; exact hchecks)
  have hnone : ((s.logComp (3 + t.c.val) 0 0xE6 5 pc.toNat addr.toNat 1).restartService (tileKey t) s.now).health.slices = [] := hslices
  refine congrArg Host.Outcome.next ?_
  rw [State.restartService] at hlose hnone ⊢
  simp only [stepThread3Fault, hfaults, hcapture, List.filter_nil, List.length_singleton, Option.isSome_none, Bool.false_eq_true, if_false,
    hlose, hnone]
  rfl

/-! The thermal trip (18 R424). -/

theorem exec_thermalTrip_cool {temp : Nat} (h : temp < 105) : exec (.thermalTrip temp) s = .next s :=
  congrArg Host.Outcome.next (if_pos (by simp [h]))

theorem exec_thermalTrip_hot {temp : Nat} (hgood : s.boot.powerGood = true) (h : 105 ≤ temp) : exec (.thermalTrip temp) s =
    .next ((({ s with smbus := { s.smbus with causes := s.smbus.causes ||| 2, junction := temp % 256 } }.event 0xE9 0).emit
      (.alert true)).orderChipReset true).1 :=
  congrArg Host.Outcome.next (if_neg (by simp [hgood, Nat.not_lt.mpr h]))

end

/-- Settles O34: loads, components, trace points, thread 3 and the thermal trip, each by the rule of its case. -/
theorem firmwareAndComponents : Obligations.FirmwareAndComponents := by
  intro s
  refine ⟨fun port val hstage hgo hlen hbit => ⟨fun hbundle hfree hopen => ?_, fun hbundle => ?_⟩, fun p st hby hcheck hst => ?_,
    fun comp cause pc addr trace times v u hcomp hbundle hup hv htimes hu => ?_,
    fun comp n args => ⟨State.tracePoint_off, fun hon hcore => ⟨fun h => ?_, fun h => ?_⟩⟩,
    fun comp hdown hdead hpart hsup hcore htiles => ?_, fun t cause pc addr hfaults hcapture hchecks hslices => ?_,
    fun temp hgood h => exec_thermalTrip_hot hgood h, fun temp h => exec_thermalTrip_cool h⟩
  · exact ⟨_, exec_fwLoad_takes hstage hgo hlen hbit hbundle hfree hopen, State.takeBundle_go _ _ _, rfl, rfl, rfl, rfl⟩
  · refine ⟨_, exec_fwLoad_late hstage hgo hlen hbit hbundle, ?_, rfl⟩
    rw [State.updLoader_loader_same]
  · refine ⟨_, exec_fwVerified_fails hby hcheck hst, ?_, ?_, rfl, rfl, rfl, rfl⟩ <;> rw [State.dropBundle, State.updLoader_loader_same]
  · rw [exec_componentTrap_up hcomp hbundle hup hv htimes hu]
    exact ⟨fun h => congrArg _ (if_neg (Nat.not_le.mpr h)), fun h => congrArg _ (if_pos h)⟩
  · rw [State.tracePoint_dropped hon hcore h]
    exact ⟨rfl, rfl⟩
  · rw [State.tracePoint_logged hon hcore h]
    exact ⟨State.log_single _ _ _ _ _, State.countTrace_tracedNow s comp, rfl, rfl⟩
  · refine ⟨_, exec_componentRestart_up hdown hdead hsup hcore htiles, ?_, rfl, rfl, rfl⟩
    simp [State.compDown, compSet, hpart, hdead]
  · obtain ⟨hthread, hfault, hpad⟩ :=
      (s.logComp (3 + t.c.val) 0 0xE6 5 pc.toNat addr.toNat 1).restartService_tile (tileKey t) s.now
    exact ⟨_, exec_thread3Fault_first hfaults hcapture hchecks hslices cause pc addr, hthread, hfault, hpad, rfl⟩

end Sys2Proof.Machine
end

section
/-! SUPPORT. The hard signals, the power input, rails and coolant, one rule per case, and the statement about them (20 R465, 21 R472-R483). -/
namespace Sys2Proof.Machine

/-- States that differ in the ring alone agree in whatever does not see it. -/
theorem State.eq_of_withRing {α : Type} {s u : State} (g : State → α) (hg : ∀ (s : State) (r : Ring), g (s.withRing r) = g s)
    (h : ∀ r, u.withRing r = s.withRing r) : g u = g s := by
  rw [← hg u s.ring, h, hg]

/-- Closing a bypass touches the ring only. -/
theorem State.closeBypass_withRing (s : State) (r : Nat) (q : Ring) : (s.closeBypass r).withRing q = s.withRing q := by
  have hport : ∀ (s : State) (p : Nat), ((s.loseLink p).updRport p (fun q => { q with bypassOpen := false })).withRing q = s.withRing q :=
    fun s p => (State.updRport_withRing ..).trans (s.loseLink_withRing p q)
  exact (hport _ (2 * r + 1)).trans (hport s (2 * r))

section
variable {s : State}

/-! The power sequence (21 R480, R481). -/

theorem State.powerUp_may (h : s.mayPowerUp = true) :
    s.powerUp = ({ s with pwr := { s.pwr with on := true, vinShut := false } } : State).emit (.pin 0 true) := if_pos h

theorem State.powerUp_not (h : s.mayPowerUp = false) : s.powerUp = s := if_neg (Bool.eq_false_iff.mp h)

/-- What the power input must be for the rails to come up. -/
def State.inputGood (s : State) : Prop :=
  4400 ≤ s.pwr.vin ∧ s.pwr.vin ≤ 5600 ∧ (s.pwr.vinShut = false ∨ (s.pwr.vinBand = 0 ∧ 10000000 ≤ s.pwr.vinNs))

theorem State.mayPowerUp_iff : s.mayPowerUp = true ↔ s.pwr.pwrEn = true ∧ s.pwr.on = false ∧ s.pwr.offAt = none ∧ s.inputGood := by
  simp only [State.mayPowerUp, State.inputGood, Bool.and_eq_true, Bool.or_eq_true, Bool.not_eq_true', beq_iff_eq, decide_eq_true_eq,
    Option.isNone_iff_eq_none]
  tauto

theorem State.powerUp_on (s : State) : s.powerUp.pwr.on = true ↔ s.pwr.on = true ∨ s.mayPowerUp = true := by
  cases h : s.mayPowerUp
  · rw [State.powerUp_not h]; simp
  · rw [State.powerUp_may h]; simp [State.emit]

theorem State.powerUp_offAt (s : State) : s.powerUp.pwr.offAt = s.pwr.offAt := by
  cases h : s.mayPowerUp
  · rw [State.powerUp_not h]
  · rw [State.powerUp_may h]; rfl

/-- What a power-off leaves. -/
theorem State.powerOff_effect (s : State) : s.powerOff.pwr = { s.pwr with on := false, offAt := some s.now } ∧
    s.powerOff.boot.powerGood = false ∧ s.powerOff.mon = Monitor.reset := by
  have hring : ∀ q, ((s.closeBypass 0).closeBypass 1).withRing q = s.withRing q := fun q =>
    ((s.closeBypass 0).closeBypass_withRing 1 q).trans (s.closeBypass_withRing 0 q)
  have hpwr := State.eq_of_withRing State.pwr (fun _ _ => rfl) hring
  have hnow := State.eq_of_withRing State.now (fun _ _ => rfl) hring
  rw [← hpwr, ← hnow]
  exact ⟨rfl, rfl, rfl⟩

theorem exec_pwrEnRise_eq : exec .pwrEnRise s = .next ({ s with pwr := { s.pwr with pwrEn := true } } : State).powerUp := rfl

theorem exec_pwrEnFall_on (h : s.pwr.on = true) : exec .pwrEnFall s = .next ({ s with pwr := { s.pwr with pwrEn := false } } : State).powerOff :=
  congrArg Host.Outcome.next (if_pos h)

theorem exec_pwrEnFall_off (h : s.pwr.on = false) : exec .pwrEnFall s = .next { s with pwr := { s.pwr with pwrEn := false } } :=
  congrArg Host.Outcome.next (if_neg (Bool.eq_false_iff.mp h))

theorem exec_powerOffHoldEnd_held (h : s.pwr.offAt ≠ none) :
    exec .powerOffHoldEnd s = .next ({ s with pwr := { s.pwr with offAt := none } } : State).powerUp :=
  congrArg Host.Outcome.next (if_pos (Option.isSome_iff_ne_none.mpr h))

/-- The power-up sequence has started again at once. -/
def State.bounced (s : State) : State := ({ s with pwr := { s.pwr with on := true, offAt := none } } : State).emit (.pin 0 true)

theorem State.bounced_effect (s : State) : s.bounced.boot = s.boot ∧ s.bounced.pwr = { s.pwr with on := true, offAt := none } ∧
    s.bounced.mon = s.mon := ⟨rfl, rfl, rfl⟩

theorem exec_powerGoodLoss_good (h : s.boot.powerGood = true) : exec .powerGoodLoss s = .next s.powerOff.bounced :=
  congrArg Host.Outcome.next (if_pos h)

theorem exec_powerGoodLoss_bad (h : s.boot.powerGood = false) : exec .powerGoodLoss s = .next s :=
  congrArg Host.Outcome.next (if_neg (Bool.eq_false_iff.mp h))

/-! MOD_RST# (20 R465). -/

theorem exec_modRstLow_short {ns : Nat} (h : ns < 10000 ∨ s.boot.powerGood = false) : exec (.modRstLow ns) s = .next s := by
  refine congrArg Host.Outcome.next (if_pos ?_)
  rcases h with h | h <;> simp [h]

theorem exec_modRstLow_long {ns : Nat} (hns : 10000 ≤ ns) (hgood : s.boot.powerGood = true) {u : State}
    (hu : (({ s with pwr := { s.pwr with modRst := true } } : State).orderChipReset false).1 = u) (hclosed : u.stageOpen 1 0 = false) :
    exec (.modRstLow ns) s = .next u := by
  subst hu
  refine congrArg Host.Outcome.next ((if_neg ?_).trans (if_neg (Bool.eq_false_iff.mp hclosed)))
  simp [hgood, Nat.not_lt.mpr hns]

/-! VIN (21 R476). -/

/-- One more sample of VIN, with the current limit that it gives. -/
def State.vinTaken (s : State) (v : Nat) : State :=
  (fun t : State => if t.pwr.ilimMs = t.now / 1000000 + 1 then t
    else { t with pwr := { t.pwr with ilim := t.iLimit, ilimMs := t.now / 1000000 + 1 } })
  { s with pwr := { s.pwr with
    vin := v % 65536, vinSamples := (v % 65536 :: s.pwr.vinSamples).take 100, vinBand := vinBandOf v, vinNs := s.vinHeld v } }

theorem exec_vinSample_eq (v : Nat) : exec (.vinSample v) s = .next ((s.vinTaken v).vinActs (vinBandOf v) (s.vinHeld v) s.pwr.vinNs) := rfl

theorem State.vinTaken_effect (s : State) {v : Nat} (hv : v < 65536) : (s.vinTaken v).pwr.vin = v ∧ (s.vinTaken v).pwr.vinBand = vinBandOf v ∧
    (s.vinTaken v).pwr.vinNs = s.vinHeld v ∧ (s.vinTaken v).pwr.on = s.pwr.on ∧ (s.vinTaken v).mem = s.mem := by
  have hmod : v % 65536 = v := Nat.mod_eq_of_lt hv
  simp only [State.vinTaken, hmod]
  split <;> exact ⟨rfl, rfl, rfl, rfl, rfl⟩

theorem State.vinActs_operating {n : Nat} (h : n < 10000000) (was : Nat) : s.vinActs 0 n was = s := by
  simp [State.vinActs, Nat.not_le.mpr h]

theorem State.vinActs_warning {n : Nat} (h : n < 1000000) (was : Nat) : s.vinActs 1 n was = s := by
  simp [State.vinActs, Nat.not_le.mpr h]

theorem State.vinActs_outside {n : Nat} (h : n < 100000) (was : Nat) : s.vinActs 2 n was = s := by
  simp [State.vinActs, Nat.not_le.mpr h]

theorem State.vinActs_shutdown {n : Nat} (h : 100000 ≤ n) (hon : s.pwr.on = true) (was : Nat) :
    s.vinActs 2 n was = { s.powerOff with pwr := { s.powerOff.pwr with vinShut := true } } := by
  rw [State.vinActs, if_pos rfl, if_pos (by simp [h, hon])]

/-! Rails and coolant (21 R479, R483). -/

theorem exec_railFault_short {rail ns : Nat} (h : ns < 100000) : exec (.railFault rail ns) s = .next s :=
  congrArg Host.Outcome.next (if_pos (by simp [h]))

theorem exec_railFault_long {rail ns : Nat} (hlow : 2 ≤ rail) (hhigh : rail ≤ 54) (hgood : s.boot.powerGood = true) (h : 100000 ≤ ns) :
    exec (.railFault rail ns) s = .next (((({ s with pwr := { s.pwr with railEvt := true, rail } } : State).event 0xDC rail).logPower
      0 true 0 0 0xDC 0).orderChipReset true).1 :=
  congrArg Host.Outcome.next (if_neg (by simp [hgood, Nat.not_lt.mpr hlow, Nat.not_lt.mpr hhigh, Nat.not_lt.mpr h]))

/-- The coolant temperatures. -/
def State.coolantTaken (s : State) (inlet outlet : Nat) : State :=
  { s with pwr := { s.pwr with inlet := inlet % 256, outlet := outlet % 256 } }

theorem exec_coolantRange_eq (inlet outlet : Nat) : exec (.coolantRange inlet outlet) s =
    .next (((s.coolantTaken inlet outlet).coolantReport (inletBad inlet && !(inletBad s.pwr.inlet && s.pwr.inlet != 0))).coolantReport
      (outletBad outlet && !outletBad s.pwr.outlet)) := rfl

theorem State.coolantReport_none (s : State) : s.coolantReport false = s := rfl

theorem State.coolantReport_some (hgood : s.boot.powerGood = true) : s.coolantReport true =
    (({ s with pwr := { s.pwr with coolantEvt := true } } : State).event 0xDB 0).logPower 0 true 0 0 0xDB 0 := if_pos (by simp [hgood])

theorem inletBad_iff {t : Nat} : inletBad t = true ↔ t < 15 ∨ 42 < t := by simp [inletBad]

theorem outletBad_iff {t : Nat} : outletBad t = true ↔ 65 < t := by simp [outletBad]

theorem exec_coolantRange_quiet {inlet outlet : Nat} (hin : (inletBad inlet && !(inletBad s.pwr.inlet && s.pwr.inlet != 0)) = false)
    (hout : (outletBad outlet && !outletBad s.pwr.outlet) = false) : exec (.coolantRange inlet outlet) s = .next (s.coolantTaken inlet outlet) := by
  rw [exec_coolantRange_eq, hin, hout]
  rfl

/-- One of the two is out of range now and was not before. -/
theorem exec_coolantRange_reported {inlet outlet : Nat} (hgood : s.boot.powerGood = true)
    (h : (inletBad inlet && !(inletBad s.pwr.inlet && s.pwr.inlet != 0)) ≠ (outletBad outlet && !outletBad s.pwr.outlet)) :
    exec (.coolantRange inlet outlet) s = .next (({ s.coolantTaken inlet outlet with
      pwr := { (s.coolantTaken inlet outlet).pwr with coolantEvt := true } } : State).event 0xDB 0 |>.logPower 0 true 0 0 0xDB 0) := by
  have hgood' : (s.coolantTaken inlet outlet).boot.powerGood = true := hgood
  rw [exec_coolantRange_eq]
  cases hin : (inletBad inlet && !(inletBad s.pwr.inlet && s.pwr.inlet != 0)) <;>
    cases hout : (outletBad outlet && !outletBad s.pwr.outlet) <;> simp only [hin, hout, ne_eq, not_true] at h
  · rw [State.coolantReport_none, State.coolantReport_some hgood']
  · rw [State.coolantReport_none, State.coolantReport_some hgood']

end

/-- Settles O46: each signal by the rule of its case. -/
theorem physicalSignals : Obligations.PhysicalSignals := by
  intro s
  refine ⟨fun ns => ⟨exec_modRstLow_short, fun hns hgood u hu hclosed => exec_modRstLow_long hns hgood hu hclosed⟩,
    fun h => congrArg Host.Outcome.next (if_pos h), fun h => congrArg Host.Outcome.next (if_neg (Bool.eq_false_iff.mp h)),
    fun hoff hheld hlow hhigh hband => ?_, fun hoff hout => ?_, ?_, fun hheld => ?_, fun v hv => ?_,
    fun b n was => ⟨?_, ?_, ?_, ?_⟩, fun rail ns hlow hhigh hgood => ⟨exec_railFault_short, exec_railFault_long hlow hhigh hgood⟩,
    fun inlet outlet hlow hhigh hout => ?_, ?_, fun hgood => ?_, exec_powerGoodLoss_bad⟩
  · have hmay : ({ s with pwr := { s.pwr with pwrEn := true } } : State).mayPowerUp = true :=
      State.mayPowerUp_iff.mpr ⟨rfl, hoff, hheld, hlow, hhigh, hband⟩
    refine ⟨_, exec_pwrEnRise_eq, ?_⟩
    rw [State.powerUp_may hmay]
    exact ⟨rfl, rfl, rfl, rfl, rfl⟩
  · have hmay : ({ s with pwr := { s.pwr with pwrEn := true } } : State).mayPowerUp = false := by
      refine Bool.eq_false_iff.mpr fun h => ?_
      obtain ⟨-, -, -, hlow, hhigh, -⟩ := State.mayPowerUp_iff.mp h
      rcases hout with h | h <;> exact absurd h (Nat.not_lt.mpr ‹_›)
    refine ⟨_, exec_pwrEnRise_eq, ?_⟩
    rw [State.powerUp_not hmay]
    exact ⟨hoff, rfl, rfl⟩
  · cases hon : s.pwr.on
    · exact ⟨_, exec_pwrEnFall_off hon, rfl, hon, fun h => absurd h (by simp)⟩
    · obtain ⟨hpwr, hgood, hmon⟩ := State.powerOff_effect { s with pwr := { s.pwr with pwrEn := false } }
      exact ⟨_, exec_pwrEnFall_on hon, by rw [hpwr], by rw [hpwr], fun _ => ⟨hgood, by rw [hpwr], hmon⟩⟩
  · refine ⟨_, exec_powerOffHoldEnd_held hheld, State.powerUp_offAt _, (State.powerUp_on _).trans ?_⟩
    rw [State.mayPowerUp_iff]
    simp only [State.inputGood]
    cases s.pwr.on <;> simp
  · exact ⟨_, exec_vinSample_eq v, State.vinTaken_effect s hv⟩
  · rintro rfl h
    exact State.vinActs_operating h was
  · rintro rfl h
    exact State.vinActs_warning h was
  · rintro rfl h
    exact State.vinActs_outside h was
  · rintro rfl h hon
    obtain ⟨hpwr, hgood, -⟩ := s.powerOff_effect
    exact ⟨_, State.vinActs_shutdown h hon was, by rw [hpwr], rfl, by rw [hpwr], hgood⟩
  · have hin : inletBad inlet = false := Bool.eq_false_iff.mpr fun h => by have := inletBad_iff.mp h; omega
    have hout' : outletBad outlet = false := Bool.eq_false_iff.mpr fun h => by have := outletBad_iff.mp h; omega
    exact ⟨_, exec_coolantRange_quiet (by rw [hin]; rfl) (by rw [hout']; rfl), rfl, rfl, rfl, rfl, rfl⟩
  · rintro inlet outlet _ hgood h rfl
    refine exec_coolantRange_reported hgood fun heq => ?_
    rw [Bool.eq_iff_iff] at heq
    simp only [Bool.and_eq_true, Bool.not_eq_true', ← Bool.not_eq_true, inletBad_iff, outletBad_iff, bne_iff_ne] at heq
    omega
  · obtain ⟨-, hoff, hmon⟩ := s.powerOff_effect
    obtain ⟨hboot, hpwr, hmon'⟩ := s.powerOff.bounced_effect
    exact ⟨_, exec_powerGoodLoss_good hgood, by rw [hboot, hoff], by rw [hpwr], by rw [hpwr], hmon'.trans hmon⟩

end Sys2Proof.Machine
end

section
/-! SUPPORT. Commands that leave memory, tiles, batteries, contexts and descriptors alone, and the statement about them (19 R436, R437, 20 R451-R468,
21 R480, R481). -/
namespace Sys2Proof.Machine

/-- What a command may store to: memory, the tiles, the batteries, the contexts and the descriptors. -/
def State.stored (s : State) : MemSys × Tbl Tile × Tbl Battery × Tbl Ctx × Tbl Desc := (s.mem, s.tiles, s.bats, s.ctxs, s.descs)

section
variable {s : State}

/-! The parts that the commands are made of. -/

theorem State.stored_ite {c : Prop} [Decidable c] {t u : State} (ht : t.stored = s.stored) (hu : u.stored = s.stored) :
    (if c then t else u).stored = s.stored := by
  split <;> assumption

theorem State.emit_stored (e : OutEvent) : (s.emit e).stored = s.stored := rfl

theorem State.unlatch_stored (fn : Fn) : (s.unlatch fn).stored = s.stored := by cases fn <;> rfl

theorem State.refuseG_stored (fn : Fn) (off reason val : Nat) : (s.refuseG fn off reason val).stored = s.stored := rfl

theorem State.smbusSay_stored (n v : Nat) : (s.smbusSay n v).stored = s.stored := State.stored_ite rfl rfl

theorem State.powerUp_stored : s.powerUp.stored = s.stored := State.stored_ite rfl rfl

theorem State.bfSend_stored (typ : Nat) (resp ack : Bool) (seq ref : Nat) (payload : List Byte) :
    (s.bfSend typ resp ack seq ref payload).stored = s.stored := (congrArg State.stored (s.bfSend_frame typ resp ack seq ref payload) :)

theorem State.loseLink_stored (p : Nat) : (s.loseLink p).stored = s.stored :=
  State.eq_of_withRing State.stored (fun _ _ => rfl) (s.loseLink_withRing p)

theorem State.closeBypass_stored (r : Nat) : (s.closeBypass r).stored = s.stored :=
  State.eq_of_withRing State.stored (fun _ _ => rfl) (s.closeBypass_withRing r)

theorem State.openBypass_stored (r : Nat) : (s.openBypass r).stored = s.stored := State.stored_ite rfl rfl

/-- A command of the monitor stores what its own action does. -/
theorem State.monCmd_stored {level : Nat} {act : State → State} (h : (act s.monInput).stored = s.stored) :
    (s.monCmd level act).stored = s.stored := State.stored_ite rfl (State.stored_ite rfl h)

/-! SMBus and the monitor (20 R463-R468). -/

theorem exec_smbus_stored {u : State} {n len : Nat} {flag : Bool} {byte : Byte} {e : Instr} (he : e ∈ [
      Instr.smbusStatusRead, Instr.alertCauses flag byte, Instr.smbusInputVoltageRead, Instr.smbusInputCurrentRead, Instr.smbusInputPowerRead,
      Instr.smbusJunctionRead, Instr.smbusCoolantRead flag, Instr.smbusReadyRead, Instr.smbusIdentityRead, Instr.fruEepromRead n len,
      Instr.alertResponse]) (h : exec e s = .next u) : u.stored = s.stored := by
  simp only [List.mem_cons, List.not_mem_nil, or_false] at he
  rcases he with rfl | rfl | rfl | rfl | rfl | rfl | rfl | rfl | rfl | rfl | rfl <;> obtain rfl := Host.Outcome.next.inj h
  case inr.inl => exact State.stored_ite rfl (State.stored_ite (State.smbusSay_stored _ _) (State.stored_ite rfl rfl))
  case inr.inr.inr.inr.inr.inr.inr.inr.inr.inl => exact State.stored_ite rfl rfl
  case inr.inr.inr.inr.inr.inr.inr.inr.inr.inr => exact State.stored_ite rfl (State.smbusSay_stored _ _)
  all_goals exact State.smbusSay_stored _ _

theorem exec_monitor_stored {u : State} {n : Nat} {token : List Byte} {e : Instr} (he : e ∈ [
      Instr.monitorVer, Instr.monitorStage, Instr.monitorChallenge, Instr.monitorUnlock token, Instr.monitorLock, Instr.monitorLog n,
      Instr.monitorFp, Instr.monitorLedger n, Instr.monitorPeek n, Instr.monitorRelock, Instr.unlockBackoffEnd]) (h : exec e s = .next u) :
    u.stored = s.stored := by
  simp only [List.mem_cons, List.not_mem_nil, or_false] at he
  rcases he with rfl | rfl | rfl | rfl | rfl | rfl | rfl | rfl | rfl | rfl | rfl <;> obtain rfl := Host.Outcome.next.inj h
  · exact State.stored_ite rfl rfl
  · exact State.stored_ite rfl rfl
  · exact State.monCmd_stored rfl
  · exact State.monCmd_stored (State.stored_ite rfl (State.stored_ite rfl rfl))
  · exact State.monCmd_stored rfl
  · exact State.monCmd_stored (State.stored_ite rfl rfl)
  · exact State.monCmd_stored rfl
  · exact State.monCmd_stored (State.stored_ite rfl (State.stored_ite rfl rfl))
  · exact State.monCmd_stored rfl
  · exact State.stored_ite rfl rfl
  · exact State.stored_ite rfl rfl

/-! Host ports and management ports (20 R451-R457, R459). -/

theorem exec_hostPort_stored {u : State} {port : Fin 4} {f : Fin 17} {w : Fin 16} {n : Nat} {flag : Bool} {val : Dword} {word : Word}
    {e : Instr} (he : e ∈ [Instr.configurationRequest port f n flag word, Instr.msixUnmask port f n, Instr.bar2WindowBind port w val,
      Instr.resizableBarChange port n]) (h : exec e s = .next u) : u.stored = s.stored := by
  have hlatch := s.unlatch_stored (fnOf port f)
  simp only [List.mem_cons, List.not_mem_nil, or_false] at he
  rcases he with rfl | rfl | rfl | rfl <;> obtain rfl := Host.Outcome.next.inj h
  · exact State.stored_ite hlatch (State.stored_ite hlatch (State.stored_ite hlatch (State.stored_ite hlatch hlatch)))
  · exact State.stored_ite hlatch (State.stored_ite hlatch hlatch)
  · exact State.stored_ite rfl rfl
  · exact State.stored_ite rfl rfl

theorem exec_management_stored {u : State} {net : Fin 2} {n len : Nat} {flag : Bool} {bytes : List Byte} {mac : BitVec 128} {e : Instr}
    (he : e ∈ [Instr.managementPortLink net flag, Instr.neighborSolicitation net n, Instr.echoRequest net bytes,
      Instr.ack net ⟨n, len⟩ mac bytes]) (h : exec e s = .next u) : u.stored = s.stored := by
  simp only [List.mem_cons, List.not_mem_nil, or_false] at he
  rcases he with rfl | rfl | rfl | rfl <;> obtain rfl := Host.Outcome.next.inj h
  · exact State.stored_ite rfl (State.stored_ite rfl rfl)
  · exact State.stored_ite rfl rfl
  · exact State.stored_ite rfl rfl
  · exact State.stored_ite rfl (State.stored_ite rfl rfl)

theorem exec_report_stored {u : State} {e : Instr} (he : e ∈ [Instr.hello, Instr.reportResend]) (h : exec e s = .next u) :
    u.stored = s.stored := by
  simp only [List.mem_cons, List.not_mem_nil, or_false] at he
  rcases he with rfl | rfl <;> obtain rfl := Host.Outcome.next.inj h
  · exact State.stored_ite rfl (State.bfSend_stored ..)
  · exact State.stored_ite rfl (State.each_frame State.stored (fun _ _ => State.bfSend_stored ..) _)

/-! The ring and the power signals (19 R436, R437, 21 R480, R481). -/

theorem exec_ring_stored {u : State} {port : Fin 4} {flag : Bool} {ring : Fin 2} {e : Instr} (he : e ∈ [
      Instr.lossOfLink port, Instr.bypassClose ring, Instr.portReady port flag])
    (h : exec e s = .next u) : u.stored = s.stored := by
  simp only [List.mem_cons, List.not_mem_nil, or_false] at he
  rcases he with rfl | rfl | rfl <;> obtain rfl := Host.Outcome.next.inj h
  · exact State.loseLink_stored _
  · exact State.stored_ite rfl (State.closeBypass_stored _)
  · exact State.stored_ite ((State.openBypass_stored _).trans rfl) (State.stored_ite rfl rfl)

theorem exec_power_stored {u : State} {e : Instr} (he : e ∈ [Instr.pwrEnRise, Instr.powerOffHoldEnd]) (h : exec e s = .next u) :
    u.stored = s.stored := by
  simp only [List.mem_cons, List.not_mem_nil, or_false] at he
  rcases he with rfl | rfl <;> obtain rfl := Host.Outcome.next.inj h
  · exact State.powerUp_stored.trans rfl
  · exact State.stored_ite (State.powerUp_stored.trans rfl) rfl

end

/-- Settles O56: group by group. -/
theorem nonStoringFrame : Obligations.NonStoringFrame := by
  intro s u port f w net n len flag val word byte bytes mac token ring e he h
  have hstored : u.stored = s.stored := by
    replace he : e ∈ [
      Instr.smbusStatusRead, Instr.alertCauses flag byte, Instr.smbusInputVoltageRead, Instr.smbusInputCurrentRead, Instr.smbusInputPowerRead,
      Instr.smbusJunctionRead, Instr.smbusCoolantRead flag, Instr.smbusReadyRead, Instr.smbusIdentityRead, Instr.fruEepromRead n len,
      Instr.alertResponse] ++ ([
      Instr.monitorVer, Instr.monitorStage, Instr.monitorChallenge, Instr.monitorUnlock token, Instr.monitorLock, Instr.monitorLog n,
      Instr.monitorFp, Instr.monitorLedger n, Instr.monitorPeek n, Instr.monitorRelock, Instr.unlockBackoffEnd] ++ ([
      Instr.configurationRequest port f n flag word, Instr.msixUnmask port f n, Instr.bar2WindowBind port w val,
      Instr.resizableBarChange port n] ++ ([
      Instr.managementPortLink net flag, Instr.neighborSolicitation net n, Instr.echoRequest net bytes, Instr.ack net ⟨n, len⟩ mac bytes] ++ ([
      Instr.lossOfLink port, Instr.bypassClose ring, Instr.portReady port flag] ++ ([Instr.hello, Instr.reportResend] ++
      [Instr.pwrEnRise, Instr.powerOffHoldEnd]))))) := he
    simp only [List.mem_append] at he
    rcases he with he | he | he | he | he | he | he
    · exact exec_smbus_stored he h
    · exact exec_monitor_stored he h
    · exact exec_hostPort_stored he h
    · exact exec_management_stored he h
    · exact exec_ring_stored he h
    · exact exec_report_stored he h
    · exact exec_power_stored he h
  simp only [State.stored, Prod.mk.injEq] at hstored
  obtain ⟨hmem, htiles, hbats, hctxs, hdescs⟩ := hstored
  exact ⟨fun a => by rw [hmem], htiles, hbats, hctxs, hdescs⟩

end Sys2Proof.Machine
end
